-- ==== Sys2Proof/Word.lean ====
section
/-! DEFINITION. The words of the J40: units of data (R2), lane masks (R43), addresses. -/

namespace Sys2Proof

/-- A byte (R2). -/
abbrev Byte := BitVec 8
/-- A 32-bit word (R2). -/
abbrev Word := BitVec 32
/-- A 64-bit double (R2). -/
abbrev Dbl := BitVec 64
/-- A lane mask: bit i is lane i (R43). -/
abbrev Mask := BitVec 32
/-- A program counter (R148). -/
abbrev Pc := BitVec 57
/-- The contents of a 64-byte line, byte n in bits 8n+7 to 8n (R2). -/
abbrev LineBits := BitVec 512
/-- One 32-bit value for each of the 32 lanes of a strand (R42). -/
abbrev Lanes := Vector Word 32

/-- The value of lane `l`, 0 outside 0 to 31. -/
def Lanes.at (v : Lanes) (l : Nat) : Word := if h : l < 32 then v[l] else 0

/-- The same value in every lane. -/
def Lanes.all (w : Word) : Lanes := Vector.replicate 32 w

/-- Lane by lane. -/
def Lanes.of (f : Nat → Word) : Lanes := Vector.ofFn fun i : Fin 32 => f i.val

/-- A mask built bit by bit. -/
def Mask.of (p : Nat → Bool) : Mask :=
  BitVec.ofNat 32 ((List.range 32).foldl (fun acc i => if p i then acc + 2 ^ i else acc) 0)

/-- The lanes of a mask in ascending order. -/
def Mask.lanes (m : Mask) : List Nat := (List.range 32).filter fun i => m.getLsbD i

/-- The lowest lane of a mask (32 when it is empty). -/
def Mask.lowest (m : Mask) : Nat := (Mask.lanes m).headD 32

/-- The number of set bits. -/
def Mask.count (m : Mask) : Nat := (Mask.lanes m).length

end Sys2Proof
end

