-- ==== Sys2Proof/Machine/Tab.lean ====
section
/-! DEFINITION. Sparse tables with a default, kept in ascending key order with no default-valued entry, and the bit-field and byte-order helpers. -/

namespace Sys2Proof

/-- A sparse table: keys rise, and no entry holds the table's default. -/
abbrev Tab (α : Type) := List (Nat × α)

/-- The entry at `i`, or the default `d`. -/
def Tab.get {α : Type} (d : α) : Tab α → Nat → α
  | [], _ => d
  | (k, v) :: t, i => if k = i then v else Tab.get d t i

/-- A table with no entry at `i`. -/
def Tab.del {α : Type} : Tab α → Nat → Tab α
  | [], _ => []
  | (k, v) :: t, i => if k = i then Tab.del t i else (k, v) :: Tab.del t i

/-- An entry put in its place by ascending key. -/
def Tab.ins {α : Type} (i : Nat) (v : α) : Tab α → Tab α
  | [] => [(i, v)]
  | (k, w) :: t => if i < k then (i, v) :: (k, w) :: t else (k, w) :: Tab.ins i v t

/-- The table with the value `v` at `i`; writing the default removes the entry. -/
def Tab.put {α : Type} [DecidableEq α] (d : α) (t : Tab α) (i : Nat) (v : α) : Tab α :=
  if v = d then Tab.del t i else Tab.ins i v (Tab.del t i)

/-- The canonical form: keys strictly rising and no entry equal to the default. -/
def Tab.wf {α : Type} [DecidableEq α] (d : α) : Tab α → Bool
  | [] => true
  | [(_, v)] => decide (v ≠ d)
  | (k, v) :: (k', v') :: t => decide (v ≠ d) && decide (k < k') && Tab.wf d ((k', v') :: t)

/-- The keys that hold an entry. -/
def Tab.keys {α : Type} (t : Tab α) : List Nat := t.map Prod.fst

/-- Every listed entry changed by `f`; an entry that becomes the default is removed. -/
def Tab.mapVals {α : Type} [DecidableEq α] (d : α) (f : Nat → α → α) (t : Tab α) : Tab α :=
  (t.map fun (k, v) => (k, f k v)).filter fun (_, v) => decide (v ≠ d)

/-- Memory: bytes by address, 0 where none is listed (log entry 4). -/
abbrev Mem := Tab Byte

/-- One byte of memory. -/
def Mem.byte (m : Mem) (a : Nat) : Byte := Tab.get 0 m a

/-- One byte written. -/
def Mem.setByte (m : Mem) (a : Nat) (v : Byte) : Mem := Tab.put 0 m a v

/-- `n` bytes at `a`, little-endian (R2), as a number. -/
def Mem.read (m : Mem) (a : Nat) : Nat → Nat
  | 0 => 0
  | n + 1 => (Mem.byte m a).toNat + 256 * Mem.read m (a + 1) n

/-- The low `n` bytes of `v` written at `a`, little-endian (R2). -/
def Mem.write (m : Mem) (a : Nat) : Nat → Nat → Mem
  | 0, _ => m
  | n + 1, v => Mem.write (Mem.setByte m a (BitVec.ofNat 8 v)) (a + 1) n (v / 256)

/-- The bytes of `v` whose bit of `mask` is set, written at `a` onward: byte i when bit i is set. -/
def Mem.writeMasked (m : Mem) (a : Nat) (mask : Nat) (v : Nat) : Nat → Mem
  | 0 => m
  | n + 1 => Mem.writeMasked (if mask % 2 = 1 then Mem.setByte m a (BitVec.ofNat 8 v) else m) (a + 1) (mask / 2) (v / 256) n

/-- The canonical form of memory. -/
def Mem.wf (m : Mem) : Bool := Tab.wf 0 m

/-- The cells of a list written in order. -/
def Mem.writeCells (m : Mem) : List (Nat × Byte) → Mem
  | [] => m
  | (a, b) :: t => Mem.writeCells (Mem.setByte m a b) t

/-- `n` bytes at `a` as cells. -/
def Mem.cells (m : Mem) (a n : Nat) : List (Nat × Byte) := (List.range n).map fun i => (a + i, Mem.byte m (a + i))

/-- The cells that write the low `n` bytes of `v` at `a`. -/
def cellsOf (a : Nat) : Nat → Nat → List (Nat × Byte)
  | 0, _ => []
  | n + 1, v => (a, BitVec.ofNat 8 v) :: cellsOf (a + 1) n (v / 256)

/-- Bits `hi` down to `lo` of a number (R1). -/
def bits (x hi lo : Nat) : Nat := (x / 2 ^ lo) % 2 ^ (hi + 1 - lo)

/-- Bit `n` of a number (R1). -/
def bit (x n : Nat) : Bool := (x / 2 ^ n) % 2 = 1

/-- `x` sign-extended from `n` bits (helper functions, spec/00_scope.md). -/
def sx (x n : Nat) : Int := if x % 2 ^ n < 2 ^ (n - 1) then ((x % 2 ^ n : Nat) : Int) else ((x % 2 ^ n : Nat) : Int) - (2 ^ n : Nat)

/-- The low 32 bits of an integer. -/
def w32 (x : Int) : Word := BitVec.ofInt 32 x

/-- The low 64 bits of an integer. -/
def d64 (x : Int) : Dbl := BitVec.ofInt 64 x

/-- A word read as signed. -/
def sxw (x : Word) : Int := x.toInt

/-- A word as a 64-bit value, zero-extended. -/
def zx64 (x : Word) : Dbl := x.setWidth 64

/-- Two words as one double, `hi ‖ lo`. -/
def pair64 (hi lo : Word) : Dbl := hi ++ lo

/-- `m` rounded up to a multiple of `n`: Align of R49. -/
def alignUp (x n : Nat) : Nat := (x + n - 1) / n * n

/-- Rounded-up quotient. -/
def ceilDiv (x n : Nat) : Nat := (x + n - 1) / n

/-- The fields of a number replaced: bits `hi` down to `lo` of `x` become the low bits of `v`. -/
def setBits (x hi lo v : Nat) : Nat :=
  x - bits x hi lo * 2 ^ lo + (v % 2 ^ (hi + 1 - lo)) * 2 ^ lo

/-- The list with element `i` replaced by what `f` makes of it. -/
def updateAt {α : Type} (l : List α) (i : Nat) (f : α → α) : List α := l.mapIdx fun j x => if j = i then f x else x

/-- An element put before the first of a list that it does not come after. -/
def insertBy {α : Type} (le : α → α → Bool) (x : α) : List α → List α
  | [] => [x]
  | y :: t => if le x y then x :: y :: t else y :: insertBy le x t

/-- A list sorted by insertion. -/
def sortBy {α : Type} (le : α → α → Bool) (l : List α) : List α := l.foldr (insertBy le) []

/-- A Bool as a number. -/
def b2n (b : Bool) : Nat := if b then 1 else 0

end Sys2Proof
end

