-- ==== Sys2Proof/Syntax.lean ====
section
/-! DEFINITION. The syntax of the J40's steps: the fields of an instruction, and one constructor for each row of spec/opcode_table.json. The first 176 are machine instructions with the fields that R21 to R24 give them; the others are the steps of the device's agents (spec/95_what_each_step_holds.md), with what comes from outside as arguments (log entry 1). -/

namespace Sys2Proof

/-- The length of an instruction (R21): one, two or three words. -/
inductive Len | one | two | three
  deriving DecidableEq, Repr

/-- The fields of an instruction, words 0 to 2 (R21, R22, R23). A 32-bit instruction holds the expansion of R24. -/
structure Enc where
  len : Len
  i   : Bool
  b   : BitVec 7
  a   : BitVec 7
  d   : BitVec 7
  sub : BitVec 8
  ls  : BitVec 2
  qb  : BitVec 6
  tf  : BitVec 5
  g   : BitVec 4
  c   : BitVec 7
  w2  : Word
  deriving DecidableEq, Repr

/-- A strand of the package: package core (R9), comb slot (R324) and strand index (R49). Strand 32 names the core's matrix sequencer (R52). -/
structure Sid where
  core   : Nat
  slot   : Nat
  strand : Nat
  deriving DecidableEq, Repr

/-- Who waits for room in a queue level (R334, R335): a strand at a JOIN or PARK, or a released cell of a notify register. -/
inductive RoomSource | strand (w : Sid) | released (reg : Nat)
  deriving DecidableEq, Repr

/-- KIND of an extent (R343). -/
inductive LeaseKind | pool | shared | borrowed
  deriving DecidableEq, Repr

/-- STATE of an extent (R343). -/
inductive LeaseState | free | active | revoking | expired | revoked | failed
  deriving DecidableEq, Repr

/-- A lease table entry (R343); SIZE, BASE and BOFF in 2 MiB units, EXPIRY in ns of GT. -/
structure Lease where
  kind   : LeaseKind
  state  : LeaseState
  node   : Nat
  size   : Nat
  base   : Nat
  boff   : Nat
  expiry : Nat
  deriving DecidableEq, Repr

/-- The operation of an integer atomic (R229), with CAS (R238). -/
inductive AtomOp | add | and | or | xor | min | max | minu | maxu | xchg | incw | decw | cas
  deriving DecidableEq, Repr

/-- What a fabric request asks of its target (R379); a write carries the poison of its data (R202). -/
inductive FabKind
  | read
  | write (mask : Dbl) (data : LineBits) (poison : Bool)
  | reduced (op : AtomOp) (wide : Bool) (data : Dbl)
  | lanes (op : AtomOp) (wide : Bool) (data : List (Dbl × Dbl))
  | message (queue : Nat) (entry : LineBits)
  deriving DecidableEq, Repr

/-- A fabric request packet (R376, R379, R380). -/
structure FabRequest where
  src    : Nat
  tenant : BitVec 16
  seq    : Nat
  win    : Nat
  off    : Nat
  kind   : FabKind
  deriving DecidableEq, Repr

/-- What a response answers (R379): poison travels with the data (R202), and an atomic's target may be poisoned (R236). -/
inductive FabAnswer
  | data (line : LineBits) (poison : Bool)
  | ack
  | value (v : Dbl)
  | poisoned
  | result (v : Word)
  | refusal
  | retry
  deriving DecidableEq, Repr

/-- A fabric response packet with the epoch of its sender (R379, R381). -/
structure FabResponse where
  target : Nat
  seq    : Nat
  epoch  : Nat
  answer : FabAnswer
  deriving DecidableEq, Repr

/-- A packet on its way (R379): a request or a response, with the path in its header: the intermediate that it goes through, or none for the minimal path (R374). -/
inductive FabPacket
  | request (r : FabRequest) (via : Option Nat)
  | response (r : FabResponse) (via : Option Nat)
  deriving DecidableEq, Repr

/-- A limit notice of the accord (R396), a late notice (R398), a leave notice (R403), or the arrival notice of a sponsor, which names the joiner (R401). -/
structure Notice where
  dev     : Nat
  seq     : Nat
  limit   : Nat
  eff     : Nat
  late    : Bool
  leave   : Bool
  arrival : Option Nat
  deriving DecidableEq, Repr

/-- A heartbeat of the accord (R399). -/
structure Heartbeat where
  dev     : Nat
  seq     : Nat
  stamp   : Nat
  limit   : Nat
  pending : Option (Nat × Nat)
  deriving DecidableEq, Repr

/-- An entry of the limit table (R392); a pending limit with its effective time, and a pending leave (R403). -/
structure Member where
  dev     : Nat
  limit   : Nat
  pending : Option (Nat × Nat)
  leaving : Option Nat
  seq     : Nat
  stamp   : Nat
  deriving DecidableEq, Repr

/-- What a sponsor sends to a joiner (R401, R405): its table, and the rises of removed members' limits that are still held back (R399). -/
structure Snapshot where
  members : List Member
  rises   : List (Nat × Nat)
  deriving DecidableEq, Repr

/-- A TDISP request that moves a context between its states (R430). -/
inductive TdispReq | lock | start | stop | error
  deriving DecidableEq, Repr

/-- An SPDM message over DOE (R430, R431, R451). -/
inductive SpdmReq | establish (period : Nat) | heartbeat | endSession | getMeasurements
  deriving DecidableEq, Repr

/-- The agent that detects an uncorrectable error (R202): the HBM controller of a die, an L2 slice of a die, a CXL port by the number of its pool node or host, or the LM of a core. -/
inductive PoisonOrigin | hbm (die : Nat) | slice (die n : Nat) | port (node : Nat) | lm (core : Nat)
  deriving DecidableEq, Repr

/-- Where an uncorrectable error is found (R202): the agent that detects it, and the address. -/
structure PoisonSite where
  origin : PoisonOrigin
  addr   : Nat
  deriving DecidableEq, Repr

/-- HBM lent to a neighbour in 2 MiB units, or taken back, with the GT at which the lender gave the revocation notice (R364). -/
inductive Lending | lend (units : Nat) | reclaim (units notice : Nat)
  deriving DecidableEq, Repr

/-- What an application core does in a step: an instruction fetch, a load or a store, or the read or write of a machine-level CSR (R444, R446). -/
inductive SandAccess | fetch | load | store | csrRead | csrWrite
  deriving DecidableEq, Repr

/-- The modes of an application core (R444). -/
inductive AppMode | machine | supervisor | user
  deriving DecidableEq, Repr

/-- How an application core makes an access (R444, R446): its mode, the PAs of the translation entries that it reads to fill its translation, its size in bytes, and the value that it stores. -/
structure AppUse where
  mode  : AppMode
  fill  : List Nat
  size  : Nat
  value : Dbl
  deriving DecidableEq, Repr

/-- What a host snoop takes a line for (R225): the line, and the bytes that the host stores to it with their mask, none where it only reads. -/
structure HostTake where
  line : Nat
  mask : Dbl
  data : LineBits
  deriving DecidableEq, Repr

/-- The steps of the J40, one constructor a row of spec/opcode_table.json. -/
inductive Instr
  /-- NOP (R172): Does nothing; in the 96-bit form word 2 is ignored. -/
  | nop (e : Enc)
  /-- MOV (R56): Copies a uniform, affine or varying register into a register of the same class. -/
  | mov (e : Enc)
  /-- MOVI (R57): Writes a uniform constant to a uniform register or to every active lane. -/
  | movi (e : Enc)
  /-- LANEID (R58): Writes each active lane's index, or the affine pair (0, 1). -/
  | laneid (e : Enc)
  /-- AFF (R59): Builds an affine register from a uniform base and stride, with an optional overflow check. -/
  | aff (e : Enc)
  /-- PROM (R60): Promotes an affine or uniform value into the active lanes of a varying register. -/
  | prom (e : Enc)
  /-- DEMS (R61): Demotes a varying register to a uniform one, faulting if the active lanes differ. -/
  | dems (e : Enc)
  /-- DEMA (R62): Demotes a varying register to an affine one with a given stride, faulting off the line. -/
  | dema (e : Enc)
  /-- WBASE (R63): Sets the varying-register window base. -/
  | wbase (e : Enc)
  /-- WGET (R64): Reads the varying allocation and window base into a uniform register. -/
  | wget (e : Enc)
  /-- PUSHM (R65): Pushes a register range onto the strand's spill stack in LM. -/
  | pushm (e : Enc)
  /-- POPM (R65): Pops a register range from the strand's spill stack in LM. -/
  | popm (e : Enc)
  /-- SSPGET (R66): Reads the spill stack pointer into a uniform register. -/
  | sspget (e : Enc)
  /-- SSPSET (R66): Sets the spill stack pointer within the strand's spill area. -/
  | sspset (e : Enc)
  /-- KMOV (R67): Copies a mask or uniform value into the active bits of a mask register. -/
  | kmov (e : Enc)
  /-- KAND (R67): Writes the and of two masks into the active bits. -/
  | kand (e : Enc)
  /-- KOR (R67): Writes the or of two masks into the active bits. -/
  | kor (e : Enc)
  /-- KXOR (R67): Writes the xor of two masks into the active bits. -/
  | kxor (e : Enc)
  /-- KNOT (R67): Writes the complement of a mask into the active bits. -/
  | knot (e : Enc)
  /-- KPOP (R68): Counts the set bits of a mask into a uniform register. -/
  | kpop (e : Enc)
  /-- KFF (R68): Writes the index of the lowest set bit of a mask, or 32. -/
  | kff (e : Enc)
  /-- ADD (R77): Adds modulo 2^32, with an optional overflow check. -/
  | add (e : Enc)
  /-- SUB (R77): Subtracts modulo 2^32, with an optional overflow check. -/
  | sub (e : Enc)
  /-- ADDS (R78): Adds with saturation on words, halves or bytes. -/
  | adds (e : Enc)
  /-- SUBS (R78): Subtracts with saturation on words, halves or bytes. -/
  | subs (e : Enc)
  /-- ADDC (R79): Adds with carry or subtracts with borrow, updating the carry operand. -/
  | addc (e : Enc)
  /-- NEG (R77): Negates modulo 2^32. -/
  | neg (e : Enc)
  /-- ABS (R77): Writes the absolute value of a signed word. -/
  | abs (e : Enc)
  /-- MUL (R77): Multiplies, keeping the low 32 bits. -/
  | mul (e : Enc)
  /-- MULH (R77): Writes the high 32 bits of the signed product. -/
  | mulh (e : Enc)
  /-- MULHU (R77): Writes the high 32 bits of the unsigned product. -/
  | mulhu (e : Enc)
  /-- MAD (R77): Multiplies and adds, keeping the low 32 bits. -/
  | mad (e : Enc)
  /-- DIV (R80): Divides signed values, rounding toward zero, without faulting. -/
  | div (e : Enc)
  /-- DIVU (R80): Divides unsigned values without faulting. -/
  | divu (e : Enc)
  /-- REM (R80): Writes the signed remainder. -/
  | rem (e : Enc)
  /-- REMU (R80): Writes the unsigned remainder. -/
  | remu (e : Enc)
  /-- MIN (R78): Writes the signed minimum of words, halves or bytes. -/
  | min (e : Enc)
  /-- MAX (R78): Writes the signed maximum of words, halves or bytes. -/
  | max (e : Enc)
  /-- MINU (R78): Writes the unsigned minimum of words, halves or bytes. -/
  | minu (e : Enc)
  /-- MAXU (R78): Writes the unsigned maximum of words, halves or bytes. -/
  | maxu (e : Enc)
  /-- CLAMP (R82): Clamps a value between two bounds, signed or unsigned. -/
  | clamp (e : Enc)
  /-- AND (R83): Bitwise and. -/
  | and (e : Enc)
  /-- OR (R83): Bitwise or. -/
  | or (e : Enc)
  /-- XOR (R83): Bitwise exclusive or. -/
  | xor (e : Enc)
  /-- ANDN (R83): Bitwise and with the complement of the second operand. -/
  | andn (e : Enc)
  /-- NOT (R83): Bitwise complement. -/
  | not (e : Enc)
  /-- SHL (R83): Shifts left by the full 32-bit amount. -/
  | shl (e : Enc)
  /-- SHR (R83): Shifts right logically. -/
  | shr (e : Enc)
  /-- SAR (R83): Shifts right arithmetically. -/
  | sar (e : Enc)
  /-- ROL (R83): Rotates left by the amount modulo 32. -/
  | rol (e : Enc)
  /-- BFX (R84): Extracts a bit field, zero- or sign-extended. -/
  | bfx (e : Enc)
  /-- BFI (R84): Inserts a bit field into the old destination value. -/
  | bfi (e : Enc)
  /-- POPC (R85): Counts set bits. -/
  | popc (e : Enc)
  /-- CLZ (R85): Counts leading zero bits. -/
  | clz (e : Enc)
  /-- BREV (R85): Reverses the bit order. -/
  | brev (e : Enc)
  /-- LEA (R86): Adds a scaled offset to a base, with an optional overflow check. -/
  | lea (e : Enc)
  /-- CMP (R81): Evaluates a condition into a mask or a uniform all-ones or zero word. -/
  | cmp (e : Enc)
  /-- SETC (R81): Evaluates a condition into 1 or 0, or all ones with .m. -/
  | setc (e : Enc)
  /-- SEL (R82): Selects one of two values by a mask or uniform condition. -/
  | sel (e : Enc)
  /-- DOT4 (R87): Adds the four byte products of two words to an accumulator. -/
  | dot4 (e : Enc)
  /-- FADD (R114): Floating-point addition rounded once under MODE. -/
  | fadd (e : Enc)
  /-- FSUB (R114): Floating-point subtraction rounded once. -/
  | fsub (e : Enc)
  /-- FMUL (R114): Floating-point multiplication rounded once. -/
  | fmul (e : Enc)
  /-- FFMA (R114): Fused multiply-add rounded once. -/
  | ffma (e : Enc)
  /-- FMIN (R115): Returns the lesser operand unchanged, NaN-aware. -/
  | fmin (e : Enc)
  /-- FMAX (R115): Returns the greater operand unchanged, NaN-aware. -/
  | fmax (e : Enc)
  /-- FABS (R115): Clears the sign bit of each element. -/
  | fabs (e : Enc)
  /-- FNEG (R115): Inverts the sign bit of each element. -/
  | fneg (e : Enc)
  /-- FCMP (R116): Compares FP32 values into a mask or uniform word. -/
  | fcmp (e : Enc)
  /-- FCLASS (R117): Writes a one-hot class of the source element. -/
  | fclass (e : Enc)
  /-- FRCP (R114): Reciprocal rounded once. -/
  | frcp (e : Enc)
  /-- FRSQ (R114): Reciprocal square root rounded once. -/
  | frsq (e : Enc)
  /-- FSQRT (R114): Square root rounded once. -/
  | fsqrt (e : Enc)
  /-- FDIV (R114): Division rounded once. -/
  | fdiv (e : Enc)
  /-- FEXP2 (R114): Base-2 exponential rounded once. -/
  | fexp2 (e : Enc)
  /-- FLOG2 (R114): Base-2 logarithm rounded once. -/
  | flog2 (e : Enc)
  /-- FSIN (R114): Sine of the argument in half-turns, rounded once. -/
  | fsin (e : Enc)
  /-- FCOS (R114): Cosine of the argument in half-turns, rounded once. -/
  | fcos (e : Enc)
  /-- FTBL (R126): Evaluates the comb's bound function-table bank per lane. -/
  | ftbl (e : Enc)
  /-- TLOAD (R128): Loads a function-table bank from an LM image after the bank is unbound. -/
  | tload (e : Enc)
  /-- TFLIP (R129): Makes a function-table bank current for later launches. -/
  | tflip (e : Enc)
  /-- CVT (R118): Converts between any two number formats. -/
  | cvt (e : Enc)
  /-- CVTI (R119): Rounds each element to an integral value in its own format. -/
  | cvti (e : Enc)
  /-- PACK (R120): Converts two values into a pair of packed elements of the destination. -/
  | pack (e : Enc)
  /-- UNPK (R121): Extracts one packed element as FP32 or INT32. -/
  | unpk (e : Enc)
  /-- MODEGET (R122): Reads half of MODE into a uniform register. -/
  | modeget (e : Enc)
  /-- MODESET (R123): Writes MODE or its RM or SEED fields, checking reserved values. -/
  | modeset (e : Enc)
  /-- PART (R133): Sets the tile size of the strand. -/
  | part (e : Enc)
  /-- VOTE (R143): Computes any, all, uniform or ballot over the voters of a tile or strand. -/
  | vote (e : Enc)
  /-- SHUF (R140): Gives each active lane a value from a shifted or xored position of its tile. -/
  | shuf (e : Enc)
  /-- PERM (R141): Gives each active lane a value from a lane named by a varying index. -/
  | perm (e : Enc)
  /-- BCAST (R142): Broadcasts one tile position, or one lane into a uniform register. -/
  | bcast (e : Enc)
  /-- REDU (R146): Reduces a register over a tile or the strand. -/
  | redu (e : Enc)
  /-- SCAN (R146): Computes an inclusive or exclusive prefix over each tile. -/
  | scan (e : Enc)
  /-- MATCH (R147): Finds active lanes of a tile holding equal bit patterns. -/
  | matchLanes (e : Enc)
  /-- BR (R152): Guarded branch that votes and may split the issuing group. -/
  | br (e : Enc)
  /-- BRD (R152): Guarded branch that sends a divergent group whole to a third target. -/
  | brd (e : Enc)
  /-- BRU (R153): Branches the issuing group on a uniform register being zero or non-zero. -/
  | bru (e : Enc)
  /-- JMP (R154): Moves the issuing group to an offset target. -/
  | jmp (e : Enc)
  /-- JMPI (R154): Moves active lanes to a uniform or per-lane register target. -/
  | jmpi (e : Enc)
  /-- CALL (R155): Sends active lanes to an offset target and writes the link register. -/
  | call (e : Enc)
  /-- CALLI (R155): Sends active lanes to a register target and writes the link register. -/
  | calli (e : Enc)
  /-- RET (R156): Moves each active lane to the address in its link register. -/
  | ret (e : Enc)
  /-- IDEM (R161): Opens an idempotent region and records its live-ins, SSP, WB, MODE and PART. -/
  | idem (e : Enc)
  /-- EXIT (R169): Removes the active lanes from the live mask, waiting if it would end a comb with a running stream. -/
  | exit (e : Enc)
  /-- YIELD (R170): Begins a fairness burst on a diverged strand or pauses a converged one. -/
  | yield (e : Enc)
  /-- TRAP (R171): Raises the TRAP fault with a code. -/
  | trap (e : Enc)
  /-- BRK (R171): Raises BRK or stops the strand for an attached debugger. -/
  | brk (e : Enc)
  /-- LD (R184): Loads a word, half or byte per active lane or once for a uniform destination. -/
  | ld (e : Enc)
  /-- ST (R184): Stores a word, half or byte per active lane or once. -/
  | st (e : Enc)
  /-- LDG (R185): Loads 2, 4 or 8 consecutive words per lane into a register group. -/
  | ldg (e : Enc)
  /-- STS (R185): Stores 2, 4 or 8 consecutive words per lane from a register group. -/
  | sts (e : Enc)
  /-- MXLD (R186): Loads one MX block and its scale as one event. -/
  | mxld (e : Enc)
  /-- MXST (R186): Stores one MX block and its scale as one event. -/
  | mxst (e : Enc)
  /-- PREF (R187): Requests lines into L1, L2 or the HBM page cache without faulting. -/
  | pref (e : Enc)
  /-- LDC (R188): Loads a word of constant space through the constant cache. -/
  | ldc (e : Enc)
  /-- FENCE (R208): Drains covered stores and arranges a token of the latest covered term. -/
  | fence (e : Enc)
  /-- FWAIT (R209): Waits until a token is written and GT has passed it. -/
  | fwait (e : Enc)
  /-- FTEST (R210): Tests without waiting whether a token has passed. -/
  | ftest (e : Enc)
  /-- BARC (R212): Arrives at a comb barrier at comb or device scope. -/
  | barc (e : Enc)
  /-- LRES (R213): Loads a word at its home and takes a reservation per slot. -/
  | lres (e : Enc)
  /-- SCND (R215): Stores conditionally on a held reservation and writes a result mask. -/
  | scnd (e : Enc)
  /-- LEASE (R216): Sets the strand's lease length in microseconds. -/
  | lease (e : Enc)
  /-- GTIME (R217): Reads global time into uniform registers. -/
  | gtime (e : Enc)
  /-- ATOM (R237): Performs an integer atomic at the owning agent and returns the old values. -/
  | atom (e : Enc)
  /-- ATOMN (R237): Performs an integer atomic without returning a value. -/
  | atomn (e : Enc)
  /-- CAS (R238): Compares and swaps a word, lane by lane in order. -/
  | cas (e : Enc)
  /-- ATOMF (R239): Performs a floating-point add, min or max atomically under RNE. -/
  | atomf (e : Enc)
  /-- XADD (R240): Adds an FP32 value exactly to an exact-sum line. -/
  | xadd (e : Enc)
  /-- XREAD (R241): Reads an exact-sum line as FP32, optionally clearing it. -/
  | xread (e : Enc)
  /-- XCLR (R242): Clears an exact-sum line as one event. -/
  | xclr (e : Enc)
  /-- MCAS (R246): Compares and replaces 2 to 8 words as one event, locking lines in PA order. -/
  | mcas (e : Enc)
  /-- KICK (R255): Checks and submits 1 to 16 copy requests from LM. -/
  | kick (e : Enc)
  /-- BBINIT (R260): Initialises a byte barrier with its expected arrivals. -/
  | bbinit (e : Enc)
  /-- BBADD (R261): Announces bytes on a byte barrier, with or without an arrival. -/
  | bbadd (e : Enc)
  /-- BBWAIT (R262): Waits for a byte barrier to reach a phase. -/
  | bbwait (e : Enc)
  /-- BBTEST (R263): Tests a byte barrier's phase and sticky flags without waiting. -/
  | bbtest (e : Enc)
  /-- GSET (R268): Resolves or clears a guard slot, releasing held requests and commands. -/
  | gset (e : Enc)
  /-- RLQ (R267): Tests range locks per lane or counts free entries without faulting. -/
  | rlq (e : Enc)
  /-- QSUB (R271): Submits an LM entry to a drone queue. -/
  | qsub (e : Enc)
  /-- MRUN (R278): Starts a matrix stream at an offset target, waiting for the sequencer. -/
  | mrun (e : Enc)
  /-- MRUN_REG (R278): Starts a matrix stream at a register target (SUB 1, 64-bit form). -/
  | mrunReg (e : Enc)
  /-- MMAP (R305): Loads an operand map descriptor from LM. -/
  | mmap (e : Enc)
  /-- MUNF (R306): Loads the unfold map descriptor from LM. -/
  | munf (e : Enc)
  /-- MMA (R307): Accumulates a 64 by 64 tile of products over one K step. -/
  | mma (e : Enc)
  /-- MDIST (R307): Accumulates squared differences over one K step. -/
  | mdist (e : Enc)
  /-- MTOPK (R311): Merges each accumulator row into a top-k list in LM. -/
  | mtopk (e : Enc)
  /-- MZERO (R308): Zeroes an accumulator and sets its format tag. -/
  | mzero (e : Enc)
  /-- MLDZ (R309): Loads an accumulator from LM. -/
  | mldz (e : Enc)
  /-- MDRAIN (R310): Writes an accumulator to LM in a chosen format. -/
  | mdrain (e : Enc)
  /-- MPAIR (R313): Seeks the neighbour sequencer to pair with under a tag. -/
  | mpair (e : Enc)
  /-- MSPLIT (R315): Ends the paired state of the stream. -/
  | msplit (e : Enc)
  /-- MEPI (R310): Applies bias and the function table to an accumulator and writes it to LM. -/
  | mepi (e : Enc)
  /-- MSYNC (R316): Drains a stream, or in a strand waits for or reports the stream status. -/
  | msync (e : Enc)
  /-- SPAWN (R330): Enqueues one cell record. -/
  | spawn (e : Enc)
  /-- SPAWNN (R331): Launches a swarm of n cells from a template. -/
  | spawnn (e : Enc)
  /-- JOIN (R334): Decrements a parent's join counter atomically and enqueues it at zero. -/
  | join (e : Enc)
  /-- PARK (R335): Parks a cell on a notify register or enqueues it if the sequence moved. -/
  | park (e : Enc)
  /-- NOTIFY (R335): Advances a notify sequence and releases its parked cells, or reads SEQ. -/
  | notify (e : Enc)
  /-- DONE (R336): Marks the strand complete for its swarm cell. -/
  | done (e : Enc)
  /-- CELLRD (R336): Reads a launch value of the cell. -/
  | cellrd (e : Enc)
  /-- GPREF (R362): Prefetches the cache pages a tensor covers into HBM or L2. -/
  | gpref (e : Enc)
  /-- THINT (R359): Installs or removes a placement hint record. -/
  | thint (e : Enc)
  /-- LCNT (R363): Reads a cache page's state and access counter, optionally clearing it. -/
  | lcnt (e : Enc)
  /-- FGET (R388): Copies bytes from a fabric address into LM as an engine request. -/
  | fget (e : Enc)
  /-- FPUT (R388): Copies bytes from LM to a fabric address as an engine request. -/
  | fput (e : Enc)
  /-- FMSG (R389): Sends a 64-byte message to a drone queue of another device. -/
  | fmsg (e : Enc)
  /-- FSYNC (R390): Waits for fabric responses and reports or clears the fabric error record. -/
  | fsync (e : Enc)
  /-- SRD (R410): Reads a special register. -/
  | srd (e : Enc)
  /-- SWR (R411): Writes a special register under its own rules. -/
  | swr (e : Enc)
  /-- TRET (R417): Returns from a trap handler, restoring lane PCs and privilege. -/
  | tret (e : Enc)
  /-- SYSC (R418): Raises SYSCALL with TPC after the instruction. -/
  | sysc (e : Enc)
  /-- CTXSV (R424): Writes the strand's context image to global memory. -/
  | ctxsv (e : Enc)
  /-- CTXLD (R425): Checks and loads an interrupted context image. -/
  | ctxld (e : Enc)
  /-- WAIT (R420): Waits for a notify sequence change or a token, then reads SEQ. -/
  | wait (e : Enc)
  /-- HALT (R419): Ends the comb and logs a code. -/
  | halt (e : Enc)
  /-- ASYNC_FAULT_DELIVERY (R415): Delivers a CONF_LOST or stream fault before the strand's next issue, abandoning a wait. -/
  | asyncFaultDelivery (w : Sid)
  /-- FAIRNESS_BURST (R159): FC reaches LIMIT and a burst holds the issuing group so other groups issue. -/
  | fairnessBurst (w : Sid)
  /-- BURST_END (R159): A burst ends after 256 issue cycles or when other lanes catch up. -/
  | burstEnd (w : Sid)
  /-- RUN_AHEAD_END (R201): Run-ahead ends, the batch is sent and the strand rolls back to its region entry. -/
  | runAheadEnd (w : Sid)
  /-- STRAND_RETIRE (R169): A strand with an empty live mask retires once its accesses complete. -/
  | strandRetire (w : Sid)
  /-- CELL_DISPATCH (R323): A die's dispatcher launches one comb from a head entry and sets its launch state. -/
  | cellDispatch (die : Nat)
  /-- PASSED_OVER_LIMIT (R323): A head entry's passed-over count reaches 65,536 and the die stops launching that tenant. -/
  | passedOverLimit (die queue level : Nat)
  /-- LEVEL_ROOM_ENQUEUE (R335): A waiting JOIN, PARK or released cell is enqueued once its level has room and its queue admits it. -/
  | levelRoomEnqueue (src : RoomSource)
  /-- SWARM_COMPLETION_REPORT (R332): A cell completion is reported once its term passes, advancing o and writing DONEW. -/
  | swarmCompletionReport (swarm cell : Nat)
  /-- COMB_RETIRE (R337): A comb retires when its strands, stream and engine requests are done, freeing slot and window. -/
  | combRetire (core slot : Nat)
  /-- SLICE_BEGIN (R338): A core latches the next valid slice entry and resumes its tenant's saved combs. -/
  | sliceBegin (core : Nat)
  /-- SLICE_EXPIRY (R340): A slice's length passes and its tenant's resident combs are pre-empted. -/
  | sliceExpiry (core : Nat)
  /-- COMB_IMAGE_COMPLETE (R274): A pre-empted comb's LM is saved once its started requests are final or suspended. -/
  | combImageComplete (core slot : Nat)
  /-- COMB_RESUME (R342): A saved comb resumes on its core once its slice has begun and its LM base is free. -/
  | combResume (core : Nat)
  /-- TLOAD_PROCEED (R128): A waiting TLOAD proceeds once its bank is no longer bound. -/
  | tloadProceed (core : Nat)
  /-- WCB_DRAIN (R196): A write-combining entry drains when full, displaced, fenced or at retirement. -/
  | wcbDrain (core id : Nat)
  /-- WCB_IDLE_DRAIN (R196): A write-combining entry drains after 32 cycles without a store. -/
  | wcbIdleDrain (core id : Nat)
  /-- HOME_STORE_APPLY (R194): A home slice or owning RDC applies a store and forwards it to live sharers. -/
  | homeStoreApply (core id : Nat)
  /-- STORE_ACK (R195): A store is acknowledged to its strand with its write completion time. -/
  | storeAck (core id : Nat)
  /-- FAR_MISS_PARK (R198): The home notifies a far miss and the strand enters the parked pool. -/
  | farMissPark (w : Sid)
  /-- LOAD_FILL (R198): A load sector returns and fills destination lanes, lowering OC. -/
  | loadFill (w : Sid) (id line : Nat)
  /-- PAGE_FILL (R347): A line of a cache page fetched from its backing arrives in the HBM frame. -/
  | pageFill (page line : Nat)
  /-- WRITEBACK_ACK (R349): The backing acknowledges the write-back of a dirty line. -/
  | writebackAck (line : Nat)
  /-- LATE_WRITEBACK_ARRIVAL (R203): A write-back that crossed a forwarded read arrives and is discarded. -/
  | lateWritebackArrival (tx : Nat)
  /-- DIRECTORY_MERGE (R194): Sibling directory halves merge after 16 µs without a stale update. -/
  | directoryMerge (base : Nat)
  /-- RESERVATION_EXPIRY (R214): A reservation is lost 2 µs after it was granted. -/
  | reservationExpiry (w : Sid) (resv : Nat)
  /-- FENCE_TOKEN_WRITE (R208): The last covered access is acknowledged and the fence token is written. -/
  | fenceTokenWrite (w : Sid) (reg : Nat)
  /-- FWAIT_WAKE (R209): GT passes the awaited token and the waiting strand issues on. -/
  | fwaitWake (w : Sid)
  /-- BARC_RELEASE (R212): All participants have arrived and the barrier releases its waiters. -/
  | barcRelease (core slot barrier : Nat)
  /-- BBWAIT_WAKE (R262): A byte barrier reaches the awaited phase and its waiter issues on. -/
  | bbwaitWake (w : Sid)
  /-- WAIT_WAKE (R420): A notify sequence changes or the token passes and WAIT writes SEQ. -/
  | waitWake (w : Sid)
  /-- ATOMIC_EXECUTE (R232): An atomic request reaches its executing agent and acts on each target in lane order. -/
  | atomicExecute (w : Sid) (id : Nat)
  /-- ATOMIC_RESPONSE (R234): The fetched value of an atomic returns and is written to its destination. -/
  | atomicResponse (w : Sid) (id : Nat)
  /-- MCAS_LOCK_PHASE (R246): An MCAS takes its line locks in ascending PA order and compares the entries. -/
  | mcasLockPhase (w : Sid)
  /-- MCAS_COMMIT (R246): At time T the new values apply, locks release and observed values are written back. -/
  | mcasCommit (w : Sid)
  /-- SNOOP_RESPONSE (R225): The home answers a snoop once the other die's lease on the line expires. -/
  | snoopResponse (line : Nat)
  /-- FAULT_BATCH_WRITE (R353): A fault batch is written contiguously to its die's fault queue once it fits and EN is set. -/
  | faultBatchWrite (die batch : Nat)
  /-- COMB_FAULT_RESUME (R356): A ready fault-parked comb resumes in readiness order. -/
  | combFaultResume (core : Nat)
  /-- LEASE_EXPIRE (R346): GT reaches an extent's EXPIRY and it becomes expired. -/
  | leaseExpire (idx : Nat)
  /-- LEASE_REVOKE_DEADLINE (R346): A revoking extent reaches its deadline and becomes revoked, dropping lines. -/
  | leaseRevokeDeadline (idx : Nat)
  /-- COUNTER_HALVING (R350): Every 2^DSHIFT µs all access counters of a die are halved. -/
  | counterHalving (die : Nat)
  /-- KICK_REGISTER (R255): A KICK that waited for range-lock entries registers and queues its requests. -/
  | kickRegister (core : Nat)
  /-- COPY_REQUEST_START (R256): A request at its queue head samples its guard and starts, is held or is discarded. -/
  | copyRequestStart (core slot : Nat)
  /-- COPY_CHUNK (R259): A copied chunk is written and counted on its barrier; the request may finish, suspend or abort. -/
  | copyChunk (core slot req : Nat)
  /-- DRONE_QSUB_RESPONSE (R271): The drone core accepts or refuses a QSUB entry and writes the result. -/
  | droneQsubResponse (w : Sid) (reg : Nat)
  /-- MRUN_START (R280): An MRUN takes the sequencer, clears z on a tenant change and starts the stream. -/
  | mrunStart (core : Nat)
  /-- MATRIX_COMMAND_START (R300): A command reaches the queue head, checks and takes effect on the engine. -/
  | matrixCommandStart (core : Nat)
  /-- MATRIX_COMMAND_COMPLETE (R284): A command completes and its LM writes are performed. -/
  | matrixCommandComplete (core : Nat)
  /-- STREAM_END (R281): After EXIT drains the queue the stream ends clean and the sequencer becomes idle. -/
  | streamEnd (core : Nat)
  /-- SEQUENCER_FETCH_FAULT (R283): A sequencer fetch meets a recoverable fault and sends a sequencer-origin entry. -/
  | sequencerFetchFault (core : Nat)
  /-- SEQUENCER_RESTORE (R298): A resumed comb's sequencer image is restored once the sequencer is free. -/
  | sequencerRestore (core slot : Nat)
  /-- MPAIR_START (R296): The second sequencer arrives and both become paired from the common start cycle. -/
  | mpairStart (core : Nat)
  /-- PAIR_TIMEOUT (R313): An MPAIR or paired command waits 65,536 cycles and raises PAIR_TIMEOUT. -/
  | pairTimeout (core : Nat)
  /-- FABRIC_REQUEST_ARRIVAL (R381): A target checks a request's window and sequence number and executes or answers it. -/
  | fabricRequestArrival (req : FabRequest)
  /-- FABRIC_RESPONSE_ARRIVAL (R380): A response arrives at the source, completing or retrying its request. -/
  | fabricResponseArrival (resp : FabResponse)
  /-- FABRIC_RESEND (R382): A request without response for 2 µs is resent with its sequence number. -/
  | fabricResend (target seq : Nat)
  /-- FABRIC_TIMEOUT (R382): A request without final response after 1,024 µs fails with FABRIC_TIMEOUT. -/
  | fabricTimeout (target seq : Nat)
  /-- FABRIC_UNREACHABLE (R375): No response from a device for 256 µs fails its outstanding requests. -/
  | fabricUnreachable (target : Nat)
  /-- MEMBER_REMOVAL (R399): A member silent for 256 µs is removed from the table. -/
  | memberRemoval (dev : Nat)
  /-- LEAVE_EFFECTIVE (R403): At the leave time every member drops the leaver's entry. -/
  | leaveEffective (dev : Nat)
  /-- SPDM_HEARTBEAT_TIMEOUT (R431): No HEARTBEAT within twice the period ends the session. -/
  | spdmHeartbeatTimeout (ctx : Nat)
  /-- BANDWIDTH_REFILL (R369): Every 1,024 cycles the port empties and refills each tenant's token bucket. -/
  | bandwidthRefill (core : Nat)
  /-- LOAD_PERFORM (R204): A load, LDC, LRES or MXLD request reaches the agent where its value is bound (L1, RDC, home slice, owning RDC or LM) and is performed there. -/
  | loadPerform (w : Sid) (id line : Nat)
  /-- DEVICE_SCOPE_TERM_REACHED (R328): A SPAWN, SPAWNN, JOIN, PARK or NOTIFY that waited for its strand's earlier accesses to reach their device-scope terms now acts. -/
  | deviceScopeTermReached (w : Sid)
  /-- LEASE_RENEW (R346): The pager renews an active or expired lease with a later EXPIRY. -/
  | leaseRenew (idx expiry : Nat)
  /-- POOL_NODE_LOST (R346): A pool port or Lamval reports a node lost and its extents become failed. -/
  | poolNodeLost (borrowed : Bool) (node : Nat)
  /-- SLCMD_END (R339): A write of SLCMD.END ends the running slice at once. -/
  | slcmdEnd (core : Nat)
  /-- HOST_SNOOP (R225): A host CXL.cache snoop withdraws the line from L1 sharers of the home die. -/
  | hostSnoop (take : HostTake)
  /-- BACK_INVALIDATE (R365): A pool back-invalidation drops a shared read-only line from L2 and HBM. -/
  | backInvalidate (line : Nat)
  /-- HOST_CXL_MEM_ACCESS (R435): A host CXL.mem access is performed at the home slice of its line. -/
  | hostCxlMemAccess (write : Bool) (pa size value : Nat)
  /-- POISON_DETECT (R202): An agent finds a line uncorrectable, poisons it and logs it once. -/
  | poisonDetect (site : PoisonSite)
  /-- FQRES1_RESOLVE (R354): A write of FQRES1 resolves every unresolved entry matching its key. -/
  | fqres1Resolve (die : Nat) (value : Dbl)
  /-- REVOCATION_NOTICE (R346): The pager receives a revocation notice and sets the extent revoking. -/
  | revocationNotice (idx deadline : Nat)
  /-- LEASE_ACQUIRE (R346): The pager acquires an extent, making a free entry active. -/
  | leaseAcquire (idx : Nat) (lease : Lease) (contents : List (Nat × Byte))
  /-- LEASE_REMAP (R346): The pager remaps a failed extent to a new node, writing dirty lines there. -/
  | leaseRemap (idx node boff expiry : Nat) (contents : List (Nat × Byte))
  /-- LEASE_RELEASE (R346): The pager releases an extent to free, dropping lines and discarding dirty ones. -/
  | leaseRelease (idx : Nat)
  /-- DRONE_ENTRY_COMPLETE (R449): A drone service finishes an entry, writes its record, counts the barrier and signals MSI-X. -/
  | droneEntryComplete (queue seq : Nat) (status moved : Word) (writes : List (Nat × Byte))
  /-- FABRIC_MESSAGE_RECEIVE (R450): A service-3 queue places an arriving message in its receive ring and notifies. -/
  | fabricMessageReceive (queue src : Nat) (tenant : BitVec 16) (entry : LineBits)
  /-- LINK_DOWN (R375): A Lamval port goes down, possibly making devices unreachable. -/
  | linkDown (port : Nat)
  /-- LIMIT_NOTICE (R396): A write of ACCLIM.LIMIT broadcasts a limit notice effective after LEAD. -/
  | limitNotice (limit : Nat)
  /-- NOTICE_RECEIVE (R394): A member applies or records a newer limit notice from another member. -/
  | noticeReceive (n : Notice)
  /-- LIMIT_APPLY (R397): A pending limit's effective time arrives and the group ceiling changes. -/
  | limitApply
  /-- HEARTBEAT_SEND (R399): Every 64 µs a member broadcasts a heartbeat. -/
  | heartbeatSend
  /-- HEARTBEAT_RECEIVE (R399): A received heartbeat refreshes its sender's entry or draws a removed message. -/
  | heartbeatReceive (h : Heartbeat)
  /-- REMOVED_MESSAGE (R400): A removed message puts the receiving member in the isolated state. -/
  | removedMessage (sender : Nat)
  /-- ACCORD_ISOLATION (R400): A member hearing no other heartbeat for 256 µs becomes isolated. -/
  | accordIsolation
  /-- EMERGENCY_TRIP (R398): A local trip drops the clock to TRIP and sends a late notice. -/
  | emergencyTrip
  /-- ACCORD_JOIN (R401): ACCCMD join sends a join request to the sponsor. -/
  | accordJoin (sponsor : Nat)
  /-- JOIN_REQUEST_RECEIVE (R401): The sponsor replies with a snapshot and broadcasts the joiner's arrival. -/
  | joinRequestReceive (dev group limit : Nat)
  /-- SNAPSHOT_RECEIVE (R402): The joiner adopts the snapshot table and caps its clock. -/
  | snapshotReceive (table : Snapshot) (adopt : Nat)
  /-- JOIN_TIMEOUT (R401): No snapshot within 1 ms returns the joiner to its state with ERR 01. -/
  | joinTimeout
  /-- ADOPTION (R402): At the adoption time the joiner becomes a member and starts heartbeats. -/
  | adoption
  /-- ACCORD_LEAVE (R403): ACCCMD leave broadcasts a leave notice effective after LEAD. -/
  | accordLeave
  /-- SYNC_WRITE (R436): A host write to SYNC takes effect after prior CXL traffic is absorbed. -/
  | syncWrite (v : Word)
  /-- DOORBELL_NOTIFY (R437): A doorbell write performs NOTIFY on a notify register after absorption. -/
  | doorbellNotify (reg : Nat)
  /-- SUMMARY (R443): Management command writing the state summary at one GT instant. -/
  | summary
  /-- INVAL (R442): Management command discarding cached descriptors and translations of a tenant. -/
  | inval
  /-- REMOVE (R453): Management command removing a core from dispatch. -/
  | remove
  /-- RESET (R442): Management command performing a warm reset and re-running bring-up. -/
  | reset
  /-- MGMT_COMMAND_COMPLETE (R442): A management command finishes, BUSY clears and the interrupt is signalled. -/
  | mgmtCommandComplete
  /-- DBG_RESUME (R421): Debug command resuming a stopped strand after its BRK. -/
  | dbgResume (entry : Nat)
  /-- DBG_DELIVER (R421): Debug command entering the stopped strand's trap handler. -/
  | dbgDeliver (entry : Nat)
  /-- DBG_SAVE (R421): Debug command writing the stopped strand's context image. -/
  | dbgSave (entry : Nat)
  /-- DBG_LOAD (R421): Debug command loading a context image into the stopped strand. -/
  | dbgLoad (entry : Nat)
  /-- DBGATT_WRITE (R421): Attaches or detaches a debugger; detaching resumes every stopped strand. -/
  | dbgattWrite (value : Dbl)
  /-- MGMT_REGISTER_WRITE (R440): A write to a management register without behaviour of its own. -/
  | mgmtRegisterWrite (off size : Nat) (value : Dbl)
  /-- TAMPER_ALARM (R433): The tamper mesh breaks and the SECPOL action is taken. -/
  | tamperAlarm
  /-- GLITCH_ALARM (R433): A voltage or clock glitch is detected and the SECPOL action is taken. -/
  | glitchAlarm
  /-- CORE_INTERNAL_ERROR (R453): An uncorrectable core error removes the core and discards its combs. -/
  | coreInternalError (core : Nat)
  /-- BRING_UP (R456): Power-on runs verification, training, self-test and firmware start, then sets READY. `stages` tells of each firmware stage in turn whether it verifies, `failed` names the cores that fail their self-test. -/
  | bringUp (stages : List Bool) (failed : List Nat)
  /-- LIFE_COUNTER_FLUSH (R454): Every 60 s the life counters are written to non-volatile storage. -/
  | lifeCounterFlush
  /-- CONTEXT_LOSS (R431): A confidential context leaves RUN or its session ends, and its tenants are stopped and faulted. -/
  | contextLoss (ctx : Nat)
  /-- KEY_SLOT_LOAD (R430): An SPDM vendor message loads an AES-256 key slot of a context. -/
  | keySlotLoad (ctx slot : Nat) (key : BitVec 256)
  /-- LINK_UP (R375): A Lamval port that was down comes up again, so paths through it and devices reached by it become usable. -/
  | linkUp (port : Nat)
  /-- PACKET_TRANSIT (R374): A packet for another device arrives on a port and is forwarded on the virtual channel of its next hop without using cores, memory or tokens. -/
  | packetTransit (p : FabPacket) (dst hop : Nat)
  /-- ACCCTL_EN_WRITE (R400): A write of ACCCTL.EN makes the device take part in the accord, or with EN = 0 makes it solo, including leaving the isolated state. -/
  | accctlEnWrite (value : Dbl)
  /-- SPONSOR_REFUSAL (R401): A joiner receives its sponsor's refusal, sets ACCSTAT.ERR to 10 and returns to its previous state. -/
  | sponsorRefusal
  /-- TDISP_REQUEST (R430): A TDISP request from the host moves a confidential context between CONFIG_UNLOCKED, CONFIG_LOCKED and RUN, enabling dispatch of its tenants. -/
  | tdispRequest (ctx : Nat) (req : TdispReq)
  /-- SPDM_REQUEST (R451): An SPDM message over DOE (session establishment, GET_MEASUREMENTS or HEARTBEAT) is answered and opens or refreshes a session. -/
  | spdmRequest (ctx : Nat) (req : SpdmReq)
  /-- SANDBOX_ACCESS (R446): An application-core fetch, load, store or translation fill in sandbox mode is checked against the walls and the weights map and may raise an access fault with WALLCAUSE 0x0E. Of a CSR access `pa` is the CSR number. -/
  | sandboxAccess (app : Nat) (access : SandAccess) (how : AppUse) (va pa : Nat)
  /-- SFENCE_VMA (R447): An application core executes SFENCE.VMA, after which changes to the weights map take effect in sandbox mode. -/
  | sfenceVma (app : Nat)
  /-- DBGCTL_LOCK_WRITE (R421): A write setting DBGCTL.LOCK locks debug until reset and clears DBGATT.ATT. -/
  | dbgctlLockWrite
  /-- POWER_LOSS (R454): The supply is lost; all volatile state is lost and only the life counters last written to non-volatile storage survive. -/
  | powerLoss
  /-- HBM_LEND (R364): The device lends 2 MiB units of its HBM to a borrower, within LENDMAX, and the frames leave its own page cache. -/
  | hbmLend (die : Nat) (what : Lending)
  deriving DecidableEq, Repr

/-- The machine opcodes, as R34 names them; MRUN of SUB 1 is its own (R278). -/
inductive Op
  | nop | mov | movi | laneid | aff | prom | dems | dema | wbase | wget | pushm | popm | sspget | sspset | kmov | kand | kor | kxor | knot | kpop | kff | add | sub | adds | subs | addc | neg | abs | mul | mulh | mulhu | mad | div | divu | rem | remu | min | max | minu | maxu | clamp | and | or | xor | andn | not | shl | shr | sar | rol | bfx | bfi | popc | clz | brev | lea | cmp | setc | sel | dot4 | fadd | fsub | fmul | ffma | fmin | fmax | fabs | fneg | fcmp | fclass | frcp | frsq | fsqrt | fdiv | fexp2 | flog2 | fsin | fcos | ftbl | tload | tflip | cvt | cvti | pack | unpk | modeget | modeset | part | vote | shuf | perm | bcast | redu | scan | matchLanes | br | brd | bru | jmp | jmpi | call | calli | ret | idem | exit | yield | trap | brk | ld | st | ldg | sts | mxld | mxst | pref | ldc | fence | fwait | ftest | barc | lres | scnd | lease | gtime | atom | atomn | cas | atomf | xadd | xread | xclr | mcas | kick | bbinit | bbadd | bbwait | bbtest | gset | rlq | qsub | mrun | mrunReg | mmap | munf | mma | mdist | mtopk | mzero | mldz | mdrain | mpair | msplit | mepi | msync | spawn | spawnn | join | park | notify | done | cellrd | gpref | thint | lcnt | fget | fput | fmsg | fsync | srd | swr | tret | sysc | ctxsv | ctxld | wait | halt
  deriving DecidableEq, Repr

/-- The OP value of an opcode (R34). -/
def Op.code : Op → Nat
  | .nop => 0x01
  | .mov => 0x02
  | .movi => 0x03
  | .laneid => 0x04
  | .aff => 0x05
  | .prom => 0x06
  | .dems => 0x07
  | .dema => 0x08
  | .wbase => 0x09
  | .wget => 0x0A
  | .pushm => 0x0B
  | .popm => 0x0C
  | .sspget => 0x0D
  | .sspset => 0x0E
  | .kmov => 0x10
  | .kand => 0x11
  | .kor => 0x12
  | .kxor => 0x13
  | .knot => 0x14
  | .kpop => 0x15
  | .kff => 0x16
  | .add => 0x20
  | .sub => 0x21
  | .adds => 0x22
  | .subs => 0x23
  | .addc => 0x24
  | .neg => 0x25
  | .abs => 0x26
  | .mul => 0x27
  | .mulh => 0x28
  | .mulhu => 0x29
  | .mad => 0x2A
  | .div => 0x2B
  | .divu => 0x2C
  | .rem => 0x2D
  | .remu => 0x2E
  | .min => 0x30
  | .max => 0x31
  | .minu => 0x32
  | .maxu => 0x33
  | .clamp => 0x34
  | .and => 0x35
  | .or => 0x36
  | .xor => 0x37
  | .andn => 0x38
  | .not => 0x39
  | .shl => 0x3A
  | .shr => 0x3B
  | .sar => 0x3C
  | .rol => 0x3D
  | .bfx => 0x3E
  | .bfi => 0x3F
  | .popc => 0x40
  | .clz => 0x41
  | .brev => 0x42
  | .lea => 0x43
  | .cmp => 0x44
  | .setc => 0x45
  | .sel => 0x46
  | .dot4 => 0x47
  | .fadd => 0x50
  | .fsub => 0x51
  | .fmul => 0x52
  | .ffma => 0x53
  | .fmin => 0x54
  | .fmax => 0x55
  | .fabs => 0x56
  | .fneg => 0x57
  | .fcmp => 0x58
  | .fclass => 0x59
  | .frcp => 0x5A
  | .frsq => 0x5B
  | .fsqrt => 0x5C
  | .fdiv => 0x5D
  | .fexp2 => 0x5E
  | .flog2 => 0x5F
  | .fsin => 0x60
  | .fcos => 0x61
  | .ftbl => 0x62
  | .tload => 0x63
  | .tflip => 0x64
  | .cvt => 0x65
  | .cvti => 0x66
  | .pack => 0x67
  | .unpk => 0x68
  | .modeget => 0x69
  | .modeset => 0x6A
  | .part => 0x70
  | .vote => 0x71
  | .shuf => 0x72
  | .perm => 0x73
  | .bcast => 0x74
  | .redu => 0x75
  | .scan => 0x76
  | .matchLanes => 0x77
  | .br => 0x80
  | .brd => 0x81
  | .bru => 0x82
  | .jmp => 0x83
  | .jmpi => 0x84
  | .call => 0x85
  | .calli => 0x86
  | .ret => 0x87
  | .idem => 0x88
  | .exit => 0x89
  | .yield => 0x8A
  | .trap => 0x8B
  | .brk => 0x8C
  | .ld => 0x90
  | .st => 0x91
  | .ldg => 0x92
  | .sts => 0x93
  | .mxld => 0x94
  | .mxst => 0x95
  | .pref => 0x96
  | .ldc => 0x97
  | .fence => 0x98
  | .fwait => 0x99
  | .ftest => 0x9A
  | .barc => 0x9B
  | .lres => 0x9C
  | .scnd => 0x9D
  | .lease => 0x9E
  | .gtime => 0x9F
  | .atom => 0xA0
  | .atomn => 0xA1
  | .cas => 0xA2
  | .atomf => 0xA3
  | .xadd => 0xA4
  | .xread => 0xA5
  | .xclr => 0xA6
  | .mcas => 0xA7
  | .kick => 0xA8
  | .bbinit => 0xA9
  | .bbadd => 0xAA
  | .bbwait => 0xAB
  | .bbtest => 0xAC
  | .gset => 0xAD
  | .rlq => 0xAE
  | .qsub => 0xAF
  | .mrun => 0xB0
  | .mrunReg => 0xB0
  | .mmap => 0xB1
  | .munf => 0xB2
  | .mma => 0xB3
  | .mdist => 0xB4
  | .mtopk => 0xB5
  | .mzero => 0xB6
  | .mldz => 0xB7
  | .mdrain => 0xB8
  | .mpair => 0xB9
  | .msplit => 0xBA
  | .mepi => 0xBB
  | .msync => 0xBC
  | .spawn => 0xC0
  | .spawnn => 0xC1
  | .join => 0xC2
  | .park => 0xC3
  | .notify => 0xC4
  | .done => 0xC5
  | .cellrd => 0xC6
  | .gpref => 0xC7
  | .thint => 0xC8
  | .lcnt => 0xC9
  | .fget => 0xD0
  | .fput => 0xD1
  | .fmsg => 0xD2
  | .fsync => 0xD3
  | .srd => 0xD8
  | .swr => 0xD9
  | .tret => 0xDA
  | .sysc => 0xDB
  | .ctxsv => 0xDC
  | .ctxld => 0xDD
  | .wait => 0xDE
  | .halt => 0xDF

/-- Every opcode. -/
def Op.all : List Op :=
  [.nop, .mov, .movi, .laneid, .aff, .prom, .dems, .dema, .wbase, .wget, .pushm, .popm, .sspget, .sspset, .kmov, .kand, .kor, .kxor, .knot, .kpop, .kff, .add, .sub, .adds, .subs, .addc, .neg, .abs, .mul, .mulh, .mulhu, .mad, .div, .divu, .rem, .remu, .min, .max, .minu, .maxu, .clamp, .and, .or, .xor, .andn, .not, .shl, .shr, .sar, .rol, .bfx, .bfi, .popc, .clz, .brev, .lea, .cmp, .setc, .sel, .dot4, .fadd, .fsub, .fmul, .ffma, .fmin, .fmax, .fabs, .fneg, .fcmp, .fclass, .frcp, .frsq, .fsqrt, .fdiv, .fexp2, .flog2, .fsin, .fcos, .ftbl, .tload, .tflip, .cvt, .cvti, .pack, .unpk, .modeget, .modeset, .part, .vote, .shuf, .perm, .bcast, .redu, .scan, .matchLanes, .br, .brd, .bru, .jmp, .jmpi, .call, .calli, .ret, .idem, .exit, .yield, .trap, .brk, .ld, .st, .ldg, .sts, .mxld, .mxst, .pref, .ldc, .fence, .fwait, .ftest, .barc, .lres, .scnd, .lease, .gtime, .atom, .atomn, .cas, .atomf, .xadd, .xread, .xclr, .mcas, .kick, .bbinit, .bbadd, .bbwait, .bbtest, .gset, .rlq, .qsub, .mrun, .mrunReg, .mmap, .munf, .mma, .mdist, .mtopk, .mzero, .mldz, .mdrain, .mpair, .msplit, .mepi, .msync, .spawn, .spawnn, .join, .park, .notify, .done, .cellrd, .gpref, .thint, .lcnt, .fget, .fput, .fmsg, .fsync, .srd, .swr, .tret, .sysc, .ctxsv, .ctxld, .wait, .halt]

/-- The instruction of an opcode with its fields. -/
def Op.instr : Op → Enc → Instr
  | .nop, e => .nop e
  | .mov, e => .mov e
  | .movi, e => .movi e
  | .laneid, e => .laneid e
  | .aff, e => .aff e
  | .prom, e => .prom e
  | .dems, e => .dems e
  | .dema, e => .dema e
  | .wbase, e => .wbase e
  | .wget, e => .wget e
  | .pushm, e => .pushm e
  | .popm, e => .popm e
  | .sspget, e => .sspget e
  | .sspset, e => .sspset e
  | .kmov, e => .kmov e
  | .kand, e => .kand e
  | .kor, e => .kor e
  | .kxor, e => .kxor e
  | .knot, e => .knot e
  | .kpop, e => .kpop e
  | .kff, e => .kff e
  | .add, e => .add e
  | .sub, e => .sub e
  | .adds, e => .adds e
  | .subs, e => .subs e
  | .addc, e => .addc e
  | .neg, e => .neg e
  | .abs, e => .abs e
  | .mul, e => .mul e
  | .mulh, e => .mulh e
  | .mulhu, e => .mulhu e
  | .mad, e => .mad e
  | .div, e => .div e
  | .divu, e => .divu e
  | .rem, e => .rem e
  | .remu, e => .remu e
  | .min, e => .min e
  | .max, e => .max e
  | .minu, e => .minu e
  | .maxu, e => .maxu e
  | .clamp, e => .clamp e
  | .and, e => .and e
  | .or, e => .or e
  | .xor, e => .xor e
  | .andn, e => .andn e
  | .not, e => .not e
  | .shl, e => .shl e
  | .shr, e => .shr e
  | .sar, e => .sar e
  | .rol, e => .rol e
  | .bfx, e => .bfx e
  | .bfi, e => .bfi e
  | .popc, e => .popc e
  | .clz, e => .clz e
  | .brev, e => .brev e
  | .lea, e => .lea e
  | .cmp, e => .cmp e
  | .setc, e => .setc e
  | .sel, e => .sel e
  | .dot4, e => .dot4 e
  | .fadd, e => .fadd e
  | .fsub, e => .fsub e
  | .fmul, e => .fmul e
  | .ffma, e => .ffma e
  | .fmin, e => .fmin e
  | .fmax, e => .fmax e
  | .fabs, e => .fabs e
  | .fneg, e => .fneg e
  | .fcmp, e => .fcmp e
  | .fclass, e => .fclass e
  | .frcp, e => .frcp e
  | .frsq, e => .frsq e
  | .fsqrt, e => .fsqrt e
  | .fdiv, e => .fdiv e
  | .fexp2, e => .fexp2 e
  | .flog2, e => .flog2 e
  | .fsin, e => .fsin e
  | .fcos, e => .fcos e
  | .ftbl, e => .ftbl e
  | .tload, e => .tload e
  | .tflip, e => .tflip e
  | .cvt, e => .cvt e
  | .cvti, e => .cvti e
  | .pack, e => .pack e
  | .unpk, e => .unpk e
  | .modeget, e => .modeget e
  | .modeset, e => .modeset e
  | .part, e => .part e
  | .vote, e => .vote e
  | .shuf, e => .shuf e
  | .perm, e => .perm e
  | .bcast, e => .bcast e
  | .redu, e => .redu e
  | .scan, e => .scan e
  | .matchLanes, e => .matchLanes e
  | .br, e => .br e
  | .brd, e => .brd e
  | .bru, e => .bru e
  | .jmp, e => .jmp e
  | .jmpi, e => .jmpi e
  | .call, e => .call e
  | .calli, e => .calli e
  | .ret, e => .ret e
  | .idem, e => .idem e
  | .exit, e => .exit e
  | .yield, e => .yield e
  | .trap, e => .trap e
  | .brk, e => .brk e
  | .ld, e => .ld e
  | .st, e => .st e
  | .ldg, e => .ldg e
  | .sts, e => .sts e
  | .mxld, e => .mxld e
  | .mxst, e => .mxst e
  | .pref, e => .pref e
  | .ldc, e => .ldc e
  | .fence, e => .fence e
  | .fwait, e => .fwait e
  | .ftest, e => .ftest e
  | .barc, e => .barc e
  | .lres, e => .lres e
  | .scnd, e => .scnd e
  | .lease, e => .lease e
  | .gtime, e => .gtime e
  | .atom, e => .atom e
  | .atomn, e => .atomn e
  | .cas, e => .cas e
  | .atomf, e => .atomf e
  | .xadd, e => .xadd e
  | .xread, e => .xread e
  | .xclr, e => .xclr e
  | .mcas, e => .mcas e
  | .kick, e => .kick e
  | .bbinit, e => .bbinit e
  | .bbadd, e => .bbadd e
  | .bbwait, e => .bbwait e
  | .bbtest, e => .bbtest e
  | .gset, e => .gset e
  | .rlq, e => .rlq e
  | .qsub, e => .qsub e
  | .mrun, e => .mrun e
  | .mrunReg, e => .mrunReg e
  | .mmap, e => .mmap e
  | .munf, e => .munf e
  | .mma, e => .mma e
  | .mdist, e => .mdist e
  | .mtopk, e => .mtopk e
  | .mzero, e => .mzero e
  | .mldz, e => .mldz e
  | .mdrain, e => .mdrain e
  | .mpair, e => .mpair e
  | .msplit, e => .msplit e
  | .mepi, e => .mepi e
  | .msync, e => .msync e
  | .spawn, e => .spawn e
  | .spawnn, e => .spawnn e
  | .join, e => .join e
  | .park, e => .park e
  | .notify, e => .notify e
  | .done, e => .done e
  | .cellrd, e => .cellrd e
  | .gpref, e => .gpref e
  | .thint, e => .thint e
  | .lcnt, e => .lcnt e
  | .fget, e => .fget e
  | .fput, e => .fput e
  | .fmsg, e => .fmsg e
  | .fsync, e => .fsync e
  | .srd, e => .srd e
  | .swr, e => .swr e
  | .tret, e => .tret e
  | .sysc, e => .sysc e
  | .ctxsv, e => .ctxsv e
  | .ctxld, e => .ctxld e
  | .wait, e => .wait e
  | .halt, e => .halt e

/-- The opcode and fields of a machine instruction; none for a step of an agent. -/
def Instr.parts : Instr → Option (Op × Enc)
  | .nop e => some (.nop, e)
  | .mov e => some (.mov, e)
  | .movi e => some (.movi, e)
  | .laneid e => some (.laneid, e)
  | .aff e => some (.aff, e)
  | .prom e => some (.prom, e)
  | .dems e => some (.dems, e)
  | .dema e => some (.dema, e)
  | .wbase e => some (.wbase, e)
  | .wget e => some (.wget, e)
  | .pushm e => some (.pushm, e)
  | .popm e => some (.popm, e)
  | .sspget e => some (.sspget, e)
  | .sspset e => some (.sspset, e)
  | .kmov e => some (.kmov, e)
  | .kand e => some (.kand, e)
  | .kor e => some (.kor, e)
  | .kxor e => some (.kxor, e)
  | .knot e => some (.knot, e)
  | .kpop e => some (.kpop, e)
  | .kff e => some (.kff, e)
  | .add e => some (.add, e)
  | .sub e => some (.sub, e)
  | .adds e => some (.adds, e)
  | .subs e => some (.subs, e)
  | .addc e => some (.addc, e)
  | .neg e => some (.neg, e)
  | .abs e => some (.abs, e)
  | .mul e => some (.mul, e)
  | .mulh e => some (.mulh, e)
  | .mulhu e => some (.mulhu, e)
  | .mad e => some (.mad, e)
  | .div e => some (.div, e)
  | .divu e => some (.divu, e)
  | .rem e => some (.rem, e)
  | .remu e => some (.remu, e)
  | .min e => some (.min, e)
  | .max e => some (.max, e)
  | .minu e => some (.minu, e)
  | .maxu e => some (.maxu, e)
  | .clamp e => some (.clamp, e)
  | .and e => some (.and, e)
  | .or e => some (.or, e)
  | .xor e => some (.xor, e)
  | .andn e => some (.andn, e)
  | .not e => some (.not, e)
  | .shl e => some (.shl, e)
  | .shr e => some (.shr, e)
  | .sar e => some (.sar, e)
  | .rol e => some (.rol, e)
  | .bfx e => some (.bfx, e)
  | .bfi e => some (.bfi, e)
  | .popc e => some (.popc, e)
  | .clz e => some (.clz, e)
  | .brev e => some (.brev, e)
  | .lea e => some (.lea, e)
  | .cmp e => some (.cmp, e)
  | .setc e => some (.setc, e)
  | .sel e => some (.sel, e)
  | .dot4 e => some (.dot4, e)
  | .fadd e => some (.fadd, e)
  | .fsub e => some (.fsub, e)
  | .fmul e => some (.fmul, e)
  | .ffma e => some (.ffma, e)
  | .fmin e => some (.fmin, e)
  | .fmax e => some (.fmax, e)
  | .fabs e => some (.fabs, e)
  | .fneg e => some (.fneg, e)
  | .fcmp e => some (.fcmp, e)
  | .fclass e => some (.fclass, e)
  | .frcp e => some (.frcp, e)
  | .frsq e => some (.frsq, e)
  | .fsqrt e => some (.fsqrt, e)
  | .fdiv e => some (.fdiv, e)
  | .fexp2 e => some (.fexp2, e)
  | .flog2 e => some (.flog2, e)
  | .fsin e => some (.fsin, e)
  | .fcos e => some (.fcos, e)
  | .ftbl e => some (.ftbl, e)
  | .tload e => some (.tload, e)
  | .tflip e => some (.tflip, e)
  | .cvt e => some (.cvt, e)
  | .cvti e => some (.cvti, e)
  | .pack e => some (.pack, e)
  | .unpk e => some (.unpk, e)
  | .modeget e => some (.modeget, e)
  | .modeset e => some (.modeset, e)
  | .part e => some (.part, e)
  | .vote e => some (.vote, e)
  | .shuf e => some (.shuf, e)
  | .perm e => some (.perm, e)
  | .bcast e => some (.bcast, e)
  | .redu e => some (.redu, e)
  | .scan e => some (.scan, e)
  | .matchLanes e => some (.matchLanes, e)
  | .br e => some (.br, e)
  | .brd e => some (.brd, e)
  | .bru e => some (.bru, e)
  | .jmp e => some (.jmp, e)
  | .jmpi e => some (.jmpi, e)
  | .call e => some (.call, e)
  | .calli e => some (.calli, e)
  | .ret e => some (.ret, e)
  | .idem e => some (.idem, e)
  | .exit e => some (.exit, e)
  | .yield e => some (.yield, e)
  | .trap e => some (.trap, e)
  | .brk e => some (.brk, e)
  | .ld e => some (.ld, e)
  | .st e => some (.st, e)
  | .ldg e => some (.ldg, e)
  | .sts e => some (.sts, e)
  | .mxld e => some (.mxld, e)
  | .mxst e => some (.mxst, e)
  | .pref e => some (.pref, e)
  | .ldc e => some (.ldc, e)
  | .fence e => some (.fence, e)
  | .fwait e => some (.fwait, e)
  | .ftest e => some (.ftest, e)
  | .barc e => some (.barc, e)
  | .lres e => some (.lres, e)
  | .scnd e => some (.scnd, e)
  | .lease e => some (.lease, e)
  | .gtime e => some (.gtime, e)
  | .atom e => some (.atom, e)
  | .atomn e => some (.atomn, e)
  | .cas e => some (.cas, e)
  | .atomf e => some (.atomf, e)
  | .xadd e => some (.xadd, e)
  | .xread e => some (.xread, e)
  | .xclr e => some (.xclr, e)
  | .mcas e => some (.mcas, e)
  | .kick e => some (.kick, e)
  | .bbinit e => some (.bbinit, e)
  | .bbadd e => some (.bbadd, e)
  | .bbwait e => some (.bbwait, e)
  | .bbtest e => some (.bbtest, e)
  | .gset e => some (.gset, e)
  | .rlq e => some (.rlq, e)
  | .qsub e => some (.qsub, e)
  | .mrun e => some (.mrun, e)
  | .mrunReg e => some (.mrunReg, e)
  | .mmap e => some (.mmap, e)
  | .munf e => some (.munf, e)
  | .mma e => some (.mma, e)
  | .mdist e => some (.mdist, e)
  | .mtopk e => some (.mtopk, e)
  | .mzero e => some (.mzero, e)
  | .mldz e => some (.mldz, e)
  | .mdrain e => some (.mdrain, e)
  | .mpair e => some (.mpair, e)
  | .msplit e => some (.msplit, e)
  | .mepi e => some (.mepi, e)
  | .msync e => some (.msync, e)
  | .spawn e => some (.spawn, e)
  | .spawnn e => some (.spawnn, e)
  | .join e => some (.join, e)
  | .park e => some (.park, e)
  | .notify e => some (.notify, e)
  | .done e => some (.done, e)
  | .cellrd e => some (.cellrd, e)
  | .gpref e => some (.gpref, e)
  | .thint e => some (.thint, e)
  | .lcnt e => some (.lcnt, e)
  | .fget e => some (.fget, e)
  | .fput e => some (.fput, e)
  | .fmsg e => some (.fmsg, e)
  | .fsync e => some (.fsync, e)
  | .srd e => some (.srd, e)
  | .swr e => some (.swr, e)
  | .tret e => some (.tret, e)
  | .sysc e => some (.sysc, e)
  | .ctxsv e => some (.ctxsv, e)
  | .ctxld e => some (.ctxld, e)
  | .wait e => some (.wait, e)
  | .halt e => some (.halt, e)
  | .asyncFaultDelivery _ => none
  | .fairnessBurst _ => none
  | .burstEnd _ => none
  | .runAheadEnd _ => none
  | .strandRetire _ => none
  | .cellDispatch _ => none
  | .passedOverLimit _ _ _ => none
  | .levelRoomEnqueue _ => none
  | .swarmCompletionReport _ _ => none
  | .combRetire _ _ => none
  | .sliceBegin _ => none
  | .sliceExpiry _ => none
  | .slcmdEnd _ => none
  | .combImageComplete _ _ => none
  | .combResume _ => none
  | .tloadProceed _ => none
  | .wcbDrain _ _ => none
  | .wcbIdleDrain _ _ => none
  | .homeStoreApply _ _ => none
  | .storeAck _ _ => none
  | .farMissPark _ => none
  | .loadFill _ _ _ => none
  | .pageFill _ _ => none
  | .writebackAck _ => none
  | .lateWritebackArrival _ => none
  | .directoryMerge _ => none
  | .reservationExpiry _ _ => none
  | .fenceTokenWrite _ _ => none
  | .fwaitWake _ => none
  | .barcRelease _ _ _ => none
  | .bbwaitWake _ => none
  | .waitWake _ => none
  | .atomicExecute _ _ => none
  | .atomicResponse _ _ => none
  | .mcasLockPhase _ => none
  | .mcasCommit _ => none
  | .hostSnoop _ => none
  | .snoopResponse _ => none
  | .backInvalidate _ => none
  | .hostCxlMemAccess _ _ _ _ => none
  | .poisonDetect _ => none
  | .faultBatchWrite _ _ => none
  | .fqres1Resolve _ _ => none
  | .combFaultResume _ => none
  | .leaseExpire _ => none
  | .leaseRevokeDeadline _ => none
  | .revocationNotice _ _ => none
  | .poolNodeLost _ _ => none
  | .leaseAcquire _ _ _ => none
  | .leaseRenew _ _ => none
  | .leaseRemap _ _ _ _ _ => none
  | .leaseRelease _ => none
  | .counterHalving _ => none
  | .kickRegister _ => none
  | .copyRequestStart _ _ => none
  | .copyChunk _ _ _ => none
  | .droneQsubResponse _ _ => none
  | .droneEntryComplete _ _ _ _ _ => none
  | .fabricMessageReceive _ _ _ _ => none
  | .mrunStart _ => none
  | .matrixCommandStart _ => none
  | .matrixCommandComplete _ => none
  | .streamEnd _ => none
  | .sequencerFetchFault _ => none
  | .sequencerRestore _ _ => none
  | .mpairStart _ => none
  | .pairTimeout _ => none
  | .fabricRequestArrival _ => none
  | .fabricResponseArrival _ => none
  | .fabricResend _ _ => none
  | .fabricTimeout _ _ => none
  | .fabricUnreachable _ => none
  | .linkDown _ => none
  | .limitNotice _ => none
  | .noticeReceive _ => none
  | .limitApply => none
  | .heartbeatSend => none
  | .heartbeatReceive _ => none
  | .memberRemoval _ => none
  | .removedMessage _ => none
  | .accordIsolation => none
  | .emergencyTrip => none
  | .accordJoin _ => none
  | .joinRequestReceive _ _ _ => none
  | .snapshotReceive _ _ => none
  | .joinTimeout => none
  | .adoption => none
  | .accordLeave => none
  | .leaveEffective _ => none
  | .syncWrite _ => none
  | .doorbellNotify _ => none
  | .summary => none
  | .inval => none
  | .remove => none
  | .reset => none
  | .mgmtCommandComplete => none
  | .dbgResume _ => none
  | .dbgDeliver _ => none
  | .dbgSave _ => none
  | .dbgLoad _ => none
  | .dbgattWrite _ => none
  | .mgmtRegisterWrite _ _ _ => none
  | .tamperAlarm => none
  | .glitchAlarm => none
  | .coreInternalError _ => none
  | .bringUp _ _ => none
  | .lifeCounterFlush => none
  | .contextLoss _ => none
  | .spdmHeartbeatTimeout _ => none
  | .keySlotLoad _ _ _ => none
  | .bandwidthRefill _ => none
  | .loadPerform _ _ _ => none
  | .deviceScopeTermReached _ => none
  | .linkUp _ => none
  | .packetTransit _ _ _ => none
  | .accctlEnWrite _ => none
  | .sponsorRefusal => none
  | .tdispRequest _ _ => none
  | .spdmRequest _ _ => none
  | .sandboxAccess _ _ _ _ _ => none
  | .sfenceVma _ => none
  | .dbgctlLockWrite => none
  | .powerLoss => none
  | .hbmLend _ _ => none

/-- The opcode with the name `code` of R34 and variant `sub`; none where R34 shows a dot. -/
def Op.ofCode (code sub : Nat) : Option Op :=
  match code with
  | 0x01 => some .nop
  | 0x02 => some .mov
  | 0x03 => some .movi
  | 0x04 => some .laneid
  | 0x05 => some .aff
  | 0x06 => some .prom
  | 0x07 => some .dems
  | 0x08 => some .dema
  | 0x09 => some .wbase
  | 0x0A => some .wget
  | 0x0B => some .pushm
  | 0x0C => some .popm
  | 0x0D => some .sspget
  | 0x0E => some .sspset
  | 0x10 => some .kmov
  | 0x11 => some .kand
  | 0x12 => some .kor
  | 0x13 => some .kxor
  | 0x14 => some .knot
  | 0x15 => some .kpop
  | 0x16 => some .kff
  | 0x20 => some .add
  | 0x21 => some .sub
  | 0x22 => some .adds
  | 0x23 => some .subs
  | 0x24 => some .addc
  | 0x25 => some .neg
  | 0x26 => some .abs
  | 0x27 => some .mul
  | 0x28 => some .mulh
  | 0x29 => some .mulhu
  | 0x2A => some .mad
  | 0x2B => some .div
  | 0x2C => some .divu
  | 0x2D => some .rem
  | 0x2E => some .remu
  | 0x30 => some .min
  | 0x31 => some .max
  | 0x32 => some .minu
  | 0x33 => some .maxu
  | 0x34 => some .clamp
  | 0x35 => some .and
  | 0x36 => some .or
  | 0x37 => some .xor
  | 0x38 => some .andn
  | 0x39 => some .not
  | 0x3A => some .shl
  | 0x3B => some .shr
  | 0x3C => some .sar
  | 0x3D => some .rol
  | 0x3E => some .bfx
  | 0x3F => some .bfi
  | 0x40 => some .popc
  | 0x41 => some .clz
  | 0x42 => some .brev
  | 0x43 => some .lea
  | 0x44 => some .cmp
  | 0x45 => some .setc
  | 0x46 => some .sel
  | 0x47 => some .dot4
  | 0x50 => some .fadd
  | 0x51 => some .fsub
  | 0x52 => some .fmul
  | 0x53 => some .ffma
  | 0x54 => some .fmin
  | 0x55 => some .fmax
  | 0x56 => some .fabs
  | 0x57 => some .fneg
  | 0x58 => some .fcmp
  | 0x59 => some .fclass
  | 0x5A => some .frcp
  | 0x5B => some .frsq
  | 0x5C => some .fsqrt
  | 0x5D => some .fdiv
  | 0x5E => some .fexp2
  | 0x5F => some .flog2
  | 0x60 => some .fsin
  | 0x61 => some .fcos
  | 0x62 => some .ftbl
  | 0x63 => some .tload
  | 0x64 => some .tflip
  | 0x65 => some .cvt
  | 0x66 => some .cvti
  | 0x67 => some .pack
  | 0x68 => some .unpk
  | 0x69 => some .modeget
  | 0x6A => some .modeset
  | 0x70 => some .part
  | 0x71 => some .vote
  | 0x72 => some .shuf
  | 0x73 => some .perm
  | 0x74 => some .bcast
  | 0x75 => some .redu
  | 0x76 => some .scan
  | 0x77 => some .matchLanes
  | 0x80 => some .br
  | 0x81 => some .brd
  | 0x82 => some .bru
  | 0x83 => some .jmp
  | 0x84 => some .jmpi
  | 0x85 => some .call
  | 0x86 => some .calli
  | 0x87 => some .ret
  | 0x88 => some .idem
  | 0x89 => some .exit
  | 0x8A => some .yield
  | 0x8B => some .trap
  | 0x8C => some .brk
  | 0x90 => some .ld
  | 0x91 => some .st
  | 0x92 => some .ldg
  | 0x93 => some .sts
  | 0x94 => some .mxld
  | 0x95 => some .mxst
  | 0x96 => some .pref
  | 0x97 => some .ldc
  | 0x98 => some .fence
  | 0x99 => some .fwait
  | 0x9A => some .ftest
  | 0x9B => some .barc
  | 0x9C => some .lres
  | 0x9D => some .scnd
  | 0x9E => some .lease
  | 0x9F => some .gtime
  | 0xA0 => some .atom
  | 0xA1 => some .atomn
  | 0xA2 => some .cas
  | 0xA3 => some .atomf
  | 0xA4 => some .xadd
  | 0xA5 => some .xread
  | 0xA6 => some .xclr
  | 0xA7 => some .mcas
  | 0xA8 => some .kick
  | 0xA9 => some .bbinit
  | 0xAA => some .bbadd
  | 0xAB => some .bbwait
  | 0xAC => some .bbtest
  | 0xAD => some .gset
  | 0xAE => some .rlq
  | 0xAF => some .qsub
  | 0xB0 => some (if sub = 1 then .mrunReg else .mrun)
  | 0xB1 => some .mmap
  | 0xB2 => some .munf
  | 0xB3 => some .mma
  | 0xB4 => some .mdist
  | 0xB5 => some .mtopk
  | 0xB6 => some .mzero
  | 0xB7 => some .mldz
  | 0xB8 => some .mdrain
  | 0xB9 => some .mpair
  | 0xBA => some .msplit
  | 0xBB => some .mepi
  | 0xBC => some .msync
  | 0xC0 => some .spawn
  | 0xC1 => some .spawnn
  | 0xC2 => some .join
  | 0xC3 => some .park
  | 0xC4 => some .notify
  | 0xC5 => some .done
  | 0xC6 => some .cellrd
  | 0xC7 => some .gpref
  | 0xC8 => some .thint
  | 0xC9 => some .lcnt
  | 0xD0 => some .fget
  | 0xD1 => some .fput
  | 0xD2 => some .fmsg
  | 0xD3 => some .fsync
  | 0xD8 => some .srd
  | 0xD9 => some .swr
  | 0xDA => some .tret
  | 0xDB => some .sysc
  | 0xDC => some .ctxsv
  | 0xDD => some .ctxld
  | 0xDE => some .wait
  | 0xDF => some .halt
  | _ => none

end Sys2Proof
end

