-- ==== Sys2Proof/WellFormed.lean ====
section
/-! DEFINITION. Which encodings are legal: the tables of type forms, variants, qualifiers, guards and fields of every opcode (R26 to R34 and the encoding table of each chapter), the decode checks of R32 in their order, and the checks that depend on the state: what a sequencer accepts (R33) and what needs privilege (R407). -/

namespace Sys2Proof

/-- The class of a field (R26): uniform, affine, varying, lane mask, or given by the instruction's description. -/
inductive Cls | s | a | v | k | n
  deriving DecidableEq, Repr

/-- The four register fields. -/
inductive Fld | d | a | b | c
  deriving DecidableEq, Repr

/-- The class signatures of the type forms: D, A, B, C (R26). -/
def signature : Nat → Cls × Cls × Cls × Cls
  | 0 => (.s, .s, .s, .s)
  | 1 => (.s, .v, .s, .s)
  | 2 => (.s, .k, .s, .s)
  | 3 => (.s, .a, .s, .s)
  | 4 => (.a, .a, .a, .s)
  | 5 => (.a, .a, .s, .s)
  | 6 => (.a, .s, .a, .s)
  | 7 => (.a, .s, .s, .s)
  | 8 => (.a, .a, .s, .a)
  | 9 => (.a, .v, .s, .s)
  | 10 => (.v, .v, .v, .v)
  | 11 => (.v, .v, .s, .s)
  | 12 => (.v, .v, .v, .s)
  | 13 => (.v, .v, .s, .v)
  | 14 => (.v, .s, .v, .v)
  | 15 => (.v, .s, .v, .s)
  | 16 => (.v, .s, .s, .v)
  | 17 => (.v, .s, .s, .s)
  | 18 => (.v, .v, .a, .s)
  | 19 => (.v, .a, .v, .s)
  | 20 => (.v, .a, .a, .s)
  | 21 => (.v, .a, .s, .s)
  | 22 => (.v, .v, .v, .a)
  | 23 => (.v, .v, .v, .k)
  | 24 => (.k, .v, .v, .s)
  | 25 => (.k, .v, .s, .s)
  | 26 => (.k, .v, .a, .s)
  | 27 => (.k, .a, .s, .s)
  | 28 => (.k, .a, .a, .s)
  | 29 => (.k, .k, .k, .s)
  | 30 => (.k, .s, .s, .s)
  | _ => (.n, .n, .n, .n)

/-- ClassOf(tf, f) of R32. -/
def classOf (tf : Nat) (f : Fld) : Cls :=
  let s := signature tf
  match f with | .d => s.1 | .a => s.2.1 | .b => s.2.2.1 | .c => s.2.2.2

/-- InRange(class, value) of R32: the table of R27. -/
def inRange (c : Cls) (n : Nat) : Bool :=
  match c with | .s => n ≤ 79 | .a => n ≤ 31 | .v => n ≤ 127 | .k => n ≤ 7 | .n => true

/-- Field(f) of R32. -/
def Enc.field (e : Enc) : Fld → Nat
  | .d => e.d.toNat | .a => e.a.toNat | .b => e.b.toNat | .c => e.c.toNat

/-- The short type form of an opcode, none where the opcode map has a dash (R34, R137). -/
def Op.shortTf : Op → Option Nat
  | .nop | .pushm | .popm | .tload | .tflip | .bru | .jmp | .jmpi | .call | .calli | .ret | .idem | .exit | .yield | .trap | .brk
  | .fence | .fwait | .ftest | .barc | .lease | .gtime | .mcas | .kick | .bbinit | .bbadd | .bbwait | .bbtest | .gset | .qsub
  | .mrun | .mrunReg | .mmap | .munf | .mma | .mdist | .mtopk | .mzero | .mldz | .mdrain | .mpair | .msplit | .mepi | .msync
  | .spawn | .spawnn | .join | .park | .notify | .done | .cellrd | .fsync | .srd | .swr | .tret | .sysc | .ctxsv | .ctxld | .wait | .halt => some 31
  | .movi | .wbase | .wget | .sspget | .sspset | .modeget | .modeset | .part | .ldc => some 0
  | .mov | .neg | .abs | .not | .popc | .clz | .brev | .fadd | .fsub | .fmul | .fmin | .fmax | .fabs | .fneg | .frcp | .frsq | .fsqrt | .fdiv
  | .fexp2 | .flog2 | .fsin | .fcos | .ftbl | .perm => some 10
  | .laneid => some 17
  | .aff => some 7
  | .prom | .ld | .st => some 21
  | .dems => some 1
  | .dema => some 9
  | .kmov | .kand | .kor | .kxor | .knot => some 29
  | .kpop | .kff => some 2
  | .add | .sub | .adds | .subs | .mul | .mulh | .mulhu | .div | .divu | .rem | .remu | .min | .max | .minu | .maxu
  | .and | .or | .xor | .andn | .shl | .shr | .sar | .rol | .shuf | .bcast => some 11
  | .cmp | .fcmp => some 24
  | .addc | .mad | .clamp | .bfx | .bfi | .lea | .setc | .sel | .dot4 | .ffma | .fclass | .cvt | .cvti | .pack | .unpk
  | .vote | .redu | .scan | .matchLanes | .br | .brd | .ldg | .sts | .mxld | .mxst | .pref | .lres | .scnd
  | .atom | .atomn | .cas | .atomf | .xadd | .xread | .xclr | .rlq | .gpref | .thint | .lcnt | .fget | .fput | .fmsg => none

/-- LegalTF(op, ·) of R32: the legal type forms of each opcode (R55, R73, R109, R137, R150, R181, R207, R228, R254, R278, R299, R326, R357, R387, R409). -/
def Op.legalTfs : Op → List Nat
  | .mov => [10, 0, 5]
  | .movi => [0, 17]
  | .laneid => [17, 7]
  | .aff => [7]
  | .prom => [21, 17]
  | .dems => [1]
  | .dema => [9]
  | .wbase | .wget | .sspget | .sspset | .modeget | .modeset | .part | .gpref | .thint => [0]
  | .kmov => [29, 30]
  | .kand | .kor | .kxor | .knot => [29]
  | .kpop | .kff => [2]
  | .add | .sub => [11, 0, 10, 14, 17, 18, 19, 20, 21, 4, 5, 6]
  | .adds | .subs | .mulh | .mulhu | .div | .divu | .rem | .remu | .min | .max | .minu | .maxu
  | .and | .or | .xor | .andn | .shr | .sar | .rol | .setc => [11, 0, 10, 14, 17, 18, 19, 20, 21]
  | .mul => [11, 0, 10, 14, 17, 18, 19, 20, 21, 5, 6]
  | .shl => [11, 0, 10, 14, 17, 18, 19, 20, 21, 5]
  | .addc | .sel => [0, 23]
  | .neg => [10, 0, 21, 5]
  | .abs | .not | .popc | .clz | .brev => [10, 0, 21]
  | .mad => [0, 8, 10, 12, 13, 14, 16, 22]
  | .clamp => [0, 10, 11, 12, 13]
  | .bfx | .bfi => [0, 10, 11, 12]
  | .lea => [0, 4, 5, 6, 10, 11, 14, 17, 18, 19, 20, 21]
  | .cmp => [24, 0, 25, 26, 27, 28]
  | .dot4 => [0, 10, 12, 13]
  | .fadd | .fsub | .fmul | .fmin | .fmax | .fdiv => [10, 11, 14, 0]
  | .ffma => [10, 12, 13, 14, 16, 0]
  | .fabs | .fneg | .fclass | .frcp | .frsq | .fsqrt | .fexp2 | .flog2 | .fsin | .fcos | .ftbl | .cvt | .cvti => [10, 0]
  | .fcmp => [24, 25, 0]
  | .pack => [12, 0]
  | .unpk => [11, 0]
  | .vote => [1, 2, 25, 29]
  | .shuf => [11, 31]
  | .perm => [10, 23]
  | .bcast => [11, 1, 31]
  | .redu => [1, 10]
  | .scan => [10]
  | .matchLanes => [10, 25]
  | .ld | .ldg | .sts => [21, 0, 11, 17]
  | .st => [21, 0, 1, 3, 11, 17]
  | .mxld | .mxst => [17]
  | .pref => [21, 11, 17]
  | .ldc => [0, 11]
  | .lres => [21, 11, 0]
  | .scnd => [24, 30]
  | .atom | .atomn | .cas | .atomf => [0, 11, 12, 17, 18, 19, 20, 21]
  | .xadd => [0, 11, 12, 17, 19, 21]
  | .xread | .xclr | .lcnt => [0, 11, 17, 21]
  | .rlq => [25, 27, 0]
  | .nop | .pushm | .popm | .tload | .tflip | .br | .brd | .bru | .jmp | .jmpi | .call | .calli | .ret | .idem | .exit | .yield | .trap | .brk
  | .fence | .fwait | .ftest | .barc | .lease | .gtime | .mcas | .kick | .bbinit | .bbadd | .bbwait | .bbtest | .gset | .qsub
  | .mrun | .mrunReg | .mmap | .munf | .mma | .mdist | .mtopk | .mzero | .mldz | .mdrain | .mpair | .msplit | .mepi | .msync
  | .spawn | .spawnn | .join | .park | .notify | .done | .cellrd | .fget | .fput | .fmsg | .fsync
  | .srd | .swr | .tret | .sysc | .ctxsv | .ctxld | .wait | .halt => [31]

/-- LegalSub(op, ·) of R32: the variants that each opcode lists (R31, R137). MRUN holds SUB 0 and its register form SUB 1 (R278). -/
def Op.legalSub (o : Op) (sub : Nat) : Bool :=
  match o with
  | .pushm | .popm | .modeset | .vote | .mtopk | .fsync | .msync => sub ≤ 3
  | .adds | .subs => sub ≤ 5
  | .addc | .clamp | .bfx | .modeget | .matchLanes | .bru | .jmpi | .calli | .barc | .lease | .gtime | .xread | .bbadd | .gset
  | .mzero | .mldz | .join | .notify | .gpref | .thint | .lcnt => sub ≤ 1
  | .min | .max | .minu | .maxu | .dot4 | .fadd | .fsub | .fmul | .ffma | .fmin | .fmax | .fabs | .fneg | .fclass | .shuf
  | .st | .ldg | .sts | .pref | .fence | .rlq | .srd | .swr => sub ≤ 2
  | .lea | .ld => sub ≤ 4
  | .cmp | .setc => sub ≤ 9
  | .fcmp | .cellrd => sub ≤ 7
  | .cvt => sub ≤ 255
  | .cvti => sub / 16 ≤ 2 && sub % 16 ≤ 4
  | .pack | .unpk => sub ≤ 15 && sub != 0 && sub != 8 && sub != 9
  | .redu | .scan => sub ≤ 10
  | .mxld | .mxst => [3, 4, 5, 6, 7, 12].contains sub
  | .atom | .atomn => sub / 16 ≤ 1 && sub % 16 ≤ 10
  | .cas => sub == 0 || sub == 16
  | .atomf => sub / 4 ≤ 2 && sub % 4 ≤ 2
  | .mdrain | .mepi => sub ≤ 15
  | .mrunReg => sub == 1
  | _ => sub == 0

/-- QbMask(op, sub) of R32: the qualifier bits that the instruction assigns (R30, R137). -/
def Op.qbMask (o : Op) (sub : Nat) : Nat :=
  match o with
  | .rlq => if sub = 2 then 0 else 3
  | .aff | .add | .sub | .neg | .mul | .mad | .shl | .lea | .cmp | .setc | .fcmp | .shuf | .perm | .bcast | .scan | .gpref => 1
  | .cvt | .pack | .atomf => 7
  | .ld | .st | .ldg | .sts | .mxld | .mxst | .pref | .lres | .scnd | .atom | .atomn | .cas | .xadd | .xread | .xclr | .lcnt | .idem => 3
  | .mma | .mdist | .mtopk | .mzero | .mldz | .mdrain | .fget | .fput => 15
  | .mepi => 31
  | _ => 0

/-- Whether G may be non-zero: the negation of NoGuard(op, sub) of R32 (R29, R137). -/
def Op.takesGuard : Op → Bool
  | .nop | .wbase | .wget | .pushm | .popm | .sspget | .sspset | .tload | .tflip | .part | .bru | .jmp | .idem | .yield
  | .fence | .fwait | .ftest | .barc | .lease | .gtime | .mcas | .kick | .bbinit | .bbadd | .bbwait | .bbtest | .gset | .rlq | .qsub
  | .mrun | .mrunReg | .mmap | .munf | .mma | .mdist | .mtopk | .mzero | .mldz | .mdrain | .mpair | .msplit | .mepi | .msync
  | .spawn | .spawnn | .join | .park | .notify | .done | .cellrd | .gpref | .thint | .fget | .fput | .fmsg | .fsync
  | .srd | .swr | .tret | .ctxsv | .ctxld | .wait | .halt => false
  | _ => true

/-- Whether the opcode names a base pair in C for the spaces .g and .f, QB[0] = 1 (R175, R230, R254). -/
def Op.usesBase : Op → Bool
  | .ld | .st | .ldg | .sts | .mxld | .mxst | .pref | .lres | .scnd | .atom | .atomn | .cas | .atomf | .xadd | .xread | .xclr | .lcnt | .rlq => true
  | _ => false

/-- QB bit `n` of an encoding. -/
def Enc.qbit (e : Enc) (n : Nat) : Bool := e.qb.getLsbD n

/-- Uses(op, sub, f) of R32 outside type form 31 (R28, R137), with the space and the qualifiers that decide it. -/
def Op.uses (o : Op) (e : Enc) (f : Fld) : Bool :=
  match o, f with
  | .mov, .b | .mov, .c | .prom, .b | .prom, .c | .dems, .b | .dems, .c | .kmov, .b | .kmov, .c | .knot, .b | .knot, .c
  | .kpop, .b | .kpop, .c | .kff, .b | .kff, .c | .neg, .b | .neg, .c | .abs, .b | .abs, .c | .not, .b | .not, .c
  | .popc, .b | .popc, .c | .clz, .b | .clz, .c | .brev, .b | .brev, .c | .fabs, .b | .fabs, .c | .fneg, .b | .fneg, .c
  | .fclass, .b | .fclass, .c | .frcp, .b | .frcp, .c | .frsq, .b | .frsq, .c | .fsqrt, .b | .fsqrt, .c | .fexp2, .b | .fexp2, .c
  | .flog2, .b | .flog2, .c | .fsin, .b | .fsin, .c | .fcos, .b | .fcos, .c | .ftbl, .b | .ftbl, .c | .cvt, .b | .cvt, .c
  | .cvti, .b | .cvti, .c | .vote, .b | .vote, .c | .redu, .b | .redu, .c | .scan, .b | .scan, .c | .matchLanes, .b | .matchLanes, .c
  | .gpref, .b | .gpref, .c | .thint, .b | .thint, .c => false
  | .movi, .a | .movi, .c => false
  | .laneid, .a | .laneid, .b | .laneid, .c | .wget, .a | .wget, .b | .wget, .c | .sspget, .a | .sspget, .b | .sspget, .c
  | .modeget, .a | .modeget, .b | .modeget, .c => false
  | .wbase, .d | .wbase, .a | .wbase, .c | .sspset, .d | .sspset, .a | .sspset, .c | .modeset, .d | .modeset, .a | .modeset, .c
  | .part, .d | .part, .a | .part, .c => false
  | .addc, _ | .mad, _ | .clamp, _ | .bfx, _ | .bfi, _ | .sel, _ | .dot4, _ | .ffma, _ | .pack, _ => true
  | .shuf, .c | .perm, .c | .bcast, .c => e.qbit 0
  | .pref, .d | .atomn, .d | .xadd, .d | .xclr, .d => false
  | .atomf, .d => !e.qbit 2
  | .xread, .b | .xclr, .b => false
  | .rlq, .a | .rlq, .b => e.sub.toNat != 2
  | .rlq, .c => e.sub.toNat != 2 && e.qbit 0
  | o, .c => o.usesBase && e.qbit 0
  | _, _ => true

/-- What a field of a type form 31 instruction may hold. -/
inductive Slot31
  /-- Not used: 0 (R28). -/
  | none
  /-- A number up to `hi`. -/
  | upTo (hi : Nat)
  /-- An even number up to `hi`: a register pair. -/
  | even (hi : Nat)
  /-- A uniform operand (R25): a register 0 to 79, an immediate, or the literal. -/
  | operand
  /-- An immediate from 0 to `hi`, with I = 1. -/
  | imm (hi : Nat)
  /-- Bits of an offset field (R151), with I = 0. -/
  | offset
  deriving DecidableEq, Repr

/-- The D, A, B and C fields of the type form 31 instructions, but for IDEM, which has rules of its own. -/
def Op.slots31 (o : Op) (e : Enc) : Slot31 × Slot31 × Slot31 × Slot31 :=
  let sub := e.sub.toNat
  match o with
  | .pushm | .popm => (.upTo 127, .upTo 127, .none, .none)
  | .tload => (.none, .upTo 79, .imm 1, .none)
  | .tflip => (.none, .none, .imm 1, .none)
  | .shuf | .bcast => (.upTo 127, .upTo 127, .operand, .upTo 7)
  | .br | .brd | .jmp | .mrun => (.offset, .offset, .offset, .none)
  | .bru => (.upTo 79, .offset, .offset, .none)
  | .jmpi => (.none, if sub = 0 then .upTo 79 else .upTo 127, .none, .none)
  | .call => (.offset, .offset, .offset, .upTo 127)
  | .calli => (.none, if sub = 0 then .upTo 79 else .upTo 127, .none, .upTo 127)
  | .ret => (.none, .upTo 127, .none, .none)
  | .trap | .brk | .sysc | .halt | .mpair => (.none, .none, .operand, .none)
  | .fence => (.upTo 63, .none, .none, .none)
  | .fwait => (.none, .upTo 63, .none, .none)
  | .ftest => (.upTo 63, .upTo 63, .none, .none)
  | .barc => (.none, .none, .imm 7, .none)
  | .lease => (if sub = 1 then .upTo 63 else .none, .none, .operand, .none)
  | .gtime => (if sub = 0 then .even 62 else .upTo 63, .none, .none, .none)
  | .mcas => (.upTo 63, .upTo 79, .none, .none)
  | .kick | .bbinit | .bbadd | .bbwait => (.none, .upTo 79, .operand, .none)
  | .bbtest | .qsub => (.upTo 63, .upTo 79, .operand, .none)
  | .gset => (.upTo 7, .none, if sub = 0 then .operand else .none, .none)
  | .mrunReg => (.none, .upTo 79, .none, .none)
  | .mmap => (.upTo 7, .upTo 79, .none, .none)
  | .munf => (.none, .upTo 79, .none, .none)
  | .mma | .mdist => (.upTo 15, .upTo 8, .upTo 7, .even 62)
  | .mtopk => (.upTo 15, .upTo 79, .operand, .upTo 63)
  | .mzero => (.upTo 15, .none, .none, .none)
  | .mldz | .mdrain => (.upTo 15, .upTo 79, .operand, .none)
  | .mepi => (.upTo 15, .upTo 79, .operand, if e.qbit 4 then .upTo 63 else .none)
  | .msync | .fsync | .cellrd => (.upTo 63, .none, .none, .none)
  | .spawn => (.upTo 63, .even 62, .none, .none)
  | .spawnn => (.upTo 63, .even 62, .operand, .even 62)
  | .join => (.upTo 63, if sub = 1 then .even 62 else .none, .none, .none)
  | .park => (.upTo 63, .even 62, .operand, .upTo 63)
  | .notify => (if sub = 1 then .upTo 63 else .none, .none, .operand, .none)
  | .fget | .fput => (.upTo 79, .upTo 79, .operand, .even 62)
  | .fmsg => (.upTo 63, .upTo 79, .operand, .upTo 79)
  | .srd => (if sub = 2 then .even 62 else .upTo 63, .upTo 24, .none, .none)
  | .swr => (.none, .upTo 24, if sub = 2 then .even 62 else .operand, .none)
  | .ctxsv | .ctxld => (.none, .even 62, .none, .none)
  | .wait => (.upTo 63, .upTo 63, .operand, .upTo 63)
  | _ => (.none, .none, .none, .none)

/-- Whether D, A or C holds what its slot allows. -/
def Slot31.okReg : Slot31 → Nat → Bool
  | .none, n => n == 0
  | .upTo hi, n => n ≤ hi
  | .even hi, n => n ≤ hi && n % 2 == 0
  | _, _ => true

/-- Whether B, with I and the length, holds what its slot allows (R23, R25, R28). -/
def Slot31.okB (s : Slot31) (e : Enc) : Bool :=
  match s with
  | .operand => e.i || (if e.len = .three then e.b == 0 else e.b.toNat ≤ 79)
  | .imm hi => e.i && e.b.toNat ≤ hi
  | s => !e.i && s.okReg e.b.toNat

/-- Whether a type form 31 instruction has a 96-bit form: one whose description gives word 2 a meaning, or whose B is a uniform operand that the literal replaces (R23, R25, log entry 15). -/
def Op.wide31 (o : Op) (e : Enc) : Bool :=
  o == .nop || o == .brd || o == .idem || (o.slots31 e).2.2.1 == .operand

/-- The special registers of 64 bits (R408). -/
def specialWide (r : Nat) : Bool := [5, 7, 11, 14, 17, 19, 20, 23, 24].contains r

/-- The fields of IDEM (R160). -/
def idemOk (e : Enc) : Bool :=
  !e.i &&
  (if e.qbit 0 then e.d.toNat ≤ e.a.toNat else e.d == 0 && e.a == 0) &&
  (if e.qbit 1 then e.b.toNat ≤ e.c.toNat && e.c.toNat ≤ 63 else e.b == 0 && e.c == 0) &&
  (if e.len = .three then
    let w := e.w2.toNat
    bits w 31 18 == 0 && (if bit w 10 then bits w 4 0 ≤ bits w 9 5 else bits w 9 0 == 0)
  else true)

/-- The rules of type form 31 that are not field ranges: lengths (R150; a 64-bit YIELD that equals its expansion is legal by R24, log entry 87), the guard that BR and BRD need (R152), register ranges (R65), special registers (R408) and the slot guard (R299, R387). -/
def Op.rule31 (o : Op) (e : Enc) : Bool :=
  match o with
  | .yield => e.len != .three
  | .br => e.len == .two && e.g != 0
  | .brd => e.len == .three && e.g != 0 && bits e.w2.toNat 1 0 == 0
  | .bru | .jmp | .jmpi | .call | .calli | .ret | .exit => e.len != .three
  | .mrun => e.len != .three
  | .mrunReg => e.len == .two
  | .pushm | .popm =>
    e.d.toNat ≤ e.a.toNat && e.a.toNat ≤ (match e.sub.toNat with | 0 => 127 | 1 => 63 | 2 => 31 | _ => 7)
  | .shuf | .bcast => e.qbit 0
  | .srd | .swr => e.sub == 0 || specialWide e.a.toNat
  | .mma | .mdist | .mtopk | .mzero | .mldz | .mdrain | .mepi | .fget | .fput => e.qbit 3 || bits e.qb.toNat 2 0 == 0
  | _ => true

/-- The rules outside type form 31 that are not field ranges: spaces, groups and pairs (R181, R207, R230, R254, R357), .vm (R136), rounding fields (R110) and the constant of MOVI (R57). -/
def Op.rule (o : Op) (e : Enc) : Bool :=
  let tf := e.tf.toNat
  let sub := e.sub.toNat
  let space := bits e.qb.toNat 1 0
  let pair := !(o.usesBase && e.qbit 0) || o.uses e .c == false || (e.c.toNat ≤ 62 && e.c.toNat % 2 == 0)
  let top := if classOf tf .d = .s then 63 else 127
  pair &&
  match o with
  | .movi => e.i || e.len == .three
  | .cvt | .pack => bits e.qb.toNat 2 0 ≤ 4
  | .shuf | .bcast => !e.qbit 0
  | .perm => e.qbit 0 == (tf == 23)
  | .ldg | .sts => e.d.toNat + 2 * 2 ^ sub - 1 ≤ top
  | .mxld | .mxst => space != 3 && e.d.toNat + 1 ≤ top
  | .pref | .lres | .scnd => space == 1
  | .lcnt => space == 1 && (classOf tf .d != .s || e.d.toNat ≤ 63)
  | .gpref | .thint => e.d.toNat ≤ 63
  | .atom | .atomn | .cas =>
    (classOf tf .d != .s || e.d.toNat ≤ 63) &&
    (sub / 16 == 0 ||
      (tf != 18 && tf != 20 && e.d.toNat % 2 == 0 &&
        (e.i || (e.len == .three && e.ls == 0) || (e.b.toNat % 2 == 0 && (classOf tf .b != .s || e.b.toNat ≤ 63)))))
  | .atomf | .xread => classOf tf .d != .s || e.d.toNat ≤ 63
  | .rlq => space != 3 && ((sub == 2) == (tf == 0))
  | _ => true

/-- Why an encoding is refused. Each of them raises ILLEGAL_INSTR (R32); `truncated` names a list of bytes that ends within an instruction. -/
inductive DecodeError
  | reservedLength | unassigned | noShortForm | truncated | typeForm | subOpcode | qualifier | literalSelect | guardBits
  | immediate | unusedField | fieldRange | literalTarget | fieldRule
  deriving DecidableEq, Repr

/-- The fields of word 1 that a 32-bit form stands for, and no word 2 without a 96-bit form (R24): the canonical form of an Enc. -/
def Op.canonical (o : Op) (e : Enc) : Bool :=
  (e.len == .three || e.w2 == 0) &&
  (e.len != .one || (e.sub == 0 && e.ls == 0 && e.qb == 0 && e.g == 0 && e.c == 0 &&
    (match o.shortTf with | some t => e.tf.toNat == t | none => false)))

/-- The field checks of R32 for a type form other than 31, for one field. -/
def Op.fieldOk (o : Op) (e : Enc) (f : Fld) : Option DecodeError :=
  let immB := f = .b && e.i
  if !o.uses e f && (e.field f != 0 || immB) then some .unusedField
  else if o.uses e f && !immB && !inRange (classOf e.tf.toNat f) (e.field f) then some .fieldRange
  else none

/-- The field that LS names (R22). -/
def lsField (ls : Nat) : Fld := if ls = 0 then .b else if ls = 1 then .c else .a

/-- The checks of R32 that need no state, in its order: the first that fails is the answer. -/
def Op.check (o : Op) (e : Enc) : Option DecodeError :=
  let tf := e.tf.toNat
  if e.len = .one && o.shortTf.isNone then some .noShortForm
  else if !(o.legalTfs.contains tf) then some .typeForm
  else if !o.legalSub e.sub.toNat then some .subOpcode
  else if e.qb &&& (BitVec.ofNat 6 (63 - o.qbMask e.sub.toNat)) != 0 then some .qualifier
  else if e.ls == 3 || (e.len != .three && e.ls != 0) then some .literalSelect
  else if e.g == 8 || (e.g != 0 && !o.takesGuard) then some .guardBits
  else if e.i && (e.len == .three || (tf != 31 && classOf tf .b != .s)) then some .immediate
  else if tf = 31 then
    if e.ls != 0 || (e.len == .three && !o.wide31 e) then some .literalSelect
    else if o = .idem then (if idemOk e then none else some .fieldRule)
    else
      let s := o.slots31 e
      if !(s.1.okReg e.d.toNat && s.2.1.okReg e.a.toNat && s.2.2.1.okB e && s.2.2.2.okReg e.c.toNat) then some .fieldRange
      else if !o.rule31 e then some .fieldRule
      else none
  else
    match o.fieldOk e .d with
    | some x => some x
    | none => match o.fieldOk e .a with
      | some x => some x
      | none => match o.fieldOk e .b with
        | some x => some x
        | none => match o.fieldOk e .c with
          | some x => some x
          | none =>
            let f := lsField e.ls.toNat
            if e.len = .three && (!o.uses e f || classOf tf f != .s || e.field f != 0) then some .literalTarget
            else if !o.rule e then some .fieldRule
            else none

/-- A machine instruction is well formed when its encoding passes every check and its fields are in the canonical form. The steps of the device's agents have no encoding and are not machine instructions. -/
def Instr.wellFormed (i : Instr) : Bool :=
  match i.parts with
  | some (o, e) => o.canonical e && (o.check e).isNone
  | none => false

/-- What a matrix sequencer accepts (R33; no cross-lane instruction, R137), and the field rules of a sequencer's own (R173). -/
def Op.seqLegal (o : Op) (e : Enc) : Bool :=
  let c := o.code
  e.g == 0 &&
  (if o = .mov || o = .movi || (0x20 ≤ c && c ≤ 0x47) then e.tf.toNat == 0
   else if 0xB0 ≤ c && c ≤ 0xBC then true
   else match o with
    | .bbinit | .bbadd | .bbwait | .bbtest | .gset | .nop | .bru | .jmp | .exit => true
    | .call => e.c.toNat ≤ 63
    | .ret => e.a.toNat ≤ 63
    | _ => false)

/-- The special registers that only the executive reads or writes (R408). -/
def specialExec (r : Nat) : Bool := [17, 18, 19, 20, 22, 23, 24].contains r

/-- Privileged(op, sub) with Needed = 1 (R32, R407, R409). -/
def Op.privileged (o : Op) (e : Enc) : Bool :=
  match o with
  | .tret | .ctxsv | .ctxld | .halt => true
  | .srd | .swr => specialExec e.a.toNat
  | _ => false

end Sys2Proof
end

