-- ==== Sys2Proof/Decode.lean ====
section
/-! DEFINITION. The decoder of R20 to R34, total on any list of bytes, and the encoder written from the same layouts. -/

namespace Sys2Proof

/-- L, bits [1:0] of word 0 (R21). -/
def Len.bits : Len → BitVec 2
  | .one => 0 | .two => 1 | .three => 2

/-- The length in words (R20). -/
def Len.words : Len → Nat
  | .one => 1 | .two => 2 | .three => 3

/-- The length in bytes (R20). -/
def Enc.bytes (e : Enc) : Nat := 4 * e.len.words

/-- Word 0 (R21): I, B, A, D, OP, L. -/
def Op.word0 (o : Op) (e : Enc) : Word :=
  (BitVec.ofBool e.i ++ e.b ++ e.a ++ e.d ++ BitVec.ofNat 8 o.code ++ e.len.bits : BitVec 32)

/-- Word 1 (R22): SUB, LS, QB, TF, G, C. -/
def Enc.word1 (e : Enc) : Word :=
  (e.sub ++ e.ls ++ e.qb ++ e.tf ++ e.g ++ e.c : BitVec 32)

/-- The fields that words 0, 1 and 2 hold (R21, R22, R23). -/
def Enc.ofWords (len : Len) (w0 w1 w2 : Word) : Enc where
  len := len
  i := w0.getLsbD 31
  b := w0.extractLsb' 24 7
  a := w0.extractLsb' 17 7
  d := w0.extractLsb' 10 7
  sub := w1.extractLsb' 24 8
  ls := w1.extractLsb' 22 2
  qb := w1.extractLsb' 16 6
  tf := w1.extractLsb' 11 5
  g := w1.extractLsb' 7 4
  c := w1.extractLsb' 0 7
  w2 := w2

/-- The word 1 that a 32-bit form stands for: its short type form and zeros (R24). -/
def Op.shortWord1 (o : Op) : Word := BitVec.ofNat 32 ((o.shortTf.getD 0) * 2048)

/-- The OP field of word 0 (R21). -/
def opField (w0 : Word) : Nat := (w0.extractLsb' 2 8).toNat

/-- An instruction from its length and words, checked by R32. -/
def decodeWords (len : Len) (w0 w1 w2 : Word) : Except DecodeError Instr :=
  match Op.ofCode (opField w0) (if len = .one then 0 else (w1.extractLsb' 24 8).toNat) with
  | none => .error .unassigned
  | some o =>
    let e := Enc.ofWords len w0 (if len = .one then o.shortWord1 else w1) (if len = .three then w2 else 0)
    match o.check e with
    | some x => .error x
    | none => .ok (o.instr e)

/-- A word of four bytes, the first at the lowest address (R2). -/
def wordOf (b0 b1 b2 b3 : Byte) : Word := (b3 ++ b2 ++ b1 ++ b0 : BitVec 32)

/-- The four bytes of a word, the first at the lowest address (R2). -/
def bytesOf (w : Word) : List Byte :=
  [w.extractLsb' 0 8, w.extractLsb' 8 8, w.extractLsb' 16 8, w.extractLsb' 24 8]

/-- The first word of a list of bytes and what follows it. -/
def takeWord : List Byte → Option (Word × List Byte)
  | b0 :: b1 :: b2 :: b3 :: t => some (wordOf b0 b1 b2 b3, t)
  | _ => none

/-- The decoder (R32): the first instruction of a list of bytes with what follows it, or the reason why there is none. L = 11 fetches no further word. -/
def decodeBytes (l : List Byte) : Except DecodeError (Instr × List Byte) :=
  match takeWord l with
  | none => .error .truncated
  | some (w0, t) =>
    let n := (w0.extractLsb' 0 2).toNat
    if n = 3 then .error .reservedLength
    else if n = 0 then
      match decodeWords .one w0 0 0 with
      | .ok i => .ok (i, t)
      | .error x => .error x
    else match takeWord t with
      | none => .error .truncated
      | some (w1, t) =>
        if n = 1 then
          match decodeWords .two w0 w1 0 with
          | .ok i => .ok (i, t)
          | .error x => .error x
        else match takeWord t with
          | none => .error .truncated
          | some (w2, t) =>
            match decodeWords .three w0 w1 w2 with
            | .ok i => .ok (i, t)
            | .error x => .error x

/-- The words of a machine instruction, from the layouts of R21 to R23. -/
def encodeWords (o : Op) (e : Enc) : List Word :=
  match e.len with
  | .one => [o.word0 e]
  | .two => [o.word0 e, e.word1]
  | .three => [o.word0 e, e.word1, e.w2]

/-- The bytes of a machine instruction in memory order; none for a step of the device's agents, which has no encoding. -/
def encode (i : Instr) : List Byte :=
  match i.parts with
  | some (o, e) => (encodeWords o e).flatMap bytesOf
  | none => []

/-- The low `n` bytes of a number, the first at the lowest address (R2). -/
def bytesOfNat : Nat → Nat → List Byte
  | 0, _ => []
  | n + 1, w => BitVec.ofNat 8 w :: bytesOfNat n (w / 256)

/-- The bytes that a table row's bits stand for: the bits of `w` below `nbits`, zeros above, twelve bytes in all (R20). -/
def tableBytes (nbits w : Nat) : List Byte := bytesOfNat 12 (w % 2 ^ nbits)

/-- The instruction that the decoder reads from bits numbered as spec/opcode_table.json numbers them: bit 0 the least significant of the first word. -/
def decodeTableWord (nbits w : Nat) : Option Instr :=
  match decodeBytes (tableBytes nbits w) with
  | .ok (i, _) => some i
  | .error _ => none

end Sys2Proof
end

