-- ==== Sys2Proof/Config.lean ====
section
/-! DEFINITION. What one J40 fixes, and the free values of the model: constants without a body, so that nothing can be proved from a value of theirs. -/

namespace Sys2Proof

/-- Which of `n` moves the device makes at turn `t`, taken modulo `n` (log entry 1). -/
opaque Config.choose : Nat → Nat → Nat

/-- How many ns of global time pass at turn `t` (log entry 2). -/
opaque Config.gtStep : Nat → Nat

/-- How many core cycles pass at turn `t` (log entry 2). -/
opaque Config.cycleStep : Nat → Nat

/-- Whether a cached translation or copy is still held and used at turn `t` (log entry 6). -/
opaque Config.keeps : Nat → Bool

/-- Which entry of a full cache, TLB or directory gives way at turn `t`, taken modulo their number (log entry 95). -/
opaque Config.displaced : Nat → Nat

/-- Whether the translation of a virtual page of a tenant is made from the older descriptor still cached (log entry 6). -/
opaque Config.keepsDescriptor : Nat → Bool

/-- By how many ns the pool manager extends a lease that the pager keeps for a record with KEEP, beyond the millisecond that it must (R346, R360); the step (log entry 103). -/
opaque Config.granted : Nat → Nat

/-- The flits queued at a Lamval port at turn `t` (R374, log entry 18). -/
opaque Config.flits : Nat → Nat → Nat

/-- What a line of shared pool memory holds once its owner has taken it by a back-invalidation at turn `t` (R365, log entry 20). -/
opaque Config.outside : Nat → BitVec 512

/-- The set of the HBM page cache that a 64 KiB page belongs to; the set index is not architectural (R347, log entry 13). -/
opaque Config.setIndex : Nat → Nat

/-- The Lamval number of this device (R9, log entry 10). -/
opaque Config.device : Fin 993

/-- The signature that the device identity key makes of the measurements (R451, log entry 14). -/
opaque Config.sign : List Byte → List Byte

/-- The measurements of the firmware stages, indices 1 to 8 (R451, log entry 14). -/
opaque Config.measurement : Nat → List Byte

/-- By how many ns a sponsor sets an adoption time later than the least one, at turn `t` (R401, log entry 47). -/
opaque Config.adopt : Nat → Nat

/-- What SUMMARY writes as the current slice entry of a core that runs no slice, at turn `t` (R443, log entry 50). -/
opaque Config.idleSlice : Nat → Nat

/-- How many events of kind `k` the sensors of the module count at turn `t`: kinds 0 to 15 are the life counters of these numbers, and kind 16 + 32h + b is bin b of histogram h (R454, log entry 70). -/
opaque Config.sensed : Nat → Nat → Nat

/-- What the verification of each firmware stage finds at the bring-up that a RESET at turn `t` starts (R442, R451, log entry 83). -/
opaque Config.verifies : Nat → List Bool

/-- The cores that fail their self-test at the bring-up that a RESET at turn `t` starts (R442, R453, log entry 83). -/
opaque Config.selfTest : Nat → List Nat

/-- The PA of the page to which the pager moves a page at turn `t` (R360, log entry 125). -/
opaque Config.newPage : Nat → Nat

/-- A PA of the save area that the executive assigns to a core (R341, log entry 101). -/
opaque Config.saveArea : Nat → Nat

/-- The result of a transcendental function whose value no precision tried decides: the opcode and the operand (R114, log entry 17). -/
opaque Config.undecided : Nat → Word → Word

end Sys2Proof
end

