-- ==== Sys2Proof/Machine/Strand.lean ====
section
/-! DEFINITION. The state of a strand: its registers, its PC table, its trap registers, its accesses in flight, and what it waits for. -/

namespace Sys2Proof.Machine
open Sys2Proof

/-- A register of a strand or of its comb: uniform, comb word, affine, varying (physical number, R48), mask. -/
inductive Reg | s (n : Nat) | w (n : Nat) | a (n : Nat) | v (n : Nat) | k (n : Nat)
  deriving DecidableEq, Repr

/-- The register files (R42). Each holds 0 where nothing is listed. -/
structure Regs where
  s : Tab Word := []
  a : Tab (Word × Word) := []
  v : Tab Lanes := []
  k : Tab Mask := []
  deriving DecidableEq, Repr

/-- One mask of marked positions for each register: the poison marks of R202, or the invalid marks of run-ahead (R201). A uniform or affine register is marked in every lane. `w` holds the comb words that a strand in run-ahead sees as invalid. -/
structure Marks where
  s : Tab Mask := []
  a : Tab Mask := []
  v : Tab Mask := []
  k : Tab Mask := []
  w : Tab Mask := []
  deriving DecidableEq, Repr

/-- A fairness burst (R159): the held lanes, their PC, and the issue cycles left. -/
structure Burst where
  held : Mask
  pc   : Pc
  left : Nat
  deriving DecidableEq, Repr

/-- An open idempotent region (R161): the entry PC, the live-in ranges and masks, SSP, WB, MODE and PART at the entry, and the number of the first access issued in it. -/
structure Region where
  entry : Pc
  first : Nat
  v     : Option (Nat × Nat)
  s     : Option (Nat × Nat)
  a     : Option (Nat × Nat)
  k     : List Nat
  ssp   : Nat
  wb    : Nat
  mode  : Dbl
  part  : Word
  deriving DecidableEq, Repr

/-- A reservation (R213, R214): the address it names, its PA, and the GT and cycle of the grant. -/
structure Resv where
  addr  : Nat
  pa    : Nat
  gt    : Nat
  cycle : Nat
  order : Nat
  deriving DecidableEq, Repr

/-- The scope of a fence (R206). -/
inductive Scope | device | comb | system
  deriving DecidableEq, Repr

/-- A latest term for each scope (R206). -/
structure Terms where
  device : Nat := 0
  comb   : Nat := 0
  system : Nat := 0
  deriving DecidableEq, Repr

/-- A FENCE whose token is pending (R208): its register, scope, the accesses that it waits for, the lines whose write-back it waits for, and the latest term so far. Register 64 stands for the token that the strand stands and waits for (R212, R328), register 66 for the terms of the accesses before its DONE (R332). -/
structure PendingToken where
  reg   : Nat
  scope : Scope
  ids   : List Nat
  lines : List Nat
  term  : Nat
  deriving DecidableEq, Repr

/-- One access of one lane of a load: lane 32 stands for the one access of a uniform form. `own` holds, byte by byte, the write-combining entry that holds the strand's own value, and the value (R189). -/
structure LoadPart where
  lane : Nat
  va   : Nat
  pa   : Nat
  size : Nat
  sub  : Nat
  reg  : Nat
  own  : List (Option (Nat × Byte))
  deriving DecidableEq, Repr

/-- What a load reads through: L1, the constant cache, the home (LRES), or the fabric; or, for a prefetch, how far it brings its lines: to L1, the home L2 or the home HBM (R187). -/
inductive LoadVia | l1 | constant | home | fabric | l2 | hbm
  deriving DecidableEq, Repr

/-- A load in flight (R198): its issue cycle, which places a write of a comb word (R52), its sectors that have not returned, with the value once the load of the sector is performed, for fabric space that of its line; for a load of fabric space the lines that failed, with their causes (R384). A load without parts is a prefetch (R187). `reserve` holds the lanes for which it still takes a reservation, each with the place that the reservation goes to (R213). `paid` holds the lines whose token is spent (R368), `counted` those whose access the home has counted (R350), `bound` the sectors performed and not returned, with the GT (R211). -/
structure Load where
  id      : Nat
  cycle   : Nat
  scalar  : Bool
  via     : LoadVia
  parts   : List LoadPart
  sectors : List (Nat × Option (Nat × Bool))
  lease   : Nat
  discard : Bool
  reserve : List (Nat × Nat)
  failed  : List (Nat × Nat)
  paid    : List Nat := []
  counted : List Nat := []
  bound   : List (Nat × Nat) := []
  deriving DecidableEq, Repr

/-- The kinds of atomic request (R226, R213, R215, R186). -/
inductive AtomKind
  | int (op : AtomOp) (wide : Bool)
  | float (op fmt : Nat)
  | xadd
  | xread (clear : Bool)
  | xclr
  | scnd
  | mxld (width : Nat)
  | mxst (width : Nat)
  deriving DecidableEq, Repr

/-- One lane's part of an atomic request: the address, its PA, the data and, for CAS, the new value. Lane 32 stands for a uniform form. -/
structure AtomPart where
  lane : Nat
  va   : Nat
  pa   : Nat
  data : Dbl
  new  : Dbl
  deriving DecidableEq, Repr

/-- An atomic request in flight (R232, R234): the parts that have not acted, the active mask, the fetched values by lane of those that have, the lanes that did not act with their addresses (`failed` with the cause, R384; `lost`, whose page's node had failed, R235; `poison`, R236), the destination, if any, the lines written, the lines whose token is spent (R368), and the GT at which a part last acted (R211). -/
structure Atomic where
  id      : Nat
  kind    : AtomKind
  scalar  : Bool
  fabric  : Bool
  parts   : List AtomPart
  active  : Mask
  done    : List (Nat × Dbl)
  failed  : List (Nat × Nat × Nat)
  lost    : List AtomPart
  poison  : List (Nat × Nat)
  dest    : Option Nat
  pc      : Pc
  lines   : List Nat
  paid    : List Nat := []
  acted   : Nat := 0
  deriving DecidableEq, Repr

/-- A word of an MCAS (R244): its VA, PA, expected and new values. -/
structure McasWord where
  va       : Nat
  pa       : Nat
  expected : Nat
  new      : Nat
  deriving DecidableEq, Repr

/-- An MCAS past its first checks (R245, R246): the block's offset, its width, the destination, the words, the lines still to lock in ascending PA, whether the token of the next one is spent (R368), the lines locked, and after the compare the observed values, the mask and the instant T. -/
structure Mcas where
  block  : Nat
  wide   : Bool
  dest   : Nat
  words  : List McasWord
  toLock : List Nat
  paid   : Bool := false
  locked : List Nat
  result : Option (List Nat × Nat × Nat)
  deriving DecidableEq, Repr

/-- The launch shape of a cell (R318): LMB, SPILL, strands minus 1, lanes of the highest strand minus 1, varying registers divided by 8 minus 1, and SEEDX. -/
structure Shape where
  lmb   : Nat := 0
  spill : Nat := 0
  str   : Nat := 0
  lastl : Nat := 31
  regs  : Nat := 0
  seedx : Bool := false
  deriving DecidableEq, Repr

/-- A cell that an instruction of R327 names (R321): the record's VA and PA, its QUEUE, PRIO and INDEX, and its launch shape. -/
structure Cell where
  va    : Nat
  pa    : Nat
  queue : Nat
  prio  : Nat
  index : Nat
  shape : Shape
  deriving DecidableEq, Repr

/-- What an enqueuing instruction does once its strand's earlier accesses have reached their terms (R328). -/
inductive Job
  | spawn (va pa : Nat)
  | spawnn (va pa n dva dpa : Nat)
  | join (va pa : Nat)
  | park (va pa reg : Nat) (expected : Word)
  | notify (reg : Nat) (read : Bool)
  deriving DecidableEq, Repr

/-- What a strand waits for (R164, R415): the instruction has issued and its lanes stand at it until it takes effect. A GPREF waits for the tokens of the pages that it has not requested yet, each with the line of its first touch and the lines that go into the home L2 (R362, R368). -/
inductive Wait
  | fwait (reg : Nat)
  | barc (n : Nat) (comb : Bool)
  | bbwait (off : Nat) (phase : Bool)
  | kick
  | sequencer
  | notify (reg : Nat) (expected token : Word) (dest : Nat)
  | room (c : Cell) (dest : Nat) (value : Word)
  | terms (job : Job) (dest : Nat)
  | tload (bank off : Nat)
  | tflip (bank : Nat)
  | mcas (m : Mcas)
  | fabric (id : Nat)
  | atomic (id : Nat)
  | gpref (pages : List (Nat × List Nat)) (sent : Nat) (dest : Nat)
  deriving DecidableEq, Repr

/-- The fabric error record of a strand (R385). -/
structure FabErr where
  valid : Bool := false
  count : Nat := 0
  cause : Nat := 0
  addr  : Nat := 0
  deriving DecidableEq, Repr

/-- A recoverable fault of one page for the fault queue (R199, R352): the VA, the PA when the translation gave one, the cause, and the ACC and ORIGIN of R352. -/
structure PageFault where
  va     : Nat
  pa     : Option Nat
  cause  : Nat
  acc    : Nat
  origin : Nat
  deriving DecidableEq, Repr

/-- Run-ahead (R201): the pages found so far, the instructions issued, the invalid marks, and whether it has ended. -/
structure RunAhead where
  batch  : List PageFault
  issued : Nat
  inv    : Marks
  ended  : Bool
  deriving DecidableEq, Repr

/-- An asynchronous fault held for a strand (R415): its cause, TVAL, and whether it arose in the sequencer. -/
structure AsyncFault where
  cause : Nat
  tval  : Dbl
  seq   : Bool
  deriving DecidableEq, Repr

/-- A fault of an instruction that has issued, held until the strand's tokens, atomics and results are written (R211, R234, R271, R414): the number of the access that met it, its cause and TVAL, and the TPC and TMASK of the entry. -/
structure PendTrap where
  order : Nat
  cause : Nat
  tval  : Dbl
  tpc   : Pc
  group : Mask
  deriving DecidableEq, Repr

/-- The trap registers of a strand (R406, R408, R414). -/
structure TrapRegs where
  priv  : Bool := false
  tvec  : Dbl := 0
  tcause : Word := 0
  tpc   : Dbl := 0
  tval  : Dbl := 0
  tmask : Mask := 0
  tscr0 : Dbl := 0
  tscr1 : Dbl := 0
  frame : Vector Pc 32 := Vector.replicate 32 0
  deriving DecidableEq, Repr

/-- The special registers and strand state that an instruction reads or writes: the window (R48), the spill stack (R49), MODE (R94), PART (R131), FAIR (R157), the lease length (R216), and the residual mask of an atomic (R235) with its PC, TCAUSE.ACT there, and the lanes that stood at it and have acted. -/
structure Special where
  n     : Nat := 8
  wb    : Nat := 0
  ssp   : Nat := 0
  mode  : Dbl := 0
  part  : Word := 0
  fair  : Word := 0x0800
  lease : Nat := 4
  resid : Mask := 0
  residAt : Pc := 0
  residAct : Bool := false
  residDone : Mask := 0
  deriving DecidableEq, Repr

/-- A QSUB that the drone core has not answered (R271): the number of its access, its register, its queue and its entry. -/
structure Qsub where
  id    : Nat
  reg   : Nat
  queue : Nat
  entry : LineBits
  deriving DecidableEq, Repr

/-- The accesses of a strand that have not completed, and what the completed ones leave for a fence (R206, R208). `lines` holds the lines of device memory that the strand has written and that their backing has not acknowledged; `resv` holds the reservations of the slots 0 to 32, and those that SCNDs in flight have taken up (R213, R215, log entry 110). `msgs` holds the registers that an FMSG is to write (R389). `nextId` numbers the accesses. -/
structure Flight where
  nextId  : Nat := 0
  loads   : List Load := []
  atomics : List Atomic := []
  stores  : List Nat := []
  qsubs   : List Qsub := []
  msgs    : List Nat := []
  terms   : Terms := {}
  lines   : List Nat := []
  tokens  : List PendingToken := []
  resv    : Tab (Option Resv) := []
  deriving DecidableEq, Repr

/-- How a strand stands with the issue logic: its fairness counter with the cycle after the one it last counted, and its burst (R158, R159), the end of a YIELD's pause (R170), the far-miss parking (R198), the fault parking (R200), what it waits for and the length of the waiting instruction, a debugger's stop (R421), its asynchronous faults (R415), the fault that it is to enter its handler with, the outcome and VA of a batch that was not simply resolved (R355), and, of the instruction at which it stands, the lines whose tokens are spent and how many it still waits for (R368). -/
structure Sched where
  fc      : Nat := 0
  counted : Nat := 0
  burst   : Option Burst := none
  pause   : Nat := 0
  parked  : Bool := false
  fparked : Bool := false
  wait    : Option Wait := none
  waitLen : Nat := 0
  stopped : Bool := false
  async   : List AsyncFault := []
  pend    : Option PendTrap := none
  outcome : Option (Nat × Nat) := none
  retired : Bool := false
  done    : Bool := false
  paid    : List Nat := []
  owes    : Nat := 0
  deriving DecidableEq, Repr

/-- A strand (R10, R42). `base` is SB, the lowest offset of its spill area, and `top` the offset past it (R49). -/
structure Strand where
  live    : Mask := 0
  pcs     : Vector Pc 32 := Vector.replicate 32 0
  frame   : Nat := 0
  base    : Nat := 0
  top     : Nat := 0
  regs    : Regs := {}
  marks   : Marks := {}
  sp      : Special := {}
  trap    : TrapRegs := {}
  region  : Option Region := none
  ahead   : Option RunAhead := none
  flight  : Flight := {}
  sched   : Sched := {}
  ferr    : FabErr := {}
  deriving DecidableEq, Repr

end Sys2Proof.Machine
end

