-- ==== Sys2Proof/Machine/CoreState.lean ====
section
/-! DEFINITION. The state of a comb and of a core: the LM window, the request engine, the matrix sequencer and its accumulators, the caches and buffers, the slice table and the share registers. -/

namespace Sys2Proof.Machine
open Sys2Proof

/-- A range of bytes in a space: 0 LM, 1 peer LM, 2 global, 3 fabric (R250, R264). -/
structure Range where
  space : Nat
  lo    : Nat
  hi    : Nat
  deriving DecidableEq, Repr

/-- An entry of the range-lock table (R264). -/
structure LockEntry where
  id     : Nat
  slot   : Nat
  tenant : BitVec 16
  src    : Option Range
  dst    : Option Range
  bar    : Option Nat
  deriving DecidableEq, Repr

/-- What makes a request of the engine: a KICK of an LM object, or FGET or FPUT of a strand (R255, R388). -/
inductive ReqKind | kick (off : Nat) | fget (strand : Nat) | fput (strand : Nat)
  deriving DecidableEq, Repr

/-- STATE of a request (R253). -/
inductive ReqState | queued | held | running | done | discarded | aborted | mismatch | suspended
  deriving DecidableEq, Repr

/-- One chunk of a copy: its row, source and destination address and length, within one line on each side (R251); whether it is the first of its row on its source line and on its destination line, which spend a token each (R368), and whether those tokens are spent. -/
structure Chunk where
  row  : Nat
  src  : Nat
  dst  : Nat
  len  : Nat
  rpay : Bool
  wpay : Bool
  rpaid : Bool := false
  wpaid : Bool := false
  deriving DecidableEq, Repr

/-- A chunk whose source bytes have been read, with the poisoned ones among them (R251, R202). -/
structure Staged where
  chunk  : Chunk
  data   : Nat
  poison : Nat
  deriving DecidableEq, Repr

/-- A chunk whose write is performed and that is not counted yet (R259): its bytes and the GT at which it counts, or the line whose write-back it waits for. -/
structure Counting where
  len  : Nat
  at_  : Nat
  line : Option Nat
  deriving DecidableEq, Repr

/-- What a fabric request serves at its source (R383, R388, R389); a chunk of FGET or FPUT names the strand that issued it, whose error record it enters where it fails (R385). -/
inductive FabUse
  | load (w : Sid) (id line : Nat)
  | atomic (w : Sid) (id : Nat) (addr : Nat)
  | store (w : Sid) (id : Nat)
  | chunk (core slot req : Nat) (owner : Option Nat) (chunk : Chunk)
  | message (w : Sid) (reg : Nat)
  deriving DecidableEq, Repr

/-- A request at the network port of a core, which waits there for its token (R368): of a line of a load or of an atomic, of a line that an MCAS locks, of a drain, of a chunk read or written by the engine, of the pages of a GPREF, of the lines that an instruction reads where it stands, or of the fabric. -/
inductive PortReq
  | load (w : Sid) (id line : Nat)
  | atomic (w : Sid) (id : Nat)
  | mcas (w : Sid)
  | drain (id : Nat)
  | read (req : Nat) (c : Chunk)
  | write (req : Nat) (c : Chunk)
  | pages (w : Sid)
  | issue (w : Sid)
  | fabric (u : FabUse)
  deriving DecidableEq, Repr

/-- A copy request (R249 to R253, R388): its fields, and once started the chunks not read yet, those whose fabric request is outstanding, those read and not written yet, the counts to come, and the bytes not counted; for DEC whether the tag has been checked; the batch that it is suspended on. -/
structure Request where
  id      : Nat
  kind    : ReqKind
  strand  : Nat
  guard   : Option Nat
  sspc    : Nat
  dspc    : Nat
  src     : Nat
  dst     : Nat
  len0    : Nat
  c1      : Nat
  c2      : Nat
  c3      : Nat
  sp1     : Int
  sp2     : Int
  sp3     : Int
  dp1     : Int
  dp2     : Int
  dp3     : Int
  sys     : Bool
  dec     : Bool
  key     : Nat
  goff    : Nat
  bar     : Option Nat
  tenant  : BitVec 16
  priv    : Bool
  state   : ReqState
  cause   : Nat
  left    : List Chunk
  flying  : List Chunk
  staged  : List Staged
  checked : Bool
  counts  : List Counting
  uncounted : Nat
  batch   : Option Nat
  deriving DecidableEq, Repr

/-- A KICK, FGET or FPUT that waits for range-lock entries, with its requests (R255, R388). -/
structure KickWait where
  slot   : Nat
  strand : Nat
  reqs   : List Request
  deriving DecidableEq, Repr

/-- The end state of the last stream of a comb (R281, R282): cause 0 for a clean end. -/
structure StreamEnd where
  cause : Nat
  pc    : Nat
  tval  : Dbl
  deriving DecidableEq, Repr

/-- A write of a comb word in comb order (R52), with the poison mark that it brings (R202). -/
structure WordWrite where
  cycle  : Nat
  strand : Nat
  reg    : Nat
  value  : Word
  poison : Bool
  deriving DecidableEq, Repr

/-- Where a comb stands: running; being pre-empted (R341); its strands and its stream saved while started requests run on (R470); waiting, after its image is restored, for the lock entries and the sequencer that its resume needs (R274, R298); halting (R419). -/
inductive CombPhase | running | preempting | draining | resuming | halting
  deriving DecidableEq, Repr

/-- A comb (R10, R325). `oldest` holds the last value of its swarm's oldest unreported index once the slot is freed (R336); `cutPending` tells that its pre-emption waits for its paired stream (R298). -/
structure Comb where
  record  : Nat := 0
  parent  : Nat := 0
  index   : Nat := 0
  swarm   : Option Nat := none
  oldest  : Option Nat := none
  tenant  : BitVec 16 := 0
  queue   : Nat := 0
  prio    : Nat := 0
  shape   : Shape := {}
  base    : Nat := 0
  words   : Tab Word := []
  wordMarks : Tab Bool := []
  log     : List WordWrite := []
  guards  : Tab Nat := []
  bank    : Nat := 0
  reqs    : List Request := []
  qsubs   : List (Nat × Nat) := []
  ending  : Option StreamEnd := none
  phase   : CombPhase := .running
  cutPending : Bool := false
  batches : List Nat := []
  reported : Bool := false
  strands : Tab Strand := []
  deriving DecidableEq, Repr

/-- A command of the matrix sequencer (R284, R300): the opcode and its fields, its PC, the operand values that it carries, and how it stands with its slot guard: 0 not sampled, 1 held, 2 sampled true (R303). -/
structure Cmd where
  op    : Op
  enc   : Enc
  pc    : Nat
  vals  : List Nat
  guard : Nat := 0
  deriving DecidableEq, Repr

/-- The pairing of a stream (R295, R296, R313, R314): not paired; seeking a partner under a tag since a cycle; paired, with the paired commands started since the MPAIR and the cycle at which the next one reached its head; or dissolved by the partner. -/
inductive Pairing | none | seeking (tag since : Nat) | paired (n : Nat) (waiting : Option Nat) | dissolved
  deriving DecidableEq, Repr

/-- A command that the engine has started and whose LM writes are not performed yet (R284): window offset, bytes and value. -/
structure Running where
  cmd    : Cmd
  writes : List (Nat × Nat × Nat)
  deriving DecidableEq, Repr

/-- What a stream waits for: a barrier's phase, the drain of its queue at EXIT, a page that its fetch missed; or the drain of its queue before it ends by a fetch fault, with the cause and the VA (R281 to R283). -/
inductive SeqWait | bbwait (off : Nat) (phase : Bool) (len : Nat) | exit | fetch (batch : Nat) | lost (cause va : Nat)
  deriving DecidableEq, Repr

/-- A running stream (R276, R280): its comb and issuing strand, its privilege, PC and registers, its maps with their validity, its command queue, and the command being executed. -/
structure Stream where
  slot    : Nat
  strand  : Nat
  tenant  : BitVec 16
  priv    : Bool
  pc      : Pc
  s       : Tab Word := []
  mode    : Dbl := 0
  maps    : Tab (Option (Nat × Bool)) := []
  queue   : List Cmd := []
  running : Option Running := none
  pairing : Pairing := .none
  wait    : Option SeqWait := none
  deriving DecidableEq, Repr

/-- A direct command that holds the sequencer (R301): its strand and the command's LM writes still to perform. -/
structure Direct where
  slot   : Nat
  strand : Nat
  running : Running
  deriving DecidableEq, Repr

/-- Who waits for the sequencer, in issue order and within one cycle by frame (R279): a strand with an MRUN (its target) or a direct command. -/
structure SeqWaiter where
  slot   : Nat
  strand : Nat
  frame  : Nat
  cycle  : Nat
  cmd    : Cmd
  deriving DecidableEq, Repr

/-- The sequencer image of a comb (R298): of a resumed one that waits for the sequencer, or of one whose stream is saved ahead of its image (R470): its stream, the accumulators and their tags. -/
structure Restore where
  slot   : Nat
  stream : Stream
  acc    : Tab Word
  intTag : Tab Bool
  deriving DecidableEq, Repr

/-- The matrix sequencer and the accumulator store of a core (R276, R286). -/
structure Matrix where
  stream  : Option Stream := none
  direct  : Option Direct := none
  waiters : List SeqWaiter := []
  restores : List Restore := []
  held    : List Restore := []
  last    : Option (BitVec 16) := none
  acc     : Tab Word := []
  intTag  : Tab Bool := []
  deriving DecidableEq, Repr

/-- A function-table bank (R124): whether it is loaded, its header words and its segments of three words. -/
structure Bank where
  loaded : Bool := false
  bits   : Bool := false
  sym    : Nat := 0
  shift  : Nat := 0
  last   : Nat := 0
  lo     : Word := 0
  inv    : Word := 0
  base   : Word := 0
  nanv   : Word := 0
  segs   : List (Word × Word × Word) := []
  deriving DecidableEq, Repr

/-- A read copy of a 32-byte sector under a lease (R191, R192, R180): the 256 bits, poison, and expiry. -/
structure Copy where
  data   : BitVec 256
  poison : Bool
  expiry : Nat
  deriving DecidableEq, Repr

/-- A write-combining entry (R196): the strand, the line by VA and PA, the bytes it holds, when it was opened and last stored to, the tokens that its stores still owe (R368), the number of its access, and the place of its last store among the strand's accesses. A fabric entry has no PA and its line is a fabric address. -/
structure WcbEntry where
  id      : Nat
  slot    : Nat
  strand  : Nat
  frame   : Nat
  fabric  : Bool
  va      : Nat
  pa      : Nat
  mask    : Dbl
  data    : LineBits
  opened  : Nat
  touched : Nat
  owed    : Nat
  access  : Nat
  last    : Nat
  deriving DecidableEq, Repr

/-- A drained entry (R195): the earlier drains that it waits for, once applied, the apply time and the completion time, and the GT at which its line has been written back since (R206), 0 for never. -/
structure Drain where
  entry   : WcbEntry
  after_  : List Nat
  applied : Option (Nat × Nat)
  cleaned : Nat := 0
  deriving DecidableEq, Repr

/-- An entry of the slice table (R339). -/
structure SliceEntry where
  valid  : Bool := false
  tenant : BitVec 16 := 0
  length : Nat := 0
  deriving DecidableEq, Repr

/-- The running slice of a core (R338, R339): the entry, the tenant and length latched, and the start cycle. -/
structure Slice where
  entry  : Nat
  tenant : BitVec 16
  length : Nat
  start  : Nat
  deriving DecidableEq, Repr

/-- The share registers and buckets of a core's network port (R367 to R369). Bucket 8 is the default class, and `filled` the number of the last period that began; `queue` holds the requests that wait for tokens, with their tenants, in the order in which they came, `passed` how many have passed in the cycle `at_`, and `last` the bucket served last (R368). -/
structure Shares where
  en      : Bool := false
  defw    : Nat := 0
  bwt     : Tab Dbl := []
  buckets : Tab Nat := []
  filled  : Nat := 0
  queue   : List (BitVec 16 × PortReq) := []
  at_     : Nat := 0
  passed  : Nat := 0
  last    : Nat := 8
  deriving DecidableEq, Repr

/-- Entry `k` of the share registers, where it is valid: its tenant and its weight (R367). -/
def Shares.entry (h : Shares) (k : Nat) : Option (BitVec 16 × Nat) :=
  let x := Tab.get 0 h.bwt k
  if x.getLsbD 63 then some ((x >>> 8).setWidth 16, x.toNat % 256) else none

/-- A saved comb (R342): the comb with its strands' images, the bytes of its LM window with poison marks, the slot it held, and its stream if one was running. A confidential comb's image lies encrypted in its save area under the key `sealedBy` (R432). -/
structure Saved where
  comb   : Comb
  slot   : Nat
  lm     : List (Nat × Byte)
  poison : List Nat
  stream : Option Stream
  acc    : Tab Word
  intTag : Tab Bool
  sealedBy : Option (BitVec 256)
  deriving DecidableEq, Repr

/-- An instruction that has issued in a cycle (R12, R70): its frame, 6 for the matrix sequencer, its strand, whether it uses the varying datapath, whether it is single-issue, whether it is a TLOAD or TFLIP (R130), and the registers that it writes. -/
structure Issued where
  cycle   : Nat
  frame   : Nat
  slot    : Nat
  strand  : Nat
  varying : Bool
  single  : Bool
  bank    : Bool
  writes  : List Reg
  deriving DecidableEq, Repr

/-- A core (R8, R13): its LM and poison marks, its combs, and its units. `bankQ` holds the slot and index of the strands that wait at a TLOAD or TFLIP, in issue order (R130). -/
structure Core where
  lm      : Mem := []
  lmPoison : Tab Bool := []
  combs   : Tab (Option Comb) := []
  saved   : List Saved := []
  ready   : List Nat := []
  banks   : Tab Bank := []
  curBank : Nat := 0
  bankQ   : List (Nat × Nat) := []
  locks   : List LockEntry := []
  kicks   : List KickWait := []
  nextReq : Nat := 0
  matrix  : Matrix := {}
  l1      : Tab (Option Copy) := []
  constant : Tab (Option Copy) := []
  icache  : Tab (Option Copy) := []
  wcb     : List WcbEntry := []
  drains  : List Drain := []
  nextWcb : Nat := 0
  slices  : Tab SliceEntry := []
  slice   : Option Slice := none
  lastSlice : Option Nat := none
  shares  : Shares := {}
  issued  : List Issued := []
  deriving DecidableEq, Repr

end Sys2Proof.Machine
end

