-- ==== Sys2Proof/Machine/DeviceState.lean ====
section
/-! DEFINITION. The state outside the cores: memory and its caches, leases and pagers, the cell scheduler, the management space, security, the host, the drone and application cores, the fabric and the accord. -/

namespace Sys2Proof.Machine
open Sys2Proof

/-- A 64 KiB cache page of device memory (R347, R348, R350): whether it is resident, its order of allocation, its attributes, its access counter, the lines still being fetched, in the order of the fetch, and those of them that a GPREF brings into the home L2 (R362). -/
structure Page where
  resident : Bool := false
  order    : Nat := 0
  pin      : Bool := false
  noalloc  : Bool := false
  counter  : Nat := 0
  fetching : List Nat := []
  toL2     : List Nat := []
  deriving DecidableEq, Repr

/-- A region of the write-update directory (R194): its first line, its size in lines, its sharers, and the GT of its last update that reached a sharer without the line. -/
structure DirRegion where
  base    : Nat
  lines   : Nat
  sharers : List Nat
  stale   : Nat
  deriving DecidableEq, Repr

/-- A line locked by an MCAS (R246): the strand, and the instant T at which it is released once the compare has succeeded. -/
structure LineLock where
  line  : Nat
  owner : Sid
  until_ : Option Nat
  deriving DecidableEq, Repr

/-- A host snoop or back-invalidation that waits for the other die's lease (R225): its line and the expiry, and the bytes that the host stores to the line once it has it. -/
structure Snoop where
  line   : Nat
  expiry : Nat
  mask   : Dbl := 0
  data   : LineBits := 0
  deriving DecidableEq, Repr

/-- A dirty line in an eviction buffer, with its transaction identifier (R203): evicted by an owning RDC or, for a host line, by a die-0 slice; `taken` tells that the home has already taken it from an answer of the buffer. -/
structure Eviction where
  tx    : Nat
  line  : Nat
  taken : Bool
  deriving DecidableEq, Repr

/-- The memory system. `mem` holds the bytes as their owner holds them; `dirty` holds, for each line of device memory not written back, what its backing still holds (R347, R349); `rdc` holds read copies by die and sector (R192); `owned` the lines that the other die's RDC owns (R193); `grants` the latest lease granted to the other die for each line (R192), `l2` the lines that the home L2 slices hold (R8, R192), `evictions` the dirty lines in an eviction buffer (R203), `detected` the errors logged as poison (R202). -/
structure Memory where
  mem     : Mem := []
  dirty   : Tab (Option LineBits) := []
  poison  : Tab Bool := []
  pages   : Tab Page := []
  allocSeq : Nat := 0
  rdc     : Tab (Option Copy) := []
  owned   : Tab Bool := []
  grants  : Tab Nat := []
  directory : List DirRegion := []
  l2      : Tab Bool := []
  evictions : List Eviction := []
  detected : List PoisonSite := []
  nextTx  : Nat := 0
  snoops  : List Snoop := []
  hostLines : Tab Nat := []
  locks   : List LineLock := []
  nextResv : Nat := 0
  deriving DecidableEq, Repr

/-- A translation that a TLB holds (R190, R429): tenant, first VA, size, PA, and the R, W, X and E bits. -/
structure TlbEntry where
  tenant : BitVec 16
  va     : Nat
  size   : Nat
  pa     : Nat
  r      : Bool
  w      : Bool
  x      : Bool
  e      : Bool
  deriving DecidableEq, Repr

/-- A TLB entry with the TLB that holds it: that of package core 0 to 143, or 144 and the die's number (R190). -/
structure TlbSlot where
  holder : Nat
  entry  : TlbEntry
  deriving DecidableEq, Repr

/-- The TLBs (R190): the translations, with who holds them, and the tenant descriptors held. -/
structure Tlb where
  entries : List TlbSlot := []
  descs   : Tab (Option (List Nat)) := []
  deriving DecidableEq, Repr

/-- A hint record (R358). -/
structure Hint where
  tenant : BitVec 16
  start  : Nat
  npg    : Nat
  mu     : Bool
  tier   : Nat
  keep   : List Nat
  deriving DecidableEq, Repr

/-- A pager register block (R351). -/
structure Pager where
  fqbase  : Dbl := 0
  en      : Bool := false
  logn    : Nat := 0
  tail    : Word := 0
  head    : Word := 0
  key     : Dbl := 0
  dshift  : Nat := 10
  pinmax  : Word := 0
  lendmax : Word := 0
  seq     : Nat := 0
  lent    : Nat := 0
  halved  : Nat := 0
  deriving DecidableEq, Repr

/-- Who a batch of faults releases (R353, R355). -/
inductive Originator
  | strand (w : Sid)
  | engine (core slot req : Nat)
  | sequencer (core : Nat)
  | prefetch
  | device
  deriving DecidableEq, Repr

/-- One entry of a fault batch (R352): the page fault, its ACC, and its OUT once resolved (R354). -/
structure BatchEntry where
  va    : Nat
  pa    : Option Nat
  cause : Nat
  acc   : Nat
  out   : Option Nat
  deriving DecidableEq, Repr

/-- A batch of faults (R353). -/
structure Batch where
  id      : Nat
  die     : Nat
  num     : Nat
  origin  : Nat
  from_   : Originator
  tenant  : BitVec 16
  core    : Nat
  slot    : Nat
  gt      : Nat
  written : Bool
  entries : List BatchEntry
  deriving DecidableEq, Repr

/-- The leases, hints and pagers (R343, R351, R358). -/
structure Tiers where
  leases : Tab (Option Lease) := []
  hints  : List Hint := []
  pager0 : Pager := {}
  pager1 : Pager := {}
  batches : List Batch := []
  nextBatch : Nat := 0
  deriving DecidableEq, Repr

/-- An entry of a cell queue (R321): the cell, the next index and the one after the last, the swarm slot, and for each die the cycles for which it has been passed over as a head (R323). -/
structure QEntry where
  cell    : Cell
  next    : Nat
  last    : Nat
  swarm   : Option Nat
  passed0 : Nat := 0
  passed1 : Nat := 0
  deriving DecidableEq, Repr

/-- A cell queue (R320): QCTL, QBASE, its levels of entries, oldest first, and the last dispatched index (R443). -/
structure Queue where
  en      : Bool := false
  tenant  : BitVec 16 := 0
  dies    : Nat := 0
  logcap  : Nat := 0
  base    : Nat := 0
  levels  : Tab (List QEntry) := []
  last    : Nat := 0
  deriving DecidableEq, Repr

/-- A completed cell of a swarm that is not reported yet (R332), with the term that its report waits for and the lines whose write-back it waits for. -/
structure Completion where
  cell  : Nat
  term  : Nat
  lines : List Nat
  deriving DecidableEq, Repr

/-- A swarm slot (R331, R332). -/
structure Swarm where
  used   : Bool := false
  desc   : Nat := 0
  pa     : Nat := 0
  n      : Nat := 0
  oldest : Nat := 0
  window : List Completion := []
  reported : List Nat := []
  sys    : Bool := false
  nen    : Bool := false
  nreg   : Nat := 0
  tenant : BitVec 16 := 0
  deriving DecidableEq, Repr

/-- A parked cell (R335): the tenant that parked it, whether it has been released, and its place in park order. -/
structure Parked where
  cell     : Cell
  tenant   : BitVec 16
  released : Bool
  order    : Nat
  deriving DecidableEq, Repr

/-- A notify register (R335, R439). -/
structure Notify where
  seq    : Word := 0
  binding : Dbl := 0
  parked : List Parked := []
  deriving DecidableEq, Repr

/-- The tenant that a notify register is bound to, if any (R439). -/
def Notify.bound (n : Notify) : Option (BitVec 16) := if n.binding.getLsbD 63 then some (n.binding.setWidth 16) else none

/-- The cell scheduler. `served` is the queue last served by each die and level (R323); `launched` holds what the dies have launched in the latest cycle: cycle, die, queue and level; `stopped` names, for each die, the queue and level of an entry that has been passed over 65,536 times. -/
structure Scheduler where
  queues  : Tab Queue := []
  swarms  : Tab Swarm := []
  notify  : Tab Notify := []
  served  : Tab Nat := []
  launched : List (Nat × Nat × Nat × Nat) := []
  stopped : List (Nat × Nat × Nat) := []
  parkSeq : Nat := 0
  deriving DecidableEq, Repr

/-- A stop entry of the debug block (R421). -/
structure StopEntry where
  who    : Sid
  tenant : BitVec 16
  pc     : Nat
  len    : Nat
  code   : Word
  mask   : Mask
  deriving DecidableEq, Repr

/-- The global registers, the halt log and the debug block (R421, R441, R452). `booting` tells that bring-up runs (R442, R451), and `recovery` that the boot ROM refused the firmware. `command` is the OP that runs, with the operands and the GT that it took, `cmdDone` tells that its effect has come about (R442), and `cmdTerm` is the latest completion time of its writes (R438). `dbgBusy` holds the debug commands that still wait, as OP and entry (R421). -/
structure Mgmt where
  ready    : Bool := false
  booting  : Bool := false
  rplreq   : Bool := false
  removed  : List Nat := []
  tdbase   : Nat := 0
  dbgLock  : Bool := false
  arg0     : Dbl := 0
  arg1     : Dbl := 0
  recovery : Bool := false
  command  : Option Nat := none
  op0      : Dbl := 0
  op1      : Dbl := 0
  cmdAt    : Nat := 0
  cmdDone  : Bool := false
  cmdTerm  : Nat := 0
  cmdErr   : Bool := false
  haltLog  : Tab (List Nat) := []
  hlogTail : Nat := 0
  dbgAtt   : Bool := false
  dbgTenant : BitVec 16 := 0
  dbgArg   : Nat := 0
  dbgErr   : Bool := false
  dbgBusy  : List (Nat × Nat) := []
  stops    : Tab (Option StopEntry) := []
  removedDrones : List Nat := []
  removedApps   : List Nat := []
  deriving DecidableEq, Repr

/-- The state of a TDISP interface (R430). -/
inductive TdispState | configUnlocked | configLocked | run | error
  deriving DecidableEq, Repr

/-- A confidential context (R430, R431). -/
structure Context where
  state  : TdispState := .configUnlocked
  session : Bool := false
  period : Nat := 0
  beat   : Nat := 0
  keys   : Tab (Option (BitVec 256)) := []
  lost   : Bool := false
  deriving DecidableEq, Repr

/-- The security alarm, the contexts, and how many firmware stages have been verified and measured (R430, R433, R451). -/
structure Security where
  lock     : Bool := false
  dbga     : Nat := 1
  glta     : Nat := 1
  tmpa     : Nat := 1
  status   : Nat := 0
  erased   : Bool := false
  stopAll  : Bool := false
  contexts : Tab Context := []
  attested : List (List Byte) := []
  measured : Nat := 0
  deriving DecidableEq, Repr

/-- What the J40 returns to the host: the completion of a CXL.mem access (R435), with its PA, the data of a read, and poison; or the response to a snoop with the line's data (R225). -/
structure HostAnswer where
  pa     : Nat
  data   : Nat
  poison : Bool
  deriving DecidableEq, Repr

/-- The host attachment (R435 to R438): sync, the GTs that absorb the requests not absorbed yet, what the J40 has answered, and the MSI-X vectors signalled, newest first. -/
structure HostIf where
  sync    : Word := 0
  pending : List Nat := []
  answers : List HostAnswer := []
  msix    : List Nat := []
  deriving DecidableEq, Repr

/-- An accepted entry of a drone queue that is not finished (R271, R449). -/
structure DroneEntry where
  seq    : Nat
  entry  : LineBits
  tenant : BitVec 16
  core   : Nat
  slot   : Nat
  deriving DecidableEq, Repr

/-- A drone queue (R448). -/
structure DroneQueue where
  en     : Bool := false
  ien    : Bool := false
  drone  : Nat := 0
  svc    : Nat := 0
  tenant : BitVec 16 := 0
  ften   : Nat := 0
  nreg   : Nat := 0
  logcap : Nat := 0
  base   : Nat := 0
  seq    : Nat := 0
  open_  : List DroneEntry := []
  orphan : Bool := false
  deriving DecidableEq, Repr

/-- An application core (R444, R446, R447): the wall CSRs, the bytes of the weights map as of its last SFENCE.VMA, the translations that it holds (VA and PA page), the RISC-V cause and the VA of its last access fault, what its last load, fetch or CSR read returned and whether poisoned, and the latest device-scope term of its stores. -/
structure AppCore where
  sbx   : Bool := false
  cause : Nat := 0
  wallB : Tab Nat := []
  wallL : Tab Nat := []
  weights : Mem := []
  held  : List (Nat × Nat) := []
  xcause : Nat := 0
  xval  : Nat := 0
  loaded : Nat := 0
  bad   : Bool := false
  term  : Nat := 0
  deriving DecidableEq, Repr

/-- The drone and application cores (R444 to R450). -/
structure Service where
  drones : Tab DroneQueue := []
  apps   : Tab AppCore := []
  wtbase : Nat := 0
  deriving DecidableEq, Repr

/-- The life counters and histograms with their copies in non-volatile storage (R454). -/
structure Life where
  counters : Tab Nat := []
  bins     : Tab Nat := []
  nvCounters : Tab Nat := []
  nvBins   : Tab Nat := []
  flushed  : Nat := 0
  deriving DecidableEq, Repr

/-- An entry of the route table (R373). -/
structure Route where
  valid  : Bool := false
  direct : Bool := false
  minp   : Nat := 0
  i0     : Nat := 0x3FF
  i1     : Nat := 0x3FF
  i2     : Nat := 0x3FF
  i3     : Nat := 0x3FF
  deriving DecidableEq, Repr

/-- An entry of the window table (R377). -/
structure Window where
  valid  : Bool := false
  r      : Bool := false
  w      : Bool := false
  a      : Bool := false
  tenant : BitVec 16 := 0
  srct   : Nat := 0
  vbase  : Nat := 0
  len    : Nat := 0
  deriving DecidableEq, Repr

/-- A request of this device to a target (R380, R382): what it serves, the tokens that it still has to spend (R368), the packet, the GT of its first and of its last send or retry response. A request not sent yet has no times. -/
structure FabOut where
  use    : FabUse
  cost   : Nat
  packet : FabRequest
  first  : Option Nat
  last   : Nat
  deriving DecidableEq, Repr

/-- What a source keeps for one target (R375, R380, R381). -/
structure FabTarget where
  nextSeq : Nat := 0
  epoch   : Option Nat := none
  heard   : Nat := 0
  out     : List FabOut := []
  deriving DecidableEq, Repr

/-- What a target keeps for one source (R381): H and the record of the last 256 numbers with the answer of each executed one. -/
structure FabSource where
  high : Option Nat := none
  done : List (Nat × FabAnswer) := []
  deriving DecidableEq, Repr

/-- A message that leaves the device: a packet of the fabric by a port, with the GT at which it leaves (R379, R383), or an accord message (R394). -/
inductive OutMsg
  | packet (dst port : Nat) (p : FabPacket) (when_ : Nat)
  | notice (n : Notice)
  | forward (dst : Nat) (n : Notice)
  | heartbeat (h : Heartbeat)
  | removed (dst : Nat)
  | joinRequest (dst group limit : Nat)
  | snapshot (dst : Nat) (table : Snapshot) (adopt : Nat)
  | refuse (dst : Nat)
  deriving DecidableEq, Repr

/-- The fabric state (R370 to R382). `down` holds the ports whose link is not up: all of them until their links come up (log entry 102). `acks` holds the responses of this device to itself with the GT at which they arrive. -/
structure Fabric where
  routes   : Tab Route := []
  windows  : Tab Window := []
  down     : List Nat := List.range 32
  targets  : Tab FabTarget := []
  sources  : Tab FabSource := []
  epoch    : Nat := 0
  acks     : List (Nat × FabResponse) := []
  outbox   : List OutMsg := []
  deriving DecidableEq, Repr

/-- STATE of ACCSTAT (R395). -/
inductive AccState | solo | joining | member | isolated
  deriving DecidableEq, Repr

/-- A join in progress (R401, R402): the sponsor, the state to return to, the limit sent, the GT of the request, and the adoption time once the snapshot has come. -/
structure Joining where
  sponsor : Nat
  back    : AccState
  limit   : Nat
  since   : Nat
  adopt   : Option Nat
  deriving DecidableEq, Repr

/-- The accord (R392 to R404). `clamp` is a trip clamp, `cap` the clamp of an isolated device, `rises` the limits of removed members, each with the instant until which it still holds the ceiling down (R399), `forwards` the joiners that this device sponsors with their adoption times, `heard` the GT of the last heartbeat of any other member, `lateTrip` a trip whose notice waits for the adoption. -/
structure Accord where
  en      : Bool := false
  group   : Nat := 0
  lead    : Nat := 50
  trip    : Nat := 800
  limit   : Nat := 2200
  state   : AccState := .solo
  err     : Nat := 0
  table   : List Member := []
  seq     : Nat := 0
  clamp   : Option Nat := none
  cap     : Option Nat := none
  rises   : List (Nat × Nat) := []
  joining : Option Joining := none
  forwards : List (Nat × Nat) := []
  heard   : Nat := 0
  beat    : Nat := 0
  lateTrip : Option Nat := none
  deriving DecidableEq, Repr

end Sys2Proof.Machine
end

