-- ==== Sys2Proof/Machine/State.lean ====
section
/-! DEFINITION. The state of the whole module, the state after reset, and why a step can stop. -/

namespace Sys2Proof.Machine
open Sys2Proof

/-- The clocks of the model: GT in ns (R4), the cycle count (R369), and the turn, which counts the steps and which the free choices of Config are applied to (log entry 2). -/
structure Clock where
  gt    : Nat := 0
  cycle : Nat := 0
  turn  : Nat := 0
  deriving DecidableEq, Repr

/-- The state of the J40 module. `cur` names the strand or sequencer whose instruction a step runs, and `inputs` the steps that the outside world will deliver, oldest first; `retry` tells that the one just taken could not act yet, and whether it is the next again or the last (log entry 1). -/
structure State where
  clock   : Clock := {}
  cur     : Sid := { core := 0, slot := 0, strand := 0 }
  inputs  : List Instr := []
  retry   : Option Bool := none
  cores   : Tab Core := []
  memory  : Memory := {}
  tlb     : Tlb := {}
  tiers   : Tiers := {}
  sched   : Scheduler := {}
  mgmt    : Mgmt := {}
  sec     : Security := {}
  host    : HostIf := {}
  service : Service := {}
  life    : Life := {}
  fabric  : Fabric := {}
  accord  : Accord := {}
  deriving DecidableEq, Repr

/-- Why the machine stops. -/
inductive Fault
  /-- Raised by nothing: every fault of the spec is taken as a next state (R414, R200, R282, R416). Safe. -/
  | none
  deriving DecidableEq, Repr

/-- Why an instruction has no meaning. -/
inductive Refusal
  /-- The instruction named has no meaning in this model yet; raised by its arm of exec. Safe. -/
  | notModelled (mnemonic : String)
  deriving DecidableEq, Repr

/-- The module right after reset (log entries 3 to 11): nothing resident, no queue enabled, every register at the reset value of its table, and bring-up to come (R442, R451). -/
def State.reset : State := { mgmt := { booting := true } }

end Sys2Proof.Machine
end

