-- ==== Sys2Proof/Machine/Ops.lean ====
section
/-! DEFINITION. The named operations over the state: reaching cores, combs and strands; reading and writing registers; the PC table; comb words; taking a trap (R414, R416) and returning from one (R417); the clock tests of R5. -/

namespace Sys2Proof.Machine
open Sys2Proof

/-- The strand index that stands for a comb's matrix sequencer (R52). -/
def seqIndex : Nat := 32

/-- The step just taken from outside cannot act yet: it is to be taken again, next where `first`, else after the others (log entry 1). -/
def State.again (s : State) (first : Bool) : State := { s with retry := some first }

/-- A host access answered: in recovery the module answers none (R451). -/
def State.fromHost (s : State) (f : State → State) : State := if s.mgmt.recovery then s else f s

/-- Package core `c` (R9). -/
def State.core (s : State) (c : Nat) : Core := Tab.get {} s.cores c

/-- The state with package core `c` replaced. -/
def State.setCore (s : State) (c : Nat) (x : Core) : State := { s with cores := Tab.put {} s.cores c x }

/-- A core changed by `f`. -/
def State.onCore (s : State) (c : Nat) (f : Core → Core) : State := s.setCore c (f (s.core c))

/-- The comb resident in a slot of a core, if any. -/
def State.comb? (s : State) (c slot : Nat) : Option Comb := Tab.get none (s.core c).combs slot

/-- The comb resident in a slot; the default comb, which has no strand, where there is none. -/
def State.comb (s : State) (c slot : Nat) : Comb := (s.comb? c slot).getD {}

/-- A comb put into a slot. -/
def State.setComb (s : State) (c slot : Nat) (x : Comb) : State :=
  s.onCore c fun k => { k with combs := Tab.put none k.combs slot (some x) }

/-- A resident comb changed by `f`; nothing where there is none. -/
def State.onComb (s : State) (c slot : Nat) (f : Comb → Comb) : State :=
  match s.comb? c slot with
  | some x => s.setComb c slot (f x)
  | none => s

/-- A strand; the default strand, which has no live lane, where none is resident. -/
def State.strand (s : State) (w : Sid) : Strand := Tab.get {} (s.comb w.core w.slot).strands w.strand

/-- A strand of a resident comb changed by `f`. -/
def State.onStrand (s : State) (w : Sid) (f : Strand → Strand) : State :=
  s.onComb w.core w.slot fun c => { c with strands := Tab.put {} c.strands w.strand (f (Tab.get {} c.strands w.strand)) }

/-- The running stream of a core, if any. -/
def State.stream? (s : State) (c : Nat) : Option Stream := (s.core c).matrix.stream

/-- The running stream of a core changed by `f`. -/
def State.onStream (s : State) (c : Nat) (f : Stream → Stream) : State :=
  s.onCore c fun k => { k with matrix := { k.matrix with stream := k.matrix.stream.map f } }

/-- The die of a package core (R9). -/
def dieOf (core : Nat) : Nat := core / 72

/-- The tenant of the comb in a slot. -/
def State.tenantOf (s : State) (c slot : Nat) : BitVec 16 := (s.comb c slot).tenant

/-- GT has passed the instant that a 32-bit value denotes (R5). -/
def gtPassed (gt : Nat) (t : Word) : Bool :=
  let x := (BitVec.ofNat 32 gt - t).toNat
  1 ≤ x && x ≤ 2 ^ 31 - 1

/-- The low half of GT. -/
def State.gt32 (s : State) : Word := BitVec.ofNat 32 s.clock.gt

/-- GT as 64 bits. -/
def State.gt64 (s : State) : Dbl := BitVec.ofNat 64 s.clock.gt

/-! Fault codes (R422). -/

/-- The code of a fault cause (R422). -/
inductive Cause
  | illegalInstr | illegalOperand | uniformPartial | affineOverflow | idemClobber | priv | misaligned | pageNotMapped
  | pageProtect | leaseExpired | leaseRevoked | poolNodeFailed | rangeConflict | atomUnsupported | mcasSpan | memPoison
  | fabricUnreachable | fabricTimeout | pairTimeout | accFormat | mapInvalid | stackOverflow | windowRange | barrierOverflow
  | confLost | trap | brk | syscall
  deriving DecidableEq, Repr

/-- The number of a cause (R422). -/
def Cause.code : Cause → Nat
  | .illegalInstr => 0x01 | .illegalOperand => 0x02 | .uniformPartial => 0x03 | .affineOverflow => 0x04
  | .idemClobber => 0x05 | .priv => 0x06 | .misaligned => 0x08 | .pageNotMapped => 0x09 | .pageProtect => 0x0A
  | .leaseExpired => 0x0B | .leaseRevoked => 0x0C | .poolNodeFailed => 0x0D | .rangeConflict => 0x10
  | .atomUnsupported => 0x11 | .mcasSpan => 0x12 | .memPoison => 0x13 | .fabricUnreachable => 0x14 | .fabricTimeout => 0x15
  | .pairTimeout => 0x18 | .accFormat => 0x19 | .mapInvalid => 0x1A | .stackOverflow => 0x20 | .windowRange => 0x21
  | .barrierOverflow => 0x22 | .confLost => 0x28 | .trap => 0x30 | .brk => 0x31 | .syscall => 0x32

/-- The codes that R422 lists. -/
def listedCauses : List Nat :=
  [0x01, 0x02, 0x03, 0x04, 0x05, 0x06, 0x08, 0x09, 0x0A, 0x0B, 0x0C, 0x0D, 0x0E, 0x10, 0x11, 0x12, 0x13, 0x14, 0x15, 0x18, 0x19, 0x1A,
   0x20, 0x21, 0x22, 0x28, 0x30, 0x31, 0x32]

/-- A fault that an instruction or a command raises: its cause and TVAL (R6). -/
structure Trap where
  cause : Cause
  tval  : Dbl
  deriving DecidableEq, Repr

/-- A trap with a number as TVAL. -/
def Trap.of (c : Cause) (v : Nat) : Trap := { cause := c, tval := BitVec.ofNat 64 v }

/-! The PC table (R148, R149). -/

/-- The PC of a lane. -/
def Strand.pc (st : Strand) (l : Nat) : Pc := if h : l < 32 then st.pcs[l] else 0

/-- The lowest PC among the lanes of a mask; 0 for an empty mask (R148). -/
def Strand.minPc (st : Strand) (m : Mask) : Pc :=
  match Mask.lanes m with
  | [] => 0
  | l :: t => t.foldl (fun p i => if st.pc i < p then st.pc i else p) (st.pc l)

/-- The lanes of `m` that stand at `p`. -/
def Strand.at (st : Strand) (m : Mask) (p : Pc) : Mask := Mask.of fun i => m.getLsbD i && st.pc i == p

/-- The lanes that may issue: all live lanes, or, during a burst, those outside the held set (R148, R159). -/
def Strand.candidates (st : Strand) : Mask :=
  match st.sched.burst with
  | some b => if st.live &&& ~~~b.held = 0 then st.live else st.live &&& ~~~b.held
  | none => st.live

/-- The issue PC (R148, R159). -/
def Strand.issuePc (st : Strand) : Pc := st.minPc st.candidates

/-- The issuing group (R148, R159). -/
def Strand.group (st : Strand) : Mask := st.at st.candidates st.issuePc

/-- Whether the live lanes stand at one PC (R158). -/
def Strand.converged (st : Strand) : Bool := st.at st.live (st.minPc st.live) == st.live

/-- The lanes of `m` moved to the PC that `f` gives them. -/
def Strand.move (st : Strand) (m : Mask) (f : Nat → Pc) : Strand :=
  { st with pcs := Vector.ofFn fun i : Fin 32 => if m.getLsbD i.val then f i.val else st.pcs[i] }

/-- The value of a mask register: k0 reads as the live mask (R43). -/
def Strand.mask (st : Strand) (n : Nat) : Mask := if n = 0 then st.live else Tab.get 0 st.regs.k n

/-- The lanes that a guard admits (R29). -/
def Strand.guardMask (st : Strand) (g : BitVec 4) : Mask :=
  if g = 0 then BitVec.allOnes 32
  else
    let k := st.mask (g.toNat % 8)
    if g.toNat ≥ 8 then ~~~k else k

/-! Comb words (R52). -/

/-- The value that strand index `x` reads from comb word `n` in cycle `c`: the last write in comb order among those of cycle c - 2 or earlier and those of `x` itself before cycle c (R52). -/
def Comb.readWord (k : Comb) (x c n : Nat) : Word :=
  k.log.foldl (fun v e => if e.reg = n ∧ (e.cycle + 2 ≤ c ∨ (e.strand = x ∧ e.cycle < c)) then e.value else v) (Tab.get 0 k.words n)

/-- Whether the value that strand index `x` reads from comb word `n` in cycle `c` carries a poison mark (R52, R202). -/
def Comb.wordMark (k : Comb) (x c n : Nat) : Bool :=
  k.log.foldl (fun v e => if e.reg = n ∧ (e.cycle + 2 ≤ c ∨ (e.strand = x ∧ e.cycle < c)) then e.poison else v) (Tab.get false k.wordMarks n)

/-- A write put in its place by comb order: issue cycle, then strand index (R52). -/
def insertWrite (e : WordWrite) : List WordWrite → List WordWrite
  | [] => [e]
  | x :: t => if e.cycle < x.cycle ∨ (e.cycle = x.cycle ∧ e.strand < x.strand) then e :: x :: t else x :: insertWrite e t

/-- The issue cycles of the loads of a strand into comb words that are still in flight: their writes are not in the log yet. -/
def Strand.wordLoads (st : Strand) : List (Nat × Nat) :=
  (st.flight.loads.filter fun l => l.scalar && !l.discard).flatMap fun l => (l.parts.filter fun p => p.reg ≥ 64).map fun p => (l.cycle, p.reg - 64)

/-- The comb words with the writes that every reader sees folded into the table (R52); a write later than a load in flight stays in the log. -/
def Comb.settle (k : Comb) (c : Nat) : Comb :=
  let first := (k.strands.flatMap fun x => x.2.wordLoads).foldl (fun m x => min m x.1) c
  let old := k.log.takeWhile fun e => e.cycle + 2 ≤ c && e.cycle < first
  { k with
    words := old.foldl (fun t e => Tab.put 0 t e.reg e.value) k.words
    wordMarks := old.foldl (fun t e => Tab.put false t e.reg e.poison) k.wordMarks
    log := k.log.drop old.length }

/-- Comb word `n` written by the instruction that strand index `x` issued in cycle `c` (R52); a poisoned value brings its mark (R202). -/
def Comb.writeWord (k : Comb) (x c n : Nat) (v : Word) (poison : Bool := false) : Comb :=
  let k := k.settle c
  { k with log := insertWrite { cycle := c, strand := x, reg := n, value := v, poison := poison } k.log }

/-- The comb words that a read in cycle `c` must wait for: a load issued in cycle `c` - 2 or earlier is to write them (R52, R72). -/
def Comb.pendingWords (k : Comb) (c : Nat) : List Reg :=
  k.strands.flatMap fun x => (x.2.wordLoads.filter fun y => y.1 + 2 ≤ c).map fun y => Reg.w y.2

/-! Registers. -/

/-- The register that a field of class `c` names, with the window base (R27, R48). -/
def regOf (c : Cls) (wb n : Nat) : Reg :=
  match c with
  | .s => if n < 64 then .s n else .w (n - 64)
  | .a => .a n
  | .v => .v (wb + n)
  | .k => .k n
  | .n => .s n

/-- The value of uniform field `n`: a uniform register or a comb word (R27). -/
def State.readS (s : State) (w : Sid) (n : Nat) : Word :=
  if n < 64 then Tab.get 0 (s.strand w).regs.s n
  else (s.comb w.core w.slot).readWord w.strand s.clock.cycle (n - 64)

/-- The 64-bit value S[n+1] ‖ S[n]. -/
def State.readPair (s : State) (w : Sid) (n : Nat) : Dbl := pair64 (s.readS w (n + 1)) (s.readS w n)

/-- The value of a register in a lane (R75): an affine register reads as base + lane × stride (R46), a mask as 0 or 1. -/
def State.readReg (s : State) (w : Sid) (r : Reg) (lane : Nat) : Word :=
  let st := s.strand w
  match r with
  | .s n => Tab.get 0 st.regs.s n
  | .w n => (s.comb w.core w.slot).readWord w.strand s.clock.cycle n
  | .a n => let p := Tab.get (0, 0) st.regs.a n; p.1 + BitVec.ofNat 32 lane * p.2
  | .v n => (Tab.get (Lanes.all 0) st.regs.v n).at lane
  | .k n => if (st.mask n).getLsbD lane then 1 else 0

/-- The marks of one register cleared in some lanes. -/
def Marks.clear (m : Marks) (r : Reg) (lanes : Mask) : Marks :=
  match r with
  | .s n => { m with s := Tab.put 0 m.s n 0 }
  | .a n => { m with a := Tab.put 0 m.a n 0 }
  | .v n => { m with v := Tab.put 0 m.v n (Tab.get 0 m.v n &&& ~~~lanes) }
  | .k n => { m with k := Tab.put 0 m.k n (Tab.get 0 m.k n &&& ~~~lanes) }
  | .w n => { m with w := Tab.put 0 m.w n 0 }

/-- The marks of one register set in some lanes; a uniform or affine register or a comb word is marked in every lane. -/
def Marks.mark (m : Marks) (r : Reg) (lanes : Mask) : Marks :=
  if lanes = 0 then m else
  match r with
  | .s n => { m with s := Tab.put 0 m.s n (BitVec.allOnes 32) }
  | .a n => { m with a := Tab.put 0 m.a n (BitVec.allOnes 32) }
  | .v n => { m with v := Tab.put 0 m.v n (Tab.get 0 m.v n ||| lanes) }
  | .k n => { m with k := Tab.put 0 m.k n (Tab.get 0 m.k n ||| lanes) }
  | .w n => { m with w := Tab.put 0 m.w n (BitVec.allOnes 32) }

/-- The marks of one register. -/
def Marks.of (m : Marks) (r : Reg) : Mask :=
  match r with
  | .s n => Tab.get 0 m.s n
  | .a n => Tab.get 0 m.a n
  | .v n => Tab.get 0 m.v n
  | .k n => Tab.get 0 m.k n
  | .w n => Tab.get 0 m.w n

/-- A strand with a uniform register written (R42); the write clears its mark (R202). -/
def Strand.putS (st : Strand) (n : Nat) (v : Word) : Strand :=
  { st with regs := { st.regs with s := Tab.put 0 st.regs.s n v }, marks := st.marks.clear (.s n) 0 }

/-- A strand with an affine register written. -/
def Strand.putA (st : Strand) (n : Nat) (v : Word × Word) : Strand :=
  { st with regs := { st.regs with a := Tab.put (0, 0) st.regs.a n v }, marks := st.marks.clear (.a n) 0 }

/-- A strand with lanes `m` of physical varying register `n` written (R44). -/
def Strand.putV (st : Strand) (n : Nat) (m : Mask) (f : Nat → Word) : Strand :=
  let old := Tab.get (Lanes.all 0) st.regs.v n
  { st with
    regs := { st.regs with v := Tab.put (Lanes.all 0) st.regs.v n (Lanes.of fun i => if m.getLsbD i then f i else old.at i) }
    marks := st.marks.clear (.v n) m }

/-- A strand with bits `m` of mask register `n` written; a write to k0 is discarded (R43, R44). -/
def Strand.putK (st : Strand) (n : Nat) (m v : Mask) : Strand :=
  if n = 0 then st
  else { st with
    regs := { st.regs with k := Tab.put 0 st.regs.k n ((Tab.get 0 st.regs.k n &&& ~~~m) ||| (v &&& m)) }
    marks := st.marks.clear (.k n) m }

/-- Uniform field `n` written: a uniform register, or a comb word by strand index `w.strand` (R27, R52). In run-ahead a comb-word write is suppressed (R201). -/
def State.writeS (s : State) (w : Sid) (n : Nat) (v : Word) : State :=
  if n < 64 then s.onStrand w fun st => st.putS n v
  else if (s.strand w).ahead.isSome then s
  else s.onComb w.core w.slot fun k => k.writeWord w.strand s.clock.cycle (n - 64) v

/-! The spill area and the window (R49, R176). -/

/-- W of a launch shape (R176). -/
def Shape.window (h : Shape) : Nat := alignUp h.lmb 128 + (h.str + 1) * h.spill

/-- The varying registers of a strand of a launch shape (R325). -/
def Shape.nregs (h : Shape) : Nat := 8 * (h.regs + 1)

/-- The strands that `p` admits leave the queues of their core's units: KICKs that wait for entries, waiters for the sequencer, and waiting TLOADs and TFLIPs. -/
def Core.leaveQueues (k : Core) (p : Nat → Nat → Bool) : Core :=
  { k with
    kicks := k.kicks.filter fun x => !p x.slot x.strand
    bankQ := k.bankQ.filter fun x => !p x.1 x.2
    matrix := { k.matrix with waiters := k.matrix.waiters.filter fun x => !p x.slot x.strand } }

/-- Whether the sequencer executes a direct command of a strand (R301). -/
def State.directRuns (s : State) (w : Sid) : Bool :=
  match (s.core w.core).matrix.direct with | some d => d.slot == w.slot && d.strand == w.strand | none => false

/-! Traps (R413 to R417). -/

/-- TCAUSE from its fields (R413). -/
def tcauseWord (act ppriv seq : Bool) (cause : Nat) : Word :=
  BitVec.ofNat 32 (b2n act * 2048 + b2n ppriv * 1024 + b2n seq * 256 + cause % 256)

/-- TCAUSE.ACT (R413). -/
def Strand.act (st : Strand) : Bool := st.trap.tcause.getLsbD 11

/-- The reservations of a strand lost (R214), those that loads in flight would still take among them. -/
def Strand.loseResv (st : Strand) : Strand :=
  { st with flight := { st.flight with resv := [], loads := st.flight.loads.map fun l => { l with reserve := [] } } }

/-- The reservations in the places that `p` admits lost (R214), those that loads in flight would still take among them. -/
def Strand.dropPlaces (st : Strand) (p : Nat → Bool) : Strand :=
  { st with flight := { st.flight with
    resv := st.flight.resv.filter fun x => !p x.1
    loads := st.flight.loads.map fun l => { l with reserve := l.reserve.filter fun x => !p x.2 } } }

/-- The reservations in the places of a list lost (R214). -/
def Strand.dropResv (st : Strand) (slots : List Nat) : Strand := st.dropPlaces slots.contains

/-- The place of the reservation that the SCND with number `id` has taken up from a slot (R215, log entry 110). -/
def takenPlace (id slot : Nat) : Nat := 64 * (id + 1) + slot

/-- The slot whose reservation a place holds. -/
def slotOf (place : Nat) : Nat := place % 64

/-- The reservations of some slots taken up by the SCND with number `id`, those that earlier loads in flight would still give them among them (R215, log entry 110). -/
def Strand.takeResv (st : Strand) (id : Nat) (slots : List Nat) : Strand :=
  { st with flight := { st.flight with
    resv := slots.foldl (fun t k => Tab.put none (Tab.del t k) (takenPlace id k) (Tab.get none t k)) st.flight.resv
    loads := st.flight.loads.map fun l => { l with reserve := l.reserve.map fun x => if slots.contains x.2 then (x.1, takenPlace id x.2) else x } } }

/-- Trap entry (R414): the frame takes the PCs of the live lanes, every live lane moves to TVEC, the trap registers are written, the region, a burst, FC and the reservations go, and PRIV becomes 1. -/
def Strand.enterTrap (st : Strand) (cause : Nat) (tval : Dbl) (tpc : Pc) (group : Mask) (seq : Bool) : Strand :=
  let frame := Vector.ofFn fun i : Fin 32 => if st.live.getLsbD i.val then st.pcs[i] else st.trap.frame[i]
  let st := (st.loseResv).move st.live fun _ => st.trap.tvec.setWidth 57
  { st with
    flight := { st.flight with tokens := st.flight.tokens.filter fun t => t.reg != 64 }
    trap := { st.trap with
      frame := frame
      tmask := group
      tpc := tpc.setWidth 64
      tval := tval
      tcause := tcauseWord true st.trap.priv seq cause
      priv := true }
    region := none
    ahead := none
    sched := { st.sched with burst := none, fc := 0, wait := none, pend := none, paid := [], owes := 0 } }

/-- A 64-byte halt-log entry (R480) as its eight doubles. -/
def haltEntry (code tpc tval : Nat) (tenant : BitVec 16) (core comb strand kind gt : Nat) : List Nat :=
  [code, tpc, tval, tenant.toNat + core * 2 ^ 16 + comb * 2 ^ 24 + strand * 2 ^ 32 + kind * 2 ^ 40, gt, 0, 0, 0]

/-- The management interrupt, vector 0 (R438). -/
def State.interrupt (s : State) : State := { s with host := { s.host with msix := 0 :: s.host.msix } }

/-- An entry of the halt log written and the management interrupt signalled (R452, R480). -/
def State.logHalt (s : State) (l : List Nat) : State :=
  let m := s.mgmt
  ({ s with mgmt := { m with haltLog := Tab.put [] m.haltLog (m.hlogTail % 256) l, hlogTail := m.hlogTail + 1 } }).interrupt

/-- A life counter raised (R454). -/
def State.count (s : State) (i n : Nat) : State :=
  { s with life := { s.life with counters := Tab.put 0 s.life.counters i (Tab.get 0 s.life.counters i + n) } }

/-- Every live lane of a strand exits (R169, R416). -/
def Strand.exitAll (st : Strand) : Strand :=
  { st.loseResv with live := 0, region := none, ahead := none, sched := { st.sched with burst := none, wait := none, pend := none, stopped := false } }

/-- A fault routed to the trap handler (R414): entry, or with ACT = 1 a double fault, which ends the strand and is logged (R416). -/
def State.takeTrap (s : State) (w : Sid) (cause : Nat) (tval : Dbl) (tpc : Pc) (group : Mask) (seq : Bool) : State :=
  if (s.strand w).act then
    ((s.onStrand w Strand.exitAll).logHalt
      (haltEntry cause tpc.toNat tval.toNat (s.tenantOf w.core w.slot) w.core w.slot w.strand 1 s.clock.gt)).count 10 1
  else s.onStrand w fun st => st.enterTrap cause tval tpc group seq

/-- The residual mask of an atomic kept for the lanes of a mask only (R235). -/
def Strand.keepResid (st : Strand) (m : Mask) : Strand :=
  { st with sp := { st.sp with resid := st.sp.resid &&& m, residDone := st.sp.residDone &&& m } }

/-- The return of TRET (R417): the lanes of TMASK to TPC, the others to their frame PCs; PRIV and ACT as before the trap. A lane that returns to another PC than that of an atomic's residual leaves the residual (R235, log entry 21). -/
def Strand.trapReturn (st : Strand) : Strand :=
  let t := st.trap
  let st := st.move st.live fun i => if t.tmask.getLsbD i then t.tpc.setWidth 57 else (if h : i < 32 then t.frame[i] else 0)
  let st := st.keepResid (st.at st.live st.sp.residAt)
  { st with
    region := none
    trap := { t with priv := t.tcause.getLsbD 10, tcause := t.tcause &&& ~~~(0x800 : Word) } }

/-! Idempotent regions and run-ahead (R161 to R166, R201). -/

/-- The region closed (R163). -/
def Strand.closeRegion (st : Strand) : Strand := { st with region := none }

/-- Rollback to the entry of the open region (R166): every live lane to the entry PC; SSP, WB, MODE and PART as recorded (R51, R96, R134); FC 0, no burst; the fills of the region's loads not yet written are discarded; the reservations are lost (R214). What the strand waits for at an instruction of the region it waits for no longer, and a fault that such an instruction has left it to enter its handler with is raised anew by the replay, if at all. -/
def Strand.rollback (st : Strand) : Strand :=
  match st.region with
  | none => { st with ahead := none }
  | some r =>
    let st := (st.loseResv).move st.live fun _ => r.entry
    let drop := fun (a : Atomic) => match a.kind with | .mxld _ => if r.first ≤ a.id then { a with dest := none } else a | _ => a
    { st with
      ahead := none
      sp := { st.sp with ssp := r.ssp, wb := r.wb, mode := r.mode, part := r.part }
      flight := { st.flight with loads := st.flight.loads.map fun l => { l with discard := l.discard || decide (r.first ≤ l.id) }, atomics := st.flight.atomics.map drop }
      sched := { st.sched with fc := 0, burst := none, wait := none, paid := [], owes := 0, pend := st.sched.pend.filter fun p => p.order < r.first } }

/-- Whether a register is a live-in of a region (R160, R162). -/
def Region.holds (r : Region) : Reg → Bool
  | .s n => match r.s with | some (a, b) => a ≤ n && n ≤ b | none => false
  | .a n => match r.a with | some (a, b) => a ≤ n && n ≤ b | none => false
  | .v n => match r.v with | some (a, b) => a ≤ n && n ≤ b | none => false
  | .k n => r.k.contains n
  | .w _ => false

/-- The live-ins of a region, by class and number: varying, uniform, affine, mask. -/
def Region.liveIns (r : Region) : List Reg :=
  let range := fun (x : Option (Nat × Nat)) (f : Nat → Reg) => match x with | some (a, b) => (List.range (b + 1 - a)).map fun k => f (a + k) | none => []
  range r.v .v ++ range r.s .s ++ range r.a .a ++ r.k.map .k

/-- The class code and number of a register in TVAL (R162, R202). -/
def Reg.classCode : Reg → Nat | .v _ => 0 | .s _ => 1 | .w _ => 1 | .a _ => 2 | .k _ => 3

/-- The number of a register. -/
def Reg.num : Reg → Nat | .v n => n | .s n => n | .w n => 64 + n | .a n => n | .k n => n

/-! Terms (R205, R206). -/

/-- The later of two sets of terms. -/
def Terms.max (a b : Terms) : Terms := { device := Nat.max a.device b.device, comb := Nat.max a.comb b.comb, system := Nat.max a.system b.system }

/-- The term of a scope. -/
def Terms.of (t : Terms) : Scope → Nat | .device => t.device | .comb => t.comb | .system => t.system

/-- The same instant at every scope. -/
def Terms.all (t : Nat) : Terms := { device := t, comb := t, system := t }

/-- The terms of a completed access of a strand, for later fences. -/
def Strand.addTerms (st : Strand) (t : Terms) : Strand := { st with flight := { st.flight with terms := st.flight.terms.max t } }

/-- The terms of the access with number `id`, for later fences and for the pending tokens that cover it (R208). -/
def Strand.termOf (st : Strand) (id : Nat) (t : Terms) : Strand :=
  let st := st.addTerms t
  let toks := st.flight.tokens.map fun k => if k.ids.contains id then { k with term := Nat.max k.term (t.of k.scope) } else k
  { st with flight := { st.flight with tokens := toks } }

end Sys2Proof.Machine
end

