-- ==== Sys2Proof/Machine/Operands.lean ====
section
/-! DEFINITION. The operands of an instruction: which registers it reads and writes, the value of each operand form, and the checks that every instruction of a strand makes before its own (R54 steps 1 to 3, R72, R162, R202), with the course of one issue. -/

namespace Sys2Proof.Machine
open Sys2Proof

/-- What an instruction does with a field. -/
inductive Role | none | read | write | both
  deriving DecidableEq, Repr

end Sys2Proof.Machine

namespace Sys2Proof
open Sys2Proof.Machine

/-- What an instruction outside type form 31 does with its D field (R28 and the encoding tables). -/
def Op.dRole : Op → Role
  | .wbase | .sspset | .modeset | .part | .pref | .xadd | .xclr | .atomn => .none
  | .st | .sts | .mxst => .read
  | .bfi | .pack | .cas => .both
  | _ => .write

/-- What an instruction outside type form 31 does with its C field. -/
def Op.cRole : Op → Role
  | .addc => .both
  | .shuf | .perm | .bcast => .write
  | _ => .read

/-- Whether the literal of the 96-bit form replaces field `f` (R23). -/
def Enc.literal (o : Op) (e : Enc) (f : Fld) : Bool :=
  e.len == .three && (if e.tf = 31 then f == .b && !(o == .nop || o == .brd || o == .idem) else lsField e.ls.toNat == f)

end Sys2Proof

namespace Sys2Proof.Machine

/-- The registers that a field of class V, S, A or K names, `count` of them from the field's number. -/
def fieldRegs (c : Cls) (wb n count : Nat) : List Reg := (List.range count).map fun k => regOf c wb (n + k)

end Sys2Proof.Machine

namespace Sys2Proof
open Sys2Proof.Machine

/-- How many consecutive registers the D field stands for: the groups of R185, the pair of R186, the pairs of R230. -/
def Op.dCount (o : Op) (e : Enc) : Nat :=
  match o with
  | .ldg | .sts => 2 * 2 ^ e.sub.toNat
  | .mxld | .mxst => 2
  | .atom | .cas => if e.sub.toNat ≥ 16 then 2 else 1
  | _ => 1

/-- How many consecutive registers the B field stands for (R230). -/
def Op.bCount (o : Op) (e : Enc) : Nat :=
  match o with
  | .atom | .atomn | .cas => if e.sub.toNat ≥ 16 then 2 else 1
  | _ => 1

/-- The registers that a field reads or writes outside type form 31. -/
def Op.regsOf (o : Op) (e : Enc) (wb : Nat) (f : Fld) : List Reg :=
  let c := classOf e.tf.toNat f
  if !o.uses e f || e.literal o f || (f = .b && e.i) then []
  else match f with
    | .d => fieldRegs c wb e.d.toNat (o.dCount e)
    | .b => fieldRegs c wb e.b.toNat (o.bCount e)
    | .c => if o.usesBase then fieldRegs .s wb e.c.toNat 2 else [regOf c wb e.c.toNat]
    | .a => [regOf c wb e.a.toNat]

/-- The uniform operand in B of a type form 31 instruction, if it is a register. -/
def Enc.bReg (o : Op) (e : Enc) : List Reg :=
  if e.i || e.literal o .b then [] else [regOf .s 0 e.b.toNat]

/-- The registers that a type form 31 instruction reads; MRUN copies s0 to s15 (R280). -/
def Op.reads31 (o : Op) (e : Enc) (wb : Nat) : List Reg :=
  let d := e.d.toNat; let a := e.a.toNat; let c := e.c.toNat; let sub := e.sub.toNat
  let ua := [regOf .s wb a]
  let pairA := [Reg.s a, Reg.s (a + 1)]
  let pairC := [Reg.s c, Reg.s (c + 1)]
  let firstS := (List.range 16).map Reg.s
  match o with
  | .pushm => (List.range (a + 1 - d)).map fun k =>
      (match sub with | 0 => Reg.v (wb + d + k) | 1 => .s (d + k) | 2 => .a (d + k) | _ => .k (d + k))
  | .tload | .fwait | .mcas | .mmap | .munf => ua
  | .mrun => firstS
  | .mrunReg => ua ++ firstS
  | .mma | .mdist => [regOf .s wb c, regOf .s wb (c + 1)]
  | .mtopk => ua ++ e.bReg o ++ [regOf .s wb c]
  | .mepi => ua ++ e.bReg o ++ (if e.qbit 4 then [regOf .s wb c] else [])
  | .ftest => ua
  | .shuf | .bcast => Reg.v (wb + a) :: e.bReg o
  | .bru => [regOf .s wb d]
  | .jmpi | .calli => if sub = 0 then ua else [Reg.v (wb + a)]
  | .ret => [Reg.v (wb + a)]
  | .trap | .brk | .sysc | .halt | .lease | .notify | .mpair => e.bReg o
  | .gset => if sub = 0 then e.bReg o else []
  | .kick | .bbinit | .bbadd | .bbwait | .bbtest | .qsub | .mldz | .mdrain => ua ++ e.bReg o
  | .spawn | .ctxsv | .ctxld => pairA
  | .spawnn => pairA ++ e.bReg o ++ pairC
  | .join => if sub = 1 then pairA else []
  | .park => pairA ++ e.bReg o ++ [Reg.s c]
  | .fget | .fput => regOf .s wb d :: ua ++ e.bReg o ++ pairC
  | .fmsg => ua ++ e.bReg o ++ [regOf .s wb c]
  | .swr => if sub = 2 then [Reg.s e.b.toNat, Reg.s (e.b.toNat + 1)] else e.bReg o
  | .wait => Reg.s a :: Reg.s c :: e.bReg o
  | _ => []

/-- The registers that a type form 31 instruction writes. -/
def Op.writes31 (o : Op) (e : Enc) (wb : Nat) : List Reg :=
  let d := e.d.toNat; let a := e.a.toNat; let c := e.c.toNat; let sub := e.sub.toNat
  match o with
  | .popm => (List.range (a + 1 - d)).map fun k =>
      (match sub with | 0 => Reg.v (wb + d + k) | 1 => .s (d + k) | 2 => .a (d + k) | _ => .k (d + k))
  | .shuf | .bcast => [Reg.v (wb + d), Reg.k c]
  | .call | .calli => [Reg.v (wb + c)]
  | .fence | .ftest | .mcas | .bbtest | .qsub | .msync | .spawn | .spawnn | .join | .park | .cellrd | .fmsg | .fsync | .wait => [Reg.s d]
  | .lease | .notify => if sub = 1 then [Reg.s d] else []
  | .gtime => if sub = 0 then [Reg.s d, Reg.s (d + 1)] else [Reg.s d]
  | .srd => if sub = 2 then [Reg.s d, Reg.s (d + 1)] else [Reg.s d]
  | _ => []

/-- The varying register that SHUF, PERM or BCAST reads across lanes. -/
def Op.crossReg (o : Op) (e : Enc) (wb : Nat) : Option Reg :=
  match o with | .shuf | .perm | .bcast => some (Reg.v (wb + e.a.toNat)) | _ => none

/-- The registers that an instruction reads, the guard's mask among them. -/
def Op.reads (o : Op) (e : Enc) (wb : Nat) : List Reg :=
  (if e.tf = 31 then o.reads31 e wb
   else o.regsOf e wb .a ++ o.regsOf e wb .b ++
     (if o.cRole = .write then [] else o.regsOf e wb .c) ++
     (if o.dRole = .read ∨ o.dRole = .both then o.regsOf e wb .d else [])) ++
  (if e.g = 0 then [] else [Reg.k (e.g.toNat % 8)])

/-- The registers that an instruction writes. The carry out of ADDC goes to the register that C names, also where a literal stands for the carry in (R79, log entry 91). -/
def Op.writes (o : Op) (e : Enc) (wb : Nat) : List Reg :=
  if e.tf = 31 then o.writes31 e wb
  else (if o.dRole = .write ∨ o.dRole = .both then o.regsOf e wb .d else []) ++
    (if o = .addc then [regOf (classOf e.tf.toNat .c) wb e.c.toNat] else if o.cRole = .write ∨ o.cRole = .both then o.regsOf e wb .c else [])

/-- The varying registers that an instruction names without reading or writing them now: the range of IDEM (R161). -/
def Op.names (o : Op) (e : Enc) (wb : Nat) : List Reg :=
  if o = .idem ∧ e.qbit 0 then (List.range (e.a.toNat + 1 - e.d.toNat)).map fun k => Reg.v (wb + e.d.toNat + k) else []

/-- The instructions subject to R45 beside those with a uniform or affine destination: each description says so. -/
def Op.needsFull (o : Op) (e : Enc) : Bool :=
  match o with
  | .wbase | .sspset | .pushm | .popm | .idem | .part | .modeset | .tload | .tflip | .swr | .srd | .kick | .bbinit | .bbadd | .gset
  | .mrun | .mrunReg | .mzero | .mldz | .mdrain | .barc | .lease | .spawn | .spawnn | .join | .park | .notify | .done
  | .tret | .ctxsv | .ctxld | .fget | .fput => true
  | .atom | .atomn | .cas | .atomf | .xadd | .xread | .xclr => classOf e.tf.toNat .d == .s
  | _ => false

/-- Whether an instruction is subject to R45. -/
def Op.uniform (o : Op) (e : Enc) (wb : Nat) : Bool :=
  o.needsFull e || (o.writes e wb).any fun r => match r with | .s _ => true | .w _ => true | .a _ => true | _ => false

/-- The instructions that end an open region (R163). -/
def Op.endsRegion (o : Op) (e : Enc) : Bool :=
  match o with
  | .atom | .atomn | .cas | .atomf | .xadd | .xread | .xclr | .mcas | .scnd | .fence | .barc | .kick | .bbinit | .bbadd | .gset | .qsub
  | .mrun | .mrunReg | .mmap | .munf | .mma | .mdist | .mtopk | .mzero | .mldz | .mdrain | .mpair | .msplit | .mepi | .msync
  | .spawn | .spawnn | .join | .park | .notify | .done | .fget | .fput | .fmsg
  | .idem | .exit | .sysc | .tret | .ctxsv | .ctxld | .wait | .halt => true
  | .swr => !([6, 7, 8, 9, 12].contains e.a.toNat)
  | _ => false

/-- The instructions before which run-ahead ends (R201, R262, R263, R384), beside those whose condition or target is invalid. -/
def Op.stopsAhead (o : Op) (e : Enc) : Bool :=
  o.endsRegion e ||
  (match o with
   | .fwait | .ftest | .bbwait | .bbtest | .fsync => true
   | .ld | .st | .ldg | .sts => e.qb &&& 3 == 3
   | _ => false)

end Sys2Proof

namespace Sys2Proof.Machine

/-- The registers of a strand with a pending write (R72, R208, R234, R271). -/
def Strand.pendingRegs (st : Strand) : List Reg :=
  (st.flight.loads.filter fun l => !l.discard).flatMap (fun l => l.parts.map fun p => if l.scalar then regOf .s 0 p.reg else Reg.v p.reg) ++
  st.flight.atomics.flatMap (fun a => match a.dest with
    | none => []
    | some d => match a.kind with
      | .scnd => [Reg.k d]
      | .int _ true => if a.scalar then [Reg.s d, Reg.s (d + 1)] else [Reg.v d, Reg.v (d + 1)]
      | .mxld _ => [Reg.v d, Reg.v (d + 1)]
      | _ => if a.scalar then [Reg.s d] else [Reg.v d]) ++
  st.flight.tokens.map (fun t => Reg.s t.reg) ++
  st.flight.qsubs.map (fun q => Reg.s q.reg) ++
  st.flight.msgs.map Reg.s

/-- One issue of an instruction by a strand: the strand, its state before, the issue PC, the issuing group and the active mask (R148, R29). -/
structure Issue where
  w     : Sid
  o     : Op
  e     : Enc
  st    : Strand
  pc    : Pc
  group : Mask
  act   : Mask
  deriving DecidableEq, Repr

/-- The atomic instructions other than MCAS. -/
def isAtomic : Op → Bool
  | .atom | .atomn | .cas | .atomf | .xadd | .xread | .xclr => true
  | _ => false

/-- Whether a strand stands at the atomic of its residual mask, with a lane of it (R235). -/
def Strand.atResid (st : Strand) : Bool := st.act == st.sp.residAct && st.issuePc == st.sp.residAt && st.sp.resid &&& st.group != 0

/-- The issue of an instruction by the strand at the focus. An atomic with a residual mask issues for its lanes only, and for those that have come to it since (R235). -/
def State.issue (s : State) (o : Op) (e : Enc) : Issue :=
  let st := s.strand s.cur
  let g := st.group
  let act := g &&& st.guardMask e.g
  { w := s.cur, o := o, e := e, st := st, pc := st.issuePc, group := g,
    act := if isAtomic o && st.atResid then act &&& ~~~st.sp.residDone else act }

/-- The address of the next sequential instruction (R20). -/
def Issue.next (i : Issue) : Pc := i.pc + BitVec.ofNat 57 i.e.bytes

/-! Operand values. -/

end Sys2Proof.Machine

namespace Sys2Proof
open Sys2Proof.Machine

/-- The immediate of B, sign-extended (R25). -/
def Enc.immediate (e : Enc) : Word := e.b.signExtend 32

end Sys2Proof

namespace Sys2Proof.Machine

/-- The value of a field in a lane (Opnd of R75): an immediate, the literal, or the register of the field's class. -/
def Issue.opnd (i : Issue) (s : State) (f : Fld) (lane : Nat) : Word :=
  if f = .b ∧ i.e.i then i.e.immediate
  else if i.e.literal i.o f then i.e.w2
  else s.readReg i.w (regOf (classOf i.e.tf.toNat f) i.st.sp.wb (i.e.field f)) lane

/-- The uniform operand opB of an instruction of any type form (R25, R42). -/
def Issue.opB (i : Issue) (s : State) : Word :=
  if i.e.i then i.e.immediate
  else if i.e.literal i.o .b then i.e.w2
  else s.readS i.w i.e.b.toNat

/-- The uniform register that field A names (R27). -/
def Issue.uA (i : Issue) (s : State) : Word := s.readS i.w i.e.a.toNat

/-- The uniform register that field C names. -/
def Issue.uC (i : Issue) (s : State) : Word := s.readS i.w i.e.c.toNat

/-- The uniform register that field D names. -/
def Issue.uD (i : Issue) (s : State) : Word := s.readS i.w i.e.d.toNat

/-- The base pair of .g and .f (R175); a literal that replaces it is sign-extended (R230, log entry 16). -/
def Issue.base (i : Issue) (s : State) : Dbl :=
  if i.e.literal i.o .c then i.e.w2.signExtend 64 else s.readPair i.w i.e.c.toNat

/-- The class of the D field. -/
def Issue.dClass (i : Issue) : Cls := classOf i.e.tf.toNat .d

/-- The result of an instruction written to D (R44, R75): each active lane of a varying or mask destination; one value for a uniform one; the pair (lane 0, step to lane 1) for an affine one, whose lanes lie on one line (R46). `f` gives the value in a lane. -/
def State.writeD (s : State) (i : Issue) (f : Nat → Word) : State :=
  let n := i.e.d.toNat
  match i.dClass with
  | .v => s.onStrand i.w fun st => st.putV (i.st.sp.wb + n) i.act f
  | .k => s.onStrand i.w fun st => st.putK n i.act (Mask.of fun l => (f l).getLsbD 0)
  | .s => s.writeS i.w n (f 0)
  | .a => s.onStrand i.w fun st => st.putA n (f 0, f 1 - f 0)
  | .n => s

/-! Lanes that an instruction reads across (R131, R132, R135). -/

/-- The tile size n of a PART value (R131). -/
def tileSize (part : Word) : Nat := match part.toNat % 8 with | 1 => 2 | 2 => 4 | 3 => 8 | 4 => 16 | _ => 32

/-- The lane that SHUF, PERM or BCAST reads for `lane` (R140 to R142). -/
def Issue.sourceLane (i : Issue) (s : State) (lane : Nat) : Nat :=
  let n := tileSize i.st.sp.part
  let p := lane % n
  let t := lane - p
  match i.o with
  | .shuf =>
    let b := (i.opB s).toNat
    if i.e.sub = 0 then t + (p + b) % n else if i.e.sub = 1 then t + (p + (n - b % n)) % n else t + (p ^^^ b) % n
  | .perm => t + (i.opnd s .b lane).toNat % n
  | _ => if i.dClass = .s then (i.opB s).toNat % 32 else t + (i.opB s).toNat % n

/-- The lanes of A that the instruction reads: the active lanes, or, for SHUF, PERM and BCAST, the live source lanes of the active lanes (R135). -/
def Issue.lanesRead (i : Issue) (s : State) : Mask :=
  match i.o with
  | .shuf | .perm | .bcast => Mask.of fun j => i.st.live.getLsbD j && (Mask.lanes i.act).any fun l => i.sourceLane s l == j
  | _ => i.act

/-- WINDOW_RANGE (R48): the lowest physical number at or above n that the instruction names. -/
def Issue.windowTrap (i : Issue) : Option Trap :=
  let bad := (i.o.reads i.e i.st.sp.wb ++ i.o.writes i.e i.st.sp.wb ++ i.o.names i.e i.st.sp.wb).filterMap fun r =>
    match r with | .v n => if i.st.sp.n ≤ n then some n else none | _ => none
  match bad with
  | [] => none
  | n :: t => some (Trap.of .windowRange (t.foldl min n))

/-- UNIFORM_PARTIAL (R45). -/
def Issue.partialTrap (i : Issue) : Option Trap :=
  if i.act ≠ 0 ∧ i.act ≠ i.st.live ∧ i.o.uniform i.e i.st.sp.wb then
    some { cause := .uniformPartial, tval := pair64 i.st.live i.act }
  else none

/-- IDEM_CLOBBER for a register written inside an open region (R162); CTXLD writes every register. Of several live-ins TVAL names the first, in the order of Op.writes or of Region.liveIns (log entry 92). -/
def Issue.clobberTrap (i : Issue) : Option Trap :=
  match i.st.region with
  | none => none
  | some r =>
    if i.act = 0 then none
    else match (if i.o = .ctxld then r.liveIns else i.o.writes i.e i.st.sp.wb).find? r.holds with
      | some x => some (Trap.of .idemClobber (x.classCode * 256 + x.num))
      | none => none

/-- The lanes in which an instruction reads a position of a register that a set of marked lanes holds (R202): those of A that it reads, the issuing lanes of its guard, whether or not a lane is active then (log entry 112), and the active lanes of any other register. -/
def Issue.markedLanes (i : Issue) (s : State) (m : Mask) (r : Reg) : Mask :=
  let inA := i.o.crossReg i.e i.st.sp.wb == some r
  let guards := i.e.g != 0 && r == .k (i.e.g.toNat % 8)
  m &&& (if guards then i.group
    else if inA then (if i.o == .perm && (i.o.regsOf i.e i.st.sp.wb .b).contains r then i.lanesRead s ||| i.act else i.lanesRead s)
    else i.act)

/-- The poison marks of a register as the instruction reads it: those of the strand, or of the comb word (R202). -/
def Issue.poisonOf (i : Issue) (s : State) (r : Reg) : Mask :=
  match r with
  | .w n => if (s.comb i.w.core i.w.slot).wordMark i.w.strand s.clock.cycle n then BitVec.allOnes 32 else 0
  | _ => i.st.marks.of r

/-- MEM_POISON for a source register that holds a mark (R202). PUSHM and CTXSV move marks and consume none; PREF raises no fault (R187, log entry 94). -/
def Issue.poisonTrap (i : Issue) (s : State) : Option Trap :=
  if i.o = .pushm ∨ i.o = .ctxsv ∨ i.o = .pref then none
  else match (i.o.reads i.e i.st.sp.wb).find? fun r => i.markedLanes s (i.poisonOf s r) r ≠ 0 with
    | none => none
    | some r => some { cause := .memPoison,
                       tval := BitVec.ofNat 64 ((i.markedLanes s (i.poisonOf s r) r).toNat + r.num % 256 * 2 ^ 32 + r.classCode * 2 ^ 40) }

/-- The first of the faults that come before an instruction's own checks (R32, R54, R162, R202). In run-ahead a poisoned position counts as invalid instead (R202). -/
def Issue.firstTrap (i : Issue) (s : State) : Option Trap :=
  if i.o.privileged i.e ∧ ¬ i.st.trap.priv then some (Trap.of .priv (i.o.word0 i.e).toNat)
  else match i.windowTrap with
    | some t => some t
    | none => match i.partialTrap with
      | some t => some t
      | none => match i.clobberTrap with
        | some t => some t
        | none => if i.st.ahead.isSome then none else i.poisonTrap s

/-- The lanes whose sources hold an invalid or poisoned position in run-ahead (R201, R202). -/
def Issue.taint (i : Issue) (s : State) : Mask :=
  match i.st.ahead with
  | none => 0
  | some a => (i.o.reads i.e i.st.sp.wb).foldl (fun m r => m ||| i.markedLanes s (a.inv.of r ||| i.poisonOf s r) r) 0

/-- Whether the instruction must wait for a pending write of a register it reads or writes (R72). FWAIT and FTEST do not wait on their token register (R209, R210). -/
def Issue.blocked (i : Issue) (s : State) : Bool :=
  let p := i.st.pendingRegs ++ (s.comb i.w.core i.w.slot).pendingWords s.clock.cycle
  let rs := if i.o = .fwait ∨ i.o = .ftest then (i.o.writes i.e i.st.sp.wb).filter (· != Reg.s i.e.a.toNat) else i.o.reads i.e i.st.sp.wb ++ i.o.writes i.e i.st.sp.wb
  rs.any fun r => p.contains r

/-- The reservation condition of a burst (R159): no lane of the issuing group holds a reservation that LRES obtained within the last 256 cycles. -/
def Strand.burstFree (st : Strand) (cycle : Nat) : Bool :=
  st.flight.resv.all fun x => match x.2 with
    | some r => !(slotOf x.1 == 32 || st.group.getLsbD (slotOf x.1)) || r.cycle + 256 < cycle
    | none => true

/-- Whether a burst must begin before the strand's next issue (R159). -/
def Strand.burstDue (st : Strand) (cycle : Nat) : Bool :=
  let limit := (st.sp.fair.setWidth 16).toNat
  st.live != 0 && st.sched.burst.isNone && limit != 0 && st.sched.fc == limit && !st.converged && st.burstFree cycle

/-- Whether a burst must end before the strand's next issue (R159): 256 issue cycles have passed, or every live lane outside the held set stands at a PC no higher than h or has exited. -/
def Strand.burstOver (st : Strand) : Bool :=
  match st.sched.burst with
  | none => false
  | some b => b.left == 0 || (Mask.lanes (st.live &&& ~~~b.held)).all fun l => decide (st.pc l ≤ b.pc)

/-- Whether an asynchronous fault is delivered before the strand's next issue (R415): while ACT = 1 only a CONF_LOST acts. -/
def Strand.asyncDue (st : Strand) : Bool :=
  if st.act then st.sched.async.any fun f => f.cause == 0x28 else !st.sched.async.isEmpty

/-- Whether a strand may issue: it has a live lane and waits for nothing. -/
def Strand.runnable (st : Strand) : Bool :=
  st.live != 0 && st.sched.wait.isNone && st.sched.pend.isNone && !st.sched.parked && !st.sched.fparked && !st.sched.stopped && !st.sched.retired &&
  (match st.ahead with | some a => !a.ended | none => true)

/-- Whether a strand may issue now: no event of R159, R170, R200, R201, R341, R415 or R419 comes first. -/
def State.mayIssue (s : State) (w : Sid) : Bool :=
  let st := s.strand w
  let k := s.comb w.core w.slot
  st.runnable && !st.asyncDue && !st.burstDue s.clock.cycle && !st.burstOver && decide (st.sched.pause ≤ s.clock.cycle) &&
  k.batches.isEmpty && k.phase == .running

/-- FC and the burst after an issue in a cycle (R158, R159): `before` is the strand as it issued. A cycle with two issues counts once. The tokens of the instruction are spent (R368). -/
def Strand.account (st before : Strand) (cycle : Nat) : Strand :=
  let limit := (before.sp.fair.setWidth 16).toNat
  let sc := st.sched
  let n := if sc.counted = cycle + 1 then 0 else 1
  let fc := if before.sched.burst.isNone ∧ ¬ before.converged then min (sc.fc + n) limit else sc.fc
  let burst := match before.sched.burst, sc.burst with
    | some b, some _ => some { b with left := b.left - n }
    | _, x => x
  { st with sched := { sc with fc := if st.converged then 0 else fc, counted := cycle + 1, burst := burst, paid := [], owes := 0 } }

/-- The lanes of a destination that an instruction's invalid sources make invalid (R201): an instruction that reads across lanes passes an invalid position to every lane that it writes, and an invalid guard bit its own lane. -/
def Issue.taintDest (i : Issue) (s : State) : Mask :=
  let t := i.taint s
  match i.o with
  | .shuf | .perm | .bcast | .redu | .scan | .matchLanes | .vote => if t = 0 then 0 else i.act ||| t
  | _ => t

/-- The invalid marks of run-ahead after an instruction: its destinations are invalid where its sources were, and valid where it wrote them and its sources were not (R201). -/
def Strand.markAhead (st : Strand) (s : State) (i : Issue) : Strand :=
  match st.ahead with
  | none => st
  | some a =>
    if i.st.ahead.isNone then st
    else
      let inv := (i.o.writes i.e i.st.sp.wb).foldl (fun m r => (if i.act = 0 then m else m.clear r i.act).mark r (i.taintDest s)) a.inv
      let n := a.issued + 1
      { st with ahead := some { a with inv := inv, issued := n, ended := a.ended || n ≥ 64 } }

/-- The issuing lanes moved as `f` says, and the issue accounted for (R149, R158, R159, R201). -/
def State.moveTo (s : State) (i : Issue) (f : Nat → Pc) : State :=
  s.onStrand i.w fun st => (((st.move i.group f).account i.st s.clock.cycle).markAhead s i)

/-- The issuing lanes moved past the instruction (R149). -/
def State.advance (s : State) (i : Issue) : State := s.moveTo i fun _ => i.next

/-- The instruction at which a strand waited has taken effect: its lanes move past it. -/
def Strand.passWait (st : Strand) (cycle : Nat) : Strand :=
  let pc := st.issuePc + BitVec.ofNat 57 st.sched.waitLen
  (({ st with sched := { st.sched with wait := none } }).move st.group fun _ => pc).account st cycle

/-- Whether a strand waits in an MCAS, which nothing interrupts (R247). -/
def Strand.inMcas (st : Strand) : Bool := match st.sched.wait with | some (.mcas _) => true | _ => false

/-- Whether trap entry need not wait: no token, no atomic, no QSUB or FMSG result is pending and no MCAS goes on (R211, R234, R247, R271, R389, R414). The token of a BARC is none. -/
def Strand.entryFree (st : Strand) : Bool :=
  st.flight.tokens.all (fun t => t.reg ≥ 64) && st.flight.atomics.isEmpty && st.flight.qsubs.isEmpty && st.flight.msgs.isEmpty && !st.inMcas

/-- Whether a strand waits in an instruction that must not be cut (R341 step 2). -/
def Strand.inAct (st : Strand) : Bool :=
  match st.sched.wait with
  | some (.room _ _ _) | some (.mcas _) | some (.fabric _) | some (.atomic _) | some (.gpref _ _ _) => true
  | _ => false

/-- Whether a strand goes on in the instruction at which it stands, whatever fault of an earlier one is found: it must not be cut, or its direct command has started (R301). -/
def State.standsOn (s : State) (w : Sid) : Bool := (s.strand w).inAct || s.directRuns w

/-- The handler entered with the fault that a strand holds, once entry may take place (R211, R234, R301, R414). -/
def State.enterPending (s : State) (w : Sid) : State :=
  let st := s.strand w
  match st.sched.pend with
  | some p =>
    if st.entryFree && !s.standsOn w then (s.onStrand w fun st => { st with sched := { st.sched with pend := none, wait := none } }).takeTrap w p.cause p.tval p.tpc p.group false else s
  | none => s

/-- What a strand waits for given up, with its place in the queues of its core. -/
def State.dropWait (s : State) (w : Sid) : State :=
  (s.onStrand w fun st => { st with sched := { st.sched with wait := none } }).onCore w.core fun k => k.leaveQueues fun a j => a == w.slot && j == w.strand

/-- A fault of an instruction that has issued: the strand issues nothing more and enters its handler as soon as entry may take place. It gives up what it waits for, but for an instruction that goes on. Of several such faults the earliest instruction's is taken (log entry 96). -/
def State.holdTrap (s : State) (w : Sid) (p : PendTrap) : State :=
  ((if s.standsOn w then s else s.dropWait w).onStrand w fun st => { st with sched := { st.sched with
    pend := match st.sched.pend with | some q => if q.order ≤ p.order then some q else some p | none => some p } }).enterPending w

/-- A fault of the instruction at which a strand waits. -/
def State.trapWait (s : State) (w : Sid) (cause : Nat) (tval : Dbl) : State :=
  let st := s.strand w
  (s.dropWait w).holdTrap w { order := st.flight.nextId, cause := cause, tval := tval, tpc := st.issuePc, group := st.group }

/-- A fault of the instruction (R6, R414): in run-ahead it is not raised and run-ahead ends (R201); otherwise entry waits for the strand's pending tokens and atomics (R211, R234, R414), and nothing happens before. -/
def State.raise (s : State) (i : Issue) (t : Trap) : State :=
  match (s.strand i.w).ahead with
  | some _ => s.onStrand i.w fun st => { st with ahead := st.ahead.map fun a => { a with ended := true } }
  | none =>
    if (s.strand i.w).entryFree then s.takeTrap i.w t.cause.code t.tval i.pc i.group false else s

/-- Run-ahead that must end before the instruction (R201). -/
def Issue.aheadStops (i : Issue) (s : State) : Bool :=
  i.st.ahead.isSome &&
  (i.o.stopsAhead i.e ||
   (match i.o with
    | .br | .brd | .bru | .jmp | .jmpi | .call | .calli | .ret => i.taint s &&& i.group != 0
    | _ => false))

/-- One instruction of the strand at the focus: nothing happens where the strand may not issue or a register it needs has a pending write; otherwise the first of the common faults, or the instruction's own course `body`. -/
def runStrand (o : Op) (e : Enc) (s : State) (body : Issue → State → State) : State :=
  let i := s.issue o e
  if !s.mayIssue i.w || i.blocked s then s
  else if i.aheadStops s then s.onStrand i.w fun st => { st with ahead := st.ahead.map fun a => { a with ended := true } }
  else match i.firstTrap s with
    | some t => s.raise i t
    | none => body i s

/-- An instruction that takes effect at once: with an empty active mask it only falls through (R29); otherwise it raises the fault that `check` finds, or its effect is applied, its region closed where it ends one, and the lanes move on. -/
def effect (check : Issue → State → Option Trap) (f : Issue → State → State) (i : Issue) (s : State) : State :=
  if i.act = 0 then s.advance i
  else match check i s with
    | some t => s.raise i t
    | none =>
      let s := if i.o.endsRegion i.e then s.onStrand i.w Strand.closeRegion else s
      (f i s).advance i

/-- No check of its own. -/
def noCheck (_ : Issue) (_ : State) : Option Trap := none

/-! The same instructions in a matrix sequencer (R173, R277). -/

/-- The value of uniform field `n` in a stream: its own register or a comb word, read as strand index 32 (R52, R277). -/
def State.seqS (s : State) (c : Nat) (x : Stream) (n : Nat) : Word :=
  if n < 64 then Tab.get 0 x.s n
  else (s.comb c x.slot).readWord seqIndex s.clock.cycle (n - 64)

/-- MEM_POISON for a comb word that a stream instruction reads with a mark (R202, R422, log entry 93). -/
def State.seqPoison (s : State) (c : Nat) (x : Stream) (o : Op) (e : Enc) : Option Trap :=
  (o.reads e 0).findSome? fun r => match r with
    | .w n => if (s.comb c x.slot).wordMark seqIndex s.clock.cycle n then some (Trap.of .memPoison (r.num % 256 * 2 ^ 32 + r.classCode * 2 ^ 40)) else none
    | _ => none

/-- The value of a uniform field of a stream instruction. -/
def State.seqOpnd (s : State) (c : Nat) (x : Stream) (o : Op) (e : Enc) (f : Fld) : Word :=
  if f = .b ∧ e.i then e.immediate
  else if e.literal o f then e.w2
  else s.seqS c x (e.field f)

/-- A uniform field of a stream written: its own register, or a comb word as strand index 32 (R52, R277). -/
def State.seqPut (s : State) (c : Nat) (x : Stream) (n : Nat) (v : Word) : State :=
  if n < 64 then s.onStream c fun x => { x with s := Tab.put 0 x.s n v }
  else s.onComb c x.slot fun k => k.writeWord seqIndex s.clock.cycle (n - 64) v

/-- The stream moved past the instruction. -/
def State.seqAdvance (s : State) (c : Nat) (e : Enc) : State :=
  s.onStream c fun x => { x with pc := x.pc + BitVec.ofNat 57 e.bytes }

/-- The next comb-order event of a stream must come after its earlier commands (R284): whether its queue is empty. -/
def Stream.drained (x : Stream) : Bool := x.queue.isEmpty && x.running.isNone

end Sys2Proof.Machine
end

