-- ==== Sys2Proof/Machine/Translate.lean ====
section
/-! DEFINITION. Physical addresses (R179), the state of extents (R343 to R345), tenant descriptors (R427) and the translation of virtual addresses (R178, R428, R429, R482). -/

namespace Sys2Proof.Machine
open Sys2Proof

/-- Kinds of access to global memory. `clear` is that of XREAD with .clr, which needs read permission only and writes (R231). -/
inductive Access | read | write | atomic | fetch | clear
  deriving DecidableEq, Repr

/-- ACC (R352). -/
def Access.code : Access → Nat | .read => 0 | .write => 1 | .atomic | .clear => 2 | .fetch => 3

/-- Whether an access may write (R343, R344). -/
def Access.stores : Access → Bool | .write | .atomic | .clear => true | .read | .fetch => false

/-- Device memory: region 0000 with PA[47:46] = 00 (R179). -/
def isDevice (pa : Nat) : Bool := pa < 2 ^ 46

/-- Host memory: region 0001 (R179). -/
def isHost (pa : Nat) : Bool := 2 ^ 48 ≤ pa && pa < 2 ^ 49

/-- The 64 KiB cache page of a PA (R352). -/
def cachePage (pa : Nat) : Nat := pa / 65536 * 65536

/-- The 64-byte line of an address (R2). -/
def lineOf (a : Nat) : Nat := a / 64 * 64

/-- The home die of a PA (R179). -/
def homeDie (pa : Nat) : Nat :=
  let p := bits pa 47 16
  if isHost pa then 0 else b2n (xor (xor (bit p 0) (bit p 8)) (xor (bit p 16) (bit p 24)))

/-- The home slice of a PA within its die (R179). -/
def homeSlice (pa : Nat) : Nat :=
  let p := bits pa 47 16
  ((bits p 6 1 ^^^ bits p 14 9) ^^^ bits p 22 17) ^^^ bits p 30 25

/-- A line locked by an MCAS (R248). -/
def State.locked (s : State) (line : Nat) : Bool := s.memory.locks.any fun l => l.line == line

/-! Extents. -/

/-- Whether an extent covers a device PA (R343). -/
def Lease.covers (l : Sys2Proof.Lease) (pa : Nat) : Bool :=
  l.state != .free && l.base ≤ pa / 2097152 && pa / 2097152 < l.base + l.size

/-- The non-free extent that covers a device PA, with its index, if any (R343). -/
def State.extent? (s : State) (pa : Nat) : Option (Nat × Sys2Proof.Lease) :=
  s.tiers.leases.findSome? fun x => match x.2 with
    | some l => if Lease.covers l pa then some (x.1, l) else none
    | none => none

/-- The fault code of an access to a PA by the state of its extent, or none where it is served (R343, R344, R345). A shared extent takes no write. -/
def State.serve (s : State) (pa : Nat) (store : Bool) : Option Nat :=
  if !isDevice pa then none
  else match s.extent? pa with
    | none => some 0x09
    | some (_, l) =>
      match l.state with
      | .free => some 0x09
      | .active => if l.expiry ≤ s.clock.gt then some 0x0B else if store && l.kind == .shared then some 0x09 else none
      | .revoking => if l.expiry ≤ s.clock.gt then some 0x0C else if store && l.kind == .shared then some 0x09 else none
      | .expired => some 0x0B
      | .revoked => some 0x0C
      | .failed => some 0x0D

/-- Whether the J40's own accesses to a device PA are served now (R482). -/
def State.served (s : State) (pa : Nat) : Bool := (s.serve pa false).isNone

/-! Tenant descriptors (R427). -/

/-- The PA of a tenant's descriptor (R427). -/
def State.descAddr (s : State) (t : BitVec 16) : Nat := s.mgmt.tdbase + 64 * t.toNat

/-- The descriptor of a tenant as memory holds it, as its eight doubles (R427). -/
def State.memDescriptor (s : State) (t : BitVec 16) : List Nat :=
  (List.range 8).map fun i => Mem.read s.memory.mem (s.descAddr t + 8 * i) 8

/-- The descriptor of a tenant: a copy cached, where it differs and is still used (R429), or memory's; none while its extent is not served (R482) or an MCAS holds its line (R248). -/
def State.descriptor (s : State) (t : BitVec 16) : Option (List Nat) :=
  let now := s.memDescriptor t
  match Tab.get none s.tlb.descs t.toNat, s.served (s.descAddr t) && !s.locked (lineOf (s.descAddr t)) with
  | some d, true => if d = now then some d else some (if Config.keepsDescriptor (s.clock.turn * 65536 + t.toNat) then d else now)
  | some d, false => if Config.keepsDescriptor (s.clock.turn * 65536 + t.toNat) then some d else none
  | none, true => some now
  | none, false => none

/-- V of a descriptor. -/
def descValid (d : List Nat) : Bool := bit (d.getD 0 0) 63
/-- ROOT of a descriptor: the PA of the level-4 table. -/
def descRoot (d : List Nat) : Nat := bits (d.getD 0 0) 51 12 * 4096
/-- TVEC of a descriptor; bits 63 to 57 and 5 to 0 of a TVEC are always 0 (R411, log entry 111). -/
def descTvec (d : List Nat) : Dbl := BitVec.ofNat 64 (64 * bits (d.getD 1 0) 56 6)
/-- HQUOTA of a descriptor. -/
def descHquota (d : List Nat) : Nat := bits (d.getD 2 0) 31 0
/-- PQUOTA of a descriptor. -/
def descPquota (d : List Nat) : Nat := bits (d.getD 2 0) 63 32
/-- CTX of a descriptor. -/
def descCtx (d : List Nat) : Nat := bits (d.getD 3 0) 13 8
/-- DBG of a descriptor. -/
def descDbg (d : List Nat) : Bool := bit (d.getD 3 0) 1
/-- CONF of a descriptor. -/
def descConf (d : List Nat) : Bool := bit (d.getD 3 0) 0

/-! The table walk (R428). -/

/-- Why a translation fails: a fault for the trap handler, a recoverable fault with the PA page where one is valid (R352), or a descriptor whose extent is not served (R482). -/
inductive XlatFault
  | protect
  | queued (cause : Nat) (pa : Option Nat)
  | waits
  deriving DecidableEq, Repr

/-- A translation entry has a reserved bit set (R428). -/
def pteReserved (e : Nat) : Bool := bits e 63 52 != 0 || bits e 11 7 != 0 || bit e 1

/-- A translation entry points to a next table: R, W and X all 0 (R428). -/
def ptePointer (e : Nat) : Bool := bits e 4 2 == 0

/-- The translation that a leaf entry makes of `va` with a page of `size` bytes. -/
def pteLeaf (t : BitVec 16) (va size e : Nat) : TlbEntry :=
  { tenant := t, va := va / size * size, size := size, pa := bits e 51 12 * 4096, r := bit e 2, w := bit e 3, x := bit e 4, e := bit e 5 }

/-- The walk from the table at `table`, `n` levels left: the entry is at level n - 1 (R428). It waits where an MCAS holds the line of an entry that it reads (R248). -/
def State.walk (s : State) (t : BitVec 16) (va : Nat) : Nat → Nat → Except XlatFault TlbEntry
  | 0, _ => .error .protect
  | n + 1, table =>
    if !isDevice table then .error .protect
    else match s.serve table false with
    | some c => .error (.queued c (some (cachePage table)))
    | none =>
      let idx := bits va (20 + 9 * n) (12 + 9 * n)
      let e := Mem.read s.memory.mem (table + 8 * idx) 8
      if s.locked (lineOf (table + 8 * idx)) then .error .waits
      else if !bit e 0 then .error (.queued 0x09 none)
      else if pteReserved e then .error .protect
      else if ptePointer e then
        if bit e 6 || bit e 5 || n == 0 then .error .protect else s.walk t va n (bits e 51 12 * 4096)
      else if n ≥ 2 || (bit e 3 && !bit e 2) || (n == 1 && bit e 6) then .error .protect
      else if n == 1 then
        if bits e 20 12 != 0 then .error .protect else .ok (pteLeaf t va 2097152 e)
      else if bit e 6 then
        let f := Mem.read s.memory.mem (table + 8 * (idx / 16 * 16)) 8
        if s.locked (lineOf (table + 8 * (idx / 16 * 16))) then .error .waits
        else if !bit f 0 then .error (.queued 0x09 none)
        else if ptePointer f || !bit f 6 || bits f 15 12 != 0 || pteReserved f || (bit f 3 && !bit f 2) then .error .protect
        else .ok (pteLeaf t va 65536 f)
      else .ok (pteLeaf t va 4096 e)

/-- The lines that such a walk reads. -/
def State.walkLines (s : State) (va : Nat) : Nat → Nat → List Nat
  | 0, _ => []
  | n + 1, table =>
    if !isDevice table || (s.serve table false).isSome then []
    else
      let idx := bits va (20 + 9 * n) (12 + 9 * n)
      let e := Mem.read s.memory.mem (table + 8 * idx) 8
      lineOf (table + 8 * idx) ::
        (if !bit e 0 || pteReserved e then []
        else if ptePointer e then (if bit e 6 || bit e 5 || n == 0 then [] else s.walkLines va n (bits e 51 12 * 4096))
        else if n == 0 && bit e 6 then [lineOf (table + 8 * (idx / 16 * 16))] else [])

/-- The holder number of the TLB that a holder's misses go to: that of its die (R190). -/
def dieTlb (u : Nat) : Nat := if u < 144 then 144 + u / 72 else u

/-- The TLB that the steps of an agent of a die use, outside any core. -/
def agentTlb (die : Nat) : Nat := 144 + die

/-- The entry for a virtual address that a TLB holds. -/
def State.heldEntry (s : State) (u : Nat) (t : BitVec 16) (va : Nat) : Option TlbEntry :=
  (s.tlb.entries.find? fun x => x.holder == u && x.entry.tenant == t && x.entry.va ≤ va && va < x.entry.va + x.entry.size).map fun x => x.entry

/-- The translation that a holder uses: its own entry for the page where it holds one and still uses it, else what it is given. One choice holds for all the accesses of a step to the page (R190, log entry 6). -/
def State.orHeld (s : State) (u : Nat) (t : BitVec 16) (va : Nat) (other : Except XlatFault TlbEntry) : Except XlatFault TlbEntry :=
  match s.heldEntry u t va with
  | none => other
  | some e =>
    let keep := Config.keeps (s.clock.turn * 2 ^ 57 + e.va + u / 144)
    match other with
    | .ok x => if x = e then .ok e else .ok (if keep then e else x)
    | .error x => if keep then .ok e else .error x

/-- The translation entry of a virtual address for the core or die `u`: one that its TLB or its die's TLB holds and still uses (R190, R429), or the walk's. -/
def State.leaf (s : State) (u : Nat) (t : BitVec 16) (va : Nat) : Except XlatFault TlbEntry :=
  let walked := match s.descriptor t with
    | none => .error .waits
    | some d => s.walk t va 5 (descRoot d)
  s.orHeld u t va (if u < 144 then s.orHeld (dieTlb u) t va walked else walked)

/-- Whether a page permits an access (R178, R231, R428). -/
def TlbEntry.permits (e : TlbEntry) : Access → Bool
  | .read | .clear => e.r
  | .write => e.w
  | .atomic => e.r && e.w
  | .fetch => e.x

/-- The PA of a virtual address for an access of a tenant at a privilege, from the core or die `u`, or why there is none (R178, R344, R345, R407). -/
def State.translate (s : State) (u : Nat) (t : BitVec 16) (priv : Bool) (acc : Access) (va : Nat) : Except XlatFault Nat :=
  if va ≥ 2 ^ 57 then .error .protect
  else match s.leaf u t va with
  | .error x => .error x
  | .ok e =>
    let pa := e.pa + (va - e.va)
    if (e.e && !priv) || !e.permits acc || !(isDevice pa || isHost pa) then .error .protect
    else match s.serve pa acc.stores with
      | some c => .error (.queued c (some (cachePage pa)))
      | none => .ok pa

/-- ACC of the queue entry of a fault (R352): an atomic that meets a shared extent enters as a write (R344, R365). -/
def State.accCode (s : State) (acc : Access) (cause : Nat) (pa : Option Nat) : Nat :=
  match pa with
  | some p => if cause = 0x09 && acc.stores && (s.extent? p).isSome then Access.write.code else acc.code
  | none => acc.code

/-- An entry put into a TLB of `cap` entries; where it is full, another gives way (R190, log entry 95). -/
def keepEntry (l : List TlbSlot) (cap turn : Nat) (x : TlbSlot) : List TlbSlot :=
  if l.contains x then l
  else
    let mine := l.filter fun y => y.holder == x.holder
    x :: (if mine.length < cap then l else match mine[Config.displaced turn % mine.length]? with
      | some y => l.erase y
      | none => l)

end Sys2Proof.Machine
end

