-- ==== Sys2Proof/Machine/Home.lean ====
section
/-! DEFINITION. The caches and the homes: L1 and RDC copies under leases (R191, R192), ownership by an RDC (R193), the directory (R194), completion times (R195), the HBM page cache (R347, R348, R350), host lines (R197), poison (R202), and local memory. -/

namespace Sys2Proof.Machine
open Sys2Proof

/-! Copies of sectors. -/

/-- The 32-byte sector number of a PA. -/
def sectorOf (pa : Nat) : Nat := pa / 32

/-- The line number of a PA. -/
def lineNo (pa : Nat) : Nat := pa / 64

/-- The 256 bits of a sector as memory holds them. -/
def Mem.sector (m : Mem) (sec : Nat) : BitVec 256 := BitVec.ofNat 256 (Mem.read m (32 * sec) 32)

/-- The 512 bits of a line as memory holds them. -/
def Mem.line (m : Mem) (line : Nat) : LineBits := BitVec.ofNat 512 (Mem.read m line 64)

/-- One bit of a byte mask widened to its byte. -/
def expandMask (m : Nat) : Nat → Nat
  | 0 => 0
  | n + 1 => (if m % 2 = 1 then 255 else 0) + 256 * expandMask (m / 2) n

/-- `new` where the byte mask is set, `old` elsewhere. -/
def mergeBytes {w : Nat} (old new : BitVec w) (mask n : Nat) : BitVec w :=
  let m := BitVec.ofNat w (expandMask mask n)
  (old &&& ~~~m) ||| (new &&& m)

/-- A copy that is held and whose lease has not expired (R191). -/
def liveCopy (t : Tab (Option Copy)) (sec gt : Nat) : Option Copy :=
  match Tab.get none t sec with
  | some c => if gt < c.expiry then some c else none
  | none => none

/-- The copies of a line's two sectors after a store to the line was forwarded to them (R194): live copies take its bytes, and a store of the whole line clears their poison (R202). -/
def updateCopies (t : Tab (Option Copy)) (line gt : Nat) (mask : Dbl) (data : LineBits) : Tab (Option Copy) :=
  let one := fun (t : Tab (Option Copy)) (h : Nat) =>
    match liveCopy t (line / 32 + h) gt with
    | some c => Tab.put none t (line / 32 + h)
        (some { c with data := mergeBytes c.data (data.extractLsb' (256 * h) 256) (mask.extractLsb' (32 * h) 32).toNat 32,
                       poison := c.poison && mask != BitVec.allOnes 64 })
    | none => t
  one (one t 0) 1

/-- The copies of a line's two sectors after a write of poisoned data to the line was forwarded to them (R194, R202): live copies are poisoned. -/
def poisonCopies (t : Tab (Option Copy)) (line gt : Nat) : Tab (Option Copy) :=
  let one := fun (t : Tab (Option Copy)) (h : Nat) =>
    match liveCopy t (line / 32 + h) gt with
    | some c => Tab.put none t (line / 32 + h) (some { c with poison := true })
    | none => t
  one (one t 0) 1

/-- The copies with both sectors of a line dropped. -/
def dropLine (t : Tab (Option Copy)) (line : Nat) : Tab (Option Copy) := Tab.del (Tab.del t (line / 32)) (line / 32 + 1)

/-- The lines of which a cache holds a sector. -/
def cacheLines (t : Tab (Option Copy)) : List Nat := (t.map fun x => x.1 / 2 * 64).dedup

/-- The one of `l` that gives way at a turn (log entry 95). -/
def displaced (l : List Nat) (turn : Nat) : Option Nat := l[Config.displaced turn % l.length]?

/-- A copy of a sector filled into a cache of `cap` lines: where it is full, the sectors of another line give way (R180, R191, log entry 95). -/
def fillCopy (t : Tab (Option Copy)) (cap turn sec : Nat) (c : Copy) : Tab (Option Copy) :=
  let held := cacheLines t
  let t := if held.contains (sec / 2 * 64) || held.length < cap then t else match displaced held turn with | some l => dropLine t l | none => t
  Tab.put none t sec (some c)

/-- The lines of an L1, 128 KiB (R191). -/
def l1Lines : Nat := 2048
/-- The lines of a constant cache, 64 KiB (R180). -/
def constLines : Nat := 1024
/-- The lines of the RDC of a die, 32 MiB (R8). -/
def rdcLines : Nat := 524288
/-- The lines of an L2 slice, 2 MiB (R8). -/
def l2Lines : Nat := 32768
/-- The sets of a die's HBM page cache: four stacks of 36 GiB in frames of 64 KiB, 16 ways (R8, R347, log entry 13). -/
def hbmSets : Nat := 147456

/-- The key of a sector in the RDC of a die. -/
def rdcKey (die sec : Nat) : Nat := die * 2 ^ 52 + sec

/-- Whether a core of a die holds a live L1 copy of a line. -/
def State.sharedOn (s : State) (die line : Nat) : Bool :=
  s.cores.any fun (c, k) => dieOf c == die && ((liveCopy k.l1 (line / 32) s.clock.gt).isSome || (liveCopy k.l1 (line / 32 + 1) s.clock.gt).isSome ||
    (liveCopy k.constant (line / 32) s.clock.gt).isSome || (liveCopy k.constant (line / 32 + 1) s.clock.gt).isSome)

/-- The later of `m` and the expiry of a copy. -/
def laterExpiry (t : Tab (Option Copy)) (sec m : Nat) : Nat := match Tab.get none t sec with | some c => max m c.expiry | none => m

/-- The latest expiry of the L1 copies of a line on a die. -/
def State.latestL1 (s : State) (die line : Nat) : Nat :=
  s.cores.foldl (fun m x => if dieOf x.1 = die then
    laterExpiry x.2.l1 (line / 32) (laterExpiry x.2.l1 (line / 32 + 1) (laterExpiry x.2.constant (line / 32) (laterExpiry x.2.constant (line / 32 + 1) m)))
    else m) 0

/-- The L1s and constant caches of a die changed by `f`: the constant cache holds lines exactly as L1 does (R180, log entry 6). -/
def State.onL1s (s : State) (die : Nat) (f : Tab (Option Copy) → Tab (Option Copy)) : State :=
  { s with cores := Tab.mapVals {} (fun c k => if dieOf c = die then { k with l1 := f k.l1, constant := f k.constant } else k) s.cores }

/-- Memory state changed by `f`. -/
def State.onMem (s : State) (f : Memory → Memory) : State := { s with memory := f s.memory }

/-- A line is poisoned (R202). -/
def State.linePoison (s : State) (line : Nat) : Bool := Tab.get false s.memory.poison (lineNo line)

/-! Ownership (R193, R203). -/

/-- Whether the RDC of the die that is not the line's home owns it (R193). -/
def State.isOwned (s : State) (line : Nat) : Bool := Tab.get false s.memory.owned (lineNo line)

/-- A dirty line put into an eviction buffer (R203). -/
def Memory.evict (m : Memory) (line : Nat) : Memory :=
  { m with evictions := m.evictions ++ [{ tx := m.nextTx, line := line, taken := false }], nextTx := m.nextTx + 1 }

/-- An owning RDC evicts the line (R203): the write-back carries the latest lease that it has granted to its die's L1s, which the home treats as a lease of the other die (R193). -/
def State.evictOwned (s : State) (line : Nat) : State :=
  if s.isOwned line then
    let late := s.latestL1 (1 - homeDie line) line
    s.onMem fun m => ({ m with
      owned := Tab.del m.owned (lineNo line)
      grants := Tab.put 0 m.grants (lineNo line) (max (Tab.get 0 m.grants (lineNo line)) late) } : Memory).evict line
  else s

/-- An access that reaches the home takes the line from the answer of an eviction buffer that holds it (R203): its late write-back will be discarded. -/
def State.takeEvicted (s : State) (line : Nat) : State :=
  if s.memory.evictions.any fun x => x.line == line && !x.taken then
    s.onMem fun m => { m with evictions := m.evictions.map fun x => if x.line = line then { x with taken := true } else x }
  else s

/-- Ownership recalled (R193): the owner's latest L1 expiry becomes a lease granted to the other die. A line in an eviction buffer is taken from there (R203). -/
def State.recall (s : State) (line : Nat) : State :=
  if s.isOwned line then
    let late := s.latestL1 (1 - homeDie line) line
    s.onMem fun m => { m with
      owned := Tab.del m.owned (lineNo line)
      grants := Tab.put 0 m.grants (lineNo line) (max (Tab.get 0 m.grants (lineNo line)) late) }
  else s.takeEvicted line

/-- The lines that the walk for a virtual address reads, where no TLB serves it. -/
def State.walkReads (s : State) (u : Nat) (t : BitVec 16) (va : Nat) : List Nat :=
  match s.descriptor t with
  | none => []
  | some d =>
    let served := match s.leaf u t va with
      | .ok e => s.heldEntry u t va == some e || s.heldEntry (dieTlb u) t va == some e
      | .error _ => false
    let desc := if (Tab.get none s.tlb.descs t.toNat).isNone then [lineOf (s.descAddr t)] else []
    if served then [] else desc ++ s.walkLines va 5 (descRoot d)

/-- The reads of a table walk reach the homes of its lines (R193). -/
def State.walked (s : State) (u : Nat) (t : BitVec 16) (va : Nat) : State := (s.walkReads u t va).foldl State.recall s

/-- The TLBs after a translation: the core's and its die's hold the entry, and the descriptor that it used is held (R190, R429). -/
def State.remember (s : State) (u : Nat) (t : BitVec 16) (va : Nat) : State :=
  match s.leaf u t va with
  | .error _ => s.walked u t va
  | .ok e =>
    let turn := s.clock.turn
    let es := keepEntry s.tlb.entries 16384 turn { holder := dieTlb u, entry := e }
    let es := if u < 144 then keepEntry es 128 turn { holder := u, entry := e } else es
    { s.walked u t va with tlb := { entries := es, descs := Tab.put none s.tlb.descs t.toNat (s.descriptor t) } }

/-! The HBM page cache (R347, R348, R350). -/

/-- The page record of a PA. -/
def State.page (s : State) (pa : Nat) : Page := Tab.get {} s.memory.pages (pa / 65536)

/-- A page record changed by `f`. -/
def State.onPage (s : State) (pa : Nat) (f : Page → Page) : State :=
  s.onMem fun m => { m with pages := Tab.put {} m.pages (pa / 65536) (f (Tab.get {} m.pages (pa / 65536))) }

/-- Whether a line is still to be written back: what its backing holds differs from the home's (R347). -/
def State.isDirty (s : State) (line : Nat) : Bool := (Tab.get none s.memory.dirty (lineNo line)).isSome

/-- Whether the extent of a page keeps its dirty lines unserved: it is expired or failed (R344). -/
def State.keeps (s : State) (pa : Nat) : Bool :=
  match s.extent? pa with
  | some (_, l) => l.state == .expired || l.state == .failed || (l.state == .active && l.expiry ≤ s.clock.gt)
  | none => false

/-- Whether a page holds kept dirty lines of R344: its extent is expired or failed and a line of it is dirty. -/
def State.keptPage (s : State) (page : Nat) : Bool := s.keeps (page * 65536) && s.memory.dirty.any fun x => x.1 / 1024 == page

/-- The combs of the package, resident or saved. -/
def State.allCombs (s : State) : List Comb :=
  s.cores.flatMap fun (_, k) => (k.combs.filterMap fun x => x.2) ++ k.saved.map fun x => x.comb

/-- The combs of a core changed by `f`, resident and saved. -/
def Core.mapCombs (k : Core) (f : Comb → Comb) : Core :=
  { k with combs := Tab.mapVals none (fun _ (x : Option Comb) => x.map f) k.combs, saved := k.saved.map fun (x : Saved) => { x with comb := f x.comb } }

/-- A line is written back, or its write-back counts as acknowledged (R349): the terms that waited for it end, those of writes that are performed and not acknowledged yet among them (R206). -/
def State.lineCleaned (s : State) (line : Nat) : State :=
  let gt := s.clock.gt
  let s := s.onMem fun m => { m with dirty := Tab.del m.dirty (lineNo line) }
  let strand := fun (st : Strand) =>
    let hit := st.flight.lines.contains line
    let toks := st.flight.tokens.map fun k => if k.lines.contains line then { k with term := Nat.max k.term gt, lines := k.lines.filter fun x => x != line } else k
    let old := st.flight.terms
    let now : Terms := { device := 0, comb := 0, system := gt }
    let acted := st.flight.atomics.filter fun a => a.lines.contains line
    let st := { st with flight := { st.flight with
        tokens := toks
        lines := st.flight.lines.filter fun x => x != line
        terms := if hit then { old with system := Nat.max old.system gt } else old
        atomics := st.flight.atomics.map fun a => { a with lines := a.lines.filter fun x => x != line } } }
    acted.foldl (fun (st : Strand) a => st.termOf a.id now) st
  let req := fun (q : Request) => { q with counts := q.counts.map fun c => if c.line = some line then { c with line := none, at_ := Nat.max c.at_ gt } else c }
  let comb := fun (x : Comb) => { x with strands := Tab.mapVals {} (fun _ st => strand st) x.strands, reqs := x.reqs.map req }
  let drain := fun (d : Drain) => if d.applied.isSome && d.entry.pa == line then { d with cleaned := gt } else d
  let cell := fun (c : Completion) => if c.lines.contains line then { c with term := Nat.max c.term gt, lines := c.lines.filter fun y => y != line } else c
  let swarm := fun (x : Swarm) => { x with window := x.window.map cell }
  { s with
    cores := Tab.mapVals {} (fun _ k => { k.mapCombs comb with drains := k.drains.map drain }) s.cores
    sched := { s.sched with swarms := Tab.mapVals {} (fun _ x => swarm x) s.sched.swarms } }

/-- The dirty lines of a page that the other die's RDC does not own, written back: the backing holds what memory holds (R348). -/
def State.cleanPage (s : State) (page : Nat) : State :=
  ((s.memory.dirty.filter fun x => x.1 / 1024 == page && !s.isOwned (64 * x.1)).map fun x => 64 * x.1).foldl State.lineCleaned s

/-- The resident pages of the set of a page, other than itself: same home die, same set index (R347). -/
def State.setPages (s : State) (page : Nat) : List (Nat × Page) :=
  s.memory.pages.filter fun x => x.2.resident && x.1 != page && homeDie (x.1 * 65536) == homeDie (page * 65536) &&
    Config.setIndex x.1 % hbmSets == Config.setIndex page % hbmSets

/-- The victim among the pages of a set: unpinned, not being fetched, without kept lines; the lowest counter, then the earliest allocated (R348). -/
def State.victimIn (s : State) (l : List (Nat × Page)) : Option Nat :=
  let ok := l.filter fun x => !x.2.pin && x.2.fetching.isEmpty && !s.keptPage x.1
  match ok with
  | [] => none
  | x :: t => some (t.foldl (fun b y => if y.2.counter < b.2.counter ∨ (y.2.counter = b.2.counter ∧ y.2.order < b.2.order) then y else b) x).1

/-- The victim of a full set for a page (R348). -/
def State.victim (s : State) (page : Nat) : Option Nat := s.victimIn (s.setPages page)

/-- The lines of a page from `start` on, wrapping within the page (R347). -/
def fetchOrder (line : Nat) : List Nat :=
  let page := line / 65536
  (List.range 1024).map fun i => page * 65536 + ((line / 64 + i) % 1024) * 64

/-- The pager register block of a die (R351). -/
def State.pager (s : State) (die : Nat) : Pager := if die = 0 then s.tiers.pager0 else s.tiers.pager1

/-- The ways of a page's set that hold its own die's pages: 16, less those that frames lent to neighbours take (R347, R364). -/
def State.ways (s : State) (page : Nat) : Nat :=
  let frames := 32 * (s.pager (homeDie (page * 65536))).lent
  16 - min 16 (frames / hbmSets + b2n (Config.setIndex page % hbmSets < frames % hbmSets))

/-- Whether a page can be allocated: its set has a free way or a victim (R348). -/
def State.canAllocate (s : State) (page : Nat) : Bool := (s.setPages page).length < s.ways page || (s.victim page).isSome

/-- A page leaves the HBM cache: its dirty lines are written back, its clean lines dropped (R348). -/
def State.evictPage (s : State) (page : Nat) : State :=
  (s.cleanPage page).onMem fun m =>
    { m with pages := Tab.put {} m.pages page { Tab.get {} m.pages page with resident := false, counter := 0, fetching := [], toL2 := [], order := 0 } }

/-- A page made resident: a full set first gives up its victim; the fetch starts with the line `line` (R347, R348). -/
def State.allocate (s : State) (line : Nat) : State :=
  let page := line / 65536
  let s := if (s.setPages page).length < s.ways page then s
    else match s.victim page with
      | some v => s.evictPage v
      | none => s
  (s.onPage line fun p => { p with resident := true, counter := 0, order := s.memory.allocSeq, fetching := fetchOrder line }).onMem
    fun m => { m with allocSeq := m.allocSeq + 1 }

/-! The home L2 (R8, R192, R197). -/

/-- Whether the home L2 slice of a line holds it. -/
def State.inL2 (s : State) (line : Nat) : Bool :=
  if isHost line then Tab.get 0 s.memory.hostLines (lineNo line) != 0 else Tab.get false s.memory.l2 (lineNo line)

/-- The lines that a slice holds. -/
def State.sliceLines (s : State) (die slice : Nat) : List Nat :=
  ((Tab.keys s.memory.l2 ++ Tab.keys s.memory.hostLines).map (64 * ·)).filter fun a => homeDie a == die && homeSlice a == slice

/-- Whether a core of either die, or the other die's RDC, still holds a lease on a line. -/
def State.leased (s : State) (line : Nat) : Bool :=
  s.sharedOn 0 line || s.sharedOn 1 line || s.clock.gt < Tab.get 0 s.memory.grants (lineNo line)

/-- Whether a slice may give a line up: a host line under no lease (log entry 95); a device line that its HBM frame, its owner or its backing can take. -/
def State.mayDisplace (s : State) (line : Nat) : Bool :=
  if isHost line then !s.leased line else (s.page line).resident || !s.isDirty line || s.isOwned line || s.served line

/-- A line leaves its slice: a modified host line goes into the eviction buffer (R197, R203), a dirty device line to its HBM frame or else to its backing (R348). -/
def State.displaceL2 (s : State) (line : Nat) : State :=
  if isHost line then s.onMem fun m =>
    let m := if Tab.get 0 m.hostLines (lineNo line) = 2 then m.evict line else m
    { m with hostLines := Tab.del m.hostLines (lineNo line) }
  else
    let s := if (s.page line).resident || !s.isDirty line || s.isOwned line then s else s.lineCleaned line
    s.onMem fun m => { m with l2 := Tab.del m.l2 (lineNo line) }

/-- Room made for a line in its slice: where the slice is full, another line gives way (log entry 95). -/
def State.roomL2 (s : State) (line : Nat) : State :=
  let held := s.sliceLines (homeDie line) (homeSlice line)
  if s.inL2 line || held.length < l2Lines then s
  else match displaced (held.filter s.mayDisplace) s.clock.turn with
    | some v => s.displaceL2 v
    | none => s

/-- A device line filled into its home L2; with no room even so, it is served past it. -/
def State.fillL2 (s : State) (line : Nat) : State :=
  if !isDevice line || s.inL2 line then s
  else
    let s := s.roomL2 line
    if (s.sliceLines (homeDie line) (homeSlice line)).length < l2Lines then s.onMem fun m => { m with l2 := Tab.put false m.l2 (lineNo line) true } else s

/-- Whether the slice of a line holds it or can take it: there is room, or a line that may be displaced (R8, log entry 95). -/
def State.hasRoomL2 (s : State) (line : Nat) : Bool :=
  let held := s.sliceLines (homeDie line) (homeSlice line)
  s.inL2 line || held.length < l2Lines || held.any s.mayDisplace

/-- A host line obtained by the die-0 slice: 1 shared, 2 exclusive (R197). -/
def State.holdHost (s : State) (line how : Nat) : State :=
  if isHost line && s.hasRoomL2 line then
    (s.roomL2 line).onMem fun m => { m with hostLines := Tab.put 0 m.hostLines (lineNo line) (max how (Tab.get 0 m.hostLines (lineNo line))) }
  else s

/-- Whether the home can serve a line now: in L2, or resident and not in flight, or not to be allocated (R347, R348); a host line once its slice has room for it (R8). -/
def State.homeReady (s : State) (line : Nat) : Bool :=
  if isHost line then s.hasRoomL2 line
  else if !isDevice line then true
  else
    let p := s.page line
    s.inL2 line || (if p.resident then !p.fetching.contains line else p.noalloc || !s.canAllocate (line / 65536))

/-- The extent of a PA has failed (R344). -/
def State.failed (s : State) (pa : Nat) : Bool := s.serve pa false == some 0x0D

/-- A line whose data must come from the pool, host memory or borrowed memory: neither in L2 nor in HBM (R198). -/
def State.isFar (s : State) (line : Nat) : Bool :=
  !s.inL2 line && (isHost line || !(s.page line).resident || (s.page line).fetching.contains line)

/-- Whether an access that reaches the home of a line waits there: an MCAS holds the line (R248), a snoop of it is being answered (R225), or it is still being fetched (R347). A failed extent keeps no access waiting (R345). -/
def State.homeWaits (s : State) (line : Nat) : Bool := s.locked line || s.memory.snoops.any (fun x => x.line == line) || !(s.homeReady line || s.failed line)

/-- The miss on a page that is not resident: a frame is allocated and the fetch starts (R347). -/
def State.homeMiss (s : State) (line : Nat) : State :=
  if isDevice line && !(s.page line).resident && !(s.page line).noalloc && s.canAllocate (line / 65536) then s.allocate line else s

/-- A line that an access waits for, brought nearer: its page is allocated and fetched where it is not resident (R347). -/
def State.fetchLine (s : State) (line : Nat) : State := if s.locked line || s.failed line then s else s.homeMiss line

/-- The access counter of a resident page raised, saturating at 255 (R350). -/
def State.countAccess (s : State) (line : Nat) : State :=
  if isDevice line && (s.page line).resident then s.onPage line fun p => { p with counter := min 255 (p.counter + 1) } else s

/-! The RDC (R8, R192, R193). -/

/-- The lines that the RDC of a die holds: its read copies and the lines that it owns. -/
def State.rdcHeld (s : State) (die : Nat) : List Nat :=
  (((Tab.keys s.memory.rdc).filterMap fun x => if x / 2 ^ 52 = die then some (x % 2 ^ 52 / 2 * 64) else none) ++
    (Tab.keys s.memory.owned).filterMap fun x => if homeDie (64 * x) ≠ die then some (64 * x) else none).dedup

/-- The read copy of a line in a die's RDC dropped. -/
def State.dropRdc (s : State) (die line : Nat) : State :=
  let key := rdcKey die (line / 32)
  s.onMem fun m => { m with rdc := Tab.del (Tab.del m.rdc key) (key + 1) }

/-- Room made in the RDC of a die for a line: where it is full, another line gives way, an owned one through the eviction buffer (R203, log entry 95). -/
def State.roomRdc (s : State) (die line : Nat) : State :=
  let held := s.rdcHeld die
  if held.contains line || held.length < rdcLines then s
  else match displaced held s.clock.turn with
    | some v => if s.isOwned v then s.evictOwned v else s.dropRdc die v
    | none => s

/-! The directory (R194). -/

/-- Whether a region holds a line. -/
def DirRegion.has (r : DirRegion) (line : Nat) : Bool := r.base ≤ line && line < r.base + 64 * r.lines

/-- The directory of a die's home slices after a core has filled a line: the region that holds the line, or a new one of 64 KiB, has the core as a sharer. -/
def trackFill (d : List DirRegion) (line core : Nat) : List DirRegion :=
  if d.any fun r => r.has line then
    d.map fun r => if r.has line then { r with sharers := if r.sharers.contains core then r.sharers else core :: r.sharers } else r
  else { base := line / 65536 * 65536, lines := 1024, sharers := [core], stale := 0 } :: d

/-- The directory after an update of a line: a region with a sharer that no longer holds the line splits in halves, down to one line. -/
def trackUpdate (d : List DirRegion) (line gt : Nat) (holds : Nat → Bool) : List DirRegion :=
  d.flatMap fun r =>
    if r.has line && r.sharers.any fun c => !holds c then
      if r.lines ≤ 1 then [{ r with sharers := r.sharers.filter holds, stale := gt }]
      else [{ r with lines := r.lines / 2, stale := gt }, { r with base := r.base + 64 * (r.lines / 2), lines := r.lines / 2, stale := gt }]
    else [r]

/-- An entry evicted from the directory: its region's lines are withdrawn from its sharers first (R194). -/
def State.dropRegion (s : State) (r : DirRegion) : State :=
  let drop := fun (t : Tab (Option Copy)) => t.filter fun x => !r.has (32 * x.1)
  { s with
    cores := Tab.mapVals {} (fun c k => if r.sharers.contains c then { k with l1 := drop k.l1, constant := drop k.constant } else k) s.cores
    memory := { s.memory with directory := s.memory.directory.erase r } }

/-- Whether a core holds a live copy of a line in its L1 or its constant cache. -/
def State.coreHolds (s : State) (line c : Nat) : Bool :=
  let live := fun (t : Tab (Option Copy)) => (liveCopy t (line / 32) s.clock.gt).isSome || (liveCopy t (line / 32 + 1) s.clock.gt).isSome
  live (s.core c).l1 || live (s.core c).constant

/-! Performing at the home. -/

/-- The reservations of a strand on the lines that `p` admits lost (R214). -/
def Strand.clearResvs (st : Strand) (p : Nat → Bool) : Strand :=
  let keep := st.flight.resv.filter fun y => match y.2 with | some r => !p (lineOf r.pa) | none => false
  { st with flight := { st.flight with resv := keep } }

/-- The reservations of a strand on a line lost (R214). -/
def Strand.clearResv (st : Strand) (line : Nat) : Strand := st.clearResvs fun x => x == line

/-- Every strand of a core changed by `f`. -/
def Core.mapStrands (k : Core) (f : Strand → Strand) : Core :=
  let one := fun (x : Option Comb) => x.map fun (x : Comb) => { x with strands := Tab.mapVals {} (fun _ st => f st) x.strands }
  { k with combs := Tab.mapVals none (fun _ x => one x) k.combs }

/-- Every strand changed by `f`. -/
def State.mapStrands (s : State) (f : Strand → Strand) : State :=
  { s with cores := Tab.mapVals {} (fun _ k => k.mapStrands f) s.cores }

/-- Every reservation on a line lost (R214). -/
def State.clearResv (s : State) (line : Nat) : State := s.mapStrands fun st => st.clearResv line

/-- Every reservation on a line that `p` admits lost (R214). -/
def State.clearResvs (s : State) (p : Nat → Bool) : State := s.mapStrands fun st => st.clearResvs p

/-- The extent of a line is being revoked: writes go through to its backing (R344). -/
def State.writesThrough (s : State) (line : Nat) : Bool := match s.extent? line with | some (_, l) => l.state == .revoking | none => false

/-- A line poisoned by a write of poisoned data to it, in the copies of the sharers of the serving die too (R194, R202). -/
def State.poisonLine (s : State) (line : Nat) : State :=
  let gt := s.clock.gt
  (s.onMem fun m => { m with poison := Tab.put false m.poison (lineNo line) true }).onL1s (if s.isOwned line then 1 - homeDie line else homeDie line) fun t => poisonCopies t line gt

/-- A store to one line applied where the line is held (R194): bytes, the backing's copy, poison, the copies of the sharers on the serving die, and the reservations on the line (R214). In a revoking extent the write goes through to the backing (R344). -/
def State.applyLine (s : State) (line : Nat) (mask : Dbl) (data : LineBits) : State :=
  let n := lineNo line
  let mine := s.isOwned line
  let die := if mine then 1 - homeDie line else homeDie line
  let gt := s.clock.gt
  let old := Mem.line s.memory.mem line
  let through := s.writesThrough line
  let holds := s.coreHolds line
  let s := if mine then s else s.fillL2 line
  let s := s.onMem fun m => { m with
    mem := Mem.writeMasked m.mem line mask.toNat data.toNat 64
    dirty := if isDevice line && (Tab.get none m.dirty n).isNone then Tab.put none m.dirty n (some old) else m.dirty
    poison := if mask = BitVec.allOnes 64 then Tab.del m.poison n else m.poison
    directory := if mine then m.directory else trackUpdate m.directory line gt holds }
  let s := ((s.onL1s die fun t => updateCopies t line gt mask data).clearResv line).holdHost line 2
  if through && isDevice line then s.lineCleaned line else s

/-- The mask and data of a write of the low `n` bytes of `v` at `pa`, within one line. -/
def lineWrite (pa n v : Nat) : Dbl × LineBits :=
  (BitVec.ofNat 64 ((2 ^ n - 1) * 2 ^ (pa % 64)), BitVec.ofNat 512 ((v % 2 ^ (8 * n)) * 2 ^ (8 * (pa % 64))))

/-- The low `n` bytes of `v` written at a PA by the agent that holds the line; the bytes lie in one line. -/
def State.homeWrite (s : State) (pa n v : Nat) : State :=
  let w := lineWrite pa n v
  s.applyLine (lineOf pa) w.1 w.2

/-- Bytes written at consecutive PAs, line by line, by an agent of the J40 that writes at the home. -/
def State.homeCells (s : State) : List (Nat × Byte) → State
  | [] => s
  | (a, b) :: t => (s.homeWrite a 1 b.toNat).homeCells t

/-- The write completion time of a store just applied (R195): now, or the latest unexpired lease granted to the other die. -/
def State.completion (s : State) (line : Nat) : Nat := max s.clock.gt (Tab.get 0 s.memory.grants (lineNo line))

/-- Whether an access that reaches the home from `die` recalls an owning RDC (R193): always where `always` says so, else when it comes from the home die. -/
def State.reachHome (s : State) (line die : Nat) (always : Bool) : State :=
  if always || die == homeDie line then s.recall line else s

/-! Local memory. -/

/-- `n` bytes of a core's LM at a physical byte. -/
def State.lmRead (s : State) (core a n : Nat) : Nat := Mem.read (s.core core).lm a n

/-- The words of LM that `n` bytes at `a` cover whole: a write of them clears their poison mark (R202). -/
def wholeWords (a n : Nat) : List Nat :=
  (List.range ((a + n) / 4 - (a + 3) / 4)).map fun k => (a + 3) / 4 + k

/-- The low `n` bytes of `v` written at a physical byte of a core's LM. -/
def State.lmWrite (s : State) (core a n v : Nat) : State :=
  s.onCore core fun k => { k with
    lm := Mem.write k.lm a n v
    lmPoison := (wholeWords a n).foldl (fun t w => Tab.del t w) k.lmPoison }

/-- Cells written to a core's LM, each byte leaving the poison marks alone. -/
def State.lmCells (s : State) (core : Nat) (l : List (Nat × Byte)) : State :=
  s.onCore core fun k => { k with lm := Mem.writeCells k.lm l }

/-- A poison mark set on the LM words that `n` bytes at `a` touch. -/
def State.lmMark (s : State) (core a n : Nat) : State :=
  s.onCore core fun k => { k with
    lmPoison := (List.range (ceilDiv (a + n) 4 - a / 4)).foldl (fun t w => Tab.put false t (a / 4 + w) true) k.lmPoison }

/-- Whether a word of `n` bytes at `a` in LM carries a poison mark. -/
def State.lmMarked (s : State) (core a n : Nat) : Bool :=
  (List.range (ceilDiv (a + n) 4 - a / 4)).any fun w => Tab.get false (s.core core).lmPoison (a / 4 + w)

/-- The physical byte of an offset in the window of the comb in a slot (R176). -/
def State.lmPhys (s : State) (core slot off : Nat) : Nat := (s.comb core slot).base + off

/-- Whether `n` bytes at a window offset lie inside the comb's window (R176). -/
def State.inWindow (s : State) (core slot off n : Nat) : Bool := off + n ≤ (s.comb core slot).shape.window

/-- `n` bytes at a window offset of a comb. -/
def State.winRead (s : State) (core slot off n : Nat) : Nat := s.lmRead core (s.lmPhys core slot off) n

/-- `n` bytes written at a window offset of a comb. -/
def State.winWrite (s : State) (core slot off n v : Nat) : State := s.lmWrite core (s.lmPhys core slot off) n v

/-- The comb of a core that holds physical bytes `a` to `a + n - 1` in its window, for a tenant (R177). -/
def State.windowAt (s : State) (core a n : Nat) (t : BitVec 16) : Option Nat :=
  (s.core core).combs.findSome? fun x => match x.2 with
    | some k => if k.base ≤ a && a + n ≤ k.base + k.shape.window && k.tenant == t then some x.1 else none
    | none => none

/-! Range locks (R264, R265). -/

/-- The row of R265 that an access belongs to. -/
inductive LockUse | read | write | binit | bother
  deriving DecidableEq, Repr

/-- Two ranges of bytes meet. -/
def meets (a n lo hi : Nat) : Bool := a < hi && lo < a + n

/-- Whether `n` bytes at `a` of a space conflict with an entry (R265). -/
def LockEntry.conflicts (e : LockEntry) (u : LockUse) (space a n : Nat) (t : BitVec 16) : Bool :=
  let inR := fun (r : Option Range) => match r with
    | some r => r.space == space && meets a n r.lo r.hi && (space != 2 || e.tenant == t)
    | none => false
  let inBar := match e.bar with | some b => space == 0 && meets a n b (b + 8) | none => false
  match u with
  | .read => inR e.dst
  | .write | .binit => inR e.src || inR e.dst || inBar
  | .bother => inR e.src || inR e.dst

/-- Whether an access of a strand or stream of a core conflicts with the core's range-lock table. LM and peer ranges are physical: space 0 is the core's own LM. -/
def State.lockConflict (s : State) (core : Nat) (u : LockUse) (space a n : Nat) (t : BitVec 16) : Bool :=
  (s.core core).locks.any fun e => e.conflicts u space a n t

end Sys2Proof.Machine
end

