-- ==== Sys2Proof/Machine/Faults.lean ====
section
/-! DEFINITION. Recoverable faults: batches of the fault queue (R352, R353), fault-parking (R165, R200), run-ahead (R201), the resumption of combs (R200, R355, R356), and asynchronous faults (R415). -/

namespace Sys2Proof.Machine
open Sys2Proof

/-- The pager of a die changed by `f`. -/
def State.onPager (s : State) (die : Nat) (f : Pager → Pager) : State :=
  let t := s.tiers
  { s with tiers := if die = 0 then { t with pager0 := f t.pager0 } else { t with pager1 := f t.pager1 } }

/-- A batch formed by an originator of a core (R352, R353): it takes the die's next number and waits at its core until it is written. -/
def State.formBatch (s : State) (from_ : Originator) (core slot : Nat) (t : BitVec 16) (faults : List PageFault) : State :=
  let die := dieOf core
  let t0 := s.tiers
  let b : Batch := { id := t0.nextBatch, die := die, num := (s.pager die).seq % 65536, origin := (faults.head?.map fun f => f.origin).getD 0,
                     from_ := from_, tenant := t, core := core, slot := slot, gt := s.clock.gt, written := false,
                     entries := faults.map fun f => { va := f.va, pa := f.pa, cause := f.cause, acc := f.acc, out := none } }
  ({ s with tiers := { t0 with batches := t0.batches ++ [b], nextBatch := t0.nextBatch + 1 } }).onPager die fun p => { p with seq := (p.seq + 1) % 65536 }

/-- The pages of a batch, distinct and at most sixteen (R201): one entry for each page and cause. -/
def addPages (l : List PageFault) : List PageFault → List PageFault
  | [] => l
  | f :: t =>
    if l.length ≥ 16 then l
    else if l.any fun g => g.va / 65536 == f.va / 65536 && g.cause == f.cause && g.pa == f.pa then addPages l t
    else addPages (l ++ [f]) t

/-- A strand sends its batch and is fault-parked with its whole comb (R200). -/
def State.sendBatch (s : State) (w : Sid) (faults : List PageFault) : State :=
  let id := s.tiers.nextBatch
  let s := s.formBatch (.strand w) w.core w.slot (s.tenantOf w.core w.slot) faults
  let s := s.onComb w.core w.slot fun k => { k with batches := k.batches ++ [id] }
  s.onStrand w fun st => { st with sched := { st.sched with fparked := true } }

/-- A recoverable fault of an instruction of a strand: in run-ahead its pages join the batch (R201); in an open region run-ahead starts, and ends at once for a region-ending instruction (R164, R201); otherwise the batch is sent and the instruction is issued again later (R165). The second value tells whether the instruction goes on in run-ahead. -/
def State.queueFault (s : State) (i : Issue) (faults : List PageFault) : State × Bool :=
  match i.st.ahead with
  | some _ =>
    (s.onStrand i.w fun st => { st with ahead := st.ahead.map fun a =>
      let b := addPages a.batch faults
      { a with batch := b, ended := a.ended || b.length ≥ 16 } }, true)
  | none =>
    match i.st.region with
    | none => (s.sendBatch i.w (addPages [] faults), false)
    | some _ =>
      let b := addPages [] faults
      let stop := i.o.endsRegion i.e
      (s.onStrand i.w fun st => { st with ahead := some { batch := b, issued := 0, inv := {}, ended := stop || b.length ≥ 16 } }, !stop)

/-- The end of run-ahead (R201): the batch is sent in the order found and the strand rolls back (R166). -/
def State.endAhead (s : State) (w : Sid) : State :=
  match (s.strand w).ahead with
  | none => s
  | some a => (s.onStrand w Strand.rollback).sendBatch w a.batch

/-- Lanes of registers marked invalid by a fault of a load in run-ahead (R201). -/
def Strand.markInvalid (st : Strand) (rs : List Reg) (lanes : Mask) : Strand :=
  { st with ahead := st.ahead.map fun a => { a with inv := rs.foldl (fun m r => m.mark r lanes) a.inv } }

/-! Resolution (R354 to R356). -/

/-- Whether a batch is resolved (R354). -/
def Batch.resolved (b : Batch) : Bool := b.entries.all fun e => e.out.isSome

/-- The outcome of a resolved batch (R355): the lowest-IDX entry with OUT not 0, or none. -/
def Batch.outcome (b : Batch) : Option (Nat × Nat) :=
  b.entries.findSome? fun e => match e.out with
    | some o => if o = 0 then none else some (if listedCauses.contains o then o else Cause.pageProtect.code, e.va)
    | none => none

/-- The PC at which a strand would resume: its region entry, or where its next issue stands (R200). -/
def Strand.resumePc (st : Strand) : Pc := st.minPc st.live

/-- The access with number `id` acknowledged; `lines` are the lines of device memory that it wrote and that a system-scope term waits for (R206, R208). -/
def Strand.acknowledge (st : Strand) (id : Nat) (lines : List Nat) : Strand :=
  let f := st.flight
  let toks := f.tokens.map fun k =>
    if k.ids.contains id then { k with ids := k.ids.filter (fun x => x != id), lines := if k.scope = .system then k.lines ++ lines else k.lines } else k
  { st with flight := { f with tokens := toks, stores := f.stores.filter (fun x => x != id), lines := f.lines ++ lines.filter fun x => !f.lines.contains x } }

/-- The strands of a fault-parked comb go on (R200): none is fault-parked, FC is 0 (R158), and a strand whose batch ended with an outcome enters its handler (R355), as soon as entry may take place (R211, R234). -/
def State.resumeParked (s : State) (core slot : Nat) : State :=
  let s := s.onComb core slot fun k => { k with batches := [], strands := Tab.mapVals {} (fun _ st => { st with sched := { st.sched with fparked := false, fc := 0 } }) k.strands }
  (Tab.keys (s.comb core slot).strands).foldl (fun s x =>
    let w : Sid := { core := core, slot := slot, strand := x }
    match (s.strand w).sched.outcome with
    | none => s
    | some (o, va) =>
      let s := s.onStrand w fun st => { st with sched := { st.sched with outcome := none } }
      let st := s.strand w
      s.holdTrap w { order := st.flight.nextId, cause := o, tval := BitVec.ofNat 64 va, tpc := st.resumePc, group := st.at st.live st.resumePc }) s

/-- A comb whose batches are all resolved becomes ready (R356). -/
def State.readyComb (s : State) (core slot : Nat) : State :=
  let k := s.comb core slot
  let pending := k.batches.any fun id => s.tiers.batches.any fun b => b.id == id && !b.resolved
  if k.batches.isEmpty || pending || (s.core core).ready.contains slot then s
  else s.onCore core fun c => { c with ready := c.ready ++ [slot] }

/-! Asynchronous faults (R415). -/

/-- An asynchronous fault held for a strand, a CONF_LOST before a stream fault (R415). -/
def Strand.addAsync (st : Strand) (f : AsyncFault) : Strand :=
  { st with sched := { st.sched with async :=
      if f.cause = 0x28 then (st.sched.async.filter fun g => g.cause == 0x28) ++ f :: (st.sched.async.filter fun g => g.cause != 0x28)
      else st.sched.async ++ [f] } }

end Sys2Proof.Machine
end

