-- ==== Sys2Proof/Machine/Flags.lean ====
section
/-! DEFINITION. What the arithmetic instructions share: operand values by lane, the exact results of .ov (R47, R76), conditions (R81), saturation of elements, and the course of an instruction in a strand or in a matrix sequencer (R173, R277, R282). -/

namespace Sys2Proof.Machine
open Sys2Proof

/-- The values of the four fields by lane; D is the value before the instruction. -/
structure Args where
  d : Nat → Word
  a : Nat → Word
  b : Nat → Word
  c : Nat → Word

/-- The operand values of an issue (R7, R75). -/
def Issue.args (i : Issue) (s : State) : Args :=
  { d := i.opnd s .d, a := i.opnd s .a, b := i.opnd s .b, c := i.opnd s .c }

/-- The operand values of a stream instruction: one value each (R277). -/
def State.seqArgs (s : State) (c : Nat) (x : Stream) (o : Op) (e : Enc) : Args :=
  { d := fun _ => s.seqOpnd c x o e .d, a := fun _ => s.seqOpnd c x o e .a, b := fun _ => s.seqOpnd c x o e .b, c := fun _ => s.seqOpnd c x o e .c }

/-! Streams. -/

/-- The core whose sequencer may pair with that of core `c` (R9, R295). -/
def neighbour (c : Nat) : Nat := if c % 2 = 0 then c + 1 else c - 1

/-- The pairing of a stream that ends or splits dissolves (R297). -/
def State.dissolve (s : State) (c : Nat) (x : Stream) : State :=
  match x.pairing with
  | .paired _ _ => s.onStream (neighbour c) fun y => match y.pairing with | .paired _ _ => { y with pairing := .dissolved } | _ => y
  | _ => s

/-- The strand in which a stream's fault is raised (R282): the one that issued the MRUN if it has a live lane, otherwise the lowest with a live lane. -/
def Comb.faultStrand (k : Comb) (issuer : Nat) : Option Nat :=
  if (Tab.get {} k.strands issuer).live ≠ 0 then some issuer
  else k.strands.findSome? fun x => if x.2.live ≠ 0 then some x.1 else none

/-- The end of a stream by a fault (R282): the end state, the sequencer idle, and the fault held for a strand of the comb. -/
def State.streamFault (s : State) (c : Nat) (x : Stream) (cause pc : Nat) (tval : Dbl) : State :=
  let s := (s.dissolve c x).onCore c fun k => { k with matrix := { k.matrix with stream := none, last := some x.tenant } }
  let s := s.onComb c x.slot fun k => { k with ending := some { cause := cause, pc := pc, tval := tval } }
  match (s.comb c x.slot).faultStrand x.strand with
  | some j => s.onStrand { core := c, slot := x.slot, strand := j } fun st => st.addAsync { cause := cause, tval := tval, seq := true }
  | none => s

/-- A fault of a stream instruction that is not a queued command: it is taken once the commands accepted before it have completed (R282). -/
def State.seqFault (s : State) (c : Nat) (x : Stream) (t : Trap) : State :=
  if x.drained then s.streamFault c x t.cause.code x.pc.toNat t.tval else s

/-- Whether a stream is paired (R313). -/
def Stream.isPaired (x : Stream) : Bool := match x.pairing with | .paired _ _ => true | _ => false

/-- Whether the stream of a core may issue: it waits for nothing and its comb is neither being saved nor halting (R341, R419). Pre-emption waits while the stream is paired, which goes on meanwhile (R298). -/
def State.seqMay (s : State) (c : Nat) (x : Stream) : Bool :=
  x.wait.isNone && ((s.comb c x.slot).phase == .running || ((s.comb c x.slot).phase == .preempting && x.isPaired))

/-- One instruction of the stream of the core at the focus: nothing where no stream may issue; an instruction outside R33 faults. -/
def runStream (o : Op) (e : Enc) (s : State) (body : Nat → Stream → State → State) : State :=
  let c := s.cur.core
  match s.stream? c with
  | none => s
  | some x =>
    let pending := (s.comb c x.slot).pendingWords s.clock.cycle
    if !s.seqMay c x || (o.reads e 0).any (fun r => pending.contains r) then s
    else if !o.seqLegal e then s.seqFault c x (Trap.of .illegalInstr (o.word0 e).toNat)
    else match s.seqPoison c x o e with
      | some t => s.seqFault c x t
      | none => body c x s

/-- An instruction that only strands execute: a stream that meets it faults (R33). -/
def strandOnly (o : Op) (e : Enc) (s : State) (body : Issue → State → State) : State :=
  if s.cur.strand = seqIndex then runStream o e s fun _ _ s => s else runStrand o e s body

/-- A stream instruction that writes the uniform field D: a comb word only once every earlier command has performed its LM accesses (R284). -/
def seqWrite (e : Enc) (v : Word) (c : Nat) (x : Stream) (s : State) : State :=
  if e.d.toNat ≥ 64 && !x.drained then s else (s.seqPut c x e.d.toNat v).seqAdvance c e

/-! Results. -/

/-- The lanes among `lanes` whose exact result lies outside the signed 32-bit range (R47, R76). -/
def overflowMask (f : Nat → Int) (lanes : Mask) : Mask :=
  Mask.of fun l => lanes.getLsbD l && (decide (f l < -(2 ^ 31 : Int)) || decide (f l > 2 ^ 31 - 1))

/-- AFFINE_OVERFLOW under .ov (R47, R76): all 32 positions of an affine destination, the active lanes of a varying one, the one value of a uniform one. -/
def Issue.ovTrap (i : Issue) (f : Nat → Int) : Option Trap :=
  match i.dClass with
  | .s => if overflowMask f 1 = 0 then none else some { cause := .affineOverflow, tval := zx64 i.act }
  | .a => let bad := overflowMask f (BitVec.allOnes 32); if bad = 0 then none else some { cause := .affineOverflow, tval := zx64 bad }
  | _ => let bad := overflowMask f i.act; if bad = 0 then none else some { cause := .affineOverflow, tval := zx64 bad }

/-- An instruction that computes a value in each lane and writes it to D (R75); `exact` is the exact value that .ov checks (R76). In a stream there is one value, and no active mask to report. -/
def compute (o : Op) (e : Enc) (s : State) (exact : Option (Args → Nat → Int)) (val : Args → Nat → Word) : State :=
  let ov := if e.qbit 0 then exact else none
  if s.cur.strand = seqIndex then
    runStream o e s fun c x s =>
      let args := s.seqArgs c x o e
      match ov with
      | some f => if overflowMask (f args) 1 = 0 then seqWrite e (val args 0) c x s else s.seqFault c x (Trap.of .affineOverflow 0)
      | none => seqWrite e (val args 0) c x s
  else
    runStrand o e s (effect (fun i s => match ov with | some f => i.ovTrap (f (i.args s)) | none => none) fun i s => s.writeD i (val (i.args s)))

/-- The next state of a strand instruction. -/
def next (s : State) : Host.Outcome State Fault Refusal := .next s

end Sys2Proof.Machine
end

