-- ==== Sys2Proof/Machine/Integer.lean ====
section
/-! DEFINITION. The integer and address instructions (R73 to R87). -/

namespace Sys2Proof.Machine
open Sys2Proof

/-! Functions of words. -/

/-- Elements of width `w`: `f` of each pair of elements, in place (R78). -/
def perElement (w : Nat) (f : Nat → Nat → Nat) (x y : Word) : Word :=
  BitVec.ofNat 32 ((List.range (32 / w)).foldl (fun acc j =>
    acc + (f (bits x.toNat (w * j + w - 1) (w * j)) (bits y.toNat (w * j + w - 1) (w * j)) % 2 ^ w) * 2 ^ (w * j)) 0)

/-- An integer limited to signed or unsigned elements of width `w`, as its bits (R78). -/
def limitTo (w : Nat) (unsigned : Bool) (x : Int) : Nat :=
  let lo : Int := if unsigned then 0 else -(2 ^ (w - 1) : Nat)
  let hi : Int := if unsigned then (2 ^ w : Nat) - 1 else (2 ^ (w - 1) : Nat) - 1
  ((if x < lo then lo else if x > hi then hi else x) % (2 ^ w : Nat)).toNat

/-- An element read as signed or unsigned. -/
def elemVal (w : Nat) (unsigned : Bool) (x : Nat) : Int := if unsigned then (x : Int) else sx x w

/-- The element width of ADDS and SUBS (R74). -/
def satWidth (sub : Nat) : Nat := match sub / 2 with | 0 => 32 | 1 => 16 | _ => 8

/-- ADDS and SUBS: `f` of the elements, limited (R78). -/
def saturate (sub : Nat) (f : Int → Int → Int) (x y : Word) : Word :=
  let w := satWidth sub
  let u := sub % 2 == 1
  perElement w (fun p q => limitTo w u (f (elemVal w u p) (elemVal w u q))) x y

/-- MIN, MAX, MINU and MAXU: the lesser or greater element (R78). -/
def pickElem (sub : Nat) (unsigned greater : Bool) (x y : Word) : Word :=
  let w := match sub with | 0 => 32 | 1 => 16 | _ => 8
  perElement w (fun p q =>
    let less := decide (elemVal w unsigned p < elemVal w unsigned q)
    if less == greater then q else p) x y

/-- The conditions of CMP and SETC (R81). -/
def condition (sub : Nat) (x y : Word) : Bool :=
  match sub with
  | 0 => x == y
  | 1 => x != y
  | 2 => decide (sxw x < sxw y)
  | 3 => decide (sxw x ≤ sxw y)
  | 4 => decide (sxw x > sxw y)
  | 5 => decide (sxw x ≥ sxw y)
  | 6 => decide (x.toNat < y.toNat)
  | 7 => decide (x.toNat ≤ y.toNat)
  | 8 => decide (x.toNat > y.toNat)
  | _ => decide (x.toNat ≥ y.toNat)

/-- All ones or zero. -/
def allOrNone (b : Bool) : Word := if b then BitVec.allOnes 32 else 0

/-- DIV (R80). -/
def divSigned (x y : Word) : Word := if y = 0 then BitVec.allOnes 32 else w32 ((sxw x).tdiv (sxw y))
/-- REM (R80). -/
def remSigned (x y : Word) : Word := if y = 0 then x else w32 ((sxw x).tmod (sxw y))
/-- DIVU (R80). -/
def divUnsigned (x y : Word) : Word := if y = 0 then BitVec.allOnes 32 else BitVec.ofNat 32 (x.toNat / y.toNat)
/-- REMU (R80). -/
def remUnsigned (x y : Word) : Word := if y = 0 then x else BitVec.ofNat 32 (x.toNat % y.toNat)

/-- SHL by the full amount (R83). -/
def shlWord (x n : Word) : Word := if n.toNat < 32 then x <<< n.toNat else 0
/-- SHR by the full amount (R83). -/
def shrWord (x n : Word) : Word := if n.toNat < 32 then x >>> n.toNat else 0
/-- SAR by the full amount (R83). -/
def sarWord (x n : Word) : Word := if n.toNat < 32 then x.sshiftRight n.toNat else allOrNone (x.getLsbD 31)
/-- ROL by the amount modulo 32 (R83). -/
def rolWord (x n : Word) : Word := x.rotateLeft (n.toNat % 32)

/-- BFX (R84). -/
def bfxWord (signed : Bool) (x y z : Word) : Word :=
  let p := y.toNat
  if p ≥ 32 ∨ z = 0 then 0
  else
    let w := min z.toNat (32 - p)
    let v := bits x.toNat (p + w - 1) p
    if signed then w32 (sx v w) else BitVec.ofNat 32 v

/-- BFI (R84). -/
def bfiWord (old x y z : Word) : Word :=
  let p := y.toNat
  if p ≥ 32 ∨ z = 0 then old
  else BitVec.ofNat 32 (setBits old.toNat (p + min z.toNat (32 - p) - 1) p x.toNat)

/-- CLZ (R85). -/
def clzWord (x : Word) : Word := BitVec.ofNat 32 (((List.range 32).reverse.takeWhile fun k => !x.getLsbD k).length)
/-- BREV (R85). -/
def brevWord (x : Word) : Word := Mask.of fun k => x.getLsbD (31 - k)

/-- DOT4 (R87). -/
def dot4Word (sub : Nat) (x y z : Word) : Word :=
  w32 ((List.range 4).foldl (fun acc j =>
    acc + elemVal 8 (sub == 1) (bits x.toNat (8 * j + 7) (8 * j)) * elemVal 8 (sub != 0) (bits y.toNat (8 * j + 7) (8 * j))) (z.toNat : Int))

/-- CLAMP: min(max(x, y), z) (R82). -/
def clampWord (unsigned : Bool) (x y z : Word) : Word :=
  let v := fun (w : Word) => elemVal 32 unsigned w.toNat
  let m := if v x < v y then y else x
  if v z < v m then z else m

/-! Meanings. -/

/-- ADD (R77). -/
def execAdd (e : Enc) (s : State) : Host.Outcome State Fault Refusal :=
  next (compute .add e s (some fun x l => sxw (x.a l) + sxw (x.b l)) fun x l => x.a l + x.b l)

/-- SUB (R77). -/
def execSub (e : Enc) (s : State) : Host.Outcome State Fault Refusal :=
  next (compute .sub e s (some fun x l => sxw (x.a l) - sxw (x.b l)) fun x l => x.a l - x.b l)

/-- ADDS (R78). -/
def execAdds (e : Enc) (s : State) : Host.Outcome State Fault Refusal :=
  next (compute .adds e s none fun x l => saturate e.sub.toNat (· + ·) (x.a l) (x.b l))

/-- SUBS (R78). -/
def execSubs (e : Enc) (s : State) : Host.Outcome State Fault Refusal :=
  next (compute .subs e s none fun x l => saturate e.sub.toNat (· - ·) (x.a l) (x.b l))

/-- The exact sum or difference of ADDC with the incoming carry or borrow (R79). -/
def carrySum (borrow : Bool) (x y c : Word) : Int :=
  let cin : Int := if c.getLsbD 0 then 1 else 0
  if borrow then (x.toNat : Int) - y.toNat - cin else (x.toNat : Int) + y.toNat + cin

/-- The carry or borrow out of ADDC (R79). -/
def carryOut (borrow : Bool) (t : Int) : Word := if (if borrow then decide (t < 0) else decide (t ≥ (2 ^ 32 : Nat))) then 1 else 0

/-- ADDC (R79): D takes the sum, then C takes the carry. -/
def execAddc (e : Enc) (s : State) : Host.Outcome State Fault Refusal :=
  let bw := e.sub == 1
  let sum := fun (x : Args) (l : Nat) => carrySum bw (x.a l) (x.b l) (x.c l)
  next (if s.cur.strand = seqIndex then
    runStream .addc e s fun c x s =>
      let args := s.seqArgs c x .addc e
      if (e.d.toNat ≥ 64 || e.c.toNat ≥ 64) && !x.drained then s
      else ((s.seqPut c x e.d.toNat (w32 (sum args 0))).seqPut c x e.c.toNat (carryOut bw (sum args 0))).seqAdvance c e
  else
    runStrand .addc e s (effect noCheck fun i s =>
      let args := i.args s
      let s' := s.writeD i fun l => w32 (sum args l)
      if classOf e.tf.toNat .c = .k then s'.onStrand i.w fun st => st.putK e.c.toNat i.act (Mask.of fun l => (carryOut bw (sum args l)).getLsbD 0)
      else s'.writeS i.w e.c.toNat (carryOut bw (sum args 0))))

/-- NEG (R77). -/
def execNeg (e : Enc) (s : State) : Host.Outcome State Fault Refusal :=
  next (compute .neg e s (some fun x l => -sxw (x.a l)) fun x l => -(x.a l))

/-- ABS (R77). -/
def execAbs (e : Enc) (s : State) : Host.Outcome State Fault Refusal :=
  next (compute .abs e s none fun x l => if (x.a l).getLsbD 31 then -(x.a l) else x.a l)

/-- MUL (R77). -/
def execMul (e : Enc) (s : State) : Host.Outcome State Fault Refusal :=
  next (compute .mul e s (some fun x l => sxw (x.a l) * sxw (x.b l)) fun x l => x.a l * x.b l)

/-- MULH (R77). -/
def execMulh (e : Enc) (s : State) : Host.Outcome State Fault Refusal :=
  next (compute .mulh e s none fun x l => w32 (sxw (x.a l) * sxw (x.b l) / (2 ^ 32 : Nat)))

/-- MULHU (R77). -/
def execMulhu (e : Enc) (s : State) : Host.Outcome State Fault Refusal :=
  next (compute .mulhu e s none fun x l => BitVec.ofNat 32 ((x.a l).toNat * (x.b l).toNat / 2 ^ 32))

/-- MAD (R77). -/
def execMad (e : Enc) (s : State) : Host.Outcome State Fault Refusal :=
  next (compute .mad e s (some fun x l => sxw (x.a l) * sxw (x.b l) + sxw (x.c l)) fun x l => x.a l * x.b l + x.c l)

/-- DIV (R80). -/
def execDiv (e : Enc) (s : State) : Host.Outcome State Fault Refusal := next (compute .div e s none fun x l => divSigned (x.a l) (x.b l))
/-- DIVU (R80). -/
def execDivu (e : Enc) (s : State) : Host.Outcome State Fault Refusal := next (compute .divu e s none fun x l => divUnsigned (x.a l) (x.b l))
/-- REM (R80). -/
def execRem (e : Enc) (s : State) : Host.Outcome State Fault Refusal := next (compute .rem e s none fun x l => remSigned (x.a l) (x.b l))
/-- REMU (R80). -/
def execRemu (e : Enc) (s : State) : Host.Outcome State Fault Refusal := next (compute .remu e s none fun x l => remUnsigned (x.a l) (x.b l))

/-- MIN (R78). -/
def execMin (e : Enc) (s : State) : Host.Outcome State Fault Refusal := next (compute .min e s none fun x l => pickElem e.sub.toNat false false (x.a l) (x.b l))
/-- MAX (R78). -/
def execMax (e : Enc) (s : State) : Host.Outcome State Fault Refusal := next (compute .max e s none fun x l => pickElem e.sub.toNat false true (x.a l) (x.b l))
/-- MINU (R78). -/
def execMinu (e : Enc) (s : State) : Host.Outcome State Fault Refusal := next (compute .minu e s none fun x l => pickElem e.sub.toNat true false (x.a l) (x.b l))
/-- MAXU (R78). -/
def execMaxu (e : Enc) (s : State) : Host.Outcome State Fault Refusal := next (compute .maxu e s none fun x l => pickElem e.sub.toNat true true (x.a l) (x.b l))

/-- CLAMP (R82). -/
def execClamp (e : Enc) (s : State) : Host.Outcome State Fault Refusal := next (compute .clamp e s none fun x l => clampWord (e.sub == 1) (x.a l) (x.b l) (x.c l))

/-- AND (R83). -/
def execAnd (e : Enc) (s : State) : Host.Outcome State Fault Refusal := next (compute .and e s none fun x l => x.a l &&& x.b l)
/-- OR (R83). -/
def execOr (e : Enc) (s : State) : Host.Outcome State Fault Refusal := next (compute .or e s none fun x l => x.a l ||| x.b l)
/-- XOR (R83). -/
def execXor (e : Enc) (s : State) : Host.Outcome State Fault Refusal := next (compute .xor e s none fun x l => x.a l ^^^ x.b l)
/-- ANDN (R83). -/
def execAndn (e : Enc) (s : State) : Host.Outcome State Fault Refusal := next (compute .andn e s none fun x l => x.a l &&& ~~~(x.b l))
/-- NOT (R83). -/
def execNot (e : Enc) (s : State) : Host.Outcome State Fault Refusal := next (compute .not e s none fun x l => ~~~(x.a l))

/-- SHL (R83). -/
def execShl (e : Enc) (s : State) : Host.Outcome State Fault Refusal :=
  next (compute .shl e s (some fun x l => shlExact (sxw (x.a l)) (x.b l).toNat) fun x l => shlWord (x.a l) (x.b l))
where
  /-- x times 2 to the power n (R76); an amount above 63 counts as 64, which lies outside the range for every x but 0. -/
  shlExact (x : Int) (n : Nat) : Int := x * (2 ^ min n 64 : Nat)

/-- SHR (R83). -/
def execShr (e : Enc) (s : State) : Host.Outcome State Fault Refusal := next (compute .shr e s none fun x l => shrWord (x.a l) (x.b l))
/-- SAR (R83). -/
def execSar (e : Enc) (s : State) : Host.Outcome State Fault Refusal := next (compute .sar e s none fun x l => sarWord (x.a l) (x.b l))
/-- ROL (R83). -/
def execRol (e : Enc) (s : State) : Host.Outcome State Fault Refusal := next (compute .rol e s none fun x l => rolWord (x.a l) (x.b l))
/-- BFX (R84). -/
def execBfx (e : Enc) (s : State) : Host.Outcome State Fault Refusal := next (compute .bfx e s none fun x l => bfxWord (e.sub == 1) (x.a l) (x.b l) (x.c l))
/-- BFI (R84). -/
def execBfi (e : Enc) (s : State) : Host.Outcome State Fault Refusal := next (compute .bfi e s none fun x l => bfiWord (x.d l) (x.a l) (x.b l) (x.c l))
/-- POPC (R85). -/
def execPopc (e : Enc) (s : State) : Host.Outcome State Fault Refusal := next (compute .popc e s none fun x l => BitVec.ofNat 32 (Mask.count (x.a l)))
/-- CLZ (R85). -/
def execClz (e : Enc) (s : State) : Host.Outcome State Fault Refusal := next (compute .clz e s none fun x l => clzWord (x.a l))
/-- BREV (R85). -/
def execBrev (e : Enc) (s : State) : Host.Outcome State Fault Refusal := next (compute .brev e s none fun x l => brevWord (x.a l))

/-- LEA (R86). -/
def execLea (e : Enc) (s : State) : Host.Outcome State Fault Refusal :=
  next (compute .lea e s (some fun x l => sxw (x.a l) + sxw (x.b l) * (2 ^ e.sub.toNat : Nat)) fun x l => x.a l + (x.b l <<< e.sub.toNat))

/-- A comparison written as CMP and FCMP write it (R81, R116): mask bits of the active lanes, with .z zeros elsewhere whatever the active mask; or all ones or zero in a uniform register. -/
def compareInto (o : Op) (e : Enc) (s : State) (cond : Args → Nat → Bool) : State :=
  if s.cur.strand = seqIndex then runStream o e s fun c x s => seqWrite e (allOrNone (cond (s.seqArgs c x o e) 0)) c x s
  else runStrand o e s fun i s =>
    if i.dClass = .k then
      let v := Mask.of fun l => i.act.getLsbD l && cond (i.args s) l
      (s.onStrand i.w fun st => st.putK e.d.toNat (if e.qbit 0 then BitVec.allOnes 32 else i.act) v).advance i
    else effect noCheck (fun i s => s.writeD i fun l => allOrNone (cond (i.args s) l)) i s

/-- CMP (R81). -/
def execCmp (e : Enc) (s : State) : Host.Outcome State Fault Refusal := next (compareInto .cmp e s fun x l => condition e.sub.toNat (x.a l) (x.b l))

/-- SETC (R81). -/
def execSetc (e : Enc) (s : State) : Host.Outcome State Fault Refusal :=
  next (compute .setc e s none fun x l =>
    let c := condition e.sub.toNat (x.a l) (x.b l)
    if e.qbit 0 then allOrNone c else if c then 1 else 0)

/-- SEL (R82). -/
def execSel (e : Enc) (s : State) : Host.Outcome State Fault Refusal := next (compute .sel e s none fun x l => if x.c l ≠ 0 then x.a l else x.b l)

/-- DOT4 (R87). -/
def execDot4 (e : Enc) (s : State) : Host.Outcome State Fault Refusal := next (compute .dot4 e s none fun x l => dot4Word e.sub.toNat (x.a l) (x.b l) (x.c l))

end Sys2Proof.Machine
end

