-- ==== Sys2Proof/Machine/Movement.lean ====
section
/-! DEFINITION. The movement and mask instructions (R55 to R68) and the spill stack (R49 to R51). -/

namespace Sys2Proof.Machine
open Sys2Proof

/-- MOV (R56). -/
def execMov (e : Enc) (s : State) : Host.Outcome State Fault Refusal := next (compute .mov e s none fun x l => x.a l)

/-- MOVI (R57). -/
def execMovi (e : Enc) (s : State) : Host.Outcome State Fault Refusal := next (compute .movi e s none fun x l => x.b l)

/-- LANEID (R58): the affine form writes the pair (0, 1). -/
def execLaneid (e : Enc) (s : State) : Host.Outcome State Fault Refusal := next (compute .laneid e s none fun _ l => BitVec.ofNat 32 l)

/-- AFF (R59). -/
def execAff (e : Enc) (s : State) : Host.Outcome State Fault Refusal :=
  next (compute .aff e s (some fun x l => sxw (x.a 0) + l * sxw (x.b 0)) fun x l => x.a 0 + BitVec.ofNat 32 l * x.b 0)

/-- PROM (R60). -/
def execProm (e : Enc) (s : State) : Host.Outcome State Fault Refusal := next (compute .prom e s none fun x l => x.a l)

/-- The active lanes whose value differs from `f` (R61, R62). -/
def Issue.differing (i : Issue) (s : State) (f : Nat → Word) : Mask := Mask.of fun l => i.act.getLsbD l && i.opnd s .a l != f l

/-- ILLEGAL_OPERAND with a lane mask as TVAL, where the mask is not empty. -/
def illegalLanes (m : Mask) : Option Trap := if m = 0 then none else some { cause := .illegalOperand, tval := zx64 m }

/-- DEMS (R61). -/
def execDems (e : Enc) (s : State) : Host.Outcome State Fault Refusal :=
  next (strandOnly .dems e s (effect (fun i s => illegalLanes (i.differing s fun _ => i.opnd s .a i.act.lowest))
    fun i s => s.writeS i.w e.d.toNat (i.opnd s .a i.act.lowest)))

/-- The base that DEMA finds: that of the line through the lowest active lane (R62). -/
def Issue.demaBase (i : Issue) (s : State) : Word := i.opnd s .a i.act.lowest - BitVec.ofNat 32 i.act.lowest * i.opB s

/-- DEMA (R62). -/
def execDema (e : Enc) (s : State) : Host.Outcome State Fault Refusal :=
  next (strandOnly .dema e s (effect (fun i s => illegalLanes (i.differing s fun l => i.demaBase s + BitVec.ofNat 32 l * i.opB s))
    fun i s => s.onStrand i.w fun st => st.putA e.d.toNat (i.demaBase s, i.opB s)))

/-- The check of a new window base (R63). -/
def wbaseTrap (n : Nat) (v : Word) : Option Trap :=
  if v.toNat > 31 ∨ 8 * v.toNat ≥ n then some { cause := .illegalOperand, tval := zx64 v } else none

/-- WBASE (R63). -/
def execWbase (e : Enc) (s : State) : Host.Outcome State Fault Refusal :=
  next (strandOnly .wbase e s (effect (fun i s => wbaseTrap i.st.sp.n (i.opB s))
    fun i s => s.onStrand i.w fun st => { st with sp := { st.sp with wb := 8 * (i.opB s).toNat } }))

/-- WGET (R64). -/
def execWget (e : Enc) (s : State) : Host.Outcome State Fault Refusal :=
  next (strandOnly .wget e s (effect noCheck fun i s => s.writeS i.w e.d.toNat (BitVec.ofNat 32 (i.st.sp.n * 65536 + i.st.sp.wb))))

/-- The check of a new SSP (R66). -/
def sspTrap (st : Strand) (v : Word) : Option Trap :=
  if v.toNat % 4 ≠ 0 ∨ v.toNat < st.base ∨ v.toNat > st.top then some { cause := .illegalOperand, tval := zx64 v } else none

/-- SSPGET (R66). -/
def execSspget (e : Enc) (s : State) : Host.Outcome State Fault Refusal :=
  next (strandOnly .sspget e s (effect noCheck fun i s => s.writeS i.w e.d.toNat (BitVec.ofNat 32 i.st.sp.ssp)))

/-- SSPSET (R66). -/
def execSspset (e : Enc) (s : State) : Host.Outcome State Fault Refusal :=
  next (strandOnly .sspset e s (effect (fun i s => sspTrap i.st (i.opB s))
    fun i s => s.onStrand i.w fun st => { st with sp := { st.sp with ssp := (i.opB s).toNat } }))

/-! The spill stack. -/

/-- Bytes of one register in a spill (R65). -/
def spillSize (sub : Nat) : Nat := match sub with | 0 => 128 | 1 => 4 | 2 => 8 | _ => 4

/-- How many bytes a PUSHM or POPM moves (R65). -/
def Issue.spillBytes (i : Issue) : Nat := (i.e.a.toNat + 1 - i.e.d.toNat) * spillSize i.e.sub.toNat

/-- The words of register `n` of a class in their spill layout (R65), each with its poison mark (R202). -/
def Strand.spillWords (st : Strand) (sub n : Nat) : List (Word × Bool) :=
  match sub with
  | 0 =>
    let v := Tab.get (Lanes.all 0) st.regs.v (st.sp.wb + n)
    let m := Tab.get 0 st.marks.v (st.sp.wb + n)
    (List.range 32).map fun l => (v.at l, m.getLsbD l)
  | 1 => [(Tab.get 0 st.regs.s n, Tab.get 0 st.marks.s n != 0)]
  | 2 => let p := Tab.get (0, 0) st.regs.a n; let m := Tab.get 0 st.marks.a n != 0; [(p.1, m), (p.2, m)]
  | _ => [(st.mask n, Tab.get 0 st.marks.k n != 0)]

/-- A strand with register `n` of a class loaded from its spill words and their marks (R65, R202). -/
def Strand.unspill (st : Strand) (sub n : Nat) (ws : List (Word × Bool)) : Strand :=
  let any := if ws.any (·.2) then BitVec.allOnes 32 else (0 : Mask)
  let lanes := Mask.of fun l => ((ws.getD l (0, false)).2)
  let w := fun (k : Nat) => (ws.getD k (0, false)).1
  let mark := fun (x : Strand) (r : Reg) (m : Mask) => { x with marks := x.marks.mark r m }
  match sub with
  | 0 => mark (st.putV (st.sp.wb + n) (BitVec.allOnes 32) w) (.v (st.sp.wb + n)) lanes
  | 1 => mark (st.putS n (w 0)) (.s n) any
  | 2 => mark (st.putA n (w 0, w 1)) (.a n) any
  | _ => if n = 0 then st else mark (st.putK n (BitVec.allOnes 32) (w 0)) (.k n) any

/-- Words with marks written to LM from a physical byte on. -/
def State.lmPutWords (s : State) (core a : Nat) : List (Word × Bool) → State
  | [] => s
  | (v, m) :: t =>
    let s := s.lmWrite core a 4 v.toNat
    (if m then s.lmMark core a 4 else s).lmPutWords core (a + 4) t

/-- `n` words of LM with their marks. -/
def State.lmGetWords (s : State) (core a n : Nat) : List (Word × Bool) :=
  (List.range n).map fun k => (BitVec.ofNat 32 (s.lmRead core (a + 4 * k) 4), s.lmMarked core (a + 4 * k) 4)

/-- RANGE_CONFLICT over `n` bytes at a window offset, with the lowest conflicting byte as TVAL (R50). -/
def State.windowConflict (s : State) (w : Sid) (u : LockUse) (off n : Nat) : Option Trap :=
  let t := s.tenantOf w.core w.slot
  let p := s.lmPhys w.core w.slot off
  if s.lockConflict w.core u 0 p n t then
    some (Trap.of .rangeConflict (off + ((List.range n).find? fun k => s.lockConflict w.core u 0 (p + k) 1 t).getD 0))
  else none

/-- The checks of PUSHM (R49, R50, R51, R65). -/
def pushmCheck (i : Issue) (s : State) : Option Trap :=
  let n := i.spillBytes
  let ssp := i.st.sp.ssp
  if ssp < i.st.base + n then some { cause := .stackOverflow, tval := d64 ((ssp : Int) - n) }
  else
    let clobber := match i.st.region with
      | some r => if ssp > r.ssp then some { cause := Cause.idemClobber, tval := BitVec.ofNat 64 (2 ^ 63 + r.ssp * 2 ^ 32 + (ssp - n)) } else none
      | none => none
    match clobber with
    | some t => some t
    | none => s.windowConflict i.w .write (ssp - n) n

/-- PUSHM (R65): the lowest register at the lowest address. In run-ahead the LM writes are suppressed (R201). -/
def execPushm (e : Enc) (s : State) : Host.Outcome State Fault Refusal :=
  next (strandOnly .pushm e s (effect pushmCheck fun i s =>
    let new := i.st.sp.ssp - i.spillBytes
    let words := (List.range (e.a.toNat + 1 - e.d.toNat)).flatMap fun k => i.st.spillWords e.sub.toNat (e.d.toNat + k)
    let s := if i.st.ahead.isSome then s else s.lmPutWords i.w.core (s.lmPhys i.w.core i.w.slot new) words
    s.onStrand i.w fun st => { st with sp := { st.sp with ssp := new } }))

/-- The checks of POPM (R49, R50, R65). -/
def popmCheck (i : Issue) (s : State) : Option Trap :=
  let n := i.spillBytes
  let ssp := i.st.sp.ssp
  if ssp + n > i.st.top then some (Trap.of .stackOverflow (ssp + n)) else s.windowConflict i.w .read ssp n

/-- POPM (R65). -/
def execPopm (e : Enc) (s : State) : Host.Outcome State Fault Refusal :=
  next (strandOnly .popm e s (effect popmCheck fun i s =>
    let ssp := i.st.sp.ssp
    let sz := spillSize e.sub.toNat
    let p := s.lmPhys i.w.core i.w.slot ssp
    s.onStrand i.w fun st =>
      let st := (List.range (e.a.toNat + 1 - e.d.toNat)).foldl (fun st k =>
        st.unspill e.sub.toNat (e.d.toNat + k) (s.lmGetWords i.w.core (p + k * sz) (sz / 4))) st
      { st with sp := { st.sp with ssp := ssp + i.spillBytes } }))

/-! Masks. -/

/-- KMOV (R67): from a mask, or from the bits of a uniform value. -/
def execKmov (e : Enc) (s : State) : Host.Outcome State Fault Refusal :=
  next (strandOnly .kmov e s (effect noCheck fun i s => s.writeD i fun l => if e.tf = 30 then i.opnd s .a l >>> l else i.opnd s .a l))

/-- KAND (R67). -/
def execKand (e : Enc) (s : State) : Host.Outcome State Fault Refusal :=
  next (strandOnly .kand e s (effect noCheck fun i s => s.writeD i fun l => i.opnd s .a l &&& i.opnd s .b l))
/-- KOR (R67). -/
def execKor (e : Enc) (s : State) : Host.Outcome State Fault Refusal :=
  next (strandOnly .kor e s (effect noCheck fun i s => s.writeD i fun l => i.opnd s .a l ||| i.opnd s .b l))
/-- KXOR (R67). -/
def execKxor (e : Enc) (s : State) : Host.Outcome State Fault Refusal :=
  next (strandOnly .kxor e s (effect noCheck fun i s => s.writeD i fun l => i.opnd s .a l ^^^ i.opnd s .b l))
/-- KNOT (R67). -/
def execKnot (e : Enc) (s : State) : Host.Outcome State Fault Refusal :=
  next (strandOnly .knot e s (effect noCheck fun i s => s.writeD i fun l => ~~~(i.opnd s .a l)))

/-- KPOP (R68): every bit counts, whatever the masks. -/
def execKpop (e : Enc) (s : State) : Host.Outcome State Fault Refusal :=
  next (strandOnly .kpop e s (effect noCheck fun i s => s.writeS i.w e.d.toNat (BitVec.ofNat 32 (Mask.count (i.st.mask e.a.toNat)))))
/-- KFF (R68): the lowest set bit, or 32. -/
def execKff (e : Enc) (s : State) : Host.Outcome State Fault Refusal :=
  next (strandOnly .kff e s (effect noCheck fun i s => s.writeS i.w e.d.toNat (BitVec.ofNat 32 (Mask.lowest (i.st.mask e.a.toNat)))))

end Sys2Proof.Machine
end

