-- ==== Sys2Proof/Machine/Numbers.lean ====
section
/-! DEFINITION. Number formats and rounding (R88 to R104): exact values, Round, Sat, the stochastic generator, conversions, and the exact values of the arithmetic functions of R114. -/

namespace Sys2Proof.Machine
open Sys2Proof

/-- The rounding modes (R94). -/
inductive RMode | rne | rtz | rup | rdn | rs
  deriving DecidableEq, Repr

/-- RM of MODE (R94); the codes 101 to 111 are never held. -/
def RMode.of (n : Nat) : RMode := match n with | 0 => .rne | 1 => .rtz | 2 => .rup | 3 => .rdn | _ => .rs

/-- A floating-point format (R90). -/
structure Fmt where
  e : Nat
  m : Nat
  bias : Nat
  inf : Bool
  nan : Bool
  deriving DecidableEq, Repr

/-- The floating formats by their code of R110; FP32 for any other number. -/
def fmtOf (code : Nat) : Fmt :=
  match code with
  | 1 => { e := 5, m := 10, bias := 15, inf := true, nan := true }
  | 2 => { e := 8, m := 7, bias := 127, inf := true, nan := true }
  | 3 => { e := 5, m := 2, bias := 15, inf := true, nan := true }
  | 4 => { e := 4, m := 3, bias := 7, inf := false, nan := true }
  | 5 => { e := 3, m := 2, bias := 3, inf := false, nan := false }
  | 6 => { e := 2, m := 3, bias := 1, inf := false, nan := false }
  | 7 => { e := 2, m := 1, bias := 1, inf := false, nan := false }
  | _ => { e := 8, m := 23, bias := 127, inf := true, nan := true }

/-- The width of a format in bits. -/
def Fmt.width (f : Fmt) : Nat := 1 + f.e + f.m

/-- The largest finite encoding (R90). -/
def Fmt.largest (f : Fmt) : Nat :=
  if f.inf then (2 ^ f.e - 1) * 2 ^ f.m - 1 else if f.nan then 2 ^ (f.e + f.m) - 2 else 2 ^ (f.e + f.m) - 1

/-- The canonical NaN (R90, R92); E4M3's is all ones. A format without NaN has none, and 0 stands there (R101). -/
def Fmt.canonical (f : Fmt) : Nat :=
  if !f.nan then 0 else if f.inf then (2 ^ f.e - 1) * 2 ^ f.m + 2 ^ (f.m - 1) else 2 ^ (f.e + f.m) - 1

/-- The infinity of a format that has one (R90). -/
def Fmt.infinity (f : Fmt) : Nat := (2 ^ f.e - 1) * 2 ^ f.m

/-- An exact number s × 2^e. -/
structure Dy where
  s : Int
  e : Int
  deriving DecidableEq, Repr

/-- A decoded value; a zero keeps its sign. -/
inductive FVal
  | nan
  | inf (neg : Bool)
  | num (neg : Bool) (x : Dy)
  deriving DecidableEq, Repr

/-- The value of an encoding (R91). -/
def Fmt.decode (f : Fmt) (x : Nat) : FVal :=
  let neg := bit x (f.e + f.m)
  let e := bits x (f.e + f.m - 1) f.m
  let m := x % 2 ^ f.m
  let sgn := fun (n : Nat) => if neg then -(n : Int) else (n : Int)
  if f.inf ∧ e = 2 ^ f.e - 1 then (if m = 0 then .inf neg else .nan)
  else if f.nan ∧ ¬ f.inf ∧ x % 2 ^ (f.e + f.m) = 2 ^ (f.e + f.m) - 1 then .nan
  else if e = 0 then .num neg { s := sgn m, e := 1 - (f.bias : Int) - f.m }
  else .num neg { s := sgn (2 ^ f.m + m), e := (e : Int) - f.bias - f.m }

/-- A value before rounding: a magnitude lies in [n, n + 1) × 2^e with n > 0, and equals n × 2^e unless `sticky`. -/
inductive XReal
  | nan
  | inf (neg : Bool)
  | zero (neg : Bool)
  | mag (neg : Bool) (n : Nat) (e : Int) (sticky : Bool)
  deriving DecidableEq, Repr

/-- An exact number as a value to round; `neg` is the sign of a zero. -/
def Dy.toX (x : Dy) (neg : Bool) : XReal := if x.s = 0 then .zero neg else .mag (decide (x.s < 0)) x.s.natAbs x.e false

/-- A decoded value as a value to round. -/
def FVal.toX : FVal → XReal
  | .nan => .nan
  | .inf n => .inf n
  | .num n x => x.toX n

/-- A value that Round returns: finite values are k × 2^e. -/
inductive Rounded
  | nan
  | inf (neg : Bool)
  | zero (neg : Bool)
  | fin (neg : Bool) (k : Nat) (e : Int)
  deriving DecidableEq, Repr

/-- k × 2^e is greater than k' × 2^e'. -/
def dyGt (k : Nat) (e : Int) (k' : Nat) (e' : Int) : Bool :=
  if e' ≤ e then decide (k * 2 ^ (e - e').toNat > k') else decide (k > k' * 2 ^ (e' - e).toNat)

/-- Rounding a magnitude to multiples of 2^q: Floor(m / q) and whether to round up (R98). -/
def roundUnits (neg : Bool) (n : Nat) (e : Int) (sticky : Bool) (q : Int) (rm : RMode) (rand : Nat) : Nat :=
  if q ≤ e then n * 2 ^ (e - q).toNat + (if sticky && ((rm == .rup && !neg) || (rm == .rdn && neg)) then 1 else 0)
  else
    let d := (q - e).toNat
    let t := n / 2 ^ d
    let r := n % 2 ^ d
    let half := 2 ^ (d - 1)
    let pos := sticky || r != 0
    let up := match rm with
      | .rne => decide (r > half) || (r == half && (sticky || t % 2 == 1))
      | .rtz => false
      | .rup => pos && !neg
      | .rdn => pos && neg
      | .rs => decide (r * 2 ^ 16 / 2 ^ d + rand ≥ 2 ^ 16)
    if up then t + 1 else t

/-- Round (R98); `rand` is what RandBits gives. -/
def roundTo (f : Fmt) (rm : RMode) (rand : Nat) : XReal → Rounded
  | .nan => .nan
  | .inf n => .inf n
  | .zero n => .zero n
  | .mag neg n e sticky =>
    let l := (Nat.log2 n : Int) + e
    let q := (max l (1 - (f.bias : Int))) - f.m
    let k := roundUnits neg n e sticky q rm rand
    let big := match f.decode f.largest with | .num _ x => (x.s.natAbs, x.e) | _ => (0, 0)
    if k = 0 then .zero neg
    else if dyGt k q big.1 big.2 then
      (if rm = .rne ∨ rm = .rs ∨ (rm = .rup ∧ ¬ neg) ∨ (rm = .rdn ∧ neg) then .inf neg else .fin neg big.1 big.2)
    else .fin neg k q

/-- The encoding of k × 2^e, a value of the format (R91). -/
def Fmt.encode (f : Fmt) (neg : Bool) (k : Nat) (e : Int) : Nat :=
  let l := (Nat.log2 k : Int) + e
  let s := if neg then 2 ^ (f.e + f.m) else 0
  let scale := fun (q : Int) => if q ≤ e then k * 2 ^ (e - q).toNat else k / 2 ^ (q - e).toNat
  if l < 1 - (f.bias : Int) then s + scale (1 - (f.bias : Int) - f.m)
  else s + (l + f.bias).toNat * 2 ^ f.m + (scale (l - f.m) - 2 ^ f.m)

/-- Sat (R101): the encoding under a saturation setting, 0 OVF, 1 SAT, 2 SATZ. -/
def Fmt.sat (f : Fmt) (field : Nat) (r : Rounded) : Nat :=
  let sign := fun (neg : Bool) => if neg then 2 ^ (f.e + f.m) else 0
  match r with
  | .nan => if field = 2 then 0 else f.canonical
  | .inf neg => if f.inf ∧ field = 0 then sign neg + f.infinity else if f.nan ∧ ¬ f.inf ∧ field = 0 then f.canonical else sign neg + f.largest
  | .zero neg => sign neg
  | .fin neg k e => f.encode neg k e

/-- The saturation field of MODE for a floating format (R94, R101). -/
def satField (mode : Dbl) (code : Nat) : Nat :=
  match code with
  | 1 => bits mode.toNat 5 4
  | 2 => bits mode.toNat 7 6
  | 3 => bits mode.toNat 9 8
  | 4 => bits mode.toNat 11 10
  | 5 => bits mode.toNat 13 12
  | 6 => bits mode.toNat 15 14
  | 7 => bits mode.toNat 17 16
  | _ => 0

/-- RM of MODE. -/
def modeRm (mode : Dbl) : RMode := RMode.of (bits mode.toNat 2 0)

/-- Whether a 64-bit value holds a reserved value in RM or in a saturation field (R94, R95). -/
def modeBad (v : Dbl) : Bool :=
  decide (bits v.toNat 2 0 > 4) || [4, 6, 8, 10, 12, 14, 16].any fun k => bits v.toNat (k + 1) k == 3

/-- MODE without its reserved bits (R3, R94). -/
def modeClean (v : Dbl) : Dbl := v &&& 0xFFFFFFFFFF03FFF7

/-- Mix (R99). -/
def mix (h : Word) : Word :=
  let h := h ^^^ (h >>> 16)
  let h := h * 0x7FEB352D
  let h := h ^^^ (h >>> 15)
  let h := h * 0x846CA68B
  h ^^^ (h >>> 16)

/-- RandBits (R99). -/
def randBits (mode : Dbl) (pc : Pc) (lane elem : Nat) : Nat :=
  let seed := bits mode.toNat 63 40
  let step := bits mode.toNat 39 24
  let x : Word := BitVec.ofNat 32 (seed * 256 + (lane % 32) * 8 + elem % 8)
  let y : Word := BitVec.ofNat 32 (step * 65536 + bits pc.toNat 17 2)
  (mix (x ^^^ mix y)).toNat / 65536

/-- MODE after STEP advanced by one (R100). -/
def stepMode (mode : Dbl) : Dbl := BitVec.ofNat 64 (setBits mode.toNat 39 24 (bits mode.toNat 39 24 + 1))

/-! Exact operations. -/

/-- Sum of two exact numbers. -/
def Dy.add (x y : Dy) : Dy :=
  let e := min x.e y.e
  { s := x.s * 2 ^ (x.e - e).toNat + y.s * 2 ^ (y.e - e).toNat, e := e }

/-- Product of two exact numbers. -/
def Dy.mul (x y : Dy) : Dy := { s := x.s * y.s, e := x.e + y.e }

/-- Negation. -/
def Dy.neg (x : Dy) : Dy := { x with s := -x.s }

/-- x is less than y. -/
def Dy.lt (x y : Dy) : Bool := decide ((x.add y.neg).s < 0)

/-- The negative of a decoded value. -/
def FVal.neg : FVal → FVal
  | .nan => .nan
  | .inf n => .inf !n
  | .num n x => .num (!n) x.neg

/-- The sum (R98, R114): the zero of opposite operands is +0, under RDN -0. -/
def FVal.add (x y : FVal) (rm : RMode) : XReal :=
  match x, y with
  | .nan, _ => .nan
  | _, .nan => .nan
  | .inf a, .inf b => if a = b then .inf a else .nan
  | .inf a, .num _ _ => .inf a
  | .num _ _, .inf b => .inf b
  | .num a p, .num b q =>
    let r := p.add q
    r.toX (if p.s = 0 ∧ q.s = 0 ∧ a = b then a else rm == .rdn)

/-- Whether a decoded value is a zero. -/
def FVal.isZero : FVal → Bool | .num _ x => x.s == 0 | _ => false

/-- The sign of a decoded value. -/
def FVal.sign : FVal → Bool | .nan => false | .inf n => n | .num n _ => n

/-- The exact product (R114). -/
def FVal.mul (x y : FVal) : FVal :=
  match x, y with
  | .nan, _ => .nan
  | _, .nan => .nan
  | .inf a, y => if y.isZero then .nan else .inf (xor a y.sign)
  | x, .inf b => if x.isZero then .nan else .inf (xor b x.sign)
  | .num a p, .num b q => .num (xor a b) (p.mul q)

/-- x × y + z (R114). -/
def FVal.fma (x y z : FVal) (rm : RMode) : XReal := (x.mul y).add z rm

/-- The quotient of two magnitudes to more bits than any rounding uses, and whether it is inexact. -/
def quotient (neg : Bool) (n : Nat) (e : Int) (n' : Nat) (e' : Int) : XReal :=
  let k := 64 + Nat.log2 n'
  let q := n * 2 ^ k / n'
  .mag neg q (e - e' - k) (n * 2 ^ k % n' != 0)

/-- x / y (R114). -/
def FVal.div (x y : FVal) : XReal :=
  let neg := xor x.sign y.sign
  match x, y with
  | .nan, _ => .nan
  | _, .nan => .nan
  | .inf _, .inf _ => .nan
  | .inf _, .num _ _ => .inf neg
  | .num _ _, .inf _ => .zero neg
  | .num _ p, .num _ q =>
    if p.s = 0 then (if q.s = 0 then .nan else .zero neg)
    else if q.s = 0 then .inf neg
    else quotient neg p.s.natAbs p.e q.s.natAbs q.e

/-- The integer square root, found from the top of `k` bits. -/
def isqrt (n : Nat) : Nat → Nat → Nat
  | 0, r => r
  | k + 1, r => isqrt n k (if (r + 2 ^ k) * (r + 2 ^ k) ≤ n then r + 2 ^ k else r)

/-- Floor(√n). -/
def natSqrt (n : Nat) : Nat := isqrt n (Nat.log2 n / 2 + 1) 0

/-- √x (R114). -/
def FVal.sqrt (x : FVal) : XReal :=
  match x with
  | .nan => .nan
  | .inf n => if n then .nan else .inf false
  | .num n p =>
    if p.s = 0 then .zero n
    else if n then .nan
    else
      let odd := (p.e % 2).toNat
      let m := p.s.natAbs * 2 ^ (128 + odd)
      let r := natSqrt m
      .mag false r ((p.e - odd) / 2 - 64) (r * r != m)

/-- 1 / √x (R114). -/
def FVal.rsqrt (x : FVal) : XReal :=
  match x with
  | .nan => .nan
  | .inf n => if n then .nan else .zero false
  | .num n p =>
    if p.s = 0 then .inf n
    else if n then .nan
    else
      let odd := (p.e % 2).toNat
      let m := p.s.natAbs * 2 ^ odd
      let r := natSqrt (2 ^ 256 / m)
      .mag false r (-((p.e - odd) / 2) - 128) (r * r * m != 2 ^ 256)

/-! Transcendental functions: enclosures in units of 2^-p, refined until they decide the value. -/

/-- A closed interval of integers, in units of 2^-p. -/
structure Encl where
  lo : Int
  hi : Int
  deriving DecidableEq, Repr

/-- Division rounded down and up by a positive number. -/
def fdivI (x : Int) (n : Nat) : Int := x / (n : Int)
/-- Division rounded up by a positive number. -/
def cdivI (x : Int) (n : Nat) : Int := -((-x) / (n : Int))

/-- The product of two enclosures of numbers that are not negative. -/
def Encl.mul (p : Nat) (x y : Encl) : Encl := { lo := fdivI (x.lo * y.lo) (2 ^ p), hi := cdivI (x.hi * y.hi) (2 ^ p) }
/-- An enclosure divided by a positive integer. -/
def Encl.divN (x : Encl) (n : Nat) : Encl := { lo := fdivI x.lo n, hi := cdivI x.hi n }
/-- Sum. -/
def Encl.add (x y : Encl) : Encl := { lo := x.lo + y.lo, hi := x.hi + y.hi }
/-- Difference. -/
def Encl.sub (x y : Encl) : Encl := { lo := x.lo - y.hi, hi := x.hi - y.lo }
/-- A multiple by a natural number. -/
def Encl.times (x : Encl) (n : Nat) : Encl := { lo := x.lo * n, hi := x.hi * n }

/-- A fraction a / b in units of 2^-p. -/
def Encl.frac (p a b : Nat) : Encl := { lo := fdivI ((a : Int) * 2 ^ p) b, hi := cdivI ((a : Int) * 2 ^ p) b }

/-- The sum of z^(2k+1) / (2k+1) from a term on, signs alternating when `alt`: `t` is z^(2k+1) and `z2` is z². What is left after the last term is bounded by that term. -/
def oddSeries (p : Nat) (z2 : Encl) (alt : Bool) : Nat → Nat → Encl → Encl → Encl
  | 0, _, t, acc => { lo := acc.lo - t.hi, hi := acc.hi + t.hi }
  | n + 1, k, t, acc =>
    let u := t.divN (2 * k + 1)
    oddSeries p z2 alt n (k + 1) (t.mul p z2) (if alt && k % 2 == 1 then acc.sub u else acc.add u)

/-- ln 2 = 2 × artanh(1/3). -/
def ln2 (p : Nat) : Encl :=
  let z := Encl.frac p 1 3
  (oddSeries p (z.mul p z) false (p / 3 + 4) 0 z { lo := 0, hi := 0 }).times 2

/-- arctan(1/n). -/
def atanInv (p n : Nat) : Encl :=
  let z := Encl.frac p 1 n
  oddSeries p (z.mul p z) true (p / 4 + 4) 0 z { lo := 0, hi := 0 }

/-- π = 16 arctan(1/5) − 4 arctan(1/239). -/
def piE (p : Nat) : Encl := ((atanInv p 5).times 16).sub ((atanInv p 239).times 4)

/-- The sum of y^k / k! from a term on; `t` is the term k. What is left after the last term is bounded by it. -/
def expSeries (p : Nat) (y : Encl) : Nat → Nat → Encl → Encl → Encl
  | 0, _, t, acc => { lo := acc.lo, hi := acc.hi + t.hi + t.hi }
  | n + 1, k, t, acc => expSeries p y n (k + 1) ((t.mul p y).divN (k + 1)) (acc.add t)

/-- e^y for y from 0 to 1. -/
def expE (p : Nat) (y : Encl) : Encl := expSeries p y (p / 4 + 12) 0 { lo := 2 ^ p, hi := 2 ^ p } { lo := 0, hi := 0 }

/-- The sum of (-1)^k y^(2k+1) / (2k+1)! from a term on. -/
def sinSeries (p : Nat) (y2 : Encl) : Nat → Nat → Encl → Encl → Encl
  | 0, _, t, acc => { lo := acc.lo - t.hi, hi := acc.hi + t.hi }
  | n + 1, k, t, acc =>
    sinSeries p y2 n (k + 1) ((t.mul p y2).divN ((2 * k + 2) * (2 * k + 3))) (if k % 2 == 1 then acc.sub t else acc.add t)

/-- sin y for y from 0 to π/2. -/
def sinE (p : Nat) (y : Encl) : Encl := sinSeries p (y.mul p y) (p / 6 + 12) 0 y { lo := 0, hi := 0 }

/-- ln m for m = a / 2^b from 1 to 2: 2 × artanh((m − 1) / (m + 1)). -/
def lnE (p a b : Nat) : Encl :=
  let z := Encl.frac p (a - 2 ^ b) (a + 2 ^ b)
  (oddSeries p (z.mul p z) false (p / 3 + 4) 0 z { lo := 0, hi := 0 }).times 2

/-- The quotient of an enclosure by a positive one, in units of 2^-p. -/
def Encl.quot (p : Nat) (x y : Encl) : Encl :=
  let c := [fdivI (x.lo * 2 ^ p) y.lo.toNat, fdivI (x.lo * 2 ^ p) y.hi.toNat]
  let d := [cdivI (x.hi * 2 ^ p) y.lo.toNat, cdivI (x.hi * 2 ^ p) y.hi.toNat]
  { lo := min (c.getD 0 0) (c.getD 1 0), hi := max (d.getD 0 0) (d.getD 1 0) }

/-- The value that an enclosure in units of 2^-p decides, if it decides one: an irrational value whose first 64 bits the two ends share. -/
def Encl.decided (p : Nat) (x : Encl) : Option XReal :=
  let neg := decide (x.hi < 0)
  let a := if neg then -x.hi else x.lo
  let b := if neg then -x.lo else x.hi
  if a ≤ 0 then none
  else
    let d := Nat.log2 a.toNat - 63
    if a.toNat / 2 ^ d = b.toNat / 2 ^ d ∧ d > 0 then some (.mag neg (a.toNat / 2 ^ d) ((d : Int) - p) true) else none

/-- The first enclosure that decides, among those of the precisions given. -/
def decideBy (f : Nat → Encl) : List Nat → Option XReal
  | [] => none
  | p :: t => match (f p).decided p with | some x => some x | none => decideBy f t

/-- The magnitude of a positive number too small for any format, for rounding. -/
def tiny (neg : Bool) : XReal := .mag neg 1 (-1000) true

/-- 2^x (R114); none where no precision tried decides the value. -/
def FVal.exp2 (x : FVal) : Option XReal :=
  match x with
  | .nan => some .nan
  | .inf n => some (if n then .zero false else .inf false)
  | .num _ d =>
    if d.s = 0 then some (.mag false 1 0 false)
    else if d.e ≥ 8 ∨ decide (d.s.natAbs * 2 ^ (d.e + 160).toNat ≥ 2 ^ 168) then some (if d.s < 0 then tiny false else .mag false 1 256 false)
    else
      let u := (-d.e).toNat
      let v : Int := if d.e ≥ 0 then d.s * 2 ^ d.e.toNat else d.s
      let whole := v / (2 ^ u : Nat)
      let part := (v % (2 ^ u : Nat)).toNat
      if part = 0 then some (.mag false 1 whole false)
      else
        let f := fun (p : Nat) =>
          let y := (Encl.frac p part (2 ^ u)).mul p (ln2 p)
          let r := expE p y
          ({ lo := max r.lo (2 ^ p), hi := min r.hi (2 ^ (p + 1) - 1) } : Encl)
        match decideBy f [128, 256, 512] with
        | some (.mag n k e st) => some (.mag n k (e + whole) st)
        | r => r

/-- log2 x (R114). -/
def FVal.log2 (x : FVal) : Option XReal :=
  match x with
  | .nan => some .nan
  | .inf n => some (if n then .nan else .inf false)
  | .num neg d =>
    if d.s = 0 then some (.inf true)
    else if neg then some .nan
    else
      let n := d.s.natAbs
      let b := Nat.log2 n
      let whole : Int := b + d.e
      if n = 2 ^ b then some (({ s := whole, e := 0 } : Dy).toX false)
      else decideBy (fun p =>
        let r := (lnE p n b).quot p (ln2 p)
        { lo := whole * 2 ^ p + r.lo, hi := whole * 2 ^ p + r.hi }) [160, 320, 640]

/-- sin(π × a / 2^u) (R114); `zero` is the sign of a zero. -/
def sinHalfTurns (a : Int) (u : Nat) (zero : Bool) : Option XReal :=
  let m := (a % (2 ^ (u + 1) : Nat)).toNat
  let neg := decide (m ≥ 2 ^ u)
  let r := m % 2 ^ u
  let r := if 2 * r > 2 ^ u then 2 ^ u - r else r
  if r = 0 then some (.zero zero)
  else if 2 * r = 2 ^ u then some (.mag neg 1 0 false)
  else
    let base := u - Nat.log2 r
    match decideBy (fun p =>
      let y := (Encl.frac p r (2 ^ u)).mul p (piE p)
      let s := sinE p y
      { lo := s.lo, hi := min s.hi (2 ^ p - 1) }) [base + 128, base + 256, base + 512] with
    | some (.mag _ k e st) => some (.mag neg k e st)
    | r => r

/-- sin(π × x) (R114): an integer gives a zero with the sign of x. -/
def FVal.sinPi (x : FVal) : Option XReal :=
  match x with
  | .nan => some .nan
  | .inf _ => some .nan
  | .num n d => if d.e ≥ 0 then some (.zero n) else sinHalfTurns d.s (-d.e).toNat n

/-- cos(π × x) = sin(π × (x + 1/2)) (R114): its zeros are +0. -/
def FVal.cosPi (x : FVal) : Option XReal :=
  match x with
  | .nan => some .nan
  | .inf _ => some .nan
  | .num _ d =>
    let y := d.add { s := 1, e := -1 }
    sinHalfTurns y.s (-y.e).toNat false

/-! Integers. -/

/-- The limits of an integer format by its code of R110 (R88): signed, and the width. -/
def intFmt (code : Nat) : Bool × Nat :=
  match code with
  | 8 => (true, 32) | 9 => (false, 32) | 10 => (true, 16) | 11 => (false, 16)
  | 12 => (true, 8) | 13 => (false, 8) | 14 => (true, 4) | _ => (false, 4)

/-- The width of any format code (R88, R90). -/
def codeWidth (code : Nat) : Nat := if code < 8 then (fmtOf code).width else (intFmt code).2

/-- An integer limited to an integer format (R103). -/
def clampInt (code : Nat) (x : Int) : Int :=
  let (s, w) := intFmt code
  let lo : Int := if s then -(2 ^ (w - 1) : Nat) else 0
  let hi : Int := if s then (2 ^ (w - 1) : Nat) - 1 else (2 ^ w : Nat) - 1
  if x < lo then lo else if x > hi then hi else x

/-- A conversion to an integer format (R103): rounded with q = 1, then limited. -/
def toInt (code : Nat) (rm : RMode) (rand : Nat) (x : XReal) : Int :=
  match x with
  | .nan => 0
  | .inf n => clampInt code (if n then -(2 ^ 64 : Nat) else (2 ^ 64 : Nat))
  | .zero _ => 0
  | .mag neg n e st =>
    let k := roundUnits neg n e st 0 rm rand
    clampInt code (if neg then -(k : Int) else k)

/-- An element of an integer format as its integer. -/
def fromInt (code : Nat) (x : Nat) : Int := let (s, w) := intFmt code; if s then sx x w else ((x % 2 ^ w : Nat) : Int)

/-- Rounding to an integral value of the same format (R119). -/
def roundIntegral (f : Fmt) (rm : RMode) (rand : Nat) (x : Nat) : Nat :=
  match f.decode x with
  | .nan => f.canonical
  | .inf _ => x
  | .num neg d =>
    if d.s = 0 ∨ d.e ≥ 0 then x
    else
      let k := roundUnits neg d.s.natAbs d.e false 0 rm rand
      if k = 0 then (if neg then 2 ^ (f.e + f.m) else 0) else f.encode neg k 0

end Sys2Proof.Machine
end

