-- ==== Sys2Proof/Machine/Float.lean ====
section
/-! DEFINITION. The floating-point, conversion and function-table instructions (R109 to R130). -/

namespace Sys2Proof.Machine
open Sys2Proof

/-- A value written in a floating format under MODE (R102): `lane` and `elem` are the inputs of R99. -/
def roundIn (mode : Dbl) (pc : Pc) (code : Nat) (rm : RMode) (lane elem : Nat) (x : XReal) : Nat :=
  (fmtOf code).sat (satField mode code) (roundTo (fmtOf code) rm (randBits mode pc lane elem) x)

/-- A value written by an issue under MODE.RM. -/
def Issue.rounded (i : Issue) (code lane elem : Nat) (x : XReal) : Nat :=
  roundIn i.st.sp.mode i.pc code (modeRm i.st.sp.mode) lane elem x

/-- STEP advanced after an instruction whose effective mode is `rm` (R100): when that is RS and the active mask is the live mask. -/
def State.stepped (s : State) (i : Issue) (rm : RMode) : State :=
  if rm = .rs ∧ i.act = i.st.live then s.onStrand i.w fun st => { st with sp := { st.sp with mode := stepMode st.sp.mode } } else s

/-- The format of a .h2, .bh2 or plain form (R110). -/
def pairFmt (sub : Nat) : Nat := match sub with | 0 => 0 | 1 => 1 | _ => 2

/-- A function of words applied to the one FP32 element or to the two 16-bit elements of its operands; `f` takes the element index and the elements (R112). -/
def byElement (sub : Nat) (f : Nat → Nat → Nat → Nat → Nat) (x y z : Word) : Word :=
  if sub = 0 then BitVec.ofNat 32 (f 0 x.toNat y.toNat z.toNat)
  else
    let h := fun (w : Word) (j : Nat) => bits w.toNat (16 * j + 15) (16 * j)
    BitVec.ofNat 32 (f 0 (h x 0) (h y 0) (h z 0) % 65536 + f 1 (h x 1) (h y 1) (h z 1) % 65536 * 65536)

/-- An instruction that computes a real value from decoded operands and rounds it once under MODE (R112). -/
def floatOp (o : Op) (e : Enc) (s : State) (f : RMode → FVal → FVal → FVal → XReal) : Host.Outcome State Fault Refusal :=
  next (strandOnly o e s (effect noCheck fun i s =>
    let code := pairFmt e.sub.toNat
    let d := (fmtOf code).decode
    let rm := modeRm i.st.sp.mode
    let x := i.args s
    (s.writeD i fun l => byElement e.sub.toNat (fun j p q r => i.rounded code l j (f rm (d p) (d q) (d r))) (x.a l) (x.b l) (x.c l)).stepped i rm))

/-- FADD (R114). -/
def execFadd (e : Enc) (s : State) : Host.Outcome State Fault Refusal := floatOp .fadd e s fun rm x y _ => x.add y rm
/-- FSUB (R114). -/
def execFsub (e : Enc) (s : State) : Host.Outcome State Fault Refusal := floatOp .fsub e s fun rm x y _ => x.add y.neg rm
/-- FMUL (R114). -/
def execFmul (e : Enc) (s : State) : Host.Outcome State Fault Refusal := floatOp .fmul e s fun _ x y _ => (x.mul y).toX
/-- FFMA (R114). -/
def execFfma (e : Enc) (s : State) : Host.Outcome State Fault Refusal := floatOp .ffma e s fun rm x y z => x.fma y z rm
/-- FDIV (R114). -/
def execFdiv (e : Enc) (s : State) : Host.Outcome State Fault Refusal := floatOp .fdiv e s fun _ x y _ => x.div y
/-- FSQRT (R114). -/
def execFsqrt (e : Enc) (s : State) : Host.Outcome State Fault Refusal := floatOp .fsqrt e s fun _ x _ _ => x.sqrt
/-- FRCP (R114). -/
def execFrcp (e : Enc) (s : State) : Host.Outcome State Fault Refusal := floatOp .frcp e s fun _ x _ _ => (FVal.num false { s := 1, e := 0 }).div x
/-- FRSQ (R114). -/
def execFrsq (e : Enc) (s : State) : Host.Outcome State Fault Refusal := floatOp .frsq e s fun _ x _ _ => x.rsqrt

/-- A transcendental function rounded once (R114); where no precision tried decides its value, the result is free. -/
def transOp (o : Op) (e : Enc) (s : State) (f : FVal → Option XReal) : Host.Outcome State Fault Refusal :=
  next (strandOnly o e s (effect noCheck fun i s =>
    (s.writeD i fun l =>
      let x := i.opnd s .a l
      match f ((fmtOf 0).decode x.toNat) with
      | some v => BitVec.ofNat 32 (i.rounded 0 l 0 v)
      | none => Config.undecided o.code x).stepped i (modeRm i.st.sp.mode)))

/-- FEXP2 (R114). -/
def execFexp2 (e : Enc) (s : State) : Host.Outcome State Fault Refusal := transOp .fexp2 e s FVal.exp2
/-- FLOG2 (R114). -/
def execFlog2 (e : Enc) (s : State) : Host.Outcome State Fault Refusal := transOp .flog2 e s FVal.log2
/-- FSIN (R114). -/
def execFsin (e : Enc) (s : State) : Host.Outcome State Fault Refusal := transOp .fsin e s FVal.sinPi
/-- FCOS (R114). -/
def execFcos (e : Enc) (s : State) : Host.Outcome State Fault Refusal := transOp .fcos e s FVal.cosPi

/-- x orders below y, −0 below +0 (R115). -/
def FVal.below (x y : FVal) : Bool :=
  match x, y with
  | .nan, _ => false
  | _, .nan => false
  | .inf a, .inf b => a && !b
  | .inf a, .num _ _ => a
  | .num _ _, .inf b => !b
  | .num a p, .num b q => p.lt q || (!q.lt p && a && !b)

/-- The element that FMIN or FMAX returns (R115). -/
def pickFloat (code : Nat) (greater : Bool) (x y : Nat) : Nat :=
  let f := fmtOf code
  let p := f.decode x
  let q := f.decode y
  if p = .nan then (if q = .nan then f.canonical else y)
  else if q = .nan then x
  else if (if greater then p.below q else q.below p) then y else x

/-- An instruction that moves or tests elements without rounding (R115, R117). -/
def elementOp (o : Op) (e : Enc) (s : State) (f : Nat → Nat → Nat → Nat) : Host.Outcome State Fault Refusal :=
  next (strandOnly o e s (effect noCheck fun i s =>
    let x := i.args s
    s.writeD i fun l => byElement e.sub.toNat (fun _ p q _ => f (pairFmt e.sub.toNat) p q) (x.a l) (x.b l) 0))

/-- FMIN (R115). -/
def execFmin (e : Enc) (s : State) : Host.Outcome State Fault Refusal := elementOp .fmin e s fun c x y => pickFloat c false x y
/-- FMAX (R115). -/
def execFmax (e : Enc) (s : State) : Host.Outcome State Fault Refusal := elementOp .fmax e s fun c x y => pickFloat c true x y
/-- FABS (R115): the sign bit of each element cleared. -/
def execFabs (e : Enc) (s : State) : Host.Outcome State Fault Refusal := elementOp .fabs e s fun c x _ => x % 2 ^ ((fmtOf c).width - 1)
/-- FNEG (R115): the sign bit of each element inverted. -/
def execFneg (e : Enc) (s : State) : Host.Outcome State Fault Refusal :=
  elementOp .fneg e s fun c x _ => (x + 2 ^ ((fmtOf c).width - 1)) % 2 ^ (fmtOf c).width

/-- The conditions of FCMP (R116): a NaN makes .un and .ne true and the others false. -/
def floatCondition (sub : Nat) (x y : FVal) : Bool :=
  let un := x == .nan || y == .nan
  let lt := fun (a b : FVal) => match a, b with
    | .num _ p, .num _ q => p.lt q
    | a, b => a.below b
  let l := lt x y
  let g := lt y x
  match sub with
  | 0 => !un && !l && !g
  | 1 => un || l || g
  | 2 => !un && l
  | 3 => !un && !g
  | 4 => !un && g
  | 5 => !un && !l
  | 6 => un
  | _ => !un

/-- FCMP (R116). -/
def execFcmp (e : Enc) (s : State) : Host.Outcome State Fault Refusal :=
  next (if s.cur.strand = seqIndex then runStream .fcmp e s fun _ _ s => s
    else compareInto .fcmp e s fun x l => floatCondition e.sub.toNat ((fmtOf 0).decode (x.a l).toNat) ((fmtOf 0).decode (x.b l).toNat))

/-- The class bit of an element (R117). -/
def classBit (f : Fmt) (x : Nat) : Nat :=
  match f.decode x with
  | .nan => 8
  | .inf n => if n then 0 else 7
  | .num n d =>
    if d.s = 0 then (if n then 3 else 4)
    else if bits x (f.e + f.m - 1) f.m = 0 then (if n then 2 else 5)
    else if n then 1 else 6

/-- FCLASS (R117): in the pair forms the element is bits 15 to 0. -/
def execFclass (e : Enc) (s : State) : Host.Outcome State Fault Refusal :=
  next (strandOnly .fclass e s (effect noCheck fun i s => s.writeD i fun l =>
    let f := fmtOf (pairFmt e.sub.toNat)
    BitVec.ofNat 32 (2 ^ classBit f ((i.opnd s .a l).toNat % 2 ^ f.width))))

/-! Conversions. -/

/-- The mode of CVT and PACK (R110): MODE.RM or the one that QB names. -/
def Issue.convMode (i : Issue) : RMode :=
  match bits i.e.qb.toNat 2 0 with | 0 => modeRm i.st.sp.mode | k => RMode.of (k - 1)

/-- A value converted to a format (R118): the low bits, an integer sign- or zero-extended. A floating format to itself changes only a NaN (log entry 88). -/
def convert (mode : Dbl) (pc : Pc) (rm : RMode) (lane elem dst src x : Nat) : Word :=
  let x := x % 2 ^ codeWidth src
  let rand := randBits mode pc lane elem
  if src < 8 ∧ dst = src then BitVec.ofNat 32 (match (fmtOf src).decode x with | .nan => (fmtOf src).canonical | _ => x)
  else if src < 8 then
    let v := ((fmtOf src).decode x).toX
    if dst < 8 then BitVec.ofNat 32 (roundIn mode pc dst rm lane elem v) else w32 (toInt dst rm rand v)
  else
    let n := fromInt src x
    if dst < 8 then BitVec.ofNat 32 (roundIn mode pc dst rm lane elem (({ s := n, e := 0 } : Dy).toX false)) else w32 (clampInt dst n)

/-- STEP after an instruction that may name its own mode (R100): it advances only where MODE.RM was used. -/
def State.steppedIf (s : State) (i : Issue) (used : Bool) : State := if used then s.stepped i (modeRm i.st.sp.mode) else s

/-- CVT (R118). -/
def execCvt (e : Enc) (s : State) : Host.Outcome State Fault Refusal :=
  next (strandOnly .cvt e s (effect noCheck fun i s =>
    (s.writeD i fun l => convert i.st.sp.mode i.pc i.convMode l 0 (e.sub.toNat / 16) (e.sub.toNat % 16) (i.opnd s .a l).toNat).steppedIf i
      (bits e.qb.toNat 2 0 == 0)))

/-- CVTI (R119). -/
def execCvti (e : Enc) (s : State) : Host.Outcome State Fault Refusal :=
  next (strandOnly .cvti e s (effect noCheck fun i s =>
    let m := e.sub.toNat % 16
    let f := e.sub.toNat / 16
    let rm := if m = 4 then modeRm i.st.sp.mode else RMode.of m
    (s.writeD i fun l => byElement f (fun j x _ _ => roundIntegral (fmtOf (pairFmt f)) rm (randBits i.st.sp.mode i.pc l j) x) (i.opnd s .a l) 0 0).steppedIf i (m == 4)))

/-- The largest j of PACK and the largest index of UNPK for an element width (R120). -/
def packLimits (w : Nat) : Nat × Nat := match w with | 16 => (0, 1) | 8 => (1, 3) | 6 => (2, 4) | _ => (3, 7)

/-- One element of width `w` placed at position `p` of a word (R89). -/
def putElem (w p : Nat) (x : Word) (v : Nat) : Word := BitVec.ofNat 32 (setBits x.toNat (w * p + w - 1) (w * p) v)

/-- An FP32 or INT32 value converted to an element of PACK (R120). -/
def packElem (mode : Dbl) (pc : Pc) (rm : RMode) (lane pos code : Nat) (x : Word) : Nat :=
  (convert mode pc rm lane pos code (if code < 8 then 0 else 8) x.toNat).toNat

/-- PACK (R120): for the 6-bit formats j = 2 writes element 4 only, and bits 31 and 30 become 0. -/
def execPack (e : Enc) (s : State) : Host.Outcome State Fault Refusal :=
  let code := e.sub.toNat
  let w := codeWidth code
  next (strandOnly .pack e s (effect
    (fun i s => let j := i.opnd s .c 0; if j.toNat > (packLimits w).1 then some { cause := .illegalOperand, tval := zx64 j } else none)
    fun i s =>
      let j := (i.opnd s .c 0).toNat
      (s.writeD i fun l =>
        let x := i.opnd s .d l
        let x := if w = 6 then x &&& 0x3FFFFFFF else x
        let x := putElem w (2 * j) x (packElem i.st.sp.mode i.pc i.convMode l (2 * j) code (i.opnd s .a l))
        if w = 6 ∧ j = 2 then x else putElem w (2 * j + 1) x (packElem i.st.sp.mode i.pc i.convMode l (2 * j + 1) code (i.opnd s .b l))).steppedIf i
          (bits e.qb.toNat 2 0 == 0)))

/-- An element widened exactly to FP32 or INT32 (R121). -/
def unpackElem (code x : Nat) : Word :=
  if code < 8 then BitVec.ofNat 32 ((fmtOf 0).sat 0 (roundTo (fmtOf 0) .rne 0 ((fmtOf code).decode x).toX)) else w32 (fromInt code x)

/-- UNPK (R121). -/
def execUnpk (e : Enc) (s : State) : Host.Outcome State Fault Refusal :=
  let code := e.sub.toNat
  let w := codeWidth code
  next (strandOnly .unpk e s (effect
    (fun i s => let j := i.opB s; if j.toNat > (packLimits w).2 then some { cause := .illegalOperand, tval := zx64 j } else none)
    fun i s =>
      let j := (i.opB s).toNat
      s.writeD i fun l => unpackElem code (bits (i.opnd s .a l).toNat (w * j + w - 1) (w * j))))

/-! MODE. -/

/-- MODEGET (R122). -/
def execModeget (e : Enc) (s : State) : Host.Outcome State Fault Refusal :=
  next (strandOnly .modeget e s (effect noCheck fun i s =>
    s.writeS i.w e.d.toNat (if e.sub = 0 then i.st.sp.mode.setWidth 32 else i.st.sp.mode.extractLsb' 32 32)))

/-- The value that MODESET forms (R123). -/
def formedMode (mode : Dbl) (sub : Nat) (b : Word) : Dbl :=
  match sub with
  | 0 => pair64 (mode.extractLsb' 32 32) b
  | 1 => pair64 b (mode.setWidth 32)
  | 2 => BitVec.ofNat 64 (setBits mode.toNat 2 0 b.toNat)
  | _ => BitVec.ofNat 64 (setBits (setBits mode.toNat 63 40 b.toNat) 39 24 0)

/-- The checks of MODESET, in order (R95, R123). -/
def modesetCheck (i : Issue) (s : State) : Option Trap :=
  let b := i.opB s
  let sub := i.e.sub.toNat
  if (sub = 2 ∧ b.toNat ≥ 8) ∨ (sub = 3 ∧ b.toNat ≥ 2 ^ 24) then some { cause := .illegalOperand, tval := zx64 b }
  else
    let v := formedMode i.st.sp.mode sub b
    if modeBad v then some { cause := .illegalOperand, tval := v } else none

/-- MODESET (R123). -/
def execModeset (e : Enc) (s : State) : Host.Outcome State Fault Refusal :=
  next (strandOnly .modeset e s (effect modesetCheck fun i s =>
    s.onStrand i.w fun st => { st with sp := { st.sp with mode := modeClean (formedMode i.st.sp.mode e.sub.toNat (i.opB s)) } }))

/-! The function table. -/

/-- A value as a decoded one: the exact sums of a table's polynomial. -/
def XReal.toF : XReal → FVal
  | .nan => .nan
  | .inf n => .inf n
  | .zero n => .num n { s := 0, e := 0 }
  | .mag n k e _ => .num n { s := if n then -(k : Int) else k, e := e }

/-- The segment and the fraction t of a LIN or BITS map (R126); `x` has its sign already removed where SYM asks for it. -/
def Bank.place (b : Bank) (bitsOf : Nat) (x : FVal) : Nat × Dy :=
  if !b.bits then
    match x, (fmtOf 0).decode b.lo.toNat, (fmtOf 0).decode b.inv.toNat with
    | .num _ v, .num _ lo, .num _ inv =>
      let z := (v.add lo.neg).mul inv
      if z.s < 0 then (0, { s := 0, e := 0 })
      else if !z.lt { s := b.last + 1, e := 0 } then (b.last, { s := 1, e := 0 })
      else
        let k := if z.e ≥ 0 then z.s * 2 ^ z.e.toNat else z.s / (2 ^ (-z.e).toNat : Nat)
        (k.toNat, z.add { s := -k, e := 0 })
    | .inf n, _, _ => if n then (0, { s := 0, e := 0 }) else (b.last, { s := 1, e := 0 })
    | _, _, _ => (0, { s := 0, e := 0 })
  else
    let key := bitsOf / 2 ^ b.shift
    let base := b.base.toNat
    if key < base then (0, { s := 0, e := 0 })
    else if key - base > b.last then (b.last, { s := 1, e := 0 })
    else (key - base, { s := (bitsOf % 2 ^ b.shift : Nat), e := -(b.shift : Int) })

/-- FTBL of one value (R126): the bits of a NaN, or the exact polynomial value to round. Sign of −0 is taken from its sign bit (log entry 90). -/
def Bank.eval (b : Bank) (rm : RMode) (x : Word) : Word ⊕ XReal :=
  match (fmtOf 0).decode x.toNat with
  | .nan => .inl b.nanv
  | v =>
    let neg := v.sign && b.sym != 0
    let v := if b.sym != 0 && v.sign then v.neg else v
    let xb := if b.sym != 0 then x.toNat % 2 ^ 31 else x.toNat
    let (k, t) := b.place xb v
    let seg := b.segs.getD k (0, 0, 0)
    let c := fun (w : Word) => (fmtOf 0).decode w.toNat
    let tf := FVal.num false t
    let p := (((c seg.1).add ((c seg.2.1).mul tf) rm).toF).add (((c seg.2.2).mul tf).mul tf) rm
    .inr (if neg && b.sym == 2 then p.toF.neg.toX else p)

/-- FTBL of one value rounded (R126). -/
def Bank.evalWord (b : Bank) (mode : Dbl) (pc : Pc) (lane elem : Nat) (x : Word) : Word :=
  match b.eval (modeRm mode) x with
  | .inl w => w
  | .inr v => BitVec.ofNat 32 ((fmtOf 0).sat 0 (roundTo (fmtOf 0) (modeRm mode) (randBits mode pc lane elem) v))

/-- The bank that a comb bound at launch (R127). -/
def State.boundBank (s : State) (core slot : Nat) : Bank := Tab.get {} (s.core core).banks (s.comb core slot).bank

/-- FTBL (R126). -/
def execFtbl (e : Enc) (s : State) : Host.Outcome State Fault Refusal :=
  next (strandOnly .ftbl e s (effect
    (fun i s => if (s.boundBank i.w.core i.w.slot).loaded then none else some (Trap.of .illegalOperand (s.comb i.w.core i.w.slot).bank))
    fun i s =>
      (s.writeD i fun l => (s.boundBank i.w.core i.w.slot).evalWord i.st.sp.mode i.pc l 0 (i.opnd s .a l)).stepped i (modeRm i.st.sp.mode)))

/-- Whether a bank is bound by a resident or saved comb of a core (R127). -/
def State.bankBound (s : State) (core n : Nat) : Bool :=
  ((s.core core).combs.any fun x => match x.2 with | some k => k.bank == n | none => false) || (s.core core).saved.any fun x => x.comb.bank == n

/-- The bank operation that a strand waits at, if any. -/
def Strand.bankWait (st : Strand) : Bool := match st.sched.wait with | some (.tload _ _) => true | some (.tflip _) => true | _ => false

/-- The TLOADs and TFLIPs of a core that wait, in issue order (R130). -/
def State.bankQueue (s : State) (core : Nat) : List Sid :=
  ((s.core core).bankQ.map fun x => ({ core := core, slot := x.1, strand := x.2 } : Sid)).filter fun w => (s.strand w).bankWait

/-- A strand that waits at a TLOAD or TFLIP, the last of its core's queue (R130). -/
def State.bankStand (s : State) (i : Issue) (x : Wait) : State :=
  (s.onCore i.w.core fun k => { k with bankQ := (k.bankQ.filter fun y => y != (i.w.slot, i.w.strand)) ++ [(i.w.slot, i.w.strand)] }).onStrand i.w fun st =>
    { st with sched := { st.sched with wait := some x, waitLen := i.e.bytes } }

/-- Whether the FP32 encoding is finite. -/
def finiteWord (w : Word) : Bool := match (fmtOf 0).decode w.toNat with | .num _ _ => true | _ => false

/-- The image offset of the first bad field of a table image (R125, R128). -/
def imageFault (ctrl lo inv : Word) (segs : List (Word × Word × Word)) : Option Nat :=
  let c := ctrl.toNat
  let map := bits c 1 0
  if bits c 31 28 ≠ 0 ∨ bits c 15 13 ≠ 0 ∨ bits c 7 4 ≠ 0 ∨ map ≥ 2 ∨ bits c 3 2 = 3 ∨ bits c 12 8 > 23 then some 0
  else if map = 0 ∧ ¬ finiteWord lo then some 4
  else if map = 0 ∧ (¬ finiteWord inv ∨ bit inv.toNat 31 ∨ inv.toNat = 0) then some 8
  else ((List.range segs.length).flatMap fun k =>
      let g := segs.getD k (0, 0, 0)
      (if finiteWord g.1 then [] else [64 + 16 * k]) ++ (if finiteWord g.2.1 then [] else [68 + 16 * k]) ++
      (if finiteWord g.2.2 then [] else [72 + 16 * k])).head?

/-- Steps 3 to 5 of a TLOAD (R128): the faults of an LD of the same bytes, the checks of the image, the bank written. -/
def State.tloadRun (s : State) (w : Sid) (bank off : Nat) : Trap ⊕ State :=
  let word := fun (k : Nat) => (BitVec.ofNat 32 (s.winRead w.core w.slot (off + k) 4) : Word)
  if off % 64 ≠ 0 then .inl (Trap.of .misaligned off)
  else if !s.inWindow w.core w.slot off 64 then .inl (Trap.of .pageProtect off)
  else match s.windowConflict w .read off 64 with
    | some t => .inl t
    | none =>
      let last := bits (word 0).toNat 27 16
      let n := 64 + 16 * (last + 1)
      if !s.inWindow w.core w.slot off n then .inl (Trap.of .pageProtect off)
      else match s.windowConflict w .read off n with
        | some t => .inl t
        | none =>
          let segs := (List.range (last + 1)).map fun k => (word (64 + 16 * k), word (68 + 16 * k), word (72 + 16 * k))
          match imageFault (word 0) (word 4) (word 8) segs with
          | some o => .inl (Trap.of .illegalOperand o)
          | none =>
            let c := (word 0).toNat
            let b : Bank := { loaded := true, bits := bits c 1 0 == 1, sym := bits c 3 2, shift := bits c 12 8, last := last,
                              lo := word 4, inv := word 8, base := word 12, nanv := word 16, segs := segs }
            .inr (s.onCore w.core fun k => { k with banks := Tab.put {} k.banks bank b })

/-- TLOAD (R128): in its turn (R130) it loads, or waits while its bank is bound. -/
def execTload (e : Enc) (s : State) : Host.Outcome State Fault Refusal :=
  next (strandOnly .tload e s fun i s =>
    let n := e.b.toNat
    if i.act = 0 then s.advance i
    else if i.st.region.isSome then s.raise i (Trap.of .illegalOperand 0xFFFFFFFF)
    else if (s.bankQueue i.w.core).isEmpty && (s.core i.w.core).curBank == n then s.raise i (Trap.of .illegalOperand n)
    else if !(s.bankQueue i.w.core).isEmpty || s.bankBound i.w.core n then s.bankStand i (.tload n (i.uA s).toNat)
    else match s.tloadRun i.w n (i.uA s).toNat with
      | .inl t => s.raise i t
      | .inr s => s.advance i)

/-- TFLIP (R129), in its turn (R130). -/
def execTflip (e : Enc) (s : State) : Host.Outcome State Fault Refusal :=
  next (strandOnly .tflip e s fun i s =>
    if i.act ≠ 0 ∧ ¬ (s.bankQueue i.w.core).isEmpty then s.bankStand i (.tflip e.b.toNat)
    else effect noCheck (fun i s => s.onCore i.w.core fun k => { k with curBank := e.b.toNat }) i s)

/-- Whether the operation of a strand at the head of its core's queue may proceed (R128 steps 1 and 2, R129). -/
def State.bankReady (s : State) (w : Sid) : Bool :=
  match (s.strand w).sched.wait with
  | some (.tload n _) => (s.core w.core).curBank == n || !s.bankBound w.core n
  | some (.tflip _) => true
  | _ => false

/-- The strand whose TLOAD or TFLIP takes its turn next, once it may proceed (R130). -/
def State.bankHead (s : State) (core : Nat) : Option Sid := (s.bankQueue core).head?.filter s.bankReady

/-- TLOAD_PROCEED (R128 to R130): the first TLOAD or TFLIP of a core that waits takes its turn, once its bank is not bound, and its lanes move past it. -/
def execTloadProceed (core : Nat) (s : State) : Host.Outcome State Fault Refusal :=
  next (match s.bankHead core with
    | none => s
    | some w =>
      match (s.strand w).sched.wait with
      | some (.tload n off) =>
        if (s.core core).curBank = n then s.trapWait w Cause.illegalOperand.code (BitVec.ofNat 64 n)
        else (match s.tloadRun w n off with
         | .inl t => s.trapWait w t.cause.code t.tval
         | .inr s => s.onStrand w fun st => st.passWait s.clock.cycle)
      | some (.tflip n) => (s.onCore core fun k => { k with curBank := n }).onStrand w fun st => st.passWait s.clock.cycle
      | _ => s)

end Sys2Proof.Machine
end

