-- ==== Sys2Proof/Machine/CrossLane.lean ====
section
/-! DEFINITION. The cross-lane instructions and tiles (R131 to R147). -/

namespace Sys2Proof.Machine
open Sys2Proof

/-- The check of a new PART value (R133). -/
def partTrap (v : Word) : Option Trap := if v.toNat > 4 then some { cause := .illegalOperand, tval := zx64 v } else none

/-- PART (R133). -/
def execPart (e : Enc) (s : State) : Host.Outcome State Fault Refusal :=
  next (strandOnly .part e s (effect (fun i s => partTrap (i.opB s)) fun i s =>
    s.onStrand i.w fun st => { st with sp := { st.sp with part := i.opB s } }))

/-- The lowest lane of a lane's tile: TB (R132). -/
def tileBase (n lane : Nat) : Nat := lane - lane % n

/-- Src(j): the value of A in a live lane, 0 in another (R135). -/
def Issue.src (i : Issue) (s : State) (j : Nat) : Word :=
  if i.st.live.getLsbD j then s.readReg i.w (.v (i.st.sp.wb + i.e.a.toNat)) j else 0

/-- SHUF, PERM and BCAST (R140 to R142), with the result mask of .vm (R136). -/
def exchange (o : Op) (e : Enc) (s : State) : Host.Outcome State Fault Refusal :=
  next (strandOnly o e s (effect noCheck fun i s =>
    let v := fun l => i.src s (i.sourceLane s l)
    let vm := Mask.of fun l => i.st.live.getLsbD (i.sourceLane s l)
    let s' := if e.tf = 31 then s.onStrand i.w fun st => st.putV (i.st.sp.wb + e.d.toNat) i.act v else s.writeD i v
    if e.qbit 0 then s'.onStrand i.w fun st => st.putK e.c.toNat i.act vm else s'))

/-- SHUF (R140). -/
def execShuf (e : Enc) (s : State) : Host.Outcome State Fault Refusal := exchange .shuf e s
/-- PERM (R141). -/
def execPerm (e : Enc) (s : State) : Host.Outcome State Fault Refusal := exchange .perm e s
/-- BCAST (R142). -/
def execBcast (e : Enc) (s : State) : Host.Outcome State Fault Refusal := exchange .bcast e s

/-- The lanes of a lane's tile among `m` (R132). -/
def inTile (n lane : Nat) (m : Mask) : List Nat := (Mask.lanes m).filter fun j => tileBase n j == tileBase n lane

/-- The decision of a vote over voters (R143): `pr` the predicate, `val` the compared value. -/
def voteOf (sub : Nat) (voters : List Nat) (pr : Nat → Bool) (val : Nat → Word) : Bool :=
  match sub with
  | 0 => voters.any pr
  | 1 => voters.all pr
  | _ => match voters with | [] => true | j :: t => t.all fun k => val k == val j

/-- VOTE (R143). -/
def execVote (e : Enc) (s : State) : Host.Outcome State Fault Refusal :=
  next (strandOnly .vote e s (effect noCheck fun i s =>
    let val := fun l => i.opnd s .a l
    let pr := fun l => val l != 0
    let sub := e.sub.toNat
    let n := tileSize i.st.sp.part
    if i.dClass = .s then
      s.writeS i.w e.d.toNat (if sub = 3 then Mask.of fun l => i.act.getLsbD l && pr l else allOrNone (voteOf sub (Mask.lanes i.act) pr val))
    else s.writeD i fun l => if (if sub = 3 then pr l else voteOf sub (inTile n l i.act) pr val) then 1 else 0))

/-- The stand-in of a reduction operation (R144). -/
def standIn (sub : Nat) : Word :=
  match sub with
  | 1 => 0x7FFFFFFF
  | 2 => 0x80000000
  | 3 => 0xFFFFFFFF
  | 5 => 0xFFFFFFFF
  | 8 => 0x80000000
  | 9 => 0x7FC00000
  | 10 => 0x7FC00000
  | _ => 0

/-- The combination of a reduction operation other than .fadd (R144). -/
def combine (sub : Nat) (x y : Word) : Word :=
  match sub with
  | 0 => x + y
  | 1 => pickElem 0 false false x y
  | 2 => pickElem 0 false true x y
  | 3 => pickElem 0 true false x y
  | 4 => pickElem 0 true true x y
  | 5 => x &&& y
  | 6 => x ||| y
  | 7 => x ^^^ y
  | 9 => BitVec.ofNat 32 (pickFloat 0 false x.toNat y.toNat)
  | _ => BitVec.ofNat 32 (pickFloat 0 true x.toNat y.toNat)

/-- One FP32 addition of a reduction, rounded under MODE (R145). -/
def Issue.sum32 (i : Issue) (lane elem : Nat) (x y : Word) : Word :=
  let d := fun (w : Word) => (fmtOf 0).decode w.toNat
  BitVec.ofNat 32 (i.rounded 0 lane elem ((d x).add (d y) (modeRm i.st.sp.mode)))

/-- The tree node of level `l` that covers the lanes from `lane` on (R104, R145). -/
def Issue.node (i : Issue) (leaf : Nat → Word) : Nat → Nat → Word
  | 0, lane => leaf lane
  | l + 1, lane => i.sum32 lane (l + 1) (i.node leaf l lane) (i.node leaf l (lane + 2 ^ l))

/-- The FP32 sum of the first `m` leaves from `base` on, from the largest tree nodes, left to right (R104, R145); the stand-in where there is none. A NaN is the canonical one. -/
def Issue.prefixSum (i : Issue) (leaf : Nat → Word) (base m lane : Nat) : Word :=
  let r := [5, 4, 3, 2, 1, 0].foldl (fun (acc : Option Word × Nat) k =>
    if bit m k then
      let b := i.node leaf k (base + acc.2)
      (some (match acc.1 with | none => b | some x => i.sum32 lane 0 x b), acc.2 + 2 ^ k)
    else acc) (none, 0)
  match r.1 with
  | none => standIn 8
  | some x => if (fmtOf 0).decode x.toNat = .nan then 0x7FC00000 else x

/-- The combination of the `m` leaves from `base` on (R144, R146): none is the stand-in. -/
def Issue.prefix_ (i : Issue) (sub : Nat) (leaf : Nat → Word) (base m lane : Nat) : Word :=
  if sub = 8 then i.prefixSum leaf base m lane
  else (List.range m).foldl (fun acc k => combine sub acc (leaf (base + k))) (standIn sub)

/-- The leaf of a lane: A in an active lane, the stand-in in another (R144). -/
def Issue.leaf (i : Issue) (s : State) (lane : Nat) : Word :=
  if i.act.getLsbD lane then i.opnd s .a lane else standIn i.e.sub.toNat

/-- The reduction of the `n` leaves from `base` on (R144, R145). -/
def Issue.reduce (i : Issue) (s : State) (base n : Nat) : Word :=
  let sub := i.e.sub.toNat
  if sub = 8 then i.node (i.leaf s) (Nat.log2 n) base else i.prefix_ sub (i.leaf s) base n base

/-- STEP after a reduction or scan: it advances once for .fadd (R145). -/
def State.steppedSum (s : State) (i : Issue) : State := if i.e.sub = 8 then s.stepped i (modeRm i.st.sp.mode) else s

/-- REDU (R146). -/
def execRedu (e : Enc) (s : State) : Host.Outcome State Fault Refusal :=
  next (strandOnly .redu e s (effect noCheck fun i s =>
    let n := tileSize i.st.sp.part
    (if i.dClass = .s then s.writeS i.w e.d.toNat (i.reduce s 0 32) else s.writeD i fun l => i.reduce s (tileBase n l) n).steppedSum i))

/-- SCAN (R146). -/
def execScan (e : Enc) (s : State) : Host.Outcome State Fault Refusal :=
  next (strandOnly .scan e s (effect noCheck fun i s =>
    let n := tileSize i.st.sp.part
    (s.writeD i fun l => i.prefix_ e.sub.toNat (i.leaf s) (tileBase n l) (l % n + if e.qbit 0 then 0 else 1) l).steppedSum i))

/-- MATCH (R147). -/
def execMatchLanes (e : Enc) (s : State) : Host.Outcome State Fault Refusal :=
  next (strandOnly .matchLanes e s (effect noCheck fun i s =>
    let n := tileSize i.st.sp.part
    let same := fun l => (inTile n l i.act).filter fun j => i.opnd s .a j == i.opnd s .a l
    s.writeD i fun l =>
      let l' := same l
      if i.dClass = .k then (if (if e.sub = 0 then decide (l'.length > 1) else l'.head? == some l) then 1 else 0)
      else if e.sub = 0 then Mask.of fun j => l'.contains j else BitVec.ofNat 32 (l'.headD 0)))

end Sys2Proof.Machine
end

