-- ==== Sys2Proof/Machine/Control.lean ====
section
/-! DEFINITION. The control instructions (R148 to R173). -/

namespace Sys2Proof.Machine
open Sys2Proof

/-- A PC moved by a signed number of bytes. -/
def pcPlus (pc : Pc) (n : Int) : Pc := pc + BitVec.ofInt 57 n

/-- The target of OFF21: w0[30:10] in words from the instruction (R151). -/
def target21 (e : Enc) (pc : Pc) : Pc := pcPlus pc (4 * (e.b ++ e.a ++ e.d : BitVec 21).toInt)

/-- The target of OFF14: w0[30:17] in words from the instruction (R151). -/
def target14 (e : Enc) (pc : Pc) : Pc := pcPlus pc (4 * (e.b ++ e.a : BitVec 14).toInt)

/-- The target that a register value names: PC[56:32] ‖ value (R151). -/
def regTarget (pc : Pc) (v : Word) : Pc := (pc.extractLsb' 32 25 ++ v : BitVec 57)

/-- NOP (R172). -/
def execNop (e : Enc) (s : State) : Host.Outcome State Fault Refusal :=
  next (if s.cur.strand = seqIndex then runStream .nop e s fun c _ s => s.seqAdvance c e else runStrand .nop e s (effect noCheck fun _ s => s))

/-- BR (R152): the vote, and each lane where its own condition points. -/
def execBr (e : Enc) (s : State) : Host.Outcome State Fault Refusal :=
  next (strandOnly .br e s fun i s => s.moveTo i fun l => if i.act.getLsbD l then target21 e i.pc else i.next)

/-- BRD (R152): the group stays whole; where its lanes disagree it goes to the divergent target. -/
def execBrd (e : Enc) (s : State) : Host.Outcome State Fault Refusal :=
  next (strandOnly .brd e s fun i s => s.moveTo i fun _ =>
    if i.act = i.group then target21 e i.pc else if i.act = 0 then i.next else pcPlus i.pc e.w2.toInt)

/-- Whether BRU branches on a value (R153). -/
def bruTaken (e : Enc) (v : Word) : Bool := if e.sub = 0 then v != 0 else v == 0

/-- BRU (R153). -/
def execBru (e : Enc) (s : State) : Host.Outcome State Fault Refusal :=
  next (if s.cur.strand = seqIndex then
    runStream .bru e s fun c x s =>
      if bruTaken e (s.seqS c x e.d.toNat) then s.onStream c fun x => { x with pc := target14 e x.pc } else s.seqAdvance c e
  else runStrand .bru e s fun i s => s.moveTo i fun _ => if bruTaken e (i.uD s) then target14 e i.pc else i.next)

/-- JMP (R154). -/
def execJmp (e : Enc) (s : State) : Host.Outcome State Fault Refusal :=
  next (if s.cur.strand = seqIndex then runStream .jmp e s fun c _ s => s.onStream c fun x => { x with pc := target21 e x.pc }
    else runStrand .jmp e s fun i s => s.moveTo i fun _ => target21 e i.pc)

/-- MISALIGNED for a register target (R151): the 57-bit target of the lowest active lane whose value is no multiple of 4. -/
def Issue.targetTrap (i : Issue) (v : Nat → Word) : Option Trap :=
  match (Mask.lanes i.act).find? fun l => (v l).toNat % 4 != 0 with
  | some l => some { cause := .misaligned, tval := (regTarget i.pc (v l)).setWidth 64 }
  | none => none

/-- The active lanes sent to a target each, the other issuing lanes past the instruction; with `link`, the return address in V[c] (R154, R155, R156). -/
def State.jump (s : State) (i : Issue) (link : Bool) (t : Nat → Pc) : State :=
  let s := if link && i.act != 0 then s.onStrand i.w fun st => st.putV (i.st.sp.wb + i.e.c.toNat) i.act fun _ => i.next.setWidth 32 else s
  s.moveTo i fun l => if i.act.getLsbD l then t l else i.next

/-- The value of the target register in a lane: uniform or varying by SUB (R154, R155). -/
def Issue.targetReg (i : Issue) (s : State) (varying : Bool) (l : Nat) : Word :=
  if varying then s.readReg i.w (.v (i.st.sp.wb + i.e.a.toNat)) l else i.uA s

/-- A jump to register targets with its alignment check. -/
def State.jumpReg (s : State) (i : Issue) (link varying : Bool) : State :=
  match i.targetTrap (i.targetReg s varying) with
  | some t => s.raise i t
  | none => s.jump i link fun l => regTarget i.pc (i.targetReg s varying l)

/-- JMPI (R154). -/
def execJmpi (e : Enc) (s : State) : Host.Outcome State Fault Refusal := next (strandOnly .jmpi e s fun i s => s.jumpReg i false (e.sub == 1))

/-- CALL (R155); in a stream the link is a uniform register (R173). -/
def execCall (e : Enc) (s : State) : Host.Outcome State Fault Refusal :=
  next (if s.cur.strand = seqIndex then
    runStream .call e s fun c x s =>
      (s.seqPut c x e.c.toNat ((x.pc + BitVec.ofNat 57 e.bytes).setWidth 32)).onStream c fun y => { y with pc := target21 e x.pc }
  else runStrand .call e s fun i s => s.jump i true fun _ => target21 e i.pc)

/-- CALLI (R155). -/
def execCalli (e : Enc) (s : State) : Host.Outcome State Fault Refusal := next (strandOnly .calli e s fun i s => s.jumpReg i true (e.sub == 1))

/-- RET (R156); in a stream the link is a uniform register (R173). -/
def execRet (e : Enc) (s : State) : Host.Outcome State Fault Refusal :=
  next (if s.cur.strand = seqIndex then
    runStream .ret e s fun c x s =>
      let v := s.seqS c x e.a.toNat
      if v.toNat % 4 ≠ 0 then s.seqFault c x { cause := .misaligned, tval := (regTarget x.pc v).setWidth 64 }
      else s.onStream c fun x => { x with pc := regTarget x.pc v }
  else runStrand .ret e s fun i s => s.jumpReg i false true)

/-- The region that IDEM opens (R160, R161). -/
def Issue.newRegion (i : Issue) : Region :=
  let e := i.e
  let w := e.w2.toNat
  { entry := i.pc
    first := i.st.flight.nextId
    v := if e.qbit 0 then some (i.st.sp.wb + e.d.toNat, i.st.sp.wb + e.a.toNat) else none
    s := if e.qbit 1 then some (e.b.toNat, e.c.toNat) else none
    a := if bit w 10 then some (bits w 4 0, bits w 9 5) else none
    k := [1, 2, 3, 4, 5, 6, 7].filter fun n => bit w (10 + n)
    ssp := i.st.sp.ssp
    wb := i.st.sp.wb
    mode := i.st.sp.mode
    part := i.st.sp.part }

/-- IDEM (R161): it closes any open region and opens its own. -/
def execIdem (e : Enc) (s : State) : Host.Outcome State Fault Refusal :=
  next (strandOnly .idem e s (effect noCheck fun i s => s.onStrand i.w fun st => { st with region := some i.newRegion }))

/-- Whether every other strand of the comb has an empty live mask while a stream of the comb runs (R169). -/
def State.exitWaits (s : State) (w : Sid) : Bool :=
  ((s.comb w.core w.slot).strands.all fun x => x.1 == w.strand || x.2.live == 0) &&
  (match s.stream? w.core with | some x => x.slot == w.slot | none => false)

/-- The lanes of `m` exited (R169): removed from the live mask, with their reservations; FC is 0 where those left stand at one PC (R158). -/
def Strand.exitLanes (st : Strand) (m : Mask) : Strand :=
  let st := { st.dropPlaces (fun k => m.getLsbD (slotOf k)) with live := st.live &&& ~~~m }
  { st with sched := { st.sched with fc := if st.converged then 0 else st.sched.fc } }

/-- EXIT (R169): the last live strand of a comb stands at it while a stream of the comb runs; in a stream it ends the stream once its queue has drained (R281). -/
def execExit (e : Enc) (s : State) : Host.Outcome State Fault Refusal :=
  next (if s.cur.strand = seqIndex then runStream .exit e s fun c _ s => s.onStream c fun x => { x with wait := some .exit }
  else runStrand .exit e s fun i s =>
    if i.act = 0 then s.advance i
    else
      let s := s.onStrand i.w Strand.closeRegion
      if i.act = i.st.live ∧ s.exitWaits i.w then s
      else (s.advance i).onStrand i.w fun st => st.exitLanes i.act)

/-- YIELD (R170): a burst on a diverged strand where the reservation condition allows it; eight cycles without issue on a converged one. -/
def execYield (e : Enc) (s : State) : Host.Outcome State Fault Refusal :=
  next (strandOnly .yield e s fun i s =>
    let s := s.advance i
    if i.st.converged then s.onStrand i.w fun st => { st with sched := { st.sched with pause := s.clock.cycle + 9 } }
    else if i.st.burstFree s.clock.cycle then
      let b : Burst := { held := i.group, pc := i.next, left := 256 }
      s.onStrand i.w fun st => { st with sched := { st.sched with burst := some b } }
    else s)

/-- TRAP (R171): with an empty active mask it has no effect. -/
def execTrap (e : Enc) (s : State) : Host.Outcome State Fault Refusal :=
  next (strandOnly .trap e s (effect (fun i s => some { cause := .trap, tval := zx64 (i.opB s) }) fun _ s => s))

/-- The lowest free stop entry (R421). -/
def State.freeStop (s : State) : Option Nat := (List.range 64).find? fun k => (Tab.get none s.mgmt.stops k).isNone

/-- A BRK that stops its strand for a debugger (R420, R421): the stop entry, and the management interrupt. -/
def State.stopAt (s : State) (i : Issue) (k : Nat) : State :=
  let x : StopEntry := { who := i.w, tenant := s.tenantOf i.w.core i.w.slot, pc := i.pc.toNat, len := i.e.bytes, code := i.opB s, mask := i.group }
  let s := s.onStrand i.w fun st => { st.loseResv with sched := { st.sched with stopped := true, burst := none } }
  ({ s with mgmt := { s.mgmt with stops := Tab.put none s.mgmt.stops k (some x) } }).interrupt

/-- BRK (R171, R420, R421): it enters the handler, or stops the strand where a debugger is attached to its tenant. -/
def execBrk (e : Enc) (s : State) : Host.Outcome State Fault Refusal :=
  next (strandOnly .brk e s fun i s =>
    if i.act = 0 then s.advance i
    else
      let t := s.tenantOf i.w.core i.w.slot
      let trap := s.raise i { cause := .brk, tval := zx64 (i.opB s) }
      if !s.mgmt.dbgAtt || s.mgmt.dbgLock || s.mgmt.dbgTenant != t || i.st.act || i.st.ahead.isSome then trap
      else match s.descriptor t, s.freeStop with
        | none, _ => s
        | some d, some k => if descDbg d then s.stopAt i k else trap
        | some _, none => trap)

end Sys2Proof.Machine
end

