-- ==== Sys2Proof/Machine/Aes.lean ====
section
/-! DEFINITION. AES-256-GCM with an empty additional data, as R252 uses it. The spec names the algorithm; its steps are those of FIPS 197 and SP 800-38D (log entry 22). -/

namespace Sys2Proof.Machine
open Sys2Proof

/-- The product of two elements of GF(2^8), on the lowest `n` bits of `b`. -/
def gfMul (a b : Nat) : Nat → Nat
  | 0 => 0
  | n + 1 => (if b % 2 = 1 then a else 0) ^^^ gfMul ((2 * a % 256) ^^^ (if a ≥ 128 then 0x1B else 0)) (b / 2) n

/-- The product of two bytes. -/
def gf8 (a b : Nat) : Nat := gfMul a b 8

/-- The inverse of a byte in GF(2^8), x^254; 0 for 0. -/
def gfInv (x : Nat) : Nat :=
  let sq := fun (a : Nat) => gf8 a a
  let x2 := sq x; let x4 := sq x2; let x8 := sq x4; let x16 := sq x8; let x32 := sq x16; let x64 := sq x32; let x128 := sq x64
  gf8 x128 (gf8 x64 (gf8 x32 (gf8 x16 (gf8 x8 (gf8 x4 x2)))))

/-- A byte rotated left. -/
def rotByte (x k : Nat) : Nat := (x * 2 ^ k % 256) ||| (x / 2 ^ (8 - k))

/-- SubBytes of one byte. -/
def subByte (x : Nat) : Nat :=
  let b := gfInv x
  b ^^^ rotByte b 1 ^^^ rotByte b 2 ^^^ rotByte b 3 ^^^ rotByte b 4 ^^^ 0x63

/-- Bytes combined by exclusive or. -/
def xorBytes (a b : List Nat) : List Nat := List.zipWith (· ^^^ ·) a b

/-- The words of the key schedule from word `i` on, `n` of them; `w` holds the words made so far. -/
def keyWords (w : List (List Nat)) (i : Nat) : Nat → List (List Nat)
  | 0 => w
  | n + 1 =>
    let t := w.getD (i - 1) []
    let t := if i % 8 = 0 then xorBytes ((t.drop 1 ++ t.take 1).map subByte) [2 ^ (i / 8 - 1), 0, 0, 0]
      else if i % 8 = 4 then t.map subByte else t
    keyWords (w ++ [xorBytes (w.getD (i - 8) []) t]) (i + 1) n

/-- The fifteen round keys of a 32-byte key. -/
def roundKeys (key : List Nat) : List (List Nat) :=
  let w := keyWords ((List.range 8).map fun i => (key.drop (4 * i)).take 4) 8 52
  (List.range 15).map fun r => ((w.drop (4 * r)).take 4).flatten

/-- ShiftRows on a block of 16 bytes held column by column. -/
def shiftRows (b : List Nat) : List Nat := (List.range 16).map fun i => b.getD ((i + 4 * (i % 4)) % 16) 0

/-- MixColumns. -/
def mixColumns (b : List Nat) : List Nat :=
  (List.range 16).map fun i =>
    let at_ := fun (k : Nat) => b.getD (i / 4 * 4 + (i + k) % 4) 0
    gf8 2 (at_ 0) ^^^ gf8 3 (at_ 1) ^^^ at_ 2 ^^^ at_ 3

/-- AES-256 of one block. -/
def aesBlock (keys : List (List Nat)) (b : List Nat) : List Nat :=
  let b := xorBytes b (keys.getD 0 [])
  let b := (List.range 13).foldl (fun b r => xorBytes (mixColumns (shiftRows (b.map subByte))) (keys.getD (r + 1) [])) b
  xorBytes (shiftRows (b.map subByte)) (keys.getD 14 [])

/-- Bytes as one number, the first byte highest. -/
def bigEndian (l : List Nat) : Nat := l.foldl (fun n b => 256 * n + b) 0

/-- A number as `n` bytes, the highest first. -/
def toBytes (n v : Nat) : List Nat := (List.range n).map fun i => v / 256 ^ (n - 1 - i) % 256

/-- The product of GHASH, on `n` more bits of `x` from the highest. -/
def ghashMul (x v z : Nat) : Nat → Nat
  | 0 => z
  | n + 1 => ghashMul x (if v % 2 = 1 then v / 2 ^^^ (0xE1 * 2 ^ 120) else v / 2) (if bit x n then z ^^^ v else z) n

/-- GHASH of whole blocks under `h`. -/
def ghash (h : Nat) (blocks : List Nat) : Nat := blocks.foldl (fun y b => ghashMul (y ^^^ b) h 0 128) 0

/-- The 16-byte blocks of a list, the last one filled with zeros; `n` bounds their number. -/
def blocksOf (l : List Nat) : Nat → List (List Nat)
  | 0 => []
  | n + 1 => if l.isEmpty then [] else (l.take 16 ++ List.replicate (16 - min 16 l.length) 0) :: blocksOf (l.drop 16) n

/-- AES-256-GCM decryption (R252): the tag of the ciphertext and the plaintext. -/
def gcmDecrypt (key iv cipher : List Nat) : List Nat × List Nat :=
  let k := roundKeys key
  let h := bigEndian (aesBlock k (List.replicate 16 0))
  let blocks := blocksOf cipher (cipher.length / 16 + 1)
  let s := ghash h (blocks.map bigEndian ++ [8 * cipher.length])
  let tag := xorBytes (toBytes 16 s) (aesBlock k (iv ++ [0, 0, 0, 1]))
  let plain := (blocks.mapIdx fun i b => xorBytes b (aesBlock k (iv ++ toBytes 4 (i + 2)))).flatten
  (tag, plain.take cipher.length)

/-- The bytes of a key slot, byte n in bits 8n+7 to 8n (R2). -/
def keyBytes (key : BitVec 256) : List Nat := (List.range 32).map fun i => bits key.toNat (8 * i + 7) (8 * i)

end Sys2Proof.Machine
end

