-- ==== Sys2Proof/Machine/Fetch.lean ====
section
/-! DEFINITION. Fetching an instruction (R20, R32) through the instruction cache (R481). -/

namespace Sys2Proof.Machine
open Sys2Proof

/-- What a fetch gives: an instruction; a fault for the trap handler, with TVAL; a recoverable fault; or a wait for a line or a descriptor. -/
inductive Fetched
  | instr (i : Instr)
  | trap (cause : Cause) (tval : Nat)
  | queued (f : PageFault)
  | waits
  deriving DecidableEq, Repr

/-- A sector of code in a core's instruction cache, as memory holds it, until `expiry` (R481). -/
def State.fillCode (s : State) (core sec expiry : Nat) : State :=
  s.onCore core fun k => { k with icache := Tab.put none k.icache sec (some { data := Mem.sector s.memory.mem sec, poison := s.linePoison (lineOf (32 * sec)), expiry := expiry }) }

/-- A word of code from its home, with the copy that the fill leaves for 64 µs (R481); a line that has not arrived (R347) or that an MCAS holds (R248) waits. -/
def State.missCode (s : State) (core pa : Nat) (word : BitVec 256 → Bool → Except Fetched Word) : Except Fetched Word × State :=
  let line := lineOf pa
  if s.homeWaits line then (.error .waits, s.fetchLine line)
  else (word (Mem.sector s.memory.mem (sectorOf pa)) (s.linePoison line),
    (((s.reachHome line (dieOf core) false).fillL2 line).holdHost line 1).fillCode core (sectorOf pa) (s.clock.gt + 64000))

/-- One word of code at a virtual address, with the state after the translation and the fill: a live copy that is still used, or memory (R481). A poisoned word raises MEM_POISON (R283, log entry 46). -/
def State.codeWord (s : State) (core : Nat) (t : BitVec 16) (priv : Bool) (origin va : Nat) : Except Fetched Word × State :=
  match s.translate core t priv .fetch va with
  | .error .protect => (.error (.trap .pageProtect va), s.walked core t va)
  | .error (.queued c pa) => (.error (.queued { va := va, pa := pa, cause := c, acc := Access.fetch.code, origin := origin }), s.walked core t va)
  | .error .waits => (.error .waits, s)
  | .ok pa =>
    let sec := sectorOf pa
    let word := fun (d : BitVec 256) (poison : Bool) =>
      if poison then Except.error (Fetched.trap .memPoison va) else .ok (d.extractLsb' (8 * (pa % 32)) 32)
    let s1 := s.remember core t va
    let keep := Config.keeps (s.clock.turn * 2 ^ 57 + 2 ^ 56 + sec)
    match liveCopy (s.core core).icache sec s.clock.gt with
    | some c =>
      if keep then (word c.data c.poison, s1) else s1.missCode core pa word
    | none => s1.missCode core pa word

/-- An instruction at a PC, by the order of R32: a word that the length does not call for is not fetched. -/
def State.fetchAt (s : State) (core : Nat) (t : BitVec 16) (priv : Bool) (origin pc : Nat) : Fetched × State :=
  let illegal := fun (w0 : Word) => Fetched.trap .illegalInstr w0.toNat
  let answer := fun (w0 : Word) (r : Except DecodeError Instr) => match r with | .ok i => Fetched.instr i | .error _ => illegal w0
  match s.codeWord core t priv origin pc with
  | (.error f, s) => (f, s)
  | (.ok w0, s) =>
    let n := (w0.extractLsb' 0 2).toNat
    if n = 3 ∨ (Op.ofCode (opField w0) 0).isNone then (illegal w0, s)
    else if n = 0 then (answer w0 (decodeWords .one w0 0 0), s)
    else match s.codeWord core t priv origin (pc + 4) with
      | (.error f, s) => (f, s)
      | (.ok w1, s) =>
        if n = 1 then (answer w0 (decodeWords .two w0 w1 0), s)
        else match s.codeWord core t priv origin (pc + 8) with
          | (.error f, s) => (f, s)
          | (.ok w2, s) => (answer w0 (decodeWords .three w0 w1 w2), s)

/-- The fields of a 32-bit NOP, for a fault that comes before decode. -/
def nopEnc : Enc := { len := .one, i := false, b := 0, a := 0, d := 0, sub := 0, ls := 0, qb := 0, tf := 31, g := 0, c := 0, w2 := 0 }

/-- A fault of a strand's fetch or decode (R32, R54 step 1, R165, R201): inside a region the batch is sent at once, since the instruction is not known. -/
def State.fetchFault (s : State) (f : Fetched) : State :=
  let i := s.issue .nop nopEnc
  match f with
  | .instr _ | .waits => s
  | .trap c v => s.raise i (Trap.of c v)
  | .queued p => (s.queueFault i [p]).1.onStrand i.w fun st => { st with ahead := st.ahead.map fun a => { a with ended := true } }

/-- The instruction that the strand at `w` would issue, with the state after its fetch. -/
def State.fetchStrand (s : State) (w : Sid) : Fetched × State :=
  let st := s.strand w
  s.fetchAt w.core (s.tenantOf w.core w.slot) st.trap.priv 0 st.issuePc.toNat

/-- The instruction at the PC of a core's stream, with the state after its fetch (R280, R283). -/
def State.fetchStream (s : State) (core : Nat) : Fetched × State :=
  match s.stream? core with
  | some x => s.fetchAt core x.tenant x.priv 3 x.pc.toNat
  | none => (.waits, s)

end Sys2Proof.Machine
end

