-- ==== Sys2Proof/Machine/Packets.lean ====
section
/-! DEFINITION. The fabric as a source sees it: the devices and their ports (R370 to R372), the choice of a path (R373, R374), reachability (R375), and sending requests in their order (R376, R380, R386). -/

namespace Sys2Proof.Machine
open Sys2Proof

/-- The number of this device. -/
def self : Nat := Config.device.val

/-- The point of device `n` (R370). -/
def point (n : Nat) : Nat × Nat × Nat :=
  if n ≤ 960 then (1, n / 31, n % 31) else if n ≤ 991 then (0, 1, n - 961) else (0, 0, 1)

/-- Whether two distinct devices are joined by a link (R370). -/
def linked (u v : Nat) : Bool :=
  let a := point u; let b := point v
  u != v && (a.1 * b.1 + a.2.1 * b.2.1 + a.2.2 * b.2.2) % 31 == 0

/-- The device that port `p` of device `u` leads to (R371). -/
def neighbourAt (u p : Nat) : Option Nat := ((List.range 993).filter (linked u))[p]?

/-- The device with a point proportional to (x, y, z) modulo 31 (R370). -/
def deviceAt (x y z : Nat) : Nat :=
  let inv := fun (a : Nat) => ((List.range 31).find? fun b => a * b % 31 == 1).getD 0
  if x % 31 ≠ 0 then 31 * (y * inv (x % 31) % 31) + z * inv (x % 31) % 31
  else if y % 31 ≠ 0 then 961 + z * inv (y % 31) % 31
  else 992

/-- The device between two devices that are not neighbours: their cross product (R372). -/
def between (u v : Nat) : Nat :=
  let a := point u; let b := point v
  deviceAt (a.2.1 * b.2.2 + 31 * 31 - a.2.2 * b.2.1) (a.2.2 * b.1 + 31 * 31 - a.1 * b.2.2) (a.1 * b.2.1 + 31 * 31 - a.2.1 * b.1)

/-- The route entry of a destination (R373). -/
def State.route (s : State) (v : Nat) : Route := Tab.get {} s.fabric.routes v

/-- The valid intermediates of a destination (R373). -/
def Route.via (r : Route) : List Nat := [r.i0, r.i1, r.i2, r.i3].filter fun i => i ≤ 992

/-- Whether a port is up (R375): a port to which no device is connected stays dark (R371). -/
def State.portUp (s : State) (p : Nat) : Bool := (neighbourAt self p).isSome && !s.fabric.down.contains p

/-- Whether device `v` is reachable, the silence of R375 apart: its entry is valid and some first port is up. -/
def State.reachable (s : State) (v : Nat) : Bool :=
  v == self || ((s.route v).valid && (s.portUp (s.route v).minp || (s.route v).via.any fun i => s.portUp (s.route i).minp))

/-- The hops from this device to a destination by the minimal path (R374). -/
def State.hops (s : State) (v : Nat) : Nat := if (s.route v).direct then 1 else 2

/-- The flits queued at a port (R374). -/
def State.queuedFlits (s : State) (p : Nat) : Nat := Config.flits s.clock.turn p

/-- The hops of a minimal path between two devices (R370, R372). -/
def minHops (u v : Nat) : Nat := if u = v then 0 else if linked u v then 1 else 2

/-- The path of a packet sent now: the intermediate that it goes through, or none for the minimal path (R374). A path whose first port is down is not taken (log entry 18). -/
def State.pathTo (s : State) (v : Nat) : Option Nat :=
  let r := s.route v
  let cost := fun i => s.queuedFlits (s.route i).minp
  let ways := r.via.filter fun i => s.portUp (s.route i).minp
  match ways with
  | [] => none
  | i :: t =>
    let b := t.foldl (fun b i => if cost i < cost b then i else b) i
    if !s.portUp r.minp || cost b * (s.hops b + minHops b v) < s.queuedFlits r.minp * s.hops v then some b else none

/-- The first port of a path (R373). -/
def State.portOf (s : State) (v : Nat) (via : Option Nat) : Nat := (s.route (via.getD v)).minp

/-! Sending. -/

/-- The strand of a request, for the order of R386. -/
def FabUse.owner : FabUse → Option Sid
  | .load w _ _ | .atomic w _ _ | .store w _ | .message w _ => some w
  | .chunk _ _ _ _ _ => none

/-- Whether a request writes or acts atomically on a line (R386). -/
def fabWrites : FabKind → Bool
  | .write _ _ _ | .reduced _ _ _ | .lanes _ _ _ => true
  | .read | .message _ _ => false

/-- Whether request `b` must wait until the earlier request `a` has its final response (R386). -/
def FabOut.holds (a b : FabOut) : Bool :=
  fabWrites a.packet.kind && a.use.owner.isSome && a.use.owner == b.use.owner &&
  a.packet.win == b.packet.win && a.packet.off / 64 == b.packet.off / 64 &&
  (match b.packet.kind with | .message _ _ => false | _ => true)

/-! Bandwidth shares (R367, R368). -/

/-- The bucket of a tenant at a core's port: its valid entry, or the default class (R367). -/
def Shares.bucketOf (h : Shares) (t : BitVec 16) : Nat :=
  ((List.range 8).find? fun k => match h.entry k with | some e => e.1 == t | none => false).getD 8

/-- Whether a request that waits at a core's port still stands there. -/
def State.portLive (s : State) (core : Nat) (r : PortReq) : Bool :=
  let reqs := (s.core core).combs.flatMap fun x => match x.2 with | some c => c.reqs.filter fun q => q.state == .running | none => []
  match r with
  | .load w id line => (s.strand w).flight.loads.any fun l => l.id == id && !l.paid.contains line
  | .atomic w id => (s.strand w).flight.atomics.any fun a => a.id == id && !a.parts.isEmpty
  | .mcas w => match (s.strand w).sched.wait with | some (.mcas m) => !m.toLock.isEmpty && !m.paid | _ => false
  | .drain id => (s.core core).drains.any fun d => d.entry.id == id && d.entry.owed != 0
  | .read id c => reqs.any fun q => q.id == id && q.left.contains c
  | .write id c => reqs.any fun q => q.id == id && q.staged.any fun x => x.chunk == c
  | .issue w => (s.strand w).sched.owes != 0
  | .pages w => match (s.strand w).sched.wait with | some (.gpref _ _ _) => true | _ => false
  | .fabric u => s.fabric.targets.any fun x => x.2.out.any fun o => o.use == u && o.first.isNone && o.cost != 0

/-- The requests that wait at a core's port once `r` of tenant `t` has come, in the order in which they came (R368). -/
def State.portQueue (s : State) (core : Nat) (t : BitVec 16) (r : PortReq) : List (BitVec 16 × PortReq) :=
  let q := (s.core core).shares.queue.filter fun x => s.portLive core x.2
  if q.any fun x => x.2 == r then q else q ++ [(t, r)]

/-- The buckets that hold tokens and have a request waiting, in rotation after the one served last (R368). -/
def Shares.rotation (h : Shares) (q : List (BitVec 16 × PortReq)) : List Nat :=
  ((List.range 9).map fun i => (h.last + 1 + i) % 9).filter fun b => Tab.get 0 h.buckets b != 0 && q.any fun x => h.bucketOf x.1 == b

/-- How many of `n` tokens request `r` of tenant `t` spends now at a core's port, where it is the first of its tenant, its tenant's turn has come, and fewer than two have passed in the cycle (R367, R368). -/
def State.tokensFor (s : State) (core : Nat) (t : BitVec 16) (r : PortReq) (n : Nat) : Nat :=
  let h := (s.core core).shares
  let q := s.portQueue core t r
  let b := h.bucketOf t
  let room := 2 - (if h.at_ = s.clock.cycle then h.passed else 0)
  if (q.find? fun x => h.bucketOf x.1 == b).map (fun x => x.2) = some r ∧ (h.rotation q).head? = some b then min n (min (Tab.get 0 h.buckets b) room) else 0

/-- Up to `n` tokens of a tenant spent at a core's port for a request, which waits there for the rest; with EN = 0 nothing is throttled (R367, R368). -/
def State.spend (s : State) (core : Nat) (t : BitVec 16) (r : PortReq) (n : Nat) : Nat × State :=
  let h := (s.core core).shares
  if !h.en then (n, s)
  else
    let k := s.tokensFor core t r n
    let q := s.portQueue core t r
    let b := h.bucketOf t
    (k, s.onCore core fun c => { c with shares := { h with
      buckets := Tab.put 0 h.buckets b (Tab.get 0 h.buckets b - k)
      queue := if k = n then q.filter fun x => x.2 != r else q
      at_ := s.clock.cycle
      passed := k + (if h.at_ = s.clock.cycle then h.passed else 0)
      last := if k = 0 then h.last else b } })

/-- The core that a request comes from. -/
def FabUse.core : FabUse → Nat
  | .load w _ _ | .atomic w _ _ | .store w _ | .message w _ => w.core
  | .chunk core _ _ _ _ => core

/-- The core at whose port a request still has tokens to spend (R368, R383). -/
def FabOut.payer (o : FabOut) : Option Nat := if o.cost = 0 then none else some o.use.core

/-- Whether two requests serve one instruction, or one copy request. -/
def FabUse.together : FabUse → FabUse → Bool
  | .atomic w i _, .atomic v j _ => w == v && i == j
  | .chunk c n r _ x, .chunk d m q _ y => c == d && n == m && r == q && x.row == y.row
  | _, _ => false

/-- Whether request `b` waits for the token that request `a` spends for the line of both (R368). -/
def FabOut.paysFor (a b : FabOut) : Bool :=
  a.cost != 0 && b.cost == 0 && a.use.together b.use && a.packet.win == b.packet.win && a.packet.off / 64 == b.packet.off / 64

/-- A packet given to the network: to this device itself without a link (R375). -/
def State.transmit (s : State) (v : Nat) (p : FabRequest) : State :=
  if v = self then { s with inputs := s.inputs ++ [.fabricRequestArrival p] }
  else { s with fabric := { s.fabric with outbox := s.fabric.outbox ++ [.packet v (s.portOf v (s.pathTo v)) (.request p (s.pathTo v)) s.clock.gt] } }

/-- What a request carries when it is sent: a chunk copied from LM takes its source bytes then (R388). -/
def State.sendKind (s : State) (o : FabOut) : FabKind :=
  match o.use, o.packet.kind with
  | .chunk core slot req _ c, .write m d p =>
    match (s.comb core slot).reqs.find? fun q => q.id == req with
    | some q =>
      if q.sspc = 0 then
        let a := s.lmPhys core slot c.src
        .write m (lineWrite c.dst c.len (s.lmRead core a c.len)).2 (s.lmMarked core a c.len)
      else .write m d p
    | none => .write m d p
  | _, k => k

/-- What this device keeps for a target. -/
def State.target (s : State) (v : Nat) : FabTarget := Tab.get {} s.fabric.targets v

/-- What this device keeps for a target, changed by `f`. -/
def State.onTarget (s : State) (v : Nat) (f : FabTarget → FabTarget) : State :=
  { s with fabric := { s.fabric with targets := Tab.put {} s.fabric.targets v (f (s.target v)) } }

/-- The place of the first request of a list that may be sent, or spend a token, now by R380 and R386 and that `pays` (R368, R383). -/
def nextOut (pays : FabOut → Bool) : List FabOut → List FabOut → Option Nat
  | _, [] => none
  | before, o :: t =>
    if o.first.isNone && !before.any (fun a => a.holds o || (a.first.isNone && a.paysFor o)) && pays o then some before.length
    else nextOut pays (before ++ [o]) t

/-- The requests of a list that R386 lets go wait at the ports that pay for them (R368, R383). -/
def State.joinPorts (s : State) : List FabOut → List FabOut → State
  | _, [] => s
  | before, o :: t =>
    let join := fun (c : Nat) => if o.first.isNone && !(before.any fun a => a.holds o) && (s.core c).shares.en then
        s.onCore c fun k => { k with shares := { k.shares with queue := s.portQueue c o.packet.tenant (.fabric o.use) } }
      else s
    (match o.payer with | some c => join c | none => s).joinPorts (before ++ [o]) t

/-- At most one request to a target sent: once its tokens are spent it takes the next number (R368, R380). -/
def State.pumpOne (s : State) (v : Nat) : State :=
  let t := s.target v
  let sent := (t.out.filter fun o => o.first.isSome).length
  let s := if sent < 256 then s.joinPorts [] t.out else s
  let pays := fun (o : FabOut) => match o.payer with | some c => (s.spend c o.packet.tenant (.fabric o.use) o.cost).1 != 0 | none => true
  match (if sent < 256 then nextOut pays [] t.out else none) with
  | none => s
  | some k =>
    match t.out[k]? with
    | none => s
    | some o =>
      let pay := match o.payer with | some c => s.spend c o.packet.tenant (.fabric o.use) o.cost | none => (0, s)
      let s := pay.2
      let out := updateAt t.out k fun o => { o with cost := o.cost - pay.1 }
      if pay.1 < o.cost then s.onTarget v fun t => { t with out := out }
      else
      let gt := s.clock.gt
      let p : FabRequest := { o.packet with seq := t.nextSeq, kind := s.sendKind o }
      let out := updateAt out k fun o => { o with packet := p, first := some gt, last := gt }
      (s.onTarget v fun t => { t with out := out, nextSeq := (t.nextSeq + 1) % 2 ^ 32, heard := if sent = 0 then gt else t.heard }).transmit v p

/-- `n` rounds of sending. -/
def State.pumpN (s : State) (v : Nat) : Nat → State
  | 0 => s
  | n + 1 => (s.pumpOne v).pumpN v n

/-- The requests to a target that may be sent are sent, in order (R380, R386). -/
def State.pump (s : State) (v : Nat) : State := s.pumpN v (s.target v).out.length

/-- The three fields of a fabric address (R376). -/
def fabDev (a : Nat) : Nat := bits a 63 54
/-- WIN. -/
def fabWin (a : Nat) : Nat := bits a 53 48
/-- OFF. -/
def fabOff (a : Nat) : Nat := bits a 47 0

/-- A request to the device of a fabric address, which spends `cost` tokens, added in order and sent when it may be. -/
def State.fabRequest (s : State) (use : FabUse) (cost : Nat) (t : BitVec 16) (dev win off : Nat) (kind : FabKind) : State :=
  let o : FabOut := { use := use, cost := cost, packet := { src := self, tenant := t, seq := 0, win := win, off := off, kind := kind }, first := none, last := 0 }
  (s.onTarget dev fun t => { t with out := t.out ++ [o] }).pump dev

end Sys2Proof.Machine
end

