-- ==== Sys2Proof/Machine/Access.lean ====
section
/-! DEFINITION. What the memory instructions share: addresses (R174, R175), the checks of R183 in their order, the write-combining buffer (R196), loads in flight (R198) and where their value is bound (R191 to R193, R204), and the terms that fences use (R205, R206). -/

namespace Sys2Proof.Machine
open Sys2Proof

/-- The spaces of R174. -/
inductive Space | lm | global | peer | fabric
  deriving DecidableEq, Repr

/-- The space of a memory instruction: QB[1:0]. -/
def spaceOf (e : Enc) : Space := match (e.qb &&& 3).toNat with | 0 => .lm | 1 => .global | 2 => .peer | _ => .fabric

/-- Whether an instruction accesses once for the strand (R184, R215, R230). -/
def once (e : Enc) : Bool := e.tf == 0 || e.tf == 30

/-- The lanes that access; 32 stands for the one access of a uniform form. -/
def Issue.slots (i : Issue) (m : Mask) : List Nat := if once i.e then (if m = 0 then [] else [32]) else Mask.lanes m

/-- The address of a lane (R175); atomics and SCND encode no offset (R207, R230). -/
def Issue.addr (i : Issue) (s : State) (offset : Bool) (lane : Nat) : Nat :=
  let a := i.opnd s .a (lane % 32)
  let off := if offset then a + i.opB s else a
  match spaceOf i.e with
  | .lm | .peer => off.toNat
  | .global | .fabric => (i.base s + off.signExtend 64).toNat

/-- The lanes that an access acts for in run-ahead: those without an invalid operand (R201). -/
def Issue.clean (i : Issue) (s : State) : Mask := i.act &&& ~~~i.taint s

/-- Lanes with their addresses. -/
def Issue.targets (i : Issue) (s : State) (offset : Bool) : List (Nat × Nat) := (i.slots (i.clean s)).map fun l => (l, i.addr s offset l)

/-! The checks of R183. -/

/-- Step 1: MISALIGNED. -/
def alignTrap (size : Nat) (l : List (Nat × Nat)) : Option Trap := (l.find? fun x => x.2 % size != 0).map fun x => Trap.of .misaligned x.2

/-- The core and the physical byte of an aperture address (R177). -/
def peerPlace (core a : Nat) : Nat × Nat := (72 * dieOf core + bits a 25 19, bits a 18 0)

/-- Whether a peer-LM access of `n` bytes is permitted (R177). -/
def State.peerOk (s : State) (w : Sid) (a n : Nat) : Bool :=
  let p := peerPlace w.core a
  a / 2 ^ 26 == 0 && bits a 25 19 ≤ 71 && p.1 != w.core && !s.mgmt.removed.contains p.1 && (s.windowAt p.1 p.2 n (s.tenantOf w.core w.slot)).isSome

/-- Whether an address passes step 2 (R176, R177, R178, R376). -/
def State.addressOk (s : State) (w : Sid) (sp : Space) (a n : Nat) : Bool :=
  match sp with
  | .lm => s.inWindow w.core w.slot a n
  | .peer => s.peerOk w a n
  | .global => a < 2 ^ 57
  | .fabric => fabDev a ≤ 992

/-- Step 2: PAGE_PROTECT for the address itself. -/
def State.rangeTrap (s : State) (w : Sid) (sp : Space) (size : Nat) (l : List (Nat × Nat)) : Option Trap :=
  (l.find? fun x => !s.addressOk w sp x.2 size).map fun x => Trap.of .pageProtect x.2

/-- An access that passed translation: its lane, its address, and its PA, its physical byte of LM, or its fabric address. -/
structure Spot where
  lane : Nat
  addr : Nat
  pa   : Nat
  deriving DecidableEq, Repr

/-- What step 3 gives for an access. -/
inductive Located
  | ok (x : Spot)
  | protect (addr : Nat)
  | queued (f : PageFault)
  | waits
  deriving DecidableEq, Repr

/-- A virtual address translated for an access of a strand (R178, R345). -/
def State.locate (s : State) (w : Sid) (priv : Bool) (acc : Access) (x : Nat × Nat) : Located :=
  match s.translate w.core (s.tenantOf w.core w.slot) priv acc x.2 with
  | .ok pa => .ok { lane := x.1, addr := x.2, pa := pa }
  | .error .protect => .protect x.2
  | .error (.queued c pa) => .queued { va := x.2, pa := pa, cause := c, acc := s.accCode acc c pa, origin := 0 }
  | .error .waits => .waits

/-- Step 3 for every lane; only global addresses are translated. -/
def State.locateAll (s : State) (w : Sid) (priv : Bool) (sp : Space) (acc : Access) (l : List (Nat × Nat)) : List Located :=
  match sp with
  | .global => l.map (s.locate w priv acc)
  | .lm => l.map fun x => .ok { lane := x.1, addr := x.2, pa := s.lmPhys w.core w.slot x.2 }
  | .peer => l.map fun x => .ok { lane := x.1, addr := x.2, pa := (peerPlace w.core x.2).2 }
  | .fabric => l.map fun x => .ok { lane := x.1, addr := x.2, pa := x.2 }

/-- The accesses that passed. -/
def spotsOf (l : List Located) : List Spot := l.filterMap fun x => match x with | .ok p => some p | _ => none

/-- The recoverable faults, in ascending order of lane. -/
def faultsOf (l : List Located) : List PageFault := l.filterMap fun x => match x with | .queued f => some f | _ => none

/-- The first access that step 3 routes to the trap handler. -/
def protectOf (l : List Located) : Option Trap :=
  (l.findSome? fun x => match x with | .protect a => some a | _ => none).map fun a => Trap.of .pageProtect a

/-- Whether `n` bytes at an address of a space conflict with a range lock (R264, R265). -/
def State.conflictAt (s : State) (w : Sid) (sp : Space) (u : LockUse) (a n : Nat) : Bool :=
  let t := s.tenantOf w.core w.slot
  match sp with
  | .lm => s.lockConflict w.core u 0 (s.lmPhys w.core w.slot a) n t
  | .peer => s.lockConflict w.core u 1 a n t || s.lockConflict (peerPlace w.core a).1 u 0 (peerPlace w.core a).2 n t
  | .global => s.lockConflict w.core u 2 a n t
  | .fabric => false

/-- Step 4: RANGE_CONFLICT. -/
def State.lockTrap (s : State) (w : Sid) (sp : Space) (u : LockUse) (n : Nat) (l : List Spot) : Option Trap :=
  (l.find? fun x => s.conflictAt w sp u x.addr n).map fun x => Trap.of .rangeConflict x.addr

/-- After step 4: FABRIC_UNREACHABLE (R376). -/
def State.unreachTrap (s : State) (sp : Space) (l : List Spot) : Option Trap :=
  if sp = .fabric then (l.find? fun x => !s.reachable (fabDev x.addr)).map fun x => Trap.of .fabricUnreachable x.addr else none

/-- What an access needs: its size, kind, row of R265, and the checks that its instruction makes between translation and step 4. -/
structure Need where
  size : Nat
  acc  : Access
  use  : LockUse
  more : List Spot → Option Trap

/-- The table walks of the accesses, and the translations held by the TLBs (R190, R193). -/
def State.rememberAll (s : State) (w : Sid) (sp : Space) (l : List (Nat × Nat)) : State :=
  if sp = .global then l.foldl (fun s x => s.remember w.core (s.tenantOf w.core w.slot) x.2) s else s

/-- The accesses of an instruction, with the checks of R183 in their order. `perform` takes the accesses that passed and the lanes that faulted, which is not empty in run-ahead only. -/
def State.access (s : State) (i : Issue) (sp : Space) (l : List (Nat × Nat)) (n : Need) (perform : List Spot → List Nat → State → State) : State :=
  match alignTrap n.size l with
  | some t => s.raise i t
  | none => match s.rangeTrap i.w sp n.size l with
    | some t => s.raise i t
    | none =>
      let x := s.locateAll i.w i.st.trap.priv sp n.acc l
      let spots := spotsOf x
      let held := s.rememberAll i.w sp l
      match protectOf x with
      | some t => held.raise i t
      | none =>
        if x.contains .waits then held
        else
          let r := if (faultsOf x).isEmpty then (held, true) else held.queueFault i (faultsOf x)
          if !r.2 then r.1
          else match n.more spots with
            | some t => r.1.raise i t
            | none => match s.lockTrap i.w sp n.use n.size spots with
              | some t => r.1.raise i t
              | none => match s.unreachTrap sp spots with
                | some t => r.1.raise i t
                | none => perform spots ((l.filter fun y => !spots.any fun p => p.lane == y.1).map fun y => y.1) r.1

/-- No check between translation and step 4. -/
def noMore (_ : List Spot) : Option Trap := none

/-- The tokens of the lines that an instruction reads where it stands spent (R368): whether they all are, and the state. -/
def State.payIssue (s : State) (w : Sid) (lines : List Nat) : Bool × State :=
  let owed := lines.filter fun l => !(s.strand w).sched.paid.contains l
  if owed.isEmpty then (true, s)
  else
    let p := s.spend w.core (s.tenantOf w.core w.slot) (.issue w) owed.length
    (p.1 == owed.length, p.2.onStrand w fun st => { st with sched := { st.sched with paid := st.sched.paid ++ owed.take p.1, owes := owed.length - p.1 } })

/-! The write-combining buffer (R196). -/

/-- Whether an entry belongs to a strand. -/
def WcbEntry.of (e : WcbEntry) (w : Sid) : Bool := e.slot == w.slot && e.strand == w.strand

/-- The strand of an entry. -/
def WcbEntry.sid (e : WcbEntry) (core : Nat) : Sid := { core := core, slot := e.slot, strand := e.strand }

/-- An entry begins to drain: a fabric entry becomes one write request (R383); another waits for every earlier drain of its strand that holds one of its bytes (R196). -/
def State.drainEntry (s : State) (core id : Nat) : State :=
  match (s.core core).wcb.find? fun e => e.id == id with
  | none => s
  | some e =>
    let s := s.onCore core fun k => { k with wcb := k.wcb.erase e }
    if e.fabric then
      s.fabRequest (.store (e.sid core) e.access) e.owed (s.tenantOf core e.slot) (fabDev e.va) (fabWin e.va) (fabOff e.va) (.write e.mask e.data false)
    else
      let before := (s.core core).drains.filter fun d => d.entry.of (e.sid core) && d.entry.va == e.va && d.entry.mask &&& e.mask != 0
      let x : Drain := { entry := e, after_ := before.map fun d => d.entry.id, applied := none }
      s.onCore core fun k => { k with drains := k.drains ++ [x] }

/-- The entries of a strand that `p` admits begin to drain. -/
def State.drainWhere (s : State) (w : Sid) (p : WcbEntry → Bool) : State :=
  ((s.core w.core).wcb.filter fun e => e.of w && p e).foldl (fun s e => s.drainEntry w.core e.id) s

/-- An entry with `n` bytes at `a` of its line stored: `k` is the store's place among the strand's accesses. -/
def WcbEntry.merge (e : WcbEntry) (a n v k cycle : Nat) : WcbEntry :=
  let w := lineWrite a n v
  { e with
    mask := e.mask ||| w.1
    data := mergeBytes e.data w.2 w.1.toNat 64
    touched := cycle
    owed := if e.last = k then e.owed else e.owed + 1
    last := k }

/-- An entry whose bytes are all written drains (R196). -/
def State.drainFull (s : State) (core id : Nat) : State :=
  match (s.core core).wcb.find? fun e => e.id == id with
  | some e => if e.mask = BitVec.allOnes 64 then s.drainEntry core id else s
  | none => s

/-- A store of a strand enters its entry for the line; a fifth line of the frame first drains the oldest entry, and a full entry drains at once (R196). -/
def State.putWcb (s : State) (w : Sid) (fabric : Bool) (va pa n v k : Nat) : State :=
  let frame := (s.strand w).frame
  let cycle := s.clock.cycle
  match (s.core w.core).wcb.find? fun e => e.of w && e.fabric == fabric && e.va == lineOf va && e.pa == lineOf pa with
  | some e => (s.onCore w.core fun c => { c with wcb := c.wcb.map fun x => if x = e then x.merge va n v k cycle else x }).drainFull w.core e.id
  | none =>
    let mine := (s.core w.core).wcb.filter fun e => e.frame == frame
    let s := match mine with
      | e :: _ => if mine.length ≥ 4 then s.drainEntry w.core e.id else s
      | [] => s
    let id := (s.strand w).flight.nextId
    let s := s.onStrand w fun st => { st with flight := { st.flight with nextId := id + 1, stores := st.flight.stores ++ [id] } }
    let e : WcbEntry := { id := (s.core w.core).nextWcb, slot := w.slot, strand := w.strand, frame := frame, fabric := fabric, va := lineOf va, pa := lineOf pa,
                          mask := 0, data := 0, opened := cycle, touched := cycle, owed := 0, access := id, last := k }
    let e := { e.merge va n v k cycle with owed := 1 }
    (s.onCore w.core fun c => { c with wcb := c.wcb ++ [e], nextWcb := c.nextWcb + 1 }).drainFull w.core e.id

/-- Whether an entry holds one of `n` bytes at a virtual address. -/
def WcbEntry.hits (e : WcbEntry) (va n : Nat) : Bool := e.va == lineOf va && e.mask &&& (lineWrite va n 0).1 != 0

/-- The value of one byte that a strand's own stores still hold, with the entry that holds it: the latest one (R189). -/
def State.ownByte (s : State) (w : Sid) (va : Nat) : Option (Nat × Byte) :=
  let k := s.core w.core
  let l := k.wcb.reverse ++ (k.drains.reverse.filterMap fun d => if d.applied.isNone then some d.entry else none)
  let holds := fun (e : WcbEntry) => e.of w && !e.fabric && e.va == lineOf va && e.mask.getLsbD (va % 64)
  (l.find? holds).map fun e => (e.id, e.data.extractLsb' (8 * (va % 64)) 8)

/-! Loads in flight (R198). -/

/-- OC (R198, R234): the sectors and fetched values outstanding. A load without parts is a prefetch and does not count. -/
def Strand.oc (st : Strand) : Nat :=
  (st.flight.loads.filter fun l => !l.parts.isEmpty).foldl (fun n l => n + l.sectors.length) 0 +
  (st.flight.atomics.filter fun a => a.dest.isSome).foldl (fun n a => n + (a.parts.map fun p => p.va).dedup.length) 0

/-- A strand returns from the parked pool when OC is 0 (R198). -/
def Strand.unpark (st : Strand) : Strand := { st with sched := { st.sched with parked := st.sched.parked && st.oc != 0 } }

/-- The core's own copies of a line of the other die, and its die's RDC copy, dropped: the core has seen or made a newer value at the home (R189, R218, log entry 6). -/
def State.forget (s : State) (core line : Nat) : State :=
  if homeDie line = dieOf core then s
  else (s.onCore core fun k => { k with l1 := dropLine k.l1 line, constant := dropLine k.constant line }).dropRdc (dieOf core) line

/-- A fill of a sector into a core's L1 or constant cache (R180, R191). Of a line of the other die, whose copies no update reaches, the other of the two caches loses its copy, so that no later load of the core returns an older write (R218, log entry 6). -/
def State.fillL1 (s : State) (core : Nat) (via : LoadVia) (sec : Nat) (c : Copy) : State :=
  let turn := s.clock.turn
  let other := dieOf core != homeDie (32 * sec)
  s.onCore core fun k => match via with
    | .constant => { k with constant := fillCopy k.constant constLines turn sec c, l1 := if other then Tab.del k.l1 sec else k.l1 }
    | _ => { k with l1 := fillCopy k.l1 l1Lines turn sec c, constant := if other then Tab.del k.constant sec else k.constant }

/-- An error logged by the agent that detects it, with the address and the origin, once (R202, R454). -/
def State.detect (s : State) (x : PoisonSite) : State :=
  if s.memory.detected.contains x then s
  else (s.onMem fun m => { m with detected := m.detected ++ [x] }).count 3 1

/-- A load of a line of a failed extent is answered with poison, whose origin is the pool port (R345, R202). -/
def State.detectFailed (s : State) (line : Nat) : State :=
  match s.extent? line with
  | some (_, l) => if l.state == .failed then s.detect { origin := .port l.node, addr := line } else s
  | none => s

/-- A sector as the home serves it: poisoned where the line is, or where its extent has failed (R202, R345). -/
def State.homeSector (s : State) (sec : Nat) : BitVec 256 × Bool :=
  (Mem.sector s.memory.mem sec, s.linePoison (lineOf (32 * sec)) || s.failed (32 * sec))

/-- A sector read at its home by a core: recall (R193), access counter where `count` says so (R350), the home L2 (R192, R197), and for the other die the lease that the home records and the RDC's copy (R192). -/
def State.readHome (s : State) (core len sec : Nat) (via : LoadVia) (count : Bool) : (BitVec 256 × Bool) × State :=
  let line := lineOf (32 * sec)
  let die := dieOf core
  let s := s.reachHome line die (via == .home)
  let s := (((if count then s.countAccess line else s).fillL2 line).holdHost line (if via == .home then 2 else 1)).detectFailed line
  let v := s.homeSector sec
  let c : Copy := { data := v.1, poison := v.2, expiry := s.clock.gt + 1000 * len }
  if via = .home then (v, s.forget core line)
  else if die = homeDie line then (v, (s.fillL1 core via sec c).onMem fun m => { m with directory := trackFill m.directory line core })
  else
    let s := (s.roomRdc die line).onMem fun m => { m with
      grants := Tab.put 0 m.grants (lineNo line) (max (Tab.get 0 m.grants (lineNo line)) c.expiry)
      rdc := Tab.put none m.rdc (rdcKey die sec) (some c) }
    (v, s.fillL1 core via sec c)

/-- What a core's cache, or its die's RDC for a line of the other die, gives a load of a sector, or none where the access goes to the home (R191, R192, R193). A live copy may have been evicted (log entry 6). -/
def State.bindLocal (s : State) (core len sec : Nat) (via : LoadVia) : Option ((BitVec 256 × Bool) × State) :=
  let line := lineOf (32 * sec)
  let die := dieOf core
  let gt := s.clock.gt
  let cache := match via with | .l1 => (s.core core).l1 | .constant => (s.core core).constant | _ => []
  match (if Config.keeps (s.clock.turn * 2 ^ 57 + 2 * sec) then liveCopy cache sec gt else none) with
  | some c => some ((c.data, c.poison), s)
  | none =>
    if die = homeDie line || via == .home then none
    else if s.isOwned line then
      let c : Copy := { data := Mem.sector s.memory.mem sec, poison := s.linePoison line, expiry := gt + 1000 * len }
      some ((c.data, c.poison), s.fillL1 core via sec c)
    else match (if Config.keeps (s.clock.turn * 2 ^ 57 + 2 * sec + 1) then liveCopy s.memory.rdc (rdcKey die sec) gt else none) with
      | some c => some ((c.data, c.poison), s.fillL1 core via sec { c with expiry := min c.expiry (gt + 1000 * len) })
      | none => none

/-- The value that a load of a core binds to a sector (R204), or none while it waits at the home; `count` tells whether an access that the home performs counts (R350). -/
def State.bindSector (s : State) (core len sec : Nat) (via : LoadVia) (count : Bool) : Option (BitVec 256 × Bool) × State :=
  match s.bindLocal core len sec via with
  | some r => (some r.1, r.2)
  | none =>
    if s.homeWaits (lineOf (32 * sec)) then (none, s.fetchLine (lineOf (32 * sec)))
    else let r := s.readHome core len sec via count; (some r.1, r.2)

/-- The value of a loaded field as a word: .hs and .bs sign-extend, the others zero-extend (R184). -/
def extLoad (sub v : Nat) : Word := if sub = 2 then w32 (sx v 16) else if sub = 4 then w32 (sx v 8) else BitVec.ofNat 32 v

/-- One loaded value written to its destination, with its poison mark (R184, R202). A varying position is written in a live lane only (R169); a comb word takes its place by the cycle of the load (R52). -/
def State.fillPart (s : State) (w : Sid) (scalar : Bool) (cycle : Nat) (p : LoadPart) (v : Word) (poison : Bool) : State :=
  let mark := fun (st : Strand) (r : Reg) (m : Mask) => if poison then { st with marks := st.marks.mark r m } else st
  if scalar then
    if p.reg < 64 then s.onStrand w fun st => mark (st.putS p.reg v) (.s p.reg) 1
    else if (s.strand w).ahead.isSome then s
    else s.onComb w.core w.slot fun k => k.writeWord w.strand cycle (p.reg - 64) v poison
  else s.onStrand w fun st => let m := st.live &&& BitVec.ofNat 32 (2 ^ p.lane); mark (st.putV p.reg m fun _ => v) (.v p.reg) m

/-- The bytes of a part of a load: the strand's own where an entry still held them, else the sector's (R189). -/
def LoadPart.value (p : LoadPart) (at_ : Nat) (data : Nat) : Nat :=
  (List.range p.size).foldl (fun n k =>
    let b := match p.own.getD k none with | some x => x.2.toNat | none => bits data (8 * (at_ + k) + 7) (8 * (at_ + k))
    n + b * 2 ^ (8 * k)) 0

end Sys2Proof.Machine
end

