-- ==== Sys2Proof/Machine/Memory.lean ====
section
/-! DEFINITION. The memory instructions (R174 to R189) and the steps of the caches and buffers (R191 to R203). -/

namespace Sys2Proof.Machine
open Sys2Proof

/-- How many words a lane moves (R185). -/
def Issue.words (i : Issue) : Nat := match i.o with | .ldg | .sts => 2 * 2 ^ i.e.sub.toNat | _ => 1

/-- The bytes of one of them (R184). -/
def Issue.partSize (i : Issue) : Nat :=
  match i.o, i.e.sub.toNat with
  | .ld, 1 | .ld, 2 | .st, 1 => 2
  | .ld, 3 | .ld, 4 | .st, 2 => 1
  | _, _ => 4

/-- The access size of a lane (R184, R185). -/
def Issue.accessSize (i : Issue) : Nat := i.words * i.partSize

/-- The number of register `k` of the D group: physical for a varying one. -/
def Issue.destReg (i : Issue) (k : Nat) : Nat := (if i.dClass = .v then i.st.sp.wb else 0) + i.e.d.toNat + k

/-- The parts of a load: one for each word of each lane. -/
def State.partsOf (s : State) (i : Issue) (sp : Space) (l : List Spot) : List LoadPart :=
  l.flatMap fun x => (List.range i.words).map fun k =>
    { lane := x.lane, va := x.addr + 4 * k, pa := x.pa + 4 * k, size := i.partSize, sub := if i.o = .ld then i.e.sub.toNat else 0, reg := i.destReg k,
      own := if sp = .global then (List.range i.partSize).map fun b => s.ownByte i.w (x.addr + 4 * k + b) else [] }

/-- The lanes of a list as a mask; the one access of a uniform form stands for all. -/
def laneMask (l : List Nat) : Mask := if l.contains 32 then BitVec.allOnes 32 else Mask.of fun i => l.contains i

/-- The issuing lanes moved past a load in run-ahead or out of it, with the destinations of the lanes not loaded marked invalid (R201). -/
def State.passLoad (s : State) (i : Issue) (bad : List Nat) : State :=
  (s.advance i).onStrand i.w fun st => st.markInvalid (i.o.writes i.e i.st.sp.wb) (laneMask bad &&& i.act)

/-- A load of LM or peer LM, performed at issue in LM order (R189, R204). -/
def State.loadLm (s : State) (i : Issue) (sp : Space) (parts : List LoadPart) : State :=
  let s := parts.foldl (fun s p =>
    let core := if sp = .lm then i.w.core else (peerPlace i.w.core p.va).1
    s.fillPart i.w (once i.e) s.clock.cycle p (extLoad p.sub (s.lmRead core p.pa p.size)) (s.lmMarked core p.pa p.size)) s
  let gt := s.clock.gt
  s.onStrand i.w fun st => st.addTerms { device := gt, comb := if sp = .lm then gt else 0, system := gt }

/-- Whether a sector is a far miss for a core: no live copy within reach, and its data not in HBM (R198). -/
def State.missesFar (s : State) (core sec : Nat) (via : LoadVia) : Bool :=
  let line := lineOf (32 * sec)
  let cache := match via with | .l1 => (s.core core).l1 | .constant => (s.core core).constant | _ => []
  s.isFar line && (liveCopy cache sec s.clock.gt).isNone &&
  (via == .home || dieOf core == homeDie line || !(s.isOwned line || (liveCopy s.memory.rdc (rdcKey (dieOf core) sec) s.clock.gt).isSome))

/-- A load entered among the accesses in flight. -/
def State.pushLoad (s : State) (i : Issue) (via : LoadVia) (parts : List LoadPart) (keys : List Nat) (reserve : Bool) : State :=
  if keys.isEmpty then s
  else s.onStrand i.w fun st =>
    let x : Load := { id := st.flight.nextId, cycle := s.clock.cycle, scalar := once i.e, via := via, parts := parts, sectors := keys.map fun k => (k, none),
                      lease := st.sp.lease, discard := false, reserve := if reserve then parts.map fun p => (p.lane, p.lane) else [], failed := [] }
    { st with flight := { st.flight with nextId := x.id + 1, loads := st.flight.loads ++ [x] } }

/-- A load of global or constant space (R198): its sectors join the accesses in flight. In run-ahead a far sector is only prefetched, and its lanes are invalid (R201). -/
def State.loadGlobal (s : State) (i : Issue) (via : LoadVia) (reserve : Bool) (parts : List LoadPart) (bad : List Nat) : State :=
  let ahead := (s.strand i.w).ahead.isSome
  let secs := (parts.map fun p => sectorOf p.pa).dedup
  if i.st.oc + secs.length > 64 then s
  else
    let far := secs.filter fun k => ahead && s.missesFar i.w.core k via
    let near := secs.filter fun k => !far.contains k
    let lost := (parts.filter fun p => far.contains (sectorOf p.pa)).map fun p => p.lane
    let s := s.pushLoad i via (parts.filter fun p => near.contains (sectorOf p.pa)) near (reserve && !ahead)
    let s := s.pushLoad i via [] far false
    s.passLoad i (bad ++ lost)

/-- A load of fabric space (R384): a load that would take OC above 64 waits (R198); the strand's own entries for the lines drain first (R386), one request asks for each line, and the strand goes into the parked pool and stands at the load until every response has come. -/
def State.loadFabric (s : State) (i : Issue) (parts : List LoadPart) : State :=
  let lines := (parts.map fun p => lineOf p.va).dedup
  let secs := (parts.map fun p => sectorOf p.va).dedup
  if i.st.oc + secs.length > 64 then s
  else
  let s := s.drainWhere i.w fun e => e.fabric && lines.contains e.va
  let id := (s.strand i.w).flight.nextId
  let s := s.pushLoad i .fabric parts secs false
  let s := s.onStrand i.w fun st => { st with sched := { st.sched with wait := some (.fabric id), waitLen := i.e.bytes, parked := true } }
  lines.foldl (fun s a => s.fabRequest (.load i.w id a) 1 (s.tenantOf i.w.core i.w.slot) (fabDev a) (fabWin a) (fabOff a) .read) s

/-- The course of a load of any space (R183, R184). -/
def State.load (s : State) (i : Issue) : State :=
  if i.act = 0 then s.advance i
  else
    let sp := spaceOf i.e
    s.access i sp (i.targets s true) { size := i.accessSize, acc := .read, use := .read, more := noMore } fun spots bad s =>
      let parts := s.partsOf i sp spots
      match sp with
      | .lm | .peer => (s.loadLm i sp parts).passLoad i bad
      | .global => s.loadGlobal i .l1 false parts bad
      | .fabric => s.loadFabric i parts

/-- LD (R184). -/
def execLd (e : Enc) (s : State) : Host.Outcome State Fault Refusal := next (strandOnly .ld e s fun i s => s.load i)

/-- LDG (R185). -/
def execLdg (e : Enc) (s : State) : Host.Outcome State Fault Refusal := next (strandOnly .ldg e s fun i s => s.load i)

/-- The constant address of a lane (R175). -/
def Issue.constAddr (i : Issue) (s : State) (lane : Nat) : Nat :=
  (i.pc.extractLsb' 32 25 ++ (i.opnd s .a (lane % 32) + i.opB s) : BitVec 57).toNat

/-- LDC (R180, R188). -/
def execLdc (e : Enc) (s : State) : Host.Outcome State Fault Refusal :=
  next (strandOnly .ldc e s fun i s =>
    if i.act = 0 then s.advance i
    else s.access i .global ((i.slots (i.clean s)).map fun l => (l, i.constAddr s l)) { size := 4, acc := .read, use := .read, more := noMore } fun spots bad s =>
      s.loadGlobal i .constant false (s.partsOf i .global spots) bad)

/-! Stores. -/

/-- The value that word `k` of a lane stores (R184, R185). -/
def Issue.storeWord (i : Issue) (s : State) (lane k : Nat) : Word :=
  s.readReg i.w (regOf i.dClass i.st.sp.wb (i.e.d.toNat + k)) (lane % 32)

/-- One store of `n` bytes performed in LM, or entered in the write-combining buffer; `k` is its place among the strand's accesses (R184, R196). -/
def State.storeSpot (s : State) (w : Sid) (sp : Space) (va pa n v k : Nat) : State :=
  match sp with
  | .lm => s.lmWrite w.core pa n v
  | .peer => s.lmWrite (peerPlace w.core va).1 pa n v
  | .global => s.putWcb w false va pa n v k
  | .fabric => s.putWcb w true va va n v k

/-- The stores of an instruction in ascending lane order (R184); in LM they are performed at once, with their terms (R204, R206). -/
def State.storeAll (s : State) (i : Issue) (sp : Space) (spots : List Spot) : State :=
  let k := i.st.flight.nextId
  let s := s.onStrand i.w fun st => { st with flight := { st.flight with nextId := k + 1 } }
  let s := spots.foldl (fun s x => (List.range i.words).foldl (fun s j =>
    s.storeSpot i.w sp (x.addr + 4 * j) (x.pa + 4 * j) i.partSize (i.storeWord s x.lane j).toNat k) s) s
  let gt := s.clock.gt
  match sp with
  | .lm => s.onStrand i.w fun st => st.addTerms (Terms.all gt)
  | .peer => s.onStrand i.w fun st => st.addTerms { device := gt, comb := 0, system := gt }
  | _ => s

/-- The course of a store of any space (R183, R184); in run-ahead it writes nothing (R201). -/
def State.store (s : State) (i : Issue) : State :=
  if i.act = 0 then s.advance i
  else
    let sp := spaceOf i.e
    s.access i sp (i.targets s true) { size := i.accessSize, acc := .write, use := .write, more := noMore } fun spots _ s =>
      if (s.strand i.w).ahead.isSome then s.advance i else (s.storeAll i sp spots).advance i

/-- ST (R184). -/
def execSt (e : Enc) (s : State) : Host.Outcome State Fault Refusal := next (strandOnly .st e s fun i s => s.store i)

/-- STS (R185). -/
def execSts (e : Enc) (s : State) : Host.Outcome State Fault Refusal := next (strandOnly .sts e s fun i s => s.store i)

/-! PREF. -/

/-- The sectors of a line. -/
def sectorsOf (line : Nat) : List Nat := [line / 32, line / 32 + 1]

/-- The lanes of a PREF whose address is known: those without an invalid or poisoned operand (R187, log entry 94). -/
def Issue.prefLanes (i : Issue) (s : State) : Mask :=
  i.clean s &&& ~~~((i.o.reads i.e i.st.sp.wb).foldl (fun m r => m ||| i.markedLanes s (i.poisonOf s r) r) 0)

/-- PREF (R187): a lane whose address would fault is dropped; the lines of the others are asked for by prefetches in flight, once no table walk waits. -/
def execPref (e : Enc) (s : State) : Host.Outcome State Fault Refusal :=
  next (strandOnly .pref e s fun i s =>
    if i.act = 0 then s.advance i
    else
      let t := s.tenantOf i.w.core i.w.slot
      let targets := (i.slots (i.prefLanes s)).map fun l => (l, i.addr s true l)
      let found := targets.map fun x => s.translate i.w.core t i.st.trap.priv .read x.2
      let pas := found.filterMap fun x => match x with | .ok pa => some (lineOf pa) | .error _ => none
      let s := s.rememberAll i.w .global (targets.filter fun x => x.2 < 2 ^ 57)
      if found.any fun x => (match x with | .error .waits => true | _ => false) then s else
      let lines := pas.dedup
      let via : LoadVia := match e.sub.toNat with | 0 => .l1 | 1 => .l2 | _ => .hbm
      (s.pushLoad i via [] (if via = .l1 then lines.flatMap sectorsOf else lines.map fun l => l / 32) false).advance i)

/-! MXLD and MXST (R186). -/

/-- The bits of an MX element (R110). -/
def mxWidth (sub : Nat) : Nat := match sub with | 3 | 4 => 8 | 5 | 6 => 6 | 12 => 8 | _ => 4

/-- The two addresses of an MX block: the elements, and the scale (R186). -/
def Issue.mxAddrs (i : Issue) (s : State) : Nat × Nat :=
  let b := i.opB s
  match spaceOf i.e with
  | .lm | .peer => ((i.uA s).toNat, b.toNat)
  | _ => ((i.base s + (i.uA s).signExtend 64).toNat, (i.base s + b.signExtend 64).toNat)

/-- The bytes of an element block. -/
def mxBytes (sub : Nat) : Nat := 4 * mxWidth sub

/-- MISALIGNED for an element block: not at a multiple of 8, or across a line (R186). -/
def mxAlign (sub a : Nat) : Option Trap :=
  if a % 8 ≠ 0 ∨ a % 64 + mxBytes sub > 64 then some (Trap.of .misaligned a) else none

/-- The raw bits of element `k` of a block. -/
def mxElem (sub block k : Nat) : Word := BitVec.ofNat 32 (block / 2 ^ (mxWidth sub * k) % 2 ^ mxWidth sub)

/-- The destination registers of an MXLD filled from a block and its scale (R186), with their poison marks. -/
def State.mxFill (s : State) (w : Sid) (d sub : Nat) (act : Mask) (block scale : Nat) (poison : Bool × Bool) : State :=
  s.onStrand w fun st =>
    let m := act &&& st.live
    let st := (st.putV d m (fun l => mxElem sub block l)).putV (d + 1) m fun _ => BitVec.ofNat 32 scale
    let marks := if poison.1 then st.marks.mark (.v d) m else st.marks
    { st with marks := if poison.2 then marks.mark (.v (d + 1)) m else marks }

/-- The element block that an MXST leaves: the elements of active lanes replaced (R186). -/
def mxMerge (sub old : Nat) (act : Mask) (f : Nat → Word) : Nat :=
  (List.range 32).foldl (fun n k => n + (if act.getLsbD k then (f k).toNat % 2 ^ mxWidth sub else (mxElem sub old k).toNat) * 2 ^ (mxWidth sub * k)) 0

/-- The element data of an MXST by lane, and its scale. -/
def Issue.mxData (i : Issue) (s : State) (l : Nat) : Word := s.readReg i.w (.v (i.destReg 0)) l
/-- The scale byte of an MXST: that of the lowest active lane. -/
def Issue.mxScale (i : Issue) (s : State) : Nat := (s.readReg i.w (.v (i.destReg 1)) i.act.lowest).toNat % 256

/-- Whether word `j` of an element block keeps bits of an element that an MXST does not write: its poison mark stays (R186, R202). -/
def mxKeeps (sub : Nat) (act : Mask) (j : Nat) : Bool :=
  (List.range 32).any fun k => !act.getLsbD k && decide (mxWidth sub * k < 32 * (j + 1)) && decide (32 * j < mxWidth sub * (k + 1))

/-- The element block of an MXST written to LM: a word that keeps an element keeps its poison mark (R202). -/
def State.mxStoreLm (s : State) (core a sub : Nat) (act : Mask) (v : Nat) : State :=
  let kept := (List.range (mxWidth sub)).filter fun j => mxKeeps sub act j && s.lmMarked core (a + 4 * j) 4
  kept.foldl (fun s j => s.lmMark core (a + 4 * j) 4) (s.lmWrite core a (mxBytes sub) v)

/-- An MX access of LM or peer LM, performed at issue; the block and its scale may lie in different cores. -/
def State.mxLm (s : State) (i : Issue) (load : Bool) (e c : Nat × Nat) : State :=
  let sub := i.e.sub.toNat
  let n := mxBytes sub
  let block := s.lmRead e.1 e.2 n
  let gt := s.clock.gt
  let s := if load then s.mxFill i.w (i.destReg 0) sub i.act block (s.lmRead c.1 c.2 1) (s.lmMarked e.1 e.2 n, s.lmMarked c.1 c.2 1)
    else (s.mxStoreLm e.1 e.2 sub i.act (mxMerge sub block i.act (i.mxData s))).lmWrite c.1 c.2 1 (i.mxScale s)
  s.onStrand i.w fun st => st.addTerms { device := gt, comb := if spaceOf i.e = .lm then gt else 0, system := gt }

/-- An MX access of global memory: one request that acts at the home slices as one event (R186). -/
def State.mxGlobal (s : State) (i : Issue) (load : Bool) (ev ep sv sp : Nat) : State :=
  let sub := i.e.sub.toNat
  let s := s.drainWhere i.w fun e => !e.fabric && (e.hits ev (mxBytes sub) || e.hits sv 1)
  let elems := (List.range 32).map fun l => ({ lane := l, va := ev, pa := ep, data := zx64 (i.mxData s l), new := 0 } : AtomPart)
  let scale : AtomPart := { lane := 32, va := sv, pa := sp, data := BitVec.ofNat 64 (i.mxScale s), new := 0 }
  s.onStrand i.w fun st =>
    let id := st.flight.nextId
    let x : Atomic := { id := id, kind := if load then .mxld sub else .mxst sub, scalar := false, fabric := false,
                        parts := if load then [{ scale with va := ev, pa := ep, lane := 0 }, scale] else elems ++ [scale],
                        active := i.act, done := [], failed := [], lost := [], poison := [], dest := if load then some (i.destReg 0) else none,
                        pc := i.pc, lines := [] }
    { st with flight := { st.flight with nextId := id + 1, atomics := st.flight.atomics ++ [x] } }

/-- The course of MXLD and MXST (R183, R186). Both addresses are checked, the elements first. -/
def State.mx (s : State) (i : Issue) (load : Bool) : State :=
  if i.act = 0 then s.advance i
  else
    let sp := spaceOf i.e
    let sub := i.e.sub.toNat
    let a := i.mxAddrs s
    let n := mxBytes sub
    let acc : Access := if load then .read else .write
    let use : LockUse := if load then .read else .write
    let ahead := i.st.ahead.isSome
    if ahead && i.clean s != i.act then s.passLoad i [32]
    else match mxAlign sub a.1 with
    | some t => s.raise i t
    | none => match (s.rangeTrap i.w sp n [(0, a.1)]).or (s.rangeTrap i.w sp 1 [(32, a.2)]) with
      | some t => s.raise i t
      | none =>
        let x := s.locateAll i.w i.st.trap.priv sp acc [(0, a.1), (32, a.2)]
        let s := s.rememberAll i.w sp [(0, a.1), (32, a.2)]
        match protectOf x with
        | some t => s.raise i t
        | none =>
          if x.contains .waits then s
          else if !(faultsOf x).isEmpty then
            let r := s.queueFault i (faultsOf x)
            if r.2 then r.1.passLoad i [32] else r.1
          else
            let spots := spotsOf x
            match (s.lockTrap i.w sp use n (spots.take 1)).or (s.lockTrap i.w sp use 1 (spots.drop 1)) with
            | some t => s.raise i t
            | none =>
              let ep := (spots.map fun p => p.pa).getD 0 0
              let sp' := (spots.map fun p => p.pa).getD 1 0
              if ahead && !load then s.advance i
              else match sp with
                | .lm => (s.mxLm i load (i.w.core, ep) (i.w.core, sp')).advance i
                | .peer => (s.mxLm i load (peerPlace i.w.core a.1) (peerPlace i.w.core a.2)).advance i
                | _ =>
                  if ahead && (s.isFar (lineOf ep) || s.isFar (lineOf sp')) then
                    ((s.fetchLine (lineOf ep)).fetchLine (lineOf sp')).passLoad i [32]
                  else (s.mxGlobal i load a.1 ep a.2 sp').advance i

/-- MXLD (R186). -/
def execMxld (e : Enc) (s : State) : Host.Outcome State Fault Refusal := next (strandOnly .mxld e s fun i s => s.mx i true)

/-- MXST (R186). -/
def execMxst (e : Enc) (s : State) : Host.Outcome State Fault Refusal := next (strandOnly .mxst e s fun i s => s.mx i false)

end Sys2Proof.Machine
end

