-- ==== Sys2Proof/Machine/Caches.lean ====
section
/-! DEFINITION. The steps of the caches, the write-combining buffers and the homes (R191 to R203, R347, R349), and the steps that come before a strand's next issue (R159, R201, R415). -/

namespace Sys2Proof.Machine
open Sys2Proof

/-! Loads. -/

/-- A load in flight of a strand. -/
def Strand.load? (st : Strand) (id : Nat) : Option Load := st.flight.loads.find? fun l => l.id == id

/-- A load in flight changed by `f`. -/
def Strand.onLoad (st : Strand) (id : Nat) (f : Load → Load) : Strand :=
  { st with flight := { st.flight with loads := st.flight.loads.map fun l => if l.id = id then f l else l } }

/-- Whether a sector of a load is still to be performed. -/
def Load.open (l : Load) (sec : Nat) : Bool := l.sectors.any fun x => x.1 == sec && x.2.isNone

/-- Whether a load has still to be performed for one of `n` bytes at a virtual address. -/
def Load.awaits (l : Load) (va n : Nat) : Bool :=
  l.via != .fabric && l.parts.any fun p => meets p.va p.size va (va + n) && l.open (sectorOf p.pa)

/-- The bytes of a part of an atomic request. -/
def Atomic.partSize (a : Atomic) (p : AtomPart) : Nat :=
  match a.kind with
  | .int _ w => if w then 8 else 4
  | .float _ _ | .scnd => 4
  | .xadd | .xread _ | .xclr => 64
  | .mxld sub | .mxst sub => if p.lane = 32 then 1 else mxBytes sub

/-- Whether an atomic has still to act on one of `n` bytes at a virtual address. -/
def Atomic.awaits (a : Atomic) (va n : Nat) : Bool :=
  !a.fabric && (a.parts ++ a.lost).any fun p => meets p.va (a.partSize p) va (va + n)

/-- Whether an earlier load or atomic of the strand, below number `id`, has still to be performed for one of `n` bytes at a virtual address (R189). -/
def Strand.awaits (st : Strand) (id va n : Nat) : Bool :=
  (st.flight.loads.any fun k => k.id < id && k.awaits va n) || st.flight.atomics.any fun a => a.id < id && a.awaits va n

/-- Whether an earlier access of the strand to a byte that a load reads from a sector comes first (R189, R218). -/
def Strand.loadWaits (st : Strand) (l : Load) (sec : Nat) : Bool :=
  (l.parts.filter fun p => sectorOf p.pa == sec).any fun p => st.awaits l.id p.va p.size

/-- Whether a load may be performed for a sector. -/
def State.mayPerform (s : State) (w : Sid) (id sec : Nat) : Bool :=
  let st := s.strand w
  match st.load? id with
  | some l => l.via != .fabric && l.open sec && !st.loadWaits l sec
  | none => false

/-- A reservation granted in a place of a strand (R213); a slice holds 512, and the oldest goes (R214). -/
def State.reserve (s : State) (w : Sid) (slot va pa : Nat) : State :=
  let n := s.memory.nextResv
  let r : Resv := { addr := va, pa := pa, gt := s.clock.gt, cycle := s.clock.cycle, order := n }
  let s := (s.onStrand w fun st => { st with flight := { st.flight with resv := Tab.put none st.flight.resv slot (some r) } }).onMem fun m => { m with nextResv := n + 1 }
  let here := fun (x : Resv) => homeDie x.pa == homeDie pa && homeSlice x.pa == homeSlice pa
  let held := s.cores.flatMap fun (_, k) => k.combs.flatMap fun (_, x) => match x with
    | some x => x.strands.flatMap fun (_, st) => st.flight.resv.filterMap fun y => match y.2 with
        | some y => if here y then some y.order else none
        | none => none
    | none => []
  if held.length ≤ 512 then s
  else
    let old := held.foldl min n
    s.mapStrands fun st =>
      let keep := st.flight.resv.filter fun y => match y.2 with | some y => y.order != old | none => false
      { st with flight := { st.flight with resv := keep } }

/-- The strand's own bytes that are still unapplied when the load is performed (R189). -/
def LoadPart.keepOwn (p : LoadPart) (live : List Nat) : LoadPart :=
  { p with own := p.own.map fun x => match x with | some y => if live.contains y.1 then some y else none | none => none }

/-- The entries of a core not applied yet. -/
def Core.unapplied (k : Core) : List Nat :=
  (k.wcb.map fun e => e.id) ++ k.drains.filterMap fun d => if d.applied.isNone then some d.entry.id else none

/-- A prefetch makes the page of a device line resident in its home HBM, and with .l2 brings the line into the home L2; a host line is obtained shared (R187). The second value tells whether it is done. -/
def State.prefetchLine (s : State) (core line : Nat) (via : LoadVia) : State × Bool :=
  let s := s.fetchLine line
  if via = .hbm then (s, true)
  else if s.homeWaits line then (s, false)
  else (((s.reachHome line (dieOf core) false).fillL2 line).holdHost line 1, true)

/-- The token of a line of a load spent (R368): whether it is, and the state; a request without its token waits at the port. -/
def State.payLine (s : State) (w : Sid) (id line : Nat) : Bool × State :=
  match (s.strand w).load? id with
  | none => (false, s)
  | some l =>
    if l.paid.contains line then (true, s)
    else
      let p := s.spend w.core (s.tenantOf w.core w.slot) (.load w id line) 1
      if p.1 = 0 then (false, p.2) else (true, p.2.onStrand w fun st => st.onLoad id fun l => { l with paid := line :: l.paid })

/-- LOAD_PERFORM (R204): a sector of a load in flight is bound to the value that the agent holds. Its line has spent its token first (R368); the first sector of a line that the home performs counts as the access (R350). A prefetch makes the line's page resident, whoever answers it (R187). -/
def execLoadPerform (w : Sid) (id line : Nat) (s : State) : Host.Outcome State Fault Refusal :=
  next (if !s.mayPerform w id line then s
  else match (s.strand w).load? id with
    | none => s
    | some l =>
      let pay := s.payLine w id (lineOf (32 * line))
      if !pay.1 then pay.2
      else
        if l.via = .l2 || l.via = .hbm then
          let r := pay.2.prefetchLine w.core (lineOf (32 * line)) l.via
          if r.2 then r.1.onStrand w fun st => st.onLoad id fun l => { l with sectors := l.sectors.map fun x => if x.1 = line then (line, some (0, false)) else x }
          else r.1
        else
        let s := if l.parts.isEmpty then pay.2.fetchLine (lineOf (32 * line)) else pay.2
        let home := !l.parts.isEmpty && (s.bindLocal w.core l.lease line l.via).isNone
        let r := s.bindSector w.core l.lease line l.via (home && !l.counted.contains (line / 2))
        match r.1 with
        | none => r.2
        | some v =>
          let s := r.2
          let live := (s.core w.core).unapplied
          let s := s.onStrand w fun st =>
            let st := st.onLoad id fun l => { l with
              sectors := l.sectors.map fun x => if x.1 = line then (line, some (v.1.toNat, v.2)) else x
              counted := if home then (line / 2) :: l.counted else l.counted
              bound := if l.parts.isEmpty then l.bound else (line, s.clock.gt) :: l.bound
              parts := l.parts.map fun p => if sectorOf p.pa = line then p.keepOwn live else p }
            if l.parts.isEmpty then st else st.termOf id (Terms.all s.clock.gt)
          if !l.discard then
            (l.parts.filter fun p => sectorOf p.pa == line).foldl (fun s p => match l.reserve.find? fun x => x.1 == p.lane with
              | some x => s.reserve w x.2 p.va p.pa
              | none => s) s
          else s)

/-- Whether a load of fabric space has an answer for every line (R384). -/
def Load.answered (l : Load) : Bool := l.sectors.all fun x => x.2.isSome || l.failed.any fun f => f.1 == lineOf (32 * x.1)

/-- The failure of the lowest lane of a load of fabric space, with the lane's address (R384). -/
def Load.failure (l : Load) : Option (Nat × Nat) :=
  (l.parts.find? fun p => l.failed.any fun f => f.1 == lineOf p.va).bind fun p => (l.failed.find? fun f => f.1 == lineOf p.va).map fun f => (f.2, p.va)

/-- The end of a load of fabric space once every response has come (R384): the lanes are written, or the failure of the lowest lane is raised, which waits as a trap does (R414). A load discarded by a rollback only leaves (R166). -/
def State.endFabLoad (s : State) (w : Sid) (l : Load) : State :=
  if !l.answered then s
  else
    let gone := fun (st : Strand) =>
      (({ st with flight := { st.flight with loads := st.flight.loads.filter fun x => x.id != l.id } } : Strand).acknowledge l.id []).unpark
    if l.discard || (s.strand w).sched.wait != some (.fabric l.id) then s.onStrand w gone
    else match l.failure with
    | some (c, a) => (s.onStrand w gone).trapWait w c (BitVec.ofNat 64 a)
    | none =>
      let value := fun (p : LoadPart) => (l.sectors.find? fun x => x.1 == sectorOf p.va).bind fun x => x.2
      let s := l.parts.foldl (fun s p => match value p with
        | some v => s.fillPart w l.scalar l.cycle p (extLoad p.sub (p.value (p.va % 64) v.1)) v.2
        | none => s) s
      let gt := s.clock.gt
      s.onStrand w fun st => (gone (st.termOf l.id { device := 0, comb := 0, system := gt })).passWait s.clock.cycle

/-- LOAD_FILL (R198): a sector returns; its parts fill their destinations unless they were discarded (R166), and OC falls. -/
def execLoadFill (w : Sid) (id line : Nat) (s : State) : Host.Outcome State Fault Refusal :=
  next (match (s.strand w).load? id with
  | none => s
  | some l =>
    if l.via = .fabric then s.endFabLoad w l
    else match (l.sectors.find? fun x => x.1 == line).bind (fun x => x.2) with
      | none => s
      | some v =>
        let own := fun (p : LoadPart) => p.own.length == p.size && p.own.all fun x => x.isSome
        let s := if l.discard then s
          else (l.parts.filter fun p => sectorOf p.pa == line).foldl (fun s p =>
            s.fillPart w l.scalar l.cycle p (extLoad p.sub (p.value (p.pa % 32) v.1)) (v.2 && !own p)) s
        let s := s.onStrand w fun st => st.onLoad id fun l => { l with sectors := l.sectors.filter (fun x => x.1 != line), bound := l.bound.filter fun x => x.1 != line }
        s.onStrand w fun st =>
          let done := match st.load? id with | some l => l.sectors.isEmpty | none => false
          let st := if done then ({ st with flight := { st.flight with loads := st.flight.loads.filter fun l => l.id != id } } : Strand).acknowledge id [] else st
          st.unpark)

/-- The line that an MCAS of a strand locks next (R246). -/
def Strand.mcasNext (st : Strand) : Option Nat := match st.sched.wait with | some (.mcas m) => if m.result.isNone then m.toLock.head? else none | _ => none

/-- Whether the home has a far miss of a strand to notify (R198, R234, R246): an access that counts in OC, or the next lock of its MCAS, waits for a far line. -/
def State.mayPark (s : State) (w : Sid) : Bool :=
  let st := s.strand w
  st.live != 0 && !st.sched.parked && st.ahead.isNone &&
  ((st.flight.loads.any fun l => !l.parts.isEmpty && l.via != .fabric && l.sectors.any fun x => x.2.isNone && s.isFar (lineOf (32 * x.1))) ||
   (st.flight.atomics.any fun a => a.dest.isSome && !a.fabric && a.parts.any fun p => s.isFar (lineOf p.pa)) ||
   st.mcasNext.any s.isFar)

/-- FAR_MISS_PARK (R198). -/
def execFarMissPark (w : Sid) (s : State) : Host.Outcome State Fault Refusal :=
  next (if s.mayPark w then s.onStrand w fun st => { st with sched := { st.sched with parked := true } } else s)

/-! Stores. -/

/-- Whether an entry must drain: its strand has no live lane (R196). A full entry drains in the step of the store. -/
def State.drainDue (s : State) (core : Nat) (e : WcbEntry) : Bool := (s.strand (e.sid core)).live == 0

/-- WCB_DRAIN (R196). A displaced or fenced entry drains in the step of the store or the fence. -/
def execWcbDrain (core id : Nat) (s : State) : Host.Outcome State Fault Refusal :=
  next (match (s.core core).wcb.find? fun e => e.id == id with
  | some e => if s.drainDue core e then s.drainEntry core id else s
  | none => s)

/-- WCB_IDLE_DRAIN (R196): no store has reached the entry for 32 cycles. -/
def execWcbIdleDrain (core id : Nat) (s : State) : Host.Outcome State Fault Refusal :=
  next (match (s.core core).wcb.find? fun e => e.id == id with
  | some e => if e.touched + 32 ≤ s.clock.cycle then s.drainEntry core id else s
  | none => s)

/-- Whether an earlier load or atomic of the strand on a byte of the entry comes first (R189). -/
def Strand.storeWaits (st : Strand) (e : WcbEntry) : Bool :=
  (List.range 64).any fun b => e.mask.getLsbD b && st.awaits e.last (e.va + b) 1

/-- Whether a drained entry may go to its line: no earlier drain of its bytes and no earlier access of its strand is before it (R189, R196). -/
def State.mayGo (s : State) (core : Nat) (d : Drain) : Bool :=
  d.applied.isNone && !((s.core core).drains.any fun x => d.after_.contains x.entry.id) && !(s.strand (d.entry.sid core)).storeWaits d.entry

/-- Whether the RDC of a core's die owns a line of the other die (R193). -/
def State.ownedHere (s : State) (core line : Nat) : Bool := s.isOwned line && dieOf core != homeDie line

/-- Whether a drained entry may be applied: it may go to its line, which is neither locked nor still being fetched (R248, R347). -/
def State.mayApply (s : State) (core : Nat) (d : Drain) : Bool :=
  s.mayGo core d && !s.locked d.entry.pa && (s.ownedHere core d.entry.pa || !s.homeWaits d.entry.pa)

/-- A drained entry applied where the line is held (R193, R194): the apply time and the completion time (R195, R205) are recorded. A full line from the other die makes its RDC the owner where the home holds no live L1 lease on its own die. -/
def State.applyDrain (s : State) (core : Nat) (e : WcbEntry) : State :=
  let line := e.pa
  let die := dieOf core
  let other := die != homeDie line
  let gt := s.clock.gt
  let mine := other && s.isOwned line
  let takes := other && !mine && e.mask == BitVec.allOnes 64 && !s.sharedOn (homeDie line) line
  let s := if mine then s else s.reachHome line die false
  let s := if takes then (s.roomRdc die line).onMem fun m => { m with owned := Tab.put false m.owned (lineNo line) true } else s
  let s := if mine then s else s.countAccess line
  let s := s.applyLine line e.mask e.data
  let done := s.completion line
  let s := if takes then s.dropRdc die line else if mine then s else s.forget core line
  s.onCore core fun k => { k with drains := k.drains.map fun d =>
    if d.entry.id = e.id then { d with applied := some (if other then done else gt, done) } else d }

/-- HOME_STORE_APPLY (R194): the tokens that the entry owes are spent first (R368). -/
def execHomeStoreApply (core id : Nat) (s : State) : Host.Outcome State Fault Refusal :=
  next (match (s.core core).drains.find? fun d => d.entry.id == id with
  | none => s
  | some d =>
    if !s.mayGo core d then s
    else
      let p := if d.entry.owed = 0 then (0, s) else s.spend core (s.tenantOf core d.entry.slot) (.drain id) d.entry.owed
      let left := d.entry.owed - p.1
      let s := p.2.onCore core fun k => { k with drains := k.drains.map fun x => if x.entry.id = id then { x with entry := { x.entry with owed := left } } else x }
      if left ≠ 0 then s
      else if s.mayApply core d then s.applyDrain core d.entry
      else if !s.ownedHere core d.entry.pa then s.fetchLine d.entry.pa else s)

/-- The line as a list, where a system-scope term waits for its write-back (R206, R349). -/
def State.dirtyLine (s : State) (line : Nat) : List Nat := if isDevice line && s.isDirty line then [line] else []

/-- STORE_ACK (R195): the acknowledgement carries the completion time; a write-back since the apply gives the term of system scope (R206). -/
def execStoreAck (core id : Nat) (s : State) : Host.Outcome State Fault Refusal :=
  next (match (s.core core).drains.find? fun d => d.entry.id == id with
  | none => s
  | some d =>
    match d.applied with
    | none => s
    | some (a, c) =>
      let lines := if d.cleaned = 0 then s.dirtyLine d.entry.pa else []
      let s := s.onCore core fun k => { k with drains := k.drains.filter fun x => x.entry.id != id }
      s.onStrand (d.entry.sid core) fun st => (st.termOf d.entry.access { device := c, comb := a, system := max c d.cleaned }).acknowledge d.entry.access lines)

/-! The home. -/

/-- PAGE_FILL (R347, R362): the next line of a page being fetched arrives; where a GPREF asks for it, the home L2 is filled too. -/
def execPageFill (page line : Nat) (s : State) : Host.Outcome State Fault Refusal :=
  next (if (s.page page).resident && (s.page page).fetching.head? == some line then
    let s1 := s.onPage page fun p => { p with fetching := p.fetching.tail, toL2 := p.toL2.filter fun l => l != line }
    if (s.page page).toL2.contains line then s1.fillL2 line else s1
  else s)

/-- Whether a line is to be written back at once: a term waits for it (R349), that of a write of SUMMARY among them (R438), or its extent is revoking (R344). -/
def State.needsClean (s : State) (line : Nat) : Bool :=
  s.isDirty line &&
  ((match s.extent? line with | some (_, l) => l.state == .revoking | none => false) ||
   (s.allCombs.any fun x => (x.strands.any fun (_, st) => st.flight.tokens.any fun t => t.lines.contains line) || (x.reqs.any fun q => q.counts.any fun c => c.line == some line)) ||
   (s.sched.swarms.any fun (_, x) => x.window.any fun c => c.lines.contains line) ||
   (s.mgmt.command == some 1 && s.mgmt.cmdDone && decide (s.mgmt.op0.toNat ≤ line) && decide (line < s.mgmt.op0.toNat + 17536)))

/-- WRITEBACK_ACK (R349): it waits while the extent is expired or failed. -/
def execWritebackAck (line : Nat) (s : State) : Host.Outcome State Fault Refusal :=
  next (if s.needsClean line && s.served line then s.lineCleaned line else s)

/-- LATE_WRITEBACK_ARRIVAL (R203): the write-back with this transaction identifier reaches the home, which discards it where it has already taken the line from the eviction buffer, and installs it otherwise; the buffer is free. -/
def execLateWritebackArrival (tx : Nat) (s : State) : Host.Outcome State Fault Refusal :=
  next (match s.memory.evictions.find? fun x => x.tx == tx with
  | none => s
  | some x =>
    let s := s.onMem fun m => { m with evictions := m.evictions.filter fun y => y.tx != tx }
    if x.taken then s else s.fillL2 x.line)

/-- Two sibling halves that may merge (R194): 16 µs without an update that reached a sharer without the line. -/
def siblings (a b : DirRegion) (gt : Nat) : Bool :=
  a.lines == b.lines && a.lines < 1024 && a.base % (128 * a.lines) == 0 && b.base == a.base + 64 * a.lines && a.stale + 16000 ≤ gt && b.stale + 16000 ≤ gt

/-- DIRECTORY_MERGE (R194). -/
def execDirectoryMerge (base : Nat) (s : State) : Host.Outcome State Fault Refusal :=
  next (let d := s.memory.directory
  match d.findSome? fun a => if a.base = base then (d.find? fun b => siblings a b s.clock.gt).map fun b => (a, b) else none with
  | some (a, b) =>
    let r : DirRegion := { base := a.base, lines := 2 * a.lines, sharers := (a.sharers ++ b.sharers).dedup, stale := max a.stale b.stale }
    s.onMem fun m => { m with directory := r :: m.directory.filter fun x => x != a && x != b }
  | none => s)

/-- POISON_DETECT (R202, R454): the agent that detects an uncorrectable error poisons the line, or the word of LM, and logs it once with the address and the origin. -/
def execPoisonDetect (site : PoisonSite) (s : State) : Host.Outcome State Fault Refusal :=
  let addr := site.addr
  next (match site.origin with
  | .lm core => if s.lmMarked core addr 1 then s else (((s.lmMark core addr 1).onMem fun m => { m with detected := m.detected ++ [site] }).count 3 1).interrupt
  | _ => if s.linePoison (lineOf addr) then s
    else (s.onMem fun m => { m with poison := Tab.put false m.poison (lineNo addr) true, detected := m.detected ++ [site] }).count 3 1 |>.interrupt)

/-! Before a strand's next issue. -/

/-- Whether a strand stands before an issue: it has a live lane and waits for nothing (R159, R201). -/
def State.stands (s : State) (w : Sid) : Bool := (s.strand w).runnable && (s.comb w.core w.slot).batches.isEmpty

/-- FAIRNESS_BURST (R159): the issuing group becomes the held set. -/
def execFairnessBurst (w : Sid) (s : State) : Host.Outcome State Fault Refusal :=
  next (if s.stands w && (s.strand w).burstDue s.clock.cycle then s.onStrand w fun st =>
    let b : Burst := { held := st.group, pc := st.issuePc, left := 256 }
    { st with sched := { st.sched with burst := some b } } else s)

/-- BURST_END (R159): FC is set to 0 (R158). -/
def execBurstEnd (w : Sid) (s : State) : Host.Outcome State Fault Refusal :=
  next (if s.stands w && (s.strand w).burstOver then s.onStrand w fun st => { st with sched := { st.sched with burst := none, fc := 0 } } else s)

/-- Whether a strand's run-ahead has ended, or ends because an asynchronous fault comes before the next issue (R415). -/
def Strand.aheadOver (st : Strand) : Bool := match st.ahead with | some a => a.ended || st.asyncDue | none => false

/-- RUN_AHEAD_END (R201): the batch is sent and the strand rolls back (R166). -/
def execRunAheadEnd (w : Sid) (s : State) : Host.Outcome State Fault Refusal :=
  next (if (s.strand w).aheadOver then s.endAhead w else s)

/-- Whether an asynchronous fault may be delivered to a strand (R415): at an issue, or at a wait that delivery abandons. -/
def State.mayDeliver (s : State) (w : Sid) : Bool :=
  let st := s.strand w
  let waits := match st.sched.wait with
    | none => true
    | some (.bbwait _ _) | some (.fwait _) | some (.barc _ _) | some (.notify _ _ _ _) => true
    | some .sequencer => (s.core w.core).matrix.waiters.any fun x => x.slot == w.slot && x.strand == w.strand && (x.cmd.op == .mrun || x.cmd.op == .mrunReg)
    | some _ => false
  st.live != 0 && st.asyncDue && waits && st.sched.pend.isNone && !st.sched.parked && !st.sched.fparked && !st.sched.stopped && !st.sched.retired && st.ahead.isNone &&
  st.entryFree && (s.comb w.core w.slot).batches.isEmpty && (s.comb w.core w.slot).phase == .running

/-- The asynchronous fault that comes next (R415). -/
def Strand.nextAsync (st : Strand) : Option AsyncFault := if st.act then st.sched.async.find? fun f => f.cause == 0x28 else st.sched.async.head?

/-- ASYNC_FAULT_DELIVERY (R415): the strand abandons its wait and enters its handler, or with ACT = 1 meets a double fault (R416). -/
def execAsyncFaultDelivery (w : Sid) (s : State) : Host.Outcome State Fault Refusal :=
  next (if !s.mayDeliver w then s
  else match (s.strand w).nextAsync with
    | none => s
    | some f =>
      let s := s.onStrand w fun st => { st with sched := { st.sched with async := st.sched.async.erase f, wait := none } }
      let s := s.onCore w.core fun k => { k with matrix := { k.matrix with waiters := k.matrix.waiters.filter fun x => !(x.slot == w.slot && x.strand == w.strand) } }
      let st := s.strand w
      s.takeTrap w f.cause f.tval st.issuePc st.group f.seq)

end Sys2Proof.Machine
end

