-- ==== Sys2Proof/Machine/Ordering.lean ====
section
/-! DEFINITION. The ordering instructions: fences and tokens (R206 to R211), comb barriers (R212), reservations (R213 to R215), the lease length (R216) and global time (R217), with the snoops of R225. -/

namespace Sys2Proof.Machine
open Sys2Proof

/-! Fences. -/

/-- The scope of an ordering instruction: SUB 0 device, 1 comb, 2 system (R206). -/
def scopeOf (sub : BitVec 8) : Scope := match sub.toNat with | 0 => .device | 1 => .comb | _ => .system

/-- The store accesses of a strand in fabric space that have no final response. -/
def State.fabStores (s : State) (w : Sid) : List Nat :=
  (((s.core w.core).wcb.filter fun e => e.of w && e.fabric).map fun e => e.access) ++
  s.fabric.targets.flatMap fun (_, t) => t.out.filterMap fun o => match o.use with | .store v id => if v = w then some id else none | _ => none

/-- The accesses of a strand that a fence of a scope covers and that are not acknowledged (R206, R208). -/
def State.covered (s : State) (w : Sid) (sc : Scope) : List Nat :=
  let f := (s.strand w).flight
  let fab := s.fabStores w
  ((f.loads.filter fun l => !l.parts.isEmpty && (sc == .system || l.via != .fabric)).map fun l => l.id) ++
  ((f.atomics.filter fun a => sc == .system || !a.fabric).map fun a => a.id) ++
  (f.stores.filter fun x => sc == .system || !fab.contains x) ++
  (if sc = .system then f.qsubs.map fun q => q.id else [])

/-- A token begun for register `reg`: the covered entries drain, and the covered accesses are recorded with the latest term so far and GT (R208). -/
def State.beginToken (s : State) (w : Sid) (sc : Scope) (reg : Nat) : State :=
  let s := s.drainWhere w fun e => sc == .system || !e.fabric
  let ids := s.covered w sc
  let gt := s.clock.gt
  s.onStrand w fun st =>
    let t : PendingToken := { reg := reg, scope := sc, ids := ids, lines := if sc = .system then st.flight.lines else [],
                              term := Nat.max gt (st.flight.terms.of sc) }
    { st with flight := { st.flight with tokens := st.flight.tokens ++ [t] } }

/-- Whether every access and write-back that a token waits for is acknowledged. -/
def State.tokenDone (s : State) (t : PendingToken) : Bool := t.ids.isEmpty && t.lines.all fun l => !s.isDirty l

/-- A token written to its register once it is done (R208). -/
def State.writeToken (s : State) (w : Sid) (reg : Nat) : State :=
  match (s.strand w).flight.tokens.find? fun t => t.reg == reg with
  | none => s
  | some t =>
    if reg ≥ 64 || !s.tokenDone t then s
    else s.onStrand w fun st =>
      let st := st.putS reg (BitVec.ofNat 32 t.term)
      { st with flight := { st.flight with tokens := st.flight.tokens.filter fun x => x.reg != reg } }

/-- FENCE (R208): a fifth FENCE waits to issue; with nothing to wait for the token is written at once. -/
def execFence (e : Enc) (s : State) : Host.Outcome State Fault Refusal :=
  next (strandOnly .fence e s fun i s =>
    if i.act ≠ 0 ∧ (i.st.flight.tokens.filter fun t => t.reg < 64).length ≥ 4 then s
    else effect noCheck (fun i s => (s.beginToken i.w (scopeOf e.sub) e.d.toNat).writeToken i.w e.d.toNat) i s)

/-- FENCE_TOKEN_WRITE (R208). -/
def execFenceTokenWrite (w : Sid) (reg : Nat) (s : State) : Host.Outcome State Fault Refusal := next (s.writeToken w reg)

/-- Whether the register of a token has no pending write and GT has passed its value (R209). -/
def State.tokenPassed (s : State) (w : Sid) (reg : Nat) : Bool :=
  !(s.strand w).pendingRegs.contains (.s reg) && gtPassed s.clock.gt (Tab.get 0 (s.strand w).regs.s reg)

/-- FWAIT (R209). -/
def execFwait (e : Enc) (s : State) : Host.Outcome State Fault Refusal :=
  next (strandOnly .fwait e s fun i s =>
    if s.tokenPassed i.w e.a.toNat then s.advance i
    else s.onStrand i.w fun st => { st with sched := { st.sched with wait := some (.fwait e.a.toNat), waitLen := e.bytes } })

/-- FWAIT_WAKE (R209). -/
def execFwaitWake (w : Sid) (s : State) : Host.Outcome State Fault Refusal :=
  next (match (s.strand w).sched.wait with
  | some (.fwait r) => if s.tokenPassed w r then s.onStrand w fun st => st.passWait s.clock.cycle else s
  | _ => s)

/-- FTEST (R210). -/
def execFtest (e : Enc) (s : State) : Host.Outcome State Fault Refusal :=
  next (strandOnly .ftest e s (effect noCheck fun i s => s.writeS i.w e.d.toNat (if s.tokenPassed i.w e.a.toNat then 1 else 0)))

/-! Barriers. -/

/-- BARC (R212): the strand waits at the barrier with the token that a fence of the scope would give. -/
def execBarc (e : Enc) (s : State) : Host.Outcome State Fault Refusal :=
  next (strandOnly .barc e s fun i s =>
    if i.act = 0 then s.advance i
    else
      let s := (s.onStrand i.w Strand.closeRegion).beginToken i.w (scopeOf e.sub) 64
      s.onStrand i.w fun st => { st with sched := { st.sched with wait := some (.barc e.b.toNat (e.sub == 1)), waitLen := e.bytes } })

/-- Whether a strand has arrived at barrier `n` (R212). -/
def State.arrived (s : State) (w : Sid) (n : Nat) : Bool :=
  match (s.strand w).sched.wait with
  | some (.barc m _) => m == n && (s.strand w).flight.tokens.all fun t => t.reg != 64 || (s.tokenDone t && t.term < s.clock.gt)
  | _ => false

/-- The participants of a comb's barriers: its strands that have not retired (R212). -/
def State.participants (s : State) (core slot : Nat) : List Sid :=
  ((s.comb core slot).strands.filter fun x => !x.2.sched.retired).map fun x => { core := core, slot := slot, strand := x.1 }

/-- Whether a barrier releases its waiters (R212). -/
def State.barcReady (s : State) (core slot n : Nat) : Bool :=
  let p := s.participants core slot
  !p.isEmpty && p.all fun w => s.arrived w n

/-- BARC_RELEASE (R212). -/
def execBarcRelease (core slot barrier : Nat) (s : State) : Host.Outcome State Fault Refusal :=
  next (if s.barcReady core slot barrier then
    (s.participants core slot).foldl (fun s w => s.onStrand w fun st =>
      let st := st.passWait s.clock.cycle
      { st with flight := { st.flight with tokens := st.flight.tokens.filter fun t => t.reg != 64 } }) s
  else s)

/-! Reservations. -/

/-- LRES (R213): performed at the home; its slots give up the reservations that they hold or would still take (log entry 110); run-ahead takes no reservation. -/
def execLres (e : Enc) (s : State) : Host.Outcome State Fault Refusal :=
  next (strandOnly .lres e s fun i s =>
    if i.act = 0 then s.advance i
    else s.access i .global (i.targets s true) { size := 4, acc := .read, use := .read, more := noMore } fun spots bad s =>
      let s := if (s.strand i.w).ahead.isSome then s else s.onStrand i.w fun st => st.dropResv (spots.map fun x => x.lane)
      s.loadGlobal i .home true (s.partsOf i .global spots) bad)

/-- SCND (R215): one conditional store for each lane, decided at the home slices with the reservations that its slots now give up to it (log entry 110). -/
def execScnd (e : Enc) (s : State) : Host.Outcome State Fault Refusal :=
  next (strandOnly .scnd e s fun i s =>
    if i.act = 0 then s.advance i
    else s.access i .global (i.targets s false) { size := 4, acc := .write, use := .write, more := noMore } fun spots _ s =>
      let s := s.onStrand i.w Strand.closeRegion
      let s := s.drainWhere i.w fun e => !e.fabric && spots.any fun x => e.hits x.addr 4
      let parts := spots.map fun x => ({ lane := x.lane, va := x.addr, pa := x.pa, data := zx64 (i.opnd s .b (x.lane % 32)), new := 0 } : AtomPart)
      let s := s.onStrand i.w fun st =>
        let id := st.flight.nextId
        let x : Atomic := { id := id, kind := .scnd, scalar := once e, fabric := false, parts := parts, active := i.act, done := [], failed := [], lost := [], poison := [],
                            dest := some e.d.toNat, pc := i.pc, lines := [] }
        let st := st.takeResv id (spots.map fun x => x.lane)
        { st with flight := { st.flight with nextId := id + 1, atomics := st.flight.atomics ++ [x] } }
      s.advance i)

/-- RESERVATION_EXPIRY (R214): 2 µs after the grant. -/
def execReservationExpiry (w : Sid) (resv : Nat) (s : State) : Host.Outcome State Fault Refusal :=
  next (match Tab.get none (s.strand w).flight.resv resv with
  | some r => if r.gt + 2000 ≤ s.clock.gt then s.onStrand w fun st => st.dropResv [resv] else s
  | none => s)

/-! Lease length and time. -/

/-- LEASE (R216). -/
def execLease (e : Enc) (s : State) : Host.Outcome State Fault Refusal :=
  next (strandOnly .lease e s (effect
    (fun i s => let v := i.opB s; if v.toNat < 1 ∨ v.toNat > 64 then some { cause := .illegalOperand, tval := zx64 v } else none)
    fun i s =>
      let v := (i.opB s).toNat
      let s := s.onStrand i.w fun st => { st with sp := { st.sp with lease := v } }
      if e.sub = 1 then s.writeS i.w e.d.toNat (BitVec.ofNat 32 i.st.sp.lease) else s))

/-- GTIME (R217). -/
def execGtime (e : Enc) (s : State) : Host.Outcome State Fault Refusal :=
  next (strandOnly .gtime e s (effect noCheck fun i s =>
    let t := s.gt64
    let lo := s.writeS i.w e.d.toNat (t.extractLsb' 0 32)
    if e.sub = 0 then lo.writeS i.w (e.d.toNat + 1) (t.extractLsb' 32 32) else lo))

/-! Snoops (R225). -/

/-- A line withdrawn from its home die's L1 sharers, with the reservations on it; the answer waits for the latest lease of the other die. -/
def State.withdraw (s : State) (line : Nat) (mask : Dbl) (data : LineBits) : State :=
  let s := (s.recall line).clearResv line
  let s := s.onL1s (homeDie line) fun t => dropLine t line
  let x : Snoop := { line := line, expiry := Tab.get 0 s.memory.grants (lineNo line), mask := mask, data := data }
  s.onMem fun m => { m with snoops := m.snoops ++ [x] }

/-- Whether a snoop may act on a line now: none is being answered and no MCAS holds it. -/
def State.snoopable (s : State) (line : Nat) : Bool := !(s.memory.snoops.any fun x => x.line == line) && !s.locked line

/-- The bytes that the host stores to one of its lines (R225, R474); a store takes the reservations on the line (R214). -/
def State.hostStore (s : State) (line : Nat) (mask : Dbl) (data : LineBits) : State :=
  let s := if mask = 0 then s else s.clearResv line
  s.onMem fun m => { m with mem := Mem.writeMasked m.mem line mask.toNat data.toNat 64 }

/-- HOST_SNOOP (R225): the host takes one of its lines to read it or to store to it. A line that the die-0 slice does not hold needs no snoop: the host stores to it at once. -/
def execHostSnoop (take : HostTake) (s : State) : Host.Outcome State Fault Refusal :=
  let line := take.line
  next (if !(isHost line && line % 64 == 0) then s
  else if !s.snoopable line then s.again false
  else if Tab.get 0 s.memory.hostLines (lineNo line) = 0 then s.hostStore line take.mask take.data
  else s.withdraw line take.mask take.data)

/-- BACK_INVALIDATE (R365): a line of a shared read-only extent. -/
def execBackInvalidate (line : Nat) (s : State) : Host.Outcome State Fault Refusal :=
  next (match s.extent? line with
  | some (_, l) => if isDevice line && line % 64 == 0 && l.kind == .shared && s.snoopable line then s.withdraw line 0 0 else s
  | none => s)

/-- Whether the answer to a snoop may go: the other die's lease has expired (R225). -/
def State.mayAnswer (s : State) (line : Nat) : Bool := s.memory.snoops.any fun x => x.line == line && x.expiry ≤ s.clock.gt

/-- SNOOP_RESPONSE (R225): the line is given up. A host line goes to the host with its data, and takes what the host stores to it; the next fetch of a shared pool line finds what its owner has left (log entry 20). -/
def execSnoopResponse (line : Nat) (s : State) : Host.Outcome State Fault Refusal :=
  next (match s.memory.snoops.find? fun x => x.line == line && decide (x.expiry ≤ s.clock.gt) with
  | none => s
  | some x =>
    let s := s.onMem fun m => { m with
      snoops := m.snoops.filter fun x => x.line != line
      hostLines := Tab.del m.hostLines (lineNo line)
      l2 := Tab.del m.l2 (lineNo line) }
    if isHost line then
      let a : HostAnswer := { pa := line, data := (Mem.line s.memory.mem line).toNat, poison := s.linePoison line }
      { s with host := { s.host with answers := s.host.answers ++ [a] } }.hostStore line x.mask x.data
    else
      let s := s.hostStore line (BitVec.allOnes 64) (Config.outside s.clock.turn)
      if isDevice line && (s.page line).resident then s.onPage line fun p => { p with fetching := p.fetching ++ [line] } else s)

end Sys2Proof.Machine
end

