-- ==== Sys2Proof/Machine/Atomics.lean ====
section
/-! DEFINITION. The atomic instructions (R226 to R242) and the multi-word compare-and-swap (R243 to R248). -/

namespace Sys2Proof.Machine
open Sys2Proof

/-! What an atomic computes. -/

/-- The new value of an integer atomic on `n` bytes: the old value, the data, and CAS's new value (R237, R238). -/
def applyInt (op : AtomOp) (n o x new : Nat) : Nat :=
  let m := 2 ^ (8 * n)
  let lt := fun (a b : Nat) => decide (sx a (8 * n) < sx b (8 * n))
  match op with
  | .add => (o + x) % m
  | .and => o &&& x
  | .or => o ||| x
  | .xor => o ^^^ x
  | .min => if lt x o then x else o
  | .max => if lt o x then x else o
  | .minu => min o x
  | .maxu => max o x
  | .xchg => x
  | .incw => if o ≥ x then 0 else (o + 1) % m
  | .decw => if o = 0 ∨ o > x then x else o - 1
  | .cas => if o = x then new else o

/-- The operation that SUB of ATOM and ATOMN names (R229). -/
def atomOpOf (sub : Nat) : AtomOp :=
  match sub % 16 with
  | 0 => .add | 1 => .and | 2 => .or | 3 => .xor | 4 => .min | 5 => .max | 6 => .minu | 7 => .maxu | 8 => .xchg | 9 => .incw | _ => .decw

/-- Whether a reduction tree combines the lanes of an operation (R233). -/
def reduces : AtomOp → Bool | .incw | .decw | .cas => false | _ => true

/-- The new word of an ATOMF (R239): RNE and saturation column 00, element by element. -/
def applyFloat (op fmt : Nat) (o x : Word) : Word :=
  byElement (if fmt = 0 then 0 else 1) (fun _ p q _ =>
    let f := fmtOf fmt
    if op = 0 then f.sat 0 (roundTo f .rne 0 ((f.decode p).add (f.decode q) .rne)) else pickFloat fmt (op == 2) p q) o x 0

/-! Exact-sum lines (R106 to R108). -/

/-- ACC of a line. -/
def sumAcc (line : Nat) : Int := sx (line % 2 ^ 508) 508

/-- The line after an FP32 value is added (R107). -/
def sumAdd (line : Nat) (x : Word) : Nat :=
  match (fmtOf 0).decode x.toNat with
  | .nan => line ||| 2 ^ 511
  | .inf false => line ||| 2 ^ 510
  | .inf true => line ||| 2 ^ 509
  | .num _ d =>
    let a := sumAcc line + d.s * 2 ^ (d.e + 149).toNat
    let out := decide (a < -(2 ^ 507 : Int)) || decide (a > 2 ^ 507 - 1)
    let flags := line / 2 ^ 508 * 2 ^ 508
    (if out then flags ||| 2 ^ 508 else flags) + (a % 2 ^ 508).toNat

/-- The line read as FP32 (R108). -/
def sumRead (line : Nat) (mode : Dbl) (pc : Pc) (lane : Nat) : Word :=
  if bit line 511 || bit line 508 || (bit line 510 && bit line 509) then BitVec.ofNat 32 (fmtOf 0).canonical
  else if bit line 510 then 0x7F800000
  else if bit line 509 then 0xFF800000
  else
    let a := sumAcc line
    if a = 0 then 0 else BitVec.ofNat 32 (roundIn mode pc 0 (modeRm mode) lane 0 (.mag (decide (a < 0)) a.natAbs (-149) false))

/-! The course of an atomic. -/

/-- The bytes that an atomic acts on (R231). -/
def AtomKind.size : AtomKind → Nat
  | .int _ w => if w then 8 else 4
  | .float _ _ | .scnd => 4
  | .xadd | .xread _ | .xclr => 64
  | .mxld _ | .mxst _ => 4

/-- The kind of an atomic instruction (R229). -/
def atomKind (o : Op) (e : Enc) : AtomKind :=
  let sub := e.sub.toNat
  match o with
  | .cas => .int .cas (sub ≥ 16)
  | .atomf => .float (sub % 4) (sub / 4)
  | .xadd => .xadd
  | .xread => .xread (sub == 1)
  | .xclr => .xclr
  | _ => .int (atomOpOf sub) (sub ≥ 16)

/-- Whether an instruction may act on a target (R227). -/
def supported (k : AtomKind) (sp : Space) (pa : Nat) : Bool :=
  match k, sp with
  | .int _ _, _ => true
  | .float _ _, .fabric => false
  | .float _ _, .global => isDevice pa
  | .float _ _, _ => true
  | _, .global => isDevice pa
  | _, _ => false

/-- The kind of access of an atomic (R231, R352): XREAD needs read permission only, and with .clr it writes. -/
def AtomKind.access : AtomKind → Access | .xread false => .read | .xread true => .clear | _ => .atomic

/-- The data of a field by lane: a pair in the .d width, an immediate or literal sign-extended (R230). -/
def Issue.atomOpnd (i : Issue) (s : State) (f : Fld) (wide : Bool) (lane : Nat) : Dbl :=
  let l := lane % 32
  let lo := i.opnd s f l
  if !wide then zx64 lo
  else if (f = .b ∧ i.e.i) ∨ i.e.literal i.o f then lo.signExtend 64
  else
    let c := classOf i.e.tf.toNat f
    pair64 (s.readReg i.w (regOf c i.st.sp.wb (i.e.field f + 1)) l) lo

/-- What a lane of an atomic brings: its data, CAS's new value, and for XREAD the mode. -/
def Issue.atomPart (i : Issue) (s : State) (k : AtomKind) (x : Spot) : AtomPart :=
  let wide := match k with | .int _ w => w | _ => false
  { lane := x.lane, va := x.addr, pa := x.pa
    data := match k with | .xread _ => i.st.sp.mode | .xclr => 0 | _ => i.atomOpnd s .b wide x.lane
    new := if i.o = .cas then i.atomOpnd s .d wide x.lane else 0 }

/-- The destination of an atomic's fetched values, if it writes one. -/
def Issue.atomDest (i : Issue) : Option Nat :=
  match i.o with
  | .atomn | .xadd | .xclr => none
  | .atomf => if i.e.qbit 2 then none else some (i.destReg 0)
  | _ => some (i.destReg 0)

/-- The value left at a target and what each lane fetched, the lanes acting in order (R232). -/
def actOn (k : AtomKind) (pc : Pc) (v : Nat) (parts : List AtomPart) : Nat × List (Nat × Dbl) :=
  parts.foldl (fun r p =>
    let v := r.1
    let new := match k with
      | .int op wide => applyInt op (if wide then 8 else 4) v p.data.toNat p.new.toNat
      | .float op fmt => (applyFloat op fmt (BitVec.ofNat 32 v) (p.data.setWidth 32)).toNat
      | .xadd => sumAdd v (p.data.setWidth 32)
      | .xread c => if c then 0 else v
      | .xclr => 0
      | _ => v
    let got : Dbl := match k with
      | .xread _ => zx64 (sumRead v p.data pc p.lane)
      | _ => BitVec.ofNat 64 v
    (new, r.2 ++ [(p.lane, got)])) (v, [])

/-- Whether the group's event is a write (R232, R238, R241). -/
def writesTarget (k : AtomKind) (got : List (Nat × Dbl)) (parts : List AtomPart) : Bool :=
  match k with
  | .int .cas _ => parts.any fun p => got.any fun g => g.1 == p.lane && g.2 == p.data
  | .xread c => c
  | _ => true

/-- The fetched values written to the destination (R44, R234, R238), in live lanes. -/
def State.writeFetched (s : State) (w : Sid) (wide scalar : Bool) (dest : Option Nat) (got : List (Nat × Dbl)) : State :=
  match dest with
  | none => s
  | some d => got.foldl (fun s g => s.onStrand w fun st =>
      let lo := g.2.setWidth 32
      let hi := g.2.extractLsb' 32 32
      if scalar then (if wide then (st.putS d lo).putS (d + 1) hi else st.putS d lo)
      else
        let m := st.live &&& BitVec.ofNat 32 (2 ^ g.1)
        let st := st.putV d m fun _ => lo
        if wide then st.putV (d + 1) m fun _ => hi else st) s

/-- Whether a kind has 64-bit data. -/
def AtomKind.wide : AtomKind → Bool | .int _ w => w | _ => false

/-- The poisoned accesses among some LM accesses (R236). -/
def State.lmBad (s : State) (i : Issue) (sp : Space) (n : Nat) (x : Spot) : Bool :=
  s.lmMarked (if sp = .lm then i.w.core else (peerPlace i.w.core x.addr).1) x.pa n

/-- The lanes that issue an atomic leave the residual mask that the strand held for it (R235). -/
def Strand.takeResid (st : Strand) (i : Issue) : Strand := if i.st.atResid then st.keepResid (~~~i.group) else st

/-- An atomic on LM or peer LM, performed at issue by the LM atomic unit (R226, R232); poisoned targets do not act and raise MEM_POISON (R236), which the strand holds until entry may take place (R234). -/
def State.atomLm (s : State) (i : Issue) (k : AtomKind) (sp : Space) (spots : List Spot) : State :=
  let n := k.size
  let bad := spots.filter (s.lmBad i sp n)
  let good := spots.filter fun x => !s.lmBad i sp n x
  let r := good.foldl (fun (r : State × List (Nat × Dbl)) x =>
    let core := if sp = .lm then i.w.core else (peerPlace i.w.core x.addr).1
    let a := actOn k i.pc (r.1.lmRead core x.pa n) [i.atomPart s k x]
    (if writesTarget k a.2 [i.atomPart s k x] then r.1.lmWrite core x.pa n a.1 else r.1, r.2 ++ a.2)) (s, [])
  let s := r.1.writeFetched i.w k.wide (once i.e) i.atomDest r.2
  let gt := s.clock.gt
  let s := s.onStrand i.w fun st =>
    let st := st.closeRegion.takeResid i
    st.addTerms { device := gt, comb := if sp = .lm then gt else 0, system := gt }
  match bad with
  | [] => s.advance i
  | x :: _ => s.holdTrap i.w { order := i.st.flight.nextId, cause := Cause.memPoison.code, tval := BitVec.ofNat 64 x.addr, tpc := i.pc, group := i.group }

/-- One fabric request for the lanes of a target (R233, R383). -/
def fabAtom (op : AtomOp) (wide : Bool) (parts : List AtomPart) : FabKind :=
  match parts with
  | [] => .read
  | p :: t =>
    if reduces op then .reduced op wide (t.foldl (fun v q => BitVec.ofNat 64 (applyInt op (if wide then 8 else 4) v.toNat q.data.toNat 0)) p.data)
    else .lanes op wide ((p :: t).map fun q => (q.data, q.new))

/-- The distinct target addresses of some parts, in order of lowest lane. -/
def targetsOf (parts : List AtomPart) : List Nat := parts.foldl (fun l p => if l.contains p.va then l else l ++ [p.va]) []

/-- An atomic on global or fabric memory: a request in flight (R233, R234). The strand stands at it until it is done in fabric space (R384), where a target is poisoned, or where the machine so chooses (log entry 21); otherwise it runs on with D pending. -/
def State.atomFar (s : State) (i : Issue) (k : AtomKind) (sp : Space) (spots : List Spot) : State :=
  let parts := spots.map (i.atomPart s k)
  let fabric := sp == .fabric
  let lines := spots.map fun x => if fabric then lineOf x.addr else lineOf x.pa
  let s := s.drainWhere i.w fun e => e.fabric == fabric && spots.any fun x => if fabric then e.va == lineOf x.addr else e.hits x.addr k.size
  let id := (s.strand i.w).flight.nextId
  let x : Atomic := { id := id, kind := k, scalar := once i.e, fabric := fabric, parts := parts, active := i.act, done := [], failed := [], lost := [], poison := [],
                      dest := i.atomDest, pc := i.pc, lines := [] }
  let s := s.onStrand i.w fun st =>
    { st.closeRegion.takeResid i with
      flight := { st.flight with nextId := id + 1, atomics := st.flight.atomics ++ [x] } }
  let stands := fabric || (lines.any s.linePoison) || Config.keeps (s.clock.turn * 2 ^ 57 + 2 ^ 55)
  let s := if stands then s.onStrand i.w fun st => { st with sched := { st.sched with wait := some (.atomic id), waitLen := i.e.bytes, parked := st.sched.parked || fabric } }
    else s.advance i
  if !fabric then s
  else match k with
    | .int op wide =>
      let targets := targetsOf parts
      let first := fun (a : Nat) => targets.find? (fun b => lineOf b == lineOf a) == some a
      targets.foldl (fun s a =>
        s.fabRequest (.atomic i.w id a) (b2n (first a)) (s.tenantOf i.w.core i.w.slot) (fabDev a) (fabWin a) (fabOff a) (fabAtom op wide (parts.filter fun p => p.va == a))) s
    | _ => s

/-- The course of an atomic instruction (R231). -/
def State.atomic (s : State) (i : Issue) : State :=
  if i.act = 0 then (s.onStrand i.w fun st => st.takeResid i).advance i
  else
    let k := atomKind i.o i.e
    let sp := spaceOf i.e
    let more := fun (l : List Spot) => (l.find? fun x => !supported k sp x.pa).map fun x => Trap.of .atomUnsupported x.addr
    s.access i sp (i.targets s false) { size := k.size, acc := k.access, use := .write, more := more } fun spots _ s =>
      match sp with
      | .lm | .peer => s.atomLm i k sp spots
      | _ => s.atomFar i k sp spots

/-- ATOM (R237). -/
def execAtom (e : Enc) (s : State) : Host.Outcome State Fault Refusal := next (strandOnly .atom e s fun i s => s.atomic i)
/-- ATOMN (R237). -/
def execAtomn (e : Enc) (s : State) : Host.Outcome State Fault Refusal := next (strandOnly .atomn e s fun i s => s.atomic i)
/-- CAS (R238). -/
def execCas (e : Enc) (s : State) : Host.Outcome State Fault Refusal := next (strandOnly .cas e s fun i s => s.atomic i)
/-- ATOMF (R239). -/
def execAtomf (e : Enc) (s : State) : Host.Outcome State Fault Refusal := next (strandOnly .atomf e s fun i s => s.atomic i)
/-- XADD (R240). -/
def execXadd (e : Enc) (s : State) : Host.Outcome State Fault Refusal := next (strandOnly .xadd e s fun i s => s.atomic i)
/-- XREAD (R241): STEP advances under R100 once the read is accepted. -/
def execXread (e : Enc) (s : State) : Host.Outcome State Fault Refusal :=
  next (strandOnly .xread e s fun i s =>
    let r := s.atomic i
    if (r.strand i.w).flight.atomics.length > i.st.flight.atomics.length then r.stepped i (modeRm i.st.sp.mode) else r)
/-- XCLR (R242). -/
def execXclr (e : Enc) (s : State) : Host.Outcome State Fault Refusal := next (strandOnly .xclr e s fun i s => s.atomic i)

/-! Atomic requests in flight. -/

/-- The parts that act together: the lanes of one address (R232), of one line for SCND (R215), the whole block for MXLD and MXST (R186). -/
def Atomic.groups (a : Atomic) : List (List AtomPart) :=
  match a.kind with
  | .mxld _ | .mxst _ => if a.parts.isEmpty then [] else [a.parts]
  | .scnd => ((a.parts.map fun p => lineOf p.pa).dedup).map fun l => a.parts.filter fun p => lineOf p.pa == l
  | _ => (targetsOf a.parts).map fun v => a.parts.filter fun p => p.va == v

/-- The lines of a group. -/
def groupLines (l : List AtomPart) : List Nat := (l.map fun p => lineOf p.pa).dedup

/-- Whether a group may act at its home: the strand's earlier drains, loads and atomics on its bytes have been performed (R189, R234), and the lines do not wait. -/
def State.groupReady (s : State) (w : Sid) (a : Atomic) (g : List AtomPart) : Bool :=
  ((groupLines g).all fun l => !s.homeWaits l) &&
  g.all fun p =>
    !((s.core w.core).drains.any fun d => d.entry.of w && d.entry.hits p.va (a.partSize p) && d.applied.isNone && d.entry.last < a.id) &&
    !(s.strand w).awaits a.id p.va (a.partSize p)

/-- An atomic in flight. -/
def Strand.atomic? (st : Strand) (id : Nat) : Option Atomic := st.flight.atomics.find? fun a => a.id == id

/-- The groups of an atomic that may act now. -/
def State.readyGroups (s : State) (w : Sid) (id : Nat) : List (List AtomPart) :=
  match (s.strand w).atomic? id with
  | some a => if a.fabric then [] else a.groups.filter (s.groupReady w a)
  | none => []

/-- The term of a write just performed at the home of a line, for a core (R205, R206). -/
def State.writeTerms (s : State) (core line : Nat) : Terms :=
  let c := s.completion line
  { device := c, comb := if dieOf core = homeDie line then s.clock.gt else c, system := c }

/-- A reservation that an SCND has taken up still held for a lane's address (R214, R215). -/
def State.reserved (s : State) (w : Sid) (id : Nat) (p : AtomPart) : Bool :=
  match Tab.get none (s.strand w).flight.resv (takenPlace id p.lane) with
  | some r => r.addr == p.va && s.clock.gt < r.gt + 2000
  | none => false

/-- SCND on the lanes of one line, in lane order (R215): the results by lane, and whether anything was written. -/
def State.scndLine (s : State) (w : Sid) (id : Nat) (g : List AtomPart) : State × List (Nat × Dbl) × Bool :=
  g.foldl (fun r p =>
    let ok := r.1.reserved w id p
    let s := r.1.onStrand w fun st => st.dropResv [takenPlace id p.lane]
    (if ok then s.homeWrite p.pa 4 p.data.toNat else s, r.2.1 ++ [(p.lane, if ok then 1 else 0)], r.2.2 || ok)) (s, [], false)

/-- The two parts of an MX block: the elements at the first part, the scale at lane 32. -/
def State.mxBlock (s : State) (w : Sid) (a : Atomic) (sub : Nat) (load : Bool) (g : List AtomPart) : State × List (Nat × Dbl) × List (Nat × Nat) :=
  let elems := g.filter fun p => p.lane != 32
  let ep := (elems.map fun p => p.pa).headD 0
  let sp := ((g.filter fun p => p.lane == 32).map fun p => p.pa).headD 0
  let n := mxBytes sub
  let block := Mem.read s.memory.mem ep n
  if load then
    let bad := fun (pa lane : Nat) => if s.linePoison (lineOf pa) || s.failed pa then [(lane, pa)] else []
    ((s.detectFailed (lineOf ep)).detectFailed (lineOf sp), ((List.range 32).map fun l => (l, zx64 (mxElem sub block l))) ++ [(32, BitVec.ofNat 64 (Mem.read s.memory.mem sp 1))], bad ep 0 ++ bad sp 32)
  else
    let v := mxMerge sub block a.active fun l => ((elems.find? fun p => p.lane == l).map fun p => p.data.setWidth 32).getD 0
    let scale := ((g.filter fun p => p.lane == 32).map fun p => p.data.toNat).headD 0
    let _ := w
    ((s.homeWrite ep n v).homeWrite sp 1 scale, [], [])

/-- What a group's action leaves: the state, the values by lane, the parts lost to a failed node, the lanes poisoned, and whether its lines were written. -/
structure Acted where
  s      : State
  got    : List (Nat × Dbl)
  lost   : List AtomPart
  poison : List (Nat × Nat)
  wrote  : Bool

/-- The action of a group at its home (R215, R186, R232, R235, R236). -/
def State.actGroup (s : State) (w : Sid) (a : Atomic) (g : List AtomPart) : Acted :=
  match a.kind with
  | .scnd => let r := s.scndLine w a.id g; { s := r.1, got := r.2.1, lost := [], poison := [], wrote := r.2.2 }
  | .mxld sub => let r := s.mxBlock w a sub true g; { s := r.1, got := r.2.1, lost := [], poison := r.2.2, wrote := false }
  | .mxst sub => let r := s.mxBlock w a sub false g; { s := r.1, got := [], lost := [], poison := [], wrote := true }
  | k =>
    let pa := (g.map fun p => p.pa).headD 0
    if s.failed pa then { s := s, got := [], lost := g, poison := [], wrote := false }
    else if s.linePoison (lineOf pa) then { s := s, got := [], lost := [], poison := g.map fun p => (p.lane, p.va), wrote := false }
    else
      let r := actOn k a.pc (Mem.read s.memory.mem pa k.size) g
      if writesTarget k r.2 g then { s := s.homeWrite pa k.size r.1, got := r.2, lost := [], poison := [], wrote := true }
      else { s := s, got := r.2, lost := [], poison := [], wrote := false }

/-- An atomic in flight changed by `f`. -/
def Strand.onAtomic (st : Strand) (id : Nat) (f : Atomic → Atomic) : Strand :=
  { st with flight := { st.flight with atomics := st.flight.atomics.map fun a => if a.id = id then f a else a } }

/-- The tokens of the lines of an atomic's group spent (R368): whether they all are, and the state. -/
def State.payAtomic (s : State) (w : Sid) (a : Atomic) (lines : List Nat) : Bool × State :=
  let owed := lines.filter fun l => !a.paid.contains l
  if owed.isEmpty then (true, s)
  else
    let p := s.spend w.core (s.tenantOf w.core w.slot) (.atomic w a.id) owed.length
    (p.1 == owed.length, p.2.onStrand w fun st => st.onAtomic a.id fun a => { a with paid := a.paid ++ owed.take p.1 })

/-- ATOMIC_EXECUTE (R232): one group of a request that reaches its agent acts; which one is not specified. -/
def execAtomicExecute (w : Sid) (id : Nat) (s : State) : Host.Outcome State Fault Refusal :=
  next (match (s.strand w).atomic? id with
  | none => s
  | some a =>
    let ready := s.readyGroups w id
    match ready[Config.choose s.clock.turn ready.length % max 1 ready.length]? with
    | none => if a.fabric then s else (a.parts.map fun p => lineOf p.pa).foldl State.fetchLine s
    | some g =>
      let lines := groupLines g
      let pay := s.payAtomic w a lines
      if !pay.1 then pay.2
      else
        let s := lines.foldl (fun s l => (((s.reachHome l (dieOf w.core) true).countAccess l).fillL2 l).holdHost l 2) pay.2
        let r := s.actGroup w a g
        let s := lines.foldl (fun s l => s.forget w.core l) r.s
        let terms := lines.foldl (fun t l => t.max (if r.wrote then s.writeTerms w.core l else Terms.all s.clock.gt)) (Terms.all 0)
        s.onStrand w fun st =>
          (st.onAtomic id fun a => { a with
            parts := a.parts.filter fun p => !g.any fun q => q.lane == p.lane
            done := a.done ++ r.got
            lost := a.lost ++ r.lost
            poison := a.poison ++ r.poison
            acted := s.clock.gt
            lines := if r.wrote then a.lines ++ lines else a.lines }).termOf id terms)

/-- The values of a finished atomic written to its destination (R44, R186, R215, R234). -/
def State.writeAtomic (s : State) (w : Sid) (a : Atomic) : State :=
  match a.kind, a.dest with
  | .scnd, some d => s.onStrand w fun st =>
      let ok := fun (l : Nat) => a.done.any fun x => (x.1 == l || a.scalar) && x.2 == 1
      st.putK d a.active (Mask.of ok)
  | .mxld _, some d => s.onStrand w fun st =>
      let m := a.active &&& st.live
      let at_ := fun (l : Nat) => ((a.done.find? fun x => x.1 == l).map fun x => x.2.setWidth 32).getD 0
      let st := (st.putV d m at_).putV (d + 1) m fun _ => at_ 32
      let marks := if a.poison.any fun x => x.1 == 0 then st.marks.mark (.v d) m else st.marks
      { st with marks := if a.poison.any fun x => x.1 == 32 then marks.mark (.v (d + 1)) m else marks }
  | k, d => s.writeFetched w k.wide a.scalar d a.done

/-- Whether an atomic's lanes without a result make it end in a trap: poisoned targets (R236), or failures in fabric space (R384). -/
def Atomic.traps (a : Atomic) : Option (Nat × Nat) :=
  let lowest := fun (l : List (Nat × Nat × Nat)) => match l with
    | [] => none
    | x :: t => let y := t.foldl (fun b y => if y.1 < b.1 then y else b) x; some (y.2.2, y.2.1)
  if a.fabric then lowest a.failed
  else match a.kind with
    | .mxld _ => none
    | _ => lowest (a.poison.map fun x => (x.1, x.2, Cause.memPoison.code))

/-- The pages of an atomic residual, in ascending order of lane (R201, R235). -/
def Atomic.residualFaults (a : Atomic) : List PageFault :=
  (sortBy (fun (x y : AtomPart) => decide (x.lane ≤ y.lane)) a.lost).map fun p =>
    { va := p.va, pa := some (cachePage p.pa), cause := Cause.poolNodeFailed.code, acc := a.kind.access.code, origin := 1 }

/-- Whether an atomic whose parts have all acted or failed may answer. -/
def State.mayAnswerAtomic (s : State) (w : Sid) (id : Nat) : Bool :=
  match (s.strand w).atomic? id with
  | some a => a.parts.isEmpty
  | none => false

/-- A finished atomic leaves the accesses in flight, and its lines are those that a fence waits for (R206, R208). -/
def State.finishAtomic (s : State) (w : Sid) (a : Atomic) : State :=
  let dirty := a.lines.flatMap s.dirtyLine
  s.onStrand w fun st => (({ st with flight := { st.flight with atomics := st.flight.atomics.filter fun b => b.id != a.id } } : Strand).acknowledge a.id dirty).unpark

/-- Lanes of an atomic did not act because of a failed node (R235): the strand keeps them as its residual mask, issues the atomic for them on resume, and its batch goes to the pager. It stands at the atomic: a node fails only after the atomics that strands have run past have acted there (log entry 21). -/
def State.parkAtomic (s : State) (w : Sid) (a : Atomic) : State :=
  let lanes := laneMask ((a.lost.map fun p => p.lane) ++ a.poison.map fun x => x.1) &&& a.active
  let s := (s.finishAtomic w a).onStrand w fun st =>
    { st with sp := { st.sp with resid := lanes, residAt := a.pc, residAct := st.act, residDone := st.at st.live a.pc &&& ~~~lanes }, sched := { st.sched with wait := none } }
  s.sendBatch w (addPages [] a.residualFaults)

/-- ATOMIC_RESPONSE (R234): the fetched values are written; lanes that did not act leave a residual (R235), or a trap (R236, R384) that the strand holds until entry may take place. Of both the residual comes first (log entry 97). -/
def execAtomicResponse (w : Sid) (id : Nat) (s : State) : Host.Outcome State Fault Refusal :=
  next (match (s.strand w).atomic? id with
  | none => s
  | some a =>
    if !s.mayAnswerAtomic w id then s
    else
      let s := s.writeAtomic w a
      if !a.lost.isEmpty then s.parkAtomic w a
      else
        let s := s.finishAtomic w a
        let stands := (s.strand w).sched.wait == some (.atomic id)
        match a.traps with
        | some (c, v) => (if stands then s.dropWait w else s).holdTrap w { order := id, cause := c, tval := BitVec.ofNat 64 v, tpc := a.pc, group := a.active }
        | none => if stands then s.onStrand w fun st => st.passWait s.clock.cycle else s)

/-! MCAS (R243 to R248). -/

/-- The offset of entry `k` of a block. -/
def mcasEntry (off k : Nat) : Nat := off + 8 + 24 * k

/-- The first byte of a window range that would conflict as a store. -/
def State.firstConflict (s : State) (w : Sid) (off n : Nat) : Option Nat :=
  ((List.range n).map fun k => off + k).find? fun a => s.conflictAt w .lm .write a 1

/-- Steps 1 and 2 of R245. -/
def State.mcasBlock (s : State) (w : Sid) (off : Nat) : Option Trap :=
  let header := s.winRead w.core w.slot off 8
  let n := bits header 3 0
  if off % 8 ≠ 0 then some (Trap.of .misaligned off)
  else if !s.inWindow w.core w.slot off 8 then some (Trap.of .pageProtect off)
  else if s.conflictAt w .lm .write off 8 then some (Trap.of .rangeConflict off)
  else if bits header 63 9 ≠ 0 ∨ bits header 7 4 ≠ 0 ∨ n < 2 ∨ n > 8 then some (Trap.of .illegalOperand header)
  else if !s.inWindow w.core w.slot off (8 + 24 * n) then some (Trap.of .pageProtect (max (off + 8) (s.comb w.core w.slot).shape.window))
  else (s.firstConflict w (off + 8) (24 * n)).map fun a => Trap.of .rangeConflict a

/-- Step 3 of R245 for one entry: its ADDR and alignment. -/
def mcasAddrTrap (at_ addr : Nat) (wide : Bool) : Option Trap :=
  let space := bits addr 59 57
  let va := bits addr 56 0
  if bits addr 63 60 ≠ 0 ∨ space > 2 then some (Trap.of .illegalOperand at_)
  else if space ≠ 0 then some (Trap.of .mcasSpan addr)
  else if va % (if wide then 8 else 4) ≠ 0 then some (Trap.of .misaligned va)
  else none

/-- The words of a block as memory holds them: ADDR, expected and new. -/
def State.mcasWords (s : State) (w : Sid) (off n : Nat) (wide : Bool) : List (Nat × Nat × Nat) :=
  (List.range n).map fun k =>
    let a := mcasEntry off k
    let v := fun (x : Nat) => if wide then x else x % 2 ^ 32
    (s.winRead w.core w.slot a 8, v (s.winRead w.core w.slot (a + 8) 8), v (s.winRead w.core w.slot (a + 16) 8))

/-- Steps 5 to 7 of R245: host memory, two entries of one PA that differ, range locks. -/
def State.mcasLate (s : State) (w : Sid) (off : Nat) (wide : Bool) (addrs : List Nat) (l : List McasWord) : Option Trap :=
  let host := ((l.zip addrs).find? fun x => isHost x.1.pa).map fun x => Trap.of .mcasSpan x.2
  let differs := fun (k : Nat) => (l.take k).any fun x => match l[k]? with
    | some y => x.pa == y.pa && (x.expected != y.expected || x.new != y.new)
    | none => false
  let twice := ((List.range l.length).find? differs).map fun k => Trap.of .illegalOperand (mcasEntry off k)
  let locked := (l.find? fun x => s.conflictAt w .global .write x.va (if wide then 8 else 4)).map fun x => Trap.of .rangeConflict x.va
  (host.or twice).or locked

/-- The distinct lines of the words in ascending PA (R246). -/
def mcasLines (l : List McasWord) : List Nat := ((l.map fun x => lineOf x.pa).dedup |> sortBy fun a b => decide (a ≤ b))

/-- MCAS past steps 1 to 7: its strand's entries for the lines drain, and the lock phase begins (R246). The strand stands at it until D is written. -/
def State.mcasStart (s : State) (i : Issue) (off : Nat) (wide : Bool) (words : List McasWord) : State :=
  let lines := mcasLines words
  let s := s.drainWhere i.w fun e => !e.fabric && lines.contains e.pa
  let m : Mcas := { block := off, wide := wide, dest := i.e.d.toNat, words := words, toLock := lines, locked := [], result := none }
  s.onStrand i.w fun st => { st with sched := { st.sched with wait := some (.mcas m), waitLen := i.e.bytes } }

/-- MCAS (R243 to R246). -/
def execMcas (e : Enc) (s : State) : Host.Outcome State Fault Refusal :=
  next (strandOnly .mcas e s fun i s =>
    if i.act = 0 then s.advance i
    else
      let w := i.w
      let off := (i.uA s).toNat
      let header := s.winRead w.core w.slot off 8
      let wide := bit header 8
      let raw := s.mcasWords w off (bits header 3 0) wide
      match s.mcasBlock w off with
      | some t => s.raise i t
      | none => match (raw.mapIdx fun k x => mcasAddrTrap (mcasEntry off k) x.1 wide).findSome? id with
        | some t => s.raise i t
        | none =>
          let addrs := raw.map fun x => x.1
          let targets := addrs.mapIdx fun k a => (k, bits a 56 0)
          let x := s.locateAll w i.st.trap.priv .global .atomic targets
          let held := s.rememberAll w .global targets
          match protectOf x with
          | some t => held.raise i t
          | none =>
            if x.contains .waits then held
            else if !(faultsOf x).isEmpty then (held.queueFault i (faultsOf x)).1
            else
              let words := ((spotsOf x).zip raw).map fun (p, r) => ({ va := p.addr, pa := p.pa, expected := r.2.1, new := r.2.2 } : McasWord)
              match s.mcasLate w off wide addrs words with
              | some t => held.raise i t
              | none => held.mcasStart i off wide words)

/-- The locks of a strand released. -/
def State.unlock (s : State) (w : Sid) : State := s.onMem fun m => { m with locks := m.locks.filter fun l => l.owner != w }

/-- The issue that a strand waits in, for a fault found while it waits. -/
def State.waitIssue (s : State) (w : Sid) (o : Op) : Issue :=
  let st := s.strand w
  { w := w, o := o, e := nopEnc, st := st, pc := st.issuePc, group := st.group, act := st.group }

/-- The observed values written to the block, then the mask to D (R247). -/
def State.mcasFinish (s : State) (w : Sid) (m : Mcas) (obs : List Nat) (mask : Nat) : State :=
  let s := (obs.mapIdx fun k v => (k, v)).foldl (fun s x => s.winWrite w.core w.slot (mcasEntry m.block x.1 + 8) 8 x.2) s
  (s.onStrand w fun st => st.putS m.dest (BitVec.ofNat 32 mask)).onStrand w fun st => st.passWait s.clock.cycle

/-- The entries compared once every line is locked (R246): a failed MCAS ends at once; a successful one is to be committed at T. -/
def State.mcasCompare (s : State) (w : Sid) (m : Mcas) : State :=
  let n := if m.wide then 8 else 4
  let obs := m.words.map fun x => Mem.read s.memory.mem x.pa n
  let mask := (m.words.zip obs).foldr (fun x v => 2 * v + (if x.2 = x.1.expected then 0 else 1)) 0
  let s := s.onStrand w Strand.closeRegion
  if mask ≠ 0 then
    ((m.locked.foldl (fun s l => s.forget w.core l) (s.unlock w)).mcasFinish w m obs mask).onStrand w fun st => st.addTerms (Terms.all s.clock.gt)
  else
    let t := m.locked.foldl (fun t l => max t (s.completion l)) s.clock.gt
    let s := s.onMem fun y => { y with locks := y.locks.map fun l => if l.owner = w then { l with until_ := some t } else l }
    s.onStrand w fun st => { st with sched := { st.sched with wait := some (.mcas { m with result := some (obs, mask, t) }) } }

/-- The MCAS that a strand waits in. -/
def Strand.mcas? (st : Strand) : Option Mcas := match st.sched.wait with | some (.mcas m) => some m | _ => none

/-- Whether the strand's own drains for a line have been applied (R246), and its earlier loads and atomics of the words there performed (R189, R234). -/
def State.drained (s : State) (w : Sid) (m : Mcas) (line : Nat) : Bool :=
  let st := s.strand w
  !((s.core w.core).drains.any fun d => d.entry.of w && d.entry.pa == line && d.applied.isNone) &&
  (m.words.filter fun x => lineOf x.pa == line).all fun x => !st.awaits st.flight.nextId x.va (if m.wide then 8 else 4)

/-- The faults of the lock phase (R245 step 8): a node failure is handled as a fault of step 4. -/
def State.mcasFailed (s : State) (w : Sid) (m : Mcas) (line : Nat) : State :=
  let s := (s.unlock w).onStrand w fun st => ({ st with sched := { st.sched with wait := none } } : Strand).unpark
  let fault := fun (x : McasWord) => ({ va := x.va, pa := some (cachePage x.pa), cause := 0x0D, acc := Access.atomic.code, origin := 0 } : PageFault)
  (s.queueFault (s.waitIssue w .mcas) ((m.words.filter fun x => lineOf x.pa == line).map fault)).1

/-- Every line is locked (R245 step 8, R246): a poisoned line releases the locks, and the strand holds MEM_POISON until entry may take place; otherwise the entries are compared. -/
def State.mcasLocked (s : State) (w : Sid) (m : Mcas) : State :=
  match m.words.find? fun x => s.linePoison (lineOf x.pa) with
  | some x => ((s.unlock w).onStrand w Strand.unpark).trapWait w Cause.memPoison.code (BitVec.ofNat 64 x.va)
  | none => s.mcasCompare w m

/-- MCAS_LOCK_PHASE (R246): once the strand's own earlier accesses of all the words are performed, the next line in ascending PA is locked at its home, which counts an access for each entry (R350); with the last one the entries are compared. A failed extent is found at any line, locked or not (R345). -/
def execMcasLockPhase (w : Sid) (s : State) : Host.Outcome State Fault Refusal :=
  next (match (s.strand w).mcas? with
  | none => s
  | some m =>
    match m.result, m.toLock with
    | some _, _ => s
    | none, [] => match m.locked.find? s.failed with | some x => s.mcasFailed w m x | none => s.mcasLocked w m
    | none, l :: t =>
      match (m.locked ++ [l]).find? s.failed with
      | some x => s.mcasFailed w m x
      | none =>
      if !(mcasLines m.words).all (s.drained w m) then s
      else
        let pay := if m.paid then (1, s) else s.spend w.core (s.tenantOf w.core w.slot) (.mcas w) 1
        if pay.1 = 0 then pay.2
        else if s.homeWaits l then
          let s := pay.2.onStrand w fun st => { st with sched := { st.sched with wait := some (.mcas { m with paid := true }) } }
          s.fetchLine l
        else
          let lock : LineLock := { line := l, owner := w, until_ := none }
          let entries := (m.words.filter fun x => lineOf x.pa == l).length
          let s := (((List.range entries).foldl (fun s _ => s.countAccess l) (pay.2.reachHome l (dieOf w.core) true)).fillL2 l).onMem fun y => { y with locks := y.locks ++ [lock] }
          let m := { m with toLock := t, paid := false, locked := m.locked ++ [l] }
          let s := s.onStrand w fun st => ({ st with sched := { st.sched with wait := some (.mcas m) } } : Strand).unpark
          if t.isEmpty then s.mcasLocked w m else s)

/-- Whether a successful MCAS is to be committed now (R246). -/
def State.commitDue (s : State) (w : Sid) : Bool :=
  match (s.strand w).mcas? with
  | some m => (match m.result with | some (_, _, t) => decide (t ≤ s.clock.gt) | none => false)
  | none => false

/-- MCAS_COMMIT (R246): at T the new values apply at every home, the locks are released, the observed values and D are written (R247). -/
def execMcasCommit (w : Sid) (s : State) : Host.Outcome State Fault Refusal :=
  next (if !s.commitDue w then s
  else match (s.strand w).mcas? with
    | none => s
    | some m => match m.result with
      | none => s
      | some (obs, mask, t) =>
        let s := m.words.foldl (fun s x => (s.homeWrite x.pa (if m.wide then 8 else 4) x.new).forget w.core (lineOf x.pa)) s
        let lines := m.locked.flatMap s.dirtyLine
        ((s.unlock w).mcasFinish w m obs mask).onStrand w fun st =>
          let st := st.addTerms (Terms.all t)
          { st with flight := { st.flight with lines := st.flight.lines ++ lines.filter fun l => !st.flight.lines.contains l } })

end Sys2Proof.Machine
end

