-- ==== Sys2Proof/Machine/Engines.lean ====
section
/-! DEFINITION. The copy engine (R249 to R256, R272 to R275), byte barriers (R257 to R263), range locks (R264 to R267), guard slots (R268, R269) and drone queues (R270, R271). -/

namespace Sys2Proof.Machine
open Sys2Proof

/-- The first trap whose condition holds. -/
def firstOf (l : List (Bool × Trap)) : Option Trap := (l.find? fun x => x.1).map fun x => x.2

/-! Copy requests. -/

/-- The space that SSPC and DSPC code (R250): 0 LM, 1 peer LM, 2 global, 3 fabric. -/
def spaceCode (n : Nat) : Space := match n with | 0 => .lm | 1 => .peer | 2 => .global | _ => .fabric

/-- A request read from its 64-byte object (R249, R250): counts beyond DIMS are 1. The BAR field gives a byte offset. -/
def parseReq (obj off strand id : Nat) (tenant : BitVec 16) (priv : Bool) : Request :=
  let dims := bits obj 35 34
  let count := fun (k lo : Nat) => if k ≤ dims then bits obj (lo + 15) lo else 1
  let stride := fun (k lo : Nat) => if k ≤ dims then sx (bits obj (lo + 31) lo) 32 else 0
  { id := id, kind := .kick off, strand := strand
    guard := if bit obj 47 then some (bits obj 46 44) else none
    sspc := bits obj 39 38, dspc := bits obj 37 36
    src := bits obj 127 64, dst := bits obj 191 128, len0 := bits obj 215 192
    c1 := count 1 224, c2 := count 2 240, c3 := count 3 256
    sp1 := stride 1 288, sp2 := stride 2 320, sp3 := stride 3 352, dp1 := stride 1 384, dp2 := stride 2 416, dp3 := stride 3 448
    sys := bit obj 33, dec := bit obj 32, key := bits obj 63 56, goff := bits obj 319 288
    bar := if bit obj 16 then some (8 * bits obj 15 0) else none
    tenant := tenant, priv := priv, state := .queued, cause := 0
    left := [], flying := [], staged := [], checked := !bit obj 32, counts := [], uncounted := 0, batch := none }

/-- The bytes of a request (R251). -/
def Request.total (q : Request) : Nat := q.len0 * q.c1 * q.c2 * q.c3

/-- The interval of a side, from its lowest byte to the byte after its highest, before any wrap (R251). -/
def Request.side (q : Request) (source : Bool) : Int × Int :=
  let a : Int := if source then q.src else q.dst
  let p := fun (c : Nat) (st : Int) => (((c : Int) - 1) * st)
  let l := if source then [p q.c1 q.sp1, p q.c2 q.sp2, p q.c3 q.sp3] else [p q.c1 q.dp1, p q.c2 q.dp2, p q.c3 q.dp3]
  (l.foldl (fun x y => x + min 0 y) a, l.foldl (fun x y => x + max 0 y) a + q.len0)

/-- The space of a side. -/
def Request.space (q : Request) (source : Bool) : Space := spaceCode (if source then q.sspc else q.dspc)

/-- Whether the range of a side fails R176, R177, R178 or R376, or wraps (R251, R255). -/
def State.sideBad (s : State) (w : Sid) (q : Request) (source : Bool) : Bool :=
  let r := q.side source
  let lo := r.1.toNat
  let hi := r.2.toNat
  if r.1 < 0 then true
  else match q.space source with
    | .lm => !s.inWindow w.core w.slot lo (hi - lo)
    | .peer => !s.peerOk w lo (hi - lo)
    | .global => decide (hi > 2 ^ 57)
    | .fabric => decide (hi > 2 ^ 64) || decide (fabDev lo > 992) || lo / 2 ^ 48 != (hi - 1) / 2 ^ 48

/-- Whether an address has a bit above the width of LM or peer LM (R251). -/
def Request.wideAddr (q : Request) (source : Bool) : Bool :=
  let a := if source then q.src else q.dst
  match q.space source with | .lm | .peer => decide (a ≥ 2 ^ 32) | _ => false

/-- The key in a slot of a tenant's confidential context, if it is loaded (R252, R430). -/
def State.keyOf (s : State) (t : BitVec 16) (slot : Nat) : Option (BitVec 256) :=
  match s.descriptor t with
  | some d => if descConf d && slot < 16 then Tab.get none (Tab.get {} s.sec.contexts (descCtx d)).keys slot else none
  | none => none

/-- Whether an address of global memory has a bit above bit 56 (R251). -/
def Request.highAddr (q : Request) (source : Bool) : Bool := q.space source == .global && decide ((if source then q.src else q.dst) ≥ 2 ^ 57)

/-- Step 5 of R255 for one request: each field in ascending byte order, TVAL the field's window offset, for the reserved bytes of R252 theirs. Of the checks of SRC the overlap of the two ranges comes before their own (log entry 98). -/
def State.reqTrap (s : State) (w : Sid) (obj off : Nat) (q : Request) : Option Trap :=
  let dims := bits obj 35 34
  let zero := q.len0 == 0 || q.c1 == 0 || q.c2 == 0 || q.c3 == 0
  let bad := fun (k : Nat) => Trap.of .illegalOperand (off + k)
  let prot := fun (k : Nat) => Trap.of .pageProtect (off + k)
  let a := q.side true
  let b := q.side false
  let barBad := match q.bar with | some x => !s.inWindow w.core w.slot x 8 | none => false
  let gbad := q.goff % 32 != 0 || !s.inWindow w.core w.slot q.goff 32
  firstOf
    [(bits obj 55 48 != 0 || bits obj 43 40 != 0 || bits obj 31 17 != 0 || (!q.dec && q.key != 0), bad 0),
     (q.dec && (dims != 0 || q.dspc == 3 || (s.keyOf q.tenant q.key).isNone), bad 0),
     (barBad, bad 0),
     (q.wideAddr true, bad 8),
     (!zero && q.sspc == q.dspc && decide (a.1 < b.2) && decide (b.1 < a.2), bad 8),
     (q.highAddr true || (!zero && s.sideBad w q true), prot 8),
     (q.wideAddr false, bad 16),
     (q.highAddr false || (!zero && s.sideBad w q false), prot 16),
     (bits obj 223 216 != 0 || q.len0 == 0 || (!zero && q.total > 2 ^ 23 - 1) || (q.dec && q.len0 > 65536), bad 24),
     (q.c1 == 0, bad 28), (q.c2 == 0, bad 30), (q.c3 == 0, bad 32),
     (bits obj 287 272 != 0, bad 34),
     (q.dec && gbad, bad 36),
     (q.dec && s.winRead w.core w.slot (q.goff + 12) 4 != 0, Trap.of .illegalOperand (q.goff + 12))]

/-! Range locks. -/

/-- The range of a side as the table holds it: physical in the core's own LM, none in fabric space (R264). -/
def State.lockRange (s : State) (core slot : Nat) (q : Request) (source : Bool) : Option Range :=
  let r := q.side source
  match q.space source with
  | .lm => some { space := 0, lo := s.lmPhys core slot r.1.toNat, hi := s.lmPhys core slot r.2.toNat }
  | .peer => some { space := 1, lo := r.1.toNat, hi := r.2.toNat }
  | .global => some { space := 2, lo := r.1.toNat, hi := r.2.toNat }
  | .fabric => none

/-- The free entries of a core's table (R264). -/
def State.freeLocks (s : State) (core : Nat) : Nat := 32 - (s.core core).locks.length

/-- STATUS of a request written to its LM object (R253). FGET and FPUT have none (R388). -/
def State.writeStatus (s : State) (core slot : Nat) (q : Request) (code cause : Nat) : State :=
  match q.kind with
  | .kick off => s.winWrite core slot (off + 60) 4 (cause * 2 ^ 24 + code)
  | _ => s

/-- The entry of a request added to its core's table. -/
def State.lockReq (s : State) (core slot : Nat) (q : Request) : State :=
  let e : LockEntry := { id := q.id, slot := slot, tenant := q.tenant, src := s.lockRange core slot q true, dst := s.lockRange core slot q false,
                         bar := q.bar.map fun b => s.lmPhys core slot b }
  s.onCore core fun k => { k with locks := k.locks ++ [e] }

/-- Requests registered (R255): each takes its entry and a number, STATE 0x01 is written into it, and it joins its comb's queue. -/
def State.register (s : State) (core slot : Nat) (l : List Request) : State :=
  l.foldl (fun s q =>
    let q := { q with id := (s.core core).nextReq }
    let s := (s.onCore core fun k => { k with nextReq := k.nextReq + 1 }).lockReq core slot q
    (s.writeStatus core slot q 0x01 0).onComb core slot fun k => { k with reqs := k.reqs ++ [q] }) s

/-- Whether a resume of a core waits for range-lock entries (R274). -/
def Core.resumeWaits (k : Core) : Bool :=
  k.combs.any fun x => match x.2 with
    | some c => c.phase == .resuming && c.reqs.any fun q => !k.locks.any fun e => e.id == q.id
    | none => false

/-- Whether `n` requests may register now (R255): no earlier KICK and no resume waits, and the table has room. -/
def State.mayRegister (s : State) (core n : Nat) : Bool := !(s.core core).resumeWaits && decide (n ≤ s.freeLocks core)

/-- Requests that have passed their checks registered, or made to wait with their strand; the region is closed (R164, R255). -/
def State.submit (s : State) (i : Issue) (l : List Request) : State :=
  let s := s.onStrand i.w Strand.closeRegion
  if (s.core i.w.core).kicks.isEmpty && s.mayRegister i.w.core l.length then (s.register i.w.core i.w.slot l).advance i
  else
    let s := s.onCore i.w.core fun k => { k with kicks := k.kicks ++ [{ slot := i.w.slot, strand := i.w.strand, reqs := l }] }
    s.onStrand i.w fun st => { st with sched := { st.sched with wait := some .kick, waitLen := i.e.bytes } }

/-- KICK_REGISTER (R255): the oldest waiting KICK registers once the table has room. -/
def execKickRegister (core : Nat) (s : State) : Host.Outcome State Fault Refusal :=
  next (match (s.core core).kicks with
  | [] => s
  | x :: t =>
    if s.mayRegister core x.reqs.length then
      let s := s.onCore core fun k => { k with kicks := t }
      (s.register core x.slot x.reqs).onStrand { core := core, slot := x.slot, strand := x.strand } fun st => st.passWait s.clock.cycle
    else s)

/-- The 64-byte LM object at a window offset. -/
def State.lmObject (s : State) (w : Sid) (off : Nat) : Nat := s.winRead w.core w.slot off 64

/-- Steps 2 to 4 of R255 for `n` bytes at a window offset that is to be a multiple of 64; TVAL is the offset. -/
def State.blockTrap (s : State) (w : Sid) (off n : Nat) : Option Trap :=
  firstOf [(off % 64 != 0, Trap.of .misaligned off), (!s.inWindow w.core w.slot off n, Trap.of .pageProtect off),
           (s.conflictAt w .lm .read off n, Trap.of .rangeConflict off)]

/-- The requests that a KICK names. -/
def State.kickReqs (s : State) (i : Issue) : List (Nat × Nat × Request) :=
  let off := (i.uA s).toNat
  (List.range (min 16 (i.opB s).toNat)).map fun k =>
    let at_ := off + 64 * k
    let obj := s.lmObject i.w at_
    (obj, at_, parseReq obj at_ i.w.strand 0 (s.tenantOf i.w.core i.w.slot) i.st.trap.priv)

/-- KICK (R255). A request under DEC waits while the tenant's descriptor cannot be read (R482). -/
def execKick (e : Enc) (s : State) : Host.Outcome State Fault Refusal :=
  next (strandOnly .kick e s fun i s =>
    let n := (i.opB s).toNat
    let reqs := s.kickReqs i
    let count := firstOf [(n < 1 || n > 16, Trap.of .illegalOperand n)]
    match count.or (s.blockTrap i.w (i.uA s).toNat (64 * n)) with
    | some t => s.raise i t
    | none =>
      if (reqs.any fun x => x.2.2.dec) && (s.descriptor (s.tenantOf i.w.core i.w.slot)).isNone then s
      else match reqs.findSome? fun x => s.reqTrap i.w x.1 x.2.1 x.2.2 with
        | some t => s.raise i t
        | none => s.submit i (reqs.map fun x => x.2.2))

/-! Byte barriers. -/

/-- Update of R258 on a barrier's value: none where the range test fails. -/
def bbUpdate (b : Nat) (add : Int) (arrive : Nat) : Option Nat :=
  let p := sx b 24 + add
  let arr := bits b 38 32 + arrive
  if p < -(2 ^ 23) ∨ p > 2 ^ 23 - 1 ∨ arr > bits b 30 24 then none
  else
    let b := setBits (setBits b 23 0 (p % 2 ^ 24).toNat) 38 32 arr
    if arr = bits b 30 24 ∧ p = 0 then some (setBits (setBits b 38 32 0) 39 39 (if bit b 39 then 0 else 1)) else some b

/-- A count of bytes by an engine, with ERR where the bytes were not copied (R258, R273): a failed range test sets OVF. -/
def State.engineCount (s : State) (core slot : Nat) (bar : Option Nat) (bytes : Nat) (err : Bool) : State :=
  match bar with
  | none => s
  | some off =>
    let b := s.winRead core slot off 8
    let b := if err then b ||| 2 ^ 62 else b
    s.winWrite core slot off 8 ((bbUpdate b (-(bytes : Int)) 0).getD (b ||| 2 ^ 63))

/-- The checks that the barrier instructions share (R263). -/
def State.bbTrap (s : State) (w : Sid) (u : LockUse) (off : Nat) : Option Trap :=
  firstOf [(off % 8 != 0, Trap.of .misaligned off), (!s.inWindow w.core w.slot off 8, Trap.of .pageProtect off),
           (s.conflictAt w .lm u off 8, Trap.of .rangeConflict off)]

/-- The checks of a barrier instruction: the value of opB (R54 step 4), then the barrier. -/
def State.bbCheck (s : State) (o : Op) (w : Sid) (off : Nat) (v : Word) : Option Trap :=
  let bad := match o with
    | .bbinit => v.toNat < 1 || v.toNat > 127
    | .bbadd => decide (v.toNat > 2 ^ 23 - 1)
    | .bbwait => decide (v.toNat > 1)
    | _ => false
  if bad then some { cause := .illegalOperand, tval := zx64 v }
  else match s.bbTrap w (if o = .bbinit then .binit else .bother) off with
    | some t => some t
    | none =>
      let b := s.winRead w.core w.slot off 8
      match o with
      | .bbadd => none
      | .bbwait => if bit b 63 then some (Trap.of .barrierOverflow b) else none
      | _ => none

/-- The new value of the barrier, or BARRIER_OVERFLOW (R260, R261). -/
def State.bbValue (s : State) (o : Op) (sub : BitVec 8) (w : Sid) (off : Nat) (v : Word) : Except Trap Nat :=
  let b := s.winRead w.core w.slot off 8
  match o with
  | .bbinit => .ok (v.toNat * 2 ^ 24)
  | _ => match bbUpdate b v.toNat (if sub = 1 then 0 else 1) with
    | some x => .ok x
    | none => .error (Trap.of .barrierOverflow b)

/-- The focus of a stream instruction as a strand index of its comb (R52). -/
def seqSid (c : Nat) (x : Stream) : Sid := { core := c, slot := x.slot, strand := seqIndex }

/-- The course of BBINIT and BBADD in a strand or a stream (R260, R261). -/
def bbWrite (o : Op) (e : Enc) (s : State) : State :=
  let value := fun (s : State) (w : Sid) (off : Nat) (v : Word) => match s.bbCheck o w off v with
    | some t => Except.error t
    | none => s.bbValue o e.sub w off v
  if s.cur.strand = seqIndex then
    runStream o e s fun c x s =>
      if !x.drained then s
      else
        let off := (s.seqOpnd c x o e .a).toNat
        match value s (seqSid c x) off (s.seqOpnd c x o e .b) with
        | .error t => s.seqFault c x t
        | .ok b => (s.winWrite c x.slot off 8 b).seqAdvance c e
  else
    runStrand o e s fun i s =>
      let off := (i.uA s).toNat
      match value s i.w off (i.opB s) with
      | .error t => s.raise i t
      | .ok b => ((s.onStrand i.w Strand.closeRegion).winWrite i.w.core i.w.slot off 8 b).advance i

/-- BBINIT (R260). -/
def execBbinit (e : Enc) (s : State) : Host.Outcome State Fault Refusal := next (bbWrite .bbinit e s)

/-- BBADD (R261). -/
def execBbadd (e : Enc) (s : State) : Host.Outcome State Fault Refusal := next (bbWrite .bbadd e s)

/-- PH of a barrier. -/
def State.bbPhase (s : State) (core slot off : Nat) : Bool := bit (s.winRead core slot off 8) 39

/-- BBWAIT (R262): past at once where the phase is reached, otherwise it waits. In a stream it holds the stream only; the commands before it go on (R284). -/
def execBbwait (e : Enc) (s : State) : Host.Outcome State Fault Refusal :=
  next (if s.cur.strand = seqIndex then
    runStream .bbwait e s fun c x s =>
      let off := (s.seqOpnd c x .bbwait e .a).toNat
      let v := s.seqOpnd c x .bbwait e .b
      match s.bbCheck .bbwait (seqSid c x) off v with
      | some t => s.seqFault c x t
      | none =>
        if s.bbPhase c x.slot off == v.getLsbD 0 then s.seqAdvance c e
        else s.onStream c fun x => { x with wait := some (.bbwait off (v.getLsbD 0) e.bytes) }
  else runStrand .bbwait e s fun i s =>
    let off := (i.uA s).toNat
    let v := i.opB s
    match s.bbCheck .bbwait i.w off v with
    | some t => s.raise i t
    | none =>
      if s.bbPhase i.w.core i.w.slot off == v.getLsbD 0 then s.advance i
      else s.onStrand i.w fun st => { st with sched := { st.sched with wait := some (.bbwait off (v.getLsbD 0)), waitLen := e.bytes } })

/-- Whether a wait at a barrier ends: its phase is reached or OVF is set (R262). -/
def State.bbReached (s : State) (core slot off : Nat) (phase : Bool) : Bool :=
  bit (s.winRead core slot off 8) 63 || s.bbPhase core slot off == phase

/-- BBWAIT_WAKE (R262): strand index 32 names the stream of the core, which a set OVF ends once the commands accepted before have completed (R282). -/
def execBbwaitWake (w : Sid) (s : State) : Host.Outcome State Fault Refusal :=
  next (if w.strand = seqIndex then
    match s.stream? w.core with
    | some x => match x.wait with
      | some (.bbwait off phase len) =>
        let b := s.winRead w.core x.slot off 8
        if !s.bbReached w.core x.slot off phase then s
        else if bit b 63 then
          if x.drained then s.streamFault w.core x Cause.barrierOverflow.code x.pc.toNat (BitVec.ofNat 64 b)
          else s.onStream w.core fun x => { x with wait := some (.lost Cause.barrierOverflow.code b) }
        else s.onStream w.core fun x => { x with wait := none, pc := x.pc + BitVec.ofNat 57 len }
      | _ => s
    | none => s
  else match (s.strand w).sched.wait with
    | some (.bbwait off phase) =>
      let b := s.winRead w.core w.slot off 8
      if !s.bbReached w.core w.slot off phase then s
      else if bit b 63 then s.trapWait w Cause.barrierOverflow.code (BitVec.ofNat 64 b)
      else s.onStrand w fun st => st.passWait s.clock.cycle
    | _ => s)

/-- The result of BBTEST (R263). -/
def bbStatus (b : Nat) (v : Word) : Word := BitVec.ofNat 32 (b2n (bit b 39 == v.getLsbD 0) + 2 * b2n (bit b 63) + 4 * b2n (bit b 62))

/-- BBTEST (R263): it never waits; in a stream the write of a comb word waits for the earlier commands (R284). -/
def execBbtest (e : Enc) (s : State) : Host.Outcome State Fault Refusal :=
  next (if s.cur.strand = seqIndex then
    runStream .bbtest e s fun c x s =>
      let off := (s.seqOpnd c x .bbtest e .a).toNat
      let v := s.seqOpnd c x .bbtest e .b
      match s.bbCheck .bbtest (seqSid c x) off v with
      | some t => s.seqFault c x t
      | none => seqWrite e (bbStatus (s.winRead c x.slot off 8) v) c x s
  else runStrand .bbtest e s (effect (fun i s => s.bbCheck .bbtest i.w (i.uA s).toNat (i.opB s)) fun i s =>
    s.writeS i.w e.d.toNat (bbStatus (s.winRead i.w.core i.w.slot (i.uA s).toNat 8) (i.opB s))))

/-! The course of a request. -/

/-- A request of a comb. -/
def State.req? (s : State) (core slot id : Nat) : Option Request := (s.comb core slot).reqs.find? fun q => q.id == id

/-- A request changed by `f`. -/
def State.onReq (s : State) (core slot id : Nat) (f : Request → Request) : State :=
  s.onComb core slot fun k => { k with reqs := k.reqs.map fun q => if q.id = id then f q else q }

/-- A request given its final state (R266): its entry is released, STATUS is written, and then `bytes` are counted; its requests not sent yet are dropped. -/
def State.endReq (s : State) (core slot : Nat) (q : Request) (code cause bytes : Nat) (err : Bool) : State :=
  let s := s.onCore core fun k => { k with locks := k.locks.filter fun e => e.id != q.id }
  let s := (s.writeStatus core slot q code cause).engineCount core slot q.bar bytes err
  let mine := fun (o : FabOut) => o.first.isNone && (match o.use with | .chunk c _ r _ _ => c == core && r == q.id | _ => false)
  let s := if q.flying.isEmpty then s
    else { s with fabric := { s.fabric with targets := Tab.mapVals {} (fun _ t => { t with out := t.out.filter fun o => !mine o }) s.fabric.targets } }
  s.onComb core slot fun k => { k with reqs := k.reqs.filter fun x => x.id != q.id }

/-- A request discarded (R269): its whole total is counted as one count. -/
def State.discard (s : State) (core slot : Nat) (q : Request) : State := s.endReq core slot q 0x05 0 q.total false

/-- An error entered in a strand's fabric error record (R385). -/
def FabErr.enter (r : FabErr) (cause addr : Nat) : FabErr :=
  if r.valid then { r with count := min 255 (r.count + 1) } else { valid := true, count := 1, cause := cause, addr := addr }

/-- A request aborted (R273): what is not counted yet is counted, with ERR. A failed FGET or FPUT chunk enters its strand's record (R385). -/
def State.abort (s : State) (core slot : Nat) (q : Request) (cause : Nat) (addr : Option Nat) : State :=
  let s := s.endReq core slot q 0x06 cause (if q.state = .queued ∨ q.state = .held then q.total else q.uncounted) true
  match q.kind, addr with
  | .fget j, some a | .fput j, some a => s.onStrand { core := core, slot := slot, strand := j } fun st => { st with ferr := st.ferr.enter cause a }
  | _, _ => s

/-- The chunks of row `row` from its byte `p` on: cut at the lines of both sides (R251, log entry 114); the first chunk on each line pays (R368). -/
def rowChunks (row src dst len p : Nat) : Nat → List Chunk
  | 0 => []
  | n + 1 =>
    if p ≥ len then []
    else
      let a := src + p
      let b := dst + p
      let k := min (min (64 - a % 64) (64 - b % 64)) (len - p)
      { row := row, src := a, dst := b, len := k, rpay := p == 0 || a % 64 == 0, wpay := p == 0 || b % 64 == 0 } :: rowChunks row src dst len (p + k) n

/-- The chunks of a request in the order of its rows (R251). -/
def Request.chunks (q : Request) : List Chunk :=
  (List.range q.c3).flatMap fun (w : Nat) => (List.range q.c2).flatMap fun (z : Nat) => (List.range q.c1).flatMap fun (y : Nat) =>
    let at_ := fun (a : Nat) (p1 p2 p3 : Int) => ((a : Int) + w * p3 + z * p2 + y * p1).toNat
    rowChunks ((w * q.c2 + z) * q.c1 + y) (at_ q.src q.sp1 q.sp2 q.sp3) (at_ q.dst q.dp1 q.dp2 q.dp3) q.len0 0 q.len0

/-- A request started (R253, R256). -/
def State.startReq (s : State) (core slot : Nat) (q : Request) : State :=
  (s.onReq core slot q.id fun q => { q with state := .running, left := q.chunks, uncounted := q.total }).writeStatus core slot q 0x03 0

/-- The request at the head of a comb's queue: the first that has not started (R256). -/
def Comb.headReq (k : Comb) : Option Request := k.reqs.find? fun q => q.state == .queued || q.state == .held

/-- A guard slot of a comb (R268): none while unresolved. -/
def Comb.guard (k : Comb) (n : Nat) : Option Bool := match Tab.get 0 k.guards n with | 0 => none | 1 => some true | _ => some false

/-- The head of a comb's queue sampled (R269). -/
def State.sampleHead (s : State) (core slot : Nat) (q : Request) : State :=
  match q.guard with
  | none => s.startReq core slot q
  | some g => match (s.comb core slot).guard g with
    | some true => s.startReq core slot q
    | some false => s.discard core slot q
    | none => if q.state = .held then s else (s.onReq core slot q.id fun q => { q with state := .held }).writeStatus core slot q 0x02 0

/-- Whether the head of a comb's queue may be served: it has not been sampled, and its comb is not being saved (R274); that of a halting comb is served as at a retirement (R275, R419). -/
def State.mayStart (s : State) (core slot : Nat) : Bool :=
  match s.comb? core slot with
  | some k => (k.phase == .running || k.phase == .halting) && (match k.headReq with | some q => q.state == .queued | none => false)
  | none => false

/-- COPY_REQUEST_START (R256, R269). -/
def execCopyRequestStart (core slot : Nat) (s : State) : Host.Outcome State Fault Refusal :=
  next (if !s.mayStart core slot then s
  else match (s.comb core slot).headReq with
    | some q => s.sampleHead core slot q
    | none => s)

/-- The queue of a stream after slot `n` took the value `v`: a held command at its head samples it again (R303). -/
def resample (n v : Nat) : List Cmd → List Cmd
  | [] => []
  | c :: t => if c.guard = 1 ∧ c.enc.qb.toNat % 8 = n then (if v = 1 then { c with guard := 2 } :: t else if v = 2 then t else c :: t) else c :: t

/-- A guard slot set, and the head requests and commands that are held on it sampled again (R268, R269, R303). -/
def State.setGuard (s : State) (core slot n v : Nat) : State :=
  let s := s.onComb core slot fun k => { k with guards := Tab.put 0 k.guards n v }
  let s := match s.stream? core with
    | some x => if x.slot = slot then s.onStream core fun x => { x with queue := resample n v x.queue } else s
    | none => s
  match (s.comb core slot).headReq with
  | some q => if q.state = .held ∧ q.guard = some n then s.sampleHead core slot q else s
  | none => s

/-- GSET (R268). In a stream it waits for the earlier commands (R284). -/
def execGset (e : Enc) (s : State) : Host.Outcome State Fault Refusal :=
  next (
    let code := fun (v : Word) => if e.sub = 1 then 0 else if v = 0 then 2 else 1
    if s.cur.strand = seqIndex then
      runStream .gset e s fun c x s =>
        if !x.drained then s else (s.setGuard c x.slot e.d.toNat (code (s.seqOpnd c x .gset e .b))).seqAdvance c e
    else runStrand .gset e s (effect noCheck fun i s => s.setGuard i.w.core i.w.slot e.d.toNat (code (i.opB s))))

/-! Chunks. -/

/-- The line of a global PA as an engine of a core reads it (R192, R193): at the home, at the owning RDC of its die, or in a live copy of its die's RDC; `count` tells whether the home counts the access (R350). -/
def State.engineRead (s : State) (core line : Nat) (count : Bool) : Option (LineBits × Bool) × State :=
  let die := dieOf core
  let now := (Mem.line s.memory.mem line, s.linePoison line)
  let atHome := if s.homeWaits line then (none, if s.locked line then s else s.homeMiss line)
    else
      let s := s.reachHome line die false
      (some now, ((if count then s.countAccess line else s).fillL2 line).holdHost line 1)
  if die = homeDie line then atHome
  else if s.isOwned line then (some now, s)
  else
    let copy := fun (k : Nat) => liveCopy s.memory.rdc (rdcKey die (line / 32 + k)) s.clock.gt
    match Config.keeps (s.clock.turn * 2 ^ 57 + 2 * (line / 32) + 1), copy 0, copy 1 with
    | true, some a, some b => (some ((b.data ++ a.data : BitVec 512), a.poison || b.poison), s)
    | _, _, _ => atHome

/-- Whether a write of an engine waits at its line (R248, R347). -/
def State.engineWaits (s : State) (core line : Nat) : Bool :=
  s.locked line || (!(s.isOwned line && dieOf core != homeDie line) && s.homeWaits line)

/-- The low `n` bytes of `v` written at a PA by an engine, with poison (R202), and the completion time (R195); `count` tells whether the home counts the access (R350). -/
def State.engineWrite (s : State) (core pa n v : Nat) (poison count : Bool) : Nat × State :=
  let line := lineOf pa
  let mine := s.isOwned line && dieOf core != homeDie line
  let s := if mine then s else s.reachHome line (dieOf core) false
  let s := if mine || !count then s else s.countAccess line
  let s := s.homeWrite pa n v
  let s := if poison then s.poisonLine line else s
  (s.completion line, s)

/-- The poisoned bytes among `n` bytes of LM, as a mask. -/
def State.lmPoisonMask (s : State) (core a n : Nat) : Nat :=
  (List.range n).foldl (fun m k => if s.lmMarked core (a + k) 1 then m + 2 ^ k else m) 0

/-- The bytes of a mask marked poisoned in LM. -/
def State.lmMarkMask (s : State) (core a n mask : Nat) : State :=
  (List.range n).foldl (fun s k => if bit mask k then s.lmMark core (a + k) 1 else s) s

/-- A request suspended on a recoverable fault (R272). -/
def State.suspendReq (s : State) (core slot : Nat) (q : Request) (f : PageFault) : State :=
  let id := s.tiers.nextBatch
  let s := s.formBatch (.engine core slot q.id) core slot q.tenant [f]
  (s.onReq core slot q.id fun q => { q with state := .suspended, cause := f.cause, batch := some id }).writeStatus core slot q 0x08 f.cause

/-- A global address of a request translated at each access (R256): `f` takes the PA. -/
def State.engineXlat (s : State) (core slot : Nat) (q : Request) (acc : Access) (va : Nat) (f : Nat → State → State) : State :=
  let s1 := s.remember core q.tenant va
  match s.translate core q.tenant q.priv acc va with
  | .ok pa => f pa s1
  | .error .protect => s1.abort core slot q Cause.pageProtect.code none
  | .error (.queued c pa) => s1.suspendReq core slot q { va := va, pa := pa, cause := c, acc := s.accCode acc c pa, origin := 2 }
  | .error .waits => s1

/-- A chunk read into the engine. -/
def State.stage (s : State) (core slot : Nat) (q : Request) (c : Chunk) (data poison : Nat) : State :=
  s.onReq core slot q.id fun q => { q with left := q.left.erase c, flying := q.flying.erase c, staged := q.staged ++ [{ chunk := c, data := data, poison := poison }] }

/-- A chunk's request sent to a device of the fabric, or the abort where it is not reachable (R273, R388). -/
def State.chunkRequest (s : State) (core slot : Nat) (q : Request) (c : Chunk) (a : Nat) (kind : FabKind) : State :=
  if !s.reachable (fabDev a) then s.abort core slot q Cause.fabricUnreachable.code (some a)
  else
    let s := s.onReq core slot q.id fun q => { q with left := q.left.erase c, staged := q.staged.eraseP fun x => x.chunk == c, flying := q.flying ++ [c] }
    let owner := match q.kind with | .fget j | .fput j => some j | .kick _ => none
    s.fabRequest (.chunk core slot q.id owner c) (b2n (match kind with | .read => c.rpay | _ => c.wpay)) q.tenant (fabDev a) (fabWin a) (lineOf (fabOff a)) kind

/-- The source bytes of a chunk read (R251, R256). -/
def State.readChunk (s : State) (core slot : Nat) (q : Request) (c : Chunk) : State :=
  let local_ := fun (s : State) (k a : Nat) => s.stage core slot q c (s.lmRead k a c.len) (s.lmPoisonMask k a c.len)
  match q.space true with
  | .lm => local_ s core (s.lmPhys core slot c.src)
  | .peer => local_ s (peerPlace core c.src).1 (peerPlace core c.src).2
  | .fabric => s.chunkRequest core slot q c c.src .read
  | .global => s.engineXlat core slot q .read c.src fun pa s =>
      let pay := if c.rpay && !c.rpaid then s.spend core q.tenant (.read q.id c) 1 else (1, s)
      if pay.1 = 0 then pay.2
      else
        let paid := { c with rpaid := true }
        let r := (pay.2.onReq core slot q.id fun q => { q with left := q.left.map fun x => if x = c then paid else x }).engineRead core (lineOf pa) c.rpay
        let c := paid
        match r.1 with
        | none => r.2
        | some v => r.2.stage core slot q c (bits v.1.toNat (8 * (pa % 64 + c.len) - 1) (8 * (pa % 64))) (if v.2 then 2 ^ c.len - 1 else 0)

/-- A chunk whose write is performed: its count is to come at `at_`, or when `line` is written back (R259). -/
def State.written (s : State) (core slot : Nat) (q : Request) (x : Staged) (at_ : Nat) (line : Option Nat) : State :=
  s.onReq core slot q.id fun q => { q with
    staged := q.staged.eraseP fun y => y.chunk == x.chunk
    flying := q.flying.erase x.chunk
    counts := q.counts ++ [{ len := x.chunk.len, at_ := at_, line := line }] }

/-- A chunk written to its destination (R251, R259); poisoned bytes carry their poison (R202). -/
def State.writeChunk (s : State) (core slot : Nat) (q : Request) (x : Staged) : State :=
  let c := x.chunk
  let local_ := fun (s : State) (k a : Nat) => ((s.lmWrite k a c.len x.data).lmMarkMask k a c.len x.poison).written core slot q x s.clock.gt none
  match q.space false with
  | .lm => local_ s core (s.lmPhys core slot c.dst)
  | .peer => local_ s (peerPlace core c.dst).1 (peerPlace core c.dst).2
  | .fabric =>
    let w := lineWrite c.dst c.len x.data
    s.chunkRequest core slot q c c.dst (.write w.1 w.2 (x.poison != 0))
  | .global => s.engineXlat core slot q .write c.dst fun pa s =>
      let line := lineOf pa
      let pay := if c.wpay && !c.wpaid then s.spend core q.tenant (.write q.id c) 1 else (1, s)
      if pay.1 = 0 then pay.2
      else
        let paid := { x with chunk := { c with wpaid := true } }
        let s := pay.2.onReq core slot q.id fun q => { q with staged := q.staged.map fun y => if y = x then paid else y }
        let x := paid
        if s.engineWaits core line then (if s.locked line then s else s.homeMiss line)
        else
          let r := s.engineWrite core pa c.len x.data (x.poison != 0) c.wpay
          r.2.written core slot q x (r.1 + 1) (if q.sys && isDevice pa && r.2.isDirty line then some line else none)

/-- The tag of a DEC request checked once its whole source is staged (R252), with the IV and the tag that LM then holds (log entry 99): the plaintext takes the place of the ciphertext, or the request ends with a tag mismatch. -/
def State.checkTag (s : State) (core slot : Nat) (q : Request) : State :=
  match s.keyOf q.tenant q.key with
  | none => s
  | some key =>
    let cells := Mem.writeCells [] (q.staged.flatMap fun x => cellsOf (x.chunk.src - q.src) x.chunk.len x.data)
    let cipher := (List.range q.len0).map fun k => (Mem.byte cells k).toNat
    let lm := fun (a n : Nat) => (List.range n).map fun k => s.winRead core slot (q.goff + a + k) 1
    let r := gcmDecrypt (keyBytes key) (lm 0 12) cipher
    let plain := fun (x : Staged) => ((r.2.drop (x.chunk.src - q.src)).take x.chunk.len).foldr (fun b n => b + 256 * n) 0
    if r.1 = lm 16 16 then s.onReq core slot q.id fun q => { q with checked := true, staged := q.staged.map fun x => { x with data := plain x } }
    else s.endReq core slot q 0x07 0 q.uncounted true

/-- Whether a count is due (R259). -/
def Counting.due (c : Counting) (gt : Nat) : Bool := c.line.isNone && decide (c.at_ ≤ gt)

/-- Whether every chunk of a request has been written. -/
def Request.allWritten (q : Request) : Bool := q.state == .running && q.left.isEmpty && q.flying.isEmpty && q.staged.isEmpty && q.checked

/-- A count taken: the last one of a request follows its release and its STATUS (R266). -/
def State.takeCount (s : State) (core slot : Nat) (q : Request) (c : Counting) : State :=
  if q.allWritten && q.counts.length == 1 then s.endReq core slot q 0x04 0 c.len false
  else (s.onReq core slot q.id fun q => { q with counts := q.counts.erase c, uncounted := q.uncounted - c.len }).engineCount core slot q.bar c.len false

/-- Whether a side of a request spends tokens (R368). -/
def Request.costs (q : Request) (src : Bool) : Bool := q.space src == .global || q.space src == .fabric

/-- The chunks that a request can read now: where the first chunk of the row on the line has not spent the token of the line request yet, the others wait for it (R368). -/
def Request.reads (q : Request) : List Chunk :=
  if q.state != .running then []
  else q.left.filter fun c => c.rpay || !(q.costs true && q.left.any fun d => d.row == c.row && d.src / 64 == c.src / 64 && d.rpay && !d.rpaid)

/-- The chunks that a request can write now, likewise. -/
def Request.writes (q : Request) : List Staged :=
  if q.state != .running || !q.checked then []
  else
    let flying := if q.space false == .fabric then [] else q.flying
    let others := q.left ++ flying ++ q.staged.map fun y => y.chunk
    q.staged.filter fun x => x.chunk.wpay || !(q.costs false && others.any fun d => d.row == x.chunk.row && d.dst / 64 == x.chunk.dst / 64 && d.wpay && !d.wpaid)

/-- How many reads, writes and counts a request can make now, and whether its tag is to be checked. -/
def Request.work (q : Request) (gt : Nat) : Nat × Nat × Nat × Bool :=
  (q.reads.length, q.writes.length, (q.counts.filter fun c => c.due gt).length, q.state == .running && !q.checked && q.left.isEmpty && q.flying.isEmpty)

/-- Whether a request can go on now. -/
def State.mayCopy (s : State) (core slot id : Nat) : Bool :=
  match s.req? core slot id with
  | some q => let w := q.work s.clock.gt; w.1 + w.2.1 + w.2.2.1 != 0 || w.2.2.2
  | none => false

/-- COPY_CHUNK (R251, R252, R259, R266): one read, one write, one count or the tag check; their order is not specified. -/
def execCopyChunk (core slot req : Nat) (s : State) : Host.Outcome State Fault Refusal :=
  next (match s.req? core slot req with
  | none => s
  | some q =>
    let w := q.work s.clock.gt
    if w.2.2.2 then s.checkTag core slot q
    else
      let n := w.1 + w.2.1 + w.2.2.1
      let k := Config.choose s.clock.turn n % max 1 n
      if k < w.1 then match q.reads[k]? with | some c => s.readChunk core slot q c | none => s
      else if k < w.1 + w.2.1 then match q.writes[k - w.1]? with | some x => s.writeChunk core slot q x | none => s
      else match (q.counts.filter fun c => c.due s.clock.gt)[k - w.1 - w.2.1]? with | some c => s.takeCount core slot q c | none => s)

/-- A request released by its resolved batch (R272, R355): it goes on, or aborts with the outcome. -/
def State.releaseReq (s : State) (core slot id : Nat) (out : Option Nat) : State :=
  match s.req? core slot id with
  | none => s
  | some q => match out with
    | some c => s.abort core slot q c none
    | none => (s.onReq core slot id fun q => { q with state := .running, batch := none }).writeStatus core slot q 0x03 0

/-! RLQ and drone queues. -/

/-- RLQ (R267): an address that fails step 2 of R183 would raise PAGE_PROTECT, and conflicts with nothing. -/
def execRlq (e : Enc) (s : State) : Host.Outcome State Fault Refusal :=
  next (strandOnly .rlq e s (effect noCheck fun i s =>
    if e.sub = 2 then s.writeD i fun _ => BitVec.ofNat 32 (s.freeLocks i.w.core)
    else
      let u : LockUse := if e.sub = 0 then .write else .read
      s.writeD i fun l => let a := i.addr s true l; if s.addressOk i.w (spaceOf e) a 1 && s.conflictAt i.w (spaceOf e) u a 1 then 1 else 0))

/-- QSUB (R271): the entry is read in LM order; D is pending until the drone core answers. TVAL of ILLEGAL_OPERAND is opB, or the offset of the entry (log entry 100). -/
def execQsub (e : Enc) (s : State) : Host.Outcome State Fault Refusal :=
  next (strandOnly .qsub e s (effect
    (fun i s =>
      let n := (i.opB s).toNat
      let off := (i.uA s).toNat
      let header := s.winRead i.w.core i.w.slot off 8
      let queue := firstOf [(n > 255, Trap.of .illegalOperand n)]
      (queue.or (s.blockTrap i.w off 64)).or
        (firstOf [(bits header 14 8 != 0 || (bit header 15 && !s.inWindow i.w.core i.w.slot (8 * bits header 31 16) 8), Trap.of .illegalOperand off)]))
    fun i s =>
      let entry := BitVec.ofNat 512 (s.lmObject i.w (i.uA s).toNat)
      s.onStrand i.w fun st =>
        let id := st.flight.nextId
        let q : Qsub := { id := id, reg := e.d.toNat, queue := (i.opB s).toNat, entry := entry }
        { st with flight := { st.flight with nextId := id + 1, qsubs := st.flight.qsubs ++ [q] } }))

/-- The drone queue with a number. -/
def State.drone (s : State) (q : Nat) : DroneQueue := Tab.get {} s.service.drones q

/-- A drone queue changed by `f`. -/
def State.onDrone (s : State) (q : Nat) (f : DroneQueue → DroneQueue) : State :=
  { s with service := { s.service with drones := Tab.put {} s.service.drones q (f (s.drone q)) } }

/-- Whether a drone queue serves QSUB entries of a tenant (R271, R448, log entry 23). -/
def DroneQueue.serves (q : DroneQueue) (t : BitVec 16) : Bool := q.en && !q.orphan && decide (q.svc ≤ 2) && q.tenant == t

/-- DRONE_QSUB_RESPONSE (R271, R448): the entry is accepted or refused, and D is written. -/
def execDroneQsubResponse (w : Sid) (reg : Nat) (s : State) : Host.Outcome State Fault Refusal :=
  next (match (s.strand w).flight.qsubs.find? fun q => q.reg == reg with
  | none => s
  | some q =>
    let d := s.drone q.queue
    let t := s.tenantOf w.core w.slot
    let ok := d.serves t
    let full := decide (d.open_.length ≥ 2 ^ d.logcap)
    let v : Word := if !ok then 0x80000002 else if full then 0x80000001 else BitVec.ofNat 32 d.seq
    let e : DroneEntry := { seq := d.seq, entry := q.entry, tenant := t, core := w.core, slot := w.slot }
    let s := if ok && !full then
        let s := s.onDrone q.queue fun d => { d with seq := (d.seq + 1) % 2 ^ 31, open_ := d.open_ ++ [e] }
        if q.entry.getLsbD 15 then s.onComb w.core w.slot fun k => { k with qsubs := k.qsubs ++ [(q.queue, d.seq)] } else s
      else s
    let gt := s.clock.gt
    s.onStrand w fun st =>
      let st := { st.putS reg v with flight := { st.flight with qsubs := st.flight.qsubs.filter fun x => x.id != q.id } }
      (st.termOf q.id { device := 0, comb := 0, system := gt }).acknowledge q.id [])

end Sys2Proof.Machine
end

