-- ==== Sys2Proof/Machine/Work.lean ====
section
/-! DEFINITION. Cells, combs and the hardware scheduler (R318 to R342): the enqueuing instructions, swarms, notify registers, dispatch, retirement, time slices, and the saving and resumption of combs. -/

namespace Sys2Proof.Machine
open Sys2Proof

/-! The cell record. -/

/-- The launch shape of a record, bytes 32 to 47 (R318). -/
def recordShape (r : Nat) : Shape :=
  { lmb := bits r 275 256, spill := bits r 307 288, str := bits r 324 320, lastl := bits r 332 328, regs := bits r 340 336, seedx := bit r 352 }

/-- The cell that a record describes (R318). -/
def recordCell (va pa r : Nat) : Cell :=
  { va := va, pa := pa, queue := bits r 349 344, prio := bits r 351 350, index := bits r 191 160, shape := recordShape r }

/-- The byte offset of the first field by which a record is not valid (R319). -/
def recordBad (r : Nat) : Option Nat :=
  let h := recordShape r
  let l : List (Bool × Nat) :=
    [(bits r 63 57 != 0 || bits r 1 0 != 0, 0),
     (bits r 287 276 != 0 || h.lmb > 524288 || h.window > 524288, 32),
     (bits r 319 308 != 0 || h.spill % 128 != 0, 36),
     (bits r 343 341 != 0 || bits r 335 333 != 0 || bits r 327 325 != 0 || ceilDiv (h.str + 1) 6 * h.nregs > 1024, 40),
     (bits r 383 353 != 0, 44),
     (bits r 511 384 != 0, 48)]
  (l.find? fun x => x.1).map fun x => x.2

/-- `n` bytes of global memory as a strand reads them: its own buffered bytes, else memory's (R189). -/
def State.ownRead (s : State) (w : Sid) (va pa n : Nat) : Nat :=
  (List.range n).foldl (fun v k =>
    let b := match s.ownByte w (va + k) with | some x => x.2 | none => Mem.byte s.memory.mem (pa + k)
    v + b.toNat * 2 ^ (8 * k)) 0

/-- A line read or written at its home: its owner is recalled (R193), and the home L2 holds the line. -/
def State.atHome (s : State) (line : Nat) : State := (s.recall line).fillL2 line

/-- Whether an access of the J40's own to a line can be performed now: its extent is served (R482) and its home does not make it wait. -/
def State.agentReady (s : State) (line : Nat) : Bool := s.served line && !s.homeWaits line

/-- The check of a record (R327): as a 64-byte load, in device memory, valid; `act` takes its PA and its contents. Its line spends a token (R368). -/
def State.checkRecord (s : State) (i : Issue) (va : Nat) (act : Nat → Nat → State → State) : State :=
  s.access i .global [(32, va)] { size := 64, acc := .read, use := .read, more := noMore } fun spots _ s =>
    match spots with
    | [] => s
    | x :: _ =>
      if !isDevice x.pa then s.raise i (Trap.of .pageProtect va)
      else if s.homeWaits (lineOf x.pa) then s.fetchLine (lineOf x.pa)
      else
        let pay := s.payIssue i.w [lineOf x.pa]
        if !pay.1 then pay.2 else
        let s := pay.2
        let r := s.ownRead i.w va x.pa 64
        match recordBad r with
        | some k => s.raise i (Trap.of .illegalOperand k)
        | none => act x.pa r (s.atHome (lineOf x.pa))

/-! Queues. -/

/-- A cell queue (R320). -/
def State.queue (s : State) (q : Nat) : Queue := Tab.get {} s.sched.queues q

/-- A cell queue changed by `f`. -/
def State.onQueue (s : State) (q : Nat) (f : Queue → Queue) : State :=
  { s with sched := { s.sched with queues := Tab.put {} s.sched.queues q (f (s.queue q)) } }

/-- The entries of a level, oldest first (R321). -/
def Queue.level (q : Queue) (l : Nat) : List QEntry := Tab.get [] q.levels l

/-- A level replaced. -/
def Queue.setLevel (q : Queue) (l : Nat) (x : List QEntry) : Queue := { q with levels := Tab.put [] q.levels l x }

/-- Whether a level has room (R321). -/
def State.hasRoom (s : State) (q l : Nat) : Bool := decide (((s.queue q).level l).length < 2 ^ (s.queue q).logcap)

/-- Whether a queue is enabled and bound to a tenant (R329). -/
def State.admits (s : State) (q : Nat) (t : BitVec 16) : Bool := (s.queue q).en && (s.queue q).tenant == t

/-- Whether the ring of a level is served (R482): every extent that holds a part of it. Where in the ring an entry lies is not architectural (R320). -/
def State.ringServed (s : State) (q l : Nat) : Bool :=
  let x := s.queue q
  let n := 2 ^ x.logcap * 32
  (List.range (n / 2097152 + 2)).all fun k => s.served (x.base + l * n + min (k * 2097152) (n - 1))

/-- Whether an entry of a cell can be put into its level now: there is room, and the ring is served (R321, R482). -/
def State.canEnqueue (s : State) (c : Cell) : Bool := s.hasRoom c.queue c.prio && s.ringServed c.queue c.prio

/-- An entry put at the tail of its level (R321). -/
def State.enqueue (s : State) (e : QEntry) : State := s.onQueue e.cell.queue fun q => q.setLevel e.cell.prio (q.level e.cell.prio ++ [e])

/-- The entry of one cell with its INDEX (R330). -/
def oneEntry (c : Cell) : QEntry := { cell := c, next := c.index, last := c.index + 1, swarm := none }

/-- The refusal of an enqueue by R329, or none. -/
def State.refusal (s : State) (t : BitVec 16) (c : Cell) : Option Word :=
  if !s.admits c.queue t then some 0x80000002 else if !s.hasRoom c.queue c.prio then some 0x80000001 else none

/-! The enqueuing instructions. -/

/-- The checks have passed (R164, R328): the region is closed and the strand waits for the terms of its earlier accesses. -/
def State.holdJob (s : State) (i : Issue) (job : Job) (dest : Nat) : State :=
  let s := (s.onStrand i.w Strand.closeRegion).beginToken i.w .device 64
  s.onStrand i.w fun st => { st with sched := { st.sched with wait := some (.terms job dest), waitLen := i.e.bytes, paid := [], owes := 0 } }

/-- The address in the pair that field A names. -/
def Issue.pairA (i : Issue) (s : State) : Nat := (s.readPair i.w i.e.a.toNat).toNat

/-- SPAWN (R330). -/
def execSpawn (e : Enc) (s : State) : Host.Outcome State Fault Refusal :=
  next (strandOnly .spawn e s fun i s =>
    let va := i.pairA s
    s.checkRecord i va fun pa _ s => s.holdJob i (.spawn va pa) e.d.toNat)

/-- The checks of a swarm descriptor (R331 steps 3 and 4). -/
def State.checkSwarm (s : State) (i : Issue) (va : Nat) (act : Nat → State → State) : State :=
  s.access i .global [(32, va)] { size := 16, acc := .write, use := .write, more := noMore } fun spots _ s =>
    match spots with
    | [] => s
    | x :: _ =>
      let readable := match s.translate i.w.core (s.tenantOf i.w.core i.w.slot) i.st.trap.priv .read va with | .error .protect => false | _ => true
      if !readable || !isDevice x.pa then s.raise i (Trap.of .pageProtect va)
      else if s.homeWaits (lineOf x.pa) then s.fetchLine (lineOf x.pa)
      else
        let pay := s.payIssue i.w [lineOf x.pa]
        if !pay.1 then pay.2 else
        let s := pay.2
        let d := s.ownRead i.w va x.pa 16
        if bits d 63 42 ≠ 0 ∨ bits d 127 64 ≠ 0 then s.raise i (Trap.of .illegalOperand va) else act x.pa s

/-- SPAWNN (R331). -/
def execSpawnn (e : Enc) (s : State) : Host.Outcome State Fault Refusal :=
  next (strandOnly .spawnn e s fun i s =>
    let va := i.pairA s
    let n := (i.opB s).toNat
    let dva := (s.readPair i.w e.c.toNat).toNat
    if n = 0 then s.raise i (Trap.of .illegalOperand 0)
    else s.checkRecord i va fun pa _ s => s.checkSwarm i dva fun dpa s => s.holdJob i (.spawnn va pa n dva dpa) e.d.toNat)

/-- JOIN (R334): SUB 1 names the record, SUB 0 takes the PARENT that the core read at dispatch. -/
def execJoin (e : Enc) (s : State) : Host.Outcome State Fault Refusal :=
  next (strandOnly .join e s fun i s =>
    let va := if e.sub = 1 then i.pairA s else (s.comb i.w.core i.w.slot).parent
    if e.sub = 0 ∧ va = 0 then s.raise i (Trap.of .illegalOperand 0)
    else s.checkRecord i va fun pa _ s => s.holdJob i (.join va pa) e.d.toNat)

/-- A notify register (R335). -/
def State.notifyOf (s : State) (reg : Nat) : Notify := Tab.get {} s.sched.notify reg

/-- A notify register changed by `f`. -/
def State.onNotify (s : State) (reg : Nat) (f : Notify → Notify) : State :=
  { s with sched := { s.sched with notify := Tab.put {} s.sched.notify reg (f (s.notifyOf reg)) } }

/-- ILLEGAL_OPERAND for a notify register that is not bound to the strand's tenant (R327). -/
def State.notifyTrap (s : State) (w : Sid) (v : Word) : Option Trap :=
  if v.toNat > 255 ∨ (s.notifyOf v.toNat).bound ≠ some (s.tenantOf w.core w.slot) then some { cause := .illegalOperand, tval := zx64 v } else none

/-- PARK (R335). -/
def execPark (e : Enc) (s : State) : Host.Outcome State Fault Refusal :=
  next (strandOnly .park e s fun i s =>
    let va := i.pairA s
    s.checkRecord i va fun pa _ s =>
      match s.notifyTrap i.w (i.opB s) with
      | some t => s.raise i t
      | none => s.holdJob i (.park va pa (i.opB s).toNat (i.uC s)) e.d.toNat)

/-- NOTIFY (R335). -/
def execNotify (e : Enc) (s : State) : Host.Outcome State Fault Refusal :=
  next (strandOnly .notify e s fun i s =>
    match s.notifyTrap i.w (i.opB s) with
    | some t => s.raise i t
    | none => s.holdJob i (.notify (i.opB s).toNat (e.sub == 1)) e.d.toNat)

/-! Notify registers. -/

/-- The released cells that wait for a level, from any register (R335). -/
def State.waitingCells (s : State) (c : Cell) : List Parked :=
  s.sched.notify.flatMap fun (_, n) => n.parked.filter fun p => p.released && p.cell.queue == c.queue && p.cell.prio == c.prio

/-- Whether a released cell may enter its level now: in park order (R335). -/
def State.mayEnter (s : State) (p : Parked) : Bool :=
  s.admits p.cell.queue p.tenant && s.canEnqueue p.cell && (s.waitingCells p.cell).all fun x => decide (p.order ≤ x.order)

/-- A parked cell enqueued and its slot freed. -/
def State.enterParked (s : State) (reg : Nat) (p : Parked) : State :=
  (s.onNotify reg fun n => { n with parked := n.parked.filter fun x => x.order != p.order }).enqueue (oneEntry p.cell)

/-- Release of a parked cell (R335): it enters its level, or stays in its slot marked released. -/
def State.release (s : State) (reg : Nat) (p : Parked) : State :=
  if s.mayEnter p then s.enterParked reg p
  else s.onNotify reg fun n => { n with parked := n.parked.map fun x => if x.order = p.order then { x with released := true } else x }

/-- The event of NOTIFY on a register (R335): SEQ advances and the cells of its list are released in park order. -/
def State.bump (s : State) (reg : Nat) : State :=
  let l := (s.notifyOf reg).parked.filter fun p => !p.released
  let s := s.onNotify reg fun n => { n with seq := n.seq + 1 }
  l.foldl (fun s p => s.release reg p) s

/-- The parked cells of the package. -/
def State.parkCount (s : State) : Nat := (s.sched.notify.map fun x => x.2.parked.length).sum

/-! Acting once the terms have passed (R328). -/

/-- The result of an enqueuing instruction written, and the strand moved past it. -/
def State.jobDone (s : State) (w : Sid) (dest : Option (Nat × Word)) : State :=
  s.onStrand w fun st =>
    let st := match dest with | some (d, v) => st.putS d v | none => st
    let st := { st with flight := { st.flight with tokens := st.flight.tokens.filter fun t => t.reg != 64 } }
    st.passWait s.clock.cycle

/-- The contents of a record at its home. -/
def State.recordAt (s : State) (pa : Nat) : Nat := Mem.read s.memory.mem pa 64

/-- The act of SPAWN (R330); it waits while the ring is not served (R482). -/
def State.actSpawn (s : State) (w : Sid) (va pa dest : Nat) : State :=
  let c := recordCell va pa (s.recordAt pa)
  match s.refusal (s.tenantOf w.core w.slot) c with
  | some r => s.jobDone w (some (dest, r))
  | none => if s.ringServed c.queue c.prio then (s.enqueue (oneEntry c)).jobDone w (some (dest, 0)) else s

/-- The swarm slot that an accepted SPAWNN takes: the lowest free one (R331, log entry 116). -/
def State.freeSwarm (s : State) : Option Nat := (List.range 256).find? fun k => !(Tab.get {} s.sched.swarms k : Swarm).used

/-- A swarm slot changed by `f`. -/
def State.onSwarm (s : State) (k : Nat) (f : Swarm → Swarm) : State :=
  { s with sched := { s.sched with swarms := Tab.put {} s.sched.swarms k (f (Tab.get {} s.sched.swarms k)) } }

/-- A value stored for a strand at the home of its line: its terms and its line are those of a write of the strand (R206), whose core keeps no older copy (R218). -/
def State.storeFor (s : State) (w : Sid) (pa n v : Nat) : State :=
  let line := lineOf pa
  let s := (s.homeWrite pa n v).forget w.core line
  let terms := s.writeTerms w.core line
  let dirty := s.dirtyLine line
  s.onStrand w fun st =>
    let st := st.addTerms terms
    { st with flight := { st.flight with lines := st.flight.lines ++ dirty.filter fun l => !st.flight.lines.contains l } }

/-- A value stored by the scheduler at the home of its line. -/
def State.homeStore (s : State) (pa n v : Nat) : State := (s.atHome (lineOf pa)).homeWrite pa n v

/-- The act of SPAWNN (R331): DONEW becomes 0 and one entry of n cells is made; it waits while the ring is not served (R482). SYS, NEN and NREG count as they stand now (log entry 117). -/
def State.actSpawnn (s : State) (w : Sid) (va pa n dva dpa dest : Nat) : State :=
  let c := recordCell va pa (s.recordAt pa)
  let t := s.tenantOf w.core w.slot
  match s.refusal t c, s.freeSwarm with
  | some r, _ => s.jobDone w (some (dest, r))
  | none, none => s.jobDone w (some (dest, 0x80000003))
  | none, some k =>
    if !s.ringServed c.queue c.prio then s else
    let d := Mem.read s.memory.mem dpa 16
    let x : Swarm := { used := true, desc := dva, pa := dpa, n := n, sys := bit d 41, nen := bit d 40, nreg := bits d 39 32, tenant := t }
    ((((s.atHome (lineOf dpa)).storeFor w dpa 4 0).onSwarm k fun _ => x).enqueue { cell := c, next := 0, last := n, swarm := some k }).jobDone w (some (dest, 0))

/-- A cell enqueued for a strand that waits for it, with the result `v`; where the level has no room or its ring is not served, the strand waits at its instruction (R334, R335, R482). -/
def State.enqueueOrWait (s : State) (w : Sid) (c : Cell) (dest : Nat) (v : Word) : State :=
  if s.canEnqueue c then (s.enqueue (oneEntry c)).jobDone w (some (dest, v))
  else s.onStrand w fun st => { st with sched := { st.sched with wait := some (.room c dest v) } }

/-- The atomic event of JOIN at the home slice of the record (R334). -/
def State.actJoin (s : State) (w : Sid) (va pa dest : Nat) : State :=
  let s := (s.atHome (lineOf pa)).countAccess (lineOf pa)
  let r := s.recordAt pa
  let o := bits r 159 128
  let c := recordCell va pa r
  if o = 0 then s.trapWait w Cause.illegalOperand.code (BitVec.ofNat 64 va)
  else if o = 1 ∧ !s.admits c.queue (s.tenantOf w.core w.slot) then s.jobDone w (some (dest, 0x80000002))
  else
    let s := s.storeFor w (pa + 16) 4 (o - 1)
    if o ≠ 1 then s.jobDone w (some (dest, BitVec.ofNat 32 o)) else s.enqueueOrWait w c dest 1

/-- The event of PARK at the notify unit (R335). -/
def State.actPark (s : State) (w : Sid) (va pa reg : Nat) (expected : Word) (dest : Nat) : State :=
  let c := recordCell va pa (s.recordAt pa)
  let t := s.tenantOf w.core w.slot
  if !s.admits c.queue t then s.jobDone w (some (dest, 0x80000002))
  else if (s.notifyOf reg).seq ≠ expected then s.enqueueOrWait w c dest 1
  else if s.parkCount ≥ 4096 then s.jobDone w (some (dest, 0x80000003))
  else
    let p : Parked := { cell := c, tenant := t, released := false, order := s.sched.parkSeq }
    let s := s.onNotify reg fun n => { n with parked := n.parked ++ [p] }
    ({ s with sched := { s.sched with parkSeq := s.sched.parkSeq + 1 } }).jobDone w (some (dest, 0))

/-- The lines that a job acts on. -/
def Job.lines : Job → List Nat
  | .spawn _ pa | .join _ pa | .park _ pa _ _ => [lineOf pa]
  | .spawnn _ pa _ _ dpa => [lineOf pa, lineOf dpa]
  | .notify _ _ => []

/-- Whether the accesses that a strand stands and waits for have reached their terms, as FWAIT on the token would find (R328). -/
def State.termsReached (s : State) (w : Sid) : Bool :=
  (s.strand w).flight.tokens.all fun t => t.reg != 64 || (s.tokenDone t && decide (t.term < s.clock.gt))

/-- Whether an enqueuing instruction that waits may act (R328). -/
def State.jobReady (s : State) (w : Sid) : Bool :=
  match (s.strand w).sched.wait with
  | some (.terms _ _) => s.termsReached w
  | _ => false

/-- DEVICE_SCOPE_TERM_REACHED (R328): the waiting instruction acts. -/
def execDeviceScopeTermReached (w : Sid) (s : State) : Host.Outcome State Fault Refusal :=
  next (match (s.strand w).sched.wait with
  | some (.terms job dest) =>
    if !s.termsReached w then s
    else if job.lines.any s.homeWaits then job.lines.foldl State.fetchLine s
    else match job with
      | .spawn va pa => s.actSpawn w va pa dest
      | .spawnn va pa n dva dpa => s.actSpawnn w va pa n dva dpa dest
      | .join va pa => s.actJoin w va pa dest
      | .park va pa reg expected => s.actPark w va pa reg expected dest
      | .notify reg read => if read then s.jobDone w (some (dest, (s.notifyOf reg).seq)) else (s.bump reg).jobDone w none
  | _ => s)

/-- Whether the source of a LEVEL_ROOM_ENQUEUE can enter its level (R334, R335); while its queue is disabled or bound to another tenant it goes on waiting (log entry 120). -/
def State.roomReady (s : State) (src : RoomSource) : Bool :=
  match src with
  | .strand w => match (s.strand w).sched.wait with
    | some (.room c _ _) => s.admits c.queue (s.tenantOf w.core w.slot) && s.canEnqueue c
    | _ => false
  | .released reg => (s.notifyOf reg).parked.any fun p => p.released && s.mayEnter p

/-- LEVEL_ROOM_ENQUEUE (R334, R335). -/
def execLevelRoomEnqueue (src : RoomSource) (s : State) : Host.Outcome State Fault Refusal :=
  next (if !s.roomReady src then s
  else match src with
    | .strand w => match (s.strand w).sched.wait with
      | some (.room c dest v) => (s.enqueue (oneEntry c)).jobDone w (some (dest, v))
      | _ => s
    | .released reg => match (s.notifyOf reg).parked.find? fun p => p.released && s.mayEnter p with
      | some p => s.enterParked reg p
      | none => s)

/-! DONE, CELLRD and swarm completions. -/

/-- The scope whose terms a comb's completion waits for (R332). -/
def State.doneScope (s : State) (k : Comb) : Scope :=
  match k.swarm with
  | some j => if (Tab.get {} s.sched.swarms j : Swarm).sys then .system else .device
  | none => .device

/-- A strand marked complete, with the terms of the accesses before (R332, R336). -/
def State.markDone (s : State) (w : Sid) : State :=
  let k := s.comb w.core w.slot
  if (s.strand w).sched.done || k.swarm.isNone then s
  else
    let sc := s.doneScope k
    let ids := s.covered w sc
    s.onStrand w fun st =>
      let t : PendingToken := { reg := 66, scope := sc, ids := ids, lines := if sc = .system then st.flight.lines else [], term := st.flight.terms.of sc }
      { st with sched := { st.sched with done := true }, flight := { st.flight with tokens := st.flight.tokens ++ [t] } }

/-- DONE (R336). -/
def execDone (e : Enc) (s : State) : Host.Outcome State Fault Refusal :=
  next (strandOnly .done e s (effect noCheck fun i s => s.markDone i.w))

/-- A launch value of the cell (R336). -/
def State.cellItem (s : State) (w : Sid) (item : Nat) : Word :=
  let k := s.comb w.core w.slot
  let n := fun (x : Nat) => BitVec.ofNat 32 x
  match item with
  | 0 => n k.index
  | 1 => n w.strand
  | 2 => n (k.shape.str + 1)
  | 3 => n k.record
  | 4 => n (k.record / 2 ^ 32)
  | 5 => match k.swarm with | some j => n j | none => 0xFFFFFFFF
  | 6 => match k.swarm with | some j => n (k.oldest.getD (Tab.get {} s.sched.swarms j : Swarm).oldest) | none => 0xFFFFFFFF
  | _ => n (k.queue + 256 * k.prio)

/-- CELLRD (R336). -/
def execCellrd (e : Enc) (s : State) : Host.Outcome State Fault Refusal :=
  next (strandOnly .cellrd e s (effect noCheck fun i s => s.writeS i.w e.d.toNat (s.cellItem i.w e.sub.toNat)))

/-- The tokens of a comb's completion, once every strand has executed DONE or retired (R332). -/
def Comb.completion (k : Comb) : Option (List PendingToken) :=
  if k.strands.all fun x => x.2.sched.done || x.2.sched.retired then
    some (k.strands.flatMap fun x => x.2.flight.tokens.filter fun t => t.reg == 66)
  else none

/-- Whether a completed cell of a swarm may be reported (R332): its terms have passed. -/
def State.mayReport (s : State) (swarm cell : Nat) : Bool :=
  let x : Swarm := Tab.get {} s.sched.swarms swarm
  let passed := fun (t : PendingToken) => s.tokenDone t && decide (t.term < s.clock.gt)
  x.used &&
  ((x.window.any fun c => c.cell == cell && decide (c.term < s.clock.gt) && c.lines.all fun l => !s.isDirty l) ||
   (s.allCombs.any fun k => k.swarm == some swarm && k.index == cell && !k.reported && k.oldest.isNone && (match k.completion with | some l => l.all passed | none => false)))

/-- The first index not among the reported ones, from `o` on. -/
def advanceOldest (reported : List Nat) (o : Nat) : Nat → Nat
  | 0 => o
  | n + 1 => if reported.contains o then advanceOldest reported (o + 1) n else o

/-- A comb of a swarm's cell marked reported. -/
def Comb.mark (k : Comb) (swarm cell : Nat) : Comb := if k.swarm = some swarm ∧ k.index = cell ∧ k.oldest.isNone then { k with reported := true } else k

/-- A swarm slot freed: the combs of the swarm that still run keep the swarm's last oldest unreported index (R332, R336). -/
def State.freeSlot (s : State) (swarm o : Nat) : State :=
  let keep := fun (k : Comb) => if k.swarm = some swarm && k.oldest.isNone then { k with oldest := some o } else k
  { s with cores := Tab.mapVals {} (fun _ k => k.mapCombs keep) s.cores }.onSwarm swarm fun _ => {}

/-- SWARM_COMPLETION_REPORT (R332): once the line of DONEW can be written (R482), o advances, DONEW is stored, and with the last value the slot is freed and NREG is notified where it is bound to the tenant (log entry 24). -/
def execSwarmCompletionReport (swarm cell : Nat) (s : State) : Host.Outcome State Fault Refusal :=
  next (if !s.mayReport swarm cell then s
  else if !s.agentReady (lineOf (Tab.get {} s.sched.swarms swarm : Swarm).pa) then s.fetchLine (lineOf (Tab.get {} s.sched.swarms swarm : Swarm).pa)
  else
    let s := { s with cores := Tab.mapVals {} (fun _ k => k.mapCombs fun c => c.mark swarm cell) s.cores }
    let x : Swarm := Tab.get {} s.sched.swarms swarm
    let reported := cell :: x.reported
    let o := advanceOldest reported x.oldest (reported.length)
    let s := s.onSwarm swarm fun x => { x with oldest := o, reported := reported.filter fun i => decide (o ≤ i), window := x.window.filter fun c => c.cell != cell }
    if o = x.oldest then s
    else
      let s := s.homeStore x.pa 4 o
      if o < x.n then s
      else
        let s := s.freeSlot swarm o
        if x.nen && (s.notifyOf x.nreg).bound == some x.tenant then s.bump x.nreg else s)

/-! Retirement. -/

/-- Whether the accesses of a strand have completed (R169). -/
def Strand.quiet (st : Strand) : Bool :=
  (st.flight.loads.all fun l => l.parts.isEmpty) && st.flight.atomics.isEmpty && st.flight.stores.isEmpty && st.flight.qsubs.isEmpty && st.flight.msgs.isEmpty

/-- Whether a strand retires: it has no live lane, or its comb halts (R419), and its accesses and its direct command have completed (R169, R301). -/
def State.mayRetire (s : State) (w : Sid) : Bool :=
  match s.comb? w.core w.slot with
  | some k => match Tab.get none (k.strands.map fun x => (x.1, some x.2)) w.strand with
    | some st => !st.sched.retired && (st.live == 0 || k.phase == .halting) && st.quiet && !s.standsOn w
    | none => false
  | none => false

/-- The requests of a comb held on an unresolved slot discarded (R275). -/
def State.dropHeld (s : State) (core slot : Nat) : State :=
  match (s.comb core slot).headReq with
  | some q => if q.state = .held then s.discard core slot q else s
  | none => s

/-- STRAND_RETIRE (R169, R337): the frame position and the registers are freed; with the last strand the held requests are discarded (R275). -/
def execStrandRetire (w : Sid) (s : State) : Host.Outcome State Fault Refusal :=
  next (if !s.mayRetire w then s
  else
    let s := (s.markDone w).onStrand w fun st =>
      { st with live := 0, regs := {}, marks := {}, region := none, ahead := none,
                flight := { st.flight with loads := [], tokens := st.flight.tokens.filter fun t => t.reg == 66, resv := [] }
                sched := { st.sched with retired := true, wait := none, burst := none, stopped := false } }
    let s := s.onCore w.core fun k => k.leaveQueues fun a j => a == w.slot && j == w.strand
    if (s.comb w.core w.slot).strands.all fun x => x.2.sched.retired then s.dropHeld w.core w.slot else s)

/-- Whether a stream of a comb runs (R281). -/
def State.streams (s : State) (core slot : Nat) : Bool := match s.stream? core with | some x => x.slot == slot | none => false

/-- The requests of a core's combs, resident and saved, with the core. A request leaves its comb's list once it is final. -/
def Core.allReqs (k : Core) : List Request := (k.combs.flatMap fun x => match x.2 with | some c => c.reqs | none => []) ++ k.saved.flatMap fun x => x.comb.reqs

/-- Whether a copy admitted to a comb's window is incomplete: a request of another core of the die that is not final, one of a KICK that waits for range-lock entries among them, has a side there (R177). -/
def State.peerHeld (s : State) (core : Nat) (k : Comb) : Bool :=
  s.cores.any fun (c, x) => c != core && dieOf c == dieOf core && (x.allReqs ++ x.kicks.flatMap fun y => y.reqs).any fun q =>
    q.tenant == k.tenant && [true, false].any fun side =>
      let p := peerPlace c (q.side side).1.toNat
      q.space side == .peer && p.1 == core && decide (k.base ≤ p.2) && decide (p.2 < k.base + k.shape.window)

/-- Whether a comb retires (R337): it is neither fault-parked nor pre-empted, its strands have retired, its requests are final, and nothing holds its window (R177). -/
def State.mayRetireComb (s : State) (core slot : Nat) : Bool :=
  match s.comb? core slot with
  | some k => (k.phase == .running || k.phase == .halting) && k.batches.isEmpty && (k.strands.all fun x => x.2.sched.retired) && !s.streams core slot &&
      k.reqs.isEmpty && k.qsubs.isEmpty && !s.peerHeld core k
  | none => false

/-- A comb's remaining swarm completion put into its window (R337). -/
def State.enterWindow (s : State) (k : Comb) : State :=
  match k.swarm, k.reported with
  | some j, false =>
    let l := k.completion.getD []
    let c : Completion := { cell := k.index, term := (l.map fun t => t.term).foldl max 0, lines := l.flatMap fun t => t.lines }
    s.onSwarm j fun x => { x with window := x.window ++ [c] }
  | _, _ => s

/-- The chunks of a comb that are still outstanding when it retires enter no error record any longer (R385). -/
def State.disown (s : State) (core slot : Nat) : State :=
  let use := fun (u : FabUse) => match u with | .chunk c n r o x => FabUse.chunk c n r (if c = core ∧ n = slot then none else o) x | u => u
  { s with fabric := { s.fabric with targets := Tab.mapVals {} (fun _ (t : FabTarget) => { t with out := t.out.map fun o => { o with use := use o.use } }) s.fabric.targets } }

/-- COMB_RETIRE (R337): the completion enters the window, then the binding, the slot and the window are freed. A request still held is discarded first (R275). -/
def execCombRetire (core slot : Nat) (s : State) : Host.Outcome State Fault Refusal :=
  next (match s.comb? core slot with
  | none => s
  | some k =>
    if s.mayRetireComb core slot then
      ((s.enterWindow k).disown core slot).onCore core fun c => { c with combs := Tab.put none c.combs slot none, ready := c.ready.filter fun x => x != slot }
    else if k.strands.all fun x => x.2.sched.retired then s.dropHeld core slot else s)

/-! Dispatch. -/

/-- The strands and the varying registers held in each of the six frames of a core (R9, R324); a comb whose strands are saved holds none (R470). -/
def Core.frames (k : Core) : List (Nat × Nat) :=
  (List.range 6).map fun f =>
    let l := k.combs.flatMap fun x => match x.2 with | some c => (c.strands.filter fun y => c.phase != .draining && !y.2.sched.retired && y.2.frame == f).map fun y => y.2.sp.n | none => []
    (l.length, l.sum)

/-- The frame that the next strand goes to (R324). -/
def frameFor (fr : List (Nat × Nat)) (n : Nat) : Option Nat :=
  let ok := (List.range fr.length).filter fun f => match fr[f]? with | some x => decide (x.1 < 8) && decide (x.2 + n ≤ 1024) | none => false
  match ok with
  | [] => none
  | f :: t => some (t.foldl (fun b g => if (fr.getD g (0, 0)).1 < (fr.getD b (0, 0)).1 then g else b) f)

/-- The frames of `j` more strands of `n` registers, placed in order (R324). -/
def placeStrands (fr : List (Nat × Nat)) (n : Nat) : Nat → Option (List Nat)
  | 0 => some []
  | j + 1 => match frameFor fr n with
    | none => none
    | some f => (placeStrands (updateAt fr f fun x => (x.1 + 1, x.2 + n)) n j).map fun l => f :: l

/-- The windows of the resident combs of a core. -/
def Core.windows (k : Core) : List (Nat × Nat) := k.combs.filterMap fun x => x.2.map fun c => (c.base, c.base + c.shape.window)

/-- Whether a range of LM is free (R322). -/
def Core.rangeFree (k : Core) (b w : Nat) : Bool := decide (b + w ≤ 524288) && k.windows.all fun x => decide (b + w ≤ x.1) || decide (x.2 ≤ b)

/-- The lowest free base for a window of `w` bytes (R324). -/
def Core.baseFor (k : Core) (w : Nat) : Option Nat :=
  let l := (0 :: k.windows.map fun x => alignUp x.2 128).filter fun b => k.rangeFree b w
  match l with | [] => none | b :: t => some (t.foldl min b)

/-- The lowest free comb slot (R324). -/
def Core.freeSlot (k : Core) : Option Nat := (List.range 16).find? fun n => (Tab.get none k.combs n).isNone

/-- Where a core would place a comb of a shape: its frames, its base and its slot (R322, R324). -/
def Core.place (k : Core) (h : Shape) : Option (List Nat × Nat × Nat) :=
  match placeStrands k.frames h.nregs (h.str + 1), k.baseFor h.window, k.freeSlot with
  | some f, some b, some n => some (f, b, n)
  | _, _, _ => none

/-- Whether the combs of a tenant may be dispatched (R427, R430). -/
def State.tenantRuns (s : State) (t : BitVec 16) : Bool :=
  match s.descriptor t with
  | some d => descValid d && (!descConf d || (let c : Context := Tab.get {} s.sec.contexts (descCtx d); c.state == .run && !c.lost))
  | none => false

/-- Whether the head of a level may be launched on some core as far as the queue and the swarm say (R322). -/
def State.headMay (s : State) (die : Nat) (q : Queue) (e : QEntry) : Bool :=
  q.en && bit q.dies die && s.mgmt.ready && !s.sec.stopAll && s.tenantRuns q.tenant &&
  (match e.swarm with | some j => decide (e.next < (Tab.get {} s.sched.swarms j : Swarm).oldest + 256) | none => true)

/-- Whether a core that runs, or would run, a slice of the queue's tenant can take an entry (R322, R342). -/
def State.coreTakes (s : State) (c : Nat) (q : Queue) (e : QEntry) : Bool :=
  let k := s.core c
  s.headMay (dieOf c) q e && !s.mgmt.removed.contains c && (k.place e.cell.shape).isSome && !(k.saved.any fun x => x.comb.tenant == q.tenant)

/-- Whether a core's current slice is of a tenant (R322). -/
def State.slices (s : State) (c : Nat) (t : BitVec 16) : Bool := match (s.core c).slice with | some x => x.tenant == t | none => false

/-- The cores of a die. -/
def coresOf (die : Nat) : List Nat := (List.range 72).map fun i => 72 * die + i

/-- The cores of a die that can launch an entry now (R322). -/
def State.takers (s : State) (die : Nat) (q : Queue) (e : QEntry) : List Nat :=
  (coresOf die).filter fun c => s.slices c q.tenant && s.coreTakes c q e

/-- Whether a die launches nothing of a queue's tenant because of a head passed over too long, other than that head itself (R323). -/
def State.blockedBy (s : State) (die n l : Nat) : Bool :=
  s.sched.stopped.any fun x => x.1 == die && (s.queue x.2.1).tenant == (s.queue n).tenant && !(x.2.1 == n && x.2.2 == l)

/-- The queues in rotation after the one that a die last served at a level (R323). -/
def State.rotation (s : State) (die l : Nat) : List Nat :=
  let last := Tab.get 0 s.sched.served (4 * die + l)
  (List.range 64).map fun i => (last + i) % 64

/-- The head that a die takes, with its queue and level, among the levels that `p` admits (R323); a queue waits while its ring is not served (R482). -/
def State.headAmong (s : State) (die : Nat) (p : Nat → Nat → Bool) : Option (Nat × Nat × QEntry) :=
  [3, 2, 1, 0].findSome? fun l => (s.rotation die l).findSome? fun n =>
    match (s.queue n).level l with
    | e :: _ => if p n l && s.ringServed n l && !s.blockedBy die n l && !(s.takers die (s.queue n) e).isEmpty then some (n, l, e) else none
    | [] => none

/-- Whether a die has launched in the present cycle (R323). -/
def State.launchedNow (s : State) (die : Nat) : Bool := s.sched.launched.any fun x => x.1 == s.clock.cycle && x.2.1 == die

/-- The level of the head that the other die takes in the present cycle: the one that it has launched from, or the one that it would take (R323). -/
def State.otherTakes (s : State) (die : Nat) : Option (Nat × Nat) :=
  match s.sched.launched.find? fun x => x.1 == s.clock.cycle && x.2.1 == 1 - die with
  | some x => some x.2.2
  | none => (s.headAmong (1 - die) fun _ _ => true).map fun x => (x.1, x.2.1)

/-- The head that a die launches next, with its queue and level (R323): at most one in a cycle. Where both dies can take one entry, die 0 takes it for an even queue and die 1 for an odd one, and the other takes what comes next. -/
def State.pickHead (s : State) (die : Nat) : Option (Nat × Nat × QEntry) :=
  if s.launchedNow die then none
  else s.headAmong die fun n l => s.otherTakes die != some (n, l) || (n % 2 == die && !s.launchedNow (1 - die))

/-- The core with the most free strand positions among some; ties go to the lowest (R323). -/
def State.roomiest (s : State) (l : List Nat) : Option Nat :=
  let used := fun (c : Nat) => ((s.core c).frames.map fun x => x.1).sum
  match l with | [] => none | c :: t => some (t.foldl (fun b c => if used c < used b then c else b) c)

/-- A strand as launch sets it (R325, R49, R408). -/
def launchStrand (h : Shape) (j frame : Nat) (code frameVal record index : Nat) (tvec : Dbl) : Strand :=
  let sb := alignUp h.lmb 128 + j * h.spill
  let w := fun (x : Nat) => BitVec.ofNat 32 x
  let put := fun (t : Tab Word) (x : Nat × Word) => Tab.put 0 t x.1 x.2
  { live := if j < h.str then BitVec.allOnes 32 else BitVec.ofNat 32 (2 ^ (h.lastl + 1) - 1)
    pcs := Vector.replicate 32 (BitVec.ofNat 57 code)
    frame := frame, base := sb, top := sb + h.spill
    regs := { s := [(0, w frameVal), (1, w (frameVal / 2 ^ 32)), (2, w record), (3, w (record / 2 ^ 32)), (4, w index), (5, w j)].foldl put [] }
    sp := { n := h.nregs, ssp := sb + h.spill, mode := if h.seedx then BitVec.ofNat 64 (index % 2 ^ 24 * 2 ^ 40) else 0 }
    trap := { tvec := tvec } }

/-- A comb as launch sets it (R325). Bits 1 and 0 of CODE, which the enqueue found to be 0, do not count at launch: those of a PC are always 0 (R20, log entry 111). -/
def launchComb (q : Queue) (qn : Nat) (e : QEntry) (record base bank : Nat) (frames : List Nat) (tvec : Dbl) : Comb :=
  let h := e.cell.shape
  let strand := fun (j : Nat) (f : Nat) => (j, launchStrand h j f (4 * bits record 56 2) (bits record 127 64) e.cell.va e.next tvec)
  { record := e.cell.va, parent := bits record 255 192, index := e.next, swarm := e.swarm, tenant := q.tenant, queue := qn, prio := e.cell.prio,
    shape := h, base := base, bank := bank, strands := frames.mapIdx strand }

/-- Every byte of a range of a core's LM 0 and without a mark (R325). -/
def Core.clearLm (k : Core) (b w : Nat) : Core :=
  { k with
    lm := k.lm.filter fun x => !(decide (b ≤ x.1) && decide (x.1 < b + w))
    lmPoison := k.lmPoison.filter fun x => !(decide (b ≤ 4 * x.1) && decide (4 * x.1 < b + w)) }

/-- A comb launched on a core (R324, R325). -/
def State.launch (s : State) (c qn l : Nat) (e : QEntry) : State :=
  let q := s.queue qn
  let k := s.core c
  match k.place e.cell.shape with
  | none => s
  | some (frames, base, slot) =>
    let tvec := match s.descriptor q.tenant with | some d => descTvec d | none => 0
    let x := launchComb q qn e (s.recordAt e.cell.pa) base k.curBank frames tvec
    let s := s.onCore c fun k => { k.clearLm base e.cell.shape.window with combs := Tab.put none k.combs slot (some x) }
    let e' := { e with next := e.next + 1, passed0 := 0, passed1 := 0 }
    let rest := (q.level l).tail
    let s := s.onQueue qn fun q => { q.setLevel l (if e'.next < e.last then e' :: rest else rest) with last := e.next }
    { s with sched := { s.sched with
      launched := (s.clock.cycle, dieOf c, qn, l) :: s.sched.launched.filter fun x => x.1 == s.clock.cycle
      served := Tab.put 0 s.sched.served (4 * dieOf c + l) ((qn + 1) % 64)
      stopped := s.sched.stopped.filter fun x => !(x.2.1 == qn && x.2.2 == l) } }

/-- CELL_DISPATCH (R322 to R325): the die's dispatcher launches one comb. Until the record of the head that it takes can be read it launches nothing else (log entry 119). -/
def execCellDispatch (die : Nat) (s : State) : Host.Outcome State Fault Refusal :=
  next (match s.pickHead die with
  | none => s
  | some (qn, l, e) =>
    let line := lineOf e.cell.pa
    if !s.agentReady line then s.fetchLine line
    else match s.roomiest (s.takers die (s.queue qn) e) with
      | some c => (s.atHome line).launch c qn l e
      | none => s)

/-- Whether a die's dispatcher launches at this point: the record of the head that it takes can be read (R323). -/
def State.dispatchDue (s : State) (die : Nat) : Bool :=
  match s.pickHead die with | some (_, _, e) => s.agentReady (lineOf e.cell.pa) | none => false

/-- Whether the passed-over count of a head rises on a die (R323); a head that waits only for its swarm's window is among those counted (R333, log entry 118). -/
def State.passedOver (s : State) (die : Nat) (q : Queue) (e : QEntry) : Bool :=
  q.en && bit q.dies die && ((coresOf die).any fun c => !s.mgmt.removed.contains c && s.slices c q.tenant) && (s.takers die q e).isEmpty

/-- `n` cycles pass over the heads of the levels (R323). -/
def State.passOver (s : State) (n : Nat) : State :=
  let head := fun (q : Queue) (l : List QEntry) => match l with
    | e :: t => { e with passed0 := if s.passedOver 0 q e then min 65536 (e.passed0 + n) else e.passed0
                         passed1 := if s.passedOver 1 q e then min 65536 (e.passed1 + n) else e.passed1 } :: t
    | [] => []
  { s with sched := { s.sched with queues := Tab.mapVals {} (fun _ q => { q with levels := Tab.mapVals [] (fun _ l => head q l) q.levels }) s.sched.queues } }

/-- The passed-over count of a level's head on a die. -/
def State.passedCount (s : State) (die queue level : Nat) : Nat :=
  match (s.queue queue).level level with | e :: _ => if die = 0 then e.passed0 else e.passed1 | [] => 0

/-- PASSED_OVER_LIMIT (R323): the die launches nothing more of the tenant until the entry launches. -/
def execPassedOverLimit (die queue level : Nat) (s : State) : Host.Outcome State Fault Refusal :=
  next (if s.passedCount die queue level ≥ 65536 ∧ ¬ s.sched.stopped.contains (die, queue, level) then
    { s with sched := { s.sched with stopped := s.sched.stopped ++ [(die, queue, level)] } } else s)

/-! Time slices. -/

/-- Whether a core holds a resident comb of a tenant. -/
def Core.resident (k : Core) (t : BitVec 16) : Bool := k.combs.any fun x => match x.2 with | some c => c.tenant == t | none => false

/-- Whether some head entry of a tenant could be launched on a core (R338). -/
def State.launchable (s : State) (c : Nat) (t : BitVec 16) : Bool :=
  s.sched.queues.any fun (n, q) => q.tenant == t && [0, 1, 2, 3].any fun l => match q.level l with
    | e :: _ => s.coreTakes c q e && !s.blockedBy (dieOf c) n l
    | [] => false

/-- Whether the rotation of a core takes an entry of its slice table (R338). -/
def State.sliceEligible (s : State) (c e : Nat) : Bool :=
  let k := s.core c
  let x : SliceEntry := Tab.get {} k.slices e
  x.valid && (k.resident x.tenant || (k.saved.any fun y => y.comb.tenant == x.tenant) || s.launchable c x.tenant)

/-- The entries of a slice table in rotation after entry `last`, or from the lowest where there is none (R338, R339). -/
def sliceOrder (last : Option Nat) : List Nat := match last with | some e => (List.range 8).map fun i => (e + 1 + i) % 8 | none => List.range 8

/-- The entry that the rotation takes after entry `last` (R338, R339). -/
def State.nextSlice (s : State) (c : Nat) (last : Option Nat) : Option Nat := (sliceOrder last).find? fun e => s.sliceEligible c e

/-- The slice of a core ended; where no entry is valid the rotation starts anew (R339). -/
def State.closeSlice (s : State) (c : Nat) : State :=
  s.onCore c fun k =>
    let valid := (List.range 8).any fun e => (Tab.get {} k.slices e : SliceEntry).valid
    { k with slice := none, lastSlice := if valid then (match k.slice with | some x => some x.entry | none => k.lastSlice) else none }

/-- A slice of an entry begun (R338, R339): its tenant and its length are latched. -/
def State.openSlice (s : State) (c e : Nat) : State :=
  s.onCore c fun k =>
    let x : SliceEntry := Tab.get {} k.slices e
    { k with slice := some { entry := e, tenant := x.tenant, length := if 1 ≤ x.length ∧ x.length ≤ 4095 then 4096 else x.length, start := s.clock.cycle } }

/-- Whether the strands or the stream of a comb of a core are being saved, or are to be: until then no other slice begins there (R470). -/
def Core.saving (k : Core) : Bool := k.combs.any fun x => match x.2 with | some c => c.phase == .preempting || c.cutPending | none => false

/-- A strand whose comb begins to be pre-empted (R341): what must not be cut goes on, an MCAS in its lock phase (R245) and a started direct command (`started`) among it; otherwise one with an open region rolls back (R166), and an instruction that has not taken effect is issued again on resume. The batch of a run-ahead goes with it (log entry 121). -/
def Strand.preempt (started : Bool) (st : Strand) : Strand :=
  if st.inMcas || started then st
  else if st.region.isSome then st.rollback
  else if st.inAct then st.loseResv
  else { st.loseResv with
    ahead := none
    flight := { st.flight with tokens := st.flight.tokens.filter fun t => t.reg != 64 }
    sched := { st.sched with wait := none, paid := [], owes := 0 } }

/-- Whether the stream of a comb is paired (R296). -/
def State.streamPaired (s : State) (core slot : Nat) : Bool :=
  match s.stream? core with | some x => x.slot == slot && (match x.pairing with | .paired _ _ => true | _ => false) | none => false

/-- The combs of a core that `cut` names pre-empted (R341): no strand issues further, and those that waited in a queue of the core leave it; a sequencer image that waits to be restored stays the comb's (R298). -/
def State.preemptCombs (s : State) (c : Nat) (cut : Nat → Bool) : State :=
  let one := fun (slot : Nat) (k : Comb) => if cut slot then
      { k with phase := .preempting, cutPending := false, strands := Tab.mapVals {} (fun j st => st.preempt (s.directRuns { core := c, slot := slot, strand := j })) k.strands } else k
  s.onCore c fun k => { k with
    combs := Tab.mapVals none (fun n x => x.map (one n)) k.combs
    matrix := { k.matrix with
      restores := k.matrix.restores.filter fun (r : Restore) => !cut r.slot
      held := k.matrix.held ++ k.matrix.restores.filter fun (r : Restore) => cut r.slot } }.leaveQueues fun slot _ => cut slot

/-- The resident combs of a tenant pre-empted (R341); a comb with a paired stream goes on until the stream is not paired (R298). -/
def State.preemptAll (s : State) (c : Nat) (t : BitVec 16) : State :=
  let mine : Nat → Bool := fun slot => match s.comb? c slot with | some k => k.tenant == t && k.phase != .halting && k.phase != .draining | none => false
  (s.onCore c fun k => { k with combs := Tab.mapVals none (fun n x => x.map fun (y : Comb) => if mine n && s.streamPaired c n then { y with cutPending := true } else y) k.combs }).preemptCombs c
    fun n => mine n && !s.streamPaired c n

/-- Whether a comb whose pre-emption waited for its paired stream is pre-empted now (R298). -/
def State.cutDue (s : State) (c slot : Nat) : Bool :=
  match s.comb? c slot with | some k => k.cutPending && k.phase == .running && !s.streamPaired c slot | none => false

/-- The pre-emption of a comb that waited for its paired stream (R298). -/
def State.cutComb (s : State) (c slot : Nat) : State := if s.cutDue c slot then s.preemptCombs c fun n => n == slot else s

/-- Whether the length of a core's slice has passed (R340). -/
def State.slicePassed (s : State) (c : Nat) : Bool :=
  match (s.core c).slice with
  | some x => x.length != 0 && decide (x.start + x.length ≤ s.clock.cycle)
  | none => false

/-- SLICE_EXPIRY (R340): the slice of the same tenant goes on with a slice of the entry taken; otherwise the tenant's combs are pre-empted. -/
def execSliceExpiry (core : Nat) (s : State) : Host.Outcome State Fault Refusal :=
  next (match (s.core core).slice with
  | none => s
  | some x =>
    if !s.slicePassed core then s
    else match s.nextSlice core (some x.entry) with
      | some e =>
        if (Tab.get {} (s.core core).slices e : SliceEntry).tenant = x.tenant then (s.closeSlice core).openSlice core e
        else (s.closeSlice core).preemptAll core x.tenant
      | none => (s.closeSlice core).preemptAll core x.tenant)

/-- A write of SLCMD.END (R339, R340): the running slice ends at once. -/
def State.endSlice (s : State) (core : Nat) : State :=
  match (s.core core).slice with
  | none => s
  | some x => (s.closeSlice core).preemptAll core x.tenant

/-- SLCMD_END (R339, R340). -/
def execSlcmdEnd (core : Nat) (s : State) : Host.Outcome State Fault Refusal := next (s.fromHost fun s => s.endSlice core)

/-! Saving and resuming combs. -/

/-- A request of a comb that its image waits for (R274): it has started and is neither final nor suspended, or a fabric request of it is outstanding. -/
def Request.pending (q : Request) : Bool := q.state == .running || !q.flying.isEmpty

/-- A stream of a comb that may be saved (R298, R304, R313): not paired, and no command before a held one or an MPAIR without a partner. -/
def State.streamSavable (s : State) (core slot : Nat) : Bool :=
  match s.stream? core with
  | none => true
  | some x =>
    if x.slot ≠ slot then true
    else
      let held := match x.queue with
        | [] => true
        | c :: _ => c.guard == 1 || (c.op == .mpair && (match x.pairing with | .seeking _ _ => true | _ => false))
      x.running.isNone && held && (match x.pairing with | .paired _ _ => false | _ => true)

/-- Whether what must not be cut has finished for a strand (R341 step 2): its accesses have completed, it has entered its handler where it was to, and no token is pending (R211). -/
def Strand.savable (st : Strand) : Bool :=
  st.quiet && !st.inAct && st.ahead.isNone && st.sched.pend.isNone &&
  st.flight.tokens.all fun t => t.reg ≥ 64

/-- Whether the strands and the stream of a pre-empted comb can be saved (R298, R301, R341). -/
def State.strandsSaved (s : State) (core slot : Nat) : Bool :=
  match s.comb? core slot with
  | none => false
  | some k =>
    (k.phase == .preempting || k.phase == .draining) && (k.strands.all fun x => x.2.savable) && s.streamSavable core slot &&
    (match (s.core core).matrix.direct with | some d => d.slot != slot | none => true)

/-- Whether a chunk of an FGET or FPUT of a comb is still outstanding, which would enter an error record of the comb where it fails (R385). -/
def State.chunksOut (s : State) (core slot : Nat) : Bool :=
  s.fabric.targets.any fun x => x.2.out.any fun o => match o.use with | .chunk c n _ (some _) _ => c == core && n == slot | _ => false

/-- Whether nothing works on the window of a comb any longer: its requests are final or suspended (R274), no chunk of theirs is outstanding, and no peer copy holds it (R177). -/
def State.windowFree (s : State) (core slot : Nat) : Bool :=
  !((s.comb core slot).reqs.any Request.pending) && !s.chunksOut core slot && !s.peerHeld core (s.comb core slot)

/-- Whether the save area of a core is served (R482, log entry 101). -/
def State.areaServed (s : State) (core : Nat) : Bool := s.served (Config.saveArea core)

/-- Whether the comb image of a pre-empted comb can be written (R274, R298, R341): it waits while the save area is not served (R482). -/
def State.imageReady (s : State) (core slot : Nat) : Bool := s.strandsSaved core slot && s.windowFree core slot && s.areaServed core

/-- Whether a pre-empted comb gives up its strands and its stream while its started requests run on or its save area is not served (R470, R482). -/
def State.mayDrain (s : State) (core slot : Nat) : Bool :=
  s.strandsSaved core slot && (s.comb core slot).phase == .preempting && !(s.windowFree core slot && s.areaServed core)

/-- The marks of the registers that `p` admits. -/
def Marks.only (m : Marks) (p : Reg → Bool) : Marks :=
  { s := m.s.filter fun x => p (.s x.1), a := m.a.filter fun x => p (.a x.1), v := m.v.filter fun x => p (.v x.1), k := m.k.filter fun x => p (.k x.1) }

/-- The registers that `p` admits. -/
def Regs.only (m : Regs) (p : Reg → Bool) : Regs :=
  { s := m.s.filter fun x => p (.s x.1), a := m.a.filter fun x => p (.a x.1), v := m.v.filter fun x => p (.v x.1), k := m.k.filter fun x => p (.k x.1) }

/-- The image of a strand (R165, R167, R341, R426): with an open region its live-in registers only, otherwise the whole context; what it waits for is issued again. Its fairness counter starts at 0 on resume (R158). -/
def Strand.image (st : Strand) : Strand :=
  let st := { st.loseResv with
    flight := { nextId := st.flight.nextId, terms := st.flight.terms, lines := st.flight.lines, tokens := st.flight.tokens.filter fun t => t.reg == 66 }
    sched := { st.sched with wait := none, parked := false, stopped := false, burst := none, pause := 0, fc := 0, counted := 0, paid := [], owes := 0 } }
  match st.region with
  | some r => { st with regs := st.regs.only r.holds, marks := st.marks.only r.holds, region := none, ahead := none }
  | none => st

/-- The bytes of a range of LM relative to its base. -/
def lmImage {α : Type} (t : Tab α) (b w : Nat) : List (Nat × α) := (t.filter fun x => decide (b ≤ x.1) && decide (x.1 < b + w)).map fun x => (x.1 - b, x.2)

/-- The stop entries of a comb's strands freed (R421). -/
def State.dropStops (s : State) (core slot : Nat) : State :=
  { s with mgmt := { s.mgmt with stops := s.mgmt.stops.filter fun x => match x.2 with | some e => !(e.who.core == core && e.who.slot == slot) | none => false } }

/-- The stream as its image holds it: what it waits for is issued again, but for a fetch fault that is not resolved. An MPAIR without a partner starts anew (R313); that a pairing was dissolved is kept for the next paired command (R297, R315). -/
def Stream.image (x : Stream) : Stream :=
  { x with wait := (match x.wait with | some (.fetch b) => some (.fetch b) | some (.lost c v) => some (.lost c v) | _ => none), pairing := (match x.pairing with | .dissolved => .dissolved | _ => .none), queue := x.queue.map fun c => { c with guard := 0 } }

/-- The stream of a comb saved: the sequencer becomes idle for the other combs of the core (R298). -/
def State.saveStream (s : State) (core slot : Nat) : State :=
  match (s.core core).matrix.stream with
  | some x => if x.slot = slot then s.onCore core fun c => { c with matrix := { c.matrix with
        stream := none
        last := some x.tenant
        held := c.matrix.held ++ [{ slot := slot, stream := x.image, acc := c.matrix.acc, intTag := c.matrix.intTag }] } } else s
  | none => s

/-- The strands and the stream of a pre-empted comb saved, and its frames given up; its slot, its window and its started requests stay (R470). -/
def State.drainComb (s : State) (core slot : Nat) : State :=
  if s.mayDrain core slot then
    ((s.dropStops core slot).saveStream core slot).onComb core slot fun k => { k with phase := .draining, strands := k.strands.map fun y => (y.1, y.2.image) }
  else s

/-- The image of a comb written and its slot freed (R341, R342), with its sequencer image: of its stream, or of one that still waited for the sequencer since an earlier resume (R298). -/
def State.saveComb (s : State) (core slot : Nat) : State :=
  let s := s.saveStream core slot
  match s.comb? core slot with
  | none => s
  | some k =>
    let c := s.core core
    let wait := c.matrix.held.find? fun r => r.slot == slot
    let conf := match s.descriptor k.tenant with | some d => descConf d | none => false
    let ids := k.reqs.map fun q => q.id
    let x : Saved := {
      comb := { k with phase := .running, strands := k.strands.map fun y => (y.1, y.2.image) }
      slot := slot
      lm := lmImage c.lm k.base k.shape.window
      poison := (c.lmPoison.filter fun y => decide (k.base ≤ 4 * y.1) && decide (4 * y.1 < k.base + k.shape.window)).map fun y => y.1 - k.base / 4
      stream := wait.map fun r => r.stream
      acc := match wait with | some r => r.acc | none => []
      intTag := match wait with | some r => r.intTag | none => []
      sealedBy := if conf then s.keyOf k.tenant 0 else none }
    (s.dropStops core slot).onCore core fun c => { c with
      combs := Tab.put none c.combs slot none
      saved := c.saved ++ [x]
      ready := c.ready.filter fun y => y != slot
      locks := c.locks.filter fun e => !ids.contains e.id
      matrix := { c.matrix with held := c.matrix.held.filter fun r => r.slot != slot } }

/-- COMB_IMAGE_COMPLETE (R274, R298, R341, R342). -/
def execCombImageComplete (core slot : Nat) (s : State) : Host.Outcome State Fault Refusal :=
  next (if s.imageReady core slot then s.saveComb core slot else s)

/-- Whether the batches of a comb are all resolved (R200). -/
def State.batchesDone (s : State) (k : Comb) : Bool := !(k.batches.any fun id => s.tiers.batches.any fun b => b.id == id && !b.resolved)

/-- The slot that a saved comb takes (R342). -/
def Core.slotFor (k : Core) (x : Saved) : Option Nat := if (Tab.get none k.combs x.slot).isNone then some x.slot else k.freeSlot

/-- Whether a saved comb may resume on its core (R342): its image can be read (R482), and its strands have room in frames (log entry 122). -/
def State.mayResumeSaved (s : State) (core : Nat) (x : Saved) : Bool :=
  let k := s.core core
  s.slices core x.comb.tenant && k.rangeFree x.comb.base x.comb.shape.window && (k.slotFor x).isSome && s.batchesDone x.comb && s.areaServed core &&
  (placeStrands k.frames x.comb.shape.nregs (x.comb.strands.filter fun y => !y.2.sched.retired).length).isSome

/-- The saved comb of a core that resumes next: that of the slice's tenant whose save completed first, among those whose batches are resolved (R342, R200). -/
def State.nextSaved (s : State) (core : Nat) : Option Saved :=
  match (s.core core).slice with
  | none => none
  | some sl => match (s.core core).saved.find? fun x => x.comb.tenant == sl.tenant && s.batchesDone x.comb with
    | some x => if s.mayResumeSaved core x then some x else none
    | none => none

/-- Whether the running slice of a core is complete (R340): its tenant has no resident comb, none that resumes now (R338), and no entry that the core could launch. -/
def State.sliceDone (s : State) (c : Nat) : Bool :=
  match (s.core c).slice with
  | some x => !(s.core c).resident x.tenant && !s.launchable c x.tenant && (s.nextSaved c).isNone
  | none => false

/-- The entry whose slice begins next on a core (R338): the first that the rotation takes whose slice is not complete as soon as it begins (R340, log entry 124). -/
def State.nextBegin (s : State) (c : Nat) : Option Nat :=
  (sliceOrder (s.core c).lastSlice).find? fun e => s.sliceEligible c e && !(s.openSlice c e).sliceDone c

/-- Whether a slice begins on a core (R338), or its complete one ends (R340). -/
def State.mayBegin (s : State) (c : Nat) : Bool :=
  s.sliceDone c || ((s.core c).slice.isNone && !(s.core c).saving && (s.nextBegin c).isSome)

/-- SLICE_BEGIN (R338, R339, R340). -/
def execSliceBegin (core : Nat) (s : State) : Host.Outcome State Fault Refusal :=
  next (if !s.mayBegin core then s
  else
    let s := if s.sliceDone core then s.closeSlice core else s
    if (s.core core).saving then s
    else match s.nextBegin core with
      | some e => s.openSlice core e
      | none => s)

/-- The slot of a resuming comb whose requests can be registered again now (R274). -/
def State.resumable (s : State) (core : Nat) : Option Nat :=
  (s.core core).combs.findSome? fun (n, x) => match x with
    | some k =>
      let need := k.reqs.filter fun q => !(s.core core).locks.any fun e => e.id == q.id
      if k.phase == .resuming && !need.isEmpty && decide (need.length ≤ s.freeLocks core) then some n else none
    | none => none

/-- Whether a resumed comb still waits: for range-lock entries (R274) or for the sequencer (R298). -/
def State.stillResuming (s : State) (core slot : Nat) : Bool :=
  let k := s.comb core slot
  k.reqs.any (fun q => !(s.core core).locks.any fun e => e.id == q.id) || (s.core core).matrix.restores.any fun x => x.slot == slot

/-- A resumed comb begins to run once nothing holds it back (R274, R298). -/
def State.resumeRuns (s : State) (core slot : Nat) : State :=
  if s.stillResuming core slot then s else (s.onComb core slot fun k => { k with phase := .running }).resumeParked core slot

/-- A withdrawn request of a resumed comb read again from LM (R274), with the progress that its image holds; that its tag was checked counts only where it had started. -/
def State.rereadReq (s : State) (core slot : Nat) (q : Request) : Request :=
  match q.kind with
  | .kick off =>
    let r := parseReq (s.winRead core slot off 64) off q.strand q.id q.tenant q.priv
    { r with
      state := q.state, cause := q.cause, left := q.left, flying := q.flying, staged := q.staged, checked := r.checked || (q.checked && q.dec && q.state == .suspended),
      counts := q.counts, uncounted := q.uncounted, batch := q.batch }
  | _ => q

/-- The withdrawn requests of a resumed comb registered again, in their old order (R274). A request whose fault was found unresolvable meanwhile aborts (R272). -/
def State.reregister (s : State) (core slot : Nat) : State :=
  let l := (s.comb core slot).reqs
  let s := l.foldl (fun s q =>
    let q := s.rereadReq core slot q
    (s.onReq core slot q.id fun _ => q).lockReq core slot q) s
  l.foldl (fun s q =>
    if q.state = .aborted then s.abort core slot q q.cause none
    else if q.state = .suspended && q.batch.isNone then s.releaseReq core slot q.id none else s) s

/-- CONF_LOST for every strand of a comb that has none yet (R431, R432). -/
def Comb.confLost (k : Comb) (ctx : Nat) : Comb :=
  let add := fun (st : Strand) => if st.live == 0 || st.sched.async.any (fun f => f.cause == 0x28) then st
    else st.addAsync { cause := 0x28, tval := BitVec.ofNat 64 ctx, seq := false }
  { k with strands := Tab.mapVals {} (fun _ st => add st) k.strands }

/-- A saved comb put back (R342): its slot, frames (log entry 122), window, requests and stream. Its stream waits for the sequencer (R298). -/
def State.resumeComb (s : State) (core : Nat) (x : Saved) : State :=
  let k := s.core core
  match k.slotFor x with
  | none => s
  | some slot =>
    let live := x.comb.strands.filter fun y => !y.2.sched.retired
    let frames := (placeStrands k.frames x.comb.shape.nregs live.length).getD []
    let place := fun (y : Nat × Strand) => match (live.map fun z => z.1).findIdx? fun j => j == y.1 with
      | some n => (y.1, { y.2 with frame := frames.getD n 0 })
      | none => y
    let c := { x.comb with phase := .resuming, strands := x.comb.strands.map place }
    let d := s.descriptor c.tenant
    let lost := match d with | some d => descConf d && s.keyOf c.tenant 0 != x.sealedBy | none => false
    let c := if lost then c.confLost (match d with | some d => descCtx d | none => 0) else c
    let wait := x.stream.map fun y => ({ slot := slot, stream := { y with slot := slot }, acc := x.acc, intTag := x.intTag } : Restore)
    let s := s.onCore core fun k =>
      let k := k.clearLm c.base c.shape.window
      { k with
        lm := Mem.writeCells k.lm (x.lm.map fun y => (c.base + y.1, y.2))
        lmPoison := x.poison.foldl (fun t w => Tab.put false t (c.base / 4 + w) true) k.lmPoison
        combs := Tab.put none k.combs slot (some c)
        saved := k.saved.erase x
        matrix := { k.matrix with restores := k.matrix.restores ++ wait.toList } }
    let s := if c.reqs.length ≤ s.freeLocks core then s.reregister core slot else s
    s.resumeRuns core slot

/-- COMB_RESUME (R342): the next saved comb of the slice's tenant; or the requests of a comb that waited for entries are registered again (R274). -/
def execCombResume (core : Nat) (s : State) : Host.Outcome State Fault Refusal :=
  next (match s.resumable core with
  | some n => (s.reregister core n).resumeRuns core n
  | none => match s.nextSaved core with
    | some x => s.resumeComb core x
    | none => s)

/-- Whether COMB_RESUME can act on a core. -/
def State.mayResume (s : State) (core : Nat) : Bool := (s.resumable core).isSome || (s.nextSaved core).isSome

end Sys2Proof.Machine
end

