-- ==== Sys2Proof/Machine/Fabric.lean ====
section
/-! DEFINITION. The fabric instructions FGET, FPUT, FMSG and FSYNC (R387 to R390), the target's side (R377 to R381), responses, resends and failures (R380 to R386), links and transit (R374, R375), and the receive rings (R450). -/

namespace Sys2Proof.Machine
open Sys2Proof

/-! The instructions. -/

/-- The request of FGET or FPUT (R388): a KICK of one request with DIMS 00, DEC 0, SYS 0 and BEN 1. -/
def Issue.fabReq (i : Issue) (s : State) : Request :=
  let get := i.o == .fget
  let lm := (i.uA s).toNat
  let fab := (s.readPair i.w i.e.c.toNat).toNat
  { id := 0, kind := if get then .fget i.w.strand else .fput i.w.strand, strand := i.w.strand
    guard := if i.e.qbit 3 then some (i.e.qb.toNat % 8) else none
    sspc := if get then 3 else 0, dspc := if get then 0 else 3
    src := if get then fab else lm, dst := if get then lm else fab
    len0 := (i.opB s).toNat, c1 := 1, c2 := 1, c3 := 1
    sp1 := 0, sp2 := 0, sp3 := 0, dp1 := 0, dp2 := 0, dp3 := 0
    sys := false, dec := false, key := 0, goff := 0, bar := some (i.uD s).toNat
    tenant := s.tenantOf i.w.core i.w.slot, priv := i.st.trap.priv, state := .queued, cause := 0
    left := [], flying := [], staged := [], checked := true, counts := [], uncounted := 0, batch := none }

/-- The checks of FGET and FPUT in their order (R388, R376). -/
def Issue.fabTrap (i : Issue) (s : State) : Option Trap :=
  let w := i.w
  let n := (i.opB s).toNat
  let bar := (i.uD s).toNat
  let lm := (i.uA s).toNat
  let fab := (s.readPair w i.e.c.toNat).toNat
  firstOf
    [(n < 1 || n > 2 ^ 23 - 1, Trap.of .illegalOperand n),
     (bar % 8 != 0, Trap.of .misaligned bar),
     (!s.inWindow w.core w.slot bar 8, Trap.of .pageProtect bar),
     (!s.inWindow w.core w.slot lm n, Trap.of .pageProtect (max lm (s.comb w.core w.slot).shape.window)),
     (fabDev fab > 992 || fab / 2 ^ 48 != (fab + n - 1) / 2 ^ 48, Trap.of .pageProtect fab),
     (!s.reachable (fabDev fab), Trap.of .fabricUnreachable fab)]

/-- The course of FGET and FPUT (R388). -/
def State.fabCopy (s : State) (i : Issue) : State :=
  match i.fabTrap s with
  | some t => s.raise i t
  | none => s.submit i [i.fabReq s]

/-- FGET (R388). -/
def execFget (e : Enc) (s : State) : Host.Outcome State Fault Refusal := next (strandOnly .fget e s fun i s => s.fabCopy i)

/-- FPUT (R388). -/
def execFput (e : Enc) (s : State) : Host.Outcome State Fault Refusal := next (strandOnly .fput e s fun i s => s.fabCopy i)

/-- FMSG (R389): the entry is read in LM order; D is pending until the final response. -/
def execFmsg (e : Enc) (s : State) : Host.Outcome State Fault Refusal :=
  next (strandOnly .fmsg e s (effect
    (fun i s =>
      let n := (i.opB s).toNat
      let dev := (i.uC s).toNat
      let off := (i.uA s).toNat
      let header := s.winRead i.w.core i.w.slot off 8
      let named := firstOf [(n > 255, Trap.of .illegalOperand n), (dev > 992, Trap.of .pageProtect dev)]
      (named.or (s.blockTrap i.w off 64)).or
        (firstOf [(bits header 31 8 != 0, Trap.of .illegalOperand off), (!s.reachable dev, Trap.of .fabricUnreachable dev)]))
    fun i s =>
      let d := e.d.toNat
      let entry := BitVec.ofNat 512 (s.lmObject i.w (i.uA s).toNat)
      let s1 := s.onStrand i.w fun st => { st with flight := { st.flight with msgs := st.flight.msgs ++ [d] } }
      s1.fabRequest (.message i.w d) 0 (s.tenantOf i.w.core i.w.slot) (i.uC s).toNat 0 0 (.message (i.opB s).toNat entry)))

/-- Whether a strand has a fabric access, FGET, FPUT or FMSG without a final response (R390). -/
def State.fabBusy (s : State) (w : Sid) : Bool :=
  let st := s.strand w
  !(s.fabStores w).isEmpty || !st.flight.msgs.isEmpty ||
  (s.fabric.targets.any fun x => x.2.out.any fun o => o.use.owner == some w) ||
  ((s.comb w.core w.slot).reqs.any fun q => q.kind == .fget w.strand || q.kind == .fput w.strand)

/-- The FSYNC status word (R390). -/
def FabErr.status (r : FabErr) : Word :=
  if r.valid then BitVec.ofNat 32 (2 ^ 31 + r.count * 2 ^ 16 + r.cause) else 0

/-- FSYNC (R390): with SUB 0 and .clr it stands until nothing is outstanding. -/
def execFsync (e : Enc) (s : State) : Host.Outcome State Fault Refusal :=
  next (strandOnly .fsync e s fun i s =>
    let r := i.st.ferr
    let half := fun (n : Nat) => BitVec.ofNat 32 (if r.valid then r.addr / n else 0)
    let now := e.sub = 1 ∨ e.sub = 2
    if i.act ≠ 0 ∧ ¬ now ∧ s.fabBusy i.w then s
    else effect noCheck (fun i s =>
      let v := if e.sub = 1 then half 1 else if e.sub = 2 then half (2 ^ 32) else r.status
      let s := s.writeS i.w e.d.toNat v
      if e.sub = 3 then s.onStrand i.w fun st => { st with ferr := {} } else s) i s)

/-! The end of a request at its source. -/

/-- Whether an answer fits a request (R379). -/
def fabFits : FabKind → FabAnswer → Bool
  | .read, .data _ _ | .write _ _ _, .ack | .reduced _ _ _, .value _ | .lanes _ _ _, .value _ => true
  | .reduced _ _ _, .poisoned | .lanes _ _ _, .poisoned | .message _ _, .result _ => true
  | .message _ _, .refusal => false
  | _, .refusal => true
  | _, _ => false

/-- The fabric address of a packet to a target. -/
def fabAddr (p : FabRequest) (target : Nat) : Nat := target * 2 ^ 54 + p.win * 2 ^ 48 + p.off

/-- The request of a copied chunk failed (R273, R385, R388): its copy request aborts; where that has ended already, the chunk still enters the record of the strand that issued it. -/
def State.failChunk (s : State) (core slot req : Nat) (owner : Option Nat) (cause addr : Nat) : State :=
  match (s.core core).combs.findSome? fun x => match x.2 with
      | some k => (k.reqs.find? fun q => q.id == req).map fun q => (x.1, q)
      | none => none with
  | some (slot, q) => s.abort core slot q cause (some addr)
  | none => match owner with
    | some j => s.onStrand { core := core, slot := slot, strand := j } fun st => { st with ferr := st.ferr.enter cause addr }
    | none => s

/-- A request that ends without its effect known, with the cause (R375, R378, R382, R384, R385, R389). -/
def State.failOut (s : State) (v : Nat) (o : FabOut) (cause : Nat) : State :=
  let a := fabAddr o.packet v
  match o.use with
  | .load w id line => s.onStrand w fun st => st.onLoad id fun l => { l with failed := l.failed ++ [(line, cause)] }
  | .atomic w id addr => s.onStrand w fun st => st.onAtomic id fun x => { x with
      parts := x.parts.filter fun p => p.va != addr
      failed := x.failed ++ (x.parts.filter fun p => p.va == addr).map fun p => (p.lane, p.va, cause) }
  | .store w id => s.onStrand w fun st => { st.acknowledge id [] with ferr := st.ferr.enter cause a }
  | .chunk core slot req owner _ => s.failChunk core slot req owner cause a
  | .message w reg => s.onStrand w fun st =>
      { st.putS reg (BitVec.ofNat 32 (2 ^ 31 + cause)) with flight := { st.flight with msgs := st.flight.msgs.erase reg } }

/-- A chunk's answer: the source bytes are staged, or the write is performed and counts now (R259, R388). -/
def State.chunkAnswer (s : State) (core slot req : Nat) (c : Chunk) (a : FabAnswer) : State :=
  match s.req? core slot req with
  | none => s
  | some q =>
    match a with
    | .data line poison => s.stage core slot q c (bits line.toNat (8 * (c.src % 64 + c.len) - 1) (8 * (c.src % 64))) (if poison then 2 ^ c.len - 1 else 0)
    | _ => s.written core slot q { chunk := c, data := 0, poison := 0 } s.clock.gt none

/-- A request that has its final response (R380, R383, R384). -/
def State.answerOut (s : State) (v : Nat) (o : FabOut) (a : FabAnswer) : State :=
  let now : Terms := { device := 0, comb := 0, system := s.clock.gt }
  match a with
  | .refusal => s.failOut v o Cause.pageProtect.code
  | .poisoned => s.failOut v o Cause.memPoison.code
  | _ =>
    match o.use with
    | .load w id line => match a with
      | .data d poison => s.onStrand w fun st => st.onLoad id fun l =>
          { l with sectors := l.sectors.map fun x => if lineOf (32 * x.1) = line then (x.1, some (d.toNat, poison)) else x }
      | _ => s
    | .atomic w id addr => match a with
      | .value x => s.onStrand w fun st => (st.onAtomic id fun y =>
          let g := y.parts.filter fun p => p.va == addr
          { y with parts := y.parts.filter fun p => p.va != addr, done := y.done ++ (actOn y.kind y.pc x.toNat g).2 }).termOf id now
      | _ => s
    | .store w id => s.onStrand w fun st => (st.termOf id now).acknowledge id []
    | .chunk core slot req _ c => s.chunkAnswer core slot req c a
    | .message w reg => match a with
      | .result r => s.onStrand w fun st =>
          let st := st.putS reg r
          { st with flight := { st.flight with msgs := st.flight.msgs.erase reg } }
      | _ => s

/-- The requests outstanding to a target: sent and without a final response (R380). -/
def FabTarget.sent (t : FabTarget) : List FabOut := t.out.filter fun o => o.first.isSome

/-- An outstanding request of a target. -/
def FabTarget.find (t : FabTarget) (seq : Nat) : Option FabOut := t.sent.find? fun o => o.packet.seq == seq

/-- An outstanding request no longer kept. -/
def State.dropOut (s : State) (v : Nat) (o : FabOut) : State := s.onTarget v fun t => { t with out := t.out.erase o }

/-- Every outstanding request to a target failed with FABRIC_UNREACHABLE (R375, R381). -/
def State.failAll (s : State) (v : Nat) : State :=
  ((s.target v).sent).foldl (fun s o => (s.dropOut v o).failOut v o Cause.fabricUnreachable.code) s

/-- The epoch of a response recorded: one that differs from the last, an older one too, fails what is still outstanding (R381, log entry 123). -/
def State.noteEpoch (s : State) (v e : Nat) : State :=
  let old := (s.target v).epoch
  let s := s.onTarget v fun t => { t with epoch := some e }
  if old.isNone || old == some e then s else s.failAll v

/-- What a response does to the request that it answers. -/
def State.respond (s : State) (resp : FabResponse) : State :=
  let v := resp.target
  let gt := s.clock.gt
  match (s.target v).find resp.seq with
  | none => s
  | some o =>
    if resp.answer = .retry then s.onTarget v fun t => { t with out := t.out.map fun x => if x = o then { x with last := gt } else x }
    else if fabFits o.packet.kind resp.answer then (s.dropOut v o).answerOut v o resp.answer
    else s

/-- FABRIC_RESPONSE_ARRIVAL (R380 to R386): the request ends or waits again, a new epoch fails the others, and requests that waited are sent. -/
def execFabricResponseArrival (resp : FabResponse) (s : State) : Host.Outcome State Fault Refusal :=
  next (
    let v := resp.target
    let gt := s.clock.gt
    let mine := s.fabric.acks.find? fun x => x.2 == resp
    let s := match mine with | some x => { s with fabric := { s.fabric with acks := s.fabric.acks.erase x } } | none => s
    let s := s.onTarget v fun t => { t with heard := gt }
    ((s.respond resp).noteEpoch v resp.epoch).pump v)

/-! Resends and failures. -/

/-- Whether a request is to be resent: 2 µs after its last send or retry response (R382). -/
def State.resendDue (s : State) (v seq : Nat) : Bool :=
  match (s.target v).find seq with | some o => decide (o.last + 2000 ≤ s.clock.gt) | none => false

/-- FABRIC_RESEND (R382): with its number unchanged, on a path chosen again (R374). -/
def execFabricResend (target seq : Nat) (s : State) : Host.Outcome State Fault Refusal :=
  next (match (s.target target).find seq with
  | some o =>
    if s.resendDue target seq then
      let gt := s.clock.gt
      (s.onTarget target fun t => { t with out := t.out.map fun x => if x = o then { x with last := gt } else x }).transmit target o.packet
    else s
  | none => s)

/-- Whether a request has had no final response for 1,024 µs after its first send (R382). -/
def State.timeoutDue (s : State) (v seq : Nat) : Bool :=
  match (s.target v).find seq with
  | some o => (match o.first with | some t => decide (t + 1024000 ≤ s.clock.gt) | none => false)
  | none => false

/-- FABRIC_TIMEOUT (R382). -/
def execFabricTimeout (target seq : Nat) (s : State) : Host.Outcome State Fault Refusal :=
  next (match (s.target target).find seq with
  | some o => if s.timeoutDue target seq then ((s.dropOut target o).failOut target o Cause.fabricTimeout.code).pump target else s
  | none => s)

/-- Whether a device other than this one has been silent for 256 µs with requests outstanding (R375). -/
def State.silent (s : State) (v : Nat) : Bool := v != self && !(s.target v).sent.isEmpty && decide ((s.target v).heard + 256000 ≤ s.clock.gt)

/-- LINK_DOWN (R375). -/
def execLinkDown (port : Nat) (s : State) : Host.Outcome State Fault Refusal :=
  next (if port < 32 ∧ s.portUp port then { s with fabric := { s.fabric with down := s.fabric.down ++ [port] } } else s)

/-- LINK_UP (R371, R375): a port that leads to no device stays dark. -/
def execLinkUp (port : Nat) (s : State) : Host.Outcome State Fault Refusal :=
  next (if (neighbourAt self port).isSome then { s with fabric := { s.fabric with down := s.fabric.down.filter fun p => p != port } } else s)

/-- The device that sent a packet, and the intermediate of its path. -/
def packetPath : FabPacket → Nat × Option Nat
  | .request r via => (r.src, via)
  | .response r via => (r.target, via)

/-- The port by which a packet that has made `hop` hops goes on (R374): minimally to its intermediate, and from there minimally to its destination. -/
def State.nextPort (s : State) (p : FabPacket) (dst hop : Nat) : Nat :=
  match packetPath p with
  | (src, some i) => if i = self ∨ minHops src i ≤ hop then s.portOf dst none else s.portOf dst (some i)
  | (_, none) => s.portOf dst none

/-- PACKET_TRANSIT (R374): the router only forwards the packet on its path; the fourth hop is the last. -/
def execPacketTransit (p : FabPacket) (dst hop : Nat) (s : State) : Host.Outcome State Fault Refusal :=
  next (if dst ≠ self ∧ 1 ≤ hop ∧ hop ≤ 3 then
    { s with fabric := { s.fabric with outbox := s.fabric.outbox ++ [.packet dst (s.nextPort p dst hop) p s.clock.gt] } } else s)

/-! The target. -/

/-- What comes of a request at its target: an answer, when it may leave, and the state; or a wait for a line or a descriptor. -/
inductive Served
  | answer (a : FabAnswer) (when_ : Nat) (s : State)
  | waits (s : State)

/-- A line that an agent of the device waits for, or the PA of a virtual address of a tenant (R178). -/
inductive AgentPa
  | ok (pa : Nat)
  | refused
  | queued (cause : Nat) (pa : Option Nat)
  | waits

/-- A virtual address of a tenant translated for an agent without privilege, by the TLB of die 0 (log entry 45). -/
def State.agentPa (s : State) (t : BitVec 16) (acc : Access) (va : Nat) : AgentPa :=
  match s.translate (agentTlb 0) t false acc va with
  | .ok pa => .ok pa
  | .error .protect => .refused
  | .error (.queued c pa) => .queued c pa
  | .error .waits => .waits

/-! Messages (R450). -/

/-- The refusal of a message by its queue, or none (R389, R448, R450). -/
def DroneQueue.refuses (q : DroneQueue) (t : BitVec 16) : Bool :=
  !q.en || q.orphan || q.svc != 3 || !(q.ften == 0xFFFF || q.ften == t.toNat)

/-- A message placed in the receive ring of its queue (R450): the slot, then TAIL, then the notify register. An error is the state in which it waits for a line or an extent of the ring (R482). -/
def State.placeMessage (s : State) (queue src : Nat) (tenant : BitVec 16) (entry : LineBits) : Except State (Word × State) :=
  let q := s.drone queue
  if q.refuses tenant then .ok (0x80000002, s)
  else match s.agentPa q.tenant .write q.base with
    | .ok ring =>
      if s.homeWaits (lineOf ring) then .error (s.fetchLine (lineOf ring))
      else
        let s1 := (s.remember (agentTlb 0) q.tenant q.base).atHome (lineOf ring)
        let head := Mem.read s1.memory.mem ring 8
        let tail := Mem.read s1.memory.mem (ring + 8) 8
        if (tail + 2 ^ 64 - head) % 2 ^ 64 = 2 ^ q.logcap then .ok (0x80000001, s1)
        else
          let va := q.base + 64 + 128 * (tail % 2 ^ q.logcap)
          match s.agentPa q.tenant .write va, s.agentPa q.tenant .write (va + 64) with
          | .ok a, .ok b =>
            if s1.homeWaits (lineOf a) || s1.homeWaits (lineOf b) then .error ((s1.fetchLine (lineOf a)).fetchLine (lineOf b))
            else
              let s2 := (s1.homeStore a 64 entry.toNat).homeStore b 4 (src % 65536 + tenant.toNat * 65536)
              .ok (0, (s2.homeStore (ring + 8) 8 ((tail + 1) % 2 ^ 64)).bump q.nreg)
          | _, _ => .error s1
    | _ => .error s

/-- FABRIC_MESSAGE_RECEIVE (R450): one arriving message is placed. -/
def execFabricMessageReceive (queue src : Nat) (tenant : BitVec 16) (entry : LineBits) (s : State) : Host.Outcome State Fault Refusal :=
  next (match s.placeMessage queue src tenant entry with
  | .ok r => r.2
  | .error s => s.again false)

/-! Requests at a target. -/

/-- A window of this device (R377). -/
def State.window (s : State) (n : Nat) : Window := Tab.get {} s.fabric.windows n

/-- The access that a request makes (R378). -/
def fabAccess : FabKind → Access
  | .read => .read | .write _ _ _ => .write | _ => .atomic

/-- The bytes that a request names, for the length check of R378. -/
def fabLen : FabKind → Nat
  | .reduced _ w _ | .lanes _ w _ => if w then 8 else 4
  | _ => 64

/-- Step 1 of R378. -/
def Window.admits (x : Window) (p : FabRequest) : Bool :=
  x.valid && (x.srct == 0xFFFF || x.srct == p.tenant.toNat) &&
  (match p.kind with | .read => x.r | .write _ _ _ => x.w | _ => x.a) && decide (p.off + fabLen p.kind ≤ x.len * 65536)

/-- The fault queue entry of a window's page (R378), unless one is still unresolved. -/
def State.windowFault (s : State) (t : BitVec 16) (f : PageFault) : State :=
  let same := fun (b : Batch) => b.from_ == .device && b.tenant == t && !b.resolved && b.entries.any fun e => e.va / 65536 == f.va / 65536 && e.cause == f.cause
  if s.tiers.batches.any same then s else s.formBatch .device 0 0 t [f]

/-- The lanes of an atomic request as the target applies them (R233). -/
def fabParts : FabKind → List AtomPart
  | .reduced _ _ d => [{ lane := 0, va := 0, pa := 0, data := d, new := 0 }]
  | .lanes _ _ l => l.mapIdx fun k x => { lane := k, va := 0, pa := 0, data := x.1, new := x.2 }
  | _ => []

/-- The kind of an atomic request. -/
def fabAtomKind : FabKind → AtomKind
  | .reduced op w _ | .lanes op w _ => .int op w
  | _ => .int .add false

/-- A request performed at its home slice (R383): a read, a store with the poison of its data, or an atomic, which a poisoned line refuses (R236). -/
def State.performAt (s : State) (p : FabRequest) (pa : Nat) : Served :=
  let line := lineOf pa
  let gt := s.clock.gt
  let s := (s.atHome line).countAccess line
  match p.kind with
  | .read => .answer (.data (Mem.line s.memory.mem line) (s.linePoison line)) gt s
  | .write mask data poison =>
    let s := s.applyLine line mask data
    let s := if poison then s.poisonLine line else s
    .answer .ack (s.completion line + 1) s
  | k =>
    if s.linePoison line then .answer .poisoned gt s
    else
      let n := (fabAtomKind k).size
      let r := actOn (fabAtomKind k) 0 (Mem.read s.memory.mem pa n) (fabParts k)
      let old := BitVec.ofNat 64 (Mem.read s.memory.mem pa n)
      .answer (.value old) gt (if writesTarget (fabAtomKind k) r.2 (fabParts k) then s.homeWrite pa n r.1 else s)

/-- A request checked and executed at this device (R378, R383). -/
def State.execRequest (s : State) (p : FabRequest) : Served :=
  let gt := s.clock.gt
  match p.kind with
  | .message queue entry => match s.placeMessage queue p.src p.tenant entry with
    | .ok r => .answer (.result r.1) gt r.2
    | .error s => .waits s
  | _ =>
    let x := s.window p.win
    if !x.admits p then .answer .refusal gt s
    else
      let va := x.vbase * 65536 + p.off
      match s.agentPa x.tenant (fabAccess p.kind) va with
      | .refused => .answer .refusal gt s
      | .waits => .waits s
      | .queued c pa => .answer .retry gt (s.windowFault x.tenant { va := va, pa := pa, cause := c, acc := s.accCode (fabAccess p.kind) c pa, origin := 4 })
      | .ok pa =>
        if !isDevice pa then .answer .refusal gt s
        else if s.homeWaits (lineOf pa) then .waits (s.fetchLine (lineOf pa))
        else (s.remember (agentTlb 0) x.tenant va).performAt p pa

/-- A response given to the network, or to this device itself (R375, R379, R381). -/
def State.sendResponse (s : State) (src seq : Nat) (a : FabAnswer) (when_ : Nat) : State :=
  let r : FabResponse := { target := self, seq := seq, epoch := s.fabric.epoch, answer := a }
  let f := s.fabric
  if src = self then { s with fabric := { f with acks := f.acks ++ [(when_, r)] } }
  else { s with fabric := { f with outbox := f.outbox ++ [.packet src (s.portOf src (s.pathTo src)) (.response r (s.pathTo src)) when_] } }

/-- What a target keeps for a source. -/
def State.source (s : State) (v : Nat) : FabSource := Tab.get {} s.fabric.sources v

/-- How far a number lies above H, and how far below, modulo 2^32 (R381). -/
def FabSource.above (f : FabSource) (seq : Nat) : Bool :=
  match f.high with | none => true | some h => let d := (seq + 2 ^ 32 - h) % 2 ^ 32; decide (1 ≤ d ∧ d < 2 ^ 31)

/-- Whether a number is too old to answer (R381). -/
def FabSource.tooOld (f : FabSource) (seq : Nat) : Bool :=
  match f.high with | none => false | some h => !f.above seq && decide ((h + 2 ^ 32 - seq) % 2 ^ 32 > 255)

/-- A number accepted, and recorded with its answer where the request was executed (R381). -/
def FabSource.accept (f : FabSource) (seq : Nat) (a : FabAnswer) : FabSource :=
  let h := if f.above seq then seq else f.high.getD seq
  let done := match a with | .refusal | .retry | .poisoned => f.done | .data _ _ => (seq, .ack) :: f.done | x => (seq, x) :: f.done
  { high := some h, done := done.filter fun x => decide ((h + 2 ^ 32 - x.1) % 2 ^ 32 ≤ 255) }

/-- The answer that a target keeps for an executed request other than a read (R379, R381). -/
def FabSource.saved (f : FabSource) (req : FabRequest) : Option FabAnswer :=
  match req.kind with
  | .read => none
  | _ => (f.done.find? fun x => x.1 == req.seq).map fun x => x.2

/-- The number of a request accepted at a target, but for one that was only told to try again. -/
def State.keepAnswer (s : State) (req : FabRequest) (a : FabAnswer) : State :=
  if a = .retry then s
  else { s with fabric := { s.fabric with sources := Tab.put {} s.fabric.sources req.src ((s.source req.src).accept req.seq a) } }

/-- The GT at which the earlier answers to a request leave: a write's acknowledgement is not given again before its completion time has passed (R383). -/
def State.answerTime (s : State) (req : FabRequest) : Nat :=
  let f := s.fabric
  let sent := f.outbox.filterMap fun m => match m with
    | .packet dst _ (.response r _) t => if dst = req.src ∧ r.seq = req.seq then some t else none
    | _ => none
  let own := if req.src = self then (f.acks.filter fun x => x.2.seq == req.seq).map fun x => x.1 else []
  (sent ++ own).foldl max s.clock.gt

/-- FABRIC_REQUEST_ARRIVAL (R378 to R383): a number too old is discarded; an executed one is answered as R379 says, a read executed again; any other is executed and answered. A request whose line or descriptor is not there yet arrives again. -/
def execFabricRequestArrival (req : FabRequest) (s : State) : Host.Outcome State Fault Refusal :=
  next (if (s.source req.src).tooOld req.seq then s
  else match (s.source req.src).saved req with
    | some a => s.sendResponse req.src req.seq a (s.answerTime req)
    | none => match s.execRequest req with
      | .waits s => s.again false
      | .answer a t s => (s.keepAnswer req a).sendResponse req.src req.seq a t)

end Sys2Proof.Machine
end

