-- ==== Sys2Proof/Machine/Matrix.lean ====
section
/-! DEFINITION. The matrix engine and its sequencer (R276 to R298) and the matrix instructions (R299 to R317). -/

namespace Sys2Proof.Machine
open Sys2Proof

/-! Operand maps (R287 to R290). -/

/-- An operand map, read from its descriptor (R287). -/
structure OpMap where
  base : Nat
  rstr : Nat
  rows : Nat
  cols : Nat
  scm  : Nat
  swz  : Nat
  t    : Bool
  fmt  : Nat
  sbase : Nat
  srstr : Nat

/-- The map of a 32-byte descriptor (R287). -/
def parseMap (d : Nat) : OpMap :=
  { base := bits d 31 0, rstr := bits d 63 32, rows := bits d 79 64, cols := bits d 95 80, scm := bits d 105 104, swz := bits d 102 101, t := bit d 100,
    fmt := bits d 99 96, sbase := bits d 159 128, srstr := bits d 191 160 }

/-- The first bit of element (r, k), numbered in the window (R288). -/
def OpMap.bitAt (m : OpMap) (r k : Nat) : Nat :=
  let w := codeWidth m.fmt
  if m.t then 8 * (m.base + k * m.rstr) + r * w else 8 * (m.base + r * m.rstr) + ((k * w) ^^^ (r % 2 ^ m.swz * 128))

/-- The window offset of the scale of element (r, k) (R288). -/
def OpMap.scaleAt (m : OpMap) (r k : Nat) : Option Nat :=
  match m.scm with
  | 0 => none
  | 1 => some (m.sbase + r * m.srstr + k / 32)
  | _ => some (m.sbase + k / 32 * m.srstr + r)

/-- The window bytes below which every element of a valid map lies: of the last row, the elements of the last 1,024-bit segment (R289). -/
def OpMap.top (m : OpMap) : Nat :=
  let w := codeWidth m.fmt
  let last := (m.cols - 1) * w
  let ks := (List.range 257).map fun i => m.cols - 1 - i
  let used := if m.t then [m.cols - 1] else ks.filter fun k => k * w / 1024 == last / 1024
  let tops := used.map fun k => ceilDiv (m.bitAt (m.rows - 1) k + w) 8
  let scale := match m.scaleAt (m.rows - 1) (m.cols - 1) with | some a => a + 1 | none => 0
  (scale :: tops).foldl max 0

/-- Whether the map of a descriptor is valid in a window of `n` bytes (R289). -/
def mapValid (d n : Nat) : Bool :=
  let m := parseMap d
  let w := codeWidth m.fmt
  bits d 127 106 == 0 && !bit d 103 && bits d 255 192 == 0 && !(decide (8 ≤ m.fmt) && decide (m.fmt ≤ 11)) && m.scm != 3 &&
  m.base % 16 == 0 && m.rstr % 16 == 0 && decide (1 ≤ m.rows) && decide (1 ≤ m.cols) &&
  (m.swz == 0 || (!m.t && m.rstr % 128 == 0)) &&
  (if m.t then m.cols == 1 || decide (m.rows * w ≤ 8 * m.rstr) else m.rows == 1 || decide (m.cols * w ≤ 8 * m.rstr)) &&
  (m.scm == 0 || (decide (3 ≤ m.fmt) && decide (m.fmt ≤ 7)) || m.fmt == 12) &&
  decide (m.top ≤ n)

/-! The unfold map (R291 to R293). -/

/-- The unfold map, read from its descriptor (R291). -/
structure Unfold where
  base   : Nat
  ppitch : Nat
  hpitch : Nat
  npitch : Nat
  n : Nat
  h : Nat
  w : Nat
  c : Nat
  kh : Nat
  kw : Nat
  sh : Nat
  sw : Nat
  ph : Nat
  pw : Nat
  dh : Nat
  dw : Nat
  fmt : Nat

/-- The unfold map of a 64-byte descriptor (R291). -/
def parseUnfold (d : Nat) : Unfold :=
  { base := bits d 31 0, ppitch := bits d 63 32, hpitch := bits d 95 64, npitch := bits d 127 96, n := bits d 143 128, h := bits d 159 144,
    w := bits d 175 160, c := bits d 191 176, kh := bits d 199 192, kw := bits d 207 200, sh := bits d 215 208, sw := bits d 223 216,
    ph := bits d 231 224, pw := bits d 239 232, dh := bits d 247 240, dw := bits d 255 248, fmt := bits d 259 256 }

/-- The output positions of one dimension: OH or OW, 0 where there is none (R292). -/
def outSize (size pad dil k stride : Nat) : Nat := (((size : Int) + 2 * pad - dil * ((k : Int) - 1) - 1) / (stride : Int) + 1).toNat

/-- OH (R292). -/
def Unfold.oh (u : Unfold) : Nat := outSize u.h u.ph u.dh u.kh u.sh
/-- OW (R292). -/
def Unfold.ow (u : Unfold) : Nat := outSize u.w u.pw u.dw u.kw u.sw

/-- The first bit of element (p, k) in the window, or none where it reads as +0 (R292). -/
def Unfold.bitAt (u : Unfold) (p k : Nat) : Option Nat :=
  if p ≥ u.n * u.oh * u.ow ∨ k ≥ u.kh * u.kw * u.c then none
  else
    let y : Int := (p / u.ow % u.oh * u.sh : Nat) - (u.ph : Int) + (k / (u.c * u.kw) * u.dh : Nat)
    let x : Int := (p % u.ow * u.sw : Nat) - (u.pw : Int) + (k / u.c % u.kw * u.dw : Nat)
    if y < 0 ∨ y ≥ u.h ∨ x < 0 ∨ x ≥ u.w then none
    else some (8 * (u.base + p / (u.ow * u.oh) * u.npitch + y.toNat * u.hpitch + x.toNat * u.ppitch) + k % u.c * codeWidth u.fmt)

/-- The greatest coordinate below `size` that some output and kernel position reads, if any (R293). -/
def lastUsed (out size pad dil k stride : Nat) : Option Nat :=
  let at_ := fun (j : Nat) =>
    let o := min ((out : Int) - 1) (((size : Int) - 1 + pad - j * dil) / (stride : Int))
    let y := o * stride - pad + j * dil
    if o < 0 ∨ y < 0 then none else some y.toNat
  ((List.range k).filterMap at_).foldl (fun m y => match m with | some x => some (max x y) | none => some y) none

/-- Whether the unfold map of a descriptor is valid in a window of `n` bytes (R293). -/
def unfoldValid (d n : Nat) : Bool :=
  let u := parseUnfold d
  let dim := fun (x : Nat) => decide (1 ≤ x)
  let small := fun (x : Nat) => decide (1 ≤ x) && decide (x ≤ 16)
  let top := match lastUsed u.oh u.h u.ph u.dh u.kh u.sh, lastUsed u.ow u.w u.pw u.dw u.kw u.sw with
    | some y, some x => u.base + (u.n - 1) * u.npitch + y * u.hpitch + x * u.ppitch + ceilDiv (u.c * codeWidth u.fmt) 8
    | _, _ => 0
  bits d 287 260 == 0 && bits d 511 288 == 0 && !(decide (8 ≤ u.fmt) && decide (u.fmt ≤ 11)) &&
  dim u.n && dim u.h && dim u.w && dim u.c && small u.kh && small u.kw && small u.sh && small u.sw && decide (u.ph ≤ 15) && decide (u.pw ≤ 15) &&
  small u.dh && small u.dw && dim u.oh && dim u.ow && decide (u.n * u.oh * u.ow ≤ 2 ^ 32 - 1) &&
  u.base % 4 == 0 && u.ppitch % 4 == 0 && u.hpitch % 4 == 0 && u.npitch % 4 == 0 && decide (u.c * codeWidth u.fmt ≤ 8 * u.ppitch) && decide (top ≤ n)

/-! Operands. -/

/-- An operand of MMA or MDIST. -/
inductive Operand | map (m : OpMap) | unfold (u : Unfold)

/-- The format code of an operand. -/
def Operand.fmt : Operand → Nat | .map m => m.fmt | .unfold u => u.fmt

/-- Whether an operand holds integers: an integer format read without a scale (R286, R290). -/
def Operand.isInt : Operand → Bool | .map m => decide (12 ≤ m.fmt) && m.scm == 0 | .unfold u => decide (12 ≤ u.fmt)

/-- Where element (r, k) of an operand lies: its first bit and its scale; none where it reads as padding (R288, R292). -/
def Operand.place (x : Operand) (r k : Nat) : Option (Nat × Option Nat) :=
  match x with
  | .map m => if r ≥ m.rows ∨ k ≥ m.cols then none else some (m.bitAt r k, m.scaleAt r k)
  | .unfold u => (u.bitAt r k).map fun b => (b, none)

/-- `w` bits of a comb's window from a bit (R89). -/
def State.lmBits (s : State) (core slot b w : Nat) : Nat :=
  bits (s.winRead core slot (b / 8) (ceilDiv (b % 8 + w) 8)) (b % 8 + w - 1) (b % 8)

/-- The value of an encoding of a format under a scale (R91, R93): INT8 under a scale is its integer times 2^−6. -/
def scaledValue (fmt e : Nat) (scale : Option Nat) : FVal :=
  let v := if fmt < 8 then (fmtOf fmt).decode e else .num (decide (fromInt fmt e < 0)) { s := fromInt fmt e, e := if scale.isSome then -6 else 0 }
  match scale, v with
  | none, v => v
  | some 0xFF, _ => .nan
  | some c, .num n d => .num n { d with e := d.e + c - 127 }
  | some _, v => v

/-- The value of element (r, k) of an operand (R288, R292). -/
def State.elem (s : State) (core slot : Nat) (x : Operand) (r k : Nat) : FVal :=
  match x.place r k with
  | none => .num false { s := 0, e := 0 }
  | some (b, sc) => scaledValue x.fmt (s.lmBits core slot b (codeWidth x.fmt)) (sc.map fun a => s.winRead core slot a 1)

/-- Whether two operands go together (R290). -/
def Operand.pairs (x y : Operand) : Bool := codeWidth x.fmt == codeWidth y.fmt && x.isInt == y.isInt

/-- K (R290, R307). -/
def Operand.depth (x : Operand) : Nat := match codeWidth x.fmt with | 6 => 128 | w => 1024 / w

/-- The operand in a map register of a stream, 8 for the unfold map; none where it is not valid (R289, R293). -/
def Stream.operand (x : Stream) (n : Nat) : Option Operand :=
  match Tab.get none x.maps n with
  | some (d, true) => some (if n = 8 then .unfold (parseUnfold d) else .map (parseMap d))
  | _ => none

/-! Accumulation (R105, R307). -/

/-- The exact sum of two values. -/
def FVal.plus (x y : FVal) : FVal :=
  match x, y with
  | .nan, _ => .nan
  | _, .nan => .nan
  | .inf a, .inf b => if a = b then .inf a else .nan
  | .inf a, _ => .inf a
  | _, .inf b => .inf b
  | .num _ p, .num _ q => .num false (p.add q)

/-- A value rounded to FP32 under RNE, overflow to an infinity. -/
def roundRne (x : XReal) : Nat := (fmtOf 0).sat 0 (roundTo (fmtOf 0) .rne 0 x)

/-- A group sum added to an accumulator element (R105 steps 3 to 5). -/
def accumulate (int : Bool) (z : Word) (g : FVal) : Word :=
  if int then (match g with | .num _ d => z + w32 (d.s * 2 ^ d.e.toNat) | _ => z)
  else
    let f := fmtOf 0
    BitVec.ofNat 32 (roundRne ((f.decode z.toNat).add (f.decode (roundRne g.toX)) .rne))

/-- The exact sum of a group of 32 terms (R105 step 2, R307). -/
def groupSum (dist : Bool) (x y : Nat → FVal) : FVal :=
  (List.range 32).foldl (fun v t =>
    let term := if dist then (let d := (x t).plus (y t).neg; d.mul d) else (x t).mul (y t)
    v.plus term) (.num false { s := 0, e := 0 })

/-- One element of the accumulator after a command of K steps (R105, R307). -/
def accumulateAll (dist int : Bool) (z : Word) (x y : Nat → FVal) (depth : Nat) : Word :=
  (List.range (depth / 32)).foldl (fun z g => accumulate int z (groupSum dist (fun t => x (32 * g + t)) fun t => y (32 * g + t))) z

/-! The accumulator store (R286). -/

/-- Element (i, j) of accumulator `d`. -/
def State.acc (s : State) (core d i j : Nat) : Word := Tab.get 0 (s.core core).matrix.acc (4096 * d + 64 * i + j)

/-- The tag of accumulator `d`: INT32 or FP32. -/
def State.tag (s : State) (core d : Nat) : Bool := Tab.get false (s.core core).matrix.intTag d

/-- An accumulator store with every element of `d` replaced, in canonical form. -/
def putAcc (t : Tab Word) (d : Nat) (f : Nat → Nat → Word) : Tab Word :=
  let new := (List.range 4096).filterMap fun n => let v := f (n / 64) (n % 64); if v = 0 then none else some (4096 * d + n, v)
  (t.filter fun x => decide (x.1 < 4096 * d)) ++ new ++ t.filter fun x => decide (4096 * (d + 1) ≤ x.1)

/-- The sequencer and its store changed by `f`. -/
def State.onMatrix (s : State) (core : Nat) (f : Matrix → Matrix) : State := s.onCore core fun k => { k with matrix := f k.matrix }

/-- Every element of an accumulator written. -/
def State.setAcc (s : State) (core d : Nat) (f : Nat → Nat → Word) : State := s.onMatrix core fun m => { m with acc := putAcc m.acc d f }

/-- The tag of an accumulator written. -/
def State.setTag (s : State) (core d : Nat) (int : Bool) : State := s.onMatrix core fun m => { m with intTag := Tab.put false m.intTag d int }

/-- Step 1 of R280: the store cleared where the tenant differs from the last one's. -/
def State.clearFor (s : State) (core : Nat) (t : BitVec 16) : State :=
  s.onMatrix core fun m => if m.last = some t then m else { m with acc := [], intTag := [], last := some t }

/-! Commands. -/

/-- The operand values that a command carries (R300): `r` reads a uniform register, `b` is opB, `mode` the MODE that its conversion uses. -/
def cmdVals (o : Op) (e : Enc) (r : Nat → Word) (b : Word) (mode : Dbl) : List Nat :=
  let a := (r e.a.toNat).toNat
  let c := (r e.c.toNat).toNat
  match o with
  | .mmap | .munf => [a]
  | .mma | .mdist => [c, (r (e.c.toNat + 1)).toNat]
  | .mtopk => [a, b.toNat, c]
  | .mldz => [a, b.toNat]
  | .mdrain => [a, b.toNat, mode.toNat]
  | .mepi => [a, b.toNat, mode.toNat, c]
  | .mpair => [b.toNat]
  | _ => []

/-- A value that a command carries. -/
def Cmd.val (c : Cmd) (n : Nat) : Nat := c.vals.getD n 0

/-- What the start of a command gives: a fault, or its effect with the LM writes still to perform. -/
inductive Started
  | fault (t : Trap)
  | ok (s : State) (writes : List (Nat × Nat × Nat))

/-- The lowest offset outside the window among `n` rows of `len` bytes at pitch `p` (R302). -/
def State.rowsOut (s : State) (core slot o p len n : Nat) : Option Nat :=
  let w := (s.comb core slot).shape.window
  ((List.range n).map fun i => o + i * p).findSome? fun a => if a + len ≤ w then none else some (max a w)

/-- PAGE_PROTECT for rows that leave the window (R302). -/
def State.rowsTrap (s : State) (core slot o p len n : Nat) : Option Trap := (s.rowsOut core slot o p len n).map (Trap.of .pageProtect)

/-- MEM_POISON for the lowest marked LM word that some ranges touch (R302 step 3). -/
def State.cmdPoison (s : State) (core slot : Nat) (ranges : List (Nat × Nat)) : Option Trap :=
  let k := s.comb core slot
  let marks := ((s.core core).lmPoison.filter fun x => decide (k.base ≤ 4 * x.1) && decide (4 * x.1 < k.base + k.shape.window)).map fun x => 4 * x.1 - k.base
  (marks.find? fun a => ranges.any fun r => decide (r.1 < a + 4) && decide (a < r.1 + r.2)).map (Trap.of .memPoison)

/-- The checks of a command and then its effect. -/
def State.started (s : State) (core slot : Nat) (checks : List (Option Trap)) (ranges : List (Nat × Nat)) (f : State → State) (writes : List (Nat × Nat × Nat)) : Started :=
  match checks.findSome? id with
  | some t => .fault t
  | none => match s.cmdPoison core slot ranges with
    | some t => .fault t
    | none => .ok (f s) writes

/-- A check: the trap where the condition holds. -/
def when_ (b : Bool) (t : Trap) : Option Trap := if b then some t else none

/-! Maps. -/

/-- The start of MMAP and MUNF (R305, R306). -/
def State.startMap (s : State) (core slot : Nat) (c : Cmd) : Started :=
  let o := c.val 0
  let unf := c.op == .munf
  let n := if unf then 64 else 32
  let w := (s.comb core slot).shape.window
  let d := s.winRead core slot o n
  let valid := if unf then unfoldValid d w else mapValid d w
  s.started core slot [when_ (o % n != 0) (Trap.of .misaligned o), s.rowsTrap core slot o 0 n 1] [(o, n)]
    (fun s => s.onStream core fun x => { x with maps := Tab.put none x.maps (if unf then 8 else c.enc.d.toNat) (some (d, valid)) }) []

/-! MMA and MDIST. -/

/-- The checks of R307 on a stream's command; the B map is left out where the command is a paired one of the odd core (R314). -/
def State.mmaTrap (s : State) (core : Nat) (x : Stream) (c : Cmd) (odd : Bool) : Option Trap :=
  let a := c.enc.a.toNat
  let b := c.enc.b.toNat
  let d := c.enc.d.toNat
  let kk := c.val 0
  match x.operand a with
  | none => some (Trap.of .mapInvalid a)
  | some ma =>
    let mb := if odd then some ma else x.operand b
    match mb with
    | none => some (Trap.of .mapInvalid b)
    | some mb =>
      firstOf [(!ma.pairs mb, Trap.of .mapInvalid (0x100 + a)), (kk % 32 != 0, Trap.of .illegalOperand kk),
               (s.tag core d != ma.isInt, Trap.of .accFormat d)]

/-- The LM bytes that an operand's rows give to a command (R302). -/
def Operand.ranges (x : Operand) (row kk depth : Nat) : List (Nat × Nat) :=
  (List.range 64).flatMap fun i => (List.range depth).flatMap fun k => match x.place (row + i) (kk + k) with
    | none => []
    | some (b, sc) => (b / 8, (b + codeWidth x.fmt - 1) / 8 - b / 8 + 1) :: (match sc with | some a => [(a, 1)] | none => [])

/-- The tile of products or squared differences accumulated (R307): A from one core's window, B from a window that may be the paired core's (R296). -/
def State.tile (s : State) (core slot : Nat) (ma : Operand) (bcore bslot : Nat) (mb : Operand) (dist : Bool) (d kk ra rb : Nat) : State :=
  let int := ma.isInt && mb.isInt
  s.setAcc core d fun i j => accumulateAll dist int (s.acc core d i j)
    (fun k => s.elem core slot ma (ra + i) (kk + k)) (fun k => s.elem bcore bslot mb (rb + j) (kk + k)) ma.depth

/-- The start of an unpaired MMA or MDIST (R307). -/
def State.startMma (s : State) (core : Nat) (x : Stream) (c : Cmd) : Started :=
  let kk := c.val 0
  let ra := c.val 1 % 65536
  let rb := c.val 1 / 65536
  match s.mmaTrap core x c false, x.operand c.enc.a.toNat, x.operand c.enc.b.toNat with
  | none, some ma, some mb =>
    s.started core x.slot [] (ma.ranges ra kk ma.depth ++ mb.ranges rb kk ma.depth)
      (fun s => s.tile core x.slot ma core x.slot mb (c.op == .mdist) c.enc.d.toNat kk ra rb) []
  | some t, _, _ => .fault t
  | _, _, _ => .ok s []

/-! Accumulator moves. -/

/-- The start of MZERO (R308). -/
def State.startZero (s : State) (core : Nat) (c : Cmd) : Started :=
  .ok ((s.setAcc core c.enc.d.toNat fun _ _ => 0).setTag core c.enc.d.toNat (c.enc.sub == 1)) []

/-- The start of MLDZ (R309). -/
def State.startLoad (s : State) (core slot : Nat) (c : Cmd) : Started :=
  let o := c.val 0
  let p := c.val 1
  let d := c.enc.d.toNat
  s.started core slot
    [when_ (o % 16 != 0) (Trap.of .misaligned o), when_ (p % 16 != 0) (Trap.of .misaligned p), when_ (p < 256) (Trap.of .illegalOperand p),
     s.rowsTrap core slot o p 256 64]
    ((List.range 64).map fun i => (o + i * p, 256))
    (fun s => (s.setAcc core d fun i j => BitVec.ofNat 32 (s.winRead core slot (o + i * p + 4 * j) 4)).setTag core d (c.enc.sub == 1)) []

/-- The FP32 value of an element of MEPI after bias and table (R310). -/
def epilogue (b : Bank) (int : Bool) (x : Word) (bias : Option Word) : Word :=
  let f := fmtOf 0
  let x := if int then roundRne (({ s := sxw x, e := 0 } : Dy).toX false) else x.toNat
  let x := match bias with | some v => roundRne ((f.decode x).add (f.decode v.toNat) .rne) | none => x
  match b.eval .rne (BitVec.ofNat 32 x) with
  | .inl w => w
  | .inr v => BitVec.ofNat 32 (roundRne v)

/-- A row of 64 elements of width `w`, packed densely (R89, R310). -/
def packRow (w : Nat) (f : Nat → Nat) : Nat := (List.range 64).foldr (fun j n => f j % 2 ^ w + n * 2 ^ w) 0

/-- The start of MDRAIN and MEPI (R310): neither changes z. -/
def State.startDrain (s : State) (core slot : Nat) (c : Cmd) : Started :=
  let o := c.val 0
  let p := c.val 1
  let mode : Dbl := BitVec.ofNat 64 (c.val 2)
  let fmt := c.enc.sub.toNat
  let w := codeWidth fmt
  let d := c.enc.d.toNat
  let epi := c.op == .mepi
  let bias := epi && c.enc.qbit 4
  let at_ := c.val 3
  let bank := s.boundBank core slot
  let int := s.tag core d
  let biasAt := fun (j : Nat) => if bias then some (BitVec.ofNat 32 (s.winRead core slot (at_ + 4 * j) 4)) else none
  let value := fun (i j : Nat) =>
    let z := s.acc core d i j
    let x := if epi then epilogue bank int z (biasAt j) else z
    (convert mode (BitVec.ofNat 57 c.pc) (modeRm mode) (j % 32) (i % 8) fmt (if int && !epi then 8 else 0) x.toNat).toNat
  s.started core slot
    [when_ (o % 16 != 0) (Trap.of .misaligned o), when_ (p % 16 != 0) (Trap.of .misaligned p), when_ (p < 8 * w) (Trap.of .illegalOperand p),
     s.rowsTrap core slot o p (8 * w) 64,
     when_ (bias && at_ % 4 != 0) (Trap.of .misaligned at_), if bias then s.rowsTrap core slot at_ 0 256 1 else none,
     when_ (epi && !bank.loaded) (Trap.of .illegalOperand (s.comb core slot).bank)]
    (if bias then [(at_, 256)] else []) id
    ((List.range 64).map fun i => (o + i * p, 8 * w, packRow w (value i)))

/-! Top-k selection (R311, R312). -/

/-- Whether one value comes before another under MTOPK (R312): a NaN after every number. -/
def topLess (int greatest : Bool) (x y : Word) : Bool :=
  if int then (if greatest then decide (sxw y < sxw x) else decide (sxw x < sxw y))
  else
    let a := (fmtOf 0).decode x.toNat
    let b := (fmtOf 0).decode y.toNat
    let less := fun (a b : FVal) => match a, b with | .num _ p, .num _ q => p.lt q | a, b => a.below b
    match a, b with
    | .nan, _ => false
    | _, .nan => true
    | a, b => if greatest then less b a else less a b

/-- Before of R312, or equal in value and index: entries are (index, value). -/
def topBefore (int greatest : Bool) (x y : Word × Word) : Bool :=
  if topLess int greatest x.2 y.2 then true else if topLess int greatest y.2 x.2 then false else decide (x.1.toNat ≤ y.1.toNat)

/-- The Filler entry (R312). -/
def topFiller (int greatest : Bool) : Word × Word :=
  (0xFFFFFFFF, match int, greatest with | false, false => 0x7F800000 | false, true => 0xFF800000 | true, false => 0x7FFFFFFF | true, true => 0x80000000)

/-- The start of MTOPK (R311). -/
def State.startTopk (s : State) (core slot : Nat) (c : Cmd) : Started :=
  let a := c.val 0
  let b := c.val 1
  let shape := c.val 2
  let pitch := bits shape 31 16
  let n := bits shape 13 8 + 1
  let k := bits shape 4 0 + 1
  let d := c.enc.d.toNat
  let greatest := c.enc.sub.toNat % 2 == 1
  let init := decide (2 ≤ c.enc.sub.toNat)
  let int := s.tag core d
  let word := fun (x : Nat) => BitVec.ofNat 32 (s.winRead core slot x 4)
  let row := fun (i : Nat) =>
    let r := a + i * pitch
    let old := if init then [] else (List.range k).map fun e => (word (r + 8 * e), word (r + 8 * e + 4))
    let new := (List.range n).map fun j => (BitVec.ofNat 32 (b + j), s.acc core d i j)
    let l := (sortBy (topBefore int greatest) (old ++ new)).take k
    let l := l ++ List.replicate (k - l.length) (topFiller int greatest)
    (r, 8 * k, l.foldr (fun x v => x.1.toNat + x.2.toNat * 2 ^ 32 + v * 2 ^ 64) 0)
  s.started core slot
    [when_ (bits shape 15 14 != 0 || bits shape 7 5 != 0) (Trap.of .illegalOperand shape), when_ (a % 8 != 0) (Trap.of .misaligned a),
     when_ (pitch % 8 != 0) (Trap.of .misaligned pitch), when_ (pitch < 8 * k) (Trap.of .illegalOperand shape), s.rowsTrap core slot a pitch (8 * k) 64]
    (if init then [] else (List.range 64).map fun i => (a + i * pitch, 8 * k)) id
    ((List.range 64).map row)

/-- The start of a command that acts on its own engine alone, other than MPAIR and MSPLIT (R302). -/
def State.startOwn (s : State) (core slot : Nat) (x : Option Stream) (c : Cmd) : Started :=
  match c.op, x with
  | .mmap, _ | .munf, _ => s.startMap core slot c
  | .mma, some x | .mdist, some x => s.startMma core x c
  | .mzero, _ => s.startZero core c
  | .mldz, _ => s.startLoad core slot c
  | .mtopk, _ => s.startTopk core slot c
  | .mdrain, _ | .mepi, _ => s.startDrain core slot c
  | _, _ => .ok s []

/-! The command queue of a stream (R284, R300, R303). -/

/-- The head of a stream's queue taken out and running. -/
def State.runHead (s : State) (core : Nat) (c : Cmd) (writes : List (Nat × Nat × Nat)) : State :=
  s.onStream core fun x => { x with queue := x.queue.tail, running := some { cmd := c, writes := writes } }

/-- A fault of a command (R302): the stream ends with the command's PC and TVAL, and everything behind it is discarded. -/
def State.cmdFault (s : State) (core : Nat) (x : Stream) (c : Cmd) (t : Trap) : State := s.streamFault core x t.cause.code c.pc t.tval

/-- A command started: its fault, or its effect. -/
def State.startAt (s : State) (core : Nat) (x : Stream) (c : Cmd) (r : Started) : State :=
  match r with
  | .fault t => s.cmdFault core x c t
  | .ok s w => s.runHead core c w

/-- Whether a stream's paired command waits for its counterpart (R314). -/
def Stream.waitsPair (x : Stream) : Bool := match x.pairing with | .paired _ (some _) => true | _ => false

/-- Whether a stream's paired command has waited for fewer than 65,536 cycles (R314). -/
def Stream.pairInTime (x : Stream) (cycle : Nat) : Bool := match x.pairing with | .paired _ (some c) => decide (cycle < c + 65536) | _ => false

/-- The pairing of a stream after one more paired command has started. -/
def Stream.nextPair (x : Stream) : Stream :=
  match x.pairing with | .paired n _ => { x with pairing := .paired (n + 1) none } | _ => x

/-- Two counterparts started together (R296, R314): `e` is the even core with stream `x` and command `c`, `o` the odd one with `y` and `d`. -/
def State.startPair (s : State) (e : Nat) (x : Stream) (c : Cmd) (o : Nat) (y : Stream) (d : Cmd) : State :=
  let bad := (s.cmdFault e x c (Trap.of .pairTimeout 2)).cmdFault o y d (Trap.of .pairTimeout 2)
  match x.operand c.enc.a.toNat, x.operand c.enc.b.toNat, y.operand d.enc.a.toNat with
  | some ma, some mb, some oa =>
    if c.op ≠ d.op ∨ c.val 0 ≠ d.val 0 ∨ ¬ oa.pairs mb then bad
    else
      let kk := c.val 0
      let ra := fun (c : Cmd) => c.val 1 % 65536
      let rb := c.val 1 / 65536
      let pe := s.cmdPoison e x.slot (ma.ranges (ra c) kk ma.depth ++ mb.ranges rb kk ma.depth)
      let po := s.cmdPoison o y.slot (oa.ranges (ra d) kk oa.depth)
      let lost := Trap.of .pairTimeout 1
      if pe.isSome || po.isSome then (s.cmdFault e x c (pe.getD lost)).cmdFault o y d (po.getD lost)
      else
        let dist := c.op == .mdist
        let t := (s.tile e x.slot ma e x.slot mb dist c.enc.d.toNat kk (ra c) rb).tile o y.slot oa e x.slot mb dist d.enc.d.toNat kk (ra d) rb
        let run := fun (s : State) (k : Nat) (c : Cmd) => (s.runHead k c []).onStream k Stream.nextPair
        run (run t e c) o d
  | _, _, _ => bad

/-- The head of a paired stream's queue, a paired command (R314): its own checks, then it waits for its counterpart, or both start. -/
def State.startPaired (s : State) (core : Nat) (x : Stream) (c : Cmd) : State :=
  let odd := core % 2 == 1
  let own := if c.enc.qbit 3 then some (Trap.of .illegalOperand 0) else s.mmaTrap core x c odd
  match own with
  | some t => s.cmdFault core x c t
  | none =>
    match x.pairing with
    | .paired n none =>
      let s := s.onStream core fun x => { x with pairing := .paired n (some s.clock.cycle) }
      match s.stream? (neighbour core) with
      | some y => match y.pairInTime s.clock.cycle, y.queue with
        | true, d :: _ => if odd then s.startPair (neighbour core) y d core x c else s.startPair core x c (neighbour core) y d
        | _, _ => s
      | none => s
    | .dissolved => s.cmdFault core x c (Trap.of .pairTimeout 1)
    | _ => s

/-- The head of a stream's queue reached (R300 to R303, R313 to R315). A stream whose partner has split is paired no longer: its MPAIR seeks anew (log entry 115). -/
def State.startHead (s : State) (core : Nat) (x : Stream) (c : Cmd) : State :=
  let paired : Bool := match x.pairing with | .paired _ _ | .dissolved => c.op == .mma || c.op == .mdist | _ => false
  let drop := fun (s : State) => s.onStream core fun x => { x with queue := x.queue.tail }
  if paired then s.startPaired core x c
  else
    let g := if c.enc.qbit 3 ∧ c.guard ≠ 2 then (s.comb core x.slot).guard (c.enc.qb.toNat % 8) else some true
    match g with
    | none => s.onStream core fun x => { x with queue := { c with guard := 1 } :: x.queue.tail }
    | some false => drop s
    | some true =>
      match c.op with
      | .mpair =>
        if x.isPaired then s.cmdFault core x c (Trap.of .illegalOperand (c.val 0))
        else s.onStream core fun x => { x with pairing := .seeking (c.val 0) s.clock.cycle }
      | .msplit => (s.dissolve core x).onStream core fun x => { x with queue := x.queue.tail, pairing := .none, running := some { cmd := c, writes := [] } }
      | _ => s.startAt core x c (s.startOwn core x.slot (some x) c)

/-- The command at the head of a stream's queue that can be reached now: none is running, and the head neither is held nor waits for a partner. -/
def Stream.headCmd (x : Stream) : Option Cmd :=
  match x.queue with
  | [] => none
  | c :: _ =>
    let seeks := match x.pairing with | .seeking _ _ => c.op == .mpair | _ => false
    if x.running.isSome || c.guard == 1 || x.waitsPair || seeks then none else some c

/-! Direct commands (R301). -/

/-- Whether a waiter can take the sequencer: its strand still waits, and its comb is neither being saved nor halting. -/
def State.waiterReady (s : State) (core : Nat) (x : SeqWaiter) : Bool :=
  (s.comb core x.slot).phase == .running && (s.strand { core := core, slot := x.slot, strand := x.strand }).sched.wait == some .sequencer

/-- The waiter that takes the sequencer of a core next, where nothing holds it and no restore goes ahead (R279); one takes it after the cycle in which it issued, so that the frames decide among those of a cycle. -/
def State.nextWaiter (s : State) (core : Nat) : Option SeqWaiter :=
  let m := (s.core core).matrix
  if m.stream.isSome || m.direct.isSome || !m.restores.isEmpty then none else (m.waiters.filter fun x => decide (x.cycle < s.clock.cycle)).find? (s.waiterReady core)

/-- Whether an opcode starts a stream. -/
def Op.isMrun (o : Op) : Bool := o == .mrun || o == .mrunReg

/-- A waiter no longer kept. -/
def State.dropWaiter (s : State) (core : Nat) (x : SeqWaiter) : State := s.onMatrix core fun m => { m with waiters := m.waiters.erase x }

/-- A direct command takes the sequencer (R301): the store is cleared for another tenant, and the command is checked and takes effect, or its fault is raised in the strand. -/
def State.startDirect (s : State) (core : Nat) (x : SeqWaiter) : State :=
  let w : Sid := { core := core, slot := x.slot, strand := x.strand }
  let s1 := s.clearFor core (s.tenantOf core x.slot)
  match s1.startOwn core x.slot none x.cmd with
  | .fault t => (s1.dropWaiter core x).trapWait w t.cause.code t.tval
  | .ok s2 l =>
    let s2 := (s2.dropWaiter core x).onMatrix core fun m => { m with direct := some { slot := x.slot, strand := x.strand, running := { cmd := x.cmd, writes := l } } }
    if x.cmd.op = .mdrain ∧ modeRm (s2.strand w).sp.mode = .rs then
      s2.onStrand w fun st => { st with sp := { st.sp with mode := stepMode st.sp.mode } } else s2

/-- Whether MATRIX_COMMAND_START can act on a core. -/
def State.mayStartCmd (s : State) (core : Nat) : Bool :=
  match s.stream? core with
  | some x => x.headCmd.isSome
  | none => match s.nextWaiter core with | some x => !(Op.isMrun x.cmd.op) | none => false

/-- MATRIX_COMMAND_START (R300 to R303, R313 to R315): the head of the queue, or a direct command. -/
def execMatrixCommandStart (core : Nat) (s : State) : Host.Outcome State Fault Refusal :=
  next (match s.stream? core with
  | some x => match x.headCmd with | some c => s.startHead core x c | none => s
  | none => match s.nextWaiter core with
    | some x => if Op.isMrun x.cmd.op then s else s.startDirect core x
    | none => s)

/-- The LM writes of a command performed (R284); range locks do not check them (R285). -/
def State.cmdWrites (s : State) (core slot : Nat) (l : List (Nat × Nat × Nat)) : State := l.foldl (fun s x => s.winWrite core slot x.1 x.2.1 x.2.2) s

/-- MATRIX_COMMAND_COMPLETE (R284, R301): the command's LM writes are performed; with a direct command the sequencer is released and the strand goes on. -/
def execMatrixCommandComplete (core : Nat) (s : State) : Host.Outcome State Fault Refusal :=
  next (match s.stream? core, (s.core core).matrix.direct with
  | some x, _ => match x.running with
    | some r => (s.cmdWrites core x.slot r.writes).onStream core fun x => { x with running := none }
    | none => s
  | none, some d =>
    let s := (s.cmdWrites core d.slot d.running.writes).onMatrix core fun m => { m with direct := none }
    s.onStrand { core := core, slot := d.slot, strand := d.strand } fun st => st.passWait s.clock.cycle
  | none, none => s)

/-- Whether MATRIX_COMMAND_COMPLETE can act on a core. -/
def State.mayCompleteCmd (s : State) (core : Nat) : Bool :=
  match s.stream? core with | some x => x.running.isSome | none => (s.core core).matrix.direct.isSome

/-! MRUN and the life of a stream. -/

/-- Whether a waiter comes no later than another (R279). -/
def SeqWaiter.before (x y : SeqWaiter) : Bool := decide (x.cycle < y.cycle) || (x.cycle == y.cycle && decide (x.frame ≤ y.frame))

/-- A strand waits for the sequencer with a command (R279). -/
def State.waitSequencer (s : State) (i : Issue) (c : Cmd) : State :=
  let s := s.onStrand i.w Strand.closeRegion
  let x : SeqWaiter := { slot := i.w.slot, strand := i.w.strand, frame := i.st.frame, cycle := s.clock.cycle, cmd := c }
  let s := s.onMatrix i.w.core fun m => { m with waiters := sortBy SeqWaiter.before (m.waiters ++ [x]) }
  s.onStrand i.w fun st => { st with sched := { st.sched with wait := some .sequencer, waitLen := i.e.bytes } }

/-- MRUN with its target (R278): a sequencer that executes it faults. -/
def mrunTo (o : Op) (e : Enc) (s : State) (target : Issue → State → Pc) : State :=
  if s.cur.strand = seqIndex then runStream o e s fun c x s => s.seqFault c x (Trap.of .illegalOperand 0)
  else runStrand o e s fun i s =>
    let t := (target i s).toNat
    if i.act = 0 then s.advance i
    else if t % 64 ≠ 0 then s.raise i (Trap.of .misaligned t)
    else s.waitSequencer i { op := o, enc := e, pc := i.pc.toNat, vals := [t] }

/-- MRUN (R278). -/
def execMrun (e : Enc) (s : State) : Host.Outcome State Fault Refusal := next (mrunTo .mrun e s fun i _ => target21 e i.pc)

/-- MRUN with a register target (R278). -/
def execMrunReg (e : Enc) (s : State) : Host.Outcome State Fault Refusal := next (mrunTo .mrunReg e s fun i s => regTarget i.pc (i.uA s))

/-- A stream as MRUN prepares it for a strand (R280 step 2), with its MODE (R97). -/
def startStream (x : SeqWaiter) (t : BitVec 16) (st : Strand) : Stream :=
  { slot := x.slot, strand := x.strand, tenant := t, priv := st.trap.priv, pc := BitVec.ofNat 57 (x.cmd.val 0),
    s := st.regs.s.filter fun y => decide (y.1 < 16), mode := st.sp.mode }

/-- Whether an MRUN of a core can take the sequencer now. -/
def State.mayStartStream (s : State) (core : Nat) : Bool := match s.nextWaiter core with | some x => Op.isMrun x.cmd.op | none => false

/-- MRUN_START (R280): the MRUN completes for its strand. -/
def execMrunStart (core : Nat) (s : State) : Host.Outcome State Fault Refusal :=
  next (match s.nextWaiter core with
  | some x =>
    if !(Op.isMrun x.cmd.op) then s
    else
      let w : Sid := { core := core, slot := x.slot, strand := x.strand }
      let t := s.tenantOf core x.slot
      let y := startStream x t (s.strand w)
      (((s.clearFor core t).dropWaiter core x).onMatrix core fun m => { m with stream := some y }).onStrand w fun st => st.passWait s.clock.cycle
  | none => s)

/-- Whether a stream ends (R281, R283, R419): its EXIT, its fetch fault or its comb's HALT finds no command left; with HALT a held command is dropped. -/
def State.mayEndStream (s : State) (core : Nat) : Bool :=
  match s.stream? core with
  | none => false
  | some x =>
    let halt := (s.comb core x.slot).phase == .halting
    let held := match x.queue with | [] => true | c :: _ => halt && (c.guard == 1)
    x.running.isNone && held && (halt || x.wait == some .exit || (match x.wait with | some (.lost _ _) => true | _ => false))

/-- STREAM_END (R281, R283): the sequencer becomes idle, and the end state is clean; or the stream ends by its fetch fault. -/
def execStreamEnd (core : Nat) (s : State) : Host.Outcome State Fault Refusal :=
  next (if !s.mayEndStream core then s
  else match s.stream? core with
    | none => s
    | some x => match x.wait with
      | some (.lost c va) => s.streamFault core x c x.pc.toNat (BitVec.ofNat 64 va)
      | _ =>
        let s := (s.dissolve core x).onMatrix core fun m => { m with stream := none, last := some x.tenant }
        s.onComb core x.slot fun k => { k with ending := some { cause := 0, pc := 0, tval := 0 } })

/-- Whether the fetch of a core's stream is missed: its stream may issue and its next instruction meets a recoverable fault. -/
def State.fetchMisses (s : State) (core : Nat) : Option PageFault :=
  match s.stream? core with
  | some x => if s.seqMay core x then (match (s.fetchStream core).1 with | .queued f => some f | _ => none) else none
  | none => none

/-- SEQUENCER_FETCH_FAULT (R283): the stream waits until its entry is resolved. -/
def execSequencerFetchFault (core : Nat) (s : State) : Host.Outcome State Fault Refusal :=
  next (match s.fetchMisses core, s.stream? core with
  | some f, some x =>
    let id := s.tiers.nextBatch
    (s.formBatch (.sequencer core) core x.slot x.tenant [f]).onStream core fun x => { x with wait := some (.fetch id) }
  | _, _ => s)

/-- A stream released by its resolved batch (R283, R355): it fetches again, or it ends once the commands accepted before have completed (R282). -/
def State.releaseStream (s : State) (core id : Nat) (out : Option (Nat × Nat)) : State :=
  match s.stream? core with
  | some x =>
    if x.wait ≠ some (.fetch id) then s
    else match out with
      | none => s.onStream core fun x => { x with wait := none }
      | some (c, va) => s.onStream core fun x => { x with wait := some (.lost c va) }
  | none => s

/-- Whether a sequencer image can be restored now (R279, R298): it is the first, and neither a stream nor a direct command holds the sequencer. -/
def State.mayRestore (s : State) (core slot : Nat) : Bool :=
  let m := (s.core core).matrix
  m.stream.isNone && m.direct.isNone && (match m.restores with | x :: _ => x.slot == slot | [] => false)

/-- SEQUENCER_RESTORE (R298): the stream, the accumulators and their tags; a batch resolved meanwhile releases the stream. -/
def execSequencerRestore (core slot : Nat) (s : State) : Host.Outcome State Fault Refusal :=
  next (if !s.mayRestore core slot then s
  else match (s.core core).matrix.restores with
    | [] => s
    | x :: t =>
      let s := s.onMatrix core fun m => { m with stream := some x.stream, restores := t, acc := x.acc, intTag := x.intTag, last := some x.stream.tenant }
      let s : State := match x.stream.wait with
        | some (.fetch id) => match s.tiers.batches.find? (fun (b : Batch) => b.id == id) with
          | some b => if b.resolved then s.releaseStream core id b.outcome else s
          | none => s.releaseStream core id none
        | _ => s
      s.resumeRuns core slot)

/-- Whether the sequencers of a core and its neighbour can pair now (R295): neither comb is being saved (R313), and the second came within 65,536 cycles of the first. -/
def State.mayPair (s : State) (core : Nat) : Bool :=
  match s.stream? core, s.stream? (neighbour core) with
  | some x, some y => match x.pairing, y.pairing with
    | .seeking a c, .seeking b d => a == b && x.tenant == y.tenant && decide (max c d < min c d + 65536) &&
        (s.comb core x.slot).phase == .running && (s.comb (neighbour core) y.slot).phase == .running
    | _, _ => false
  | _, _ => false

/-- MPAIR_START (R296, R313): both MPAIRs end and both streams are paired. -/
def execMpairStart (core : Nat) (s : State) : Host.Outcome State Fault Refusal :=
  next (if !s.mayPair core then s
  else
    let one := fun (s : State) (k : Nat) => s.onStream k fun x => { x with queue := x.queue.tail, pairing := .paired 0 none }
    one (one s core) (neighbour core))

/-- The TVAL of a pairing wait of 65,536 cycles (R313, R314): without a partner, where its comb is not being pre-empted, or without a counterpart. -/
def State.pairLate (s : State) (core : Nat) : Option Nat :=
  match s.stream? core with
  | some x => match x.pairing with
    | .seeking _ c => if c + 65536 ≤ s.clock.cycle ∧ ¬ s.mayPair core ∧ (s.comb core x.slot).phase = .running then some 0 else none
    | .paired _ (some c) => if c + 65536 ≤ s.clock.cycle then some 3 else none
    | _ => none
  | none => none

/-- PAIR_TIMEOUT (R313, R314). -/
def execPairTimeout (core : Nat) (s : State) : Host.Outcome State Fault Refusal :=
  next (match s.pairLate core, s.stream? core with
  | some v, some x => match x.queue with
    | c :: _ => s.cmdFault core x c (Trap.of .pairTimeout v)
    | [] => s
  | _, _ => s)

/-! Issue of the matrix instructions. -/

/-- A command of the stream at the focus enters the queue, which holds eight (R284, R300); STEP of the MODE copy advances after a conversion under RS (R100). -/
def queueCmd (o : Op) (e : Enc) (s : State) : State :=
  runStream o e s fun c x s =>
    if x.queue.length + (if x.running.isSome then 1 else 0) ≥ 8 then s
    else
      let cmd : Cmd := { op := o, enc := e, pc := x.pc.toNat, vals := cmdVals o e (s.seqS c x) (s.seqOpnd c x o e .b) x.mode }
      let steps := (o == .mdrain || o == .mepi) && modeRm x.mode == .rs
      (s.onStream c fun x => { x with queue := x.queue ++ [cmd], mode := if steps then stepMode x.mode else x.mode }).seqAdvance c e

/-- A matrix instruction that only streams may issue (R301). -/
def streamCommand (o : Op) (e : Enc) (s : State) : State :=
  if s.cur.strand = seqIndex then queueCmd o e s
  else runStrand o e s (effect (fun _ _ => some (Trap.of .illegalOperand 0)) fun _ s => s)

/-- A matrix instruction that a strand may issue as a direct command (R301). -/
def directCommand (o : Op) (e : Enc) (s : State) : State :=
  if s.cur.strand = seqIndex then queueCmd o e s
  else runStrand o e s fun i s =>
    if i.act = 0 then s.advance i
    else if e.qbit 3 then s.raise i (Trap.of .illegalOperand 0)
    else s.waitSequencer i { op := o, enc := e, pc := i.pc.toNat, vals := cmdVals o e (s.readS i.w) (i.opB s) i.st.sp.mode }

/-- MMAP (R305). -/
def execMmap (e : Enc) (s : State) : Host.Outcome State Fault Refusal := next (streamCommand .mmap e s)
/-- MUNF (R306). -/
def execMunf (e : Enc) (s : State) : Host.Outcome State Fault Refusal := next (streamCommand .munf e s)
/-- MMA (R307). -/
def execMma (e : Enc) (s : State) : Host.Outcome State Fault Refusal := next (streamCommand .mma e s)
/-- MDIST (R307). -/
def execMdist (e : Enc) (s : State) : Host.Outcome State Fault Refusal := next (streamCommand .mdist e s)
/-- MTOPK (R311). -/
def execMtopk (e : Enc) (s : State) : Host.Outcome State Fault Refusal := next (streamCommand .mtopk e s)
/-- MZERO (R308). -/
def execMzero (e : Enc) (s : State) : Host.Outcome State Fault Refusal := next (directCommand .mzero e s)
/-- MLDZ (R309). -/
def execMldz (e : Enc) (s : State) : Host.Outcome State Fault Refusal := next (directCommand .mldz e s)
/-- MDRAIN (R310). -/
def execMdrain (e : Enc) (s : State) : Host.Outcome State Fault Refusal := next (directCommand .mdrain e s)
/-- MPAIR (R313). -/
def execMpair (e : Enc) (s : State) : Host.Outcome State Fault Refusal := next (streamCommand .mpair e s)
/-- MSPLIT (R315). -/
def execMsplit (e : Enc) (s : State) : Host.Outcome State Fault Refusal := next (streamCommand .msplit e s)
/-- MEPI (R310). -/
def execMepi (e : Enc) (s : State) : Host.Outcome State Fault Refusal := next (streamCommand .mepi e s)

/-- What MSYNC writes (R316): the status word, or half of the PC or of the TVAL of a faulted end state. -/
def State.streamStatus (s : State) (core slot sub : Nat) : Word :=
  let x := (s.comb core slot).ending
  let cause := match x with | some x => x.cause | none => 0
  let of := fun (f : StreamEnd → Nat) => match x with | some x => if x.cause = 0 then 0 else f x | none => 0
  match sub with
  | 2 => BitVec.ofNat 32 (of fun x => x.pc)
  | 3 => BitVec.ofNat 32 (of fun x => x.tval.toNat)
  | _ => BitVec.ofNat 32 (b2n (s.streams core slot) * 2 ^ 31 + b2n (cause != 0) * 2 ^ 30 + b2n x.isNone * 2 ^ 29 + cause)

/-- MSYNC (R300, R316): in a stream it holds the stream until its commands are done; a strand with SUB 0 stands at it while a stream of its comb runs. -/
def execMsync (e : Enc) (s : State) : Host.Outcome State Fault Refusal :=
  next (if s.cur.strand = seqIndex then
    runStream .msync e s fun c x s =>
      if e.d ≠ 0 ∨ e.sub ≠ 0 then s.seqFault c x (Trap.of .illegalOperand 0)
      else if x.drained then s.seqAdvance c e else s
  else runStrand .msync e s fun i s =>
    if i.act = 0 then s.advance i
    else
      let s := s.onStrand i.w Strand.closeRegion
      if e.sub = 0 ∧ s.streams i.w.core i.w.slot then s
      else (s.writeS i.w e.d.toNat (s.streamStatus i.w.core i.w.slot e.sub.toNat)).advance i)

end Sys2Proof.Machine
end

