-- ==== Sys2Proof/Machine/Tiers.lean ====
section
/-! DEFINITION. Memory tiers (ch. 16): the fault queue and the pager (R351 to R356), the lease table (R343 to R346, R364), hint records and GPREF (R358 to R362), LCNT (R363), the access counters (R350) and the bandwidth shares (R367 to R369). -/

namespace Sys2Proof.Machine
open Sys2Proof

/-! The fault queue. -/

/-- The 32 bytes of a fault queue entry (R352). -/
def Batch.entryBits (b : Batch) (idx : Nat) (e : BatchEntry) : Nat :=
  e.va % 2 ^ 57
  + (match e.pa with | some p => 2 ^ 63 + p % 2 ^ 52 | none => 0) * 2 ^ 64
  + (b.num % 65536) * 2 ^ 128
  + (idx * 16 + b2n (idx + 1 == b.entries.length) * 8 + b.origin) * 2 ^ 144
  + (e.cause % 256) * 2 ^ 152
  + b.tenant.toNat * 2 ^ 160
  + (dieOf b.core * 128 + b.core % 72) * 2 ^ 176
  + (e.acc * 64 + b.slot % 16) * 2 ^ 184
  + (b.gt % 2 ^ 64) * 2 ^ 192

/-- The entries of a die's queue that the pager has not consumed (R351). -/
def Pager.held (p : Pager) : Nat := (p.tail - p.head).toNat

/-- Whether `n` entries fit in a queue that is enabled (R351, R353). -/
def Pager.fits (p : Pager) (n : Nat) : Bool := p.en && decide (p.held + n ≤ 2 ^ p.logn)

/-- The PA of the entry with number `t` (R351). -/
def Pager.entryPa (p : Pager) (t : Nat) : Nat := p.fqbase.toNat + 32 * (t % 2 ^ p.logn)

/-- The batch with a number of the model. -/
def State.batch? (s : State) (id : Nat) : Option Batch := s.tiers.batches.find? fun b => b.id == id

/-- Whether a batch may be written to its die's queue now (R353). -/
def State.mayWriteBatch (s : State) (die id : Nat) : Bool :=
  match s.batch? id with
  | some b => b.die == die && !b.written && (s.pager die).fits b.entries.length
  | none => false

/-- FAULT_BATCH_WRITE (R353): the entries are stored contiguously, then FQTAIL counts them. The lines of the ring are waited for (R482). -/
def execFaultBatchWrite (die batch : Nat) (s : State) : Host.Outcome State Fault Refusal :=
  next (match s.batch? batch with
  | none => s
  | some b =>
    if !s.mayWriteBatch die batch then s
    else
      let p := s.pager die
      let place := b.entries.mapIdx fun k e => (p.entryPa (p.tail.toNat + k), b.entryBits k e)
      let waits := (place.map fun x => lineOf x.1).filter fun l => !s.agentReady l
      if !waits.isEmpty then waits.foldl State.fetchLine s
      else
        let s := place.foldl (fun s x => s.homeStore x.1 32 x.2) s
        let s := s.onPager die fun p => { p with tail := p.tail + BitVec.ofNat 32 b.entries.length }
        { s with tiers := { s.tiers with batches := s.tiers.batches.map fun x => if x.id = batch then { x with written := true } else x } })

/-! Resolution (R354, R355). -/

/-- The size of a VA key, if SPAN names one (R351). -/
def spanSize (n : Nat) : Option Nat := match n with | 0 => some 4096 | 1 => some 65536 | 2 => some 2097152 | _ => none

/-- Whether an entry of a batch matches the key of a write of FQRES1 (R354). -/
def Batch.matchesKey (b : Batch) (key value : Dbl) (e : BatchEntry) : Bool :=
  let v := value.toNat
  match bits v 17 16 with
  | 0 => b.num == bits v 15 0
  | 1 => e.pa == some key.toNat
  | 2 => match spanSize (bits v 21 20) with
    | some n => b.tenant.toNat == bits v 15 0 && e.va / n == key.toNat / n
    | none => false
  | _ => false

/-- Whether a device PA lies in a KIND 01 extent (R365). -/
def State.sharedAt (s : State) (pa : Nat) : Bool := match s.extent? pa with | some (_, l) => l.kind == .shared | none => false

/-- A batch of a die's queue with the entries that a resolution matches resolved (R354). -/
def Batch.resolveBy (b : Batch) (die : Nat) (key value : Dbl) : Batch :=
  if b.die = die ∧ b.written then
    { b with entries := b.entries.map fun e => if e.out.isNone && b.matchesKey key value e then { e with out := some (bits value.toNat 31 24) } else e }
  else b

/-- A strand given the outcome of its batch (R355). -/
def Comb.setOutcome (k : Comb) (j : Nat) (out : Option (Nat × Nat)) : Comb :=
  match out with
  | none => k
  | some o =>
    let give := fun (st : Strand) => { st with sched := { st.sched with outcome := some o } }
    { k with strands := k.strands.map fun y => if y.1 = j then (y.1, give y.2) else y }

/-- A request that is not in the lock table at present, released by its batch: it goes on, or aborts, when it is registered again (R272, R274). -/
def Request.releaseLater (q : Request) (id : Nat) (out : Option (Nat × Nat)) : Request :=
  if q.id ≠ id then q
  else match out with
    | none => { q with batch := none }
    | some o => { q with state := .aborted, cause := o.1, batch := none }

/-- A strand batch released (R200, R355, R356): its comb becomes ready, or, where it is saved, may resume. -/
def State.releaseStrand (s : State) (w : Sid) (b : Batch) : State :=
  let k := s.core w.core
  let give := fun (c : Comb) => c.setOutcome w.strand b.outcome
  match k.combs.find? fun x => match x.2 with | some c => c.batches.contains b.id | none => false with
  | some (slot, _) => (s.onComb w.core slot give).readyComb w.core slot
  | none => s.onCore w.core fun k => { k with saved := k.saved.map fun x => if x.comb.batches.contains b.id then { x with comb := give x.comb } else x }

/-- An engine request released (R272, R355). -/
def State.releaseEngine (s : State) (core req : Nat) (b : Batch) : State :=
  let k := s.core core
  let later := fun (c : Comb) => { c with reqs := c.reqs.map fun q => q.releaseLater req b.outcome }
  match k.combs.find? fun x => match x.2 with | some c => c.reqs.any fun q => q.id == req | none => false with
  | some (slot, _) =>
    if k.locks.any fun e => e.id == req then s.releaseReq core slot req (b.outcome.map fun o => o.1) else s.onComb core slot later
  | none => s.onCore core fun k => { k with saved := k.saved.map fun x => { x with comb := later x.comb } }

/-- The originator of a resolved batch released (R355). -/
def State.releaseBatch (s : State) (b : Batch) : State :=
  match b.from_ with
  | .strand w => s.releaseStrand w b
  | .engine core _ req => s.releaseEngine core req b
  | .sequencer core => s.releaseStream core b.id b.outcome
  | .prefetch | .device => s

/-- Whether a stream that is saved, alone or with its comb, or that waits for its sequencer, still has to learn of a batch. -/
def State.streamNeeds (s : State) (id : Nat) : Bool :=
  let waits := fun (x : Stream) => x.wait == some (.fetch id)
  s.cores.any fun (_, k) => (k.saved.any fun x => match x.stream with | some y => waits y | none => false) ||
    (k.matrix.restores ++ k.matrix.held).any fun x => waits x.stream

/-! Hint records (R358 to R360). -/

/-- The addresses of a record's range, by 4 KiB page, the smallest page (R428). -/
def Hint.addrs (h : Hint) : List Nat := (List.range (16 * h.npg)).map fun k => 65536 * h.start + 4096 * k

/-- The cache pages into which the pages of a tenant's range translate. -/
def State.hintPages (s : State) (h : Hint) : List Nat :=
  (h.addrs.filterMap fun va => match s.leaf (agentTlb 0) h.tenant va with
    | .ok e => let pa := e.pa + (va - e.va); if isDevice pa then some (cachePage pa) else none
    | .error _ => none).dedup

/-- The pinned pages of a die. -/
def State.pinnedPages (s : State) (die : Nat) : List Nat := (s.memory.pages.filter fun x => x.2.pin && homeDie (x.1 * 65536) == die).map fun x => 65536 * x.1

/-- How many pages of a die are pinned. -/
def State.pinned (s : State) (die : Nat) : Nat := (s.pinnedPages die).length

/-- The pinned frames of a die brought down to PINMAX (R348): which pages the pager unpins is its choice (log entry 126). -/
def State.trimPins (s : State) (die : Nat) : Nat → State
  | 0 => s
  | n + 1 =>
    let l := s.pinnedPages die
    match l[Config.displaced (s.clock.turn + n) % max 1 l.length]? with
    | some pa => if l.length ≤ (s.pager die).pinmax.toNat then s else (s.onPage pa fun p => { p with pin := false }).trimPins die n
    | none => s

/-- A page placed as a record's TIER obliges the pager (R360), with the pinned frames of the die kept within PINMAX (R348). -/
def State.placePage (s : State) (tier pa : Nat) : State :=
  match tier with
  | 1 => if (s.page pa).pin || decide ((s.pinned (homeDie pa)) < (s.pager (homeDie pa)).pinmax.toNat) then s.onPage pa fun p => { p with pin := true, noalloc := false } else s
  | 2 => s.onPage pa fun p => { p with pin := false, noalloc := true }
  | _ => s

/-- The attributes that a record gave to its pages end with the record (log entry 104). -/
def State.unplaceHint (s : State) (h : Hint) : State :=
  (s.hintPages h).foldl (fun s pa => match h.tier with
    | 1 => s.onPage pa fun p => { p with pin := false }
    | 2 => s.onPage pa fun p => { p with noalloc := false }
    | _ => s) s

/-- The mapped pages of a record's range placed (R359, R360). -/
def State.placeHint (s : State) (h : Hint) : State := (s.hintPages h).foldl (fun s pa => s.placePage h.tier pa) s

/-- The mapped pages of every record's range placed (R360). -/
def State.placeHints (s : State) : State := s.tiers.hints.foldl State.placeHint s

/-- Whether a record that `p` admits covers a page in the range of an extent. -/
def State.hinted (s : State) (l : Sys2Proof.Lease) (p : Hint → Bool) : Bool :=
  s.tiers.hints.any fun h => p h && (s.hintPages h).any fun pa => decide (l.base ≤ pa / 2097152) && decide (pa / 2097152 < l.base + l.size)

/-- Whether a record with KEEP covers a page of an extent: the pager neither releases the extent nor lets it lapse, renews it first, and remaps it only after copying (R360). -/
def State.kept (s : State) (l : Sys2Proof.Lease) : Bool := s.hinted l fun h => h.keep.any fun n => n != 0xFFFF

/-- Whether a borrowed extent has room: a page of it that no record's range is mapped to (log entry 125). -/
def State.borrowedRoom (s : State) : Bool :=
  let used := (s.tiers.hints.flatMap s.hintPages).dedup
  s.tiers.leases.any fun x => match x.2 with
    | some l => l.kind == .borrowed && l.state == .active &&
        decide ((used.filter fun pa => decide (l.base ≤ pa / 2097152) && decide (pa / 2097152 < l.base + l.size)).length < 32 * l.size)
    | none => false

/-- Whether the pager may not back pages of a record with an extent (R360): from a KIND 01 extent only those of a record with MU = 1, and none of TIER 011, which a KIND 00 extent backs only where no borrowed extent has room. -/
def State.misplaced (s : State) (l : Sys2Proof.Lease) : Bool :=
  (l.kind == .shared && s.hinted l fun h => !h.mu || h.tier == 3) || (l.kind == .pool && s.borrowedRoom && s.hinted l fun h => h.tier == 3)

/-- The PA of the leaf entry that a walk from `table` ends at, `n` levels left; of a 64 KiB page the first of its group (R428). -/
def State.leafAt (s : State) (va : Nat) : Nat → Nat → Nat
  | 0, table => table
  | n + 1, table =>
    let idx := bits va (20 + 9 * n) (12 + 9 * n)
    let e := Mem.read s.memory.mem (table + 8 * idx) 8
    if ptePointer e && n != 0 then s.leafAt va n (bits e 51 12 * 4096)
    else if n == 0 && bit e 6 then table + 8 * (idx / 16 * 16) else table + 8 * idx

/-- Whether `n` bytes at a PA lie in one extent that `p` admits and that is served. -/
def State.extentFor (s : State) (pa n : Nat) (p : Sys2Proof.Lease → Bool) : Bool :=
  match s.extent? pa with | some (_, l) => p l && l.state == .active && s.served pa && decide (pa + n ≤ (l.base + l.size) * 2097152) | none => false

/-- The page of a virtual address of a tenant moved by the pager (R360, log entry 125): its bytes are copied to the page that Config names, where that lies in an extent that `p` admits, and its translation then leads there. -/
def State.movePage (s : State) (t : BitVec 16) (va : Nat) (p : Sys2Proof.Lease → Bool) : State :=
  match s.descriptor t with
  | none => s
  | some d => match s.walk t va 5 (descRoot d) with
    | .error _ => s
    | .ok e =>
      let dst := Config.newPage s.clock.turn / e.size * e.size
      let place := s.leafAt va 5 (descRoot d)
      if !(isDevice dst && s.extentFor dst e.size p && s.agentReady (lineOf place)) then s
      else
        let copy := fun (s : State) (k : Nat) => s.homeStore (dst + 64 * k) 64 (Mem.read s.memory.mem (e.pa + 64 * k) 64)
        let s := (List.range (e.size / 64)).foldl copy s
        let old := Mem.read s.memory.mem place 8
        let s := s.homeStore place 8 (old - bits old 51 12 * 4096 + dst)
        { s with tlb := { s.tlb with entries := s.tlb.entries.filter fun x => !(x.entry.tenant == t && x.entry.va == e.va) } }

/-- The record that covers a virtual address of a tenant (R358). -/
def State.hintAt (s : State) (t : BitVec 16) (va : Nat) : Option Hint :=
  s.tiers.hints.find? fun h => h.tenant == t && decide (h.start ≤ va / 65536) && decide (va / 65536 < h.start + h.npg)

/-- Whether an entry is a write fault on a page of a KIND 01 extent that a record covers, with that record (R360). -/
def State.sharedWrite (s : State) (b : Batch) (e : BatchEntry) : Option Hint :=
  match e.pa with
  | some pa => if e.cause = 0x09 && e.acc == Access.write.code && s.sharedAt pa then s.hintAt b.tenant e.va else none
  | none => none

/-- The pages that a resolution with OUT = 0 obliges the pager to copy to a private extent first (R360, MU = 1). -/
def State.copyShared (s : State) (die : Nat) (key value : Dbl) : State :=
  if bits value.toNat 31 24 ≠ 0 then s
  else s.tiers.batches.foldl (fun s b => b.entries.foldl (fun s e =>
    if b.die = die ∧ b.written ∧ e.out.isNone ∧ b.matchesKey key value e then
      match s.sharedWrite b e with
      | some h => if h.mu then s.movePage b.tenant e.va fun l => l.kind != .shared else s
      | none => s
    else s) s) s

/-- Whether the page of a virtual address still lies in a KIND 01 extent. -/
def State.stillShared (s : State) (b : Batch) (e : BatchEntry) : Bool :=
  match s.leaf (agentTlb b.die) b.tenant e.va with | .ok x => s.sharedAt (x.pa + (e.va - x.va)) | .error _ => false

/-- Whether the pager may resolve an entry with OUT = `out` (R360, log entry 127): a write fault on a page of a KIND 01 extent that a record with MU = 0 covers only with PAGE_PROTECT, and one that a record with MU = 1 covers only once the page lies in a private extent. -/
def State.mayResolve (s : State) (b : Batch) (e : BatchEntry) (out : Nat) : Bool :=
  match s.sharedWrite b e with
  | none => true
  | some h => if h.mu then !s.stillShared b e else out == Cause.pageProtect.code

/-- Whether every entry that a write of FQRES1 resolves may be resolved so. -/
def State.obeys (s : State) (die : Nat) (key value : Dbl) : Bool :=
  s.tiers.batches.all fun b => b.die != die || !b.written || b.entries.all fun e =>
    e.out.isSome || !b.matchesKey key value e || s.mayResolve b e (bits value.toNat 31 24)

/-- FQRES1_RESOLVE (R354 to R356, R360): combs that one write makes ready become so in ascending slot. The pager copies the pages that R360 obliges it to copy first, and makes no write that R360 forbids it (log entry 127). -/
def State.resolve (s : State) (die : Nat) (value : Dbl) : State :=
  let key := (s.pager die).key
  let s := s.copyShared die key value
  if !s.obeys die key value then s
  else
  let all := s.tiers.batches.map fun b => (b, b.resolveBy die key value)
  let done := sortBy (fun (a b : Batch) => decide (a.slot ≤ b.slot)) ((all.filter fun x => !x.1.resolved && x.2.resolved).map fun x => x.2)
  let s := { s with tiers := { s.tiers with batches := all.map fun x => x.2 } }
  let s := done.foldl State.releaseBatch s
  ({ s with tiers := { s.tiers with batches := s.tiers.batches.filter fun b => !b.resolved || s.streamNeeds b.id } }).placeHints

/-- FQRES1_RESOLVE (R354). -/
def execFqres1Resolve (die : Nat) (value : Dbl) (s : State) : Host.Outcome State Fault Refusal := next (s.fromHost fun s => s.resolve die value)

/-- The ready comb of a core that resumes next (R356): one that is being saved resumes under R342. -/
def State.nextReady (s : State) (core : Nat) : Option Nat := (s.core core).ready.find? fun n => (s.comb core n).phase == .running

/-- COMB_FAULT_RESUME (R356). -/
def execCombFaultResume (core : Nat) (s : State) : Host.Outcome State Fault Refusal :=
  next (match s.nextReady core with
  | some n => (s.onCore core fun k => { k with ready := k.ready.erase n }).resumeParked core n
  | none => s)

/-! The lease table (R343, R346). -/

/-- An entry of the lease table. -/
def State.lease? (s : State) (idx : Nat) : Option Sys2Proof.Lease := Tab.get none s.tiers.leases idx

/-- An entry of the lease table written. -/
def State.setLease (s : State) (idx : Nat) (l : Sys2Proof.Lease) : State :=
  { s with tiers := { s.tiers with leases := Tab.put none s.tiers.leases idx (some l) } }

/-- The first PA of an extent and the one after its last. -/
def Lease.lo (l : Sys2Proof.Lease) : Nat := l.base * 2097152
def Lease.hi (l : Sys2Proof.Lease) : Nat := (l.base + l.size) * 2097152

/-- Whether a PA lies in an extent's range, whatever its state. -/
def Lease.has (l : Sys2Proof.Lease) (pa : Nat) : Bool := decide (Lease.lo l ≤ pa) && decide (pa < Lease.hi l)

/-- The dirty lines of an extent, by PA, with what their backing holds. -/
def State.dirtyLines (s : State) (l : Sys2Proof.Lease) : List (Nat × LineBits) :=
  s.memory.dirty.filterMap fun x => match x.2 with | some b => if Lease.has l (64 * x.1) then some (64 * x.1, b) else none | none => none

/-- A dirty line discarded (R346, R349): memory holds again what the backing holds, and the terms that waited for its write-back end. -/
def State.discardLine (s : State) (x : Nat × LineBits) : State :=
  ((s.onMem fun m => { m with mem := Mem.writeMasked m.mem x.1 (2 ^ 64 - 1) x.2.toNat 64 }).lineCleaned x.1).count 6 1

/-- The resident lines of an extent dropped, in HBM and in L2 (R344, R346); an RDC that owns one returns it, with the latest lease that it has granted (R193). -/
def State.dropPages (s : State) (l : Sys2Proof.Lease) : State :=
  ((((Tab.keys s.memory.owned).map (64 * ·)).filter (Lease.has l)).foldl State.recall s).onMem fun m => { m with
    pages := Tab.mapVals {} (fun k p => if Lease.has l (65536 * k) then { p with resident := false, counter := 0, fetching := [], toL2 := [], order := 0 } else p) m.pages
    l2 := m.l2.filter fun x => !Lease.has l (64 * x.1) }

/-- The reservations on the lines of an extent whose lease is lost are lost (R214). -/
def State.loseLease (s : State) (l : Sys2Proof.Lease) : State := s.clearResvs (Lease.has l)

/-- An extent's resident lines dropped and its dirty lines discarded (R346). -/
def State.dropExtent (s : State) (l : Sys2Proof.Lease) : State := (((s.dirtyLines l).foldl State.discardLine s).dropPages l).loseLease l

/-- Whether an extent has reached its EXPIRY (R346). -/
def State.expireDue (s : State) (idx : Nat) : Bool :=
  match s.lease? idx with | some l => l.state == .active && decide (l.expiry ≤ s.clock.gt) | none => false

/-- LEASE_EXPIRE (R346). -/
def execLeaseExpire (idx : Nat) (s : State) : Host.Outcome State Fault Refusal :=
  next (match s.lease? idx with
  | some l => if s.expireDue idx then ((s.loseLease l).setLease idx { l with state := .expired }).count 13 1 else s
  | none => s)

/-- Whether a revoking extent has reached its deadline (R346). -/
def State.deadlineDue (s : State) (idx : Nat) : Bool :=
  match s.lease? idx with | some l => l.state == .revoking && decide (l.expiry ≤ s.clock.gt) | none => false

/-- LEASE_REVOKE_DEADLINE (R346, R349). -/
def execLeaseRevokeDeadline (idx : Nat) (s : State) : Host.Outcome State Fault Refusal :=
  next (match s.lease? idx with
  | some l => if s.deadlineDue idx then (s.dropExtent l).setLease idx { l with state := .revoked } else s
  | none => s)

/-- REVOCATION_NOTICE (R346): the deadline lies at least 1 ms ahead. -/
def execRevocationNotice (idx deadline : Nat) (s : State) : Host.Outcome State Fault Refusal :=
  next (match s.lease? idx with
  | some l => if l.state == .active && decide (s.clock.gt < l.expiry) && decide (s.clock.gt + 1000000 ≤ deadline) then s.setLease idx { l with state := .revoking, expiry := deadline } else s
  | none => s)

/-- An extent set failed where it lies on a lost node (R346). -/
def State.failExtent (s : State) (borrowed : Bool) (node idx : Nat) : State :=
  match s.lease? idx with
  | some l =>
    if l.state != .free && l.state != .failed && (l.kind == .borrowed) == borrowed && l.node == node then ((s.loseLease l).setLease idx { l with state := .failed }).count 7 1 else s
  | none => s

/-- Every non-free extent on a node set failed (R346, R364); the management interrupt follows the detection (R455). -/
def State.failNode (s : State) (borrowed : Bool) (node : Nat) : State :=
  let t := (Tab.keys s.tiers.leases).foldl (fun s i => s.failExtent borrowed node i) s
  if t.tiers.leases = s.tiers.leases then t else t.interrupt

/-- Whether a strand stands past an atomic of its own that has not acted on a line of the extents of a node: such an atomic comes before the loss of the node (R235, log entry 21). -/
def State.outrun (s : State) (borrowed : Bool) (node : Nat) : Bool :=
  let there := fun (pa : Nat) => match s.extent? pa with | some (_, l) => (l.kind == .borrowed) == borrowed && l.node == node && l.state != .failed | none => false
  let past := fun (st : Strand) => st.flight.atomics.any fun a => !a.fabric && st.sched.wait != some (.atomic a.id) && a.parts.any fun p => isDevice p.pa && there p.pa
  s.cores.any fun (_, k) => k.combs.any fun x => match x.2 with | some c => c.strands.any fun y => past y.2 | none => false

/-- POOL_NODE_LOST (R345, R346, R364). -/
def execPoolNodeLost (borrowed : Bool) (node : Nat) (s : State) : Host.Outcome State Fault Refusal :=
  next (if s.outrun borrowed node then s.again false else s.failNode borrowed node)

/-- Whether the lender of an extent is unreachable, so that the extent fails (R364, R375). -/
def State.lenderLost (s : State) (l : Sys2Proof.Lease) : Bool :=
  l.kind == .borrowed && l.state != .free && l.state != .failed && !s.reachable l.node && !s.outrun true l.node

/-- FABRIC_UNREACHABLE (R375): every outstanding request to the device fails, and the memory that it lends is lost (R364). -/
def execFabricUnreachable (target : Nat) (s : State) : Host.Outcome State Fault Refusal :=
  next (if s.silent target && !s.outrun true target then ((s.failAll target).failNode true target).pump target else s)

/-- Whether an entry may hold an extent: its size, its place, a node of its KIND, and no overlap with another non-free entry (R343). -/
def State.leaseFits (s : State) (idx : Nat) (l : Sys2Proof.Lease) : Bool :=
  decide (idx < 8192) && decide (1 ≤ l.size) && decide (l.base + l.size ≤ 2 ^ 25) &&
  (match l.kind with | .borrowed => decide (l.node ≤ 992) | _ => decide (l.node / 4096 ≤ 9)) &&
  s.tiers.leases.all fun x => match x.2 with
    | some y => x.1 == idx || y.state == .free || decide (Lease.hi y ≤ Lease.lo l) || decide (Lease.hi l ≤ Lease.lo y)
    | none => true

/-- The bytes of an extent replaced by what its backing holds, but for the lines of `keep`. -/
def State.fillExtent (s : State) (l : Sys2Proof.Lease) (keep : List Nat) (contents : List (Nat × Byte)) : State :=
  let mine := fun (a : Nat) => Lease.has l a && !keep.contains (lineOf a)
  s.onMem fun m => { m with mem := Mem.writeCells (m.mem.filter fun x => !mine x.1) (contents.filter fun x => mine x.1) }

/-- LEASE_ACQUIRE (R346): `contents` is what the backing holds, by device PA. -/
def execLeaseAcquire (idx : Nat) (lease : Lease) (contents : List (Nat × Byte)) (s : State) : Host.Outcome State Fault Refusal :=
  let free : Bool := match s.lease? idx with | some l => l.state == .free | none => true
  next (if free && s.leaseFits idx lease && !s.misplaced lease then ((s.fillExtent lease [] contents).setLease idx { lease with state := .active }).placeHints else s)

/-- Whether a lease that a record with KEEP covers is to be renewed now: 1 ms before its EXPIRY (R346, R360). -/
def State.keepDue (s : State) (idx : Nat) : Bool :=
  match s.lease? idx with | some l => l.state == .active && decide (l.expiry ≤ s.clock.gt + 1000000) && s.kept l | none => false

/-- The EXPIRY that such a renewal gives (log entry 103). -/
def State.keepUntil (s : State) : Nat := s.clock.gt + 1000001 + Config.granted s.clock.turn

/-- Whether the pager renews another extent before this one: one that a record with KEEP covers and that ends no later (R360). -/
def State.renewsFirst (s : State) (idx : Nat) (l : Sys2Proof.Lease) : Bool :=
  !s.kept l && s.tiers.leases.any fun x => match x.2 with
    | some y => x.1 != idx && y.state == .active && decide (y.expiry ≤ l.expiry) && s.kept y
    | none => false

/-- LEASE_RENEW (R346, R360): a later EXPIRY of an active lease, or the late renewal of an expired one. -/
def execLeaseRenew (idx expiry : Nat) (s : State) : Host.Outcome State Fault Refusal :=
  next (match s.lease? idx with
  | some l =>
    if s.renewsFirst idx l then s
    else if (l.state == .active && decide (l.expiry < expiry)) || l.state == .expired then (s.setLease idx { l with state := .active, expiry := expiry }).placeHints else s
  | none => s)

/-- The pages of a remapped extent (R346): a page without dirty lines is dropped; of any other its clean lines are fetched again. -/
def remapPage (dirty : List Nat) (k : Nat) (p : Page) : Page :=
  let lines := (List.range 1024).map fun i => 65536 * k + 64 * i
  if lines.any fun a => dirty.contains a then { p with fetching := lines.filter fun a => !dirty.contains a }
  else { p with resident := false, counter := 0, fetching := [], toL2 := [], order := 0 }

/-- LEASE_REMAP (R346): dirty lines are written to the new backing, and clean lines are dropped. Of an extent that a record with KEEP covers the new backing must hold a copy of the old one (R360). -/
def execLeaseRemap (idx node boff expiry : Nat) (contents : List (Nat × Byte)) (s : State) : Host.Outcome State Fault Refusal :=
  next (match s.lease? idx with
  | some l =>
    let l' := { l with state := .active, node := node, boff := boff, expiry := expiry }
    if l.state != .failed || !s.leaseFits idx l' then s
    else
      let dirty := (s.dirtyLines l).map fun x => x.1
      let filled := s.fillExtent l dirty contents
      if s.kept l ∧ filled.memory.mem ≠ s.memory.mem then s
      else
      let s := filled.onMem fun m => { m with
        l2 := m.l2.filter fun x => !Lease.has l (64 * x.1) || dirty.contains (64 * x.1)
        pages := Tab.mapVals {} (fun k p => if Lease.has l (65536 * k) && p.resident then remapPage dirty k p else p) m.pages }
      ((dirty.foldl State.lineCleaned s).setLease idx l').placeHints
  | none => s)

/-- LEASE_RELEASE (R346, R360). -/
def execLeaseRelease (idx : Nat) (s : State) : Host.Outcome State Fault Refusal :=
  next (match s.lease? idx with
  | some l => if l.state != .free && !s.kept l then (s.dropExtent l).setLease idx { l with state := .free } else s
  | none => s)

/-! The access counters (R350) and lent memory (R364). -/

/-- The period of counter halving of a die, in ns (R350, R351). -/
def Pager.halving (p : Pager) : Nat := 2 ^ p.dshift * 1000

/-- Whether the counters of a die are halved now (R350). -/
def State.halvingDue (s : State) (die : Nat) : Bool := decide ((s.pager die).halved + (s.pager die).halving ≤ s.clock.gt)

/-- COUNTER_HALVING (R350): at one instant, at each multiple of the period. -/
def execCounterHalving (die : Nat) (s : State) : Host.Outcome State Fault Refusal :=
  next (if !s.halvingDue die then s
  else
    let half := fun (k : Nat) (p : Page) => if homeDie (65536 * k) = die then { p with counter := p.counter / 2 } else p
    (s.onMem fun m => { m with pages := Tab.mapVals {} half m.pages }).onPager die fun p =>
      { p with halved := (p.halved / p.halving + 1) * p.halving })

/-- Whether the set of a resident page holds more pages than it has ways (R347, R364). -/
def State.overfull (s : State) (page : Nat) : Bool := (s.page (65536 * page)).resident && decide (s.ways page < (s.setPages page).length + 1)

/-- The sets of a die brought down to the ways that they have: victims are chosen as R348 says. -/
def State.shrinkSets (s : State) (die : Nat) : State :=
  ((Tab.keys s.memory.pages).filter fun k => homeDie (65536 * k) == die).foldl (fun s k =>
    if s.overfull k then (match s.victimIn ((k, s.page (65536 * k)) :: s.setPages k) with | some v => s.evictPage v | none => s) else s) s

/-- HBM_LEND (R364): units are lent, and their frames leave the page cache, where the pages in them can give them up (log entry 48); or units are reclaimed once 1 ms has passed since the revocation notice. -/
def execHbmLend (die : Nat) (what : Lending) (s : State) : Host.Outcome State Fault Refusal :=
  let p := s.pager die
  next (match what with
  | .reclaim units t => if die ≤ 1 ∧ units ≤ p.lent ∧ t + 1000000 ≤ s.clock.gt then s.onPager die fun p => { p with lent := p.lent - units } else s
  | .lend units =>
    if units = 0 ∨ p.lendmax.toNat < p.lent + units ∨ die > 1 then s
    else
      let t := (s.onPager die fun p => { p with lent := p.lent + units }).shrinkSets die
      if (Tab.keys t.memory.pages).any t.overfull then s else t)

/-! Descriptors in LM (R359, R361). -/

/-- Step 1 of R359 for a 32-byte descriptor. -/
def State.descTrap (s : State) (w : Sid) (off : Nat) : Option Trap :=
  firstOf [(off % 32 != 0, Trap.of .misaligned off), (!s.inWindow w.core w.slot off 32, Trap.of .pageProtect off),
           (s.conflictAt w .lm .read off 32, Trap.of .rangeConflict off)]

/-- A descriptor read from LM. -/
def State.lmDescriptor (s : State) (w : Sid) (off : Nat) : Nat := s.winRead w.core w.slot off 32

/-- Whether a processor number of KEEP is reserved (R358). -/
def keepReserved (n : Nat) : Bool := !(decide (n ≤ 0x3E0) || n == 0xF000 || n == 0xF001 || n == 0xFFFF)

/-- A hint descriptor read (R358). -/
def parseHint (t : BitVec 16) (d : Nat) : Hint :=
  { tenant := t, start := bits d 56 16, npg := bits d 95 64, mu := bit d 99, tier := bits d 98 96, keep := (List.range 8).map fun k => bits d (143 + 16 * k) (128 + 16 * k) }

/-- The checks of THINT (R359), by field in ascending order; a range that passes 2^57 is charged to NPG. -/
def thintTrap (i : Issue) (s : State) : Option Trap :=
  let off := (i.uA s).toNat
  let d := s.lmDescriptor i.w off
  let h := parseHint 0 d
  let bad := fun (k : Nat) => Trap.of .illegalOperand (off + k)
  (s.descTrap i.w off).or (firstOf (
    [(bits d 63 57 != 0 || bits d 15 0 != 0, bad 0),
     (h.npg == 0 || decide (h.npg > 2 ^ 30) || decide (h.start + h.npg > 2 ^ 41), bad 8),
     (bits d 127 100 != 0 || decide (h.tier ≥ 4), bad 12)] ++
    (List.range 8).map fun k => (keepReserved (h.keep.getD k 0), bad (16 + 2 * k))))

/-- Two records of one range. -/
def Hint.same (a b : Hint) : Bool := a.tenant == b.tenant && a.start == b.start && a.npg == b.npg

/-- Two records of overlapping ranges of one tenant. -/
def Hint.overlaps (a b : Hint) : Bool := a.tenant == b.tenant && decide (a.start < b.start + b.npg) && decide (b.start < a.start + a.npg)

/-- The frames that a tenant's records of TIER 001 may pin, those of `h`'s range apart. -/
def pinnedBy (l : List Hint) (h : Hint) : Nat := ((l.filter fun x => x.tenant == h.tenant && x.tier == 1 && !x.same h).map fun x => x.npg).sum

/-- The result of THINT, and the records after it (R358, R359). -/
def thintResult (l : List Hint) (d : List Nat) (clr : Bool) (h : Hint) : Word × List Hint :=
  let old := l.any fun x => x.same h
  let rest := l.filter fun x => !x.same h
  let mine := (l.filter fun x => x.tenant == h.tenant).length
  let full := !old && (decide (mine ≥ descHquota d) || decide (l.length ≥ 4096))
  let pins := h.tier == 1 && decide (pinnedBy l h + h.npg > descPquota d)
  if clr then (if old then (0, rest) else (0x80000003, l))
  else if full || pins then (0x80000001, l)
  else if rest.any fun x => x.overlaps h then (0x80000002, l)
  else (if old then 1 else 0, rest ++ [h])

/-- THINT (R359): where its operand is invalid in run-ahead it does nothing (R201). -/
def execThint (e : Enc) (s : State) : Host.Outcome State Fault Refusal :=
  next (strandOnly .thint e s fun i s =>
    if i.act = 0 ∨ i.taint s ≠ 0 then s.advance i
    else match thintTrap i s with
      | some t => s.raise i t
      | none =>
        let t := s.tenantOf i.w.core i.w.slot
        match s.descriptor t with
        | none => s
        | some d =>
          let h := parseHint t (s.lmDescriptor i.w (i.uA s).toNat)
          let r := thintResult s.tiers.hints d (e.sub == 1) h
          let old := s.tiers.hints.find? fun x => x.same h
          let s := { s with tiers := { s.tiers with hints := r.2 } }
          let s := match old with | some o => if r.1.toNat ≤ 1 then (s.unplaceHint o).placeHints else s | none => s
          let s := if e.sub = 0 ∧ r.1.toNat ≤ 1 then s.placeHint h else s
          (s.writeS i.w e.d.toNat r.1).advance i)

/-! GPREF (R361, R362). -/

/-- The checks of GPREF (R361). A product of the counts that is too large is charged to LEN0. -/
def gprefTrap (i : Issue) (s : State) : Option Trap :=
  let off := (i.uA s).toNat
  let d := s.lmDescriptor i.w off
  let len := bits d 95 64
  let n := bits d 111 96
  let m := bits d 127 112
  let bad := fun (k : Nat) => Trap.of .illegalOperand (off + k)
  (s.descTrap i.w off).or (firstOf
    [(bits d 63 57 != 0, bad 0), (len == 0, bad 8), (n == 0, bad 12), (m == 0, bad 14), (decide (n * m * (ceilDiv len 65536 + 1) > 4096), bad 8)])

/-- The addresses at which a row enters each block of `g` bytes; addresses have 64 bits. -/
def rowTouches (g a len : Nat) : List Nat :=
  (List.range ((a + len - 1) / g + 1 - a / g)).map fun k => (if k = 0 then a else (a / g + k) * g) % 2 ^ 64

/-- The addresses that a prefetch descriptor touches, in z-major order (R361, R362): one for each 4 KiB page, the smallest page (R428), or with .l2 one for each line. A row at a negative address lies at the top of the 64-bit addresses. -/
def gprefTouches (l2 : Bool) (d : Nat) : List Nat :=
  let p1 := sx (bits d 191 128) 64
  let p2 := sx (bits d 255 192) 64
  (List.range (bits d 127 112)).flatMap fun z => (List.range (bits d 111 96)).flatMap fun y =>
    rowTouches (if l2 then 64 else 4096) (((bits d 56 0 : Int) + (z : Int) * p2 + (y : Int) * p1) % 2 ^ 64).toNat (bits d 95 64)

/-- A touched line added to the pages that a GPREF requests: a new page, or, with .l2, one line more of a page. -/
def addTouch (l2 : Bool) (line : Nat) (l : List (Nat × List Nat)) : List (Nat × List Nat) :=
  let mine := if l2 then [line] else []
  if l.any fun x => cachePage x.1 == cachePage line then l.map fun x => if cachePage x.1 == cachePage line && !x.2.contains line then (x.1, x.2 ++ mine) else x
  else l ++ [(line, mine)]

/-- Whether the translation of one of some addresses waits: for a line that an MCAS holds (R248), or for a descriptor (R482). -/
def State.xlatWaits (s : State) (w : Sid) (priv : Bool) (l : List Nat) : Bool :=
  l.any fun va => match s.translate w.core (s.tenantOf w.core w.slot) priv .read va with | .error .waits => true | _ => false

/-- The pages that a GPREF requests, each with the line of its first touch and the lines for the home L2, and the recoverable faults of the pages that it drops (R362). An address with a bit above bit 56 has no translation (R178). -/
def State.gprefPages (s : State) (w : Sid) (priv l2 : Bool) (l : List Nat) : List (Nat × List Nat) × List PageFault :=
  l.foldl (fun r va => if va ≥ 2 ^ 57 then r else match s.translate w.core (s.tenantOf w.core w.slot) priv .read va with
    | .ok pa => if isDevice pa then (addTouch l2 (lineOf pa) r.1, r.2) else r
    | .error (.queued c pa) =>
      let f : PageFault := { va := va, pa := pa, cause := c, acc := Access.read.code, origin := 4 }
      if r.2.any fun g => g.va / 65536 == va / 65536 && g.cause == c && g.pa == pa then r else (r.1, r.2 ++ [f])
    | .error _ => r) ([], [])

/-- One request of a GPREF (R347, R362): the page is allocated and fetched, and the lines asked for go into the home L2, those in flight as they arrive. -/
def State.prefetchPage (s : State) (x : Nat × List Nat) : State :=
  let s := s.homeMiss x.1
  let flying := if (s.page x.1).resident then x.2.filter (s.page x.1).fetching.contains else []
  let s := if flying.isEmpty then s else s.onPage x.1 fun p => { p with toL2 := (p.toL2 ++ flying).dedup }
  (x.2.filter fun l => !flying.contains l).foldl State.fillL2 s

/-- Requests of a GPREF sent, one token each (R362, R368): what is left, and the state. -/
def State.sendPages (s : State) (w : Sid) (pages : List (Nat × List Nat)) : List (Nat × List Nat) × State :=
  let p := s.spend w.core (s.tenantOf w.core w.slot) (.pages w) pages.length
  (pages.drop p.1, (pages.take p.1).foldl State.prefetchPage p.2)

/-- A strand's GPREF carried on (R362): D is written when the last request is sent. -/
def State.gprefOn (s : State) (w : Sid) : State :=
  match (s.strand w).sched.wait with
  | some (.gpref pages sent dest) =>
    let r := s.sendPages w pages
    let sent := sent + (pages.length - r.1.length)
    if r.1.isEmpty then r.2.onStrand w fun st => (st.putS dest (BitVec.ofNat 32 sent)).passWait s.clock.cycle
    else r.2.onStrand w fun st => { st with sched := { st.sched with wait := some (.gpref r.1 sent dest) } }
  | _ => s

/-- Entries of a GPREF.q, a batch for each sixteen pages (R353, R362). -/
def State.prefetchFaults (s : State) (w : Sid) (l : List PageFault) : Nat → State
  | 0 => s
  | n + 1 => if l.isEmpty then s
    else (s.formBatch .prefetch w.core w.slot (s.tenantOf w.core w.slot) (l.take 16)).prefetchFaults w (l.drop 16) n

/-- GPREF (R361, R362). -/
def execGpref (e : Enc) (s : State) : Host.Outcome State Fault Refusal :=
  next (strandOnly .gpref e s fun i s =>
    if i.act = 0 ∨ i.taint s ≠ 0 then s.advance i
    else match gprefTrap i s with
      | some t => s.raise i t
      | none =>
        let l2 := e.sub == 1
        let touches := gprefTouches l2 (s.lmDescriptor i.w (i.uA s).toNat)
        if s.xlatWaits i.w i.st.trap.priv touches then s
        else
          let r := s.gprefPages i.w i.st.trap.priv l2 touches
          let s := if e.qbit 0 then s.prefetchFaults i.w r.2 r.2.length else s
          let n := r.1.length
          let r := s.sendPages i.w r.1
          if r.1.isEmpty then (r.2.writeS i.w e.d.toNat (BitVec.ofNat 32 n)).advance i
          else r.2.onStrand i.w fun st => { st with sched := { st.sched with wait := some (.gpref r.1 (n - r.1.length) e.d.toNat), waitLen := e.bytes } })

/-! LCNT (R363). -/

/-- STATE as the lease table codes it (R343). -/
def leaseStateCode : LeaseState → Nat
  | .free => 0 | .active => 1 | .revoking => 2 | .expired => 3 | .revoked => 4 | .failed => 5

/-- KIND as the lease table codes it (R343). -/
def leaseKindCode : LeaseKind → Nat
  | .pool => 0 | .shared => 1 | .borrowed => 2

/-- The state of an extent at a GT: EXPIRY and the deadline act at their instant (R346). -/
def Lease.stateAt (l : Sys2Proof.Lease) (gt : Nat) : LeaseState :=
  match l.state with
  | .active => if l.expiry ≤ gt then .expired else .active
  | .revoking => if l.expiry ≤ gt then .revoked else .revoking
  | x => x

/-- The word that LCNT reads of the cache page of a PA (R363). -/
def State.pageWord (s : State) (pa : Nat) : Word :=
  let p := s.page pa
  let x := match s.extent? pa with | some (_, l) => leaseStateCode (Lease.stateAt l s.clock.gt) * 4 + leaseKindCode l.kind | none => 0
  let dirty := s.memory.dirty.any fun y => y.1 / 1024 == pa / 65536
  BitVec.ofNat 32 (x * 4096 + b2n p.noalloc * 2048 + b2n p.pin * 1024 + b2n dirty * 512 + b2n p.resident * 256 + (if p.resident then p.counter else 0))

/-- The device page of a lane of LCNT, if it has one: its translation permits a read, whatever the state of its extent. -/
def State.lcntPage (s : State) (core : Nat) (t : BitVec 16) (priv : Bool) (va : Nat) : Option Nat :=
  if va ≥ 2 ^ 57 then none
  else match s.leaf core t va with
    | .ok e => let pa := e.pa + (va - e.va); if (e.e && !priv) || !e.r || !isDevice pa then none else some pa
    | .error _ => none

/-- The reads of LCNT, lane by lane (R204, R363). -/
def State.lcntRead (s : State) (core : Nat) (t : BitVec 16) (priv clr : Bool) : List (Nat × Nat) → State × List (Nat × Word)
  | [] => (s, [])
  | (lane, va) :: l =>
    let r := match s.lcntPage core t priv va with
      | none => (s, (0x80000000 : Word))
      | some pa => (if clr && (s.page pa).resident then s.onPage pa fun p => { p with counter := 0 } else s, s.pageWord pa)
    let x := r.1.lcntRead core t priv clr l
    (x.1, (lane, r.2) :: x.2)

/-- LCNT (R363): performed in the step of its issue, once no translation waits; lanes with an invalid address are left out (R201). -/
def execLcnt (e : Enc) (s : State) : Host.Outcome State Fault Refusal :=
  next (strandOnly .lcnt e s fun i s =>
    let t := s.tenantOf i.w.core i.w.slot
    if i.act = 0 then s.advance i
    else if s.xlatWaits i.w i.st.trap.priv ((i.targets s true).map fun x => x.2) then s
    else
      let r := s.lcntRead i.w.core t i.st.trap.priv (e.sub == 1) (i.targets s true)
      let value := fun (l : Nat) => match r.2.find? fun x => x.1 == l || x.1 == 32 with | some x => x.2 | none => 0
      (r.1.writeD i value).advance i)

/-! Bandwidth shares (R367 to R369). -/

/-- Whether a comb has a request that waits for a token at its core's port or is on its way to it (R367, R368). -/
def Comb.asks (k : Comb) : Bool :=
  let strand := fun (st : Strand) =>
    (st.flight.loads.any fun l => l.via != .fabric && l.sectors.any fun x => x.2.isNone && !l.paid.contains (lineOf (32 * x.1))) || (st.flight.atomics.any fun a => !a.fabric && a.parts.any fun p => !a.paid.contains (lineOf p.pa)) ||
    st.sched.owes != 0 || (match st.sched.wait with | some (.gpref _ _ _) => true | some (.mcas m) => !m.toLock.isEmpty && !m.paid | _ => false)
  (k.strands.any fun x => strand x.2) || k.reqs.any fun q => q.state == .running &&
    ((q.space true == .global && q.left.any fun c => c.rpay && !c.rpaid) || (q.space false == .global && q.staged.any fun x => x.chunk.wpay && !x.chunk.wpaid))

/-- Whether a tenant has a request waiting at the port of a core (R369). -/
def State.tenantAsks (s : State) (core : Nat) (t : BitVec 16) : Bool :=
  let k := s.core core
  (k.combs.any fun x => match x.2 with | some c => c.tenant == t && c.asks | none => false) ||
  (k.drains.any fun d => d.applied.isNone && d.entry.owed != 0 && s.tenantOf core d.entry.slot == t) ||
  (s.fabric.targets.any fun x => x.2.out.any fun o => o.first.isNone && o.payer == some core && o.packet.tenant == t)

/-- The tenants that have anything at the port of a core. -/
def State.portTenants (s : State) (core : Nat) : List (BitVec 16) :=
  (((s.core core).combs.filterMap fun x => x.2.map fun c => c.tenant) ++
   (s.fabric.targets.flatMap fun x => x.2.out.filterMap fun o => if o.payer = some core then some o.packet.tenant else none)).dedup

/-- The weight of a bucket: that of its valid entry, or DEFW (R367). -/
def Shares.weight (h : Shares) (k : Nat) : Nat := if k = 8 then h.defw else match h.entry k with | some e => e.2 | none => 0

/-- The active buckets of a core (R369). -/
def State.activeBuckets (s : State) (core : Nat) : List Nat :=
  let h := (s.core core).shares
  let ask := (s.portTenants core).filter fun t => s.tenantAsks core t
  (List.range 9).filter fun k => ask.any fun t => h.bucketOf t == k

/-- The grants of one period (R369). -/
def Shares.grants (h : Shares) (act : List Nat) : Tab Nat :=
  let wall := ((List.range 9).map h.weight).sum
  let wa := (act.map h.weight).sum
  if wa = 0 then act.foldl (fun t k => Tab.put 0 t k 2048) []
  else
    let base := fun (k : Nat) => 2048 * h.weight k / wall
    let u := 2048 - (act.map base).sum
    let extra := fun (k : Nat) => u * h.weight k / wa
    let r := u - (act.map extra).sum
    let rank := fun (k : Nat) => (act.filter fun j => decide (h.weight j > h.weight k) || (h.weight j == h.weight k && decide (j < k))).length
    act.foldl (fun t k => Tab.put 0 t k (base k + extra k + (if rank k < r then 1 else 0))) []

/-- Whether a period of a core's port with EN = 1 begins (R369). -/
def State.refillDue (s : State) (core : Nat) : Bool := (s.core core).shares.en && decide ((s.core core).shares.filled < s.clock.cycle / 1024)

/-- The fabric requests and the GPREFs that wait at a core's port go on (R368). -/
def State.portsOn (s : State) (core : Nat) : State :=
  let s := (Tab.keys s.fabric.targets).foldl State.pump s
  (s.core core).combs.foldl (fun s x => match x.2 with
    | some c => (Tab.keys c.strands).foldl (fun s j => s.gprefOn { core := core, slot := x.1, strand := j }) s
    | none => s) s

/-- Whether fabric requests or GPREFs wait at a core's port. -/
def State.portWaits (s : State) (core : Nat) : Bool :=
  (s.core core).shares.queue.any fun x => s.portLive core x.2 && (match x.2 with | .fabric _ | .pages _ => true | _ => false)

/-- BANDWIDTH_REFILL (R369): the requests that waited for tokens go on. -/
def execBandwidthRefill (core : Nat) (s : State) : Host.Outcome State Fault Refusal :=
  next (if !s.refillDue core then s
  else
    let act := s.activeBuckets core
    (s.onCore core fun k => { k with shares := { k.shares with buckets := k.shares.grants act, filled := s.clock.cycle / 1024 } }).portsOn core)

end Sys2Proof.Machine
end

