-- ==== Sys2Proof/Machine/Accord.lean ====
section
/-! DEFINITION. The collective clock accord (ch. 18): the limit table and the ceiling (R392, R393, R404, R405), notices and trips (R396 to R398), heartbeats and silence (R399, R400), joining and leaving (R401 to R403). -/

namespace Sys2Proof.Machine
open Sys2Proof

/-- The accord's state changed by `f`. -/
def State.onAccord (s : State) (f : Accord → Accord) : State := { s with accord := f s.accord }

/-- Messages given to the network (R394). -/
def State.post (s : State) (l : List OutMsg) : State := { s with fabric := { s.fabric with outbox := s.fabric.outbox ++ l } }

/-- A LIMIT or TRIP that is not ignored (R395). -/
def limitOk (n : Nat) : Bool := n % 25 == 0 && decide (800 ≤ n) && decide (n ≤ 2200)

/-! The ceiling. -/

/-- The limit of an entry in force at a GT (R392). -/
def limitAt (m : Member) (t : Nat) : Nat := match m.pending with | some (l, e) => if e ≤ t then l else m.limit | none => m.limit

/-- Whether an entry is in the table at a GT (R403). -/
def inTable (m : Member) (t : Nat) : Bool := match m.leaving with | some e => decide (t < e) | none => true

/-- The least limit in force at a GT, if there is an entry (R392). -/
def tableCeil (l : List Member) (t : Nat) : Option Nat := ((l.filter fun m => inTable m t).map fun m => limitAt m t).min?

/-- The lower of two ceilings, where either may be absent. -/
def lower (x : Nat) (y : Option Nat) : Nat := match y with | some y => min x y | none => x

/-- The group ceiling at a GT: the table's, with the limits of removed members that still hold it down (R399). -/
def Accord.groupCeil (a : Accord) (t : Nat) : Nat :=
  let c := (tableCeil a.table t).getD a.limit
  lower c ((a.rises.filter fun x => decide (t < x.1)).map fun x => x.2).min?

/-- Whether the device follows a table: as a member, or as a joiner from the snapshot on (R402). -/
def Accord.follows (a : Accord) : Bool :=
  a.state == .member || (a.state == .joining && (match a.joining with | some j => j.adopt.isSome | none => false))

/-- The entry of a device. -/
def Accord.entry (a : Accord) (dev : Nat) : Option Member := a.table.find? fun m => m.dev == dev

/-- Whether an ordinary notice of this device that is in force at a GT raises its limit above its trip clamp (R398). -/
def Accord.raised (a : Accord) (t : Nat) : Bool :=
  match a.entry self, a.clamp with
  | some m, some c => a.state == .member && (match m.pending with | some (l, e) => decide (e ≤ t) && decide (c < l) | none => false)
  | _, _ => false

/-- Whether this device has left its group by a GT (R403). -/
def Accord.leftAt (a : Accord) (t : Nat) : Bool := match a.entry self with | some m => !inTable m t | none => false

/-- The ceiling in force at a GT as it is scheduled, a trip clamp and the clamp of an isolated device included (R393, R398, R400, R402 to R404). -/
def Accord.ceilAt (a : Accord) (t : Nat) : Nat :=
  lower (if a.follows && !a.leftAt t then a.groupCeil t else lower a.limit a.cap) (if a.raised t then none else a.clamp)

/-- The GTs after `t` at which the ceiling may change as scheduled (R404). -/
def Accord.changes (a : Accord) (t : Nat) : List Nat :=
  if a.follows then
    ((a.table.filterMap fun m => m.pending.map fun p => p.2) ++ (a.table.filterMap fun m => m.leaving) ++ a.rises.map fun x => x.1).filter fun e => decide (t < e)
  else []

/-- The earliest scheduled change of the ceiling (R404). -/
def Accord.nextChange (a : Accord) (t : Nat) : Option Nat := ((a.changes t).filter fun e => a.ceilAt e != a.ceilAt t).min?

/-- STATE as ACCSTAT codes it (R395). -/
def accStateCode : AccState → Nat | .solo => 0 | .joining => 1 | .member => 2 | .isolated => 3

/-- The special register CEIL (R404). -/
def State.ceil (s : State) : Word :=
  let a := s.accord
  let t := s.clock.gt
  let n := match a.nextChange t with | some e => a.ceilAt e | none => a.ceilAt t
  BitVec.ofNat 32 (accStateCode a.state * 2 ^ 30 + n % 4096 * 65536 + a.ceilAt t % 4096)

/-- The special register CEILT (R404). -/
def State.ceilt (s : State) : Dbl := match s.accord.nextChange s.clock.gt with | some e => BitVec.ofNat 64 e | none => BitVec.allOnes 64

/-! Entries. -/

/-- The entry of a device changed by `f`. -/
def Accord.onEntry (a : Accord) (dev : Nat) (f : Member → Member) : Accord := { a with table := a.table.map fun m => if m.dev = dev then f m else m }

/-- An entry dropped. -/
def Accord.drop (a : Accord) (dev : Nat) : Accord := { a with table := a.table.filter fun m => m.dev != dev }

/-- The entry that an arrival makes (R401): no limit is in force before the adoption time. -/
def arrivalEntry (dev limit adopt : Nat) : Member := { dev := dev, limit := 2200, pending := some (limit, adopt), leaving := none, seq := 0, stamp := adopt }

/-- The joiners to which a sponsor still forwards notices (R401). -/
def State.forwarded (s : State) (n : Notice) : List OutMsg :=
  (s.accord.forwards.filter fun x => decide (s.clock.gt < x.2)).map fun x => .forward x.1 n

/-- A notice of this device sent to every member (R396), and forwarded to the joiners that it sponsors (R401). -/
def State.broadcast (s : State) (n : Notice) : State := s.post (.notice n :: s.forwarded n)

/-- The next notice of this device. -/
def Accord.nextNotice (a : Accord) (limit eff : Nat) : Notice := { dev := self, seq := a.seq + 1, limit := limit, eff := eff, late := false, leave := false, arrival := none }

/-! Notices (R396, R397, R398). -/

/-- A write of ACCLIM.LIMIT (R395, R396, R397, R400): a member gives notice; an isolated device never raises its clamp; for any other device the new limit holds at once, and ends a trip clamp that lies below it (log entry 105). -/
def State.writeLimit (s : State) (limit : Nat) : State :=
  if !limitOk limit then s
  else if s.accord.state = .member then
    let n := s.accord.nextNotice limit (s.clock.gt + s.accord.lead * 1000)
    (s.onAccord fun a => { a.onEntry self fun m => { m with pending := some (limit, n.eff), seq := n.seq } with limit := limit, seq := n.seq }).broadcast n
  else if s.accord.state = .isolated then s.onAccord fun a => { a with limit := limit, cap := some (lower limit a.cap) }
  else s.onAccord fun a => { a with limit := limit, clamp := match a.clamp with | some c => if c < limit then none else some c | none => none }

/-- LIMIT_NOTICE (R396). -/
def execLimitNotice (limit : Nat) (s : State) : Host.Outcome State Fault Refusal := next (s.fromHost fun s => s.writeLimit limit)

/-- What a notice does to the entry of its sender, received at `t` (R396, R398, R403, R405). -/
def applyNotice (n : Notice) (t : Nat) (m : Member) : Member :=
  let m := { m with seq := n.seq }
  if n.arrival.isSome then m
  else if n.leave then { m with pending := none, leaving := some n.eff }
  else if n.late || decide (n.eff ≤ t) then { m with limit := n.limit, pending := none }
  else { m with pending := some (n.limit, n.eff) }

/-- The table after an arrival notice (R401): the joiner's entry replaces any that it had. -/
def Accord.arrive (a : Accord) (n : Notice) : Accord :=
  match n.arrival with
  | some j => if j = self then a else { a.drop j with table := (a.drop j).table ++ [arrivalEntry j n.limit n.eff] }
  | none => a

/-- NOTICE_RECEIVE (R394, R396, R398, R400 to R403, R405). -/
def execNoticeReceive (n : Notice) (s : State) : Host.Outcome State Fault Refusal :=
  next (if !s.accord.en || !s.accord.follows || n.dev == self then s
  else match s.accord.entry n.dev with
    | none => s.post [.removed n.dev]
    | some m =>
      if n.seq ≤ m.seq then s
      else
        let t := s.clock.gt
        let tardy := !n.late && decide (n.eff < t)
        let s := s.onAccord fun a => (a.onEntry n.dev (applyNotice n t)).arrive n
        let s := s.post (s.forwarded n)
        if tardy then s.count 8 1 else s)

/-- The GT at which a member is removed if no heartbeat of it comes (R399). -/
def removedAt (m : Member) : Nat := m.stamp + 256000

/-- Whether a member has been silent for 256 µs (R399), and has not left before (R403). -/
def State.removalDue (s : State) (dev : Nat) : Bool :=
  s.accord.follows && dev != self &&
  (match s.accord.entry dev with | some m => decide (removedAt m ≤ s.clock.gt) && inTable m (removedAt m) | none => false)

/-- Whether a pending limit's time has come (R397); a removal takes precedence over the removed member's pending limit (R405). -/
def State.applyNow (s : State) (m : Member) : Bool :=
  (match m.pending with | some (_, e) => decide (e ≤ s.clock.gt) | none => false) && !s.removalDue m.dev

/-- Whether some pending limit's time has come (R397). -/
def State.applyDue (s : State) : Bool := s.accord.table.any s.applyNow

/-- LIMIT_APPLY (R392, R397): the limits whose time has come are in force; an ordinary notice of this device that raises its limit ends its trip clamp (R398). -/
def execLimitApply (s : State) : Host.Outcome State Fault Refusal :=
  let t := s.clock.gt
  let take := fun (m : Member) => if s.applyNow m then { m with limit := limitAt m t, pending := none } else m
  next (s.onAccord fun a =>
    { a with table := a.table.map take, clamp := if a.raised t then none else a.clamp })

/-- The late notice of a trip at GT `t` (R398). -/
def State.lateNotice (s : State) (t : Nat) : State :=
  let n := { s.accord.nextNotice s.accord.trip t with late := true }
  (s.onAccord fun a => { a.onEntry self (applyNotice n s.clock.gt) with seq := n.seq }).broadcast n

/-- EMERGENCY_TRIP (R398, R402): the clock drops at once; a joiner's notice is sent at its adoption. -/
def execEmergencyTrip (s : State) : Host.Outcome State Fault Refusal :=
  let s := (s.onAccord fun a => { a with clamp := some (lower a.trip a.clamp) }).count 14 1
  next (match s.accord.state with
  | .member => s.lateNotice s.clock.gt
  | .joining => s.onAccord fun a => { a with lateTrip := some s.clock.gt }
  | _ => s)

/-! Heartbeats (R399, R400). -/

/-- Whether a heartbeat is due (R399). -/
def State.beatDue (s : State) : Bool := s.accord.state == .member && decide (s.accord.beat + 64000 ≤ s.clock.gt)

/-- HEARTBEAT_SEND (R399): the device's own entry bears the stamp too, for the snapshots that it gives (R401). -/
def execHeartbeatSend (s : State) : Host.Outcome State Fault Refusal :=
  next (match s.beatDue, s.accord.entry self with
  | true, some m =>
    let t := s.clock.gt
    let h : Heartbeat := { dev := self, seq := s.accord.seq, stamp := t, limit := limitAt m t, pending := m.pending }
    (s.onAccord fun a => { a.onEntry self fun m => { m with stamp := t } with beat := a.beat + (t - a.beat) / 64000 * 64000 }).post [.heartbeat h]
  | _, _ => s)

/-- HEARTBEAT_RECEIVE (R399, R400): a later sequence number is applied as a notice would be. -/
def execHeartbeatReceive (h : Heartbeat) (s : State) : Host.Outcome State Fault Refusal :=
  next (if !s.accord.en || !s.accord.follows || h.dev == self then s
  else match s.accord.entry h.dev with
    | none => s.post [.removed h.dev]
    | some _ =>
      let up := fun (m : Member) =>
        let m := { m with stamp := max m.stamp h.stamp }
        if m.seq < h.seq then { m with seq := h.seq, limit := h.limit, pending := h.pending } else m
      s.onAccord fun a => { a.onEntry h.dev up with heard := s.clock.gt })

/-- The limit of an entry that is removed at a GT: the removal comes before a limit pending for that instant (R405). -/
def removedLimit (m : Member) (t : Nat) : Nat := match m.pending with | some (l, e) => if e < t then l else m.limit | none => m.limit

/-- MEMBER_REMOVAL (R399, R405): the ceiling rises above the removed limit only 50 µs later. -/
def execMemberRemoval (dev : Nat) (s : State) : Host.Outcome State Fault Refusal :=
  next (match s.removalDue dev, s.accord.entry dev with
  | true, some m =>
    let t := removedAt m
    s.onAccord fun a => { a.drop dev with rises := a.rises ++ [(t + 50000, removedLimit m t)] }
  | _, _ => s)

/-- A member that becomes isolated (R400): it keeps the lower of the last ceiling that it applied and its own limit. -/
def State.isolate (s : State) : State :=
  s.onAccord fun a => { a with state := .isolated, cap := some (min (a.groupCeil s.clock.gt) a.limit), table := [], rises := [], forwards := [] }

/-- REMOVED_MESSAGE (R400). -/
def execRemovedMessage (_sender : Nat) (s : State) : Host.Outcome State Fault Refusal :=
  next (if s.accord.state = .member then s.isolate else s)

/-- Whether a member has heard no other for 256 µs (R400). -/
def State.isolationDue (s : State) : Bool := s.accord.state == .member && decide (s.accord.heard + 256000 ≤ s.clock.gt)

/-- ACCORD_ISOLATION (R400). -/
def execAccordIsolation (s : State) : Host.Outcome State Fault Refusal := next (if s.isolationDue then s.isolate else s)

/-- ACCCTL_EN_WRITE (R395, R400): GROUP and LEAD are taken while EN = 0; EN ← 0 makes the device solo. -/
def State.writeAccctl (s : State) (value : Dbl) : State :=
  let v := value.toNat
  let lead := bits v 9 0
  s.onAccord fun a =>
    let a := if a.en then a else { a with group := bits v 47 32, lead := if 50 ≤ lead ∧ lead ≤ 1000 then lead else a.lead }
    if bit v 63 then { a with en := true }
    else { a with en := false, state := .solo, table := [], cap := none, rises := [], joining := none, forwards := [], lateTrip := none }

/-- ACCCTL_EN_WRITE (R400). -/
def execAccctlEnWrite (value : Dbl) (s : State) : Host.Outcome State Fault Refusal := next (s.fromHost fun s => s.writeAccctl value)

/-! Joining (R401, R402). -/

/-- A join begun (R401). -/
def State.beginJoin (s : State) (sponsor : Nat) : State :=
  let a := s.accord
  if !a.en || !(a.state == .solo || a.state == .isolated) || decide (sponsor > 992) then s
  else
    let j : Joining := { sponsor := sponsor, back := a.state, limit := a.limit, since := s.clock.gt, adopt := none }
    (s.onAccord fun a => { a with state := .joining, err := 0, joining := some j }).post [.joinRequest sponsor a.group a.limit]

/-- ACCORD_JOIN (R401). -/
def execAccordJoin (sponsor : Nat) (s : State) : Host.Outcome State Fault Refusal := next (s.fromHost fun s => s.beginJoin sponsor)

/-- Whether the device can sponsor a joiner of a group: a member of it, or the only one of it (R392, R401, log entry 49). -/
def Accord.sponsors (a : Accord) (group : Nat) : Bool := a.en && a.group == group && (a.state == .member || a.state == .solo)

/-- A solo device with EN = 1 as the only member of its group (log entry 49). -/
def State.found (s : State) : State :=
  if s.accord.state = .member then s
  else
    let m : Member := { dev := self, limit := s.accord.ceilAt s.clock.gt, pending := none, leaving := none, seq := s.accord.seq, stamp := s.clock.gt }
    s.onAccord fun a => { a with state := .member, table := [m], beat := s.clock.gt, heard := s.clock.gt }

/-- JOIN_REQUEST_RECEIVE (R401): the snapshot with its adoption time, and the arrival notice; or a refusal. -/
def execJoinRequestReceive (dev group limit : Nat) (s : State) : Host.Outcome State Fault Refusal :=
  next (if !s.accord.sponsors group || dev == self then s.post [.refuse dev]
  else
    let s := s.found
    let at_ := s.clock.gt + 50000 + Config.adopt s.clock.turn
    let n := { s.accord.nextNotice limit at_ with arrival := some dev }
    let s := s.post [.snapshot dev { members := s.accord.table, rises := s.accord.rises.filter fun x => decide (s.clock.gt < x.1) } at_]
    let s := s.onAccord fun a => { (a.onEntry self fun m => { m with seq := n.seq }).arrive n with seq := n.seq }
    let s := s.broadcast n
    s.onAccord fun a => { a with forwards := (a.forwards.filter fun x => decide (s.clock.gt < x.2)) ++ [(dev, at_)] })

/-- SNAPSHOT_RECEIVE (R402, R405): the joiner follows its copy of the table, with the rises still held back and its own limit effective at the adoption time. -/
def execSnapshotReceive (table : Snapshot) (adopt : Nat) (s : State) : Host.Outcome State Fault Refusal :=
  next (match s.accord.state, s.accord.joining with
  | .joining, some j =>
    if j.adopt.isSome then s
    else
      let mine := { arrivalEntry self j.limit adopt with seq := s.accord.seq }
      s.onAccord fun a => { a with table := (table.members.filter fun m => m.dev != self) ++ [mine], rises := table.rises, joining := some { j with adopt := some adopt } }
  | _, _ => s)

/-- A join that fails (R401). -/
def State.failJoin (s : State) (err : Nat) : State :=
  match s.accord.joining with
  | some j => s.onAccord fun a => { a with state := j.back, err := err, joining := none, lateTrip := none }
  | none => s

/-- Whether a joiner still waits for its sponsor's answer. -/
def Accord.waitsTable (a : Accord) : Bool := a.state == .joining && (match a.joining with | some j => j.adopt.isNone | none => false)

/-- Whether no snapshot has come within 1 ms (R401). -/
def State.joinLate (s : State) : Bool :=
  s.accord.waitsTable && (match s.accord.joining with | some j => decide (j.since + 1000000 ≤ s.clock.gt) | none => false)

/-- JOIN_TIMEOUT (R401). -/
def execJoinTimeout (s : State) : Host.Outcome State Fault Refusal := next (if s.joinLate then s.failJoin 1 else s)

/-- SPONSOR_REFUSAL (R401). -/
def execSponsorRefusal (s : State) : Host.Outcome State Fault Refusal := next (if s.accord.waitsTable then s.failJoin 2 else s)

/-- Whether the adoption time of a joiner has come (R402). -/
def State.adoptDue (s : State) : Bool :=
  s.accord.state == .joining && (match s.accord.joining with | some j => (match j.adopt with | some t => decide (t ≤ s.clock.gt) | none => false) | none => false)

/-- ADOPTION (R402): a member that starts its heartbeats, and that gives notice of a trip since its request. -/
def execAdoption (s : State) : Host.Outcome State Fault Refusal :=
  next (if !s.adoptDue then s
  else
    let t := s.clock.gt
    let late := s.accord.lateTrip
    let take := fun (m : Member) => if m.dev = self then { m with limit := limitAt m t, pending := none } else m
    let s := s.onAccord fun a => { a with state := .member, joining := none, cap := none, lateTrip := none, beat := t - 64000, heard := t, table := a.table.map take }
    match late with | some g => s.lateNotice g | none => s)

/-! Leaving (R403). -/

/-- A leave notice given (R403). -/
def State.beginLeave (s : State) : State :=
  if s.accord.state ≠ .member then s
  else
    let n := { s.accord.nextNotice s.accord.limit (s.clock.gt + s.accord.lead * 1000) with leave := true }
    (s.onAccord fun a => { a.onEntry self (applyNotice n s.clock.gt) with seq := n.seq }).broadcast n

/-- ACCORD_LEAVE (R403). -/
def execAccordLeave (s : State) : Host.Outcome State Fault Refusal := next (s.fromHost State.beginLeave)

/-- Whether a leaver's time has come (R403), and it has not been removed before (R399). -/
def State.leaveDue (s : State) (dev : Nat) : Bool := (match s.accord.entry dev with | some m => !inTable m s.clock.gt | none => false) && !s.removalDue dev

/-- LEAVE_EFFECTIVE (R403): every member drops the leaver, and the leaver is solo. -/
def execLeaveEffective (dev : Nat) (s : State) : Host.Outcome State Fault Refusal :=
  next (if !s.leaveDue dev then s
  else if dev = self then s.onAccord fun a => { a with state := .solo, table := [], rises := [], forwards := [], cap := none }
  else s.onAccord fun a => a.drop dev)

/-- ACCSTAT (R395). -/
def Accord.stat (a : Accord) : Dbl := BitVec.ofNat 64 (accStateCode a.state * 2 ^ 62 + a.err * 2 ^ 60 + a.table.length % 1024)

/-- ACCCTL and ACCLIM as they read (R395). -/
def Accord.ctl (a : Accord) : Dbl := BitVec.ofNat 64 (b2n a.en * 2 ^ 63 + a.group * 2 ^ 32 + a.lead)
def Accord.lim (a : Accord) : Dbl := BitVec.ofNat 64 (a.trip * 65536 + a.limit)

end Sys2Proof.Machine
end

