-- ==== Sys2Proof/Machine/System.lean ====
section
/-! DEFINITION. System instructions (ch. 19): special registers (R408 to R411), the return from a trap (R417), SYSC, HALT and WAIT (R418 to R420), context images (R423 to R425), the debug block (R421), confidential contexts (R430 to R432) and the security alarm (R433). -/

namespace Sys2Proof.Machine
open Sys2Proof

/-! Special registers. -/

/-- The value of a special register (R408, R410). -/
def State.sreg (s : State) (w : Sid) (n : Nat) : Dbl :=
  let st := s.strand w
  let k := s.comb w.core w.slot
  let num := fun (x : Nat) => BitVec.ofNat 64 x
  match n with
  | 0 => num w.strand
  | 1 => num w.slot
  | 2 => num (w.core % 72)
  | 3 => num (dieOf w.core)
  | 4 => num self
  | 5 => num k.record
  | 6 => zx64 st.sp.part
  | 7 => st.sp.mode
  | 8 => num st.sp.wb
  | 9 => num st.sp.ssp
  | 10 => zx64 st.live
  | 11 => s.gt64
  | 12 => zx64 st.sp.fair
  | 13 => zx64 s.ceil
  | 14 => s.ceilt
  | 15 => num k.tenant.toNat
  | 16 => num (b2n st.trap.priv)
  | 17 => st.trap.tvec
  | 18 => zx64 st.trap.tcause
  | 19 => st.trap.tpc
  | 20 => st.trap.tval
  | 21 => zx64 s.host.sync
  | 22 => zx64 st.trap.tmask
  | 23 => st.trap.tscr0
  | 24 => st.trap.tscr1
  | _ => 0

/-- SRD (R410): the low word, the high word, or both at one instant. -/
def execSrd (e : Enc) (s : State) : Host.Outcome State Fault Refusal :=
  next (strandOnly .srd e s (effect noCheck fun i s =>
    let v := s.sreg i.w e.a.toNat
    let lo := v.extractLsb' 0 32
    let hi := v.extractLsb' 32 32
    match e.sub.toNat with
    | 0 => s.writeS i.w e.d.toNat lo
    | 1 => s.writeS i.w e.d.toNat hi
    | _ => (s.writeS i.w e.d.toNat lo).writeS i.w (e.d.toNat + 1) hi))

/-- The 64-bit value that SWR offers to a register (R411). -/
def Issue.offered (i : Issue) (s : State) : Dbl :=
  let old := s.sreg i.w i.e.a.toNat
  match i.e.sub.toNat with
  | 0 => pair64 (old.extractLsb' 32 32) (i.opB s)
  | 1 => pair64 (i.opB s) (old.extractLsb' 0 32)
  | _ => s.readPair i.w i.e.b.toNat

/-- The check of a new FAIR (R157). -/
def fairTrap (v : Word) : Option Trap := let l := bits v.toNat 15 0; if 1 ≤ l ∧ l ≤ 255 then some { cause := .illegalOperand, tval := zx64 v } else none

/-- The check of a new TVEC (R411). -/
def tvecTrap (v : Dbl) : Option Trap := if bits v.toNat 63 57 ≠ 0 ∨ bits v.toNat 5 0 ≠ 0 then some { cause := .illegalOperand, tval := v } else none

/-- The checks of SWR (R411). -/
def swrTrap (i : Issue) (s : State) : Option Trap :=
  match i.e.a.toNat with
  | 6 => partTrap (i.opB s)
  | 7 => if modeBad (i.offered s) then some { cause := .illegalOperand, tval := i.offered s } else none
  | 8 => wbaseTrap i.st.sp.n (i.opB s)
  | 9 => sspTrap i.st (i.opB s)
  | 12 => fairTrap (i.opB s)
  | 17 => tvecTrap (i.offered s)
  | _ => none

/-- A special register written (R411); a read-only one keeps its value (R3). -/
def Strand.setSreg (st : Strand) (n : Nat) (v : Dbl) : Strand :=
  let w := v.setWidth 32
  let sp := fun (x : Special) => { st with sp := x }
  let tr := fun (x : TrapRegs) => { st with trap := x }
  match n with
  | 6 => sp { st.sp with part := w }
  | 7 => sp { st.sp with mode := modeClean v }
  | 8 => sp { st.sp with wb := 8 * w.toNat }
  | 9 => sp { st.sp with ssp := w.toNat }
  | 12 => sp { st.sp with fair := w &&& 0xFFFF }
  | 17 => tr { st.trap with tvec := v }
  | 18 => tr { st.trap with tcause := w &&& 0xDFF }
  | 19 => tr { st.trap with tpc := v }
  | 20 => tr { st.trap with tval := v }
  | 22 => tr { st.trap with tmask := w }
  | 23 => tr { st.trap with tscr0 := v }
  | 24 => tr { st.trap with tscr1 := v }
  | _ => st

/-- SWR (R411). -/
def execSwr (e : Enc) (s : State) : Host.Outcome State Fault Refusal :=
  next (strandOnly .swr e s (effect swrTrap fun i s => s.onStrand i.w fun st => st.setSreg e.a.toNat (i.offered s)))

/-! Traps, HALT and WAIT. -/

/-- TRET (R417). -/
def execTret (e : Enc) (s : State) : Host.Outcome State Fault Refusal :=
  next (strandOnly .tret e s fun i s =>
    let p := i.st.trap.tpc
    if bits p.toNat 63 57 ≠ 0 ∨ bits p.toNat 1 0 ≠ 0 then s.raise i { cause := .illegalOperand, tval := p }
    else s.onStrand i.w fun st => st.trapReturn.account i.st s.clock.cycle)

/-- SYSC (R418): TPC is the address of the next instruction and TMASK the active mask. -/
def execSysc (e : Enc) (s : State) : Host.Outcome State Fault Refusal :=
  next (strandOnly .sysc e s fun i s =>
    if i.act = 0 then s.advance i
    else if (s.strand i.w).entryFree then s.takeTrap i.w Cause.syscall.code (zx64 (i.opB s)) i.next i.act false
    else s)

/-- HALT (R419): the comb stops issuing, its open regions are discarded, its stop entries are freed (R421), and the halt log takes the code. -/
def execHalt (e : Enc) (s : State) : Host.Outcome State Fault Refusal :=
  next (strandOnly .halt e s fun i s =>
    if i.act = 0 then s.advance i
    else
      let stop := fun (st : Strand) => { st with region := none, ahead := none, sched := { st.sched with stopped := false, burst := none } }
      let s := s.onComb i.w.core i.w.slot fun k => { k with phase := .halting, strands := Tab.mapVals {} (fun _ st => stop st) k.strands }
      (s.dropStops i.w.core i.w.slot).logHalt
        (haltEntry (i.opB s).toNat i.pc.toNat 0 (s.tenantOf i.w.core i.w.slot) i.w.core i.w.slot i.w.strand 2 s.clock.gt))

/-- WAIT (R420): the strand stands until the sequence moves or the token passes. -/
def execWait (e : Enc) (s : State) : Host.Outcome State Fault Refusal :=
  next (strandOnly .wait e s fun i s =>
    if i.act = 0 then s.advance i
    else match s.notifyTrap i.w (i.opB s) with
      | some t => s.raise i t
      | none => (s.onStrand i.w Strand.closeRegion).onStrand i.w fun st =>
          { st with sched := { st.sched with wait := some (.notify (i.opB s).toNat (i.uC s) (i.uA s) e.d.toNat), waitLen := e.bytes } })

/-- Whether a WAIT ends (R420). -/
def State.waitOver (s : State) (w : Sid) : Bool :=
  match (s.strand w).sched.wait with
  | some (.notify reg expected token _) => (s.notifyOf reg).seq != expected || gtPassed s.clock.gt token
  | _ => false

/-- WAIT_WAKE (R420). -/
def execWaitWake (w : Sid) (s : State) : Host.Outcome State Fault Refusal :=
  next (match (s.strand w).sched.wait with
  | some (.notify reg _ _ dest) => if s.waitOver w then s.onStrand w fun st => (st.putS dest (s.notifyOf reg).seq).passWait s.clock.cycle else s
  | _ => s)

/-! Context images (R423). -/

/-- The bytes of an image. -/
def imageSize (n : Nat) : Nat := 1216 + 132 * n

/-- One bit for each of `n` registers that holds a mark (R423). -/
def markBits (t : Tab Mask) (n : Nat) : Nat := (List.range n).foldl (fun x k => x + b2n (Tab.get 0 t k != 0) * 2 ^ k) 0

/-- Word `k` of the image of a strand (R423). -/
def Strand.imageWord (st : Strand) (k : Nat) : Word :=
  let lo := fun (x : Dbl) => x.extractLsb' 0 32
  let hi := fun (x : Dbl) => x.extractLsb' 32 32
  let pick := fun (x : Dbl) (odd : Bool) => if odd then hi x else lo x
  let num := fun (x : Nat) => BitVec.ofNat 32 x
  let pcOf := fun (l : Nat) => if st.live.getLsbD l then (st.pc l).setWidth 64 else (0 : Dbl)
  let fpcOf := fun (l : Nat) => if h : l < 32 then (st.trap.frame[l]).setWidth 64 else (0 : Dbl)
  let odd := k % 2 == 1
  let n := st.sp.n
  if k < 32 then
    match k with
    | 0 => st.live
    | 1 => st.trap.tmask
    | 2 | 3 => pick st.trap.tpc odd
    | 4 | 5 => pick st.trap.tval odd
    | 6 | 7 => pick st.sp.mode odd
    | 8 => st.trap.tcause
    | 9 => num st.sp.ssp
    | 10 => num (st.sp.wb + st.sp.part.toNat * 2 ^ 16 + b2n st.trap.priv * 2 ^ 24)
    | 11 => st.sp.fair
    | 12 => num (n + st.sp.lease * 2 ^ 16 + 2 ^ 24)
    | 13 => st.sp.resid
    | 14 | 15 => pick st.trap.tvec odd
    | 16 => st.ferr.status
    | 18 | 19 => pick (BitVec.ofNat 64 (if st.ferr.valid then st.ferr.addr else 0)) odd
    | 20 | 21 => pick st.trap.tscr0 odd
    | 22 | 23 => pick st.trap.tscr1 odd
    | _ => 0
  else if k < 96 then pick (pcOf ((k - 32) / 2)) odd
  else if k < 160 then pick (fpcOf ((k - 96) / 2)) odd
  else if k < 224 then Tab.get 0 st.regs.s (k - 160)
  else if k < 288 then let x := Tab.get (0, 0) st.regs.a ((k - 224) / 2); if odd then x.2 else x.1
  else if k < 296 then st.mask (k - 288)
  else if k < 298 then num (markBits st.marks.s 64 / 2 ^ (32 * (k - 296)) % 2 ^ 32)
  else if k = 298 then num (markBits st.marks.a 32)
  else if k = 299 then num (markBits st.marks.k 8)
  else if k < 304 then 0
  else if k < 304 + 32 * n then (Tab.get (Lanes.all 0) st.regs.v ((k - 304) / 32)).at ((k - 304) % 32)
  else Tab.get 0 st.marks.v (k - 304 - 32 * n)

/-- Sector `k` of an image, 32 bytes. -/
def Strand.imageSector (st : Strand) (k : Nat) : Nat := (List.range 8).foldl (fun v j => v + (st.imageWord (8 * k + j)).toNat * 2 ^ (32 * j)) 0

/-- The sectors of an image at an address, as accesses numbered like lanes. -/
def imageTargets (n a : Nat) : List (Nat × Nat) := (List.range (imageSize n / 32)).map fun k => (k, a + 32 * k)

/-- MISALIGNED for an image address (R424). -/
def imageTrap (a : Nat) : Option Trap := if a % 64 ≠ 0 then some (Trap.of .misaligned a) else none

/-- Whether a register that an image holds has a pending write (R72): an image is written and loaded only without one (R424, R425, R421). -/
def Strand.imagePending (st : Strand) : Bool :=
  st.pendingRegs.any fun r => match r with | .s n => n < 64 | .w _ => false | _ => true

/-- CTXSV (R424): stores of the image; it waits for the strand's pending tokens and atomics, and loses its reservations (R214). -/
def execCtxsv (e : Enc) (s : State) : Host.Outcome State Fault Refusal :=
  next (strandOnly .ctxsv e s fun i s =>
    let a := i.pairA s
    if i.act = 0 then s.advance i
    else match imageTrap a with
      | some t => s.raise i t
      | none =>
        if !i.st.entryFree || i.st.imagePending then s
        else s.access i .global (imageTargets i.st.sp.n a) { size := 32, acc := .write, use := .write, more := noMore } fun spots _ s =>
          if (s.strand i.w).ahead.isSome then s.advance i
          else
            let k := i.st.flight.nextId
            let s := s.onStrand i.w fun st => let st := st.closeRegion.loseResv; { st with flight := { st.flight with nextId := k + 1 } }
            (spots.foldl (fun s x => s.storeSpot i.w .global x.addr x.pa 32 (i.st.imageSector x.lane) k) s).advance i)

/-- The contents of an image read: its words, and whether a word's line is poisoned. -/
structure Image where
  word : List Word
  bad  : List Bool
  deriving DecidableEq, Repr

/-- A word of an image. -/
def Image.at (m : Image) (k : Nat) : Word := m.word.getD k 0

/-- A double of an image. -/
def Image.dbl (m : Image) (k : Nat) : Dbl := pair64 (m.at (k + 1)) (m.at k)

/-- Whether a PC field is well-formed (R425). -/
def pcField (v : Dbl) : Bool := bits v.toNat 63 57 == 0 && bits v.toNat 1 0 == 0

/-- The byte offset of the first bad field of an image for a strand, if any (R425). -/
def Image.firstBad (m : Image) (st : Strand) : Option Nat :=
  let v := fun (k : Nat) => (m.at k).toNat
  let zero := fun (l : List Nat) => l.all fun k => m.at k == 0
  let n := st.sp.n
  let live := m.at 0
  let fixed : List (Bool × Nat) :=
    [(live &&& ~~~st.live == 0, 0),
     (pcField (m.dbl 2), 8),
     (!modeBad (m.dbl 6), 24),
     ((sspTrap st (m.at 9)).isNone, 36),
     (bits (v 10) 15 9 == 0 && bits (v 10) 2 0 == 0 && decide (bits (v 10) 8 0 < n), 40),
     (decide (bits (v 10) 23 16 ≤ 4), 42),
     (bits (v 10) 31 25 == 0, 43),
     ((fairTrap (m.at 11)).isNone, 44),
     (bits (v 12) 15 0 == n, 48),
     (decide (1 ≤ bits (v 12) 23 16) && decide (bits (v 12) 23 16 ≤ 64), 50),
     (bits (v 12) 31 24 == 1, 51),
     (m.at 17 == 0, 68),
     (zero ((List.range 8).map fun k => 24 + k), 96)]
  let frames : List (Bool × Nat) := (List.range 32).map fun l => (!live.getLsbD l || pcField (m.dbl (96 + 2 * l)), 384 + 8 * l)
  let tail : List (Bool × Nat) := [(v 299 / 256 == 0 && zero ((List.range 4).map fun k => 300 + k), 1197)]
  ((fixed ++ frames ++ tail).find? fun x => !x.1).map fun x => x.2

/-- The registers of an image (R423). -/
def Image.regs (m : Image) (n : Nat) : Regs :=
  let put := fun {α : Type} [DecidableEq α] (d : α) (t : Tab α) (k : Nat) (v : α) => Tab.put d t k v
  { s := (List.range 64).foldl (fun t k => put 0 t k (m.at (160 + k))) []
    a := (List.range 32).foldl (fun t k => put (0, 0) t k (m.at (224 + 2 * k), m.at (225 + 2 * k))) []
    k := (List.range 8).foldl (fun t k => if k = 0 then t else put 0 t k (m.at (288 + k))) []
    v := (List.range n).foldl (fun t r => put (Lanes.all 0) t r (Lanes.of fun l => m.at (304 + 32 * r + l))) [] }

/-- The marks of an image (R423), with those of the positions filled from a poisoned line (R202). -/
def Image.marks (m : Image) (n : Nat) : Marks :=
  let bad := fun (k : Nat) => m.bad.getD k false
  let all : Mask := BitVec.allOnes 32
  let put := fun (t : Tab Mask) (k : Nat) (v : Mask) => Tab.put 0 t k v
  { s := (List.range 64).foldl (fun t k => put t k (if (m.at (296 + k / 32)).getLsbD (k % 32) || bad (160 + k) then all else 0)) []
    a := (List.range 32).foldl (fun t k => put t k (if (m.at 298).getLsbD k || bad (224 + 2 * k) || bad (225 + 2 * k) then all else 0)) []
    k := (List.range 8).foldl (fun t k => if k = 0 then t else put t k (if (m.at 299).getLsbD k || bad (288 + k) then all else 0)) []
    v := (List.range n).foldl (fun t r => put t r (m.at (304 + 32 * n + r) ||| Mask.of fun l => bad (304 + 32 * r + l))) [] }

/-- The PC to which a TRET returns a lane of an image (R417). -/
def Image.returnPc (m : Image) (l : Nat) : Pc := if (m.at 1).getLsbD l then (m.dbl 2).setWidth 57 else (m.dbl (96 + 2 * l)).setWidth 57

/-- The PC of the atomic that the residual mask of an image stands for (R235): that to which its lowest lane returns. -/
def Image.residAt (m : Image) : Pc := m.returnPc ((Mask.lanes (m.at 13)).headD 0)

/-- An image loaded into a strand (R425): every field but PC, PRIV, TVEC and TSCR; the lanes that it lacks exit, and the reservations are lost. -/
def Strand.loadImage (st : Strand) (m : Image) : Strand :=
  let v := fun (k : Nat) => (m.at k).toNat
  let n := st.sp.n
  let st := ((st.exitLanes (~~~(m.at 0))).loseResv).closeRegion
  { st with
    regs := m.regs n
    marks := m.marks n
    sp := { st.sp with mode := modeClean (m.dbl 6), ssp := v 9, wb := bits (v 10) 8 0, part := BitVec.ofNat 32 (bits (v 10) 18 16), fair := m.at 11 &&& 0xFFFF,
                       lease := bits (v 12) 23 16, resid := m.at 13, residAt := m.residAt, residAct := false,
                       residDone := Mask.of fun l => !(m.at 13).getLsbD l && m.returnPc l == m.residAt }
    trap := { st.trap with tmask := m.at 1, tpc := m.dbl 2, tval := m.dbl 4, tcause := m.at 8 &&& 0xDFF,
                           frame := Vector.ofFn fun i : Fin 32 => (m.dbl (96 + 2 * i.val)).setWidth 57 }
    ferr := if (m.at 16).getLsbD 31 then { valid := true, count := bits (v 16) 23 16, cause := bits (v 16) 7 0, addr := (m.dbl 18).toNat } else {} }

/-- An image read at some PAs, by 32-byte sector; `own` gives a strand's own bytes where they are still buffered (R189). -/
def State.readImage (s : State) (l : List (Nat × Nat)) (own : Nat → Nat → Nat) : Image :=
  { word := l.flatMap fun x => let v := own x.1 x.2; (List.range 8).map fun j => BitVec.ofNat 32 (v / 2 ^ (32 * j))
    bad := l.flatMap fun x => List.replicate 8 (s.linePoison (lineOf x.2)) }

/-- CTXLD (R425): read at the homes in one step, once none of its lines waits and each has spent its token (R368). TVAL of every failing check is the byte offset of the field, of MODE too (R425; R95 names the offered value, log entry 106). -/
def execCtxld (e : Enc) (s : State) : Host.Outcome State Fault Refusal :=
  next (strandOnly .ctxld e s fun i s =>
    let a := i.pairA s
    if i.act = 0 then s.advance i
    else match imageTrap a with
      | some t => s.raise i t
      | none =>
        if i.st.imagePending then s
        else s.access i .global (imageTargets i.st.sp.n a) { size := 32, acc := .read, use := .read, more := noMore } fun spots _ s =>
          if (s.strand i.w).ahead.isSome then s.advance i
          else
            let lines := (spots.map fun x => lineOf x.pa).dedup
            let waits := lines.filter s.homeWaits
            if !waits.isEmpty then waits.foldl State.fetchLine s
            else
              let pay := s.payIssue i.w lines
              if !pay.1 then pay.2 else
              let s := pay.2
              let m := s.readImage (spots.map fun x => (x.addr, x.pa)) fun va pa => s.ownRead i.w va pa 32
              match m.firstBad i.st with
              | some k => s.raise i (Trap.of .illegalOperand k)
              | none => ((lines.foldl (fun s l => ((s.atHome l).countAccess l).forget i.w.core l) s).onStrand i.w fun st => st.loadImage m).advance i)

/-! Confidential contexts (R430 to R432). -/

/-- A confidential context. -/
def State.context (s : State) (c : Nat) : Context := Tab.get {} s.sec.contexts c

/-- A confidential context changed by `f`. -/
def State.onContext (s : State) (c : Nat) (f : Context → Context) : State :=
  { s with sec := { s.sec with contexts := Tab.put {} s.sec.contexts c (f (s.context c)) } }

/-- Whether a tenant is bound to a context (R427). -/
def State.boundTo (s : State) (c : Nat) (t : BitVec 16) : Bool :=
  let d := (s.descriptor t).getD (s.memDescriptor t)
  descConf d && descCtx d == c

/-- The KICKs of a comb that wait for range-lock entries, which no longer wait: their checks have passed, and their requests abort (R273, R431, R432). -/
def State.abortKicks (s : State) (core slot : Nat) : State :=
  let mine := (s.core core).kicks.filter fun x => x.slot == slot
  let s := s.onCore core fun k => { k with kicks := k.kicks.filter fun x => x.slot != slot }
  mine.foldl (fun s x =>
    (x.reqs.foldl (fun s q => s.abort core slot { q with id := (s.core core).nextReq } Cause.confLost.code none) s).onStrand { core := core, slot := slot, strand := x.strand } fun st => st.passWait s.clock.cycle) s

/-- The requests of a resident comb aborted with CONF_LOST (R273, R431). -/
def State.abortAll (s : State) (core slot : Nat) : State :=
  ((s.comb core slot).reqs.foldl (fun s q => s.abort core slot q Cause.confLost.code none) s).abortKicks core slot

/-- The requests of a saved comb set to abort when it resumes (R273, R274): of one that has not started, every byte is still to be counted. -/
def Comb.abortSaved (k : Comb) : Comb :=
  { k with reqs := k.reqs.map fun q => { q with
      state := .aborted, cause := Cause.confLost.code, batch := none
      uncounted := if q.state = .queued ∨ q.state = .held then q.total else q.uncounted } }

/-- A context lost (R431): its tenants' requests abort, its keys and sessions go, and every strand of its tenants takes CONF_LOST. -/
def State.loseContext (s : State) (c : Nat) : State :=
  let hit := s.cores.flatMap fun (n, k) => k.combs.filterMap fun (m, x) => match x with | some y => if s.boundTo c y.tenant then some (n, m) else none | none => none
  let t := s
  let s := hit.foldl (fun s x => s.abortAll x.1 x.2) s
  let s := s.onContext c fun x => { x with keys := [], session := false, period := 0, lost := true }
  let s := hit.foldl (fun s x => s.onComb x.1 x.2 fun k => k.confLost c) s
  let saved := fun (x : Saved) => if t.boundTo c x.comb.tenant then { x with comb := (x.comb.abortSaved).confLost c } else x
  { s with cores := Tab.mapVals {} (fun _ k => { k with saved := k.saved.map saved }) s.cores }

/-- Whether a context has anything to lose: it is in RUN, or has a session (R431). -/
def Context.holds (x : Context) : Bool := x.state == .run || x.session

/-- CONTEXT_LOSS (R431): a context leaves RUN. -/
def execContextLoss (ctx : Nat) (s : State) : Host.Outcome State Fault Refusal :=
  next (if ctx < 64 ∧ (s.context ctx).holds then (s.loseContext ctx).onContext ctx fun x => { x with state := if x.state = .run then .error else x.state } else s)

/-- Whether a session has had no HEARTBEAT for twice its period (R431). -/
def State.spdmLate (s : State) (c : Nat) : Bool :=
  let x := s.context c
  x.session && x.period != 0 && decide (x.beat + 2 * x.period ≤ s.clock.gt)

/-- SPDM_HEARTBEAT_TIMEOUT (R431). -/
def execSpdmHeartbeatTimeout (ctx : Nat) (s : State) : Host.Outcome State Fault Refusal := next (if s.spdmLate ctx then s.loseContext ctx else s)

/-- KEY_SLOT_LOAD (R430): only through the context's session. -/
def execKeySlotLoad (ctx slot : Nat) (key : BitVec 256) (s : State) : Host.Outcome State Fault Refusal :=
  next (if ctx < 64 ∧ slot < 16 ∧ (s.context ctx).session then s.onContext ctx fun x => { x with keys := Tab.put none x.keys slot (some key) } else s)

/-- TDISP_REQUEST (R430): LOCK, START and STOP, and the error state. -/
def execTdispRequest (ctx : Nat) (req : TdispReq) (s : State) : Host.Outcome State Fault Refusal :=
  let x := s.context ctx
  let leave := fun (n : TdispState) => (if x.state = .run then s.loseContext ctx else s).onContext ctx fun y => { y with state := n }
  next (if ctx ≥ 64 then s
  else match req, x.state with
    | .lock, .configUnlocked => s.onContext ctx fun y => { y with state := .configLocked, lost := false }
    | .start, .configLocked => s.onContext ctx fun y => { y with state := .run }
    | .stop, _ => leave .configUnlocked
    | .error, _ => leave .error
    | _, _ => s)

/-- The measurements of the firmware stages verified, which are signed with the device identity key (R451). -/
def State.measurements (s : State) : List Byte := (List.range s.sec.measured).flatMap fun k => Config.measurement (k + 1)

/-- SPDM_REQUEST (R430, R431, R451): after the identity key is erased attestation fails (R433). -/
def execSpdmRequest (ctx : Nat) (req : SpdmReq) (s : State) : Host.Outcome State Fault Refusal :=
  let x := s.context ctx
  next (if ctx ≥ 64 then s
  else match req with
    | .establish p => if s.sec.erased then s else s.onContext ctx fun y => { y with session := true, period := p, beat := s.clock.gt }
    | .heartbeat => if x.session then s.onContext ctx fun y => { y with beat := s.clock.gt } else s
    | .endSession => if x.session then s.loseContext ctx else s
    | .getMeasurements => if s.sec.erased then s else { s with sec := { s.sec with attested := Config.sign s.measurements :: s.sec.attested } })

/-! The security alarm (R433). -/

/-- The sources of the alarm: bit of SECSTAT. -/
inductive Alarm | tamper | glitch | debug
  deriving DecidableEq, Repr

/-- The bit of SECSTAT of a source. -/
def Alarm.bit : Alarm → Nat | .tamper => 0 | .glitch => 1 | .debug => 2

/-- The action that SECPOL gives a source (R433). -/
def Security.action (x : Security) : Alarm → Nat | .tamper => x.tmpa | .glitch => x.glta | .debug => x.dbga

/-- Every context lost and every session key erased (R433). -/
def State.eraseKeys (s : State) : State := (List.range 64).foldl State.loseContext s

/-- An alarm raised (R433, R454). -/
def State.alarm (s : State) (a : Alarm) : State :=
  let act := s.sec.action a
  let s := ({ s with sec := { s.sec with status := s.sec.status ||| 2 ^ a.bit } }).count 9 1
  let s := if act = 1 ∨ act = 2 then s.eraseKeys else s
  if act = 2 then { s with sec := { s.sec with erased := true, stopAll := true } } else s

/-- TAMPER_ALARM (R433). -/
def execTamperAlarm (s : State) : Host.Outcome State Fault Refusal := next (s.alarm .tamper)

/-- GLITCH_ALARM (R433). -/
def execGlitchAlarm (s : State) : Host.Outcome State Fault Refusal := next (s.alarm .glitch)

/-! The debug block (R421). -/

/-- A stop entry freed. -/
def State.freeStopEntry (s : State) (k : Nat) : State := { s with mgmt := { s.mgmt with stops := Tab.put none s.mgmt.stops k none } }

/-- A command has ended: DBGSTAT.ERR, and BUSY no more for it (R421). -/
def State.dbgResult (s : State) (op entry : Nat) (err : Bool) : State :=
  { s with mgmt := { s.mgmt with dbgErr := err, dbgBusy := s.mgmt.dbgBusy.erase (op, entry) } }

/-- A command that cannot act yet goes on running: DBGSTAT.BUSY (R421). -/
def State.dbgWait (s : State) (op entry : Nat) : State :=
  (if s.mgmt.dbgBusy.contains (op, entry) then s else { s with mgmt := { s.mgmt with dbgBusy := (op, entry) :: s.mgmt.dbgBusy } }).again false

/-- A stopped strand resumed past its BRK (R421). -/
def State.resumeStop (s : State) (k : Nat) : State :=
  match Tab.get none s.mgmt.stops k with
  | none => s
  | some x =>
    (s.freeStopEntry k).onStrand x.who fun st =>
      (({ st with sched := { st.sched with stopped := false } }).move (x.mask &&& st.live) fun _ => BitVec.ofNat 57 (x.pc + x.len)).account st s.clock.cycle

/-- A command on a stop entry: a debug-lock violation while debug is locked, but for one that runs already; ERR for an entry that is not valid (R421, R433). -/
def State.onStop (s : State) (op k : Nat) (f : StopEntry → State) : State :=
  if s.mgmt.dbgLock && !s.mgmt.dbgBusy.contains (op, k) then s.alarm .debug
  else match (if k < 64 then Tab.get none s.mgmt.stops k else none) with
    | none => s.dbgResult op k true
    | some x => f x

/-- RESUME (R421). -/
def State.dbgRun (s : State) (entry : Nat) : State := s.onStop 1 entry fun _ => (s.resumeStop entry).dbgResult 1 entry false

/-- DBG_RESUME (R421). -/
def execDbgResume (entry : Nat) (s : State) : Host.Outcome State Fault Refusal := next (s.fromHost fun s => s.dbgRun entry)

/-- DELIVER (R421): entry waits for pending tokens and atomics (R414). -/
def State.dbgTrap (s : State) (entry : Nat) : State :=
  s.onStop 2 entry fun x =>
    if !(s.strand x.who).entryFree then s.dbgWait 2 entry
    else
      let s := (s.freeStopEntry entry).onStrand x.who fun st => { st with sched := { st.sched with stopped := false } }
      (s.takeTrap x.who Cause.brk.code (zx64 x.code) (BitVec.ofNat 57 x.pc) x.mask false).dbgResult 2 entry false

/-- DBG_DELIVER (R421). -/
def execDbgDeliver (entry : Nat) (s : State) : Host.Outcome State Fault Refusal := next (s.fromHost fun s => s.dbgTrap entry)

/-- Whether an image of `n` registers at a PA lies in device memory, aligned (R421). -/
def imagePlace (pa n : Nat) : Bool := pa % 64 == 0 && isDevice (pa + imageSize n - 1)

/-- The lines of an image at a PA. -/
def imageLines (pa n : Nat) : List Nat := (List.range (ceilDiv (imageSize n) 64)).map fun k => pa + 64 * k

/-- SAVE (R421): its lines are waited for (R482), and the strand's pending writes. -/
def State.dbgStore (s : State) (entry : Nat) : State :=
  s.onStop 3 entry fun x =>
    let st := s.strand x.who
    let pa := s.mgmt.dbgArg
    if !imagePlace pa st.sp.n then s.dbgResult 3 entry true
    else
      let waits := (imageLines pa st.sp.n).filter fun l => !s.agentReady l
      if !waits.isEmpty || st.imagePending then (waits.foldl State.fetchLine s).dbgWait 3 entry
      else ((List.range (imageSize st.sp.n / 32)).foldl (fun s k => s.homeStore (pa + 32 * k) 32 (st.imageSector k)) s).dbgResult 3 entry false

/-- DBG_SAVE (R421). -/
def execDbgSave (entry : Nat) (s : State) : Host.Outcome State Fault Refusal := next (s.fromHost fun s => s.dbgStore entry)

/-- LOAD (R421): the checks and effects of R425; a failing check sets ERR. The strand's pending writes come first. -/
def State.dbgFetch (s : State) (entry : Nat) : State :=
  s.onStop 4 entry fun x =>
    let st := s.strand x.who
    let pa := s.mgmt.dbgArg
    if !imagePlace pa st.sp.n then s.dbgResult 4 entry true
    else
      let waits := (imageLines pa st.sp.n).filter fun l => !s.agentReady l
      if !waits.isEmpty || st.imagePending then (waits.foldl State.fetchLine s).dbgWait 4 entry
      else
        let s := (imageLines pa st.sp.n).foldl State.atHome s
        let m := s.readImage ((List.range (imageSize st.sp.n / 32)).map fun k => (pa + 32 * k, pa + 32 * k)) fun _ p => Mem.read s.memory.mem p 32
        match m.firstBad st with
        | some _ => s.dbgResult 4 entry true
        | none => (s.onStrand x.who fun st => st.loadImage m).dbgResult 4 entry false

/-- DBG_LOAD (R421). -/
def execDbgLoad (entry : Nat) (s : State) : Host.Outcome State Fault Refusal := next (s.fromHost fun s => s.dbgFetch entry)

/-- Every stopped strand resumed (R421). -/
def State.resumeStops (s : State) : State := (Tab.keys s.mgmt.stops).foldl State.resumeStop s

/-- A write of DBGATT (R421). -/
def State.writeDbgatt (s : State) (value : Dbl) : State :=
  if s.mgmt.dbgLock then s.alarm .debug
  else
    let att := bit value.toNat 63
    let s := { s with mgmt := { s.mgmt with dbgAtt := att, dbgTenant := value.setWidth 16 } }
    if att then s else s.resumeStops

/-- DBGATT_WRITE (R421). -/
def execDbgattWrite (value : Dbl) (s : State) : Host.Outcome State Fault Refusal := next (s.fromHost fun s => s.writeDbgatt value)

/-- DBGCTL.LOCK set (R421, R441): ATT is cleared, as a write of ATT = 0 clears it. -/
def State.lockDebug (s : State) : State := ({ s with mgmt := { s.mgmt with dbgLock := true, dbgAtt := false } }).resumeStops

/-- DBGCTL_LOCK_WRITE (R421). -/
def execDbgctlLockWrite (s : State) : Host.Outcome State Fault Refusal := next (s.fromHost State.lockDebug)

end Sys2Proof.Machine
end

