-- ==== Sys2Proof/Machine/Host.lean ====
section
/-! DEFINITION. The host links, the management space, the application and drone cores, and device care (ch. 20). -/

namespace Sys2Proof.Machine
open Sys2Proof

/-! CXL.mem, SYNC and doorbells (R435 to R437). -/

/-- A completion returned to the host. -/
def State.answer (s : State) (x : HostAnswer) : State := { s with host := { s.host with answers := s.host.answers ++ [x] } }

/-- HOST_CXL_MEM_ACCESS (R435): performed at the home; an access to an extent that is not served is answered with poison and drops its data; a write is absorbed once its completion time has passed. -/
def execHostCxlMemAccess (write : Bool) (pa size value : Nat) (s : State) : Host.Outcome State Fault Refusal :=
  next (s.fromHost fun s =>
    let line := lineOf pa
    if size = 0 ∨ pa % 64 + size > 64 ∨ !isDevice pa then s
    else if (s.serve pa write).isSome then s.answer { pa := pa, data := 0, poison := true }
    else if s.homeWaits line then (s.fetchLine line).again true
    else
      let s := (s.atHome line).countAccess line
      if write then
        let s := s.homeWrite pa size value
        { s with host := { s.host with pending := s.host.pending ++ [s.completion line] } }.answer { pa := pa, data := 0, poison := false }
      else s.answer { pa := pa, data := Mem.read s.memory.mem pa size, poison := s.linePoison line })

/-- Whether GT has passed the completion times of every host write performed so far, and the die-0 slice has applied every CXL.cache snoop that has come (R435). -/
def State.absorbed (s : State) : Bool := (s.host.pending.all fun t => decide (t < s.clock.gt)) && !s.memory.snoops.any fun x => isHost x.line

/-- A PCIe write that takes effect once the earlier CXL.mem requests and CXL.cache messages are absorbed (R436, R437). -/
def State.afterAbsorption (s : State) (f : State → State) : State :=
  s.fromHost fun s => if s.absorbed then f { s with host := { s.host with pending := [] } } else s.again true

/-- SYNC_WRITE (R436). -/
def execSyncWrite (v : Word) (s : State) : Host.Outcome State Fault Refusal :=
  next (s.afterAbsorption fun s => { s with host := { s.host with sync := v } })

/-- DOORBELL_NOTIFY (R437). -/
def execDoorbellNotify (reg : Nat) (s : State) : Host.Outcome State Fault Refusal :=
  next (s.afterAbsorption fun s => if reg < 256 then s.bump reg else s)

/-- A read of BAR2 (R436, R437), by one that the module answers. -/
def State.doorbellRead (s : State) (off : Nat) : Dbl :=
  if 0x1000 ≤ off ∧ off < 0x1800 ∧ off % 8 = 0 then zx64 (s.notifyOf ((off - 0x1000) / 8)).seq else 0

/-! The registers of the management space (R439 to R441). -/

/-- A register of the management space (R439, R440). -/
inductive MReg
  | devstat | corestat (k : Nat) | tdbase | dbgctl | cmd | cmdarg (k : Nat) | cmdstat | hlogtail
  | hlog (t j : Nat) | wtbase | dbgatt | dbgcmd | dbgarg | dbgstat | stop (e j : Nat)
  | qctl (q : Nat) | qbase (q : Nat)
  | fqbase (d : Nat) | fqctl (d : Nat) | fqtail (d : Nat) | fqhead (d : Nat) | fqres0 (d : Nat) | fqres1 (d : Nat)
  | tierctl (d : Nat) | pinmax (d : Nat) | lendmax (d : Nat)
  | accctl | acclim | acccmd | accstat | secpol | secstat
  | dqctl (q : Nat) | dqbase (q : Nat) | binding (n : Nat)
  | bwctl (c : Nat) | bwt (c k : Nat) | slice (c e j : Nat) | slcmd (c : Nat)
  | route (n : Nat) | window (n j : Nat) | lease (n j : Nat) | life (i : Nat) | bins (i : Nat)
  deriving DecidableEq, Repr

/-- The global registers (R441). -/
def globalReg (o : Nat) : Option MReg :=
  match o with
  | 0x08 => some .devstat
  | 0x10 => some (.corestat 0)
  | 0x18 => some (.corestat 1)
  | 0x20 => some (.corestat 2)
  | 0x28 => some .tdbase
  | 0x38 => some .dbgctl
  | 0x80 => some .cmd
  | 0x88 => some (.cmdarg 0)
  | 0x90 => some (.cmdarg 1)
  | 0x98 => some .cmdstat
  | 0xA0 => some .hlogtail
  | _ => none

/-- The debug block (R421). -/
def debugReg (o : Nat) : Option MReg :=
  match o with
  | 0x00 => some .dbgatt
  | 0x08 => some .dbgcmd
  | 0x10 => some .dbgarg
  | 0x18 => some .dbgstat
  | _ => if 0x100 ≤ o ∧ o < 0x900 then some (.stop ((o - 0x100) / 32) ((o - 0x100) / 8 % 4)) else none

/-- A pager register block (R351, R440). -/
def pagerReg (d o : Nat) : Option MReg :=
  match o with
  | 0x00 => some (.fqbase d)
  | 0x08 => some (.fqctl d)
  | 0x10 => some (.fqtail d)
  | 0x18 => some (.fqhead d)
  | 0x20 => some (.fqres0 d)
  | 0x28 => some (.fqres1 d)
  | 0x30 => some (.tierctl d)
  | 0x38 => some (.pinmax d)
  | 0x40 => some (.lendmax d)
  | _ => none

/-- The registers of a package core: its share registers and its slice table (R339, R367, R440). -/
def coreReg (c o : Nat) : Option MReg :=
  if o = 0 then some (.bwctl c)
  else if 0x08 ≤ o ∧ o < 0x48 then some (.bwt c ((o - 0x08) / 8))
  else if 0x100 ≤ o ∧ o < 0x180 then some (.slice c ((o - 0x100) / 16) (o / 8 % 2))
  else if o = 0x180 then some (.slcmd c)
  else none

/-- The register at an 8-byte aligned offset of BAR0; a reserved offset holds none (R439, R440). -/
def regAt (o : Nat) : Option MReg :=
  if o < 0x1000 then globalReg o
  else if o < 0x5000 then some (.hlog ((o - 0x1000) / 64) (o / 8 % 8))
  else if o < 0x8000 then none
  else if o < 0x9000 then (if o = 0x8000 then some .wtbase else none)
  else if o < 0xA000 then debugReg (o - 0x9000)
  else if o < 0x20000 then none
  else if o < 0x20400 then some (if o / 8 % 2 = 0 then .qctl ((o - 0x20000) / 16) else .qbase ((o - 0x20000) / 16))
  else if o < 0x30000 then none
  else if o < 0x32000 then pagerReg ((o - 0x30000) / 4096) (o % 4096)
  else if o = 0x40000 then some .accctl
  else if o = 0x40008 then some .acclim
  else if o = 0x40010 then some .acccmd
  else if o = 0x40018 then some .accstat
  else if o = 0x50000 then some .secpol
  else if o = 0x50008 then some .secstat
  else if o < 0x60000 then none
  else if o < 0x61000 then some (if o / 8 % 2 = 0 then .dqctl ((o - 0x60000) / 16) else .dqbase ((o - 0x60000) / 16))
  else if o < 0x70000 then none
  else if o < 0x70800 then some (.binding ((o - 0x70000) / 8))
  else if o < 0x80000 then none
  else if o < 0xA4000 then coreReg ((o - 0x80000) / 1024) (o % 1024)
  else if o < 0x100000 then none
  else if o < 0x100000 + 7944 then some (.route ((o - 0x100000) / 8))
  else if o < 0x120000 then none
  else if o < 0x120800 then some (.window ((o - 0x120000) / 32) (o / 8 % 4))
  else if o < 0x200000 then none
  else if o < 0x240000 then some (.lease ((o - 0x200000) / 32) (o / 8 % 4))
  else if o < 0x400000 then none
  else if o < 0x400200 then some (.life ((o - 0x400000) / 8))
  else if o < 0x400A00 then some (.bins ((o - 0x400200) / 8))
  else none

/-- A field of a register as the bits that it takes. -/
def fld (hi lo : Nat) : Nat := (2 ^ (hi + 1 - lo) - 1) * 2 ^ lo

/-- The bits of a register that a write can act on: its RW, WO and W1C fields. -/
def MReg.writable : MReg → Nat
  | .tdbase => fld 51 6
  | .dbgctl => 1
  | .cmd => fld 7 0
  | .cmdarg _ => fld 63 0
  | .wtbase => fld 51 12
  | .dbgatt => fld 63 63 + fld 15 0
  | .dbgcmd => fld 13 0
  | .dbgarg => fld 51 0
  | .qctl _ => fld 63 63 + fld 47 32 + fld 25 24 + fld 4 0
  | .qbase _ => fld 51 0
  | .fqbase _ => fld 51 0
  | .fqctl _ => fld 63 63 + fld 4 0
  | .fqhead _ => fld 31 0
  | .fqres0 _ => fld 63 0
  | .fqres1 _ => fld 31 24 + fld 21 20 + fld 17 0
  | .tierctl _ => fld 3 0
  | .pinmax _ => fld 31 0
  | .lendmax _ => fld 31 0
  | .accctl => fld 63 63 + fld 47 32 + fld 9 0
  | .acclim => fld 27 16 + fld 11 0
  | .acccmd => fld 63 62 + fld 9 0
  | .secpol => fld 63 63 + fld 5 0
  | .secstat => fld 2 0
  | .dqctl _ => fld 63 12 + fld 4 0
  | .dqbase _ => fld 56 0
  | .binding _ => fld 63 63 + fld 15 0
  | .bwctl _ => fld 63 63 + fld 7 0
  | .bwt _ _ => fld 63 63 + fld 23 0
  | .slice _ _ j => if j = 0 then fld 63 63 + fld 15 0 else fld 31 0
  | .slcmd _ => 1
  | .route _ => fld 63 57 + fld 49 10
  | .window _ j => match j with | 0 => fld 63 60 + fld 47 16 | 1 => fld 56 16 | 2 => fld 31 0 | _ => 0
  | .devstat | .corestat _ | .cmdstat | .hlogtail | .hlog _ _ | .dbgstat | .stop _ _ | .fqtail _ | .accstat | .lease _ _ | .life _ | .bins _ => 0

/-- The cores removed, of every kind (R441, R453). -/
def State.removals (s : State) : Nat := s.mgmt.removed.length + s.mgmt.removedDrones.length + s.mgmt.removedApps.length

/-- DEVSTAT (R441). -/
def State.devstat (s : State) : Nat := b2n s.mgmt.ready * 2 ^ 63 + b2n s.mgmt.rplreq * 2 ^ 62 + min 255 s.removals

/-- CORESTAT0 to 2 (R441). -/
def State.corestat (s : State) (k : Nat) : Nat := (List.range 64).foldl (fun v i => v + b2n (s.mgmt.removed.contains (64 * k + i)) * 2 ^ i) 0

/-- QCTL (R320). -/
def Queue.ctl (q : Queue) : Nat := b2n q.en * 2 ^ 63 + q.tenant.toNat * 2 ^ 32 + q.dies * 2 ^ 24 + q.logcap

/-- DQCTL (R448). -/
def DroneQueue.ctl (q : DroneQueue) : Nat :=
  b2n q.en * 2 ^ 63 + b2n q.ien * 2 ^ 62 + q.drone * 2 ^ 56 + q.svc * 2 ^ 52 + q.tenant.toNat * 2 ^ 36 + q.ften * 2 ^ 20 + q.nreg * 2 ^ 12 + q.logcap

/-- A double of a stop entry (R421). -/
def StopEntry.double (x : StopEntry) : Nat → Nat
  | 0 => 2 ^ 63 + x.tenant.toNat * 2 ^ 32 + x.who.core * 2 ^ 16 + x.who.slot * 2 ^ 8 + x.who.strand
  | 1 => x.pc
  | 2 => x.code.toNat
  | _ => x.mask.toNat

/-- A double of a lease table entry (R343); BASE and BOFF stand at their places, in units of 2 MiB. -/
def leaseDouble (l : Sys2Proof.Lease) (gt : Nat) : Nat → Nat
  | 0 => leaseKindCode l.kind * 2 ^ 62 + leaseStateCode (Lease.stateAt l gt) * 2 ^ 59 + l.node * 2 ^ 32 + l.size
  | 1 => l.base * 2 ^ 21
  | 2 => l.boff * 2 ^ 21
  | _ => l.expiry

/-- A route table entry (R373). -/
def Route.double (r : Route) : Nat :=
  b2n r.valid * 2 ^ 63 + b2n r.direct * 2 ^ 62 + r.minp * 2 ^ 57 + r.i3 * 2 ^ 40 + r.i2 * 2 ^ 30 + r.i1 * 2 ^ 20 + r.i0 * 2 ^ 10

/-- A double of a window table entry (R377). -/
def Window.double (x : Window) : Nat → Nat
  | 0 => b2n x.valid * 2 ^ 63 + b2n x.r * 2 ^ 62 + b2n x.w * 2 ^ 61 + b2n x.a * 2 ^ 60 + x.tenant.toNat * 2 ^ 32 + x.srct * 2 ^ 16
  | 1 => x.vbase * 2 ^ 16
  | 2 => x.len
  | _ => 0

/-- What a register reads (R439 to R441 and the tables of its region); a write-only register reads 0 (R3). -/
def State.readMgmt (s : State) (r : MReg) : Nat :=
  let m := s.mgmt
  match r with
  | .devstat => s.devstat
  | .corestat k => s.corestat k
  | .tdbase => m.tdbase
  | .dbgctl => b2n m.dbgLock
  | .cmd => 0
  | .cmdarg k => (if k = 0 then m.arg0 else m.arg1).toNat
  | .cmdstat => b2n m.command.isSome * 2 ^ 63 + b2n m.cmdErr * 2 ^ 62
  | .hlogtail => m.hlogTail % 2 ^ 32
  | .hlog t j => (Tab.get [] m.haltLog t).getD j 0
  | .wtbase => s.service.wtbase
  | .dbgatt => b2n m.dbgAtt * 2 ^ 63 + m.dbgTenant.toNat
  | .dbgcmd => 0
  | .dbgarg => m.dbgArg
  | .dbgstat => b2n (!m.dbgBusy.isEmpty) * 2 ^ 63 + b2n m.dbgErr * 2 ^ 62 + (m.stops.filter fun x => x.2.isSome).length
  | .stop e j => match Tab.get none m.stops e with | some x => x.double j | none => 0
  | .qctl q => (s.queue q).ctl
  | .qbase q => (s.queue q).base
  | .fqbase d => (s.pager d).fqbase.toNat
  | .fqctl d => b2n (s.pager d).en * 2 ^ 63 + (s.pager d).logn
  | .fqtail d => (s.pager d).tail.toNat
  | .fqhead d => (s.pager d).head.toNat
  | .fqres0 d => (s.pager d).key.toNat
  | .fqres1 _ => 0
  | .tierctl d => (s.pager d).dshift
  | .pinmax d => (s.pager d).pinmax.toNat
  | .lendmax d => (s.pager d).lendmax.toNat
  | .accctl => s.accord.ctl.toNat
  | .acclim => s.accord.lim.toNat
  | .acccmd => 0
  | .accstat => s.accord.stat.toNat
  | .secpol => b2n s.sec.lock * 2 ^ 63 + s.sec.dbga * 16 + s.sec.glta * 4 + s.sec.tmpa
  | .secstat => s.sec.status
  | .dqctl q => (s.drone q).ctl
  | .dqbase q => (s.drone q).base
  | .binding n => (s.notifyOf n).binding.toNat
  | .bwctl c => b2n (s.core c).shares.en * 2 ^ 63 + (s.core c).shares.defw
  | .bwt c k => (Tab.get 0 (s.core c).shares.bwt k).toNat
  | .slice c e j =>
    let x : SliceEntry := Tab.get {} (s.core c).slices e
    if j = 0 then b2n x.valid * 2 ^ 63 + x.tenant.toNat else x.length
  | .slcmd _ => 0
  | .route n => (s.route n).double
  | .window n j => (s.window n).double j
  | .lease n j => match s.lease? n with | some l => leaseDouble l s.clock.gt j | none => 0
  | .life i => if i < 16 then Tab.get 0 s.life.counters i % 2 ^ 64 else 0
  | .bins i => Tab.get 0 s.life.bins (2 * i) % 2 ^ 32 + Tab.get 0 s.life.bins (2 * i + 1) % 2 ^ 32 * 2 ^ 32

/-- A write of QCTL (R320). -/
def Queue.setCtl (q : Queue) (v : Nat) : Queue :=
  if bits v 4 0 < 6 ∨ 20 < bits v 4 0 then q
  else if q.en then { q with en := bit v 63 }
  else { q with en := bit v 63, tenant := BitVec.ofNat 16 (bits v 47 32), dies := bits v 25 24, logcap := bits v 4 0 }

/-- A write of DQCTL (R448): a queue bound to a removed drone core stays refused (R453). -/
def DroneQueue.setCtl (q : DroneQueue) (v : Nat) (gone : List Nat) : DroneQueue :=
  if bits v 4 0 < 4 ∨ 16 < bits v 4 0 then q
  else if q.en then { q with en := bit v 63 }
  else
    let d := bits v 61 56
    { q with
      en := bit v 63, ien := bit v 62, drone := d, svc := bits v 55 52, tenant := BitVec.ofNat 16 (bits v 51 36), ften := bits v 35 20,
      nreg := bits v 19 12, logcap := bits v 4 0, orphan := gone.contains d || decide (d > 47) }

/-- A write of FQCTL (R351): FQTAIL counts from the write that sets EN. -/
def Pager.setCtl (p : Pager) (v : Nat) : Pager :=
  if bits v 4 0 < 6 ∨ 16 < bits v 4 0 then p
  else { p with en := bit v 63, logn := bits v 4 0, tail := if bit v 63 && !p.en then 0 else p.tail }

/-- A write of SECPOL (R433): an action of 11 leaves its field. -/
def Security.setPolicy (x : Security) (v : Nat) : Security :=
  let put := fun (old new : Nat) => if new = 3 then old else new
  if x.lock then x else { x with lock := bit v 63, dbga := put x.dbga (bits v 5 4), glta := put x.glta (bits v 3 2), tmpa := put x.tmpa (bits v 1 0) }

/-- The device-memory or host-memory lines of a 64 KiB buffer. -/
def summaryBuffer (pa : Nat) : Bool := pa % 65536 == 0 && (isDevice pa || isHost pa)

/-- Whether the operands of a management command are in range (R442). -/
def commandOk (op a0 a1 : Nat) : Bool :=
  match op with
  | 1 => summaryBuffer a0
  | 2 => decide (a0 < 65536) && decide (a1 < 2 ^ 57)
  | 3 => decide (a0 ≤ 143)
  | 4 => true
  | _ => false

/-- A write of CMD at the GT `t` (R442): ignored while BUSY; an unlisted OP or an operand out of range sets ERR. -/
def Mgmt.setCommand (m : Mgmt) (op t : Nat) : Mgmt :=
  if m.command.isSome then m
  else if commandOk op m.arg0.toNat m.arg1.toNat then { m with command := some op, op0 := m.arg0, op1 := m.arg1, cmdAt := t, cmdDone := false }
  else { m with cmdErr := true }

/-- A command of the debug block (R421); an unlisted OP sets ERR. -/
def State.debugCommand (s : State) (op entry : Nat) : State :=
  match op with
  | 1 => s.dbgRun entry
  | 2 => s.dbgTrap entry
  | 3 => s.dbgStore entry
  | 4 => s.dbgFetch entry
  | _ => if s.mgmt.dbgLock then s.alarm .debug else s.dbgResult op entry true

/-- A double of a window table entry written (R377). -/
def Window.setDouble (x : Window) (j v : Nat) : Window :=
  match j with
  | 0 => { x with valid := bit v 63, r := bit v 62, w := bit v 61, a := bit v 60, tenant := BitVec.ofNat 16 (bits v 47 32), srct := bits v 31 16 }
  | 1 => { x with vbase := bits v 56 16 }
  | 2 => { x with len := bits v 31 0 }
  | _ => x

/-- The buckets in the period `n`: in one that began while EN was 0 nothing waited, so every bucket is empty (R367, R369, log entry 109). -/
def Shares.idlePeriod (h : Shares) (n : Nat) : Shares := if !h.en && decide (h.filled < n) then { h with buckets := [], filled := n } else h

/-- A double of a slice table entry written (R339). -/
def SliceEntry.setDouble (x : SliceEntry) (j v : Nat) : SliceEntry :=
  if j = 0 then { x with valid := bit v 63, tenant := BitVec.ofNat 16 (bits v 15 0) } else { x with length := bits v 31 0 }

/-- What a write of the value `v` to a register does; its reserved bits are 0. -/
def State.writeMgmt (s : State) (r : MReg) (v : Nat) : State :=
  let d := BitVec.ofNat 64 v
  let onM := fun (f : Mgmt → Mgmt) => { s with mgmt := f s.mgmt }
  match r with
  | .tdbase => onM fun m => { m with tdbase := v }
  | .dbgctl => if v = 1 then s.lockDebug else s
  | .cmd => onM fun m => m.setCommand v s.clock.gt
  | .cmdarg k => onM fun m => if k = 0 then { m with arg0 := d } else { m with arg1 := d }
  | .wtbase => { s with service := { s.service with wtbase := v } }
  | .dbgatt => s.writeDbgatt d
  | .dbgcmd => s.debugCommand (bits v 7 0) (bits v 13 8)
  | .dbgarg => let s := if s.mgmt.dbgLock then s.alarm .debug else s
    { s with mgmt := { s.mgmt with dbgArg := v } }
  | .dbgstat | .stop _ _ => if s.mgmt.dbgLock then s.alarm .debug else s
  | .qctl q => s.onQueue q fun x => x.setCtl v
  | .qbase q => s.onQueue q fun x => if x.en then x else { x with base := v / 4096 * 4096 }
  | .fqbase k => s.onPager k fun p => { p with fqbase := BitVec.ofNat 64 (v / 4096 * 4096) }
  | .fqctl k => s.onPager k fun p => p.setCtl v
  | .fqhead k => s.onPager k fun p => { p with head := BitVec.ofNat 32 v }
  | .fqres0 k => s.onPager k fun p => { p with key := d }
  | .fqres1 k => s.resolve k d
  | .tierctl k => s.onPager k fun p => { p with dshift := v }
  | .pinmax k => (s.onPager k fun p => { p with pinmax := BitVec.ofNat 32 v }).trimPins k s.memory.pages.length
  | .lendmax k => s.onPager k fun p => { p with lendmax := BitVec.ofNat 32 v }
  | .accctl => s.writeAccctl d
  | .acclim =>
    let trip := bits v 27 16
    (s.onAccord fun a => if limitOk trip then { a with trip := trip } else a).writeLimit (bits v 11 0)
  | .acccmd => match bits v 63 62 with | 1 => s.beginJoin (bits v 9 0) | 2 => s.beginLeave | _ => s
  | .secpol => { s with sec := s.sec.setPolicy v }
  | .secstat => { s with sec := { s.sec with status := s.sec.status &&& (7 - v) } }
  | .dqctl q => s.onDrone q fun x => x.setCtl v s.mgmt.removedDrones
  | .dqbase q => s.onDrone q fun x => if x.en then x else { x with base := v }
  | .binding n => s.onNotify n fun x => { x with binding := d }
  | .bwctl c => s.onCore c fun k => { k with shares := { (k.shares.idlePeriod (s.clock.cycle / 1024)) with en := bit v 63, defw := bits v 7 0 } }
  | .bwt c j => s.onCore c fun k => { k with shares := { k.shares with bwt := Tab.put 0 k.shares.bwt j d } }
  | .slice c e j => s.onCore c fun k => { k with slices := Tab.put {} k.slices e ((Tab.get {} k.slices e : SliceEntry).setDouble j v) }
  | .slcmd c => if v = 1 then s.endSlice c else s
  | .route n =>
    let x : Route := { valid := bit v 63, direct := bit v 62, minp := bits v 61 57, i3 := bits v 49 40, i2 := bits v 39 30, i1 := bits v 29 20, i0 := bits v 19 10 }
    { s with fabric := { s.fabric with routes := Tab.put {} s.fabric.routes n x } }
  | .window n j => { s with fabric := { s.fabric with windows := Tab.put {} s.fabric.windows n ((s.window n).setDouble j v) } }
  | .devstat | .corestat _ | .cmdstat | .hlogtail | .hlog _ _ | .fqtail _ | .accstat | .lease _ _ | .life _ | .bins _ => s

/-- The low and the high half of a double. -/
def halfMask (high : Bool) : Nat := if high then (2 ^ 32 - 1) * 2 ^ 32 else 2 ^ 32 - 1

/-- Whether a half of a register holds only reserved bits, and read-only fields outside the debug block: a 4-byte write to it has no effect (R440); one to a read-only field of the debug block is a debug access (R433). -/
def MReg.inert (r : MReg) (high : Bool) : Bool :=
  r.writable &&& halfMask high == 0 && (match r with | .dbgstat => false | .stop _ j => j == 3 && high | _ => true)

/-- A write to the debug block that names no register: a violation while debug is locked (R433). -/
def State.debugAccess (s : State) (off : Nat) : State := if 0x9000 ≤ off ∧ off < 0xA000 ∧ s.mgmt.dbgLock then s.alarm .debug else s

/-- A host or executive write to the management space (R440): an aligned 8-byte write, or an aligned 4-byte write merged with the other half as the register reads. -/
def State.mgmtWrite (s : State) (off size : Nat) (value : Dbl) : State :=
  let high := off % 8 == 4
  if !(size = 8 ∧ off % 8 = 0 ∨ size = 4 ∧ off % 4 = 0) then s
  else match regAt (off / 8 * 8) with
    | none => s.debugAccess off
    | some r =>
      if size = 8 then s.writeMgmt r (value.toNat &&& r.writable)
      else if r.inert high then s
      else
        let new := value.toNat % 2 ^ 32 * (if high then 2 ^ 32 else 1)
        s.writeMgmt r (((s.readMgmt r &&& halfMask (!high)) ||| new) &&& r.writable)

/-- MGMT_REGISTER_WRITE (R440). -/
def execMgmtRegisterWrite (off size : Nat) (value : Dbl) (s : State) : Host.Outcome State Fault Refusal :=
  next (s.fromHost fun s => s.mgmtWrite off size value)

/-- A host read of the management space (R440). -/
def State.mgmtRead (s : State) (off size : Nat) : Dbl :=
  if !(size = 8 ∧ off % 8 = 0 ∨ size = 4 ∧ off % 4 = 0) then 0
  else match regAt (off / 8 * 8) with
    | none => 0
    | some r => BitVec.ofNat 64 (if size = 8 then s.readMgmt r else s.readMgmt r / 2 ^ (8 * (off % 8)) % 2 ^ 32)

/-- What the module answers to a host read of the management space or of BAR2: nothing in recovery (R451). -/
def State.hostRead (s : State) (bar2 : Bool) (off size : Nat) : Option Dbl :=
  if s.mgmt.recovery then none else some (if bar2 then s.doorbellRead off else s.mgmtRead off size)

/-! Management commands (R442, R443, R453). -/

/-- Whether command `op` runs and has not had its effect. -/
def State.runs (s : State) (op : Nat) : Bool := s.mgmt.command == some op && !s.mgmt.cmdDone

/-- The lines of the buffer of a SUMMARY (R443). -/
def State.summaryLines (s : State) : List Nat := (List.range 274).map fun k => s.mgmt.op0.toNat + 64 * k

/-- Whether what the running command has written has reached its system-scope terms (R438). -/
def State.commandSettled (s : State) : Bool :=
  s.mgmt.command != some 1 || (decide (s.mgmt.cmdTerm < s.clock.gt) && !s.summaryLines.any s.isDirty)

/-- What falls due for the running command: INVAL finishes within 20 µs (R442), and SUMMARY within 5 ms where its buffer can be written (R443, R455). -/
def State.commandDue (s : State) : List Instr :=
  let m := s.mgmt
  let late := fun (t : Nat) (i : Instr) => if m.cmdAt + t ≤ s.clock.gt then [if m.cmdDone then .mgmtCommandComplete else i] else []
  match m.command with
  | some 1 => if (if m.cmdDone then s.commandSettled else s.summaryLines.all s.agentReady) then late 5000000 .summary else []
  | some 2 => late 20000 .inval
  | _ => []

/-- The effect of the running command has come about. -/
def State.commandDone (s : State) : State := { s with mgmt := { s.mgmt with cmdDone := true } }

/-- MGMT_COMMAND_COMPLETE (R438, R442): BUSY and ERR clear, and the management interrupt is signalled, once the command's writes have reached their terms. -/
def execMgmtCommandComplete (s : State) : Host.Outcome State Fault Refusal :=
  next (if s.mgmt.command.isSome && s.mgmt.cmdDone && s.commandSettled then
    ({ s with mgmt := { s.mgmt with command := none, cmdDone := false, cmdErr := false } }).interrupt
  else s)

/-- The summary of a core (R443, log entry 50): offset, bytes and value of each item. -/
def State.coreSummary (s : State) (c : Nat) : List (Nat × Nat × Nat) :=
  let k := s.core c
  let at_ := 6208 + 64 * c
  let held := fun (n : Nat) => (k.saved.find? fun x => x.slot == n).map fun x => x.comb.tenant
  let mask := fun (p : Nat → Bool) => (List.range 16).foldl (fun v n => v + b2n (p n) * 2 ^ n) 0
  let tenant := fun (n : Nat) => match Tab.get none k.combs n with | some x => x.tenant.toNat | none => (match held n with | some t => t.toNat | none => 0)
  [(at_, 2, mask fun n => (Tab.get none k.combs n).isSome), (at_ + 2, 2, mask fun n => (held n).isSome)] ++
  ((List.range 16).map fun n => (at_ + 4 + 2 * n, 2, tenant n)) ++
  [(at_ + 36, 4, match k.slice with | some x => x.entry | none => Config.idleSlice s.clock.turn % 2 ^ 32),
   (at_ + 40, 4, b2n (s.mgmt.removed.contains c))]

/-- The items of the state summary (R443). -/
def State.summaryItems (s : State) : List (Nat × Nat × Nat) :=
  let queue := fun (q : Nat) =>
    let x := s.queue q
    (64 + 32 * q, 8, x.ctl) :: (((List.range 4).map fun l => (72 + 32 * q + 4 * l, 4, (x.level l).length)) ++ [(88 + 32 * q, 4, x.last)])
  let swarm := fun (k : Nat) =>
    let x : Swarm := Tab.get {} s.sched.swarms k
    if x.used then [(2112 + 16 * k, 8, x.desc), (2120 + 16 * k, 4, x.oldest), (2124 + 16 * k, 4, x.n)]
    else [(2112 + 16 * k, 8, 0), (2120 + 16 * k, 8, 0)]
  let notify := fun (n : Nat) => [(15424 + 8 * n, 4, (s.notifyOf n).seq.toNat), (15428 + 8 * n, 4, (s.notifyOf n).parked.length)]
  let die := fun (d : Nat) =>
    let open_ := (s.tiers.batches.filter fun b => b.die == d && !b.resolved).length
    [(17472 + 16 * d, 4, (s.pager d).tail.toNat), (17476 + 16 * d, 4, (s.pager d).head.toNat), (17480 + 16 * d, 4, open_)]
  [(0, 8, 0x4A400001), (8, 8, s.clock.gt), (16, 8, s.devstat), (24, 8, s.corestat 0), (32, 8, s.corestat 1), (40, 8, s.corestat 2)] ++
  (List.range 64).flatMap queue ++ (List.range 256).flatMap swarm ++ (List.range 144).flatMap s.coreSummary ++
  (List.range 256).flatMap notify ++ (List.range 2).flatMap die

/-- SUMMARY (R443): the items of one instant, once the lines of the buffer can be written (R482). -/
def execSummary (s : State) : Host.Outcome State Fault Refusal :=
  next (if !s.runs 1 then s
  else
    let pa := s.mgmt.op0.toNat
    let waits := s.summaryLines.filter fun l => !s.agentReady l
    if !waits.isEmpty then waits.foldl State.fetchLine s
    else
      let t := s.summaryItems.foldl (fun t x => t.homeStore (pa + x.1) x.2.1 x.2.2) s
      let term := (s.summaryLines.map t.completion).foldl max 0
      ({ t with mgmt := { t.mgmt with cmdTerm := term } }).commandDone)

/-- INVAL (R429, R442): the cached descriptor and translations of the tenant go, or those of one page. -/
def execInval (s : State) : Host.Outcome State Fault Refusal :=
  next (if !s.runs 2 then s
  else
    let t := s.mgmt.op0.setWidth 16
    let va := s.mgmt.op1.toNat
    let hit := fun (x : TlbSlot) => let e := x.entry; e.tenant == t && (va == 0 || (decide (e.va ≤ va) && decide (va < e.va + e.size)))
    let tlb : Tlb := { entries := s.tlb.entries.filter fun e => !hit e
                       descs := if va = 0 then Tab.del s.tlb.descs t.toNat else s.tlb.descs }
    ({ s with tlb := tlb }).commandDone)

/-- The first removal of any core asks for replacement; each is counted (R453, R454). -/
def State.noteRemoval (s : State) : State := ({ s with mgmt := { s.mgmt with rplreq := true } }).count 5 1

/-- A compute core removed (R453): its combs enter the halt log and are discarded. -/
def State.removeCompute (s : State) (c : Nat) : State :=
  let k := s.core c
  let here := k.combs.filterMap fun x => x.2.map fun y => (x.1, y.tenant)
  let saved := k.saved.map fun x => (x.slot, x.comb.tenant)
  let log := fun (s : State) (x : Nat × BitVec 16) => s.logHalt (haltEntry 0xFFFFFFFF 0 0 x.2 c x.1 0 3 s.clock.gt)
  let s := (here ++ saved).foldl log s
  let s := here.foldl (fun s x => s.dropStops c x.1) s
  let s := s.onCore c fun k => { k with combs := [], saved := [], ready := [], locks := [], kicks := [], matrix := {}, slice := none }
  let s := s.onMem fun m => { m with locks := m.locks.filter fun x => x.owner.core != c }
  ({ s with mgmt := { s.mgmt with removed := s.mgmt.removed ++ [c] } }).noteRemoval

/-- A drone core removed (R448, R453): its queues are refused as unbound. -/
def State.removeDrone (s : State) (d : Nat) : State :=
  let orphan := fun (q : DroneQueue) => if q.drone = d then { q with orphan := true } else q
  let s := { s with service := { s.service with drones := Tab.mapVals {} (fun _ q => orphan q) s.service.drones } }
  ({ s with mgmt := { s.mgmt with removedDrones := s.mgmt.removedDrones ++ [d] } }).noteRemoval

/-- A core removed (R453): 0 to 143 compute cores, from 144 drone cores, from 192 application cores. -/
def State.removeCore (s : State) (c : Nat) : State :=
  if c < 144 then (if s.mgmt.removed.contains c then s else s.removeCompute c)
  else if c < 192 then (if s.mgmt.removedDrones.contains (c - 144) then s else s.removeDrone (c - 144))
  else if c < 208 then (if s.mgmt.removedApps.contains (c - 192) then s
    else ({ s with mgmt := { s.mgmt with removedApps := s.mgmt.removedApps ++ [c - 192] } }).noteRemoval)
  else s

/-- REMOVE (R442, R453). -/
def execRemove (s : State) : Host.Outcome State Fault Refusal :=
  next (if s.runs 3 then (s.removeCore s.mgmt.op0.toNat).commandDone else s)

/-- CORE_INTERNAL_ERROR (R453, R455): the management interrupt follows. -/
def execCoreInternalError (core : Nat) (s : State) : Host.Outcome State Fault Refusal :=
  next (if core < 208 then (s.removeCore core).interrupt else s)

/-- What a reset leaves: host memory and the host's records, the fuses, the removal of cores (R453), and what the module has sent are not the module's to reset. Cycles count from here on (R369). -/
def State.restart (s : State) (life : Life) (lock : Bool) : State :=
  let r := State.reset
  { r with
    clock := { s.clock with cycle := 0 }
    inputs := s.inputs
    memory := { r.memory with mem := s.memory.mem.filter fun x => isHost x.1, poison := s.memory.poison.filter fun x => isHost (64 * x.1) }
    mgmt := { r.mgmt with dbgLock := lock, rplreq := s.mgmt.rplreq, removed := s.mgmt.removed, removedDrones := s.mgmt.removedDrones, removedApps := s.mgmt.removedApps }
    sec := { r.sec with erased := s.sec.erased, attested := s.sec.attested }
    host := { r.host with answers := s.host.answers, msix := s.host.msix }
    life := life
    fabric := { r.fabric with epoch := s.fabric.epoch + 1, outbox := s.fabric.outbox } }

/-- RESET (R442): a warm reset; it has finished when everything is reset, and bring-up runs again (log entry 83). -/
def execReset (s : State) : Host.Outcome State Fault Refusal :=
  next (if s.runs 4 then ((s.restart s.life s.mgmt.dbgLock).count 1 1).interrupt else s)

/-! Boot and care (R451, R454, R456). -/

/-- Bring-up (R451, R456): the firmware stages are verified and measured in turn, and one that fails leaves the module in recovery; the cores that fail their self-test are removed, and READY is set. -/
def State.bringUp (s : State) (stages : List Bool) (failed : List Nat) : State :=
  if s.mgmt.ready || s.mgmt.recovery then s
  else
    let s := { s with sec := { s.sec with measured := min 8 (stages.takeWhile id).length }, mgmt := { s.mgmt with booting := false } }
    if stages.contains false then { s with mgmt := { s.mgmt with recovery := true } }
    else
    let s := failed.foldl State.removeCore s
    { s with mgmt := { s.mgmt with ready := true } }

/-- BRING_UP. -/
def execBringUp (stages : List Bool) (failed : List Nat) (s : State) : Host.Outcome State Fault Refusal := next (s.bringUp stages failed)

/-- The ns of an hour. -/
def hour : Nat := 3600000000000

/-- Whether 60 s have passed since the last write to non-volatile storage (R454). -/
def State.flushDue (s : State) : Bool := decide (s.life.flushed + 60000000000 ≤ s.clock.gt)

/-- LIFE_COUNTER_FLUSH (R454): the hours are brought up to date, and the counters and histograms are written to non-volatile storage. -/
def execLifeCounterFlush (s : State) : Host.Outcome State Fault Refusal :=
  next (if !s.flushDue then s
  else
    let s := s.count 0 (s.clock.gt / hour - s.life.flushed / hour)
    { s with life := { s.life with nvCounters := s.life.counters, nvBins := s.life.bins, flushed := s.clock.gt } })

/-- POWER_LOSS (R454): the life counters last written survive. -/
def execPowerLoss (s : State) : Host.Outcome State Fault Refusal :=
  let x := s.life
  next (s.restart { x with counters := x.nvCounters, bins := x.nvBins, flushed := s.clock.gt } false)

/-! Application cores (R444, R446, R447). -/

/-- An application core. -/
def State.app (s : State) (a : Nat) : AppCore := Tab.get {} s.service.apps a

/-- An application core changed by `f`. -/
def State.onApp (s : State) (a : Nat) (f : AppCore → AppCore) : State :=
  { s with service := { s.service with apps := Tab.put {} s.service.apps a (f (s.app a)) } }

/-- Whether a PA lies in a valid wall (R446). -/
def AppCore.inWall (x : AppCore) (pa : Nat) : Bool :=
  (List.range 8).any fun k =>
    let b := Tab.get 0 x.wallB k
    bit b 0 && decide (bits b 51 12 ≤ pa / 4096) && decide (pa / 4096 ≤ bits (Tab.get 0 x.wallL k) 51 12)

/-- Whether a PA lies in a unit that the weights map, as the core last fetched it, marks (R447). -/
def AppCore.marked (x : AppCore) (pa : Nat) : Bool := isDevice pa && (Mem.byte x.weights (pa / 2097152 / 8)).getLsbD (pa / 2097152 % 8)

/-- The RISC-V cause of the fault of an access: an access fault (R446), or the illegal instruction that a CSR access below machine mode is. -/
def accessFault : SandAccess → Nat | .fetch => 1 | .load => 5 | .store => 7 | .csrRead | .csrWrite => 2

/-- The value of a wall CSR (R446); no other CSR is this module's. -/
def AppCore.csr (x : AppCore) (n : Nat) : Nat :=
  if n = 0x7C0 then b2n x.sbx
  else if n = 0x7C1 then x.cause
  else if 0x7C2 ≤ n ∧ n ≤ 0x7D1 then Tab.get 0 (if n % 2 = 0 then x.wallB else x.wallL) ((n - 0x7C2) / 2)
  else 0

/-- A wall CSR written (R446). -/
def AppCore.setCsr (x : AppCore) (n : Nat) (v : Dbl) : AppCore :=
  if n = 0x7C0 then { x with sbx := v.getLsbD 0 }
  else if n = 0x7C1 then { x with cause := v.toNat % 256 }
  else if 0x7C2 ≤ n ∧ n ≤ 0x7D1 then
    if n % 2 = 0 then { x with wallB := Tab.put 0 x.wallB ((n - 0x7C2) / 2) (v.toNat &&& (fld 51 12 + 1)) }
    else { x with wallL := Tab.put 0 x.wallL ((n - 0x7C2) / 2) (v.toNat &&& fld 51 12) }
  else x

/-- What a load, a fetch or a CSR read of an application core returns. -/
def State.appLoads (s : State) (app v : Nat) (bad : Bool) : State := s.onApp app fun x => { x with loaded := v, bad := bad }

/-- The fault of an access of an application core. -/
def State.appFault (s : State) (app : Nat) (access : SandAccess) (va : Nat) : State := s.onApp app fun x => { x with xcause := accessFault access, xval := va }

/-- An access of an application core to device or host memory: performed at the home slice, once its extent is served and its home does not make it wait (R444, R482). -/
def State.appMemory (s : State) (app : Nat) (store : Bool) (pa size v : Nat) : State :=
  let line := lineOf pa
  if !s.agentReady line then (s.fetchLine line).again false
  else
    let s := (s.atHome line).countAccess line
    if store then
      let s := s.homeWrite pa size v
      let t := s.completion line
      s.onApp app fun x => { x with term := max x.term t }
    else s.appLoads app (Mem.read s.memory.mem pa size) (s.linePoison line)

/-- An access of an application core by its physical map (R444): memory; the management space, whose accesses R440 gives; the doorbell space, where a notification waits until the earlier stores of the hart have passed their device-scope terms (R437); any other region holds nothing. -/
def State.appAccess (s : State) (app : Nat) (access : SandAccess) (va pa size : Nat) (value : Dbl) : State :=
  let store := access == .store
  let off := pa % 2 ^ 48
  if size = 0 ∨ size > 8 ∨ pa % 64 + size > 64 then s
  else match pa / 2 ^ 48 with
    | 0 | 1 => if isDevice pa || isHost pa then s.appMemory app store pa size value.toNat else s.appFault app access va
    | 2 => if store then s.mgmtWrite off size value else s.appLoads app (s.mgmtRead off size).toNat false
    | 3 =>
      if !store then s.appLoads app (s.doorbellRead off).toNat false
      else if 0x1000 ≤ off ∧ off < 0x1800 ∧ off % 8 = 0 then (if (s.app app).term < s.clock.gt then s.bump ((off - 0x1000) / 8) else s.again false)
      else s
    | _ => s.appFault app access va

/-- SANDBOX_ACCESS (R444, R446): an access of an application core. One of sandbox mode, or a translation fill for it, outside the walls or to weights raises an access fault with WALL_VIOLATION, and its translation is not kept; any other is performed. In sandbox mode an access without a fill uses a translation that the core holds. -/
def execSandboxAccess (app : Nat) (access : SandAccess) (how : AppUse) (va pa : Nat) (s : State) : Host.Outcome State Fault Refusal :=
  let x := s.app app
  let mode := how.mode
  let fill := how.fill
  let walled := mode == .user && x.sbx
  let page := (va / 4096, pa / 4096)
  next (if app ≥ 16 ∨ s.mgmt.removedApps.contains app ∨ s.mgmt.recovery then s
  else match access with
    | .csrRead => if mode = .machine then s.appLoads app (x.csr pa) false else s.appFault app access 0
    | .csrWrite => if mode = .machine then s.onApp app fun x => x.setCsr pa how.value else s.appFault app access 0
    | _ =>
      if walled ∧ (pa :: fill).any (fun p => !x.inWall p || x.marked p) then (s.onApp app fun x => { x with cause := 0x0E }).appFault app access va
      else if walled ∧ fill.isEmpty ∧ ¬ x.held.contains page then s
      else (s.onApp app fun x => { x with held := if fill.isEmpty || x.held.contains page then x.held else page :: x.held }).appAccess app access va pa how.size how.value)

/-- The 4 MiB of the weights map (R447). -/
def State.weightsMap (s : State) : Mem :=
  (s.memory.mem.filter fun x => decide (s.service.wtbase ≤ x.1) && decide (x.1 < s.service.wtbase + 4194304)).map fun x => (x.1 - s.service.wtbase, x.2)

/-- SFENCE_VMA (R447): the core uses the weights map as it now stands, and holds no translation any more. -/
def execSfenceVma (app : Nat) (s : State) : Host.Outcome State Fault Refusal :=
  next (if app < 16 then s.onApp app fun x => { x with weights := s.weightsMap, held := [] } else s)

/-! Drone services (R438, R449). -/

/-- The bytes that a service may write for an entry: those of its buffer, for an operation that reads storage, receives, or is an RPC (R449). -/
def DroneEntry.mayWrite (x : DroneEntry) (svc va : Nat) : Bool :=
  let e := x.entry.toNat
  let kind := bits e 7 0
  decide (bits e 127 64 ≤ va) && decide (va < bits e 127 64 + bits e 159 128) && !(svc == 1 && kind == 2) && !(svc == 2 && kind == 1)

/-- The bytes 40 to 63 of an entry must be 0 (R449). -/
def DroneEntry.malformed (x : DroneEntry) : Bool := bits x.entry.toNat 511 320 != 0

/-- The completion record of an entry (R449): TAG, status, bytes moved. -/
def DroneEntry.record (x : DroneEntry) (status moved : Word) : List (Nat × Byte) :=
  let e := x.entry.toNat
  cellsOf (bits e 319 256) 16 (if x.malformed then bits e 63 32 + 0x80000003 * 2 ^ 32 else bits e 63 32 + status.toNat * 2 ^ 32 + moved.toNat * 2 ^ 64)

/-- Bytes at VAs of a tenant as bytes at PAs, where every one translates (log entry 45). -/
def State.agentCells (s : State) (t : BitVec 16) (l : List (Nat × Byte)) : Option (List (Nat × Byte)) :=
  l.mapM fun x => if x.1 < 2 ^ 57 then (match s.agentPa t .write x.1 with | .ok pa => some (pa, x.2) | _ => none) else none

/-- A count of 64 bytes on the barrier of an entry, in the comb that submitted it, resident or saved (R270, R449). -/
def State.droneCount (s : State) (x : DroneEntry) (queue : Nat) : State :=
  let e := x.entry.toNat
  let bar := 8 * bits e 31 16
  let mine := fun (k : Comb) => k.qsubs.contains (queue, x.seq)
  let drop := fun (k : Comb) => { k with qsubs := k.qsubs.erase (queue, x.seq) }
  if !bit e 15 then s
  else
    let slots := (s.core x.core).combs.filterMap fun y => match y.2 with | some k => if mine k then some y.1 else none | none => none
    let s := slots.foldl (fun s n => (s.engineCount x.core n (some bar) 64 false).onComb x.core n drop) s
    let one := fun (y : Saved) =>
      if mine y.comb then
        let b := Mem.read y.lm bar 8
        { y with lm := Mem.write y.lm bar 8 ((bbUpdate b (-64) 0).getD (b ||| 2 ^ 63)), comb := drop y.comb }
      else y
    s.onCore x.core fun k => { k with saved := k.saved.map one }

/-- Whether a write to a line would be complete at once: no lease granted to the other die is left (R195). -/
def State.settled (s : State) (line : Nat) : Bool := decide (Tab.get 0 s.memory.grants (lineNo line) ≤ s.clock.gt)

/-- DRONE_ENTRY_COMPLETE (R438, R449): the bytes of the service and the completion record are written and reach their system-scope terms, the barrier counts, and MSI-X is signalled. It waits for its lines and translations (R482). -/
def execDroneEntryComplete (queue seq : Nat) (status moved : Word) (writes : List (Nat × Byte)) (s : State) : Host.Outcome State Fault Refusal :=
  let q := s.drone queue
  next (match q.open_.find? fun x => x.seq == seq with
  | none => s
  | some x =>
    if q.orphan then s.again false
    else
      let data := if x.malformed then [] else writes.filter fun y => x.mayWrite q.svc y.1
      match s.agentCells x.tenant (data ++ x.record status moved) with
      | none => s.again false
      | some cells =>
        let lines := (cells.map fun y => lineOf y.1).dedup
        let waits := lines.filter fun l => !s.agentReady l
        let t := lines.foldl State.atHome s
        if !waits.isEmpty then (waits.foldl State.fetchLine s).again false
        else if lines.any fun l => !t.settled l then t.again false
        else
          let s := t.homeCells cells
          let s := lines.foldl (fun s l => if s.isDirty l then s.lineCleaned l else s) s
          let s := (s.onDrone queue fun q => { q with open_ := q.open_.filter fun y => y.seq != seq }).droneCount x queue
          if q.ien then { s with host := { s.host with msix := (16 + queue) :: s.host.msix } } else s)

end Sys2Proof.Machine
end

