-- ==== Sys2Proof/Machine/Dispatch.lean ====
section
/-! DEFINITION. The dispatch of a step to its meaning: one arm for each constructor of Instr. -/

namespace Sys2Proof.Machine
open Sys2Proof

/-- One step of the machine. -/
def exec (i : Instr) (s : State) : Host.Outcome State Fault Refusal :=
  match i with
  | .nop e => Sys2Proof.Machine.execNop e s
  | .mov e => Sys2Proof.Machine.execMov e s
  | .movi e => Sys2Proof.Machine.execMovi e s
  | .laneid e => Sys2Proof.Machine.execLaneid e s
  | .aff e => Sys2Proof.Machine.execAff e s
  | .prom e => Sys2Proof.Machine.execProm e s
  | .dems e => Sys2Proof.Machine.execDems e s
  | .dema e => Sys2Proof.Machine.execDema e s
  | .wbase e => Sys2Proof.Machine.execWbase e s
  | .wget e => Sys2Proof.Machine.execWget e s
  | .pushm e => Sys2Proof.Machine.execPushm e s
  | .popm e => Sys2Proof.Machine.execPopm e s
  | .sspget e => Sys2Proof.Machine.execSspget e s
  | .sspset e => Sys2Proof.Machine.execSspset e s
  | .kmov e => Sys2Proof.Machine.execKmov e s
  | .kand e => Sys2Proof.Machine.execKand e s
  | .kor e => Sys2Proof.Machine.execKor e s
  | .kxor e => Sys2Proof.Machine.execKxor e s
  | .knot e => Sys2Proof.Machine.execKnot e s
  | .kpop e => Sys2Proof.Machine.execKpop e s
  | .kff e => Sys2Proof.Machine.execKff e s
  | .add e => Sys2Proof.Machine.execAdd e s
  | .sub e => Sys2Proof.Machine.execSub e s
  | .adds e => Sys2Proof.Machine.execAdds e s
  | .subs e => Sys2Proof.Machine.execSubs e s
  | .addc e => Sys2Proof.Machine.execAddc e s
  | .neg e => Sys2Proof.Machine.execNeg e s
  | .abs e => Sys2Proof.Machine.execAbs e s
  | .mul e => Sys2Proof.Machine.execMul e s
  | .mulh e => Sys2Proof.Machine.execMulh e s
  | .mulhu e => Sys2Proof.Machine.execMulhu e s
  | .mad e => Sys2Proof.Machine.execMad e s
  | .div e => Sys2Proof.Machine.execDiv e s
  | .divu e => Sys2Proof.Machine.execDivu e s
  | .rem e => Sys2Proof.Machine.execRem e s
  | .remu e => Sys2Proof.Machine.execRemu e s
  | .min e => Sys2Proof.Machine.execMin e s
  | .max e => Sys2Proof.Machine.execMax e s
  | .minu e => Sys2Proof.Machine.execMinu e s
  | .maxu e => Sys2Proof.Machine.execMaxu e s
  | .clamp e => Sys2Proof.Machine.execClamp e s
  | .and e => Sys2Proof.Machine.execAnd e s
  | .or e => Sys2Proof.Machine.execOr e s
  | .xor e => Sys2Proof.Machine.execXor e s
  | .andn e => Sys2Proof.Machine.execAndn e s
  | .not e => Sys2Proof.Machine.execNot e s
  | .shl e => Sys2Proof.Machine.execShl e s
  | .shr e => Sys2Proof.Machine.execShr e s
  | .sar e => Sys2Proof.Machine.execSar e s
  | .rol e => Sys2Proof.Machine.execRol e s
  | .bfx e => Sys2Proof.Machine.execBfx e s
  | .bfi e => Sys2Proof.Machine.execBfi e s
  | .popc e => Sys2Proof.Machine.execPopc e s
  | .clz e => Sys2Proof.Machine.execClz e s
  | .brev e => Sys2Proof.Machine.execBrev e s
  | .lea e => Sys2Proof.Machine.execLea e s
  | .cmp e => Sys2Proof.Machine.execCmp e s
  | .setc e => Sys2Proof.Machine.execSetc e s
  | .sel e => Sys2Proof.Machine.execSel e s
  | .dot4 e => Sys2Proof.Machine.execDot4 e s
  | .fadd e => Sys2Proof.Machine.execFadd e s
  | .fsub e => Sys2Proof.Machine.execFsub e s
  | .fmul e => Sys2Proof.Machine.execFmul e s
  | .ffma e => Sys2Proof.Machine.execFfma e s
  | .fmin e => Sys2Proof.Machine.execFmin e s
  | .fmax e => Sys2Proof.Machine.execFmax e s
  | .fabs e => Sys2Proof.Machine.execFabs e s
  | .fneg e => Sys2Proof.Machine.execFneg e s
  | .fcmp e => Sys2Proof.Machine.execFcmp e s
  | .fclass e => Sys2Proof.Machine.execFclass e s
  | .frcp e => Sys2Proof.Machine.execFrcp e s
  | .frsq e => Sys2Proof.Machine.execFrsq e s
  | .fsqrt e => Sys2Proof.Machine.execFsqrt e s
  | .fdiv e => Sys2Proof.Machine.execFdiv e s
  | .fexp2 e => Sys2Proof.Machine.execFexp2 e s
  | .flog2 e => Sys2Proof.Machine.execFlog2 e s
  | .fsin e => Sys2Proof.Machine.execFsin e s
  | .fcos e => Sys2Proof.Machine.execFcos e s
  | .ftbl e => Sys2Proof.Machine.execFtbl e s
  | .tload e => Sys2Proof.Machine.execTload e s
  | .tflip e => Sys2Proof.Machine.execTflip e s
  | .cvt e => Sys2Proof.Machine.execCvt e s
  | .cvti e => Sys2Proof.Machine.execCvti e s
  | .pack e => Sys2Proof.Machine.execPack e s
  | .unpk e => Sys2Proof.Machine.execUnpk e s
  | .modeget e => Sys2Proof.Machine.execModeget e s
  | .modeset e => Sys2Proof.Machine.execModeset e s
  | .part e => Sys2Proof.Machine.execPart e s
  | .vote e => Sys2Proof.Machine.execVote e s
  | .shuf e => Sys2Proof.Machine.execShuf e s
  | .perm e => Sys2Proof.Machine.execPerm e s
  | .bcast e => Sys2Proof.Machine.execBcast e s
  | .redu e => Sys2Proof.Machine.execRedu e s
  | .scan e => Sys2Proof.Machine.execScan e s
  | .matchLanes e => Sys2Proof.Machine.execMatchLanes e s
  | .br e => Sys2Proof.Machine.execBr e s
  | .brd e => Sys2Proof.Machine.execBrd e s
  | .bru e => Sys2Proof.Machine.execBru e s
  | .jmp e => Sys2Proof.Machine.execJmp e s
  | .jmpi e => Sys2Proof.Machine.execJmpi e s
  | .call e => Sys2Proof.Machine.execCall e s
  | .calli e => Sys2Proof.Machine.execCalli e s
  | .ret e => Sys2Proof.Machine.execRet e s
  | .idem e => Sys2Proof.Machine.execIdem e s
  | .exit e => Sys2Proof.Machine.execExit e s
  | .yield e => Sys2Proof.Machine.execYield e s
  | .trap e => Sys2Proof.Machine.execTrap e s
  | .brk e => Sys2Proof.Machine.execBrk e s
  | .ld e => Sys2Proof.Machine.execLd e s
  | .st e => Sys2Proof.Machine.execSt e s
  | .ldg e => Sys2Proof.Machine.execLdg e s
  | .sts e => Sys2Proof.Machine.execSts e s
  | .mxld e => Sys2Proof.Machine.execMxld e s
  | .mxst e => Sys2Proof.Machine.execMxst e s
  | .pref e => Sys2Proof.Machine.execPref e s
  | .ldc e => Sys2Proof.Machine.execLdc e s
  | .fence e => Sys2Proof.Machine.execFence e s
  | .fwait e => Sys2Proof.Machine.execFwait e s
  | .ftest e => Sys2Proof.Machine.execFtest e s
  | .barc e => Sys2Proof.Machine.execBarc e s
  | .lres e => Sys2Proof.Machine.execLres e s
  | .scnd e => Sys2Proof.Machine.execScnd e s
  | .lease e => Sys2Proof.Machine.execLease e s
  | .gtime e => Sys2Proof.Machine.execGtime e s
  | .atom e => Sys2Proof.Machine.execAtom e s
  | .atomn e => Sys2Proof.Machine.execAtomn e s
  | .cas e => Sys2Proof.Machine.execCas e s
  | .atomf e => Sys2Proof.Machine.execAtomf e s
  | .xadd e => Sys2Proof.Machine.execXadd e s
  | .xread e => Sys2Proof.Machine.execXread e s
  | .xclr e => Sys2Proof.Machine.execXclr e s
  | .mcas e => Sys2Proof.Machine.execMcas e s
  | .kick e => Sys2Proof.Machine.execKick e s
  | .bbinit e => Sys2Proof.Machine.execBbinit e s
  | .bbadd e => Sys2Proof.Machine.execBbadd e s
  | .bbwait e => Sys2Proof.Machine.execBbwait e s
  | .bbtest e => Sys2Proof.Machine.execBbtest e s
  | .gset e => Sys2Proof.Machine.execGset e s
  | .rlq e => Sys2Proof.Machine.execRlq e s
  | .qsub e => Sys2Proof.Machine.execQsub e s
  | .mrun e => Sys2Proof.Machine.execMrun e s
  | .mrunReg e => Sys2Proof.Machine.execMrunReg e s
  | .mmap e => Sys2Proof.Machine.execMmap e s
  | .munf e => Sys2Proof.Machine.execMunf e s
  | .mma e => Sys2Proof.Machine.execMma e s
  | .mdist e => Sys2Proof.Machine.execMdist e s
  | .mtopk e => Sys2Proof.Machine.execMtopk e s
  | .mzero e => Sys2Proof.Machine.execMzero e s
  | .mldz e => Sys2Proof.Machine.execMldz e s
  | .mdrain e => Sys2Proof.Machine.execMdrain e s
  | .mpair e => Sys2Proof.Machine.execMpair e s
  | .msplit e => Sys2Proof.Machine.execMsplit e s
  | .mepi e => Sys2Proof.Machine.execMepi e s
  | .msync e => Sys2Proof.Machine.execMsync e s
  | .spawn e => Sys2Proof.Machine.execSpawn e s
  | .spawnn e => Sys2Proof.Machine.execSpawnn e s
  | .join e => Sys2Proof.Machine.execJoin e s
  | .park e => Sys2Proof.Machine.execPark e s
  | .notify e => Sys2Proof.Machine.execNotify e s
  | .done e => Sys2Proof.Machine.execDone e s
  | .cellrd e => Sys2Proof.Machine.execCellrd e s
  | .gpref e => Sys2Proof.Machine.execGpref e s
  | .thint e => Sys2Proof.Machine.execThint e s
  | .lcnt e => Sys2Proof.Machine.execLcnt e s
  | .fget e => Sys2Proof.Machine.execFget e s
  | .fput e => Sys2Proof.Machine.execFput e s
  | .fmsg e => Sys2Proof.Machine.execFmsg e s
  | .fsync e => Sys2Proof.Machine.execFsync e s
  | .srd e => Sys2Proof.Machine.execSrd e s
  | .swr e => Sys2Proof.Machine.execSwr e s
  | .tret e => Sys2Proof.Machine.execTret e s
  | .sysc e => Sys2Proof.Machine.execSysc e s
  | .ctxsv e => Sys2Proof.Machine.execCtxsv e s
  | .ctxld e => Sys2Proof.Machine.execCtxld e s
  | .wait e => Sys2Proof.Machine.execWait e s
  | .halt e => Sys2Proof.Machine.execHalt e s
  | .asyncFaultDelivery w => Sys2Proof.Machine.execAsyncFaultDelivery w s
  | .fairnessBurst w => Sys2Proof.Machine.execFairnessBurst w s
  | .burstEnd w => Sys2Proof.Machine.execBurstEnd w s
  | .runAheadEnd w => Sys2Proof.Machine.execRunAheadEnd w s
  | .strandRetire w => Sys2Proof.Machine.execStrandRetire w s
  | .cellDispatch die => Sys2Proof.Machine.execCellDispatch die s
  | .passedOverLimit die queue level => Sys2Proof.Machine.execPassedOverLimit die queue level s
  | .levelRoomEnqueue src => Sys2Proof.Machine.execLevelRoomEnqueue src s
  | .swarmCompletionReport swarm cell => Sys2Proof.Machine.execSwarmCompletionReport swarm cell s
  | .combRetire core slot => Sys2Proof.Machine.execCombRetire core slot s
  | .sliceBegin core => Sys2Proof.Machine.execSliceBegin core s
  | .sliceExpiry core => Sys2Proof.Machine.execSliceExpiry core s
  | .slcmdEnd core => Sys2Proof.Machine.execSlcmdEnd core s
  | .combImageComplete core slot => Sys2Proof.Machine.execCombImageComplete core slot s
  | .combResume core => Sys2Proof.Machine.execCombResume core s
  | .tloadProceed core => Sys2Proof.Machine.execTloadProceed core s
  | .wcbDrain core id => Sys2Proof.Machine.execWcbDrain core id s
  | .wcbIdleDrain core id => Sys2Proof.Machine.execWcbIdleDrain core id s
  | .homeStoreApply core id => Sys2Proof.Machine.execHomeStoreApply core id s
  | .storeAck core id => Sys2Proof.Machine.execStoreAck core id s
  | .farMissPark w => Sys2Proof.Machine.execFarMissPark w s
  | .loadFill w id line => Sys2Proof.Machine.execLoadFill w id line s
  | .pageFill page line => Sys2Proof.Machine.execPageFill page line s
  | .writebackAck line => Sys2Proof.Machine.execWritebackAck line s
  | .lateWritebackArrival tx => Sys2Proof.Machine.execLateWritebackArrival tx s
  | .directoryMerge base => Sys2Proof.Machine.execDirectoryMerge base s
  | .reservationExpiry w resv => Sys2Proof.Machine.execReservationExpiry w resv s
  | .fenceTokenWrite w reg => Sys2Proof.Machine.execFenceTokenWrite w reg s
  | .fwaitWake w => Sys2Proof.Machine.execFwaitWake w s
  | .barcRelease core slot barrier => Sys2Proof.Machine.execBarcRelease core slot barrier s
  | .bbwaitWake w => Sys2Proof.Machine.execBbwaitWake w s
  | .waitWake w => Sys2Proof.Machine.execWaitWake w s
  | .atomicExecute w id => Sys2Proof.Machine.execAtomicExecute w id s
  | .atomicResponse w id => Sys2Proof.Machine.execAtomicResponse w id s
  | .mcasLockPhase w => Sys2Proof.Machine.execMcasLockPhase w s
  | .mcasCommit w => Sys2Proof.Machine.execMcasCommit w s
  | .hostSnoop take => Sys2Proof.Machine.execHostSnoop take s
  | .snoopResponse line => Sys2Proof.Machine.execSnoopResponse line s
  | .backInvalidate line => Sys2Proof.Machine.execBackInvalidate line s
  | .hostCxlMemAccess write pa size value => Sys2Proof.Machine.execHostCxlMemAccess write pa size value s
  | .poisonDetect site => Sys2Proof.Machine.execPoisonDetect site s
  | .faultBatchWrite die batch => Sys2Proof.Machine.execFaultBatchWrite die batch s
  | .fqres1Resolve die value => Sys2Proof.Machine.execFqres1Resolve die value s
  | .combFaultResume core => Sys2Proof.Machine.execCombFaultResume core s
  | .leaseExpire idx => Sys2Proof.Machine.execLeaseExpire idx s
  | .leaseRevokeDeadline idx => Sys2Proof.Machine.execLeaseRevokeDeadline idx s
  | .revocationNotice idx deadline => Sys2Proof.Machine.execRevocationNotice idx deadline s
  | .poolNodeLost borrowed node => Sys2Proof.Machine.execPoolNodeLost borrowed node s
  | .leaseAcquire idx lease contents => Sys2Proof.Machine.execLeaseAcquire idx lease contents s
  | .leaseRenew idx expiry => Sys2Proof.Machine.execLeaseRenew idx expiry s
  | .leaseRemap idx node boff expiry contents => Sys2Proof.Machine.execLeaseRemap idx node boff expiry contents s
  | .leaseRelease idx => Sys2Proof.Machine.execLeaseRelease idx s
  | .counterHalving die => Sys2Proof.Machine.execCounterHalving die s
  | .kickRegister core => Sys2Proof.Machine.execKickRegister core s
  | .copyRequestStart core slot => Sys2Proof.Machine.execCopyRequestStart core slot s
  | .copyChunk core slot req => Sys2Proof.Machine.execCopyChunk core slot req s
  | .droneQsubResponse w reg => Sys2Proof.Machine.execDroneQsubResponse w reg s
  | .droneEntryComplete queue seq status moved writes => Sys2Proof.Machine.execDroneEntryComplete queue seq status moved writes s
  | .fabricMessageReceive queue src tenant entry => Sys2Proof.Machine.execFabricMessageReceive queue src tenant entry s
  | .mrunStart core => Sys2Proof.Machine.execMrunStart core s
  | .matrixCommandStart core => Sys2Proof.Machine.execMatrixCommandStart core s
  | .matrixCommandComplete core => Sys2Proof.Machine.execMatrixCommandComplete core s
  | .streamEnd core => Sys2Proof.Machine.execStreamEnd core s
  | .sequencerFetchFault core => Sys2Proof.Machine.execSequencerFetchFault core s
  | .sequencerRestore core slot => Sys2Proof.Machine.execSequencerRestore core slot s
  | .mpairStart core => Sys2Proof.Machine.execMpairStart core s
  | .pairTimeout core => Sys2Proof.Machine.execPairTimeout core s
  | .fabricRequestArrival req => Sys2Proof.Machine.execFabricRequestArrival req s
  | .fabricResponseArrival resp => Sys2Proof.Machine.execFabricResponseArrival resp s
  | .fabricResend target seq => Sys2Proof.Machine.execFabricResend target seq s
  | .fabricTimeout target seq => Sys2Proof.Machine.execFabricTimeout target seq s
  | .fabricUnreachable target => Sys2Proof.Machine.execFabricUnreachable target s
  | .linkDown port => Sys2Proof.Machine.execLinkDown port s
  | .limitNotice limit => Sys2Proof.Machine.execLimitNotice limit s
  | .noticeReceive n => Sys2Proof.Machine.execNoticeReceive n s
  | .limitApply => Sys2Proof.Machine.execLimitApply s
  | .heartbeatSend => Sys2Proof.Machine.execHeartbeatSend s
  | .heartbeatReceive h => Sys2Proof.Machine.execHeartbeatReceive h s
  | .memberRemoval dev => Sys2Proof.Machine.execMemberRemoval dev s
  | .removedMessage sender => Sys2Proof.Machine.execRemovedMessage sender s
  | .accordIsolation => Sys2Proof.Machine.execAccordIsolation s
  | .emergencyTrip => Sys2Proof.Machine.execEmergencyTrip s
  | .accordJoin sponsor => Sys2Proof.Machine.execAccordJoin sponsor s
  | .joinRequestReceive dev group limit => Sys2Proof.Machine.execJoinRequestReceive dev group limit s
  | .snapshotReceive table adopt => Sys2Proof.Machine.execSnapshotReceive table adopt s
  | .joinTimeout => Sys2Proof.Machine.execJoinTimeout s
  | .adoption => Sys2Proof.Machine.execAdoption s
  | .accordLeave => Sys2Proof.Machine.execAccordLeave s
  | .leaveEffective dev => Sys2Proof.Machine.execLeaveEffective dev s
  | .syncWrite v => Sys2Proof.Machine.execSyncWrite v s
  | .doorbellNotify reg => Sys2Proof.Machine.execDoorbellNotify reg s
  | .summary => Sys2Proof.Machine.execSummary s
  | .inval => Sys2Proof.Machine.execInval s
  | .remove => Sys2Proof.Machine.execRemove s
  | .reset => Sys2Proof.Machine.execReset s
  | .mgmtCommandComplete => Sys2Proof.Machine.execMgmtCommandComplete s
  | .dbgResume entry => Sys2Proof.Machine.execDbgResume entry s
  | .dbgDeliver entry => Sys2Proof.Machine.execDbgDeliver entry s
  | .dbgSave entry => Sys2Proof.Machine.execDbgSave entry s
  | .dbgLoad entry => Sys2Proof.Machine.execDbgLoad entry s
  | .dbgattWrite value => Sys2Proof.Machine.execDbgattWrite value s
  | .mgmtRegisterWrite off size value => Sys2Proof.Machine.execMgmtRegisterWrite off size value s
  | .tamperAlarm => Sys2Proof.Machine.execTamperAlarm s
  | .glitchAlarm => Sys2Proof.Machine.execGlitchAlarm s
  | .coreInternalError core => Sys2Proof.Machine.execCoreInternalError core s
  | .bringUp stages failed => Sys2Proof.Machine.execBringUp stages failed s
  | .lifeCounterFlush => Sys2Proof.Machine.execLifeCounterFlush s
  | .contextLoss ctx => Sys2Proof.Machine.execContextLoss ctx s
  | .spdmHeartbeatTimeout ctx => Sys2Proof.Machine.execSpdmHeartbeatTimeout ctx s
  | .keySlotLoad ctx slot key => Sys2Proof.Machine.execKeySlotLoad ctx slot key s
  | .bandwidthRefill core => Sys2Proof.Machine.execBandwidthRefill core s
  | .loadPerform w id line => Sys2Proof.Machine.execLoadPerform w id line s
  | .deviceScopeTermReached w => Sys2Proof.Machine.execDeviceScopeTermReached w s
  | .linkUp port => Sys2Proof.Machine.execLinkUp port s
  | .packetTransit p dst hop => Sys2Proof.Machine.execPacketTransit p dst hop s
  | .accctlEnWrite value => Sys2Proof.Machine.execAccctlEnWrite value s
  | .sponsorRefusal => Sys2Proof.Machine.execSponsorRefusal s
  | .tdispRequest ctx req => Sys2Proof.Machine.execTdispRequest ctx req s
  | .spdmRequest ctx req => Sys2Proof.Machine.execSpdmRequest ctx req s
  | .sandboxAccess app access how va pa => Sys2Proof.Machine.execSandboxAccess app access how va pa s
  | .sfenceVma app => Sys2Proof.Machine.execSfenceVma app s
  | .dbgctlLockWrite => Sys2Proof.Machine.execDbgctlLockWrite s
  | .powerLoss => Sys2Proof.Machine.execPowerLoss s
  | .hbmLend die what => Sys2Proof.Machine.execHbmLend die what s

end Sys2Proof.Machine
end

