-- ==== Sys2Proof/Machine/Turn.lean ====
section
/-! DEFINITION. Which moves the module can make in a state, which of them come first, and what a move does (log entries 1 and 2). -/

namespace Sys2Proof.Machine
open Sys2Proof

/-- A move of the module: a strand issues, a matrix sequencer issues, an agent of the module takes a step, or the outside world's next step comes. Beside these, a strand enters its handler with the fault that it holds (R414); a pre-empted comb gives up its strands and its stream (R470); a comb whose pre-emption waited for its paired stream is pre-empted (R298); a directory gives up a region (R194), an RDC a line that it owns (R203), the home L2 of die 0 a host line (R197); a core's network port goes on with what waits there (R368); the pager moves a page to borrowed memory (R360); and bring-up runs after a reset (R442, R451). -/
inductive Move
  | issue (w : Sid)
  | stream (core : Nat)
  | event (i : Instr)
  | enter (w : Sid)
  | drain (core slot : Nat)
  | cut (core slot : Nat)
  | dropRegion (r : DirRegion)
  | evict (line : Nat)
  | displace (line : Nat)
  | port (core : Nat)
  | settle (tenant : BitVec 16) (va : Nat)
  | boot
  | input
  deriving DecidableEq, Repr

/-- A step where it can be taken. -/
def opt (b : Bool) (i : Instr) : List Instr := if b then [i] else []

/-- The strands of the resident combs, in order of core, slot and index. -/
def State.sids (s : State) : List Sid :=
  s.cores.flatMap fun x => x.2.combs.flatMap fun y => match y.2 with
    | some k => (Tab.keys k.strands).map fun j => { core := x.1, slot := y.1, strand := j }
    | none => []

/-- The resident combs, by core and slot. -/
def State.places (s : State) : List (Nat × Nat) := s.cores.flatMap fun x => x.2.combs.filterMap fun y => if y.2.isSome then some (x.1, y.1) else none

/-! Steps that fall due at an instant: they come before any other. -/

/-- What falls due for a strand: the end of a reservation (R214), and the instant of an MCAS (R246). -/
def State.strandDue (s : State) (w : Sid) : List Instr :=
  ((s.strand w).flight.resv.filterMap fun x => match x.2 with | some r => if r.gt + 2000 ≤ s.clock.gt then some (.reservationExpiry w x.1) else none | none => none) ++
  opt (s.commitDue w) (.mcasCommit w)

/-- The retirement of the last resident comb of a core's slice, where it is all that the comb has left to do: it comes before the end of the slice in the same cycle (R340). -/
def State.lastRetiring (s : State) (c : Nat) : List Instr :=
  match (s.core c).slice with
  | none => []
  | some x =>
    match (s.core c).combs.filterMap fun y => match y.2 with | some k => if k.tenant == x.tenant then some (y.1, k) else none | none => none with
    | [(n, k)] =>
      let left := (k.strands.filter fun y => !y.2.sched.retired).map fun y => y.1
      if left.isEmpty then opt (s.mayRetireComb c n) (.combRetire c n)
      else
        let done : Comb := { k with strands := Tab.mapVals {} (fun _ st => { st with sched := { st.sched with retired := true } }) k.strands }
        if (left.all fun j => s.mayRetire { core := c, slot := n, strand := j }) && (s.setComb c n done).mayRetireComb c n
        then left.map fun j => .strandRetire { core := c, slot := n, strand := j } else []
    | _ => []

/-- What falls due for a core: the end of its slice (R340), the end of an MPAIR or of a paired command without its partner (R313, R314), and the entries that drain (R196). -/
def State.coreDue (s : State) (c : Nat) : List Instr :=
  (if s.slicePassed c then (match s.lastRetiring c with | [] => [.sliceExpiry c] | l => l) else []) ++
  opt (s.pairLate c).isSome (.pairTimeout c) ++
  (s.core c).wcb.flatMap fun e => if s.drainDue c e then [.wcbDrain c e.id] else opt (decide (e.touched + 32 ≤ s.clock.cycle)) (.wcbIdleDrain c e.id)

/-- The heads of queues that the dies have passed over 65,536 times (R323). -/
def State.headsDue (s : State) : List Instr :=
  s.sched.queues.flatMap fun x => (Tab.keys x.2.levels).flatMap fun l => (List.range 2).flatMap fun d =>
    opt (decide (s.passedCount d x.1 l ≥ 65536) && !s.sched.stopped.contains (d, x.1, l)) (.passedOverLimit d x.1 l)

/-- What falls due for the fabric (R375, R382). -/
def State.fabricDue (s : State) : List Instr :=
  s.fabric.targets.flatMap fun x =>
    opt (s.silent x.1 && !s.outrun true x.1) (.fabricUnreachable x.1) ++
    x.2.sent.flatMap fun o => opt (s.timeoutDue x.1 o.packet.seq) (.fabricTimeout x.1 o.packet.seq) ++ opt (s.resendDue x.1 o.packet.seq) (.fabricResend x.1 o.packet.seq)

/-- What falls due for the accord (R392 to R403). -/
def State.accordDue (s : State) : List Instr :=
  opt s.applyDue .limitApply ++ opt s.beatDue .heartbeatSend ++ opt s.isolationDue .accordIsolation ++ opt s.joinLate .joinTimeout ++ opt s.adoptDue .adoption ++
  (s.accord.table.flatMap fun m => opt (s.removalDue m.dev) (.memberRemoval m.dev) ++ opt (s.leaveDue m.dev) (.leaveEffective m.dev))

/-- What falls due for an extent: its renewal where a hint keeps it (R360), its expiry or its deadline (R346), or the loss of its lender (R364). -/
def State.leaseDueSteps (s : State) (n : Nat) : List Instr :=
  (if s.keepDue n then [.leaseRenew n s.keepUntil] else opt (s.expireDue n) (.leaseExpire n)) ++
  opt (s.deadlineDue n) (.leaseRevokeDeadline n) ++
  (match s.lease? n with | some l => opt (s.lenderLost l) (.poolNodeLost true l.node) | none => [])

/-- What a strand's accesses have done and not acknowledged yet, as the step that acknowledges it with the GT by which it comes: 1 ms after the term (R211). -/
def State.strandAcks (s : State) (w : Sid) : List (Instr × Nat) :=
  let f := (s.strand w).flight
  (f.loads.flatMap fun l => l.bound.filterMap fun x => if l.sectors.any fun y => y.1 == x.1 && y.2.isSome then some (.loadFill w l.id x.1, x.2 + 1000000) else none) ++
  (f.atomics.filterMap fun a => if s.mayAnswerAtomic w a.id && a.acted != 0 then some (.atomicResponse w a.id, a.acted + 1000000) else none) ++
  (f.tokens.filterMap fun t => if t.reg < 64 && s.tokenDone t then some (.fenceTokenWrite w t.reg, t.term + 1000000) else none)

/-- The acknowledgements to come, with the GT by which each comes (R211). -/
def State.acks (s : State) : List (Instr × Nat) :=
  s.sids.flatMap s.strandAcks ++
  s.cores.flatMap fun (c, k) => k.drains.filterMap fun d => d.applied.map fun x => (.storeAck c d.entry.id, x.1 + 1000000)

/-- Every step that is due. -/
def State.due (s : State) : List Instr :=
  s.sids.flatMap s.strandDue ++ (s.acks.filterMap fun x => if x.2 ≤ s.clock.gt then some x.1 else none) ++
  (s.places.flatMap fun p => opt (s.imageReady p.1 p.2) (.combImageComplete p.1 p.2)) ++ (List.range 144).flatMap s.coreDue ++
  s.headsDue ++
  (Tab.keys s.tiers.leases).flatMap s.leaseDueSteps ++
  ((List.range 2).flatMap fun d => opt (s.halvingDue d) (.counterHalving d)) ++
  s.fabricDue ++ s.accordDue ++
  ((Tab.keys s.sec.contexts).flatMap fun c => opt (s.spdmLate c) (.spdmHeartbeatTimeout c)) ++
  opt s.flushDue .lifeCounterFlush ++ s.commandDue

/-! Steps that an agent of the module may take. -/

/-- The steps of the loads of a strand. -/
def State.loadMoves (s : State) (w : Sid) : List Instr :=
  (s.strand w).flight.loads.flatMap fun l =>
    if l.via = .fabric then opt l.answered (.loadFill w l.id 0)
    else l.sectors.flatMap fun x => if x.2.isSome then [.loadFill w l.id x.1] else opt (s.mayPerform w l.id x.1) (.loadPerform w l.id x.1)

/-- The step that may end what a strand waits for. -/
def State.waitMoves (s : State) (w : Sid) : List Instr :=
  match (s.strand w).sched.wait with
  | some (.fwait r) => opt (s.tokenPassed w r) (.fwaitWake w)
  | some (.bbwait off phase) => opt (s.bbReached w.core w.slot off phase) (.bbwaitWake w)
  | some (.notify _ _ _ _) => opt (s.waitOver w) (.waitWake w)
  | some (.terms _ _) => opt (s.termsReached w) (.deviceScopeTermReached w)
  | some (.room _ _ _) => opt (s.roomReady (.strand w)) (.levelRoomEnqueue (.strand w))
  | some (.barc n _) => opt (s.barcReady w.core w.slot n) (.barcRelease w.core w.slot n)
  | some (.mcas m) => opt m.result.isNone (.mcasLockPhase w)
  | _ => []

/-- The steps of a strand other than its issue. -/
def State.strandMoves (s : State) (w : Sid) : List Instr :=
  let st := s.strand w
  opt (s.mayDeliver w) (.asyncFaultDelivery w) ++
  opt (s.stands w && st.burstDue s.clock.cycle) (.fairnessBurst w) ++
  opt (s.stands w && st.burstOver) (.burstEnd w) ++
  opt st.aheadOver (.runAheadEnd w) ++
  opt (s.mayRetire w) (.strandRetire w) ++
  opt (s.mayPark w) (.farMissPark w) ++
  s.loadMoves w ++ s.waitMoves w ++
  (st.flight.tokens.filterMap fun t => if t.reg < 64 && s.tokenDone t then some (.fenceTokenWrite w t.reg) else none) ++
  (st.flight.atomics.flatMap fun a => opt (!a.fabric && !a.parts.isEmpty) (.atomicExecute w a.id) ++ opt (s.mayAnswerAtomic w a.id) (.atomicResponse w a.id)) ++
  (st.flight.qsubs.map fun q => .droneQsubResponse w q.reg)

/-- The steps of a comb. -/
def State.combMoves (s : State) (p : Nat × Nat) : List Instr :=
  let k := s.comb p.1 p.2
  opt (s.mayStart p.1 p.2) (.copyRequestStart p.1 p.2) ++
  (k.reqs.filterMap fun q => if s.mayCopy p.1 p.2 q.id then some (.copyChunk p.1 p.2 q.id) else none) ++
  opt (s.mayRetireComb p.1 p.2 || ((k.strands.all fun x => x.2.sched.retired) && k.reqs.any fun q => q.state == .queued || q.state == .held)) (.combRetire p.1 p.2) ++
  opt (s.mayRestore p.1 p.2) (.sequencerRestore p.1 p.2)

/-- The steps of a core's buffers, engine and matrix sequencer, and of its combs that go on. -/
def State.coreMoves (s : State) (c : Nat) : List Instr :=
  let k := s.core c
  (k.drains.map fun d => if d.applied.isSome then .storeAck c d.entry.id else .homeStoreApply c d.entry.id) ++
  opt (match k.kicks with | x :: _ => s.mayRegister c x.reqs.length | [] => false) (.kickRegister c) ++
  opt (s.bankHead c).isSome (.tloadProceed c) ++
  opt (s.mayStartStream c) (.mrunStart c) ++
  opt (s.mayStartCmd c) (.matrixCommandStart c) ++
  opt (s.mayCompleteCmd c) (.matrixCommandComplete c) ++
  opt (s.mayEndStream c) (.streamEnd c) ++
  opt (s.mayPair c) (.mpairStart c) ++
  opt (match s.stream? c with | some x => (match x.wait with | some (.bbwait off phase _) => s.bbReached c x.slot off phase | _ => false) | none => false)
    (.bbwaitWake { core := c, slot := 0, strand := seqIndex }) ++
  opt (s.nextReady c).isSome (.combFaultResume c) ++
  opt (s.mayResume c) (.combResume c)

/-- The steps of the memory system. -/
def State.memoryMoves (s : State) : List Instr :=
  (s.memory.pages.filterMap fun x => match x.2.fetching with | l :: _ => if x.2.resident then some (.pageFill (x.1 * 65536) l) else none | [] => none) ++
  (s.memory.dirty.filterMap fun x => if s.needsClean (64 * x.1) && s.served (64 * x.1) then some (.writebackAck (64 * x.1)) else none) ++
  (s.memory.evictions.map fun x => .lateWritebackArrival x.tx) ++
  (s.memory.directory.filterMap fun a => if s.memory.directory.any fun b => siblings a b s.clock.gt then some (.directoryMerge a.base) else none) ++
  (s.memory.snoops.filterMap fun x => if s.mayAnswer x.line then some (.snoopResponse x.line) else none)

/-- The steps of the scheduler and of the pagers' queues. -/
def State.schedulerMoves (s : State) : List Instr :=
  ((List.range 2).flatMap fun d => opt (s.pickHead d).isSome (.cellDispatch d)) ++
  ((Tab.keys s.sched.notify).flatMap fun n => opt (s.roomReady (.released n)) (.levelRoomEnqueue (.released n))) ++
  (s.sched.swarms.flatMap fun x =>
    let cells := ((x.2.window.map fun c => c.cell) ++ (s.allCombs.filterMap fun k => if k.swarm = some x.1 then some k.index else none)).dedup
    cells.flatMap fun i => opt (s.mayReport x.1 i) (.swarmCompletionReport x.1 i)) ++
  (s.tiers.batches.flatMap fun b => opt (s.mayWriteBatch b.die b.id) (.faultBatchWrite b.die b.id))

/-- The steps of the fabric of this device. -/
def State.fabricMoves (s : State) : List Instr :=
  s.fabric.acks.filterMap fun x => if x.1 ≤ s.clock.gt then some (.fabricResponseArrival x.2) else none

/-- The steps of a running management command (R442). -/
def State.commandMoves (s : State) : List Instr :=
  opt (s.runs 1) .summary ++ opt (s.runs 2) .inval ++ opt (s.runs 3) .remove ++ opt (s.runs 4) .reset ++
  opt (s.mgmt.command.isSome && s.mgmt.cmdDone) .mgmtCommandComplete

/-- Every step that an agent of the module may take. -/
def State.events (s : State) : List Instr :=
  s.sids.flatMap s.strandMoves ++ s.places.flatMap s.combMoves ++ (Tab.keys s.cores).flatMap s.coreMoves ++
  s.memoryMoves ++ s.schedulerMoves ++ s.fabricMoves ++ s.commandMoves

/-- The cores whose matrix sequencer may issue. -/
def State.sequencers (s : State) : List Nat :=
  (Tab.keys s.cores).filter fun c => match s.stream? c with | some x => s.seqMay c x | none => false

/-- Whether a strand enters its handler with the fault that it holds (R414). -/
def State.entersNow (s : State) (w : Sid) : Bool := (s.strand w).sched.pend.isSome && (s.strand w).entryFree && !s.standsOn w

/-- The pages that the pager may move to borrowed memory: those of the records of TIER 011 that a pool extent backs, while a borrowed extent has room (R360). -/
def State.pagerMoves (s : State) : List Move :=
  let pooled := fun (h : Hint) (va : Nat) => match s.leaf (agentTlb 0) h.tenant va with
    | .ok e => (match s.extent? (e.pa + (va - e.va)) with | some (_, l) => l.kind == .pool && l.state == .active | none => false)
    | .error _ => false
  let l := s.tiers.hints.filter fun h => h.tier == 3
  if l.isEmpty || !s.borrowedRoom then [] else l.flatMap fun h => (h.addrs.filter (pooled h)).map fun va => .settle h.tenant va

/-- What the caches give up, when they do (R194, R197, R203). -/
def State.cacheMoves (s : State) : List Move :=
  s.memory.directory.map .dropRegion ++
  (Tab.keys s.memory.owned).map (fun n => .evict (64 * n)) ++
  (((Tab.keys s.memory.hostLines).map (64 * ·)).filter s.mayDisplace).map .displace

/-- What comes before every free move: a strand enters its handler, the pre-emption of a comb goes on, or a step is due. -/
def State.dueMoves (s : State) : List Move :=
  (s.sids.filter s.entersNow).map .enter ++ (s.places.filter fun p => s.mayDrain p.1 p.2).map (fun p => .drain p.1 p.2) ++
  (s.places.filter fun p => s.cutDue p.1 p.2).map (fun p => .cut p.1 p.2) ++ s.due.map .event

/-- Everything that may happen while nothing is due. -/
def State.freeMoves (s : State) : List Move :=
  ((s.sids.filter s.mayIssue).map .issue) ++ (s.sequencers.map .stream) ++ (s.events.map .event) ++ s.cacheMoves ++ s.pagerMoves ++
    (((Tab.keys s.cores).filter s.portWaits).map .port) ++ (if s.mgmt.booting then [.boot] else []) ++ (if s.inputs.isEmpty then [] else [.input])

/-- The first list that is not empty. -/
def firstList {α : Type} : List (List α) → List α
  | [] => []
  | l :: t => if l.isEmpty then firstList t else l

/-- The moves that the module can make: at the start of a period its ports refill before all else (R369, R470); then comes what is due, then the slices that begin (R338), then the launches of the dispatchers (R323); otherwise everything that may happen. -/
def State.moves (s : State) : List Move :=
  firstList [
    ((List.range 144).filter s.refillDue).map fun c => .event (.bandwidthRefill c),
    s.dueMoves,
    ((Tab.keys s.cores).filter s.mayBegin).map fun c => .event (.sliceBegin c),
    ((List.range 2).filter s.dispatchDue).map fun d => .event (.cellDispatch d),
    s.freeMoves]

/-- The move chosen (log entry 1). -/
def State.chosen (s : State) : Option Move :=
  match s.moves with
  | [] => none
  | [m] => some m
  | m :: l => some ((m :: l).getD (Config.choose s.clock.turn (l.length + 1) % (l.length + 1)) m)

/-- The counts of what the sensors of the module see: corrected errors, link replays, pool port errors, hours above 1,500 W, and the bins of the four histograms (R454, log entry 70). -/
def Life.sense (l : Life) (turn : Nat) : Life :=
  let add := fun (kind : Nat) (t : Tab Nat) (i : Nat) => Tab.put 0 t i (Tab.get 0 t i + Config.sensed turn (kind + i))
  { l with counters := [2, 4, 11, 12, 15].foldl (add 0) l.counters, bins := (List.range 128).foldl (add 16) l.bins }

/-- How many cycles pass: no more than one where a die launches a head in the next cycle (R323). -/
def State.cyclesOn (s : State) : Nat :=
  let n := Config.cycleStep s.clock.turn
  let t := { s with clock := { s.clock with cycle := s.clock.cycle + 1 } }
  if (List.range 2).any t.dispatchDue then min n 1 else n

/-- The GT after this step: it passes no instant by which an acknowledgement comes (R211). -/
def State.gtOn (s : State) : Nat :=
  let gt := s.clock.gt
  let next := gt + Config.gtStep s.clock.turn
  match (s.acks.map fun x => x.2).min? with
  | some d => max gt (min next d)
  | none => next

/-- Time passes (log entry 2), and the sensors count; the heads that the dies pass over meanwhile are counted (R323). -/
def State.tick (s : State) : State :=
  let n := s.cyclesOn
  { s.passOver n with
    clock := { gt := s.gtOn, cycle := s.clock.cycle + n, turn := s.clock.turn + 1 }
    life := s.life.sense s.clock.turn }

/-- An outcome's next state changed by `f`. -/
def after (f : State → State) : Host.Outcome State Fault Refusal → Host.Outcome State Fault Refusal
  | .next s => .next (f s)
  | .fault r => .fault r
  | .refused r => .refused r

/-! The issue slots of a clock (R12, R69 to R71). -/

/-- Whether an instruction uses the varying datapath (R69): a destination of class V or K, or a source of class V that it reads (log entry 113). -/
def usesVarying (o : Op) (e : Enc) : Bool :=
  ((o.writes e 0).any fun r => match r with | .v _ => true | .k _ => true | _ => false) || (o.reads e 0).any fun r => match r with | .v _ => true | _ => false

/-- The single-issue instructions (R70). -/
def singleIssue (o : Op) : Bool :=
  (0x80 ≤ o.code && o.code ≤ 0xDF) ||
  (match o with | .wbase | .sspset | .pushm | .popm | .modeset | .part | .tload | .tflip => true | _ => false)

/-- The operations on the function-table banks (R130). -/
def bankOp (o : Op) : Bool := o == .tload || o == .tflip

/-- The frame of an issuer: that of the strand, or 6 for the matrix sequencer. -/
def State.frameOf (s : State) (w : Sid) : Nat := if w.strand = seqIndex then 6 else (s.strand w).frame

/-- What a core has issued in the present cycle. -/
def State.issuedNow (s : State) (c : Nat) : List Issued := (s.core c).issued.filter fun x => x.cycle == s.clock.cycle

/-- Whether the clock has an issue slot left for the instruction (R12, R69, R70): its datapath of its frame is free, an earlier instruction of the same strand may pair with it, the strands of a comb issue in comb order (R52), and TLOADs and TFLIPs in the order of their frames (R130). -/
def State.slotFree (s : State) (w : Sid) (o : Op) (e : Enc) : Bool :=
  let wb := (s.strand w).sp.wb
  let regs := o.reads e wb ++ o.writes e wb
  (s.issuedNow w.core).all fun x =>
    !(x.frame == s.frameOf w && (w.strand == seqIndex || x.varying == usesVarying o e)) &&
    (x.slot != w.slot || decide (x.strand ≤ w.strand)) &&
    !(x.bank && bankOp o && decide (s.frameOf w < x.frame)) &&
    !(x.slot == w.slot && x.strand == w.strand && (x.single || singleIssue o || regs.any x.writes.contains))

/-- The slot taken (R12). -/
def State.takeSlot (s : State) (w : Sid) (o : Op) (e : Enc) : State :=
  let x : Issued := { cycle := s.clock.cycle, frame := s.frameOf w, slot := w.slot, strand := w.strand, varying := usesVarying o e,
                      single := singleIssue o, bank := bankOp o, writes := o.writes e (s.strand w).sp.wb }
  s.onCore w.core fun k => { k with issued := x :: k.issued.filter fun y => y.cycle == s.clock.cycle }

/-- A decoded instruction at the focus: where the clock has no slot left for it the issuer stands; otherwise it takes its slot and exec runs it. -/
def State.issueInstr (s : State) (i : Instr) : Host.Outcome State Fault Refusal :=
  match i.parts with
  | none => exec i s
  | some (o, e) => if s.slotFree s.cur o e then exec i (s.takeSlot s.cur o e) else .next s

/-- The issue of a strand: fetch, decode and the instruction's meaning (R20, R32, R148). -/
def State.runStrandAt (s : State) (w : Sid) : Host.Outcome State Fault Refusal :=
  let s := { s with cur := w }
  let f := s.fetchStrand w
  match f.1 with
  | .instr i => f.2.issueInstr i
  | x => .next (f.2.fetchFault x)

/-- The issue of a core's stream (R280, R283). -/
def State.runStreamAt (s : State) (core : Nat) : Host.Outcome State Fault Refusal :=
  match s.stream? core with
  | none => .next s
  | some x =>
    let s := { s with cur := { core := core, slot := x.slot, strand := seqIndex } }
    let f := s.fetchStream core
    match f.1 with
    | .instr i => f.2.issueInstr i
    | .trap c v => .next (f.2.seqFault core x (Trap.of c v))
    | .queued _ => exec (.sequencerFetchFault core) f.2
    | .waits => .next f.2

/-- A step of the outside world that could not act yet is taken again, next or after the others (log entry 1). -/
def State.requeue (i : Instr) (s : State) : State :=
  match s.retry with
  | some true => { s with inputs := i :: s.inputs, retry := none }
  | some false => { s with inputs := s.inputs ++ [i], retry := none }
  | none => s

/-- The next step of the outside world. -/
def State.runInput (s : State) : Host.Outcome State Fault Refusal :=
  match s.inputs with
  | [] => .next s
  | i :: l => after (State.requeue i) (exec i { s with inputs := l, retry := none })

/-- What a move does. -/
def State.run (s : State) (m : Move) : Host.Outcome State Fault Refusal :=
  match m with
  | .issue w => s.runStrandAt w
  | .stream c => s.runStreamAt c
  | .event i => exec i s
  | .enter w => .next (s.enterPending w)
  | .drain c n => .next (s.drainComb c n)
  | .cut c n => .next (s.cutComb c n)
  | .dropRegion r => .next (s.dropRegion r)
  | .evict line => .next (s.evictOwned line)
  | .displace line => .next (if s.mayDisplace line then s.displaceL2 line else s)
  | .port c => .next (s.portsOn c)
  | .settle t va => .next (s.movePage t va fun l => l.kind == .borrowed)
  | .boot => .next (s.bringUp (Config.verifies s.clock.turn) (Config.selfTest s.clock.turn))
  | .input => s.runInput

end Sys2Proof.Machine
end

