-- ==== Sys2Proof/Machine/Step.lean ====
section
/-! DEFINITION. One step of the module, and the machine that runs one given instruction next. -/

namespace Sys2Proof.Machine
open Sys2Proof

/-- One step: the move chosen, then time passes (log entries 1 and 2). -/
def step (s : State) : Host.Outcome State Fault Refusal :=
  match s.chosen with
  | none => .next s.tick
  | some m => after State.tick (s.run m)

/-- The memory of a machine that runs one instruction: the descriptor of tenant 0, the tables that map a 2 MiB page at 0, and the instruction at 0x1_0000. -/
def oneInstr (nbits w : Nat) : Mem :=
  Mem.writeCells [] (
    cellsOf 0x100000 8 (2 ^ 63 + 0x1000) ++ cellsOf 0x1000 8 (0x2000 + 1) ++ cellsOf 0x2000 8 (0x3000 + 1) ++
    cellsOf 0x3000 8 (0x4000 + 1) ++ cellsOf 0x4000 8 (0 + 0x1D) ++ cellsOf 0x10000 12 (w % 2 ^ nbits))

/-- The machine that runs one instruction next: one tenant, one resident comb, and one strand that stands at the instruction (log entry 5). -/
def State.withFetchWord (s : State) (nbits w : Nat) : State :=
  let st : Strand := { live := BitVec.allOnes 32, pcs := Vector.replicate 32 0x10000, sp := { n := 256, ssp := 0x1000 }, base := 0x800, top := 0x1000 }
  let comb : Comb := { shape := { lmb := 0x800, spill := 0x800, regs := 31 }, strands := [(0, st)] }
  let page : Page := { resident := true }
  let pager : Pager := { halved := s.clock.gt }
  { State.reset with
    clock := s.clock
    cores := [(0, { combs := [(0, some comb)] })]
    memory := { mem := oneInstr nbits w, pages := [(0, page), (1, page), (16, page)] }
    mgmt := { tdbase := 0x100000, ready := true }
    life := { flushed := s.clock.gt }
    tiers := { leases := [(0, some { kind := .pool, state := .active, node := 0, size := 1, base := 0, boff := 0, expiry := s.clock.gt + 2 ^ 63 })]
               pager0 := pager, pager1 := pager } }

end Sys2Proof.Machine
end

