-- ==== Sys2Proof/Safety.lean ====
section
/-! DEFINITION. What a safe run is, and the conditions on a state under which an instruction executes normally: the terms that the statements use. -/

namespace Sys2Proof.Machine

/-- Memory is in its canonical form: addresses strictly rise, and no entry holds what an unlisted address reads as (log entry 4). -/
def Memory.wf (m : Memory) : Bool := Mem.wf m.mem

end Sys2Proof.Machine

namespace Sys2Proof.Safety
open Sys2Proof Sys2Proof.Machine

/-- A step that goes on. -/
def Goes (s : State) : Prop := ∃ t, step s = .next t

/-- A run of the module from a state. -/
inductive Runs : State → State → Prop
  | here (s : State) : Runs s s
  | step {s t u : State} : step s = .next t → Runs t u → Runs s u

/-- Every state that a run reaches goes on. -/
def Safe (s : State) : Prop := ∀ t, Runs s t → Goes t

/-- The strand at the focus may issue the instruction now: it may issue (R148, R54), no register that the instruction needs has a pending write (R72), and it is not in run-ahead (R201). -/
structure Issues (o : Op) (e : Enc) (s : State) : Prop where
  strand  : s.cur.strand ≠ seqIndex
  may     : s.mayIssue s.cur = true
  free    : (s.issue o e).blocked s = false
  normal  : (s.strand s.cur).ahead = none

/-- None of the faults that come before an instruction's own checks applies: privilege, window range, partial issue of a uniform instruction, a clobbered live-in, poison (R54 steps 1 to 3). -/
structure Clear (o : Op) (e : Enc) (s : State) : Prop extends Issues o e s where
  checks : (s.issue o e).firstTrap s = none

/-- As `Clear`, with at least one active lane (R29). -/
structure Active (o : Op) (e : Enc) (s : State) : Prop extends Clear o e s where
  active : (s.issue o e).act ≠ 0

/-- The matrix sequencer of the core at the focus runs the stream `x` and may issue the instruction now, which is legal in a stream and reads no comb word with a pending write or a poison mark (R33, R52, R202, R277). -/
structure StreamActive (o : Op) (e : Enc) (s : State) (x : Stream) : Prop where
  stream : s.cur.strand = seqIndex
  runs   : s.stream? s.cur.core = some x
  may    : s.seqMay s.cur.core x = true
  free   : ((o.reads e 0).any fun r => ((s.comb s.cur.core x.slot).pendingWords s.clock.cycle).contains r) = false
  legal  : o.seqLegal e = true
  clean  : s.seqPoison s.cur.core x o e = none

/-- The strand enters its trap handler for a cause now: nothing that trap entry waits for is pending, and no handler is active (R414, R416). -/
structure MayTrap (s : State) (w : Sid) : Prop where
  entry : (s.strand w).entryFree = true
  act   : (s.strand w).act = false

/-- The instruction completes: it writes `f lane` to its destination D and the issuing lanes move past it (R44, R75, R149). -/
def Results (n : Instr) (o : Op) (e : Enc) (s : State) (f : Issue → Nat → Word) : Prop :=
  exec n s = .next ((s.writeD (s.issue o e) (f (s.issue o e))).advance (s.issue o e))

/-- The instruction completes: it writes `v` to the uniform register or comb word that D names and moves on. -/
def Sets (n : Instr) (o : Op) (e : Enc) (s : State) (v : Issue → Word) : Prop :=
  exec n s = .next ((s.writeS s.cur e.d.toNat (v (s.issue o e))).advance (s.issue o e))

/-- The instruction completes: it changes its strand by `f` and moves on. -/
def Changes (n : Instr) (o : Op) (e : Enc) (s : State) (f : Issue → Strand → Strand) : Prop :=
  exec n s = .next ((s.onStrand s.cur (f (s.issue o e))).advance (s.issue o e))

/-- The instruction raises a fault of its own: where the strand may enter its handler, the registers of trap entry are written (R414). -/
def Traps (n : Instr) (o : Op) (e : Enc) (s : State) (t : Trap) : Prop :=
  MayTrap s s.cur → exec n s = .next (s.onStrand s.cur fun st => st.enterTrap t.cause.code t.tval (s.issue o e).pc (s.issue o e).group false)

/-- The exact value that .ov checks stays in range: all 32 positions for an affine destination, the active lanes for a varying one, the one value for a uniform one (R47, R76). -/
def InRange (o : Op) (e : Enc) (s : State) (f : Issue → Nat → Int) : Prop :=
  let i := s.issue o e
  e.qbit 0 = true → ∀ l < 32, (match i.dClass with | .a => True | .s => l = 0 | _ => i.act.getLsbD l = true) → -(2 ^ 31 : Int) ≤ f i l ∧ f i l ≤ 2 ^ 31 - 1

/-- The pair of an affine register of the strand at the focus. -/
def affine (s : State) (n : Nat) : Word × Word := Tab.get (0, 0) (s.strand s.cur).regs.a n

/-- The instruction completes with the pair `v` in the affine register that D names (R46). -/
def Pairs (n : Instr) (e : Enc) (s : State) (v : Word × Word) : Prop :=
  ∃ t, exec n s = .next t ∧ t.cur = s.cur ∧ affine t e.d.toNat = v

/-- Every access of the list passes the checks of R183: aligned, in a range that the space has, translated to the places `spots` without a fault, outside every range lock, and reachable; and the instruction's own check between them finds nothing. -/
structure Reaches (s : State) (i : Issue) (sp : Space) (l : List (Nat × Nat)) (n : Need) (spots : List Spot) : Prop where
  aligned   : ∀ x ∈ l, x.2 % n.size = 0
  ranged    : ∀ x ∈ l, s.addressOk i.w sp x.2 n.size = true
  located   : s.locateAll i.w i.st.trap.priv sp n.acc l = spots.map Located.ok
  more      : n.more spots = none
  unlocked  : ∀ x ∈ spots, s.conflictAt i.w sp n.use x.addr n.size = false
  reachable : sp = .fabric → ∀ x ∈ spots, s.reachable (fabDev x.addr) = true

/-- The step completes: it answers a next state, of which `p` holds. -/
def Becomes (n : Instr) (s : State) (p : State → Prop) : Prop := ∃ t, exec n s = .next t ∧ p t

/-- The conditions of R81, in the order of SUB. -/
def conditions : List (Word → Word → Bool) :=
  [fun x y => x == y, fun x y => x != y, fun x y => x.slt y, fun x y => x.sle y, fun x y => y.slt x, fun x y => y.sle x,
   fun x y => x.ult y, fun x y => x.ule y, fun x y => y.ult x, fun x y => y.ule x]

/-- The width of an element of ADDS and SUBS by SUB (R74). -/
def satElement (sub : Nat) : Nat := [32, 32, 16, 16, 8, 8].getD sub 32

/-- Element `j` of width `w` of a word, signed or unsigned (R78). -/
def element (w : Nat) (unsigned : Bool) (x : Word) (j : Nat) : Int :=
  let v := x.extractLsb' (w * j) w
  if unsigned then v.toNat else v.toInt

/-- The range of a signed or unsigned element of width `w` (R78). -/
def lowest (w : Nat) (unsigned : Bool) : Int := if unsigned then 0 else -(2 ^ (w - 1) : Nat)

/-- The highest value of an element. -/
def highest (w : Nat) (unsigned : Bool) : Int := if unsigned then (2 ^ w : Nat) - 1 else (2 ^ (w - 1) : Nat) - 1

/-- The instruction completes with a value rounded once, element by element, from the exact result `f` of the decoded operands, under MODE; STEP advances as R100 says (R102, R112). -/
def Rounds (n : Instr) (o : Op) (e : Enc) (s : State) (f : RMode → FVal → FVal → FVal → XReal) : Prop :=
  let i := s.issue o e
  let code := pairFmt e.sub.toNat
  let rm := modeRm i.st.sp.mode
  let v := (fmtOf code).decode
  exec n s = .next (((s.writeD i fun l => byElement e.sub.toNat (fun j p q r => i.rounded code l j (f rm (v p) (v q) (v r)))
    (i.opnd s .a l) (i.opnd s .b l) (i.opnd s .c l)).stepped i rm).advance i)

/-- The instruction completes with the transcendental function of each lane rounded once (R114); where `f` does not decide the value, the result is a free value. -/
def Transcends (n : Instr) (o : Op) (e : Enc) (s : State) (f : FVal → Option XReal) : Prop :=
  let i := s.issue o e
  exec n s = .next (((s.writeD i fun l => match f ((fmtOf 0).decode (i.opnd s .a l).toNat) with
      | some v => BitVec.ofNat 32 (i.rounded 0 l 0 v)
      | none => Config.undecided o.code (i.opnd s .a l)).stepped i (modeRm i.st.sp.mode)).advance i)

/-- The largest finite value of a floating format by its code (R90). -/
def maxFinite (code : Nat) : ℚ := [(2 - 2 ^ (-23 : Int)) * 2 ^ 127, 65504, (2 - 2 ^ (-7 : Int)) * 2 ^ 127, 57344, 448, 28, 15 / 2, 6].getD code 0

/-- The value of an exact number. -/
def exactValue (d : Dy) : ℚ := d.s * 2 ^ d.e

/-- The increment of R98 for a magnitude of `t` spacings and the fraction `f` of one more: `neg` is the sign, and `rand` what RandBits gives. -/
def roundUp (rm : RMode) (neg : Bool) (t : Int) (f : ℚ) (rand : Nat) : Int :=
  let up := match rm with
    | .rne => decide (f > 1 / 2) || (decide (f = 1 / 2) && decide (t % 2 = 1))
    | .rtz => false
    | .rup => decide (f > 0) && !neg
    | .rdn => decide (f > 0) && neg
    | .rs => decide (⌊f * 2 ^ 16⌋ + rand ≥ 2 ^ 16)
  if up then 1 else 0

/-- The least value of an integer format by its code (R88). -/
def intLow (code : Nat) : Int := if code % 2 = 1 then 0 else -(2 ^ (codeWidth code - 1) : Nat)

/-- The greatest value of an integer format. -/
def intHigh (code : Nat) : Int := if code % 2 = 1 then (2 ^ codeWidth code : Nat) - 1 else (2 ^ (codeWidth code - 1) : Nat) - 1

/-- The issuing lanes move where `target` sends each, every other lane stays, and the strand's registers become `regs`; memory does not change. -/
def Moves (n : Instr) (o : Op) (e : Enc) (s : State) (target : Nat → Pc) (regs : Regs) : Prop :=
  ∃ t, exec n s = .next t ∧ t.cur = s.cur ∧ t.memory = s.memory ∧ (t.strand s.cur).regs = regs ∧ (t.strand s.cur).live = (s.strand s.cur).live ∧
    ∀ l < 32, (t.strand s.cur).pc l = if (s.issue o e).group.getLsbD l then target l else (s.strand s.cur).pc l

/-- The registers that an instruction uses: sources, destinations, and the range that IDEM declares. -/
def named (o : Op) (e : Enc) (s : State) : List Reg :=
  let wb := (s.strand s.cur).sp.wb
  o.reads e wb ++ o.writes e wb ++ o.names e wb

/-- The instruction passes the privilege check (R407). -/
def Permitted (o : Op) (e : Enc) (s : State) : Prop := o.privileged e = true → (s.strand s.cur).trap.priv = true

/-- The instruction passes the window check too (R48): every varying register that it uses lies below n. -/
def InWindow (o : Op) (e : Enc) (s : State) : Prop := Permitted o e s ∧ ∀ k, Reg.v k ∈ named o e s → k < (s.strand s.cur).sp.n

/-- The instruction passes the check of R45 too: it changes nothing that all lanes share, or its active mask is empty or the live mask. -/
def Whole (o : Op) (e : Enc) (s : State) : Prop :=
  InWindow o e s ∧ (o.uniform e (s.strand s.cur).sp.wb = false ∨ (s.issue o e).act = 0 ∨ (s.issue o e).act = (s.strand s.cur).live)

/-- What LD, LDG, ST and STS need of an access: its size and kind (R183 to R185). -/
def loadNeed (i : Issue) : Need := { size := i.accessSize, acc := .read, use := .read, more := noMore }

/-- The need of a store. -/
def storeNeed (i : Issue) : Need := { size := i.accessSize, acc := .write, use := .write, more := noMore }

/-- The strand has room for `n` more outstanding sectors (R198). -/
def Room (st : Strand) (n : Nat) : Prop := st.oc + n ≤ 64

/-- The reservations that the home slice of a byte holds (R214). -/
def sliceResvs (s : State) (pa : Nat) : List Resv :=
  s.cores.flatMap fun c => c.2.combs.flatMap fun k => match k.2 with
    | some k => k.strands.flatMap fun x => (x.2.flight.resv.filterMap fun y => y.2).filter fun r => homeDie r.pa == homeDie pa && homeSlice r.pa == homeSlice pa
    | none => []

/-- What an atomic needs of its accesses (R227, R231). -/
def atomNeed (o : Op) (e : Enc) : Need :=
  { size := (atomKind o e).size, acc := (atomKind o e).access, use := .write,
    more := fun l => (l.find? fun x => !supported (atomKind o e) (spaceOf e) x.pa).map fun x => Trap.of .atomUnsupported x.addr }

/-- The result of Update on a byte barrier (R258): PEND, EXP, ARR and PH as fields. -/
def Updated (b b' : Nat) (add : Int) (arrive : Nat) : Prop :=
  let p := sx b 24 + add; let arr := bits b 38 32 + arrive; let turn := arr = bits b 30 24 ∧ p = 0
  sx b' 24 = p ∧ bits b' 38 32 = (if turn then 0 else arr) ∧ bits b' 30 24 = bits b 30 24 ∧ bit b' 39 = (bit b 39 != decide turn) ∧ bits b' 63 40 = bits b 63 40

/-- The check of a cell record passes (R327): it can be read, lies in device memory, its line does not wait and has its token (R368), and it is valid. -/
structure HasRecord (s : State) (i : Issue) (va pa : Nat) : Prop where
  reaches : Reaches s i .global [(32, va)] { size := 64, acc := .read, use := .read, more := noMore } [{ lane := 32, addr := va, pa := pa }]
  device  : isDevice pa = true
  ready   : s.homeWaits (lineOf pa) = false
  token   : ((s.rememberAll i.w .global [(32, va)]).payIssue i.w [lineOf pa]).1 = true
  valid   : recordBad (s.ownRead i.w va pa 64) = none

/-- The stream of a core ends with a fault (R282): the end state of its comb holds the cause, the PC and the operand, and the sequencer is idle. -/
def StreamFaults (n : Instr) (s : State) (core : Nat) (x : Stream) (cause : Cause) (pc : Nat) (tval : Dbl) : Prop :=
  Becomes n s fun t => t.stream? core = none ∧ t.memory = s.memory ∧ (t.core core).lm = (s.core core).lm ∧ (t.core core).matrix.acc = (s.core core).matrix.acc ∧
    ((s.comb? core x.slot).isSome = true → (t.comb core x.slot).ending = some { cause := cause.code, pc := pc, tval := tval })

/-- The canonical form of memory and of its tables: byte addresses, cache pages and window numbers rise, and no entry equals what an unlisted one reads as. -/
def WellKept (s : State) : Prop := s.memory.wf = true ∧ Tab.wf {} s.memory.pages = true ∧ Tab.wf {} s.fabric.windows = true

end Sys2Proof.Safety
end

