-- ==== Sys2Proof/Certificates/Slice0/Obligations.lean ====
section
/-! DEFINITION. The statements for the provers. A statement of several parts joins propositions of `Sys2Proof.Statements`, each stated just before it. -/

open Sys2Proof Sys2Proof.Machine Sys2Proof.Safety

/-- Words of the spec's encoding examples decode to their instructions, with every operand: NOP, ADD, LD, ADD with .ov, a guarded ADD with a literal, MUL, CMP, BRU and MMA. -/
def Obligations.ExampleWordsDecode : Prop :=
  let one : Enc := { len := .one, i := false, b := 0, a := 0, d := 0, sub := 0, ls := 0, qb := 0, tf := 31, g := 0, c := 0, w2 := 0 }
  decodeTableWord 32 0x00000004 = some (.nop one) ∧
  decodeTableWord 32 0x03021080 = some (.add { one with tf := 11, d := 4, a := 1, b := 3 }) ∧
  decodeTableWord 32 0x90060A40 = some (.ld { one with i := true, tf := 21, d := 2, a := 3, b := 16 }) ∧
  decodeTableWord 64 0x00012800070A1481 = some (.add { one with len := .two, tf := 5, d := 5, a := 5, b := 7, qb := 1 }) ∧
  decodeTableWord 96 0x1234567800005D0000122482 = some (.add { one with len := .three, tf := 11, d := 9, a := 9, g := 10, w2 := 0x12345678 }) ∧
  decodeTableWord 32 0x05040C9C = some (.mul { one with tf := 11, d := 3, a := 2, b := 5 }) ∧
  decodeTableWord 64 0x0200C80006080911 = some (.cmp { one with len := .two, tf := 25, d := 2, a := 4, b := 6, sub := 2 }) ∧
  decodeTableWord 32 0x7FF80E08 = some (.bru { one with d := 3, a := 124, b := 127 }) ∧
  decodeTableWord 64 0x0000F80601100ECD = some (.mma { one with len := .two, d := 3, a := 8, b := 1, c := 6 })

/-- Decoding and encoding agree (R20 to R34): the bytes of a well-formed instruction, whatever follows them, decode to that instruction and leave what follows; and bytes that decode are the bytes of the well-formed instruction read, and what follows it. -/
def Obligations.DecodeAndEncodeAgree : Prop :=
  (∀ (i : Instr) (rest : List Byte), i.wellFormed = true → decodeBytes (encode i ++ rest) = .ok (i, rest)) ∧
  (∀ (l rest : List Byte) (i : Instr), decodeBytes l = .ok (i, rest) → i.wellFormed = true ∧ encode i ++ rest = l)

/-- A step runs the decoded instruction (R12, R20, R32, R148, R280): where a strand or a stream is chosen to issue, its fetch gives an instruction and the clock has an issue slot for it, the step is exec of that instruction at the focus with the slot taken, and then time passes; with no slot left the instruction stands; a core that has issued nothing in the cycle has one; a strand that holds a fault enters its handler, and a pre-empted comb whose strands are saved gives up the core; a word of code is the four bytes of memory at its address where no cached copy lives; words that decode are the instruction of the fetch; a word that does not decode gives ILLEGAL_INSTR; the step of an agent or of the outside world is exec of it. -/
def Obligations.StepRunsDecoded : Prop :=
  (∀ (s : State) (w : Sid) (i : Instr) (o : Op) (e : Enc), s.chosen = some (.issue w) → let f := ({ s with cur := w } : State).fetchStrand w; f.1 = .instr i → i.parts = some (o, e) →
    (f.2.slotFree f.2.cur o e = true → step s = after State.tick (exec i (f.2.takeSlot f.2.cur o e))) ∧ (f.2.slotFree f.2.cur o e = false → step s = .next f.2.tick)) ∧
  (∀ (s : State) (core : Nat) (x : Stream) (i : Instr), s.chosen = some (.stream core) → s.stream? core = some x → let u : State := { s with cur := { core := core, slot := x.slot, strand := seqIndex } }
    let f := u.fetchStream core; ∀ o e, f.1 = .instr i → i.parts = some (o, e) →
    (f.2.slotFree f.2.cur o e = true → step s = after State.tick (exec i (f.2.takeSlot f.2.cur o e))) ∧ (f.2.slotFree f.2.cur o e = false → step s = .next f.2.tick)) ∧
  (∀ (l rest : List Byte) (i : Instr), decodeBytes l = .ok (i, rest) → i.parts.isSome = true) ∧
  (∀ (s : State) (w : Sid) (o : Op) (e : Enc), (∃ l, s.takeSlot w o e = s.onCore w.core fun k => { k with issued := l }) ∧
    ((∀ x ∈ (s.core w.core).issued, x.cycle ≠ s.clock.cycle) → s.slotFree w o e = true)) ∧
  (∀ (s : State) (w : Sid), s.chosen = some (.enter w) → step s = .next (s.enterPending w).tick) ∧ (∀ (s : State) (core slot : Nat), s.chosen = some (.drain core slot) → step s = .next (s.drainComb core slot).tick) ∧
  (∀ (s : State) (i : Instr), s.chosen = some (.event i) → step s = after State.tick (exec i s)) ∧
  (∀ (s : State) (i : Instr) (l : List Instr), s.chosen = some .input → s.inputs = i :: l →
    step s = after State.tick (after (State.requeue i) (exec i { s with inputs := l, retry := none }))) ∧
  (∀ (s : State), s.chosen = none → step s = .next s.tick) ∧
  (∀ (s : State) (core : Nat) (t : BitVec 16) (priv : Bool) (origin va pa : Nat), s.translate core t priv .fetch va = .ok pa → pa % 4 = 0 →
    liveCopy (s.core core).icache (sectorOf pa) s.clock.gt = none → s.homeWaits (lineOf pa) = false → s.linePoison (lineOf pa) = false →
    ∃ u, s.codeWord core t priv origin va = (.ok (BitVec.ofNat 32 (Mem.read s.memory.mem pa 4)), u) ∧ u.memory.mem = s.memory.mem ∧ u.cur = s.cur ∧ u.clock = s.clock ∧
      ∀ w, let a := u.strand w; let b := s.strand w; a.regs = b.regs ∧ a.pcs = b.pcs ∧ a.live = b.live ∧ a.sp = b.sp ∧ a.trap = b.trap ∧ a.region = b.region ∧ a.sched = b.sched) ∧
  (∀ (s s0 s1 s2 : State) (core : Nat) (t : BitVec 16) (priv : Bool) (origin pc : Nat) (w0 w1 w2 : Word), s.codeWord core t priv origin pc = (.ok w0, s0) →
    (∀ i rest, decodeBytes (bytesOf w0) = .ok (i, rest) → s.fetchAt core t priv origin pc = (.instr i, s0)) ∧
    (w0.extractLsb' 0 2 = 3 → s.fetchAt core t priv origin pc = (.trap .illegalInstr w0.toNat, s0)) ∧
    (s0.codeWord core t priv origin (pc + 4) = (.ok w1, s1) → w0.extractLsb' 0 2 ≠ 0 →
      (∀ i, decodeBytes (bytesOf w0 ++ bytesOf w1) = .ok (i, []) → s.fetchAt core t priv origin pc = (.instr i, s1)) ∧
      (s1.codeWord core t priv origin (pc + 8) = (.ok w2, s2) → ∀ i, decodeBytes (bytesOf w0 ++ bytesOf w1 ++ bytesOf w2) = .ok (i, []) →
        s.fetchAt core t priv origin pc = (.instr i, s2))))

/-- Nothing stops the module (R20, R32, R165, R200, R282, R413 to R416): every instruction and every step of an agent has a next state, in every state; so every run goes on for ever. -/
def Obligations.EveryStepGoesOn : Prop :=
  (∀ (i : Instr) (s : State), ∃ t, exec i s = .next t) ∧ (∀ s, Safe s)

/-- Every step keeps memory, the page table of the caches and the window table in their canonical form, from every state that has it; so does the machine that runs one given instruction. -/
def Obligations.StepKeepsForm : Prop :=
  (∀ (s t : State), WellKept s → step s = .next t → WellKept t) ∧ (∀ (i : Instr) (s t : State), WellKept s → exec i s = .next t → WellKept t) ∧
  (∀ (s : State) (nbits w : Nat), WellKept (s.withFetchWord nbits w))

/-- The module right after reset, where the spec gives the value: no core holds a comb, both function-table banks are empty and bank 0 is current (R124), every accumulator element is +0 with the tag FP32 (R286), every notify sequence is 0 (R335), no slice entry is valid (R340), no queue is enabled (R320), no route and no window is valid (R373, R377), the accord is off with LEAD 50, LIMIT 2200 and TRIP 800 (R395), SECPOL acts on no lock (R433), and READY is 0 (R441); memory and its tables are in their canonical form. -/
def Obligations.ResetState : Prop :=
  let r := State.reset
  (∀ c n, r.comb? c n = none) ∧
  (∀ c, (r.core c).curBank = 0 ∧ (∀ b, ((Tab.get {} (r.core c).banks b) : Bank).loaded = false) ∧ (r.core c).matrix.stream = none ∧
    (∀ k, Tab.get 0 (r.core c).matrix.acc k = 0) ∧ (∀ z, Tab.get false (r.core c).matrix.intTag z = false) ∧ (∀ e, ((Tab.get {} (r.core c).slices e) : SliceEntry).valid = false)) ∧
  (∀ n, (r.notifyOf n).seq = 0 ∧ (r.notifyOf n).parked = []) ∧ (∀ q, (r.queue q).en = false) ∧ (∀ q, (r.drone q).en = false) ∧
  (∀ v, (r.route v).valid = false) ∧ (∀ n, (r.window n).valid = false) ∧
  r.accord.en = false ∧ r.accord.state = .solo ∧ r.readMgmt .accctl = 50 ∧ r.readMgmt .acclim = 800 * 65536 + 2200 ∧
  r.readMgmt .devstat = 0 ∧ r.readMgmt .hlogtail = 0 ∧ r.readMgmt .secstat = 0 ∧ r.sec.lock = false ∧ r.mgmt.dbgLock = false ∧ WellKept r

/-- Memory (R2, and log entry 4 for what an unlisted byte reads as): every write keeps the canonical form, reads back as written and changes no other byte; two memories in the canonical form that read alike are equal; a store at a home writes its bytes and no other. -/
def Obligations.MemoryLaws : Prop :=
  (∀ (m : Mem) (a n v : Nat), Mem.read (Mem.write m a n v) a n = v % 256 ^ n ∧ (∀ b, b < a ∨ a + n ≤ b → Mem.byte (Mem.write m a n v) b = Mem.byte m b) ∧
    (Mem.wf m = true → Mem.wf (Mem.write m a n v) = true)) ∧
  (∀ (m : Mem) (a mask v n : Nat), (Mem.wf m = true → Mem.wf (Mem.writeMasked m a mask v n) = true) ∧
    ∀ b, Mem.byte (Mem.writeMasked m a mask v n) b = if a ≤ b ∧ b < a + n ∧ mask.testBit (b - a) = true then BitVec.ofNat 8 (v / 256 ^ (b - a)) else Mem.byte m b) ∧
  (∀ (m m' : Mem), Mem.wf m = true → Mem.wf m' = true → (∀ a, Mem.byte m a = Mem.byte m' a) → m = m') ∧
  (∀ (m : Mem) (p : Nat × Byte → Bool), Mem.wf m = true → Mem.wf (m.filter p) = true) ∧
  (∀ (m : Mem) (l : List (Nat × Byte)), Mem.wf m = true → Mem.wf (Mem.writeCells m l) = true) ∧
  (∀ (s : State) (pa n v : Nat), pa % 64 + n ≤ 64 → 1 ≤ n → let t := s.homeStore pa n v
    Mem.read t.memory.mem pa n = v % 256 ^ n ∧ (∀ a, a < pa ∨ pa + n ≤ a → Mem.byte t.memory.mem a = Mem.byte s.memory.mem a) ∧ (Mem.wf s.memory.mem = true → Mem.wf t.memory.mem = true)) ∧
  Mem.wf State.reset.memory.mem = true

/-- What an instruction that writes a result leaves alone (R29, R42 to R47, R75, R149): it writes the active lanes of a varying or mask destination, one value for a uniform one and the pair for an affine one; a comb word takes the value by comb order, so that the strand reads it from the next cycle and every strand from the second; a write to k0 is discarded; every other register and comb word, every special and trap register, the live mask, memory, and every other strand are unchanged; the issuing lanes move past the instruction and the others stay. The same of an instruction that sets one uniform register. -/
def Obligations.ResultsChangeTheirDestination : Prop :=
  ∀ (n : Instr) (o : Op) (e : Enc) (s : State), Issues o e s → (s.comb? s.cur.core s.cur.slot).isSome = true →
  let w := s.cur; let i := s.issue o e; let st := s.strand w; let d := e.d.toNat; let c := classOf e.tf.toNat .d
  let frame := fun (t : State) => let u := t.strand w
    t.memory = s.memory ∧ t.sched = s.sched ∧ t.fabric = s.fabric ∧ t.mgmt = s.mgmt ∧ (t.core w.core).lm = (s.core w.core).lm ∧ (∀ x, x ≠ w → t.strand x = s.strand x) ∧
    u.sp = st.sp ∧ u.trap = st.trap ∧ u.live = st.live ∧ u.flight = st.flight ∧ u.region = st.region ∧ u.ferr = st.ferr ∧
    (∀ l < 32, u.pc l = if i.group.getLsbD l then i.next else st.pc l)
  let k := s.comb w.core w.slot; let now := s.clock.cycle
  let words := fun (t : State) (d : Nat) (v : Word) => ∀ j x c', now ≤ c' →
    (j ≠ d → (t.comb w.core w.slot).readWord x c' j = k.readWord x c' j) ∧
    (j = d → (∀ y ∈ k.log, y.cycle < now ∨ y.cycle = now ∧ y.strand ≤ w.strand) → now + 2 ≤ c' ∨ x = w.strand ∧ now < c' → (t.comb w.core w.slot).readWord x c' j = v)
  (∀ (f : Issue → Nat → Word), Results n o e s f → Becomes n s fun t => let u := t.strand w; frame t ∧
    (∀ k, Tab.get 0 u.regs.s k = if c = .s ∧ k = d ∧ d < 64 then f i 0 else Tab.get 0 st.regs.s k) ∧
    (∀ k, Tab.get (0, 0) u.regs.a k = if c = .a ∧ k = d then (f i 0, f i 1 - f i 0) else Tab.get (0, 0) st.regs.a k) ∧
    (∀ k, ∀ l < 32, (u.mask k).getLsbD l = if c = .k ∧ k = d ∧ d ≠ 0 ∧ i.act.getLsbD l then (f i l).getLsbD 0 else (st.mask k).getLsbD l) ∧
    (∀ k, ∀ l < 32, (Tab.get (Lanes.all 0) u.regs.v k).at l = if c = .v ∧ k = st.sp.wb + d ∧ i.act.getLsbD l then f i l else (Tab.get (Lanes.all 0) st.regs.v k).at l) ∧
    (if c = .s ∧ 64 ≤ d then words t (d - 64) (f i 0) else (t.comb w.core w.slot).words = k.words ∧ (t.comb w.core w.slot).log = k.log)) ∧
  (∀ (v : Issue → Word), Sets n o e s v → Becomes n s fun t => let u := t.strand w; frame t ∧
    (∀ k, Tab.get 0 u.regs.s k = if k = d ∧ d < 64 then v i else Tab.get 0 st.regs.s k) ∧ u.regs.a = st.regs.a ∧ u.regs.k = st.regs.k ∧ u.regs.v = st.regs.v ∧
    (if 64 ≤ d then words t (d - 64) (v i) else (t.comb w.core w.slot).words = k.words ∧ (t.comb w.core w.slot).log = k.log))

/-- The results of R77: sums, differences and products modulo 2^32, the absolute value, and the high halves of the signed and unsigned products. Each is what the exact integer leaves. -/
def Sys2Proof.Statements.ArithmeticFunctions : Prop :=
  ∀ (e : Enc) (s : State), let A := fun (i : Issue) => i.opnd s .a; let B := fun (i : Issue) => i.opnd s .b; let C := fun (i : Issue) => i.opnd s .c
  (Active .add e s → InRange .add e s (fun i l => (A i l).toInt + (B i l).toInt) →
    Results (.add e) .add e s fun i l => BitVec.ofInt 32 ((A i l).toInt + (B i l).toInt)) ∧
  (Active .sub e s → InRange .sub e s (fun i l => (A i l).toInt - (B i l).toInt) →
    Results (.sub e) .sub e s fun i l => BitVec.ofInt 32 ((A i l).toInt - (B i l).toInt)) ∧
  (Active .neg e s → InRange .neg e s (fun i l => -(A i l).toInt) → Results (.neg e) .neg e s fun i l => BitVec.ofInt 32 (-(A i l).toInt)) ∧
  (Active .abs e s → Results (.abs e) .abs e s fun i l => BitVec.ofInt 32 |(A i l).toInt|) ∧
  (Active .mul e s → InRange .mul e s (fun i l => (A i l).toInt * (B i l).toInt) →
    Results (.mul e) .mul e s fun i l => BitVec.ofInt 32 ((A i l).toInt * (B i l).toInt)) ∧
  (Active .mulh e s → Results (.mulh e) .mulh e s fun i l => ((A i l).signExtend 64 * (B i l).signExtend 64).extractLsb' 32 32) ∧
  (Active .mulhu e s → Results (.mulhu e) .mulhu e s fun i l => ((A i l).setWidth 64 * (B i l).setWidth 64).extractLsb' 32 32) ∧
  (Active .mad e s → InRange .mad e s (fun i l => (A i l).toInt * (B i l).toInt + (C i l).toInt) →
    Results (.mad e) .mad e s fun i l => BitVec.ofInt 32 ((A i l).toInt * (B i l).toInt + (C i l).toInt))

/-- The pairs of an affine destination: the closures of R46, with NEG (R77), LEA (R86), SHL (R83), AFF (R59), LANEID (R58) and MOV (R56). -/
def Sys2Proof.Statements.AffinePairs : Prop :=
  ∀ (e : Enc) (s : State), e.qbit 0 = false →
  let x := affine s e.a.toNat; let y := affine s e.b.toNat; let z := affine s e.c.toNat
  let u := fun o => (s.issue o e).opnd s .a 0; let v := fun o => (s.issue o e).opnd s .b 0
  let lit := fun (o : Op) (f : Fld) => e.literal o f = false ∧ ¬ (f = .b ∧ e.i = true)
  (Active .add e s → e.tf = 4 → lit .add .a → lit .add .b → Pairs (.add e) e s (x.1 + y.1, x.2 + y.2)) ∧
  (Active .add e s → e.tf = 5 → lit .add .a → Pairs (.add e) e s (x.1 + v .add, x.2)) ∧
  (Active .add e s → e.tf = 6 → lit .add .b → Pairs (.add e) e s (u .add + y.1, y.2)) ∧
  (Active .sub e s → e.tf = 4 → lit .sub .a → lit .sub .b → Pairs (.sub e) e s (x.1 - y.1, x.2 - y.2)) ∧
  (Active .sub e s → e.tf = 5 → lit .sub .a → Pairs (.sub e) e s (x.1 - v .sub, x.2)) ∧
  (Active .sub e s → e.tf = 6 → lit .sub .b → Pairs (.sub e) e s (u .sub - y.1, -y.2)) ∧
  (Active .mul e s → e.tf = 5 → lit .mul .a → Pairs (.mul e) e s (x.1 * v .mul, x.2 * v .mul)) ∧
  (Active .mul e s → e.tf = 6 → lit .mul .b → Pairs (.mul e) e s (u .mul * y.1, u .mul * y.2)) ∧
  (Active .mad e s → e.tf = 8 → lit .mad .a → lit .mad .c → Pairs (.mad e) e s (x.1 * v .mad + z.1, x.2 * v .mad + z.2)) ∧
  (Active .shl e s → e.tf = 5 → lit .shl .a → Pairs (.shl e) e s (x.1 <<< v .shl, x.2 <<< v .shl)) ∧
  (Active .neg e s → e.tf = 5 → lit .neg .a → Pairs (.neg e) e s (-x.1, -x.2)) ∧
  (Active .lea e s → e.tf = 4 → lit .lea .a → lit .lea .b → Pairs (.lea e) e s (x.1 + y.1 <<< e.sub.toNat, x.2 + y.2 <<< e.sub.toNat)) ∧
  (Active .lea e s → e.tf = 5 → lit .lea .a → Pairs (.lea e) e s (x.1 + v .lea <<< e.sub.toNat, x.2)) ∧
  (Active .lea e s → e.tf = 6 → lit .lea .b → Pairs (.lea e) e s (u .lea + y.1 <<< e.sub.toNat, y.2 <<< e.sub.toNat)) ∧
  (Active .aff e s → e.tf = 7 → Pairs (.aff e) e s (u .aff, v .aff)) ∧
  (Active .laneid e s → e.tf = 7 → Pairs (.laneid e) e s (0, 1)) ∧
  (Active .mov e s → e.tf = 5 → lit .mov .a → Pairs (.mov e) e s x)

/-- AFFINE_OVERFLOW (R47, R76): with .ov, an exact value outside −2^31 to 2^31 − 1 in any of the 32 lane positions of an affine destination, in an active lane of a varying one, or in a uniform one, traps and writes nothing; TVAL holds the positions that overflowed, and for a uniform destination the active mask. -/
def Sys2Proof.Statements.OverflowTraps : Prop :=
  ∀ (e : Enc) (s : State) (m : Mask), e.qbit 0 = true → m ≠ 0 → let A := fun (i : Issue) l => (i.opnd s .a l).toInt; let B := fun (i : Issue) l => (i.opnd s .b l).toInt; let C := fun (i : Issue) l => (i.opnd s .c l).toInt
  let overflows := fun (n : Instr) (o : Op) (f : Issue → Nat → Int) => Active o e s → let i := s.issue o e; let out := fun l => f i l < -(2 ^ 31 : Int) ∨ 2 ^ 31 - 1 < f i l
    (i.dClass = .a → (∀ l < 32, m.getLsbD l = true ↔ out l) → Traps n o e s { cause := .affineOverflow, tval := m.setWidth 64 }) ∧
    (i.dClass = .v → (∀ l < 32, m.getLsbD l = true ↔ i.act.getLsbD l = true ∧ out l) → Traps n o e s { cause := .affineOverflow, tval := m.setWidth 64 }) ∧
    (i.dClass = .s → out 0 → Traps n o e s { cause := .affineOverflow, tval := i.act.setWidth 64 })
  overflows (.add e) .add (fun i l => A i l + B i l) ∧ overflows (.sub e) .sub (fun i l => A i l - B i l) ∧ overflows (.neg e) .neg (fun i l => -A i l) ∧
  overflows (.mul e) .mul (fun i l => A i l * B i l) ∧ overflows (.mad e) .mad (fun i l => A i l * B i l + C i l) ∧
  overflows (.shl e) .shl (fun i l => A i l * (2 ^ (i.opnd s .b l).toNat : Nat)) ∧ overflows (.lea e) .lea (fun i l => A i l + B i l * (2 ^ e.sub.toNat : Nat)) ∧
  overflows (.aff e) .aff (fun i l => A i 0 + l * B i 0)

/-- ADD, SUB, NEG, ABS, MUL, MULH, MULHU and MAD complete with the functions of R77, modulo 2^32, where an .ov form is in range; and the affine forms of ADD, SUB, MUL, MAD, SHL, NEG, LEA, AFF, LANEID and MOV write the pair (base, stride) that R46 closes them under; with .ov, an exact value out of range traps with AFFINE_OVERFLOW and writes nothing (R47, R76). -/
def Obligations.ArithmeticResults : Prop :=
  Sys2Proof.Statements.ArithmeticFunctions ∧ Sys2Proof.Statements.AffinePairs ∧ Sys2Proof.Statements.OverflowTraps

/-- The division results of R80 with its borderline table: a zero divisor, and the most negative dividend by −1; the quotient rounds toward zero, and the remainder takes the sign of the dividend. -/
def Obligations.DivisionResults : Prop :=
  ∀ (e : Enc) (s : State), let A := fun (i : Issue) => i.opnd s .a; let B := fun (i : Issue) => i.opnd s .b
  (Active .div e s → Results (.div e) .div e s fun i l => if B i l = 0 then 0xFFFFFFFF else (A i l).sdiv (B i l)) ∧
  (Active .rem e s → Results (.rem e) .rem e s fun i l => if B i l = 0 then A i l else (A i l).srem (B i l)) ∧
  (Active .divu e s → Results (.divu e) .divu e s fun i l => if B i l = 0 then 0xFFFFFFFF else A i l / B i l) ∧
  (Active .remu e s → Results (.remu e) .remu e s fun i l => if B i l = 0 then A i l else A i l % B i l) ∧
  (0x80000000 : Word).sdiv 0xFFFFFFFF = 0x80000000 ∧ (0x80000000 : Word).srem 0xFFFFFFFF = 0 ∧
  (∀ x y : Word, y ≠ 0 → ¬ (x = 0x80000000 ∧ y = 0xFFFFFFFF) → (x.sdiv y).toInt = x.toInt.tdiv y.toInt ∧ (x.srem y).toInt = x.toInt.tmod y.toInt ∧
    x.toInt = (x.sdiv y).toInt * y.toInt + (x.srem y).toInt) ∧
  (∀ x y : Word, y ≠ 0 → x.toNat = (x / y).toNat * y.toNat + (x % y).toNat ∧ (x % y).toNat < y.toNat)

/-- ADDS and SUBS by elements (R78): each element of the result is the exact sum or difference of the elements, limited to the element's range. The elements fix the result. -/
def Sys2Proof.Statements.SaturatingResults : Prop :=
  ∀ (e : Enc) (s : State) (f : Issue → Nat → Word), let A := fun (i : Issue) => i.opnd s .a; let B := fun (i : Issue) => i.opnd s .b
  let sub := e.sub.toNat; let w := satElement sub; let u := sub % 2 == 1
  sub ≤ 5 →
  (Active .adds e s → let i := s.issue .adds e
    (∀ l < 32, ∀ j, j < 32 / w → element w u (f i l) j = max (lowest w u) (min (highest w u) (element w u (A i l) j + element w u (B i l) j))) →
    Results (.adds e) .adds e s f) ∧
  (Active .subs e s → let i := s.issue .subs e
    (∀ l < 32, ∀ j, j < 32 / w → element w u (f i l) j = max (lowest w u) (min (highest w u) (element w u (A i l) j - element w u (B i l) j))) →
    Results (.subs e) .subs e s f)

/-- MIN, MAX, MINU and MAXU by elements of 32, 16 or 8 bits (R78), and CLAMP (R82). -/
def Sys2Proof.Statements.MinMaxResults : Prop :=
  ∀ (e : Enc) (s : State) (f : Issue → Nat → Word),
  let A := fun (i : Issue) => i.opnd s .a; let B := fun (i : Issue) => i.opnd s .b; let C := fun (i : Issue) => i.opnd s .c
  let w := [32, 16, 8].getD e.sub.toNat 32
  e.sub.toNat ≤ 2 →
  (Active .min e s → let i := s.issue .min e; (∀ l < 32, ∀ j, j < 32 / w → element w false (f i l) j = min (element w false (A i l) j) (element w false (B i l) j)) → Results (.min e) .min e s f) ∧
  (Active .max e s → let i := s.issue .max e; (∀ l < 32, ∀ j, j < 32 / w → element w false (f i l) j = max (element w false (A i l) j) (element w false (B i l) j)) → Results (.max e) .max e s f) ∧
  (Active .minu e s → let i := s.issue .minu e; (∀ l < 32, ∀ j, j < 32 / w → element w true (f i l) j = min (element w true (A i l) j) (element w true (B i l) j)) → Results (.minu e) .minu e s f) ∧
  (Active .maxu e s → let i := s.issue .maxu e; (∀ l < 32, ∀ j, j < 32 / w → element w true (f i l) j = max (element w true (A i l) j) (element w true (B i l) j)) → Results (.maxu e) .maxu e s f) ∧
  (Active .clamp e s → Results (.clamp e) .clamp e s fun i l =>
    if e.sub = 1 then BitVec.ofNat 32 (min (max (A i l).toNat (B i l).toNat) (C i l).toNat)
    else BitVec.ofInt 32 (min (max (A i l).toInt (B i l).toInt) (C i l).toInt))

/-- The carry chain of R79: the 33-bit sum or difference with the incoming carry or borrow; D takes the low 32 bits and C, after D, the carry or borrow out. -/
def Sys2Proof.Statements.CarryResults : Prop :=
  ∀ (e : Enc) (s : State), let i := s.issue .addc e
  let A := i.opnd s .a; let B := i.opnd s .b; let C := i.opnd s .c
  let t := fun l => let cin := (BitVec.ofBool ((C l).getLsbD 0)).setWidth 33
    if e.sub = 1 then ((A l).setWidth 33 - (B l).setWidth 33 - cin : BitVec 33) else (A l).setWidth 33 + (B l).setWidth 33 + cin
  Active .addc e s →
  (e.tf = 23 → exec (.addc e) s = .next (((s.writeD i fun l => (t l).setWidth 32).onStrand s.cur fun st =>
    st.putK e.c.toNat i.act (Mask.of fun l => (t l).getLsbD 32)).advance i)) ∧
  (e.tf = 0 → exec (.addc e) s = .next (((s.writeD i fun l => (t l).setWidth 32).writeS s.cur e.c.toNat (if (t 0).getLsbD 32 then 1 else 0)).advance i))

/-- ADDS and SUBS limit the exact sum or difference of each element to the range of the element (R78); MIN, MAX, MINU and MAXU choose by elements of 32, 16 or 8 bits (R78), and CLAMP limits x to between y and z; ADDC adds with the incoming carry or subtracts with the incoming borrow, D takes the low 32 bits and C, after D, the carry or borrow out (R79). -/
def Obligations.SaturationAndCarry : Prop :=
  Sys2Proof.Statements.SaturatingResults ∧ Sys2Proof.Statements.MinMaxResults ∧ Sys2Proof.Statements.CarryResults

/-- CMP, SETC and SEL (R81, R82): the mask bits of the active lanes, with .z also zeros in every other bit whatever the active mask; all ones or zero in a uniform register; 1 or 0, or with .m all ones or zero; and the selection by condition. -/
def Obligations.CompareResults : Prop :=
  ∀ (e : Enc) (s : State) (c : Word → Word → Bool), conditions[e.sub.toNat]? = some c →
  let A := fun (i : Issue) => i.opnd s .a; let B := fun (i : Issue) => i.opnd s .b
  (Clear .cmp e s → (s.issue .cmp e).dClass = .k → let i := s.issue .cmp e
    exec (.cmp e) s = .next ((s.onStrand s.cur fun st =>
      st.putK e.d.toNat (if e.qbit 0 then BitVec.allOnes 32 else i.act) (Mask.of fun l => i.act.getLsbD l && c (A i l) (B i l))).advance i)) ∧
  (Active .cmp e s → (s.issue .cmp e).dClass = .s → Results (.cmp e) .cmp e s fun i l => if c (A i l) (B i l) then 0xFFFFFFFF else 0) ∧
  (Active .setc e s → Results (.setc e) .setc e s fun i l => if c (A i l) (B i l) then (if e.qbit 0 then 0xFFFFFFFF else 1) else 0) ∧
  (Active .sel e s → Results (.sel e) .sel e s fun i l => if i.opnd s .c l ≠ 0 then A i l else B i l)

/-- The logic and shift results of R83: the full 32-bit amount, so that an amount of 32 or more gives zeros or sign bits, and the rotation modulo 32. -/
def Sys2Proof.Statements.LogicAndShiftResults : Prop :=
  ∀ (e : Enc) (s : State), let A := fun (i : Issue) => i.opnd s .a; let B := fun (i : Issue) => i.opnd s .b
  (Active .and e s → Results (.and e) .and e s fun i l => A i l &&& B i l) ∧
  (Active .or e s → Results (.or e) .or e s fun i l => A i l ||| B i l) ∧
  (Active .xor e s → Results (.xor e) .xor e s fun i l => A i l ^^^ B i l) ∧
  (Active .andn e s → Results (.andn e) .andn e s fun i l => A i l &&& ~~~ B i l) ∧
  (Active .not e s → Results (.not e) .not e s fun i l => ~~~ A i l) ∧
  (Active .shl e s → InRange .shl e s (fun i l => (A i l).toInt * (2 ^ (B i l).toNat : Nat)) → Results (.shl e) .shl e s fun i l => A i l <<< B i l) ∧
  (Active .shr e s → Results (.shr e) .shr e s fun i l => A i l >>> B i l) ∧
  (Active .sar e s → Results (.sar e) .sar e s fun i l => (A i l).sshiftRight (B i l).toNat) ∧
  (Active .rol e s → Results (.rol e) .rol e s fun i l => (A i l).rotateLeft ((B i l).toNat % 32))

/-- Bit fields, bit counts, scaled addresses and byte products (R84 to R87). BFI is given bit by bit. -/
def Sys2Proof.Statements.BitFieldResults : Prop :=
  ∀ (e : Enc) (s : State) (f : Issue → Nat → Word),
  let A := fun (i : Issue) => i.opnd s .a; let B := fun (i : Issue) => i.opnd s .b; let C := fun (i : Issue) => i.opnd s .c
  let width := fun (i : Issue) l => min (C i l).toNat (32 - (B i l).toNat)
  let byte := fun (unsigned : Bool) (x : Word) j => element 8 unsigned x j
  (Active .bfx e s → Results (.bfx e) .bfx e s fun i l =>
    let v := (A i l).extractLsb' (B i l).toNat (width i l)
    if e.sub = 1 then v.signExtend 32 else v.setWidth 32) ∧
  (Active .bfi e s → let i := s.issue .bfi e; (∀ l < 32, ∀ k, k < 32 → (f i l).getLsbD k =
      if (B i l).toNat ≤ k ∧ k < (B i l).toNat + width i l then (A i l).getLsbD (k - (B i l).toNat) else (i.opnd s .d l).getLsbD k) →
    Results (.bfi e) .bfi e s f) ∧
  (Active .popc e s → Results (.popc e) .popc e s fun i l => BitVec.ofNat 32 ((List.range 32).countP fun k => (A i l).getLsbD k)) ∧
  (Active .clz e s → Results (.clz e) .clz e s fun i l => (A i l).clz) ∧
  (Active .brev e s → Results (.brev e) .brev e s fun i l => (A i l).reverse) ∧
  (Active .lea e s → InRange .lea e s (fun i l => (A i l).toInt + (B i l).toInt * (2 ^ e.sub.toNat : Nat)) →
    Results (.lea e) .lea e s fun i l => A i l + B i l <<< e.sub.toNat) ∧
  (Active .dot4 e s → Results (.dot4 e) .dot4 e s fun i l =>
    let p := fun j => byte (e.sub == 1) (A i l) j * byte (e.sub != 0) (B i l) j
    BitVec.ofInt 32 ((C i l).toNat + p 0 + p 1 + p 2 + p 3))

/-- The mask instructions (R67, R68): bit by bit over the active lanes; the count of the set bits and the lowest set bit read every bit. -/
def Sys2Proof.Statements.MaskResults : Prop :=
  ∀ (e : Enc) (s : State) (k : Nat), let A := fun (i : Issue) => i.opnd s .a; let B := fun (i : Issue) => i.opnd s .b
  let m := fun o => (s.issue o e).st.mask e.a.toNat
  (Active .kmov e s → e.tf = 29 → Results (.kmov e) .kmov e s A) ∧
  (Active .kmov e s → e.tf = 30 → Results (.kmov e) .kmov e s fun i l => A i l >>> l) ∧
  (Active .kand e s → Results (.kand e) .kand e s fun i l => A i l &&& B i l) ∧
  (Active .kor e s → Results (.kor e) .kor e s fun i l => A i l ||| B i l) ∧
  (Active .kxor e s → Results (.kxor e) .kxor e s fun i l => A i l ^^^ B i l) ∧
  (Active .knot e s → Results (.knot e) .knot e s fun i l => ~~~ A i l) ∧
  (Active .kpop e s → Sets (.kpop e) .kpop e s fun _ => BitVec.ofNat 32 ((List.range 32).countP fun l => (m .kpop).getLsbD l)) ∧
  (Active .kff e s → ((k = 32 ∧ m .kff = 0) ∨ (k < 32 ∧ (m .kff).getLsbD k = true ∧ ∀ j < k, (m .kff).getLsbD j = false)) →
    Sets (.kff e) .kff e s fun _ => BitVec.ofNat 32 k)

/-- The logic and shift results of R83, with the full 32-bit amount; bit fields, bit counts, reversal, scaled addresses and byte products (R84 to R87); and the mask instructions bit by bit over the active lanes, with the count of the set bits and the lowest set bit (R67, R68). -/
def Obligations.LogicAndBitResults : Prop :=
  Sys2Proof.Statements.LogicAndShiftResults ∧ Sys2Proof.Statements.BitFieldResults ∧ Sys2Proof.Statements.MaskResults

/-- The movement instructions complete with the value that R56 to R60 give each lane: a copy, the constant of B, the lane's index, or the line of base and stride. -/
def Sys2Proof.Statements.MovementResults : Prop :=
  ∀ (e : Enc) (s : State), let A := fun (i : Issue) => i.opnd s .a; let B := fun (i : Issue) => i.opnd s .b
  (Active .mov e s → Results (.mov e) .mov e s A) ∧
  (Active .movi e s → Results (.movi e) .movi e s B) ∧
  (Active .laneid e s → Results (.laneid e) .laneid e s fun _ l => BitVec.ofNat 32 l) ∧
  (Active .prom e s → Results (.prom e) .prom e s A) ∧
  (Active .aff e s → InRange .aff e s (fun i l => (A i 0).toInt + l * (B i 0).toInt) →
    Results (.aff e) .aff e s fun i l => A i 0 + BitVec.ofNat 32 l * B i 0)

/-- DEMS and DEMA (R61, R62): the value that all active lanes share, or the line through the lowest active lane with the stride of B; otherwise ILLEGAL_OPERAND with the mask of the lanes that differ. -/
def Sys2Proof.Statements.DemotionResults : Prop :=
  ∀ (e : Enc) (s : State), let A := fun (i : Issue) => i.opnd s .a
  let base := fun (i : Issue) => A i i.act.lowest - BitVec.ofNat 32 i.act.lowest * i.opB s
  let line := fun (i : Issue) l => base i + BitVec.ofNat 32 l * i.opB s
  (Active .dems e s → let i := s.issue .dems e
    (∀ l < 32, i.act.getLsbD l → A i l = A i i.act.lowest) → Sets (.dems e) .dems e s fun i => A i i.act.lowest) ∧
  (Active .dems e s → let i := s.issue .dems e; let bad := Mask.of fun l => i.act.getLsbD l && A i l != A i i.act.lowest
    bad ≠ 0 → Traps (.dems e) .dems e s { cause := .illegalOperand, tval := bad.setWidth 64 }) ∧
  (Active .dema e s → let i := s.issue .dema e
    (∀ l < 32, i.act.getLsbD l → A i l = line i l) → Changes (.dema e) .dema e s fun i st => st.putA e.d.toNat (base i, i.opB s)) ∧
  (Active .dema e s → let i := s.issue .dema e; let bad := Mask.of fun l => i.act.getLsbD l && A i l != line i l
    bad ≠ 0 → Traps (.dema e) .dema e s { cause := .illegalOperand, tval := bad.setWidth 64 })

/-- The window and the stack pointer (R48, R63, R64, R66): the values read, the values written, and ILLEGAL_OPERAND with the offered value for one outside its range. -/
def Sys2Proof.Statements.WindowAndStackPointer : Prop :=
  ∀ (e : Enc) (s : State), let v := fun o => (s.issue o e).opB s
  (Active .wbase e s → let st := s.strand s.cur
    ((v .wbase).toNat ≤ 31 ∧ 8 * (v .wbase).toNat < st.sp.n → Changes (.wbase e) .wbase e s fun _ st => { st with sp := { st.sp with wb := 8 * (v .wbase).toNat } }) ∧
    (¬ ((v .wbase).toNat ≤ 31 ∧ 8 * (v .wbase).toNat < st.sp.n) → Traps (.wbase e) .wbase e s { cause := .illegalOperand, tval := (v .wbase).setWidth 64 })) ∧
  (Active .wget e s → Sets (.wget e) .wget e s fun i => BitVec.ofNat 32 (i.st.sp.n * 65536 + i.st.sp.wb)) ∧
  (Active .sspget e s → Sets (.sspget e) .sspget e s fun i => BitVec.ofNat 32 i.st.sp.ssp) ∧
  (Active .sspset e s → let st := s.strand s.cur; let x := (v .sspset).toNat
    (x % 4 = 0 ∧ st.base ≤ x ∧ x ≤ st.top → Changes (.sspset e) .sspset e s fun _ st => { st with sp := { st.sp with ssp := x } }) ∧
    (¬ (x % 4 = 0 ∧ st.base ≤ x ∧ x ≤ st.top) → Traps (.sspset e) .sspset e s { cause := .illegalOperand, tval := (v .sspset).setWidth 64 })) ∧
  (Active .part e s →
    ((v .part).toNat ≤ 4 → Changes (.part e) .part e s fun _ st => { st with sp := { st.sp with part := v .part } }) ∧
    (4 < (v .part).toNat → Traps (.part e) .part e s { cause := .illegalOperand, tval := (v .part).setWidth 64 }))

/-- PUSHM and POPM (R49, R50, R65): where the stack has room, no region forbids it and no range lock meets the bytes, PUSHM stores the registers below SSP, the lowest at the lowest address, and lowers SSP; POPM loads them and raises it; without room each raises STACK_OVERFLOW with the new SSP; and what PUSHM stores for a register is what POPM loads for it. -/
def Sys2Proof.Statements.StackResults : Prop :=
  (∀ (e : Enc) (s : State), Active .pushm e s → let w := s.cur; let i := s.issue .pushm e; let st := s.strand w; let n := i.spillBytes; let ssp := st.sp.ssp
    (st.base + n ≤ ssp → (∀ r, st.region = some r → ssp ≤ r.ssp) → s.windowConflict w .write (ssp - n) n = none →
      exec (.pushm e) s = .next (((s.lmPutWords w.core (s.lmPhys w.core w.slot (ssp - n))
        ((List.range (e.a.toNat + 1 - e.d.toNat)).flatMap fun k => st.spillWords e.sub.toNat (e.d.toNat + k))).onStrand w
          fun st => { st with sp := { st.sp with ssp := ssp - n } }).advance i)) ∧
    (ssp < st.base + n → Traps (.pushm e) .pushm e s { cause := .stackOverflow, tval := d64 ((ssp : Int) - n) })) ∧
  (∀ (e : Enc) (s : State), Active .popm e s → let w := s.cur; let i := s.issue .popm e; let st := s.strand w; let n := i.spillBytes; let ssp := st.sp.ssp
    let size := spillSize e.sub.toNat
    (ssp + n ≤ st.top → s.windowConflict w .read ssp n = none →
      exec (.popm e) s = .next ((s.onStrand w fun st => let st := (List.range (e.a.toNat + 1 - e.d.toNat)).foldl (fun st k =>
        st.unspill e.sub.toNat (e.d.toNat + k) (s.lmGetWords w.core (s.lmPhys w.core w.slot ssp + k * size) (size / 4))) st
        { st with sp := { st.sp with ssp := ssp + n } }).advance i)) ∧
    (st.top < ssp + n → Traps (.popm e) .popm e s (Trap.of .stackOverflow (ssp + n)))) ∧
  (∀ (st st' : Strand) (n : Nat), st'.sp.wb = st.sp.wb →
    (∀ l < 32, (Tab.get (Lanes.all 0) (st'.unspill 0 n (st.spillWords 0 n)).regs.v (st.sp.wb + n)).at l = (Tab.get (Lanes.all 0) st.regs.v (st.sp.wb + n)).at l) ∧
    Tab.get 0 (st'.unspill 1 n (st.spillWords 1 n)).regs.s n = Tab.get 0 st.regs.s n ∧
    Tab.get (0, 0) (st'.unspill 2 n (st.spillWords 2 n)).regs.a n = Tab.get (0, 0) st.regs.a n ∧
    (n ≠ 0 → Tab.get 0 (st'.unspill 3 n (st.spillWords 3 n)).regs.k n = Tab.get 0 st.regs.k n) ∧
    (st'.unspill 3 0 (st.spillWords 3 0)).regs = st'.regs)

/-- Copies, constants, lane indices, lines and promotions (R56 to R60); DEMS and DEMA of active lanes that agree, and ILLEGAL_OPERAND with the lanes that differ (R61, R62); the window and the stack pointer read and written, with ILLEGAL_OPERAND for a value out of range (R63, R64, R66); PUSHM and POPM store and load the registers below SSP and move it, without room they raise STACK_OVERFLOW, and what PUSHM stores for a register is what POPM loads for it (R49, R50, R65). -/
def Obligations.MovementAndStackResults : Prop :=
  Sys2Proof.Statements.MovementResults ∧ Sys2Proof.Statements.DemotionResults ∧ Sys2Proof.Statements.WindowAndStackPointer ∧ Sys2Proof.Statements.StackResults

/-- The floating-point arithmetic of R114: the exact sum, difference, product, fused product and sum, quotient, root, reciprocal and reciprocal root, and the transcendental functions, each rounded once. A transcendental value that no precision tried decides is a free value, which is the choice of log entry 17. -/
def Sys2Proof.Statements.FloatArithmetic : Prop :=
  ∀ (e : Enc) (s : State), let one := FVal.num false { s := 1, e := 0 }
  (Active .fadd e s → Rounds (.fadd e) .fadd e s fun rm x y _ => x.add y rm) ∧
  (Active .fsub e s → Rounds (.fsub e) .fsub e s fun rm x y _ => x.add y.neg rm) ∧
  (Active .fmul e s → Rounds (.fmul e) .fmul e s fun _ x y _ => (x.mul y).toX) ∧
  (Active .ffma e s → Rounds (.ffma e) .ffma e s fun rm x y z => x.fma y z rm) ∧
  (Active .fdiv e s → Rounds (.fdiv e) .fdiv e s fun _ x y _ => x.div y) ∧
  (Active .fsqrt e s → Rounds (.fsqrt e) .fsqrt e s fun _ x _ _ => x.sqrt) ∧
  (Active .frcp e s → Rounds (.frcp e) .frcp e s fun _ x _ _ => one.div x) ∧
  (Active .frsq e s → Rounds (.frsq e) .frsq e s fun _ x _ _ => x.rsqrt) ∧
  (Active .fexp2 e s → Transcends (.fexp2 e) .fexp2 e s FVal.exp2) ∧
  (Active .flog2 e s → Transcends (.flog2 e) .flog2 e s FVal.log2) ∧
  (Active .fsin e s → Transcends (.fsin e) .fsin e s FVal.sinPi) ∧
  (Active .fcos e s → Transcends (.fcos e) .fcos e s FVal.cosPi)

/-- The floating-point instructions that round nothing (R115 to R117): the sign bits cleared or inverted, the lesser or greater element, the conditions of FCMP with a mask or a uniform destination, and the class bit. -/
def Sys2Proof.Statements.FloatSelectionResults : Prop :=
  ∀ (e : Enc) (s : State), let A := fun (i : Issue) => i.opnd s .a; let B := fun (i : Issue) => i.opnd s .b
  let pair := e.sub.toNat ≠ 0
  let cond := fun (i : Issue) l => floatCondition e.sub.toNat ((fmtOf 0).decode (A i l).toNat) ((fmtOf 0).decode (B i l).toNat)
  (Active .fabs e s → e.sub.toNat ≤ 2 → Results (.fabs e) .fabs e s fun i l => if pair then A i l &&& 0x7FFF7FFF else A i l &&& 0x7FFFFFFF) ∧
  (Active .fneg e s → e.sub.toNat ≤ 2 → Results (.fneg e) .fneg e s fun i l => if pair then A i l ^^^ 0x80008000 else A i l ^^^ 0x80000000) ∧
  (Active .fmin e s → Results (.fmin e) .fmin e s fun i l => byElement e.sub.toNat (fun _ p q _ => pickFloat (pairFmt e.sub.toNat) false p q) (A i l) (B i l) 0) ∧
  (Active .fmax e s → Results (.fmax e) .fmax e s fun i l => byElement e.sub.toNat (fun _ p q _ => pickFloat (pairFmt e.sub.toNat) true p q) (A i l) (B i l) 0) ∧
  (Clear .fcmp e s → (s.issue .fcmp e).dClass = .k → let i := s.issue .fcmp e
    exec (.fcmp e) s = .next ((s.onStrand s.cur fun st =>
      st.putK e.d.toNat (if e.qbit 0 then BitVec.allOnes 32 else i.act) (Mask.of fun l => i.act.getLsbD l && cond i l)).advance i)) ∧
  (Active .fcmp e s → (s.issue .fcmp e).dClass = .s → Results (.fcmp e) .fcmp e s fun i l => if cond i l then 0xFFFFFFFF else 0) ∧
  (Active .fclass e s → Results (.fclass e) .fclass e s fun i l =>
    let f := fmtOf (pairFmt e.sub.toNat); BitVec.ofNat 32 (2 ^ classBit f ((A i l).toNat % 2 ^ f.width)))

/-- Round and Sat together (R98, R101) on a magnitude x = n × 2^e with its exponent l: the result decodes to the value that the pseudocode of Round gives; past the largest finite value it is that value where the mode rounds toward zero, and otherwise as an infinity is saved. -/
def Sys2Proof.Statements.RoundAndSat : Prop :=
  ∀ (code field rand n : Nat) (neg : Bool) (e l : Int) (rm : RMode), code < 8 → field ≤ 2 → rand < 2 ^ 16 → 0 < n →
  let f := fmtOf code; let x : ℚ := n * 2 ^ e; (2 : ℚ) ^ l ≤ x → x < 2 ^ (l + 1) →
  let q : ℚ := 2 ^ (max l (1 - (f.bias : Int)) - f.m); let t := ⌊x / q⌋; let v : ℚ := (t + roundUp rm neg t (x / q - t) rand) * q
  let result := f.sat field (roundTo f rm rand (.mag neg n e false))
  let is := fun (y : ℚ) => ∃ d, f.decode result = .num neg d ∧ exactValue d = if neg then -y else y
  let away := rm = .rne ∨ rm = .rs ∨ (rm = .rup ∧ neg = false) ∨ (rm = .rdn ∧ neg = true)
  (v ≤ maxFinite code → is v) ∧ (maxFinite code < v → ¬ away → is (maxFinite code)) ∧ (maxFinite code < v → away → result = f.sat field (.inf neg))

/-- The special results (R92, R98, R101): infinities, NaN and zeros pass through Round, and Sat encodes them by the table of R101, the positive ones as listed and the negative ones with the sign bit, but for the NaN of E4M3. -/
def Sys2Proof.Statements.SpecialResults : Prop :=
  (∀ (f : Fmt) (rm : RMode) (rand : Nat), roundTo f rm rand .nan = .nan ∧ ∀ neg, roundTo f rm rand (.inf neg) = .inf neg ∧ roundTo f rm rand (.zero neg) = .zero neg) ∧
  (∀ code < 8, ∀ field ≤ 2, let f := fmtOf code; let sign := fun (neg : Bool) => if neg then 2 ^ (f.width - 1) else 0
    let largest := [0x7F7FFFFF, 0x7BFF, 0x7F7F, 0x7B, 0x7E, 0x1F, 0x1F, 0x7].getD code 0; let infinity := [0x7F800000, 0x7C00, 0x7F80, 0x7C].getD code largest
    ∀ neg, f.sat field (.zero neg) = sign neg ∧
      f.sat field (.inf neg) = (if code = 4 ∧ field = 0 then 0x7F else sign neg + if field = 0 then infinity else largest) ∧
      f.sat field .nan = if field = 2 then 0 else [0x7FC00000, 0x7E00, 0x7FC0, 0x7E, 0x7F].getD code 0)

/-- The stochastic generator (R99, R100): the bits of a rounded value from SEED, STEP, the address, the lane and the element, as the pseudocode gives; STEP advances by one modulo 2^16 and MODE is otherwise unchanged. -/
def Sys2Proof.Statements.StochasticBits : Prop :=
  (∀ (mode : Dbl) (pc : Pc) (lane : BitVec 5) (elem : BitVec 3), let x : Word := mode.extractLsb' 40 24 ++ lane ++ elem; let y : Word := mode.extractLsb' 24 16 ++ pc.extractLsb' 2 16
    let mix := fun (h : Word) => let a := (h ^^^ h >>> 16) * 0x7FEB352D; let b := (a ^^^ a >>> 15) * 0x846CA68B; b ^^^ b >>> 16
    randBits mode pc lane.toNat elem.toNat = ((mix (x ^^^ mix y)).extractLsb' 16 16).toNat) ∧
  (∀ mode : Dbl, (stepMode mode).extractLsb' 24 16 = mode.extractLsb' 24 16 + 1 ∧ (stepMode mode).extractLsb' 40 24 = mode.extractLsb' 40 24 ∧
    (stepMode mode).extractLsb' 0 24 = mode.extractLsb' 0 24)

/-- The floating-point arithmetic of R114: the exact sum, difference, product, fused product and sum, quotient, root, reciprocal, reciprocal root and transcendental functions, each rounded once, where a transcendental value that no precision of the model decides is a free value (the choice of log entry 17); the instructions that round nothing (R115 to R117): sign bits cleared or inverted, the lesser or greater element, the conditions of FCMP and the class bit; and what rounding once means: Round and Sat give the value of the pseudocode of R98, the special results of R101, and the bits of R99 with STEP advancing by one. -/
def Obligations.FloatResults : Prop :=
  Sys2Proof.Statements.FloatArithmetic ∧ Sys2Proof.Statements.FloatSelectionResults ∧ Sys2Proof.Statements.RoundAndSat ∧ Sys2Proof.Statements.SpecialResults ∧ Sys2Proof.Statements.StochasticBits

/-- The conversions (R110, R118 to R121): CVT from format SUB mod 16 to format SUB / 16, CVTI to an integral value, PACK into elements 2j and 2j + 1, UNPK of element j; PACK and UNPK raise ILLEGAL_OPERAND for an index past the last. STEP advances only where MODE.RM was the mode. -/
def Sys2Proof.Statements.ConversionResults : Prop :=
  ∀ (e : Enc) (s : State), let A := fun (i : Issue) => i.opnd s .a; let B := fun (i : Issue) => i.opnd s .b
  let code := e.sub.toNat; let w := codeWidth code; let own := bits e.qb.toNat 2 0 == 0
  (Active .cvt e s → let i := s.issue .cvt e
    exec (.cvt e) s = .next (((s.writeD i fun l => convert i.st.sp.mode i.pc i.convMode l 0 (code / 16) (code % 16) (A i l).toNat).steppedIf i own).advance i)) ∧
  (Active .cvti e s → let i := s.issue .cvti e
    let rm := if code % 16 = 4 then modeRm i.st.sp.mode else RMode.of (code % 16)
    exec (.cvti e) s = .next (((s.writeD i fun l => byElement (code / 16)
      (fun j x _ _ => roundIntegral (fmtOf (pairFmt (code / 16))) rm (randBits i.st.sp.mode i.pc l j) x) (A i l) 0 0).steppedIf i (code % 16 == 4)).advance i)) ∧
  (Active .pack e s → let i := s.issue .pack e; let j := i.opnd s .c 0
    (j.toNat ≤ (packLimits w).1 → exec (.pack e) s = .next (((s.writeD i fun l =>
      let old := if w = 6 then i.opnd s .d l &&& 0x3FFFFFFF else i.opnd s .d l
      let lowElem := putElem w (2 * j.toNat) old (packElem i.st.sp.mode i.pc i.convMode l (2 * j.toNat) code (A i l))
      if w = 6 ∧ j.toNat = 2 then lowElem
      else putElem w (2 * j.toNat + 1) lowElem (packElem i.st.sp.mode i.pc i.convMode l (2 * j.toNat + 1) code (B i l))).steppedIf i own).advance i)) ∧
    ((packLimits w).1 < j.toNat → Traps (.pack e) .pack e s { cause := .illegalOperand, tval := j.setWidth 64 })) ∧
  (Active .unpk e s → let i := s.issue .unpk e; let j := i.opB s
    (j.toNat ≤ (packLimits w).2 → Results (.unpk e) .unpk e s fun i l => unpackElem code (bits (A i l).toNat (w * j.toNat + w - 1) (w * j.toNat))) ∧
    ((packLimits w).2 < j.toNat → Traps (.unpk e) .unpk e s { cause := .illegalOperand, tval := j.setWidth 64 }))

/-- What conversions do to values (R103, R118 to R121): a floating format to itself changes no encoding but a NaN's (log entry 88); a value converted to an integer format is rounded to an integer and limited to the range, NaN becomes 0 and an infinity the nearest limit; between integer formats the value is limited; and an element of PACK survives UNPK and PACK. -/
def Sys2Proof.Statements.ConversionLaws : Prop :=
  ∀ (mode : Dbl) (pc : Pc) (rm : RMode) (lane elem : Nat),
  (∀ code x, code < 8 → x < 2 ^ (fmtOf code).width → (fmtOf code).decode x ≠ .nan → (convert mode pc rm lane elem code code x).toNat = x) ∧
  (∀ (code rand n : Nat) (neg : Bool) (e : Int), 8 ≤ code → code < 16 → rand < 2 ^ 16 → 0 < n → let x : ℚ := n * 2 ^ e; let t := ⌊x⌋; let v := t + roundUp rm neg t (x - t) rand
    toInt code rm rand (.mag neg n e false) = max (intLow code) (min (intHigh code) (if neg then -v else v)) ∧ toInt code rm rand .nan = 0 ∧
    toInt code rm rand (.inf neg) = if neg then intLow code else intHigh code) ∧
  (∀ dst src x, 8 ≤ dst → dst < 16 → 8 ≤ src → src < 16 → let value := fun (c : Nat) (y : Nat) => if c % 2 = 1 then ((y % 2 ^ codeWidth c : Nat) : Int) else sx y (codeWidth c)
    let r := convert mode pc rm lane elem dst src x; let v := max (intLow dst) (min (intHigh dst) (value src x)); if dst % 2 = 1 then (r.toNat : Int) = v else r.toInt = v) ∧
  (∀ code v, (1 ≤ code ∧ code < 8) ∨ (10 ≤ code ∧ code < 16) → v < 2 ^ codeWidth code → (code < 8 → ∃ neg d, (fmtOf code).decode v = .num neg d) →
    packElem mode pc rm lane elem code (unpackElem code v) % 2 ^ codeWidth code = v)

/-- The conversions CVT, CVTI, PACK and UNPK complete with the elements of R118 to R121, and an index past the last raises ILLEGAL_OPERAND; a floating format to itself changes only a NaN, where log entry 88 chooses that the saturation setting changes nothing either; integer results are rounded and limited (R103); an element survives UNPK and PACK. -/
def Obligations.Conversions : Prop :=
  Sys2Proof.Statements.ConversionResults ∧ Sys2Proof.Statements.ConversionLaws

/-- MODE and the function tables (R94, R95, R122, R123, R126 to R130): MODEGET reads a half; MODESET writes the formed value or raises ILLEGAL_OPERAND; FTBL evaluates the bound bank or raises ILLEGAL_OPERAND where it holds no table; TLOAD raises ILLEGAL_OPERAND in an open region and for the current bank, stands in the core's queue while its bank is bound or another waits, and otherwise loads the bank from LM or raises the fault of its image; TFLIP selects the current bank, or stands in the queue while another waits. -/
def Obligations.ModeAndTables : Prop :=
  ∀ (e : Enc) (s : State), let w := s.cur
  (Active .modeget e s → Sets (.modeget e) .modeget e s fun i => if e.sub = 0 then i.st.sp.mode.setWidth 32 else i.st.sp.mode.extractLsb' 32 32) ∧
  (Active .modeset e s → let i := s.issue .modeset e
    (modesetCheck i s = none → Changes (.modeset e) .modeset e s fun i st =>
      { st with sp := { st.sp with mode := modeClean (formedMode i.st.sp.mode e.sub.toNat (i.opB s)) } }) ∧
    (∀ t, modesetCheck i s = some t → Traps (.modeset e) .modeset e s t)) ∧
  (Active .ftbl e s → let i := s.issue .ftbl e; let b := s.boundBank w.core w.slot
    (b.loaded = true → exec (.ftbl e) s = .next (((s.writeD i fun l => b.evalWord i.st.sp.mode i.pc l 0 (i.opnd s .a l)).stepped i (modeRm i.st.sp.mode)).advance i)) ∧
    (b.loaded = false → Traps (.ftbl e) .ftbl e s (Trap.of .illegalOperand (s.comb w.core w.slot).bank))) ∧
  (Active .tload e s → let i := s.issue .tload e; let n := e.b.toNat; let current := (s.core w.core).curBank = n
    (i.st.region.isSome = true → Traps (.tload e) .tload e s (Trap.of .illegalOperand 0xFFFFFFFF)) ∧
    (i.st.region = none → s.bankQueue w.core = [] → current → Traps (.tload e) .tload e s (Trap.of .illegalOperand n)) ∧
    (i.st.region = none → s.bankQueue w.core ≠ [] ∨ (¬ current ∧ s.bankBound w.core n = true) →
      exec (.tload e) s = .next (s.bankStand i (.tload n (i.uA s).toNat))) ∧
    (i.st.region = none → s.bankQueue w.core = [] → ¬ current → s.bankBound w.core n = false →
      (∀ t, s.tloadRun w n (i.uA s).toNat = .inr t → exec (.tload e) s = .next (t.advance i)) ∧
      (∀ t, s.tloadRun w n (i.uA s).toNat = .inl t → Traps (.tload e) .tload e s t))) ∧
  (Active .tflip e s → let i := s.issue .tflip e
    (s.bankQueue w.core = [] → exec (.tflip e) s = .next ((s.onCore w.core fun k => { k with curBank := e.b.toNat }).advance i)) ∧
    (s.bankQueue w.core ≠ [] → exec (.tflip e) s = .next (s.bankStand i (.tflip e.b.toNat))))

/-- The cross-lane exchanges and votes (R135, R136, R140 to R143): SHUF, PERM and BCAST take each active lane's value from its source lane, 0 where that lane is not live, and with .vm tell which source lanes are live; VOTE decides over the active lanes, of the strand for a uniform result and of each lane's tile for a mask. -/
def Sys2Proof.Statements.ExchangeAndVoteResults : Prop :=
  ∀ (e : Enc) (s : State),
  let exchanged := fun (n : Instr) (o : Op) => let i := s.issue o e
    let from_ := i.sourceLane s
    let value := fun l => if i.st.live.getLsbD (from_ l) then s.readReg s.cur (.v (i.st.sp.wb + e.a.toNat)) (from_ l) else 0
    let written := if e.tf = 31 then s.onStrand s.cur fun st => st.putV (i.st.sp.wb + e.d.toNat) i.act value else s.writeD i value
    exec n s = .next ((if e.qbit 0 then written.onStrand s.cur fun st => st.putK e.c.toNat i.act (Mask.of fun l => i.st.live.getLsbD (from_ l)) else written).advance i)
  (Active .shuf e s → exchanged (.shuf e) .shuf) ∧
  (Active .perm e s → exchanged (.perm e) .perm) ∧
  (Active .bcast e s → exchanged (.bcast e) .bcast) ∧
  (Active .vote e s → let i := s.issue .vote e; let val := i.opnd s .a; let pr := fun l => val l != 0; let n := tileSize i.st.sp.part
    (i.dClass = .s → e.sub = 3 → Sets (.vote e) .vote e s fun i => Mask.of fun l => i.act.getLsbD l && pr l) ∧
    (i.dClass = .s → e.sub ≠ 3 → Sets (.vote e) .vote e s fun i => if voteOf e.sub.toNat (Mask.lanes i.act) pr val then 0xFFFFFFFF else 0) ∧
    (i.dClass = .k → Results (.vote e) .vote e s fun i l =>
      if (if e.sub = 3 then pr l else voteOf e.sub.toNat ((Mask.lanes i.act).filter fun j => tileBase n j == tileBase n l) pr val) then 1 else 0))

/-- The reductions, scans and matches (R144 to R147): REDU combines the tile of each lane, or the whole strand for a uniform result; SCAN the lanes of the tile up to the lane, without it under .x; MATCH finds the active lanes of the tile with the lane's value. -/
def Sys2Proof.Statements.ReductionResults : Prop :=
  ∀ (e : Enc) (s : State),
  (Active .redu e s → let i := s.issue .redu e; let n := tileSize i.st.sp.part
    (i.dClass = .s → exec (.redu e) s = .next (((s.writeS s.cur e.d.toNat (i.reduce s 0 32)).steppedSum i).advance i)) ∧
    (i.dClass = .v → exec (.redu e) s = .next (((s.writeD i fun l => i.reduce s (tileBase n l) n).steppedSum i).advance i))) ∧
  (Active .scan e s → let i := s.issue .scan e; let n := tileSize i.st.sp.part
    exec (.scan e) s = .next (((s.writeD i fun l =>
      i.prefix_ e.sub.toNat (i.leaf s) (tileBase n l) (if e.qbit 0 then l % n else l % n + 1) l).steppedSum i).advance i)) ∧
  (Active .matchLanes e s → let i := s.issue .matchLanes e; let n := tileSize i.st.sp.part
    let same := fun l => (Mask.lanes i.act).filter fun j => tileBase n j == tileBase n l && i.opnd s .a j == i.opnd s .a l
    (i.dClass = .v → e.sub = 0 → Results (.matchLanes e) .matchLanes e s fun _ l => Mask.of fun j => (same l).contains j) ∧
    (i.dClass = .v → e.sub = 1 → Results (.matchLanes e) .matchLanes e s fun _ l => BitVec.ofNat 32 ((same l).headD 0)) ∧
    (i.dClass = .k → e.sub = 0 → Results (.matchLanes e) .matchLanes e s fun _ l => if 1 < (same l).length then 1 else 0) ∧
    (i.dClass = .k → e.sub = 1 → Results (.matchLanes e) .matchLanes e s fun _ l => if (same l).head? = some l then 1 else 0))

/-- SHUF, PERM and BCAST take each active lane from its source lane, 0 where that lane is not live, and with .vm tell which source lanes are live; VOTE decides over the active lanes of the strand or of each tile (R135, R136, R140 to R143); REDU combines the tile of each lane or the whole strand, SCAN the lanes of the tile up to the lane, without it under .excl, and MATCH finds the active lanes of the tile with the value of the lane (R144 to R147). -/
def Obligations.CrossLaneResults : Prop :=
  Sys2Proof.Statements.ExchangeAndVoteResults ∧ Sys2Proof.Statements.ReductionResults

/-- The source lanes of SHUF, PERM and BCAST stay inside the lane's tile: the uniform amount up or down or by exclusive or, the lane's own index, or one index for all (R132, R140 to R142). -/
def Sys2Proof.Statements.SourceLanesStayInTile : Prop :=
  ∀ (e : Enc) (s : State) (o : Op) (l : Nat), l < 32 → (o = .shuf ∨ o = .perm ∨ o = .bcast) → ¬ (o = .bcast ∧ (s.issue o e).dClass = .s) →
  let i := s.issue o e; let n := tileSize i.st.sp.part
  tileBase n (i.sourceLane s l) = tileBase n l ∧ i.sourceLane s l < 32 ∧
  (o = .shuf → e.sub = 0 → i.sourceLane s l % n = (l % n + (i.opB s).toNat) % n) ∧
  (o = .shuf → e.sub = 1 → (i.sourceLane s l + (i.opB s).toNat) % n = l % n)

/-- The integer reductions combine exactly the active lanes (R144): with lanes that are not active standing in as the operation's neutral value, the sum, the and, the or and the exclusive or of a range of lanes are those of its active lanes alone. -/
def Sys2Proof.Statements.ReductionIgnoresInactiveLanes : Prop :=
  ∀ (e : Enc) (s : State) (base m lane : Nat), let i := s.issue .redu e; let A := i.opnd s .a
  let acc := fun (f : Word → Word → Word) (z : Word) => (((List.range m).map (base + ·)).filter fun l => i.act.getLsbD l).foldl (fun x l => f x (A l)) z
  (e.sub = 0 → i.prefix_ 0 (i.leaf s) base m lane = acc (· + ·) 0) ∧
  (e.sub = 5 → i.prefix_ 5 (i.leaf s) base m lane = acc (· &&& ·) 0xFFFFFFFF) ∧
  (e.sub = 6 → i.prefix_ 6 (i.leaf s) base m lane = acc (· ||| ·) 0) ∧
  (e.sub = 7 → i.prefix_ 7 (i.leaf s) base m lane = acc (· ^^^ ·) 0)

/-- The source lanes of SHUF, PERM and BCAST stay inside the tile of the lane (R132, R140 to R142); with inactive lanes standing in as the neutral value of the operation, the integer reductions of a range of lanes are those of its active lanes alone (R144). -/
def Obligations.CrossLaneIsolation : Prop :=
  Sys2Proof.Statements.SourceLanesStayInTile ∧ Sys2Proof.Statements.ReductionIgnoresInactiveLanes

/-- The branches (R152 to R154): BR sends each issuing lane where its own guard points; BRD keeps the group whole, at the divergent target where its lanes disagree; BRU follows a uniform register; JMP goes to its target. None writes a register. -/
def Sys2Proof.Statements.BranchesMoveLanes : Prop :=
  ∀ (e : Enc) (s : State),
  let regs := (s.strand s.cur).regs
  let off21 := BitVec.ofInt 57 (4 * (e.b ++ e.a ++ e.d : BitVec 21).toInt)
  let off14 := BitVec.ofInt 57 (4 * (e.b ++ e.a : BitVec 14).toInt)
  (Clear .br e s → let i := s.issue .br e
    Moves (.br e) .br e s (fun l => if i.act.getLsbD l then i.pc + off21 else i.pc + BitVec.ofNat 57 e.bytes) regs) ∧
  (Clear .brd e s → let i := s.issue .brd e
    Moves (.brd e) .brd e s (fun _ => if i.act = i.group then i.pc + off21 else if i.act = 0 then i.pc + BitVec.ofNat 57 e.bytes
      else i.pc + BitVec.ofInt 57 e.w2.toInt) regs) ∧
  (Clear .bru e s → let i := s.issue .bru e; let v := s.readS s.cur e.d.toNat
    Moves (.bru e) .bru e s (fun _ => if (e.sub = 0 ∧ v ≠ 0) ∨ (e.sub ≠ 0 ∧ v = 0) then i.pc + off14 else i.pc + BitVec.ofNat 57 e.bytes) regs) ∧
  (Clear .jmp e s → let i := s.issue .jmp e; Moves (.jmp e) .jmp e s (fun _ => i.pc + off21) regs)

/-- Register targets, calls and returns (R151, R154 to R156): each active lane goes to its own target in the 4 GiB region of the PC, the other issuing lanes fall through; CALL and CALLI write the return address into the active lanes of the link; a register target that is no multiple of 4 raises MISALIGNED. -/
def Sys2Proof.Statements.CallsAndReturnsMoveLanes : Prop :=
  ∀ (e : Enc) (s : State),
  let regs := (s.strand s.cur).regs
  let off21 := BitVec.ofInt 57 (4 * (e.b ++ e.a ++ e.d : BitVec 21).toInt)
  let nextOf := fun (o : Op) => (s.issue o e).pc + BitVec.ofNat 57 e.bytes
  let linked := fun (o : Op) => ((s.strand s.cur).putV ((s.strand s.cur).sp.wb + e.c.toNat) (s.issue o e).act fun _ => (nextOf o).setWidth 32).regs
  let value := fun (varying : Bool) l => if varying then s.readReg s.cur (.v ((s.strand s.cur).sp.wb + e.a.toNat)) l else s.readS s.cur e.a.toNat
  let target := fun (o : Op) (varying : Bool) l => if (s.issue o e).act.getLsbD l then ((s.issue o e).pc.extractLsb' 32 25 ++ value varying l : Pc) else nextOf o
  let aligned := fun (o : Op) (varying : Bool) => ∀ l < 32, (s.issue o e).act.getLsbD l → (value varying l).toNat % 4 = 0
  let refused := fun (n : Instr) (o : Op) (varying : Bool) => ∀ l < 32, (s.issue o e).act.getLsbD l → (value varying l).toNat % 4 ≠ 0 →
    (∀ j < l, (s.issue o e).act.getLsbD j → (value varying j).toNat % 4 = 0) →
    Traps n o e s { cause := .misaligned, tval := ((s.issue o e).pc.extractLsb' 32 25 ++ value varying l : Pc).setWidth 64 }
  (Clear .jmpi e s → aligned .jmpi (e.sub == 1) → Moves (.jmpi e) .jmpi e s (target .jmpi (e.sub == 1)) regs) ∧
  (Clear .jmpi e s → refused (.jmpi e) .jmpi (e.sub == 1)) ∧
  (Active .call e s → Moves (.call e) .call e s (fun l => if (s.issue .call e).act.getLsbD l then (s.issue .call e).pc + off21 else nextOf .call) (linked .call)) ∧
  (Active .calli e s → aligned .calli (e.sub == 1) → Moves (.calli e) .calli e s (target .calli (e.sub == 1)) (linked .calli)) ∧
  (Clear .calli e s → refused (.calli e) .calli (e.sub == 1)) ∧
  (Clear .ret e s → aligned .ret true → Moves (.ret e) .ret e s (target .ret true) regs) ∧
  (Clear .ret e s → refused (.ret e) .ret true)

/-- BR sends each issuing lane where its own guard points; BRD keeps the group whole, at the divergent target where its lanes disagree; BRU follows a uniform register; JMP goes to its target (R152 to R154); with a register target each active lane goes to its own target in the 4 GiB region of the PC and the other issuing lanes fall through; CALL and CALLI write the return address into the active lanes of the link; a register target that is no multiple of 4 raises MISALIGNED (R151, R154 to R156). -/
def Obligations.BranchesAndCalls : Prop :=
  Sys2Proof.Statements.BranchesMoveLanes ∧ Sys2Proof.Statements.CallsAndReturnsMoveLanes

/-- NOP, IDEM, EXIT and YIELD (R161, R163, R169, R170, R172): IDEM opens its region with the entry and the live-ins that it names; EXIT removes the active lanes, or waits for the comb's stream as the comb's last live strand; YIELD starts a burst on a diverged strand and pauses a converged one. -/
def Sys2Proof.Statements.RegionsExitAndYield : Prop :=
  ∀ (e : Enc) (s : State), let st := s.strand s.cur; let cycle := s.clock.cycle
  (Active .nop e s → exec (.nop e) s = .next (s.advance (s.issue .nop e))) ∧
  (Active .idem e s → ∃ t r, exec (.idem e) s = .next t ∧ (t.strand s.cur).region = some r ∧ r.entry = (s.issue .idem e).pc ∧
    r.ssp = st.sp.ssp ∧ r.wb = st.sp.wb ∧ r.mode = st.sp.mode ∧ r.part = st.sp.part ∧
    r.v = (if e.qbit 0 then some (st.sp.wb + e.d.toNat, st.sp.wb + e.a.toNat) else none) ∧
    r.s = (if e.qbit 1 then some (e.b.toNat, e.c.toNat) else none) ∧
    r.a = (if bit e.w2.toNat 10 then some (bits e.w2.toNat 4 0, bits e.w2.toNat 9 5) else none) ∧
    ∀ n, n ∈ r.k ↔ 1 ≤ n ∧ n ≤ 7 ∧ bit e.w2.toNat (10 + n) = true) ∧
  (Active .exit e s → let act := (s.issue .exit e).act
    (¬ (act = st.live ∧ s.exitWaits s.cur = true) → ∃ t, exec (.exit e) s = .next t ∧ (t.strand s.cur).live = st.live &&& ~~~act ∧
      (t.strand s.cur).region = none ∧ (t.strand s.cur).regs = st.regs) ∧
    (act = st.live ∧ s.exitWaits s.cur = true → ∃ t, exec (.exit e) s = .next t ∧ (t.strand s.cur).live = st.live ∧
      (t.strand s.cur).pcs = st.pcs ∧ (t.strand s.cur).region = none)) ∧
  (Clear .yield e s → let i := s.issue .yield e
    (st.converged = true → ∃ t, exec (.yield e) s = .next t ∧ (t.strand s.cur).sched.pause = cycle + 9 ∧ (t.strand s.cur).regs = st.regs) ∧
    (st.converged = false → st.burstFree cycle = true → ∃ t, exec (.yield e) s = .next t ∧
      (t.strand s.cur).sched.burst = some { held := i.group, pc := i.next, left := 256 } ∧ (t.strand s.cur).regs = st.regs) ∧
    (st.converged = false → st.burstFree cycle = false → exec (.yield e) s = .next (s.advance i)))

/-- HALT (R419, R452): the comb stops issuing, its open regions are discarded, the halt log takes the code with the comb's identity, and the management interrupt is signalled; no register of a live strand changes. -/
def Sys2Proof.Statements.HaltEndsComb : Prop :=
  ∀ (e : Enc) (s : State), Active .halt e s → let w := s.cur; let i := s.issue .halt e
  ∃ t, exec (.halt e) s = .next t ∧ (t.comb w.core w.slot).phase = .halting ∧ t.memory = s.memory ∧
    (∀ j, let u := t.strand { w with strand := j }; u.region = none ∧ t.mayIssue { w with strand := j } = false ∧ ((s.strand { w with strand := j }).live ≠ 0 → u.regs = (s.strand { w with strand := j }).regs)) ∧
    t.host.msix = 0 :: s.host.msix ∧ t.mgmt.hlogTail = s.mgmt.hlogTail + 1 ∧
    Tab.get [] t.mgmt.haltLog (s.mgmt.hlogTail % 256) =
      haltEntry (i.opB s).toNat i.pc.toNat 0 (s.tenantOf w.core w.slot) w.core w.slot w.strand 2 s.clock.gt

/-- IDEM opens its region with the entry and the live-ins that it names; EXIT removes the active lanes, or waits for the stream of the comb as its last live strand; YIELD starts a burst on a diverged strand and pauses a converged one; NOP only moves on (R161, R163, R169, R170, R172); HALT stops the comb from issuing, discards its open regions, writes the halt log and signals the management interrupt, and changes no register of a live strand (R419, R452). -/
def Obligations.RegionsExitAndHalt : Prop :=
  Sys2Proof.Statements.RegionsExitAndYield ∧ Sys2Proof.Statements.HaltEndsComb

/-- Trap entry (R414), seen through TRAP, BRK and SYSC (R171, R418): every live lane's PC goes to its frame and the lane to TVEC; TMASK, TPC, TVAL and TCAUSE take the trapped group, the address, the operand and the cause with the privilege before; PRIV becomes 1; the region, a burst, FC and the reservations go; no register changes. BRK does so where no debugger is attached to the tenant. SYSC saves the address of the next instruction and the active mask. -/
def Sys2Proof.Statements.EntryOfATrap : Prop :=
  ∀ (e : Enc) (s : State), let st := s.strand s.cur
  let enters := fun (n : Instr) (o : Op) (cause : Nat) (tpc : Pc) (group : Mask) =>
    ∃ t, exec n s = .next t ∧ t.memory = s.memory ∧ let u := t.strand s.cur
      (∀ l < 32, st.live.getLsbD l → u.pc l = st.trap.tvec.setWidth 57 ∧ u.trap.frame[l]? = some (st.pc l)) ∧
      (∀ l < 32, st.live.getLsbD l = false → u.pc l = st.pc l ∧ u.trap.frame[l]? = st.trap.frame[l]?) ∧
      u.trap.tmask = group ∧ u.trap.tpc = tpc.setWidth 64 ∧ u.trap.tval = ((s.issue o e).opB s).setWidth 64 ∧
      u.trap.tcause = BitVec.ofNat 32 (0x800 + (if st.trap.priv then 0x400 else 0) + cause) ∧ u.trap.priv = true ∧
      u.trap.tvec = st.trap.tvec ∧ u.trap.tscr0 = st.trap.tscr0 ∧ u.trap.tscr1 = st.trap.tscr1 ∧
      u.live = st.live ∧ u.regs = st.regs ∧ u.region = none ∧ u.sched.burst = none ∧ u.sched.fc = 0 ∧ u.flight.resv = []
  MayTrap s s.cur →
  (Active .trap e s → let i := s.issue .trap e; enters (.trap e) .trap 0x30 i.pc i.group) ∧
  (Active .brk e s → s.mgmt.dbgAtt = false → let i := s.issue .brk e; enters (.brk e) .brk 0x31 i.pc i.group) ∧
  (Active .sysc e s → let i := s.issue .sysc e; enters (.sysc e) .sysc 0x32 i.next i.act)

/-- A double fault (R416): a fault of an instruction while ACT is 1 ends the strand: every live lane exits, no trap register changes, the halt log takes a record with the cause, and the management interrupt is signalled. -/
def Sys2Proof.Statements.DoubleFaultEndsStrand : Prop :=
  ∀ (e : Enc) (s : State), Active .trap e s → let st := s.strand s.cur; let i := s.issue .trap e
  st.entryFree = true → st.act = true → ∃ t, exec (.trap e) s = .next t ∧ let u := t.strand s.cur
    u.live = 0 ∧ u.trap = st.trap ∧ u.regs = st.regs ∧ t.memory = s.memory ∧ t.host.msix = 0 :: s.host.msix ∧
    t.mgmt.hlogTail = s.mgmt.hlogTail + 1 ∧
    Tab.get [] t.mgmt.haltLog (s.mgmt.hlogTail % 256) = haltEntry 0x30 i.pc.toNat (i.opB s).toNat (s.tenantOf s.cur.core s.cur.slot) s.cur.core s.cur.slot s.cur.strand 1 s.clock.gt

/-- Trap entry (R414), seen through TRAP, BRK and SYSC (R171, R418): every live lane has its PC saved in its frame and goes to TVEC; TMASK, TPC, TVAL and TCAUSE take the trapped group, the address, the operand and the cause with the privilege before; PRIV becomes 1; the region, a burst, FC and the reservations go; no register changes. A fault of an instruction while ACT is 1 is a double fault (R416): every live lane exits, no trap register changes, the halt log takes a record, and the management interrupt is signalled. -/
def Obligations.TrapEntry : Prop :=
  Sys2Proof.Statements.EntryOfATrap ∧ Sys2Proof.Statements.DoubleFaultEndsStrand

/-- TRET (R417): the lanes of TMASK go to TPC and the other live lanes to their frame PCs; PRIV becomes PPRIV and ACT 0; a TPC with bits 63 to 57 or 1 to 0 not 0 raises ILLEGAL_OPERAND. -/
def Sys2Proof.Statements.ReturnFromATrap : Prop :=
  ∀ (e : Enc) (s : State), Clear .tret e s → let st := s.strand s.cur; let tr := st.trap; let bad := bits tr.tpc.toNat 63 57 ≠ 0 ∨ bits tr.tpc.toNat 1 0 ≠ 0
  (¬ bad → ∃ t, exec (.tret e) s = .next t ∧ t.memory = s.memory ∧ let u := t.strand s.cur
    (∀ l < 32, st.live.getLsbD l → some (u.pc l) = if tr.tmask.getLsbD l then some (tr.tpc.setWidth 57) else tr.frame[l]?) ∧
    (∀ l < 32, st.live.getLsbD l = false → u.pc l = st.pc l) ∧
    u.trap.priv = tr.tcause.getLsbD 10 ∧ u.trap.tcause = tr.tcause &&& 0xFFFFF7FF ∧ u.regs = st.regs ∧ u.live = st.live ∧ u.region = none) ∧
  (bad → Traps (.tret e) .tret e s { cause := .illegalOperand, tval := tr.tpc })

/-- A trap and its return (R414, R417): a handler that returns at once finds every live lane where it stood before the trap, at the privilege before it. -/
def Sys2Proof.Statements.TrapThenReturn : Prop :=
  ∀ (st : Strand) (cause : Nat) (tval : Dbl), let u := (st.enterTrap cause tval st.issuePc st.group false).trapReturn
  (∀ l < 32, st.live.getLsbD l → u.pc l = st.pc l) ∧ u.trap.priv = st.trap.priv ∧ u.act = false ∧ u.regs = st.regs ∧ u.live = st.live

/-- TRET (R417): the lanes of TMASK go to TPC and the other live lanes to their frame PCs; PRIV becomes PPRIV and ACT 0; a TPC with bits 63 to 57 or 1 to 0 not 0 raises ILLEGAL_OPERAND. A handler that returns at once finds every live lane where it stood before the trap, at the privilege before it (R414, R417). -/
def Obligations.TrapReturn : Prop :=
  Sys2Proof.Statements.ReturnFromATrap ∧ Sys2Proof.Statements.TrapThenReturn

/-- The privileged instructions at PRIV = 0 (R407): TRET, CTXSV, CTXLD, HALT, and SRD and SWR of the executive registers raise PRIV with word 0 as TVAL (R32). -/
def Sys2Proof.Statements.PrivilegeIsChecked : Prop :=
  ∀ (e : Enc) (s : State), (s.strand s.cur).trap.priv = false →
  let refused := fun (n : Instr) (o : Op) => Issues o e s → Traps n o e s { cause := .priv, tval := (o.word0 e).setWidth 64 }
  refused (.tret e) .tret ∧ refused (.ctxsv e) .ctxsv ∧ refused (.ctxld e) .ctxld ∧ refused (.halt e) .halt ∧
  (e.a.toNat ∈ [17, 18, 19, 20, 22, 23, 24] → refused (.srd e) .srd ∧ refused (.swr e) .swr)

/-- WINDOW_RANGE (R48): whatever the active mask, an instruction that uses a varying register of number n or higher writes nothing and traps with the lowest such number. -/
def Sys2Proof.Statements.WindowRangeTraps : Prop :=
  ∀ (n : Instr) (o : Op) (e : Enc) (s : State) (m : Nat), n.parts = some (o, e) → Issues o e s → Permitted o e s → let size := (s.strand s.cur).sp.n
  Reg.v m ∈ named o e s → size ≤ m → (∀ k, Reg.v k ∈ named o e s → size ≤ k → m ≤ k) → Traps n o e s (Trap.of .windowRange m)

/-- UNIFORM_PARTIAL (R45): WBASE, SSPSET, PUSHM, POPM and every instruction that writes a uniform register, a comb word or an affine register trap, with an active mask that is neither empty nor the live mask, with the two masks in TVAL, and write nothing. -/
def Sys2Proof.Statements.PartialUniformWritesTrap : Prop :=
  ∀ (n : Instr) (o : Op) (e : Enc) (s : State), n.parts = some (o, e) → Issues o e s → InWindow o e s → let i := s.issue o e; let live := (s.strand s.cur).live
  (o ∈ [.wbase, .sspset, .pushm, .popm] ∨ ∃ r ∈ o.writes e (s.strand s.cur).sp.wb, (match r with | .s _ => True | .w _ => True | .a _ => True | _ => False)) →
  i.act ≠ 0 → i.act ≠ live → Traps n o e s { cause := .uniformPartial, tval := live ++ i.act }

/-- IDEM_CLOBBER (R162): an instruction with an active lane that would write a live-in of the open region writes nothing and traps with the class and the number of the register, stated where it would write one live-in. -/
def Sys2Proof.Statements.IdemClobberTraps : Prop :=
  ∀ (n : Instr) (o : Op) (e : Enc) (s : State) (r : Region) (x : Reg), n.parts = some (o, e) → Issues o e s → Whole o e s → (s.issue o e).act ≠ 0 → o ≠ .ctxld →
  let writes := o.writes e (s.strand s.cur).sp.wb
  (s.strand s.cur).region = some r → x ∈ writes → r.holds x = true → (∀ y ∈ writes, r.holds y = true → y = x) →
  Traps n o e s (Trap.of .idemClobber (match x with | .v k => k | .s k => 0x100 + k | .a k => 0x200 + k | .k k => 0x300 + k | .w _ => 0))

/-- MEM_POISON of a consumer (R202): an instruction that reads a register position with a poison mark in an active lane traps with the lanes, the class and the number of the register, stated for an instruction without a guard that reads one marked register, and not across lanes; PUSHM and CTXSV move marks, and PREF raises none (log entry 94). -/
def Sys2Proof.Statements.PoisonedSourcesTrap : Prop :=
  ∀ (n : Instr) (o : Op) (e : Enc) (s : State) (x : Reg), n.parts = some (o, e) → Issues o e s → Whole o e s → (s.strand s.cur).region = none →
  o ≠ .pushm → o ≠ .ctxsv → o ≠ .pref → e.g = 0 → let i := s.issue o e; let wb := (s.strand s.cur).sp.wb; let m := i.poisonOf s x &&& i.act
  x ∈ o.reads e wb → o.crossReg e wb ≠ some x → (∀ y ∈ o.reads e wb, y ≠ x → i.poisonOf s y = 0) → m ≠ 0 →
  let place := match x with | .v k => k | .s k => 0x100 + k | .w k => 0x100 + 64 + k | .a k => 0x200 + k | .k k => 0x300 + k
  x.num < 256 → Traps n o e s (Trap.of .memPoison (m.toNat + place * 2 ^ 32))

/-- An empty active mask (R29): an instruction only falls through, whatever its operands; stated for one instruction of each kind that writes. The lanes of an atomic that issues so leave the residual mask that they hold for it (R235). -/
def Sys2Proof.Statements.EmptyMaskWritesNothing : Prop :=
  ∀ (e : Enc) (s : State), let falls := fun (n : Instr) (o : Op) => Clear o e s → (s.issue o e).act = 0 → exec n s = .next (s.advance (s.issue o e))
  falls (.add e) .add ∧ falls (.mov e) .mov ∧ falls (.fadd e) .fadd ∧ falls (.kand e) .kand ∧ falls (.vote e) .vote ∧
  falls (.ld e) .ld ∧ falls (.st e) .st ∧ (Clear .atom e s → let i := s.issue .atom e; i.act = 0 → exec (.atom e) s = .next ((s.onStrand s.cur fun st => st.takeResid i).advance i)) ∧ falls (.trap e) .trap ∧ falls (.brk e) .brk ∧ falls (.sysc e) .sysc ∧ falls (.exit e) .exit

/-- The privileged instructions at PRIV = 0 (R407): TRET, CTXSV, CTXLD, HALT, and SRD and SWR of the executive registers raise PRIV with word 0 as TVAL (R32). WINDOW_RANGE (R48): whatever the active mask, an instruction that uses a varying register of number n or higher writes nothing and traps with the lowest such number. UNIFORM_PARTIAL (R45): WBASE, SSPSET, PUSHM, POPM and every instruction that writes a uniform register, a comb word or an affine register trap, with an active mask that is neither empty nor the live mask, with the two masks in TVAL, and write nothing. IDEM_CLOBBER (R162): an instruction with an active lane that would write a live-in of the open region writes nothing and traps with the class and the number of the register, stated where it would write one live-in. MEM_POISON of a consumer (R202): an instruction that reads a register position with a poison mark in an active lane traps with the lanes, the class and the number of the register, stated for an instruction without a guard that reads one marked register, and not across lanes; PUSHM and CTXSV move marks, and PREF raises none (log entry 94). An empty active mask (R29): an instruction only falls through, whatever its operands; stated for one instruction of each kind that writes. The lanes of an atomic that issues so leave the residual mask that they hold for it (R235). -/
def Obligations.IssueChecks : Prop :=
  Sys2Proof.Statements.PrivilegeIsChecked ∧ Sys2Proof.Statements.WindowRangeTraps ∧ Sys2Proof.Statements.PartialUniformWritesTrap ∧ Sys2Proof.Statements.IdemClobberTraps ∧ Sys2Proof.Statements.PoisonedSourcesTrap ∧ Sys2Proof.Statements.EmptyMaskWritesNothing

/-- The special registers as SRD reads them (R408, R410), GTIME (R217) and LEASE (R216): the numbered table, the low word, the high word or both; the two halves of GT at one instant; the lease length set, its old value returned by .x, and ILLEGAL_OPERAND outside 1 to 64. -/
def Sys2Proof.Statements.SpecialRegisterReads : Prop :=
  ∀ (e : Enc) (s : State), let w := s.cur; let st := s.strand w; let k := s.comb w.core w.slot; let num := BitVec.ofNat 64; let wide := fun (x : Word) => x.setWidth 64
  (List.range 25).map (s.sreg w) =
    [num w.strand, num w.slot, num (w.core % 72), num (w.core / 72), num Config.device.val, num k.record, wide st.sp.part, st.sp.mode, num st.sp.wb, num st.sp.ssp,
     wide st.live, num s.clock.gt, wide st.sp.fair, wide s.ceil, s.ceilt, num k.tenant.toNat, num (if st.trap.priv then 1 else 0), st.trap.tvec,
     wide st.trap.tcause, st.trap.tpc, st.trap.tval, wide s.host.sync, wide st.trap.tmask, st.trap.tscr0, st.trap.tscr1] ∧
  (Active .srd e s → let v := s.sreg w e.a.toNat
    (e.sub = 0 → Sets (.srd e) .srd e s fun _ => v.extractLsb' 0 32) ∧
    (e.sub = 1 → Sets (.srd e) .srd e s fun _ => v.extractLsb' 32 32) ∧
    (e.sub = 2 → exec (.srd e) s = .next (((s.writeS w e.d.toNat (v.extractLsb' 0 32)).writeS w (e.d.toNat + 1) (v.extractLsb' 32 32)).advance (s.issue .srd e)))) ∧
  (Active .gtime e s → let gt := num s.clock.gt
    (e.sub = 0 → exec (.gtime e) s = .next (((s.writeS w e.d.toNat (gt.extractLsb' 0 32)).writeS w (e.d.toNat + 1) (gt.extractLsb' 32 32)).advance (s.issue .gtime e))) ∧
    (e.sub ≠ 0 → Sets (.gtime e) .gtime e s fun _ => gt.extractLsb' 0 32)) ∧
  (Active .lease e s → let v := ((s.issue .lease e).opB s).toNat; let set := s.onStrand w fun st => { st with sp := { st.sp with lease := v } }
    (1 ≤ v ∧ v ≤ 64 → exec (.lease e) s = .next ((if e.sub = 1 then set.writeS w e.d.toNat (BitVec.ofNat 32 st.sp.lease) else set).advance (s.issue .lease e))) ∧
    (¬ (1 ≤ v ∧ v ≤ 64) → Traps (.lease e) .lease e s { cause := .illegalOperand, tval := BitVec.ofNat 64 v }))

/-- SWR (R3, R157, R411, R413): the register takes the offered value with its reserved bits 0, WBASE eight times it; every other special register keeps its value, and so does one that is read-only; the region ends unless the register is WBASE, SSP, MODE, PART or FAIR; a value that the register's rule refuses raises ILLEGAL_OPERAND and changes nothing else. -/
def Sys2Proof.Statements.SpecialRegisterWrites : Prop :=
  ∀ (e : Enc) (s : State), Active .swr e s → let w := s.cur; let i := s.issue .swr e; let n := e.a.toNat; let v := i.offered s; let lo := v.extractLsb' 0 32
  let new : Dbl := if n ∈ [6, 22] then lo.setWidth 64 else if n = 7 then v &&& modeClean (BitVec.allOnes 64) else if n = 8 then BitVec.ofNat 64 (8 * lo.toNat)
    else if n = 9 then lo.setWidth 64 else if n = 12 then v &&& 0xFFFF else if n = 18 then v &&& 0xDFF
    else if n ∈ [17, 19, 20, 23, 24] then v else s.sreg w n
  (swrTrap i s = none → ∃ t, exec (.swr e) s = .next t ∧ t.sreg w n = new ∧ (∀ m, m ≠ n → t.sreg w m = s.sreg w m) ∧
    (t.strand w).regs = (s.strand w).regs ∧ t.memory = s.memory ∧
    (t.strand w).region = if n ∈ [6, 7, 8, 9, 12] then (s.strand w).region else none) ∧
  (∀ x, swrTrap i s = some x → Traps (.swr e) .swr e s x) ∧
  (n = 17 → (v &&& 0xFE0000000000003F ≠ 0) → swrTrap i s = some { cause := .illegalOperand, tval := v }) ∧
  (n = 12 → 1 ≤ (i.opB s).toNat % 65536 → (i.opB s).toNat % 65536 ≤ 255 → swrTrap i s = some { cause := .illegalOperand, tval := (i.opB s).setWidth 64 }) ∧
  (n ∉ [6, 7, 8, 9, 12, 17] → swrTrap i s = none)

/-- SRD reads the numbered special registers, the low word, the high word or both (R408, R410); GTIME reads both halves of GT at one instant (R217); LEASE sets the lease length, and .x returns the old one (R216); SWR gives the register the offered value with its reserved bits 0, WBASE eight times it, keeps every other special register and every read-only one, ends the region but for five registers, and raises ILLEGAL_OPERAND for a value that the rule of the register refuses (R3, R157, R411, R413). -/
def Obligations.SpecialRegisters : Prop :=
  Sys2Proof.Statements.SpecialRegisterReads ∧ Sys2Proof.Statements.SpecialRegisterWrites

/-- CTXSV and CTXLD (R423 to R425): once no token, no atomic and no register write of the strand is pending, the image goes to memory as one store of 32 bytes for each sector; an image whose lines are at hand and have spent their tokens, which they have at once where shares are not enforced (R368), and whose fields are well-formed gives the strand its registers, masks, special registers and trap registers back, and its lanes that the image lacks exit; a bad field raises ILLEGAL_OPERAND with its offset, a reserved MODE with offset 24 (R425; R95 names the offered value instead: the choice of log entry 106). Neither reads or writes through a misaligned address. -/
def Sys2Proof.Statements.ContextSaveAndLoad : Prop :=
  ∀ (e : Enc) (s : State) (spots : List Spot), let w := s.cur; let st := s.strand w; let a := fun o => (s.readPair w (s.issue o e).e.a.toNat).toNat
  (Active .ctxsv e s → (a .ctxsv) % 64 = 0 → st.entryFree = true → st.imagePending = false → let i := s.issue .ctxsv e
    Reaches s i .global (imageTargets st.sp.n (a .ctxsv)) { size := 32, acc := .write, use := .write, more := noMore } spots →
    exec (.ctxsv e) s = .next ((spots.foldl (fun s x => s.storeSpot w .global x.addr x.pa 32 (st.imageSector x.lane) st.flight.nextId)
      ((s.rememberAll w .global (imageTargets st.sp.n (a .ctxsv))).onStrand w fun st => let st := st.closeRegion.loseResv; { st with flight := { st.flight with nextId := st.flight.nextId + 1 } })).advance i)) ∧
  (Active .ctxld e s → (a .ctxld) % 64 = 0 → st.imagePending = false → let i := s.issue .ctxld e; let r := s.rememberAll w .global (imageTargets st.sp.n (a .ctxld))
    let lines := (spots.map fun x => lineOf x.pa).dedup; let p := r.payIssue w lines
    let m := p.2.readImage (spots.map fun x => (x.addr, x.pa)) fun va pa => p.2.ownRead w va pa 32
    ((s.core w.core).shares.en = false → p.1 = true) ∧
    (Reaches s i .global (imageTargets st.sp.n (a .ctxld)) { size := 32, acc := .read, use := .read, more := noMore } spots →
    (∀ l ∈ lines, r.homeWaits l = false) → p.1 = true →
    (m.firstBad st = none → exec (.ctxld e) s = .next
      (((lines.foldl (fun s l => ((s.atHome l).countAccess l).forget w.core l) p.2).onStrand w fun st => st.loadImage m).advance i)) ∧
    (∀ k, m.firstBad st = some k → MayTrap s w → exec (.ctxld e) s = .next (p.2.onStrand w fun st => st.enterTrap Cause.illegalOperand.code (BitVec.ofNat 64 k) i.pc i.group false)))) ∧
  (Active .ctxsv e s → (a .ctxsv) % 64 ≠ 0 → Traps (.ctxsv e) .ctxsv e s (Trap.of .misaligned (a .ctxsv))) ∧
  (Active .ctxld e s → (a .ctxld) % 64 ≠ 0 → Traps (.ctxld e) .ctxld e s (Trap.of .misaligned (a .ctxld)))

/-- A context image holds the registers (R423, R425): loading the image of a strand gives every uniform, affine, mask and varying register of its window the value that it had. -/
def Sys2Proof.Statements.ContextImageHoldsRegisters : Prop :=
  ∀ (st : Strand), let n := st.sp.n; let m : Image := { word := (List.range (304 + 33 * n)).map st.imageWord, bad := [] }
  (∀ k < 64, Tab.get 0 (m.regs n).s k = Tab.get 0 st.regs.s k) ∧
  (∀ k < 32, Tab.get (0, 0) (m.regs n).a k = Tab.get (0, 0) st.regs.a k) ∧
  (∀ k, 1 ≤ k → k < 8 → Tab.get 0 (m.regs n).k k = Tab.get 0 st.regs.k k) ∧
  (∀ k < n, ∀ l < 32, (Tab.get (Lanes.all 0) (m.regs n).v k).at l = (Tab.get (Lanes.all 0) st.regs.v k).at l)

/-- CTXSV and CTXLD (R423 to R425): once no token, no atomic and no register write of the strand is pending, the image goes to memory as one store of 32 bytes for each sector; an image whose lines are at hand and have spent their tokens, which they have at once where shares are not enforced (R368), and whose fields are well-formed gives the strand its registers, masks, special registers and trap registers back, and its lanes that the image lacks exit; a bad field raises ILLEGAL_OPERAND with its offset, a reserved MODE with offset 24 (R425; R95 names the offered value instead: the choice of log entry 106). Neither reads or writes through a misaligned address. A context image holds the registers (R423, R425): loading the image of a strand gives every uniform, affine, mask and varying register of its window the value that it had. -/
def Obligations.ContextImages : Prop :=
  Sys2Proof.Statements.ContextSaveAndLoad ∧ Sys2Proof.Statements.ContextImageHoldsRegisters

/-- A load of LM (R174 to R176, R184, R185, R189): LD and LDG complete at once: each part's register position takes the bytes of LM at its place, extended as the variant says, with their poison mark, and the issuing lanes move on. -/
def Sys2Proof.Statements.LocalLoads : Prop :=
  ∀ (e : Enc) (s : State) (spots : List Spot), spaceOf e = .lm →
  let fills := fun (n : Instr) (o : Op) => Active o e s → let i := s.issue o e
    Reaches s i .lm (i.targets s true) (loadNeed i) spots →
    exec n s = .next ((((s.partsOf i .lm spots).foldl (fun s p => s.fillPart s.cur (once e) s.clock.cycle p (extLoad p.sub (s.lmRead s.cur.core p.pa p.size)) (s.lmMarked s.cur.core p.pa p.size)) s).onStrand s.cur
      fun st => st.addTerms (Terms.all s.clock.gt)).advance i)
  fills (.ld e) .ld ∧ fills (.ldg e) .ldg

/-- A load of peer LM (R177): as a load of LM, from the core that the address names, without a term for the comb. -/
def Sys2Proof.Statements.PeerLoads : Prop :=
  ∀ (e : Enc) (s : State) (spots : List Spot), spaceOf e = .peer →
  let fills := fun (n : Instr) (o : Op) => Active o e s → let i := s.issue o e
    Reaches s i .peer (i.targets s true) (loadNeed i) spots →
    exec n s = .next ((((s.partsOf i .peer spots).foldl (fun s p => let c := 72 * dieOf s.cur.core + bits p.va 25 19
      s.fillPart s.cur (once e) s.clock.cycle p (extLoad p.sub (s.lmRead c p.pa p.size)) (s.lmMarked c p.pa p.size)) s).onStrand s.cur
      fun st => st.addTerms { device := s.clock.gt, comb := 0, system := s.clock.gt }).advance i)
  fills (.ld e) .ld ∧ fills (.ldg e) .ldg

/-- Loads of global memory and constants, reserved loads (R178, R180, R184, R185, R188, R198, R213): where the sectors fit in the 64 that may be outstanding, the load joins the accesses in flight with one part for each word of each lane, the strand's lease length, and its sectors not yet performed; nothing is written yet; LRES first gives up the reservations of its lanes (R214), at issue by the choice of log entry 110. -/
def Sys2Proof.Statements.GlobalLoads : Prop :=
  ∀ (e : Enc) (s : State) (spots : List Spot), let w := s.cur
  let joins := fun (n : Instr) (o : Op) (l : List (Nat × Nat)) (change : Strand → Strand) (via : LoadVia) (reserve : Bool) => let i := s.issue o e
    let s' := (s.rememberAll w .global l).onStrand w change; let parts := s'.partsOf i .global spots
    let secs := (parts.map fun p => p.pa / 32).dedup
    secs ≠ [] → Room (s.strand w) secs.length → exec n s = .next ((s'.onStrand w fun st =>
      { st with flight := { st.flight with nextId := st.flight.nextId + 1, loads := st.flight.loads ++
        [{ id := st.flight.nextId, cycle := s.clock.cycle, scalar := once e, via := via, parts := parts, sectors := secs.map fun k => (k, none),
           lease := st.sp.lease, discard := false, reserve := if reserve then parts.map fun p => (p.lane, p.lane) else [], failed := [] }] } }).advance i)
  (Active .ld e s → spaceOf e = .global → let i := s.issue .ld e; Reaches s i .global (i.targets s true) (loadNeed i) spots → joins (.ld e) .ld (i.targets s true) id .l1 false) ∧
  (Active .ldg e s → spaceOf e = .global → let i := s.issue .ldg e; Reaches s i .global (i.targets s true) (loadNeed i) spots → joins (.ldg e) .ldg (i.targets s true) id .l1 false) ∧
  (Active .ldc e s → let i := s.issue .ldc e
    Reaches s i .global ((i.slots i.act).map fun l => (l, i.constAddr s l)) { size := 4, acc := .read, use := .read, more := noMore } spots →
    joins (.ldc e) .ldc ((i.slots i.act).map fun l => (l, i.constAddr s l)) id .constant false) ∧
  (Active .lres e s → let i := s.issue .lres e
    Reaches s i .global (i.targets s true) { size := 4, acc := .read, use := .read, more := noMore } spots →
    joins (.lres e) .lres (i.targets s true) (fun st => st.dropResv (spots.map fun x => x.lane)) .home true)

/-- Loads of fabric memory (R376, R383, R384, R386): where its sectors fit in the 64 that may be outstanding, LD and LDG drain the strand's own entries of their lines, send one read for each line, and the strand stands at the load in the parked pool (R198). -/
def Sys2Proof.Statements.FabricLoads : Prop :=
  ∀ (e : Enc) (s : State) (spots : List Spot), spaceOf e = .fabric → let w := s.cur
  let asks := fun (n : Instr) (o : Op) => Active o e s → let i := s.issue o e
    Reaches s i .fabric (i.targets s true) (loadNeed i) spots →
    let parts := s.partsOf i .fabric spots
    let lines := (parts.map fun p => lineOf p.va).dedup; let secs := (parts.map fun p => p.va / 32).dedup
    let drained := s.drainWhere w fun x => x.fabric && lines.contains x.va
    let id := (drained.strand w).flight.nextId
    Room (s.strand w) secs.length → exec n s = .next (lines.foldl (fun s a => s.fabRequest (.load w id a) 1 (s.tenantOf w.core w.slot) (fabDev a) (fabWin a) (fabOff a) .read)
      ((drained.pushLoad i .fabric parts secs false).onStrand w fun st => { st with sched := { st.sched with wait := some (.fabric id), waitLen := e.bytes, parked := true } }))
  asks (.ld e) .ld ∧ asks (.ldg e) .ldg

/-- A load of LM (R174 to R176, R184, R185, R189): LD and LDG complete at once: each part's register position takes the bytes of LM at its place, extended as the variant says, with their poison mark, and the issuing lanes move on. A load of peer LM (R177): as a load of LM, from the core that the address names, without a term for the comb. Loads of global memory and constants, reserved loads (R178, R180, R184, R185, R188, R198, R213): where the sectors fit in the 64 that may be outstanding, the load joins the accesses in flight with one part for each word of each lane, the strand's lease length, and its sectors not yet performed; nothing is written yet; LRES first gives up the reservations of its lanes (R214), at issue by the choice of log entry 110. Loads of fabric memory (R376, R383, R384, R386): where its sectors fit in the 64 that may be outstanding, LD and LDG drain the strand's own entries of their lines, send one read for each line, and the strand stands at the load in the parked pool (R198). -/
def Obligations.Loads : Prop :=
  Sys2Proof.Statements.LocalLoads ∧ Sys2Proof.Statements.PeerLoads ∧ Sys2Proof.Statements.GlobalLoads ∧ Sys2Proof.Statements.FabricLoads

/-- Stores (R184, R185, R189, R196): each lane's words go, in ascending lane order, to LM at once, or to the strand's write-combining entry for the line; the strand has used one more number for its accesses; the issuing lanes move on. -/
def Sys2Proof.Statements.StoresInOrder : Prop :=
  ∀ (e : Enc) (s : State) (spots : List Spot), let w := s.cur
  let stores := fun (n : Instr) (o : Op) => Active o e s → let i := s.issue o e; let sp := spaceOf e; let k := (s.strand w).flight.nextId
    Reaches s i sp (i.targets s true) (storeNeed i) spots →
    let begun := (s.rememberAll w sp (i.targets s true)).onStrand w fun st => { st with flight := { st.flight with nextId := k + 1 } }
    let done := spots.foldl (fun s x => (List.range i.words).foldl (fun s j =>
      s.storeSpot w sp (x.addr + 4 * j) (x.pa + 4 * j) i.partSize (i.storeWord s x.lane j).toNat k) s) begun
    exec n s = .next ((match sp with
      | .lm => done.onStrand w fun st => st.addTerms (Terms.all done.clock.gt)
      | .peer => done.onStrand w fun st => st.addTerms { device := done.clock.gt, comb := 0, system := done.clock.gt }
      | _ => done).advance i)
  stores (.st e) .st ∧ stores (.sts e) .sts

/-- The frame of a store to LM (R176, R184): every byte of the core's LM outside the bytes that the lanes store to, at the window's base plus each lane's address, keeps its value, and so do all of main memory, the LM of every other core, and every register of the strand. -/
def Sys2Proof.Statements.LocalStoresFrame : Prop :=
  ∀ (e : Enc) (s t : State) (spots : List Spot), spaceOf e = .lm → let w := s.cur
  let framed := fun (n : Instr) (o : Op) => Active o e s → let i := s.issue o e
    Reaches s i .lm (i.targets s true) (storeNeed i) spots → exec n s = .next t →
    (∀ a, (∀ l ∈ i.slots i.act, a < s.lmPhys w.core w.slot (i.addr s true l) ∨ s.lmPhys w.core w.slot (i.addr s true l) + i.accessSize ≤ a) →
      Mem.byte (t.core w.core).lm a = Mem.byte (s.core w.core).lm a) ∧
    (∀ a, Mem.byte t.memory.mem a = Mem.byte s.memory.mem a) ∧ (∀ c, c ≠ w.core → (t.core c).lm = (s.core c).lm) ∧
    (t.strand w).regs = (s.strand w).regs ∧ (t.strand w).trap = (s.strand w).trap ∧ (t.strand w).sp = (s.strand w).sp
  framed (.st e) .st ∧ framed (.sts e) .sts

/-- The frame of a store to peer LM (R177, R184): every byte of every core's LM outside the bytes that the lanes store to, at the core and the physical byte that each lane's aperture address names, keeps its value, and so do all of main memory and every register of the strand. -/
def Sys2Proof.Statements.PeerStoresFrame : Prop :=
  ∀ (e : Enc) (s t : State) (spots : List Spot), spaceOf e = .peer → let w := s.cur
  let framed := fun (n : Instr) (o : Op) => Active o e s → let i := s.issue o e; let place := fun l => peerPlace w.core (i.addr s true l)
    Reaches s i .peer (i.targets s true) (storeNeed i) spots → exec n s = .next t →
    (∀ c a, (∀ l ∈ i.slots i.act, (place l).1 ≠ c ∨ a < (place l).2 ∨ (place l).2 + i.accessSize ≤ a) → Mem.byte (t.core c).lm a = Mem.byte (s.core c).lm a) ∧
    (∀ a, Mem.byte t.memory.mem a = Mem.byte s.memory.mem a) ∧
    (t.strand w).regs = (s.strand w).regs ∧ (t.strand w).trap = (s.strand w).trap ∧ (t.strand w).sp = (s.strand w).sp
  framed (.st e) .st ∧ framed (.sts e) .sts

/-- The frame of a store to global or fabric memory (R184, R189, R196): at issue no byte of main memory and no byte of any LM changes, and no register; of the bytes that the strand's own stores still hold for its loads, those outside the addresses that the lanes of a global store give keep their values, and a fabric store changes none, where the strand has no two entries for the line, and none at another physical place than the lanes store to. -/
def Sys2Proof.Statements.BufferedStoresFrame : Prop :=
  ∀ (e : Enc) (s t : State) (spots : List Spot), let w := s.cur
  let framed := fun (n : Instr) (o : Op) => spaceOf e = .global ∨ spaceOf e = .fabric → Active o e s → let i := s.issue o e
    Reaches s i (spaceOf e) (i.targets s true) (storeNeed i) spots → exec n s = .next t →
    (∀ a, Mem.byte t.memory.mem a = Mem.byte s.memory.mem a) ∧ (∀ c, (t.core c).lm = (s.core c).lm) ∧
    (t.strand w).regs = (s.strand w).regs ∧ (t.strand w).trap = (s.strand w).trap ∧ (t.strand w).sp = (s.strand w).sp ∧
    ∀ a, let mine := (s.core w.core).wcb.filter fun x => x.of w && !x.fabric && x.va == lineOf a
      (∀ x ∈ mine, ∀ y ∈ mine, x = y) →
      (spaceOf e = .global → (∀ l ∈ i.slots i.act, a < i.addr s true l ∨ i.addr s true l + i.accessSize ≤ a) ∧ ∀ x ∈ mine, ∀ y ∈ spots, lineOf y.addr = lineOf a → x.pa = lineOf y.pa) →
      (t.ownByte w a).map (fun x => x.2) = (s.ownByte w a).map fun x => x.2
  framed (.st e) .st ∧ framed (.sts e) .sts

/-- Stores (R184, R185, R189, R196): each lane's words go, in ascending lane order, to LM at once, or to the strand's write-combining entry for the line; the strand has used one more number for its accesses; the issuing lanes move on. The frame of a store to LM (R176, R184): every byte of the core's LM outside the bytes that the lanes store to, at the window's base plus each lane's address, keeps its value, and so do all of main memory, the LM of every other core, and every register of the strand. The frame of a store to peer LM (R177, R184): every byte of every core's LM outside the bytes that the lanes store to, at the core and the physical byte that each lane's aperture address names, keeps its value, and so do all of main memory and every register of the strand. The frame of a store to global or fabric memory (R184, R189, R196): at issue no byte of main memory and no byte of any LM changes, and no register; of the bytes that the strand's own stores still hold for its loads, those outside the addresses that the lanes of a global store give keep their values, and a fabric store changes none, where the strand has no two entries for the line, and none at another physical place than the lanes store to. -/
def Obligations.Stores : Prop :=
  Sys2Proof.Statements.StoresInOrder ∧ Sys2Proof.Statements.LocalStoresFrame ∧ Sys2Proof.Statements.PeerStoresFrame ∧ Sys2Proof.Statements.BufferedStoresFrame

/-- The faults of a lane's address (R183, R265): a misaligned address raises MISALIGNED, one outside the space PAGE_PROTECT, and an access to LM that meets the destination range of a copy, or, of a store, its source range or its barrier too, RANGE_CONFLICT; with the address of the lowest such lane as TVAL, in this order; no byte of memory and no register changes. -/
def Obligations.AddressFaults : Prop :=
  ∀ (e : Enc) (s : State) (x : Nat × Nat), MayTrap s s.cur →
  let core := s.cur.core
  let locked := fun (store : Bool) (n : Nat) (y : Nat × Nat) => let p := s.lmPhys core s.cur.slot y.2
    let covers := fun (r : Range) => r.space == 0 && meets p n r.lo r.hi
    (s.core core).locks.any fun k => (k.dst.any covers) || store && (k.src.any covers || k.bar.any fun b => meets p n b (b + 8))
  let faults := fun (n : Instr) (o : Op) (store : Bool) => Active o e s → let i := s.issue o e; let l := i.targets s true
    let raised := fun cause => ∃ t, exec n s = .next t ∧ t.memory = s.memory ∧ (t.core s.cur.core).lm = (s.core s.cur.core).lm ∧ (t.strand s.cur).regs = (s.strand s.cur).regs ∧
      (t.strand s.cur).trap.tval = BitVec.ofNat 64 x.2 ∧ (t.strand s.cur).trap.tcause.toNat % 256 = cause
    (l.find? (fun y => y.2 % i.accessSize != 0) = some x → raised 0x08) ∧
    ((∀ y ∈ l, y.2 % i.accessSize = 0) → l.find? (fun y => !s.addressOk s.cur (spaceOf e) y.2 i.accessSize) = some x → raised 0x0A) ∧
    ((∀ y ∈ l, y.2 % i.accessSize = 0) → (∀ y ∈ l, s.addressOk s.cur (spaceOf e) y.2 i.accessSize = true) → spaceOf e = .lm → l.find? (locked store i.accessSize) = some x → raised 0x10)
  faults (.ld e) .ld false ∧ faults (.ldg e) .ldg false ∧ faults (.st e) .st true ∧ faults (.sts e) .sts true

/-- PREF (R187, R190): where no table walk waits, the lines of the active lanes whose addresses are known and translate are asked for by one prefetch in flight, of the sectors under .l1 and of the lines under .l2 and .hbm, which writes no register, and the issuing lanes move on whatever fails; while a walk waits the strand stands. That a prefetch is in flight as a load is (log entry 19) and that lanes with a poisoned address are dropped (log entry 94) are the model's choices. -/
def Sys2Proof.Statements.Prefetches : Prop :=
  ∀ (e : Enc) (s : State), Active .pref e s → let w := s.cur; let i := s.issue .pref e; let t := s.tenantOf w.core w.slot
  let targets := (i.slots (i.prefLanes s)).map fun l => (l, i.addr s true l)
  let lines := (targets.filterMap fun x => match s.translate w.core t i.st.trap.priv .read x.2 with | .ok pa => some (lineOf pa) | .error _ => none).dedup
  let r := s.rememberAll w .global (targets.filter fun x => x.2 < 2 ^ 57)
  let stands := fun x : Nat × Nat => s.translate w.core t i.st.trap.priv .read x.2 = .error .waits
  ((∃ x ∈ targets, stands x) → exec (.pref e) s = .next r) ∧
  ((∀ x ∈ targets, ¬ stands x) → exec (.pref e) s = .next ((if e.sub = 0 then r.pushLoad i .l1 [] (lines.flatMap fun l => [l / 32, l / 32 + 1]) false
    else r.pushLoad i (if e.sub = 1 then .l2 else .hbm) [] (lines.map fun l => l / 32) false).advance i))

/-- MX blocks of LM (R186): MXLD gives each active lane its element, zero-extended, and the block's scale; MXST replaces the elements of the active lanes and the scale of the lowest active one, a word that keeps an element keeping its poison mark (R202), where the block is a multiple of 8 inside one line and both addresses are in the window and free of range locks. -/
def Sys2Proof.Statements.MxBlocks : Prop :=
  ∀ (e : Enc) (s : State), spaceOf e = .lm → let w := s.cur; let sub := e.sub.toNat; let n := mxBytes sub; let phys := s.lmPhys w.core w.slot
  let ok := fun (o : Op) (u : LockUse) => let a := (s.issue o e).mxAddrs s
    a.1 % 8 = 0 ∧ a.1 % 64 + n ≤ 64 ∧ s.inWindow w.core w.slot a.1 n = true ∧ s.inWindow w.core w.slot a.2 1 = true ∧
    s.lockConflict w.core u 0 (phys a.1) n (s.tenantOf w.core w.slot) = false ∧ s.lockConflict w.core u 0 (phys a.2) 1 (s.tenantOf w.core w.slot) = false
  let terms := fun (t : State) => t.onStrand w fun st => st.addTerms { device := s.clock.gt, comb := s.clock.gt, system := s.clock.gt }
  (Active .mxld e s → ok .mxld .read → let i := s.issue .mxld e; let a := i.mxAddrs s
    exec (.mxld e) s = .next ((terms (s.mxFill w (i.destReg 0) sub i.act (s.lmRead w.core (phys a.1) n) (s.lmRead w.core (phys a.2) 1)
      (s.lmMarked w.core (phys a.1) n, s.lmMarked w.core (phys a.2) 1))).advance i)) ∧
  (Active .mxst e s → ok .mxst .write → let i := s.issue .mxst e; let a := i.mxAddrs s
    exec (.mxst e) s = .next ((terms ((s.mxStoreLm w.core (phys a.1) sub i.act (mxMerge sub (s.lmRead w.core (phys a.1) n) i.act (i.mxData s))).lmWrite w.core (phys a.2) 1 (i.mxScale s))).advance i))

/-- PREF (R187, R190): where no table walk waits, the lines of the active lanes whose addresses are known and translate are asked for by one prefetch in flight, of the sectors under .l1 and of the lines under .l2 and .hbm, which writes no register, and the issuing lanes move on whatever fails; while a walk waits the strand stands. That a prefetch is in flight as a load is (log entry 19) and that lanes with a poisoned address are dropped (log entry 94) are the model's choices. MX blocks of LM (R186): MXLD gives each active lane its element, zero-extended, and the block's scale; MXST replaces the elements of the active lanes and the scale of the lowest active one, a word that keeps an element keeping its poison mark (R202), where the block is a multiple of 8 inside one line and both addresses are in the window and free of range locks. -/
def Obligations.PrefetchesAndBlocks : Prop :=
  Sys2Proof.Statements.Prefetches ∧ Sys2Proof.Statements.MxBlocks

/-- Fences, tokens and barriers (R206 to R212): FENCE with nothing left to wait for writes the later of GT and the latest term of its scope; a fifth pending one waits; a token is written once every access it covers is acknowledged; FWAIT passes once GT has passed the token, and stands otherwise; FTEST tells which; BARC stands at its barrier, which releases every participant once all have arrived. -/
def Obligations.FencesAndBarriers : Prop :=
  ∀ (e : Enc) (s : State), let w := s.cur; let st := s.strand w
  (Active .fence e s → let sc := scopeOf e.sub; let pending := (st.flight.tokens.filter fun t => t.reg < 64).length
    let r := s.onStrand w Strand.closeRegion; let d := r.drainWhere w fun x => sc == .system || !x.fabric
    (pending < 4 → exec (.fence e) s = .next (((r.beginToken w sc e.d.toNat).writeToken w e.d.toNat).advance (s.issue .fence e))) ∧
    (4 ≤ pending → exec (.fence e) s = .next s) ∧
    (pending < 4 → e.d.toNat < 64 → d.covered w sc = [] → (sc = .system → (d.strand w).flight.lines = []) → (∀ t ∈ (d.strand w).flight.tokens, t.reg ≠ e.d.toNat) →
      Becomes (.fence e) s fun t => Tab.get 0 (t.strand w).regs.s e.d.toNat = BitVec.ofNat 32 (max s.clock.gt ((d.strand w).flight.terms.of sc)))) ∧
  (∀ (w : Sid) (reg : Nat) (k : PendingToken), (s.strand w).flight.tokens.find? (fun t => t.reg == reg) = some k → reg < 64 → k.ids = [] → (∀ l ∈ k.lines, s.isDirty l = false) →
    exec (.fenceTokenWrite w reg) s = .next (s.onStrand w fun st => let st := st.putS reg (BitVec.ofNat 32 k.term)
      { st with flight := { st.flight with tokens := st.flight.tokens.filter fun x => x.reg != reg } })) ∧
  (Clear .fwait e s → let passed := !st.pendingRegs.contains (.s e.a.toNat) && gtPassed s.clock.gt (Tab.get 0 st.regs.s e.a.toNat)
    (passed = true → exec (.fwait e) s = .next (s.advance (s.issue .fwait e))) ∧
    (passed = false → exec (.fwait e) s = .next (s.onStrand w fun st => { st with sched := { st.sched with wait := some (.fwait e.a.toNat), waitLen := e.bytes } }))) ∧
  (∀ (w : Sid) (r : Nat), (s.strand w).sched.wait = some (.fwait r) → (s.strand w).pendingRegs.contains (.s r) = false → gtPassed s.clock.gt (Tab.get 0 (s.strand w).regs.s r) = true →
    exec (.fwaitWake w) s = .next (s.onStrand w fun st => st.passWait s.clock.cycle)) ∧
  (Active .ftest e s → Sets (.ftest e) .ftest e s fun _ => if !st.pendingRegs.contains (.s e.a.toNat) && gtPassed s.clock.gt (Tab.get 0 st.regs.s e.a.toNat) then 1 else 0) ∧
  (Active .barc e s → Becomes (.barc e) s fun t => (t.strand w).sched.wait = some (.barc e.b.toNat (e.sub == 1)) ∧ (t.strand w).pcs = st.pcs ∧ (t.strand w).regs = st.regs ∧
    (t.strand w).region = none ∧ ∃ k ∈ (t.strand w).flight.tokens, k.reg = 64 ∧ k.scope = scopeOf e.sub ∧ s.clock.gt ≤ k.term) ∧
  (∀ (core slot n : Nat), s.barcReady core slot n = true → exec (.barcRelease core slot n) s =
    .next ((s.participants core slot).foldl (fun s w => s.onStrand w fun st => let st := st.passWait s.clock.cycle
      { st with flight := { st.flight with tokens := st.flight.tokens.filter fun t => t.reg != 64 } }) s))

/-- Reservations (R213 to R215): a lane's load of an LRES, performed at the home, grants the place of its lane a reservation on the word at the present GT, where the slice holds fewer than 512; a reservation ends 2 us after its grant; SCND drains its strand's entries that hold one of its bytes, takes up the reservations of its lanes (at issue, by the choice of log entry 110) and asks for one conditional store for each active lane; a lane alone on its line writes its word, and fetches 1, exactly where its reservation is held for its address, fetches 0 and writes nothing otherwise, no other byte of memory changes, and its reservation goes; once every lane is decided, the bits of the result mask in the active lanes are the lanes that wrote, and the others keep their values. -/
def Sys2Proof.Statements.Reservations : Prop :=
  ∀ (s : State) (w : Sid),
  (∀ id sec l p k, (s.strand w).load? id = some l → s.mayPerform w id sec = true → l.via = .home → l.discard = false → l.parts = [p] → p.pa / 32 = sec → l.reserve = [(p.lane, k)] →
    (s.core w.core).shares.en = false → s.homeWaits (lineOf (32 * sec)) = false → (sliceResvs s p.pa).length < 512 → Becomes (.loadPerform w id sec) s fun t =>
      t.memory.mem = s.memory.mem ∧ (∃ r, Tab.get none (t.strand w).flight.resv k = some r ∧ r.addr = p.va ∧ r.pa = p.pa ∧ r.gt = s.clock.gt) ∧
      ∃ l', (t.strand w).load? id = some l' ∧ ∃ poison, (sec, some ((Mem.sector s.memory.mem sec).toNat, poison)) ∈ l'.sectors) ∧
  (∀ (k : Nat) (r : Resv), Tab.get none (s.strand w).flight.resv k = some r →
    (r.gt + 2000 ≤ s.clock.gt → exec (.reservationExpiry w k) s = .next (s.onStrand w fun st => st.dropResv [k])) ∧
    (s.clock.gt < r.gt + 2000 → exec (.reservationExpiry w k) s = .next s)) ∧
  (∀ (e : Enc) (spots : List Spot), w = s.cur → Active .scnd e s → let i := s.issue .scnd e
    Reaches s i .global (i.targets s false) { size := 4, acc := .write, use := .write, more := noMore } spots →
    let r := ((s.rememberAll w .global (i.targets s false)).onStrand w Strand.closeRegion).drainWhere w fun x => !x.fabric && spots.any fun y => x.hits y.addr 4
    exec (.scnd e) s = .next ((r.onStrand w fun st => let id := st.flight.nextId; let st := st.takeResv id (spots.map fun x => x.lane)
      { st with flight := { st.flight with nextId := id + 1, atomics := st.flight.atomics ++
      [{ id := id, kind := .scnd, scalar := once e, fabric := false,
         parts := spots.map fun x => { lane := x.lane, va := x.addr, pa := x.pa, data := zx64 (i.opnd r .b (x.lane % 32)), new := 0 },
         active := i.act, done := [], failed := [], lost := [], poison := [], dest := some e.d.toNat, pc := i.pc, lines := [] }] } }).advance i)) ∧
  (∀ id a p, (s.strand w).atomic? id = some a → a.kind = .scnd → a.fabric = false → s.readyGroups w id = [[p]] → (s.core w.core).shares.en = false → p.pa % 4 = 0 →
    let held := match Tab.get none (s.strand w).flight.resv (takenPlace id p.lane) with | some r => r.addr == p.va && s.clock.gt < r.gt + 2000 | none => false
    Becomes (.atomicExecute w id) s fun t =>
      (held = true → Mem.read t.memory.mem p.pa 4 = p.data.toNat % 2 ^ 32) ∧ (held = false → t.memory.mem = s.memory.mem) ∧
      (∀ b, b < p.pa ∨ p.pa + 4 ≤ b → Mem.byte t.memory.mem b = Mem.byte s.memory.mem b) ∧
      Tab.get none (t.strand w).flight.resv (takenPlace id p.lane) = none ∧
      ∃ a', (t.strand w).atomic? id = some a' ∧ a'.done = a.done ++ [(p.lane, if held then 1 else 0)] ∧ a'.parts = a.parts.filter fun q => q.lane != p.lane) ∧
  (∀ id a d, (s.strand w).atomic? id = some a → a.kind = .scnd → a.parts = [] → a.lost = [] → a.poison = [] → a.fabric = false → a.dest = some d → d ≠ 0 → Becomes (.atomicResponse w id) s fun t =>
    (t.strand w).atomic? id = none ∧ t.memory = s.memory ∧ ∀ l < 32, (Tab.get 0 (t.strand w).regs.k d).getLsbD l =
      if a.active.getLsbD l then a.done.any fun x => (x.1 == l || a.scalar) && x.2 == 1 else (Tab.get 0 (s.strand w).regs.k d).getLsbD l)

/-- Snoops (R214, R225, R365, R474): a snoop of a line that the host takes, to read it or to store to it, recalls it and takes every reservation on it; a host line that the J40 does not hold takes the host's store at once; a back-invalidation takes a line of a shared extent likewise; the answer waits for the other die's lease; it gives the line up, and a host line goes to the host with its data and then holds what the host stores, while every other byte of memory stays. -/
def Sys2Proof.Statements.Snoops : Prop :=
  ∀ (s : State) (line : Nat),
  let stored := fun (t : State) (mask : Dbl) (data : LineBits) => ∀ a, Mem.byte t.memory.mem a =
    if line ≤ a ∧ a < line + 64 ∧ mask.getLsbD (a - line) = true then data.extractLsb' (8 * (a - line)) 8 else Mem.byte s.memory.mem a
  (∀ mask data, isHost line = true → line % 64 = 0 → s.snoopable line = true → Tab.get 0 s.memory.hostLines (lineNo line) ≠ 0 → Becomes (.hostSnoop { line := line, mask := mask, data := data }) s fun t =>
    (∃ x ∈ t.memory.snoops, x.line = line ∧ x.expiry = Tab.get 0 t.memory.grants (lineNo line) ∧ x.mask = mask ∧ x.data = data) ∧ t.isOwned line = false ∧ t.memory.mem = s.memory.mem ∧
    ∀ w k r, Tab.get none (t.strand w).flight.resv k = some r → lineOf r.pa ≠ line) ∧
  (∀ mask data, isHost line = true → line % 64 = 0 → s.snoopable line = true → Tab.get 0 s.memory.hostLines (lineNo line) = 0 → Becomes (.hostSnoop { line := line, mask := mask, data := data }) s fun t =>
    stored t mask data ∧ (mask ≠ 0 → ∀ w k r, Tab.get none (t.strand w).flight.resv k = some r → lineOf r.pa ≠ line)) ∧
  (∀ k l, s.extent? line = some (k, l) → l.kind = .shared → isDevice line = true → line % 64 = 0 → s.snoopable line = true →
    exec (.backInvalidate line) s = .next (s.withdraw line 0 0)) ∧
  (∀ x, s.memory.snoops.find? (fun x => x.line == line && decide (x.expiry ≤ s.clock.gt)) = some x → Becomes (.snoopResponse line) s fun t =>
    (∀ y ∈ t.memory.snoops, y.line ≠ line) ∧ Tab.get 0 t.memory.hostLines (lineNo line) = 0 ∧
    (isHost line = true → stored t x.mask x.data ∧ t.host.answers = s.host.answers ++ [{ pa := line, data := Mem.read s.memory.mem line 64, poison := s.linePoison line }]) ∧
    ∀ a, a < line ∨ line + 64 ≤ a → Mem.byte t.memory.mem a = Mem.byte s.memory.mem a) ∧
  ((∀ x ∈ s.memory.snoops, x.line = line → s.clock.gt < x.expiry) → exec (.snoopResponse line) s = .next s)

/-- Reservations (R213 to R215): a lane's load of an LRES, performed at the home, grants the place of its lane a reservation on the word at the present GT, where the slice holds fewer than 512; a reservation ends 2 us after its grant; SCND drains its strand's entries that hold one of its bytes, takes up the reservations of its lanes (at issue, by the choice of log entry 110) and asks for one conditional store for each active lane; a lane alone on its line writes its word, and fetches 1, exactly where its reservation is held for its address, fetches 0 and writes nothing otherwise, no other byte of memory changes, and its reservation goes; once every lane is decided, the bits of the result mask in the active lanes are the lanes that wrote, and the others keep their values. Snoops (R214, R225, R365, R474): a snoop of a line that the host takes, to read it or to store to it, recalls it and takes every reservation on it; a host line that the J40 does not hold takes the host's store at once; a back-invalidation takes a line of a shared extent likewise; the answer waits for the other die's lease; it gives the line up, and a host line goes to the host with its data and then holds what the host stores, while every other byte of memory stays. -/
def Obligations.ReservationsAndSnoops : Prop :=
  Sys2Proof.Statements.Reservations ∧ Sys2Proof.Statements.Snoops

/-- Loads in flight (R191, R198, R202, R204): a sector is bound when its turn comes and its line has its token, which it has at once where shares are not enforced, and where neither a copy nor the other die's cache comes between, to the bytes that the home holds, the first sector of a line that the home performs counting as the access (R350); a prefetch makes its page resident (R187); when it returns, its parts fill their destinations, extended as their instruction says, unless they were discarded; a strand whose load waits for a far line is parked. -/
def Sys2Proof.Statements.LoadsComplete : Prop :=
  ∀ (s : State) (w : Sid) (id sec : Nat) (l : Load), (s.strand w).load? id = some l →
  ((s.core w.core).shares.en = false → (s.payLine w id (lineOf (32 * sec))).1 = true) ∧
  (∀ v t, let pay := s.payLine w id (lineOf (32 * sec)); let home := (pay.2.bindLocal w.core l.lease sec l.via).isNone
    s.mayPerform w id sec = true → l.reserve = [] → l.parts ≠ [] → l.via ≠ .l2 → l.via ≠ .hbm → pay.1 = true →
    pay.2.bindSector w.core l.lease sec l.via (home && !l.counted.contains (sec / 2)) = (some v, t) →
    exec (.loadPerform w id sec) s = .next (t.onStrand w fun st => (st.onLoad id fun l => { l with
        sectors := l.sectors.map fun x => if x.1 = sec then (sec, some (v.1.toNat, v.2)) else x
        counted := if home then (sec / 2) :: l.counted else l.counted
        bound := (sec, t.clock.gt) :: l.bound
        parts := l.parts.map fun p => if p.pa / 32 = sec then p.keepOwn (t.core w.core).unapplied else p }).termOf id (Terms.all t.clock.gt))) ∧
  (∀ via, let line := lineOf (32 * sec); let r := s.prefetchLine w.core line via
    (isDevice line = true → (s.page line).noalloc = false → s.canAllocate (line / 65536) = true → s.locked line = false → s.failed line = false → (r.1.page line).resident = true) ∧
    (via = .l2 ∨ via = .hbm → l.via = via → s.mayPerform w id sec = true → l.paid.contains line = true → exec (.loadPerform w id sec) s = .next (if r.2
      then r.1.onStrand w fun st => st.onLoad id fun l => { l with sectors := l.sectors.map fun x => if x.1 = sec then (sec, some (0, false)) else x } else r.1))) ∧
  (liveCopy (s.core w.core).l1 sec s.clock.gt = none → dieOf w.core = homeDie (lineOf (32 * sec)) → s.homeWaits (lineOf (32 * sec)) = false → s.failed (32 * sec) = false →
    ∀ count, (s.bindSector w.core l.lease sec .l1 count).1 = some (Mem.sector s.memory.mem sec, s.linePoison (lineOf (32 * sec)))) ∧
  (∀ v poison, l.via ≠ .fabric → l.discard = false → l.sectors.find? (fun x => x.1 == sec) = some (sec, some (v, poison)) →
    exec (.loadFill w id sec) s = .next (
      ((((l.parts.filter fun p => p.pa / 32 == sec).foldl (fun s p => s.fillPart w l.scalar l.cycle p (extLoad p.sub (p.value (p.pa % 32) v))
          (poison && !(p.own.length == p.size && p.own.all fun x => x.isSome))) s).onStrand w
        fun st => st.onLoad id fun l => { l with sectors := l.sectors.filter (fun x => x.1 != sec), bound := l.bound.filter fun x => x.1 != sec }).onStrand w fun st =>
          (if (match st.load? id with | some l => l.sectors.isEmpty | none => false) then
            ({ st with flight := { st.flight with loads := st.flight.loads.filter fun l => l.id != id } } : Strand).acknowledge id [] else st).unpark))) ∧
  (s.mayPark w = true → exec (.farMissPark w) s = .next (s.onStrand w fun st => { st with sched := { st.sched with parked := true } }))

/-- Stores on their way (R193 to R196, R205): an entry leaves the buffer when it is full, when it has been idle for 32 cycles, or when its strand has ended; a drained entry of a home's own die, with no token owed, is applied at the home: its bytes are memory's and no other byte changes, and its completion is no earlier than the leases granted to the other die; the acknowledgement then gives the strand the term, and a line that has not been written back since the apply is one that a system-scope fence waits for (R206). -/
def Sys2Proof.Statements.StoresComplete : Prop :=
  ∀ (s : State) (core id : Nat),
  (∀ x, (s.core core).wcb.find? (fun x => x.id == id) = some x → x.fabric = false →
    let drained := fun (t : State) => (t.core core).wcb = (s.core core).wcb.erase x ∧ t.memory = s.memory ∧
      ∃ d ∈ (t.core core).drains, d.entry = x ∧ d.applied = none
    (x.mask = BitVec.allOnes 64 → drained (s.drainFull core id)) ∧
    ((s.strand (x.sid core)).live = 0 → Becomes (.wcbDrain core id) s drained) ∧
    (x.touched + 32 ≤ s.clock.cycle → Becomes (.wcbIdleDrain core id) s drained)) ∧
  (∀ d, (s.core core).drains.find? (fun d => d.entry.id == id) = some d →
    (s.mayApply core d = true → (s.core core).shares.en = false → dieOf core = homeDie d.entry.pa →
      Becomes (.homeStoreApply core id) s fun t =>
        (∀ k < 64, d.entry.mask.getLsbD k → Mem.byte t.memory.mem (d.entry.pa + k) = d.entry.data.extractLsb' (8 * k) 8) ∧
        (∀ a, a < d.entry.pa ∨ d.entry.pa + 64 ≤ a ∨ d.entry.mask.getLsbD (a - d.entry.pa) = false → Mem.byte t.memory.mem a = Mem.byte s.memory.mem a) ∧
        ∀ x ∈ (t.core core).drains, x.entry.id = id → ∃ a c, x.applied = some (a, c) ∧ s.clock.gt ≤ c ∧ Tab.get 0 s.memory.grants (lineNo d.entry.pa) ≤ c) ∧
    (∀ a c, d.applied = some (a, c) → exec (.storeAck core id) s =
      .next ((s.onCore core fun k => { k with drains := k.drains.filter fun x => x.entry.id != id }).onStrand (d.entry.sid core)
        fun st => (st.termOf d.entry.access { device := c, comb := a, system := max c d.cleaned }).acknowledge d.entry.access
          (if d.cleaned = 0 && isDevice d.entry.pa && s.isDirty d.entry.pa then [d.entry.pa] else []))))

/-- Loads in flight (R191, R198, R202, R204): a sector is bound when its turn comes and its line has its token, which it has at once where shares are not enforced, and where neither a copy nor the other die's cache comes between, to the bytes that the home holds, the first sector of a line that the home performs counting as the access (R350); a prefetch makes its page resident (R187); when it returns, its parts fill their destinations, extended as their instruction says, unless they were discarded; a strand whose load waits for a far line is parked. Stores on their way (R193 to R196, R205): an entry leaves the buffer when it is full, when it has been idle for 32 cycles, or when its strand has ended; a drained entry of a home's own die, with no token owed, is applied at the home: its bytes are memory's and no other byte changes, and its completion is no earlier than the leases granted to the other die; the acknowledgement then gives the strand the term, and a line that has not been written back since the apply is one that a system-scope fence waits for (R206). -/
def Obligations.AccessesComplete : Prop :=
  Sys2Proof.Statements.LoadsComplete ∧ Sys2Proof.Statements.StoresComplete

/-- The homes (R194, R202, R203, R347, R349, R435): a fetched line arrives in the order of its page's fetch; a write-back that a term waits for ends it; a late write-back is discarded where the home has taken the line, and installed otherwise; two halves of a region merge after 16 us; a line found bad, or a word of LM, is poisoned, logged with its origin, and counted once; a host access reads and writes the home's bytes; of an unserved extent a write is dropped and answered with poison, and so is a read, by the choice of log entry 79 (R435 says it of a write). -/
def Obligations.HomesServe : Prop :=
  ∀ (s : State),
  (∀ page line l, (s.page page).resident = true → (s.page page).fetching = line :: l →
    let t := s.onPage page fun p => { p with fetching := l, toL2 := p.toL2.filter fun k => k != line }
    exec (.pageFill page line) s = .next (if (s.page page).toL2.contains line then t.fillL2 line else t)) ∧
  (∀ line, s.needsClean line = true → s.served line = true → Becomes (.writebackAck line) s fun t =>
    t.isDirty line = false ∧ t.memory.mem = s.memory.mem ∧ ∀ w, (s.strand w).live ≠ 0 → (t.strand w).regs = (s.strand w).regs ∧ line ∉ (t.strand w).flight.lines) ∧
  (∀ tx x, s.memory.evictions.find? (fun x => x.tx == tx) = some x →
    let t := s.onMem fun m => { m with evictions := m.evictions.filter fun y => y.tx != tx }
    exec (.lateWritebackArrival tx) s = .next (if x.taken then t else t.fillL2 x.line) ∧ (t.fillL2 x.line).memory.mem = s.memory.mem) ∧
  (∀ a b, a.lines = b.lines → a.lines < 1024 → a.base % (128 * a.lines) = 0 → b.base = a.base + 64 * a.lines → a.stale + 16000 ≤ s.clock.gt → b.stale + 16000 ≤ s.clock.gt →
    s.memory.directory = [a, b] → Becomes (.directoryMerge a.base) s fun t =>
      ∃ r, t.memory.directory = [r] ∧ r.base = a.base ∧ r.lines = 2 * a.lines ∧ ∀ c, c ∈ r.sharers ↔ c ∈ a.sharers ∨ c ∈ b.sharers) ∧
  (∀ o addr, (∀ c, o ≠ .lm c) → s.linePoison (lineOf addr) = false → Becomes (.poisonDetect { origin := o, addr := addr }) s fun t => t.linePoison (lineOf addr) = true ∧ t.memory.mem = s.memory.mem ∧
    t.memory.detected = s.memory.detected ++ [{ origin := o, addr := addr }] ∧ Tab.get 0 t.life.counters 3 = Tab.get 0 s.life.counters 3 + 1 ∧ exec (.poisonDetect { origin := o, addr := addr }) t = .next t) ∧
  (∀ core addr, s.lmMarked core addr 1 = false → Becomes (.poisonDetect { origin := .lm core, addr := addr }) s fun t => (t.core core).lm = (s.core core).lm ∧ t.memory.mem = s.memory.mem ∧
    Tab.get false (t.core core).lmPoison (addr / 4) = true ∧ t.memory.detected = s.memory.detected ++ [{ origin := .lm core, addr := addr }] ∧
    Tab.get 0 t.life.counters 3 = Tab.get 0 s.life.counters 3 + 1) ∧
  (s.mgmt.recovery = false → ∀ pa size v, size ≠ 0 → pa % 64 + size ≤ 64 → isDevice pa = true →
    (∀ write, (s.serve pa write).isSome = true → exec (.hostCxlMemAccess write pa size v) s = .next (s.answer { pa := pa, data := 0, poison := true })) ∧
    (s.homeWaits (lineOf pa) = false →
      (s.serve pa false = none → Becomes (.hostCxlMemAccess false pa size v) s fun t =>
        t.memory.mem = s.memory.mem ∧ ∃ x ∈ t.host.answers, x = { pa := pa, data := Mem.read s.memory.mem pa size, poison := s.linePoison (lineOf pa) }) ∧
      (s.serve pa true = none → Becomes (.hostCxlMemAccess true pa size v) s fun t =>
        (∀ k < size, Mem.byte t.memory.mem (pa + k) = BitVec.ofNat 8 (v / 256 ^ k)) ∧ (∀ a, a < pa ∨ pa + size ≤ a → Mem.byte t.memory.mem a = Mem.byte s.memory.mem a) ∧
        ∃ c, t.host.pending = s.host.pending ++ [c] ∧ s.clock.gt ≤ c)))

/-- Before a strand's next issue (R128, R159, R201, R415, R416): a fairness burst holds the issuing group for 256 issue cycles; at its end FC is 0; run-ahead ends in the rollback and the batch of its pages; the first TLOAD of a core's queue loads its bank once it is free, and a TFLIP there selects its bank, and the strand moves on; an asynchronous fault makes the strand enter its handler at its issue PC, abandoning its wait. -/
def Obligations.StrandSteps : Prop :=
  ∀ (s : State) (w : Sid), let st := s.strand w
  (s.stands w = true → st.burstDue s.clock.cycle = true → exec (.fairnessBurst w) s =
    .next (s.onStrand w fun st => { st with sched := { st.sched with burst := some { held := st.group, pc := st.issuePc, left := 256 } } })) ∧
  (s.stands w = true → st.burstOver = true → exec (.burstEnd w) s = .next (s.onStrand w fun st => { st with sched := { st.sched with burst := none, fc := 0 } })) ∧
  (∀ a, st.ahead = some a → a.ended = true → exec (.runAheadEnd w) s = .next ((s.onStrand w Strand.rollback).sendBatch w a.batch)) ∧
  (∀ n off t, s.bankHead w.core = some w → st.sched.wait = some (.tload n off) → (s.core w.core).curBank ≠ n → s.tloadRun w n off = .inr t →
    exec (.tloadProceed w.core) s = .next (t.onStrand w fun st => st.passWait t.clock.cycle)) ∧
  (∀ n, s.bankHead w.core = some w → st.sched.wait = some (.tflip n) →
    exec (.tloadProceed w.core) s = .next ((s.onCore w.core fun k => { k with curBank := n }).onStrand w fun st => st.passWait s.clock.cycle)) ∧
  (∀ f, s.mayDeliver w = true → st.nextAsync = some f → st.act = false → Becomes (.asyncFaultDelivery w) s fun t => let u := t.strand w
    u.trap.tcause = tcauseWord true st.trap.priv f.seq f.cause ∧ u.trap.tval = f.tval ∧ u.trap.tpc = st.issuePc.setWidth 64 ∧ u.trap.tmask = st.group ∧
    u.trap.priv = true ∧ u.sched.wait = none ∧ u.sched.async = st.sched.async.erase f ∧ u.regs = st.regs ∧
    ∀ l < 32, st.live.getLsbD l → u.pc l = st.trap.tvec.setWidth 57 ∧ u.trap.frame[l]? = some (st.pc l))

/-- What atomics compute (R107, R237, R238): modulo 2^32 or 2^64, INCW and DECW with their wraps, CAS by comparison; lanes that share a target act one after the other, each fetching what the one before left; and an exact sum in range adds the very value of a finite word. -/
def Obligations.AtomicValues : Prop :=
  (∀ (wide : Bool) (o x new : Nat), let n := if wide then 8 else 4; let m := 2 ^ (8 * n); o < m → x < m → new < m →
    applyInt .add n o x new = (o + x) % m ∧ applyInt .xchg n o x new = x ∧ applyInt .cas n o x new = (if o = x then new else o) ∧
    applyInt .and n o x new = o &&& x ∧ applyInt .or n o x new = o ||| x ∧ applyInt .xor n o x new = o ^^^ x ∧
    applyInt .minu n o x new = min o x ∧ applyInt .maxu n o x new = max o x ∧
    sx (applyInt .min n o x new) (8 * n) = min (sx o (8 * n)) (sx x (8 * n)) ∧ sx (applyInt .max n o x new) (8 * n) = max (sx o (8 * n)) (sx x (8 * n)) ∧
    applyInt .incw n o x new = (if o ≥ x then 0 else o + 1) ∧ applyInt .decw n o x new = (if o = 0 ∨ o > x then x else o - 1) ∧
    ∀ op, applyInt op n o x new < m) ∧
  (∀ (op : AtomOp) (wide : Bool) (pc : Pc) (v : Nat) (p q : AtomPart), let n := if wide then 8 else 4
    let mid := applyInt op n v p.data.toNat p.new.toNat
    actOn (.int op wide) pc v [p, q] = (applyInt op n mid q.data.toNat q.new.toNat, [(p.lane, BitVec.ofNat 64 v), (q.lane, BitVec.ofNat 64 mid)])) ∧
  (∀ (line : Nat) (x : Word) (neg : Bool) (d : Dy), line < 2 ^ 512 → (fmtOf 0).decode x.toNat = .num neg d → let a := sumAcc line + d.s * 2 ^ (d.e + 149).toNat
    a ≤ 2 ^ 507 - 1 → -(2 ^ 507 : Int) ≤ a → sumAcc (sumAdd line x) = a ∧ sumAdd line x / 2 ^ 508 = line / 2 ^ 508)

/-- The atomic instructions (R226 to R242): on LM and peer LM, where no target is poisoned, the lanes act in order at issue, each fetching its target's old value, and the issuing lanes move on; on global and fabric memory the request joins the atomics in flight with one part for each lane, and nothing is written yet; each ends an open region, and at the atomic that a residual mask is for the issuing lanes leave it; an unsupported target raises ATOM_UNSUPPORTED with its address. -/
def Sys2Proof.Statements.AtomicRequests : Prop :=
  ∀ (e : Enc) (s : State) (spots : List Spot), let w := s.cur; let sp := spaceOf e
  let acts := fun (n : Instr) (o : Op) => Active o e s → let i := s.issue o e; let k := atomKind o e
    let left := fun (st : Strand) => if (s.strand w).atResid then st.keepResid (~~~i.group) else st
    let at_ := fun (x : Spot) => if sp = .lm then w.core else (peerPlace w.core x.addr).1
    (sp = .lm ∨ sp = .peer → Reaches s i sp (i.targets s false) (atomNeed o e) spots → (∀ x ∈ spots, s.lmMarked (at_ x) x.pa k.size = false) →
      let a := spots.foldl (fun (q : State × List (Nat × Dbl)) x => let a := actOn k i.pc (q.1.lmRead (at_ x) x.pa k.size) [i.atomPart s k x]
        (if writesTarget k a.2 [i.atomPart s k x] then q.1.lmWrite (at_ x) x.pa k.size a.1 else q.1, q.2 ++ a.2)) (s, [])
      exec n s = .next (((a.1.writeFetched w k.wide (once e) i.atomDest a.2).onStrand w fun st =>
        (left st.closeRegion).addTerms { device := s.clock.gt, comb := if sp = .lm then s.clock.gt else 0, system := s.clock.gt }).advance i)) ∧
    (sp = .global ∨ sp = .fabric → Reaches s i sp (i.targets s false) (atomNeed o e) spots →
      Becomes n s fun t => t.memory.mem = s.memory.mem ∧ (t.strand w).regs = (s.strand w).regs ∧ (t.strand w).region = none ∧ (t.strand w).sp.resid = (left (s.strand w)).sp.resid ∧
        ∃ a, (t.strand w).flight.atomics = (s.strand w).flight.atomics ++ [a] ∧ a.kind = k ∧ a.parts = spots.map (i.atomPart s k) ∧ a.done = [] ∧ a.failed = [] ∧ a.lost = [] ∧ a.poison = [] ∧
          a.dest = i.atomDest ∧ a.active = i.act ∧ a.pc = i.pc ∧ (sp = .fabric → (t.strand w).sched.wait = some (.atomic a.id) ∧ (t.strand w).pcs = (s.strand w).pcs)) ∧
    (∀ x, let l := i.targets s false; (∀ y ∈ l, y.2 % k.size = 0) → (∀ y ∈ l, s.addressOk w sp y.2 k.size = true) →
      s.locateAll w i.st.trap.priv sp (atomNeed o e).acc l = spots.map Located.ok → spots.find? (fun x => !supported k sp x.pa) = some x →
      Traps n o e s (Trap.of .atomUnsupported x.addr))
  acts (.atom e) .atom ∧ acts (.atomn e) .atomn ∧ acts (.cas e) .cas ∧ acts (.atomf e) .atomf ∧ acts (.xadd e) .xadd ∧
  (acts (.xclr e) .xclr) ∧
  (Active .xread e s → let i := s.issue .xread e; sp = .global → Reaches s i sp (i.targets s false) (atomNeed .xread e) spots →
    Becomes (.xread e) s fun t => t.memory.mem = s.memory.mem ∧ (t.strand w).regs = (s.strand w).regs ∧
      ∃ a, (t.strand w).flight.atomics = (s.strand w).flight.atomics ++ [a] ∧ a.kind = .xread (e.sub == 1) ∧ a.parts = spots.map (i.atomPart s a.kind) ∧ a.dest = some (i.destReg 0)) ∧
  (Active .xread e s → sp = .lm ∨ sp = .peer ∨ sp = .fabric → ∀ x, let i := s.issue .xread e; let l := i.targets s false
    (∀ y ∈ l, y.2 % 64 = 0) → (∀ y ∈ l, s.addressOk w sp y.2 64 = true) → s.locateAll w i.st.trap.priv sp (atomNeed .xread e).acc l = (x :: spots).map Located.ok →
    Traps (.xread e) .xread e s (Trap.of .atomUnsupported x.addr))

/-- The frame of an atomic of LM or peer LM (R177, R226, R232): every byte of every core's LM outside the targets of the lanes, at the core and the physical byte that each lane's address names, keeps its value, and so do all of main memory, every affine and mask register, and every uniform and varying register other than the one or two that take the fetched values. -/
def Sys2Proof.Statements.LocalAtomicsFrame : Prop :=
  ∀ (e : Enc) (s t : State) (spots : List Spot), let w := s.cur; let sp := spaceOf e
  let framed := fun (n : Instr) (o : Op) => Active o e s → let i := s.issue o e; let k := atomKind o e; sp = .lm ∨ sp = .peer →
    Reaches s i sp (i.targets s false) (atomNeed o e) spots → exec n s = .next t →
    let named := fun (r : Nat) => ∃ d, i.atomDest = some d ∧ (r = d ∨ k.wide = true ∧ r = d + 1)
    (∀ c a, (∀ l ∈ i.slots i.act, let x := i.addr s false l; let p := if sp = .lm then (w.core, s.lmPhys w.core w.slot x) else peerPlace w.core x
        p.1 ≠ c ∨ a < p.2 ∨ p.2 + k.size ≤ a) → Mem.byte (t.core c).lm a = Mem.byte (s.core c).lm a) ∧
    (∀ a, Mem.byte t.memory.mem a = Mem.byte s.memory.mem a) ∧
    (t.strand w).regs.a = (s.strand w).regs.a ∧ (t.strand w).regs.k = (s.strand w).regs.k ∧
    (∀ r, ¬ (once e = true ∧ named r) → Tab.get 0 (t.strand w).regs.s r = Tab.get 0 (s.strand w).regs.s r) ∧
    ∀ r, ¬ (once e = false ∧ named r) → Tab.get (Lanes.all 0) (t.strand w).regs.v r = Tab.get (Lanes.all 0) (s.strand w).regs.v r
  framed (.atom e) .atom ∧ framed (.atomn e) .atomn ∧ framed (.cas e) .cas ∧ framed (.atomf e) .atomf

/-- Atomics in flight (R232, R234, R235): whatever the kind, acting at the homes changes no byte of memory outside the targets of the request's lanes, no LM and no register; a lane whose turn has come acts once at its home: the target takes the new value, no other byte of memory changes, and the old value is fetched; the response writes the fetched values to their registers and ends the request; a strand that stood at it moves on. -/
def Sys2Proof.Statements.AtomicsComplete : Prop :=
  ∀ (s : State) (w : Sid) (id : Nat) (a : Atomic), (s.strand w).atomic? id = some a →
  (∀ t, (∀ sub, a.kind = .mxst sub → (∃ p ∈ a.parts, p.lane ≠ 32) ∧ ∃ p ∈ a.parts, p.lane = 32) → exec (.atomicExecute w id) s = .next t →
    (∀ b, (∀ p ∈ a.parts, b < p.pa ∨ p.pa + a.partSize p ≤ b) → Mem.byte t.memory.mem b = Mem.byte s.memory.mem b) ∧
    (∀ c, (t.core c).lm = (s.core c).lm) ∧ ∀ v, (s.strand v).live ≠ 0 → (t.strand v).regs = (s.strand v).regs) ∧
  (∀ op wide p, a.kind = .int op wide → a.fabric = false → s.readyGroups w id = [[p]] → (s.core w.core).shares.en = false → s.failed p.pa = false → s.linePoison (lineOf p.pa) = false →
    let n := if wide then 8 else 4; let old := Mem.read s.memory.mem p.pa n
    p.pa % n = 0 → Becomes (.atomicExecute w id) s fun t =>
      Mem.read t.memory.mem p.pa n = applyInt op n old p.data.toNat p.new.toNat % 2 ^ (8 * n) ∧
      (∀ b, b < p.pa ∨ p.pa + n ≤ b → Mem.byte t.memory.mem b = Mem.byte s.memory.mem b) ∧
      ∃ a', (t.strand w).atomic? id = some a' ∧ a'.done = a.done ++ [(p.lane, BitVec.ofNat 64 old)] ∧ a'.parts = a.parts.filter (fun q => q.lane != p.lane) ∧ a'.failed = a.failed ∧ a'.lost = a.lost) ∧
  (a.parts = [] → a.failed = [] → a.lost = [] → a.poison = [] → Becomes (.atomicResponse w id) s fun t =>
    (t.strand w).atomic? id = none ∧ t.memory = s.memory ∧ (t.strand w).regs = ((s.writeAtomic w a).strand w).regs ∧
    ((s.strand w).sched.wait = some (.atomic id) → (t.strand w).sched.wait = none) ∧
    (∀ d l v, a.kind = .int .add false → a.scalar = false → a.dest = some d → a.done = [(l, v)] → l < 32 →
      ∀ j < 32, (Tab.get (Lanes.all 0) (t.strand w).regs.v d).at j = if j = l ∧ (s.strand w).live.getLsbD l then v.setWidth 32 else (Tab.get (Lanes.all 0) (s.strand w).regs.v d).at j))

/-- The atomic instructions (R226 to R242): on LM and peer LM, where no target is poisoned, the lanes act in order at issue, each fetching its target's old value, and the issuing lanes move on; on global and fabric memory the request joins the atomics in flight with one part for each lane, and nothing is written yet; each ends an open region, and at the atomic that a residual mask is for the issuing lanes leave it; an unsupported target raises ATOM_UNSUPPORTED with its address. The frame of an atomic of LM or peer LM (R177, R226, R232): every byte of every core's LM outside the targets of the lanes, at the core and the physical byte that each lane's address names, keeps its value, and so do all of main memory, every affine and mask register, and every uniform and varying register other than the one or two that take the fetched values. Atomics in flight (R232, R234, R235): whatever the kind, acting at the homes changes no byte of memory outside the targets of the request's lanes, no LM and no register; a lane whose turn has come acts once at its home: the target takes the new value, no other byte of memory changes, and the old value is fetched; the response writes the fetched values to their registers and ends the request; a strand that stood at it moves on. -/
def Obligations.Atomics : Prop :=
  Sys2Proof.Statements.AtomicRequests ∧ Sys2Proof.Statements.LocalAtomicsFrame ∧ Sys2Proof.Statements.AtomicsComplete

/-- MCAS (R243 to R248): past its checks the strand stands at it until it is decided (the choice of log entry 40), with the lines of its words to lock in ascending order; each lock is taken at the line's home, which counts an access for each of its words (R350), once the strand's earlier accesses of the words are performed; once all are held the words are compared: on a mismatch nothing in memory changes, the locks go, the block takes the observed words and D the mask; on a match the new values are committed at T, no earlier than any lease granted to the other die, at once, and D becomes the mask of the compare. -/
def Obligations.MultiWordCompareAndSwap : Prop :=
  (∀ (e : Enc) (s : State) (spots : List Spot), Active .mcas e s → let w := s.cur; let i := s.issue .mcas e; let off := (i.uA s).toNat
    let header := s.winRead w.core w.slot off 8; let raw := s.mcasWords w off (bits header 3 0) (bit header 8)
    let words := (spots.zip raw).map fun (p, r) => ({ va := p.addr, pa := p.pa, expected := r.2.1, new := r.2.2 } : McasWord)
    s.mcasBlock w off = none → (raw.mapIdx fun k x => mcasAddrTrap (mcasEntry off k) x.1 (bit header 8)).findSome? id = none →
    s.locateAll w i.st.trap.priv .global .atomic ((raw.map fun x => x.1).mapIdx fun k a => (k, bits a 56 0)) = spots.map Located.ok →
    s.mcasLate w off (bit header 8) (raw.map fun x => x.1) words = none →
    Becomes (.mcas e) s fun t => t.memory.mem = s.memory.mem ∧ (t.strand w).regs = (s.strand w).regs ∧ (t.strand w).pcs = (s.strand w).pcs ∧
      (t.strand w).mcas? = some { block := off, wide := bit header 8, dest := e.d.toNat, words := words, toLock := mcasLines words, locked := [], result := none }) ∧
  (∀ (s : State) (w : Sid) (m : Mcas), (s.strand w).mcas? = some m →
    (∀ l k t, m.result = none → m.toLock = l :: k :: t → (∀ x ∈ m.locked ++ [l], s.failed x = false) → s.homeWaits l = false → (∀ x ∈ mcasLines m.words, s.drained w m x = true) → (s.core w.core).shares.en = false →
      Becomes (.mcasLockPhase w) s fun u => (u.strand w).mcas? = some { m with toLock := k :: t, paid := false, locked := m.locked ++ [l] } ∧ u.locked l = true ∧ u.memory.mem = s.memory.mem ∧
        (isDevice l = true → (s.page l).resident = true → (s.page l).counter ≤ 255 → (u.page l).counter = min 255 ((s.page l).counter + (m.words.filter fun x => lineOf x.pa == l).length))) ∧
    (m.result = none → m.toLock = [] → (∀ x ∈ m.locked, s.failed x = false) → (∀ x ∈ m.words, s.linePoison (lineOf x.pa) = false) → let n := if m.wide then 8 else 4
      ((∃ x ∈ m.words, Mem.read s.memory.mem x.pa n ≠ x.expected) → Becomes (.mcasLockPhase w) s fun u => u.memory.mem = s.memory.mem ∧ (∀ l ∈ u.memory.locks, l.owner ≠ w) ∧
        (u.strand w).sched.wait = none ∧ ∀ k < m.words.length, k < 32 → (Tab.get 0 (u.strand w).regs.s m.dest).getLsbD k = decide (∃ x, m.words[k]? = some x ∧ Mem.read s.memory.mem x.pa n ≠ x.expected)) ∧
      ((∀ x ∈ m.words, Mem.read s.memory.mem x.pa n = x.expected) → Becomes (.mcasLockPhase w) s fun u => u.memory.mem = s.memory.mem ∧ ∃ obs t, (u.strand w).mcas? = some { m with result := some (obs, 0, t) } ∧
        s.clock.gt ≤ t ∧ ∀ l ∈ m.locked, Tab.get 0 s.memory.grants (lineNo l) ≤ t)) ∧
    (∀ obs mask t, m.result = some (obs, mask, t) → t ≤ s.clock.gt → let n := if m.wide then 8 else 4
      (∀ x ∈ m.words, x.pa % n = 0) → (∀ x ∈ m.words, ∀ y ∈ m.words, x.pa = y.pa → x.new = y.new) → Becomes (.mcasCommit w) s fun u =>
        (∀ x ∈ m.words, Mem.read u.memory.mem x.pa n = x.new % 2 ^ (8 * n)) ∧ (∀ b, (∀ x ∈ m.words, b < x.pa ∨ x.pa + n ≤ b) → Mem.byte u.memory.mem b = Mem.byte s.memory.mem b) ∧
        (∀ l ∈ u.memory.locks, l.owner ≠ w) ∧ Tab.get 0 (u.strand w).regs.s m.dest = BitVec.ofNat 32 mask ∧ (u.strand w).sched.wait = none))

/-- Copy requests (R249 to R256, R266, R268, R269, R271): a KICK of 1 to 16 well-formed objects registers them where no earlier KICK waits and the range-lock table has room, and otherwise waits with its strand; the oldest waiting KICK registers once there is room; the head of a comb's queue starts where it has no guard or a true one, writing STATE 0x03 into its object, and is discarded with STATE 0x05 where the guard is false. -/
def Obligations.CopyRequestsStart : Prop :=
  (∀ (e : Enc) (s : State), Clear .kick e s → let w := s.cur; let i := s.issue .kick e; let n := (i.opB s).toNat; let off := (i.uA s).toNat
    let reqs := s.kickReqs i; let r := s.onStrand w Strand.closeRegion
    (1 ≤ n ∧ n ≤ 16 → s.blockTrap w off (64 * n) = none → (∀ x ∈ reqs, x.2.2.dec = true → (s.descriptor (s.tenantOf w.core w.slot)).isSome = true) →
      reqs.findSome? (fun x => s.reqTrap w x.1 x.2.1 x.2.2) = none →
      (reqs.length = n ∧ ∀ k < n, ∃ x, reqs[k]? = some x ∧ x.2.1 = off + 64 * k ∧ x.1 = s.winRead w.core w.slot (off + 64 * k) 64) ∧
      ((s.core w.core).kicks = [] → r.mayRegister w.core n = true →
        exec (.kick e) s = .next ((r.register w.core w.slot (reqs.map fun x => x.2.2)).advance i)) ∧
      (¬ ((s.core w.core).kicks = [] ∧ r.mayRegister w.core n = true) → Becomes (.kick e) s fun t => t.memory = s.memory ∧ (t.core w.core).lm = (s.core w.core).lm ∧
        (t.core w.core).kicks = (s.core w.core).kicks ++ [{ slot := w.slot, strand := w.strand, reqs := reqs.map fun x => x.2.2 }] ∧
        (t.strand w).sched.wait = some .kick ∧ (t.strand w).pcs = (s.strand w).pcs ∧ (t.strand w).regs = (s.strand w).regs)) ∧
    (¬ (1 ≤ n ∧ n ≤ 16) → Traps (.kick e) .kick e s (Trap.of .illegalOperand n))) ∧
  (∀ (s : State) (core : Nat) (x : KickWait) (l : List KickWait), (s.core core).kicks = x :: l → s.mayRegister core x.reqs.length = true →
    exec (.kickRegister core) s = .next (((s.onCore core fun k => { k with kicks := l }).register core x.slot x.reqs).onStrand { core := core, slot := x.slot, strand := x.strand } fun st => st.passWait s.clock.cycle)) ∧
  (∀ (s : State) (core slot : Nat) (q : Request) (off : Nat), (s.comb? core slot).isSome = true → q.kind = .kick off → let t := s.register core slot [q]
    (t.core core).locks.length = (s.core core).locks.length + 1 ∧ t.winRead core slot (off + 60) 4 = 1 ∧ (t.core core).nextReq = (s.core core).nextReq + 1 ∧
    (t.comb core slot).reqs = (s.comb core slot).reqs ++ [{ q with id := (s.core core).nextReq }] ∧ t.memory = s.memory) ∧
  (∀ (s : State) (core slot : Nat) (k : Comb) (q : Request) (off : Nat), s.comb? core slot = some k → k.phase = .running → k.headReq = some q → q.state = .queued → q.kind = .kick off →
    let bytes := q.len0 * q.c1 * q.c2 * q.c3
    ((∀ g, q.guard = some g → k.guard g = some true) → Becomes (.copyRequestStart core slot) s fun t => t.winRead core slot (off + 60) 4 = 3 ∧ t.memory = s.memory ∧
      ∃ x ∈ (t.comb core slot).reqs, x.id = q.id ∧ x.state = .running ∧ x.uncounted = bytes) ∧
    (∀ g, q.guard = some g → k.guard g = some false → exec (.copyRequestStart core slot) s = .next (s.endReq core slot q 0x05 0 bytes false)) ∧
    (∀ g, q.guard = some g → k.guard g = none → Becomes (.copyRequestStart core slot) s fun t => t.winRead core slot (off + 60) 4 = 2 ∧ t.memory = s.memory ∧
      ∃ x ∈ (t.comb core slot).reqs, x.id = q.id ∧ x.state = .held))

/-- The course of a copy (R251, R256, R259, R266): one step reads a chunk of LM, writes a staged one to LM, changing no other byte, or takes a count that is due; the last count releases the range locks and writes STATE 0x04; the chunks of a row cover it from end to end, each within one line on both sides (where the two sides are aligned differently, by the choice of log entry 114). -/
def Obligations.CopiesMoveBytes : Prop :=
  (∀ (s : State) (core slot id : Nat) (q : Request), s.req? core slot id = some q → q.state = .running → q.checked = true → q.flying = [] →
    (∀ c, q.sspc = 0 → q.left = [c] → q.staged = [] → q.counts = [] → Becomes (.copyChunk core slot id) s fun t => t.memory = s.memory ∧ (t.core core).lm = (s.core core).lm ∧
      ∃ q', t.req? core slot id = some q' ∧ q'.left = [] ∧ ∃ p, q'.staged = [{ chunk := c, data := s.winRead core slot c.src c.len, poison := p }]) ∧
    (∀ x, q.dspc = 0 → q.left = [] → q.staged = [x] → q.counts = [] → Becomes (.copyChunk core slot id) s fun t => t.memory = s.memory ∧
      t.winRead core slot x.chunk.dst x.chunk.len = x.data % 2 ^ (8 * x.chunk.len) ∧
      (let p := s.lmPhys core slot x.chunk.dst; ∀ a, a < p ∨ p + x.chunk.len ≤ a → Mem.byte (t.core core).lm a = Mem.byte (s.core core).lm a) ∧
      ∃ q', t.req? core slot id = some q' ∧ q'.staged = [] ∧ q'.counts = [{ len := x.chunk.len, at_ := s.clock.gt, line := none }]) ∧
    (∀ c, q.left = [] → q.staged = [] → q.counts = [c] → c.line = none → c.at_ ≤ s.clock.gt → exec (.copyChunk core slot id) s = .next (s.endReq core slot q 0x04 0 c.len false))) ∧
  (∀ (s : State) (core slot : Nat) (q : Request) (off : Nat), q.kind = .kick off → q.bar = none → q.flying = [] → (s.comb? core slot).isSome = true → let t := s.endReq core slot q 0x04 0 0 false
    t.winRead core slot (off + 60) 4 = 4 ∧ (∀ l ∈ (t.core core).locks, l.id ≠ q.id) ∧ t.req? core slot q.id = none ∧ t.memory = s.memory) ∧
  (∀ (row src dst len : Nat), let l := rowChunks row src dst len 0 len; (l.map fun c => c.len).sum = len ∧
    ∀ c ∈ l, c.row = row ∧ 1 ≤ c.len ∧ src ≤ c.src ∧ c.src + c.len ≤ src + len ∧ c.dst = dst + (c.src - src) ∧ c.src % 64 + c.len ≤ 64 ∧ c.dst % 64 + c.len ≤ 64)

/-- Byte barriers, guard slots and range-lock queries (R258 to R263, R267, R268, R271): BBINIT sets EXP and clears the rest; BBADD updates PEND and ARR, and the phase turns when ARR reaches EXP with PEND 0; out of range it raises BARRIER_OVERFLOW and stores nothing; BBWAIT passes in the asked phase and stands otherwise, until the phase comes; BBTEST reports phase, OVF and ERR; GSET sets a slot; RLQ tells what would conflict, or how many entries are free; QSUB hands its entry on, and the answer is D: a queue of a service above 2 refuses it as a queue not bound to the tenant does, by the choice of log entry 23. -/
def Obligations.BarriersGuardsAndQueues : Prop :=
  (∀ (b : Nat) (add : Int) (arrive : Nat), b < 2 ^ 64 → let p := sx b 24 + add; let out := p < -(2 ^ 23) ∨ p > 2 ^ 23 - 1 ∨ bits b 38 32 + arrive > bits b 30 24
    (out → bbUpdate b add arrive = none) ∧ (¬ out → ∃ b', bbUpdate b add arrive = some b' ∧ Updated b b' add arrive)) ∧
  (∀ (e : Enc) (s : State), s.cur.strand ≠ seqIndex → let w := s.cur
    let word := fun (o : Op) => s.winRead w.core w.slot ((s.issue o e).uA s).toNat 8
    let stores := fun (n : Instr) (o : Op) (b : Nat) => let i := s.issue o e
      exec n s = .next (((s.onStrand w Strand.closeRegion).winWrite w.core w.slot (i.uA s).toNat 8 b).advance i)
    let free := fun (o : Op) => s.bbCheck o w ((s.issue o e).uA s).toNat ((s.issue o e).opB s) = none
    (Clear .bbinit e s → free .bbinit → stores (.bbinit e) .bbinit (((s.issue .bbinit e).opB s).toNat * 2 ^ 24)) ∧
    (Clear .bbadd e s → free .bbadd → let v := ((s.issue .bbadd e).opB s).toNat; let arrive := if e.sub = 1 then 0 else 1
      (∀ b, bbUpdate (word .bbadd) v arrive = some b → stores (.bbadd e) .bbadd b) ∧
      (bbUpdate (word .bbadd) v arrive = none → Traps (.bbadd e) .bbadd e s (Trap.of .barrierOverflow (word .bbadd)))) ∧
    (Clear .bbwait e s → free .bbwait → let i := s.issue .bbwait e; let v := (i.opB s).getLsbD 0
      (bit (word .bbwait) 39 = v → exec (.bbwait e) s = .next (s.advance i)) ∧
      (bit (word .bbwait) 39 ≠ v → exec (.bbwait e) s = .next (s.onStrand w fun st =>
        { st with sched := { st.sched with wait := some (.bbwait (i.uA s).toNat v), waitLen := e.bytes } }))) ∧
    (Active .bbtest e s → free .bbtest → Sets (.bbtest e) .bbtest e s fun i => let b := word .bbtest
      BitVec.ofNat 32 ((if bit b 39 = (i.opB s).getLsbD 0 then 1 else 0) + (if bit b 63 then 2 else 0) + (if bit b 62 then 4 else 0))) ∧
    (Active .gset e s → exec (.gset e) s = .next (((s.onStrand w Strand.closeRegion).setGuard w.core w.slot e.d.toNat
      (if e.sub = 1 then 0 else if (s.issue .gset e).opB s = 0 then 2 else 1)).advance (s.issue .gset e))) ∧
    (Active .rlq e s → Results (.rlq e) .rlq e s fun i l => if e.sub = 2 then BitVec.ofNat 32 (32 - (s.core w.core).locks.length)
      else if s.addressOk w (spaceOf e) (i.addr s true l) 1 = true ∧ s.conflictAt w (spaceOf e) (if e.sub = 0 then .write else .read) (i.addr s true l) 1 = true then 1 else 0) ∧
    (Active .qsub e s → let i := s.issue .qsub e; let off := (i.uA s).toNat; let h := s.winRead w.core w.slot off 8
      (i.opB s).toNat ≤ 255 → s.blockTrap w off 64 = none → bits h 14 8 = 0 → (bit h 15 = true → s.inWindow w.core w.slot (8 * bits h 31 16) 8 = true) →
      Becomes (.qsub e) s fun t => t.memory = s.memory ∧ (t.strand w).regs = (s.strand w).regs ∧ ∃ q, (t.strand w).flight.qsubs = (s.strand w).flight.qsubs ++ [q] ∧
        q.reg = e.d.toNat ∧ q.queue = (i.opB s).toNat ∧ q.entry = BitVec.ofNat 512 (s.winRead w.core w.slot off 64))) ∧
  (∀ (s : State) (w : Sid) (off : Nat) (v : Bool), w.strand ≠ seqIndex → (s.strand w).sched.wait = some (.bbwait off v) → let b := s.winRead w.core w.slot off 8
    bit b 63 = false → (bit b 39 = v → exec (.bbwaitWake w) s = .next (s.onStrand w fun st => st.passWait s.clock.cycle)) ∧ (bit b 39 ≠ v → exec (.bbwaitWake w) s = .next s)) ∧
  (∀ (s : State) (w : Sid) (q : Qsub), (s.strand w).flight.qsubs.find? (fun x => x.reg == q.reg) = some q → q.reg < 64 → let d := s.drone q.queue
    let ok := d.en = true ∧ d.orphan = false ∧ d.svc ≤ 2 ∧ d.tenant = s.tenantOf w.core w.slot
    Becomes (.droneQsubResponse w q.reg) s fun t => t.memory = s.memory ∧
      Tab.get 0 (t.strand w).regs.s q.reg = (if ¬ ok then 0x80000002 else if 2 ^ d.logcap ≤ d.open_.length then 0x80000001 else BitVec.ofNat 32 d.seq) ∧
      (ok → d.open_.length < 2 ^ d.logcap → (t.drone q.queue).seq = (d.seq + 1) % 2 ^ 31 ∧ (t.drone q.queue).open_.length = d.open_.length + 1) ∧
      (¬ ok → t.service = s.service))

/-- Drone cores and tokens (R369, R438, R449, R450): a completed entry leaves its queue, its completion record holds its tag, the status and the bytes moved, and MSI-X vector 16 plus the queue is signalled where it is enabled; an arriving message of a tenant that the queue serves enters the ring at TAIL, which rises by one, and notifies the register of the queue; a write of BWCTL that finds EN = 0 in a later period than the last grant empties the buckets of the port (the choice of log entry 109); at the start of a period with EN = 1 the buckets take their grants. -/
def Obligations.DroneEntriesAndTokens : Prop :=
  (∀ (s : State) (queue seq : Nat) (status moved : Word) (x : DroneEntry) (cells : List (Nat × Byte)), let q := s.drone queue
    q.open_.find? (fun x => x.seq == seq) = some x → q.orphan = false → bits x.entry.toNat 511 320 = 0 → x.entry.getLsbD 15 = false →
    s.agentCells x.tenant (cellsOf (bits x.entry.toNat 319 256) 16 (bits x.entry.toNat 63 32 + status.toNat * 2 ^ 32 + moved.toNat * 2 ^ 64)) = some cells →
    let lines := (cells.map fun c => lineOf c.1).dedup
    (∀ l ∈ lines, s.agentReady l = true) → (∀ l ∈ lines, (lines.foldl State.atHome s).settled l = true) → Becomes (.droneEntryComplete queue seq status moved []) s fun t =>
      t.memory.mem = Mem.writeCells s.memory.mem cells ∧ (t.drone queue).open_ = q.open_.filter (fun y => y.seq != seq) ∧ (∀ c ∈ cells, t.isDirty (lineOf c.1) = false) ∧
      t.host.msix = (if q.ien then [16 + queue] else []) ++ s.host.msix) ∧
  (∀ (s : State) (queue src : Nat) (tenant : BitVec 16) (entry : LineBits) (ring a b : Nat), let q := s.drone queue; q.refuses tenant = false →
    s.agentPa q.tenant .write q.base = .ok ring → let head := Mem.read s.memory.mem ring 8; let tail := Mem.read s.memory.mem (ring + 8) 8
    s.agentPa q.tenant .write (q.base + 64 + 128 * (tail % 2 ^ q.logcap)) = .ok a → s.agentPa q.tenant .write (q.base + 64 + 128 * (tail % 2 ^ q.logcap) + 64) = .ok b →
    let at_ := (s.remember (agentTlb 0) q.tenant q.base).atHome (lineOf ring)
    s.homeWaits (lineOf ring) = false → at_.homeWaits (lineOf a) = false → at_.homeWaits (lineOf b) = false → ring % 64 = 0 → a % 64 = 0 → b % 64 = 0 → ring ≠ a → ring ≠ b → a ≠ b →
    (tail + 2 ^ 64 - head) % 2 ^ 64 ≠ 2 ^ q.logcap → Becomes (.fabricMessageReceive queue src tenant entry) s fun t =>
      Mem.read t.memory.mem a 64 = entry.toNat ∧ Mem.read t.memory.mem b 4 = src % 65536 + tenant.toNat * 65536 ∧ Mem.read t.memory.mem (ring + 8) 8 = (tail + 1) % 2 ^ 64 ∧
      (t.notifyOf q.nreg).seq = (s.notifyOf q.nreg).seq + 1) ∧
  (∀ (s : State) (core v : Nat), (s.core core).shares.en = false → (s.core core).shares.filled < s.clock.cycle / 1024 →
    let h := ((s.writeMgmt (.bwctl core) v).core core).shares; h.buckets = [] ∧ h.filled = s.clock.cycle / 1024 ∧ h.en = bit v 63 ∧ h.defw = bits v 7 0 ∧ h.bwt = (s.core core).shares.bwt) ∧
  (∀ (s : State) (core : Nat), (s.core core).shares.en = true → (s.core core).shares.filled < s.clock.cycle / 1024 → (∀ x ∈ s.fabric.targets, x.2.out = []) → (s.core core).combs = [] →
    Becomes (.bandwidthRefill core) s fun t => (t.core core).shares.filled = s.clock.cycle / 1024 ∧ (t.core core).shares.buckets = (s.core core).shares.grants (s.activeBuckets core))

/-- The enqueuing instructions (R164, R327, R328, R330, R331, R334 to R336, R420): past its checks each ends an open region and stands until its strand's earlier accesses have reached their terms, with nothing enqueued, no register written and memory unchanged; WAIT stands at its notify register; SPAWNN of no cell and JOIN without a parent raise ILLEGAL_OPERAND; DONE marks the strand of a swarm's cell; CELLRD reads the launch values. -/
def Obligations.WorkIsHeld : Prop :=
  ∀ (e : Enc) (s : State) (pa : Nat), let w := s.cur; let st := s.strand w; let k := s.comb w.core w.slot
  let stands := fun (n : Instr) (x : Wait) => Becomes n s fun t => (t.strand w).sched.wait = some x ∧ (t.strand w).sched.waitLen = e.bytes ∧ (t.strand w).region = none ∧
    (t.strand w).pcs = st.pcs ∧ (t.strand w).regs = st.regs ∧ t.sched.queues = s.sched.queues ∧ t.sched.notify = s.sched.notify ∧ t.memory.mem = s.memory.mem
  let bound := fun (v : Word) => v.toNat ≤ 255 ∧ (s.notifyOf v.toNat).bound = some (s.tenantOf w.core w.slot)
  let d := e.d.toNat
  (Active .spawn e s → let i := s.issue .spawn e; let va := i.pairA s; HasRecord s i va pa → stands (.spawn e) (.terms (.spawn va pa) d)) ∧
  (Active .spawnn e s → let i := s.issue .spawnn e; let va := i.pairA s; let n := (i.opB s).toNat; let dva := (s.readPair w e.c.toNat).toNat
    (n = 0 → Traps (.spawnn e) .spawnn e s (Trap.of .illegalOperand 0)) ∧
    (∀ dpa, let h := ((s.rememberAll w .global [(32, va)]).payIssue w [lineOf pa]).2.atHome (lineOf pa); let r := h.rememberAll w .global [(32, dva)]; n ≠ 0 → HasRecord s i va pa →
      Reaches h i .global [(32, dva)] { size := 16, acc := .write, use := .write, more := noMore } [{ lane := 32, addr := dva, pa := dpa }] →
      (∃ x, r.translate w.core (s.tenantOf w.core w.slot) st.trap.priv .read dva = .ok x) → isDevice dpa = true → r.homeWaits (lineOf dpa) = false → (r.payIssue w [lineOf dpa]).1 = true →
      bits (r.ownRead w dva dpa 16) 63 42 = 0 → bits (r.ownRead w dva dpa 16) 127 64 = 0 →
      Becomes (.spawnn e) s fun t => (t.strand w).sched.wait = some (.terms (.spawnn va pa n dva dpa) d) ∧ (t.strand w).region = none ∧
        (t.strand w).pcs = st.pcs ∧ (t.strand w).regs = st.regs ∧ t.sched.queues = s.sched.queues ∧ t.sched.notify = s.sched.notify ∧ t.memory.mem = s.memory.mem)) ∧
  (Active .join e s → let i := s.issue .join e; let va := if e.sub = 1 then i.pairA s else k.parent
    (e.sub = 0 → va = 0 → Traps (.join e) .join e s (Trap.of .illegalOperand 0)) ∧
    (¬ (e.sub = 0 ∧ va = 0) → HasRecord s i va pa → stands (.join e) (.terms (.join va pa) d))) ∧
  (Active .park e s → let i := s.issue .park e; let va := i.pairA s; let v := i.opB s
    HasRecord s i va pa → bound v → stands (.park e) (.terms (.park va pa v.toNat (i.uC s)) d)) ∧
  (Active .notify e s → let v := (s.issue .notify e).opB s
    (bound v → stands (.notify e) (.terms (.notify v.toNat (e.sub == 1)) d)) ∧
    (¬ bound v → Traps (.notify e) .notify e s { cause := .illegalOperand, tval := zx64 v })) ∧
  (Active .wait e s → let i := s.issue .wait e; let v := i.opB s
    (bound v → stands (.wait e) (.notify v.toNat (i.uC s) (i.uA s) d)) ∧
    (¬ bound v → Traps (.wait e) .wait e s { cause := .illegalOperand, tval := zx64 v })) ∧
  (Active .done e s → Becomes (.done e) s fun t => (t.strand w).regs = st.regs ∧ (t.strand w).region = none ∧
    (t.strand w).sched.done = (st.sched.done || k.swarm.isSome) ∧ t.memory = s.memory ∧
    (st.sched.done = false → k.swarm.isSome = true → ∃ x ∈ (t.strand w).flight.tokens, x.reg = 66)) ∧
  (Active .cellrd e s → Sets (.cellrd e) .cellrd e s fun _ => let n := BitVec.ofNat 32
    match e.sub.toNat with
    | 0 => n k.index | 1 => n w.strand | 2 => n (k.shape.str + 1) | 3 => n k.record | 4 => n (k.record / 2 ^ 32)
    | 5 => (match k.swarm with | some j => n j | none => 0xFFFFFFFF)
    | 6 => (match k.swarm with | some j => n (k.oldest.getD (Tab.get {} s.sched.swarms j).oldest) | none => 0xFFFFFFFF)
    | _ => n (k.queue + 256 * k.prio))

/-- What an enqueuing instruction does once its terms have passed, where the ring of the level is served (R329 to R335, R420, R482): SPAWN puts one entry at the tail of its level and gives 0, or the refusal code; SPAWNN takes a swarm slot (which free one is the choice of log entry 116) and sets DONEW to 0; NOTIFY advances the sequence, or reads it; JOIN counts down and enqueues the last; PARK parks while the sequence is as expected, and otherwise enqueues; a strand that waits for room enqueues when there is room; WAIT ends when the sequence moves or the token passes, and reads it. -/
def Obligations.WorkTakesEffect : Prop :=
  ∀ (s : State) (w : Sid) (dest : Nat), let st := s.strand w; let tenant := s.tenantOf w.core w.slot
  let ends := fun (t : State) (v : Word) => (t.strand w).sched.wait = none ∧ Tab.get 0 (t.strand w).regs.s dest = v
  let tail := fun (t : State) (c : Cell) => (t.queue c.queue).level c.prio = (s.queue c.queue).level c.prio ++ [{ cell := c, next := c.index, last := c.index + 1, swarm := none }]
  let admitted := fun (c : Cell) => (s.queue c.queue).en = true ∧ (s.queue c.queue).tenant = tenant
  let room := fun (c : Cell) => ((s.queue c.queue).level c.prio).length < 2 ^ (s.queue c.queue).logcap
  let fits := fun (c : Cell) => room c ∧ s.ringServed c.queue c.prio = true
  let acts := fun (job : Job) (p : State → Prop) => st.sched.wait = some (.terms job dest) → s.termsReached w = true → (∀ l ∈ job.lines, s.homeWaits l = false) →
    Becomes (.deviceScopeTermReached w) s p
  (∀ va pa, let c := recordCell va pa (Mem.read s.memory.mem pa 64)
    (¬ admitted c → acts (.spawn va pa) fun t => ends t 0x80000002 ∧ t.sched = s.sched) ∧
    (admitted c → ¬ room c → acts (.spawn va pa) fun t => ends t 0x80000001 ∧ t.sched = s.sched) ∧
    (admitted c → fits c → acts (.spawn va pa) fun t => ends t 0 ∧ tail t c ∧ t.memory = s.memory)) ∧
  (∀ va pa n dva dpa k, let c := recordCell va pa (Mem.read s.memory.mem pa 64); admitted c → fits c → s.freeSwarm = some k → dpa % 4 = 0 →
    acts (.spawnn va pa n dva dpa) fun t => ends t 0 ∧ Mem.read t.memory.mem dpa 4 = 0 ∧ (Tab.get {} t.sched.swarms k).n = n ∧ (Tab.get {} t.sched.swarms k).used = true ∧
      (t.queue c.queue).level c.prio = (s.queue c.queue).level c.prio ++ [{ cell := c, next := 0, last := n, swarm := some k }]) ∧
  (∀ va pa, let r := Mem.read s.memory.mem pa 64; let c := recordCell va pa r; let o := bits r 159 128; pa % 64 = 0 →
    (2 ≤ o → acts (.join va pa) fun t => ends t (BitVec.ofNat 32 o) ∧ Mem.read t.memory.mem (pa + 16) 4 = o - 1 ∧ t.sched.queues = s.sched.queues) ∧
    (o = 1 → admitted c → fits c → acts (.join va pa) fun t => ends t 1 ∧ Mem.read t.memory.mem (pa + 16) 4 = 0 ∧ tail t c) ∧
    (o = 1 → ¬ admitted c → acts (.join va pa) fun t => ends t 0x80000002 ∧ t.memory.mem = s.memory.mem ∧ t.sched.queues = s.sched.queues)) ∧
  (∀ va pa reg expected, let c := recordCell va pa (Mem.read s.memory.mem pa 64); admitted c →
    ((s.notifyOf reg).seq = expected → s.parkCount < 4096 → acts (.park va pa reg expected) fun t => ends t 0 ∧ t.memory = s.memory ∧
      ∃ p, (t.notifyOf reg).parked = (s.notifyOf reg).parked ++ [p] ∧ p.cell = c ∧ p.released = false) ∧
    ((s.notifyOf reg).seq ≠ expected → fits c → acts (.park va pa reg expected) fun t => ends t 1 ∧ tail t c ∧ t.memory = s.memory)) ∧
  (∀ reg, acts (.notify reg true) (fun t => ends t (s.notifyOf reg).seq ∧ t.sched = s.sched) ∧
    acts (.notify reg false) fun t => (t.strand w).sched.wait = none ∧ (t.notifyOf reg).seq = (s.notifyOf reg).seq + 1 ∧ t.memory = s.memory) ∧
  (∀ c v, st.sched.wait = some (.room c dest v) → admitted c → fits c → Becomes (.levelRoomEnqueue (.strand w)) s fun t => ends t v ∧ tail t c ∧ t.memory = s.memory) ∧
  (∀ reg expected token, st.sched.wait = some (.notify reg expected token dest) →
    ((s.notifyOf reg).seq ≠ expected ∨ gtPassed s.clock.gt token = true → Becomes (.waitWake w) s fun t => ends t (s.notifyOf reg).seq ∧ t.sched = s.sched ∧ t.memory = s.memory) ∧
    ((s.notifyOf reg).seq = expected → gtPassed s.clock.gt token = false → exec (.waitWake w) s = .next s))

/-- Swarms, retirement and dispatch (R169, R322 to R325, R332, R337): the oldest completion of a swarm is stored in DONEW once its terms have passed; a strand without live lanes and accesses retires; a comb whose strands and requests are gone frees its slot; the head that a die picks is launched on the core with the most room, as R325 sets its strands, bits 1 and 0 of a PC being 0 (R20); an entry passed over 65,536 times stops its tenant on that die. -/
def Obligations.CombsLaunchAndRetire : Prop :=
  (∀ (s : State) (j cell : Nat), let x : Swarm := Tab.get {} s.sched.swarms j; s.mayReport j cell = true → s.agentReady (lineOf x.pa) = true → cell = x.oldest → x.reported = [] → x.pa % 64 + 4 ≤ 64 →
    cell + 1 < x.n → x.n < 2 ^ 32 → Becomes (.swarmCompletionReport j cell) s fun t => Mem.read t.memory.mem x.pa 4 = cell + 1 ∧ (Tab.get {} t.sched.swarms j).oldest = cell + 1 ∧
      (∀ a, a < x.pa ∨ x.pa + 4 ≤ a → Mem.byte t.memory.mem a = Mem.byte s.memory.mem a)) ∧
  (∀ (s : State) (w : Sid), s.mayRetire w = true → (∃ x ∈ (s.comb w.core w.slot).strands, x.1 ≠ w.strand ∧ x.2.sched.retired = false) →
    Becomes (.strandRetire w) s fun t => let u := t.strand w; u.live = 0 ∧ u.sched.retired = true ∧ u.regs = {} ∧ u.region = none ∧ t.memory = s.memory ∧ t.sched = s.sched) ∧
  (∀ (s : State) (core slot : Nat), s.mayRetireComb core slot = true → Becomes (.combRetire core slot) s fun t => t.comb? core slot = none ∧ t.memory = s.memory ∧
    (t.core core).lm = (s.core core).lm ∧ ∀ n, n ≠ slot → t.comb? core n = s.comb? core n) ∧
  (∀ (s : State) (die qn l c : Nat) (e : QEntry) (frames : List Nat) (base slot : Nat), s.pickHead die = some (qn, l, e) → s.agentReady (lineOf e.cell.pa) = true →
    s.roomiest (s.takers die (s.queue qn) e) = some c → (s.core c).place e.cell.shape = some (frames, base, slot) → e.next + 1 = e.last → (s.queue qn).level l = [e] →
    let record := Mem.read s.memory.mem e.cell.pa 64; let h := e.cell.shape
    Becomes (.cellDispatch die) s fun t => (t.queue qn).level l = [] ∧ t.memory.mem = s.memory.mem ∧ ∃ x, t.comb? c slot = some x ∧ x.record = e.cell.va ∧ x.index = e.next ∧
      x.tenant = (s.queue qn).tenant ∧ x.base = base ∧ x.shape = h ∧ (∀ a, base ≤ a → a < base + h.window → Mem.byte (t.core c).lm a = 0) ∧
      ∀ j f, frames[j]? = some f → let u := t.strand { core := c, slot := slot, strand := j }
        u.live = (if j < h.str then BitVec.allOnes 32 else BitVec.ofNat 32 (2 ^ (h.lastl + 1) - 1)) ∧ (∀ i < 32, u.pc i = BitVec.ofNat 57 (4 * bits record 56 2)) ∧
        u.trap.priv = false ∧ u.sp.wb = 0 ∧ u.sp.n = 8 * (h.regs + 1) ∧ u.sp.ssp = alignUp h.lmb 128 + j * h.spill + h.spill ∧
        Tab.get 0 u.regs.s 2 = BitVec.ofNat 32 e.cell.va ∧ Tab.get 0 u.regs.s 4 = BitVec.ofNat 32 e.next ∧ Tab.get 0 u.regs.s 5 = BitVec.ofNat 32 j ∧ Tab.get 0 u.regs.s 6 = 0) ∧
  (∀ (s : State) (die q l : Nat), 65536 ≤ s.passedCount die q l → (die, q, l) ∉ s.sched.stopped →
    exec (.passedOverLimit die q l) s = .next { s with sched := { s.sched with stopped := s.sched.stopped ++ [(die, q, l)] } })

/-- Time slices and pre-emption (R298, R338 to R342): a slice begins with the entry that the rotation takes, one whose slice would be complete at once passed over (the choice of log entry 124); a complete slice ends, and the next begins where one may; at its end without another tenant it goes on, and otherwise, or when SLCMD.END is written, the combs of its tenant stop issuing with their regions rolled back, one with a paired stream once it is no longer paired; where a request of a comb still runs once its strands are saved, the comb keeps its slot, its window and its requests, gives up its stream, and no longer holds the core (R470); a complete image frees the slot and is kept; the next saved comb of the slice's tenant comes back into its window with its registers. -/
def Obligations.SlicesSaveAndResume : Prop :=
  ∀ (s : State) (core : Nat), let k := s.core core
  let stopped := fun (t : State) (tenant : BitVec 16) => (t.core core).slice = none ∧ t.memory = s.memory ∧ (t.core core).lm = k.lm ∧
    ∀ slot c, s.comb? core slot = some c → c.tenant = tenant → c.phase = .running → ∃ c', t.comb? core slot = some c' ∧
      (s.streamPaired core slot = false → c'.phase = .preempting ∧ ∀ j, t.mayIssue { core := core, slot := slot, strand := j } = false) ∧
      (s.streamPaired core slot = true → c'.phase = .running ∧ c'.cutPending = true ∧ c'.strands = c.strands)
  (∀ e, k.slice = none → k.saving = false → s.nextBegin core = some e → Becomes (.sliceBegin core) s fun t =>
    ∃ x, (t.core core).slice = some x ∧ x.entry = e ∧ x.tenant = (Tab.get {} k.slices e).tenant ∧ x.start = s.clock.cycle ∧
      x.length = (let n := (Tab.get {} k.slices e).length; if 1 ≤ n ∧ n ≤ 4095 then 4096 else n)) ∧
  (s.sliceDone core = true → let t := s.closeSlice core; exec (.sliceBegin core) s = .next (if (t.core core).saving then t else match t.nextBegin core with | some e => t.openSlice core e | none => t)) ∧
  (∀ slot c, s.comb? core slot = some c → c.cutPending = true → c.phase = .running → s.streamPaired core slot = false → ∃ c', (s.cutComb core slot).comb? core slot = some c' ∧
    c'.phase = .preempting ∧ c'.cutPending = false) ∧
  (∀ x, k.slice = some x → s.slicePassed core = true →
    (s.nextSlice core (some x.entry) = none → Becomes (.sliceExpiry core) s fun t => stopped t x.tenant) ∧
    (∀ e, s.nextSlice core (some x.entry) = some e → (Tab.get {} k.slices e).tenant ≠ x.tenant → Becomes (.sliceExpiry core) s fun t => stopped t x.tenant) ∧
    (∀ e, s.nextSlice core (some x.entry) = some e → (Tab.get {} k.slices e).tenant = x.tenant → Becomes (.sliceExpiry core) s fun t =>
      t.memory = s.memory ∧ (t.core core).combs = k.combs ∧ ∃ y, (t.core core).slice = some y ∧ y.entry = e ∧ y.tenant = x.tenant ∧ y.start = s.clock.cycle)) ∧
  (∀ x, k.slice = some x → s.mgmt.recovery = false → Becomes (.slcmdEnd core) s fun t => stopped t x.tenant) ∧
  (∀ slot c, s.comb? core slot = some c → s.mayDrain core slot = true → let t := s.drainComb core slot; t.memory = s.memory ∧ (t.core core).lm = k.lm ∧ t.streams core slot = false ∧
    (∃ c', t.comb? core slot = some c' ∧ c'.phase = .draining ∧ c'.base = c.base ∧ c'.tenant = c.tenant ∧ c'.reqs = c.reqs ∧ c'.words = c.words ∧
      ∀ j st, (j, st) ∈ c.strands → st.region = none → ∃ u, (j, u) ∈ c'.strands ∧ u.regs = st.regs ∧ u.pcs = st.pcs ∧ u.live = st.live ∧ u.sp = st.sp ∧ u.trap = st.trap) ∧
    (∀ x, s.stream? core = some x → x.slot = slot → ∃ r ∈ (t.core core).matrix.held, r.slot = slot ∧ r.stream = x.image ∧ r.acc = k.matrix.acc) ∧
    ((∀ n c', (n, some c') ∈ k.combs → c'.cutPending = false ∧ (n ≠ slot → c'.phase ≠ .preempting)) → (t.core core).saving = false)) ∧
  (∀ slot c, s.comb? core slot = some c → s.imageReady core slot = true → Becomes (.combImageComplete core slot) s fun t => t.comb? core slot = none ∧
    t.memory = s.memory ∧ ∃ x, (t.core core).saved = k.saved ++ [x] ∧ x.slot = slot ∧ x.comb.tenant = c.tenant ∧ x.comb.reqs = c.reqs ∧ x.comb.words = c.words ∧
      ∀ j st, (j, st) ∈ c.strands → st.region = none → ∃ u, (j, u) ∈ x.comb.strands ∧ u.regs = st.regs ∧ u.pcs = st.pcs ∧ u.live = st.live ∧ u.sp = st.sp ∧ u.trap = st.trap) ∧
  (∀ x slot, s.resumable core = none → s.nextSaved core = some x → k.slotFor x = some slot → x.comb.reqs = [] → x.stream = none → x.comb.batches = [] → k.matrix.restores = [] →
    (s.descriptor x.comb.tenant = none ∨ ∃ d, s.descriptor x.comb.tenant = some d ∧ descConf d = false) →
    Becomes (.combResume core) s fun t => t.memory = s.memory ∧ (t.core core).saved = k.saved.erase x ∧
      ∃ c, t.comb? core slot = some c ∧ c.phase = .running ∧ c.base = x.comb.base ∧ c.tenant = x.comb.tenant ∧ c.words = x.comb.words ∧
        ∀ j, let st : Strand := Tab.get {} x.comb.strands j; st.live ≠ 0 → st.sched.outcome = none →
          let u := t.strand { core := core, slot := slot, strand := j }; u.regs = st.regs ∧ u.live = st.live ∧ u.pcs = st.pcs ∧ u.trap = st.trap)

/-- Instructions of a stream (R33, R173, R277, R281, R282, R284): an integer result goes to the stream's own register, branches and jumps move its PC, EXIT waits for its commands, and MSYNC, BBINIT, BBADD, GSET and writes of comb words wait until every earlier command has completed; BBTEST never waits, and BBWAIT holds the stream for its phase alone (R262, R263); an instruction outside R33 ends the stream with ILLEGAL_INSTR. -/
def Obligations.StreamInstructions : Prop :=
  ∀ (e : Enc) (s : State) (x : Stream), let c := s.cur.core; let next := x.pc + BitVec.ofNat 57 e.bytes
  let puts := fun (n : Instr) (o : Op) (f : Word → Word → Word) => StreamActive o e s x → e.qbit 0 = false → e.d.toNat < 64 →
    Becomes n s fun t => ∃ y, t.stream? c = some y ∧ y.pc = next ∧ Tab.get 0 y.s e.d.toNat = f (s.seqOpnd c x o e .a) (s.seqOpnd c x o e .b) ∧
      (∀ k, k ≠ e.d.toNat → Tab.get 0 y.s k = Tab.get 0 x.s k) ∧ y.queue = x.queue ∧ t.memory = s.memory ∧ (t.core c).combs = (s.core c).combs
  let goes := fun (n : Instr) (o : Op) (pc : Pc) => StreamActive o e s x → exec n s = .next (s.onStream c fun y => { y with pc := pc })
  let off21 := BitVec.ofInt 57 (4 * (e.b ++ e.a ++ e.d : BitVec 21).toInt)
  let off14 := BitVec.ofInt 57 (4 * (e.b ++ e.a : BitVec 14).toInt)
  let v := s.seqS c x e.d.toNat
  let bar := fun (o : Op) => (s.seqOpnd c x o e .a).toNat
  let word := fun (o : Op) => s.winRead c x.slot (bar o) 8
  let free := fun (o : Op) => s.bbCheck o { core := c, slot := x.slot, strand := 32 } (bar o) (s.seqOpnd c x o e .b) = none
  let waits := fun (n : Instr) (o : Op) => StreamActive o e s x → x.drained = false → exec n s = .next s
  puts (.add e) .add (· + ·) ∧ puts (.sub e) .sub (· - ·) ∧ puts (.and e) .and (· &&& ·) ∧ puts (.xor e) .xor (· ^^^ ·) ∧
  goes (.nop e) .nop next ∧ goes (.jmp e) .jmp (x.pc + off21) ∧ goes (.bru e) .bru (if (e.sub = 0 ∧ v ≠ 0) ∨ (e.sub ≠ 0 ∧ v = 0) then x.pc + off14 else next) ∧
  (StreamActive .exit e s x → exec (.exit e) s = .next (s.onStream c fun y => { y with wait := some .exit })) ∧
  waits (.bbinit e) .bbinit ∧ waits (.bbadd e) .bbadd ∧ waits (.gset e) .gset ∧
  (64 ≤ e.d.toNat → e.qbit 0 = false → waits (.add e) .add) ∧
  (StreamActive .bbadd e s x → x.drained = true → free .bbadd → ∀ b, bbUpdate (word .bbadd) (s.seqOpnd c x .bbadd e .b).toNat (if e.sub = 1 then 0 else 1) = some b →
    exec (.bbadd e) s = .next ((s.winWrite c x.slot (bar .bbadd) 8 b).seqAdvance c e)) ∧
  (StreamActive .bbwait e s x → free .bbwait →
    exec (.bbwait e) s = .next (if bit (word .bbwait) 39 = (s.seqOpnd c x .bbwait e .b).getLsbD 0 then s.seqAdvance c e
      else s.onStream c fun y => { y with wait := some (.bbwait (bar .bbwait) ((s.seqOpnd c x .bbwait e .b).getLsbD 0) e.bytes) })) ∧
  (StreamActive .bbtest e s x → free .bbtest → e.d.toNat < 64 → Becomes (.bbtest e) s fun t => t.memory = s.memory ∧ (t.core c).combs = (s.core c).combs ∧
    ∃ y, t.stream? c = some y ∧ y.pc = next ∧ y.queue = x.queue ∧ y.wait = none ∧ Tab.get 0 y.s e.d.toNat =
      BitVec.ofNat 32 ((if bit (word .bbtest) 39 = (s.seqOpnd c x .bbtest e .b).getLsbD 0 then 1 else 0) + (if bit (word .bbtest) 63 then 2 else 0) + (if bit (word .bbtest) 62 then 4 else 0))) ∧
  (StreamActive .msync e s x → e.d = 0 → e.sub = 0 → exec (.msync e) s = .next (if x.drained then s.seqAdvance c e else s)) ∧
  (s.cur.strand = 32 → s.stream? c = some x → s.seqMay c x = true → x.drained = true → ((Op.ld.reads e 0).any fun r => ((s.comb c x.slot).pendingWords s.clock.cycle).contains r) = false →
    Op.ld.seqLegal e = false → StreamFaults (.ld e) s c x .illegalInstr x.pc.toNat ((Op.ld.word0 e).setWidth 64))

/-- Issue of the matrix instructions (R278, R284, R300, R301, R316): in a stream a command with room in the queue of eight enters it with the operand values of that moment, and otherwise waits; a strand waits for the sequencer with MRUN, and with MZERO, MLDZ and MDRAIN as direct commands; the others raise ILLEGAL_OPERAND in a strand; MRUN of a target that is no multiple of 64 raises MISALIGNED; MSYNC reads the status of the comb's stream. -/
def Obligations.MatrixInstructionsIssue : Prop :=
  ∀ (e : Enc) (s : State), let w := s.cur; let c := w.core; let st := s.strand w
  let queued := fun (n : Instr) (o : Op) => ∀ x, StreamActive o e s x → let inside := x.queue.length + (if x.running.isSome then 1 else 0)
    (inside < 8 → Becomes n s fun t => t.memory = s.memory ∧ (t.core c).combs = (s.core c).combs ∧ ∃ y, t.stream? c = some y ∧ y.pc = x.pc + BitVec.ofNat 57 e.bytes ∧ y.s = x.s ∧
      y.queue = x.queue ++ [{ op := o, enc := e, pc := x.pc.toNat, vals := cmdVals o e (s.seqS c x) (s.seqOpnd c x o e .b) x.mode }]) ∧
    (8 ≤ inside → exec n s = .next s)
  let refused := fun (n : Instr) (o : Op) => Active o e s → Traps n o e s (Trap.of .illegalOperand 0)
  let stands := fun (n : Instr) (cmd : Cmd) => Becomes n s fun t => t.memory = s.memory ∧ (t.strand w).sched.wait = some .sequencer ∧ (t.strand w).region = none ∧
    (t.strand w).pcs = st.pcs ∧ (t.strand w).regs = st.regs ∧ { slot := w.slot, strand := w.strand, frame := st.frame, cycle := s.clock.cycle, cmd := cmd } ∈ (t.core c).matrix.waiters
  let direct := fun (n : Instr) (o : Op) => Active o e s → let i := s.issue o e
    (e.qbit 3 = false → stands n { op := o, enc := e, pc := i.pc.toNat, vals := cmdVals o e (s.readS w) (i.opB s) st.sp.mode }) ∧
    (e.qbit 3 = true → Traps n o e s (Trap.of .illegalOperand 0))
  let runs := fun (n : Instr) (o : Op) (target : Pc) => Active o e s →
    (target.toNat % 64 = 0 → stands n { op := o, enc := e, pc := (s.issue o e).pc.toNat, vals := [target.toNat] }) ∧
    (target.toNat % 64 ≠ 0 → Traps n o e s (Trap.of .misaligned target.toNat))
  let k := s.comb w.core w.slot; let status := match k.ending with | some x => x.cause | none => 0
  queued (.mmap e) .mmap ∧ queued (.munf e) .munf ∧ queued (.mma e) .mma ∧ queued (.mdist e) .mdist ∧ queued (.mtopk e) .mtopk ∧ queued (.mzero e) .mzero ∧
  queued (.mldz e) .mldz ∧ queued (.mdrain e) .mdrain ∧ queued (.mpair e) .mpair ∧ queued (.msplit e) .msplit ∧ queued (.mepi e) .mepi ∧
  refused (.mmap e) .mmap ∧ refused (.munf e) .munf ∧ refused (.mma e) .mma ∧ refused (.mdist e) .mdist ∧ refused (.mtopk e) .mtopk ∧ refused (.mpair e) .mpair ∧
  refused (.msplit e) .msplit ∧ refused (.mepi e) .mepi ∧
  direct (.mzero e) .mzero ∧ direct (.mldz e) .mldz ∧ direct (.mdrain e) .mdrain ∧
  runs (.mrun e) .mrun ((s.issue .mrun e).pc + BitVec.ofInt 57 (4 * (e.b ++ e.a ++ e.d : BitVec 21).toInt)) ∧
  runs (.mrunReg e) .mrunReg ((s.issue .mrunReg e).pc.extractLsb' 32 25 ++ s.readS w e.a.toNat : Pc) ∧
  (Active .msync e s → let running := s.streams c w.slot; let i := s.issue .msync e; let r := s.onStrand w Strand.closeRegion
    (e.sub = 0 → running = true → exec (.msync e) s = .next r) ∧
    (e.sub = 0 ∨ e.sub = 1 → ¬ (e.sub = 0 ∧ running = true) → exec (.msync e) s = .next ((r.writeS w e.d.toNat
      (BitVec.ofNat 32 ((if running then 2 ^ 31 else 0) + (if status ≠ 0 then 2 ^ 30 else 0) + (if k.ending = none then 2 ^ 29 else 0) + status))).advance i)) ∧
    (e.sub = 2 ∨ e.sub = 3 → exec (.msync e) s = .next ((r.writeS w e.d.toNat (match k.ending with
      | some x => if x.cause = 0 then 0 else if e.sub = 2 then BitVec.ofNat 32 x.pc else x.tval.setWidth 32
      | none => 0)).advance i)))

/-- The matrix engine (R279 to R286, R295 to R298, R302, R307 to R310, R313, R314): MRUN takes a free sequencer with its strand's registers and leaves the store zeroed for another tenant; a command starts with its whole effect on the store, or its fault ends the stream; MZERO clears one accumulator, MLDZ loads it from LM, MMA and MDIST add to each element its sum of products or squared differences; completion performs the LM writes; EXIT with nothing left ends the stream cleanly; two streams that seek each other are paired, and 65,536 cycles of waiting end one with PAIR_TIMEOUT, where its comb is not being pre-empted while it seeks. -/
def Obligations.MatrixEngineSteps : Prop :=
  ∀ (s : State) (core : Nat), let m := (s.core core).matrix
  (∀ x, s.nextWaiter core = some x → x.cmd.op = .mrun ∨ x.cmd.op = .mrunReg → let w : Sid := { core := core, slot := x.slot, strand := x.strand }; let st := s.strand w
    Becomes (.mrunStart core) s fun t => t.memory = s.memory ∧ (t.strand w).sched.wait = none ∧ (t.strand w).regs = st.regs ∧ (t.core core).matrix.waiters = m.waiters.erase x ∧
      (m.last ≠ some (s.tenantOf core x.slot) → (t.core core).matrix.acc = []) ∧ (m.last = some (s.tenantOf core x.slot) → (t.core core).matrix.acc = m.acc) ∧
      ∃ y, t.stream? core = some y ∧ y.slot = x.slot ∧ y.strand = x.strand ∧ y.pc = BitVec.ofNat 57 (x.cmd.val 0) ∧ y.priv = st.trap.priv ∧ y.mode = st.sp.mode ∧ y.queue = [] ∧
        ∀ k < 16, Tab.get 0 y.s k = Tab.get 0 st.regs.s k) ∧
  (∀ x c, s.stream? core = some x → x.headCmd = some c → c.enc.qbit 3 = false → x.pairing = .none →
    let d := c.enc.d.toNat; let size := (s.comb core x.slot).shape.window
    let after := fun (f : Nat → Nat → Word) (int : Bool) => Becomes (.matrixCommandStart core) s fun t => t.memory = s.memory ∧ (t.core core).lm = (s.core core).lm ∧
      (∀ i < 64, ∀ j < 64, t.acc core d i j = f i j) ∧ t.tag core d = int ∧ (∀ b, b ≠ d → ∀ i < 64, ∀ j < 64, t.acc core b i j = s.acc core b i j) ∧
      ∃ y, t.stream? core = some y ∧ y.queue = x.queue.tail ∧ y.running.isSome = true
    (c.op = .mzero → after (fun _ _ => 0) (c.enc.sub == 1)) ∧
    (c.op = .mldz → let o := c.val 0; let p := c.val 1; o % 16 = 0 → p % 16 = 0 → 256 ≤ p → o + 63 * p + 256 ≤ size → (s.core core).lmPoison = [] →
      after (fun i j => BitVec.ofNat 32 (s.winRead core x.slot (o + i * p + 4 * j) 4)) (c.enc.sub == 1)) ∧
    (c.op = .mldz → c.val 0 % 16 ≠ 0 → StreamFaults (.matrixCommandStart core) s core x .misaligned c.pc (BitVec.ofNat 64 (c.val 0))) ∧
    (∀ ma mb, c.op = .mma ∨ c.op = .mdist → x.operand c.enc.a.toNat = some ma → x.operand c.enc.b.toNat = some mb → ma.pairs mb = true → c.val 0 % 32 = 0 → s.tag core d = ma.isInt →
      (s.core core).lmPoison = [] → after (fun i j => accumulateAll (c.op == .mdist) ma.isInt (s.acc core d i j)
        (fun k => s.elem core x.slot ma (c.val 1 % 65536 + i) (c.val 0 + k)) (fun k => s.elem core x.slot mb (c.val 1 / 65536 + j) (c.val 0 + k)) ma.depth) ma.isInt) ∧
    (∀ t l, c.op = .mmap ∨ c.op = .munf ∨ c.op = .mtopk ∨ c.op = .mdrain ∨ c.op = .mepi → s.startOwn core x.slot (some x) c = .ok t l →
      exec (.matrixCommandStart core) s = .next (t.onStream core fun y => { y with queue := y.queue.tail, running := some { cmd := c, writes := l } }))) ∧
  (∀ x r, s.stream? core = some x → x.running = some r → exec (.matrixCommandComplete core) s =
    .next ((r.writes.foldl (fun s y => s.winWrite core x.slot y.1 y.2.1 y.2.2) s).onStream core fun y => { y with running := none })) ∧
  (∀ x, s.stream? core = some x → x.queue = [] → x.running = none → x.wait = some .exit → Becomes (.streamEnd core) s fun t => t.stream? core = none ∧ t.memory = s.memory ∧
    (t.core core).matrix.acc = m.acc ∧ ((s.comb? core x.slot).isSome = true → (t.comb core x.slot).ending = some { cause := 0, pc := 0, tval := 0 })) ∧
  (∀ x f, s.stream? core = some x → s.fetchMisses core = some f → Becomes (.sequencerFetchFault core) s fun t => t.memory = s.memory ∧
    (∃ y, t.stream? core = some y ∧ y.wait = some (.fetch s.tiers.nextBatch) ∧ y.pc = x.pc) ∧ t.tiers.nextBatch = s.tiers.nextBatch + 1 ∧
    ∃ b, t.tiers.batches = s.tiers.batches ++ [b] ∧ b.from_ = .sequencer core ∧ b.entries = [{ va := f.va, pa := f.pa, cause := f.cause, acc := f.acc, out := none }]) ∧
  (∀ x, s.stream? core = none → m.direct = none → m.restores = [x] → (∀ b, x.stream.wait ≠ some (.fetch b)) → (s.comb? core x.slot).isSome = true →
    (s.comb core x.slot).reqs = [] → Becomes (.sequencerRestore core x.slot) s fun t => t.stream? core = some x.stream ∧ (t.core core).matrix.acc = x.acc ∧
      (t.core core).matrix.intTag = x.intTag ∧ (t.core core).matrix.restores = [] ∧ (t.comb core x.slot).phase = .running ∧ t.memory = s.memory) ∧
  (∀ x y tag a b, s.stream? core = some x → s.stream? (neighbour core) = some y → x.pairing = .seeking tag a → y.pairing = .seeking tag b → x.tenant = y.tenant →
    max a b < min a b + 65536 → (s.comb core x.slot).phase = .running → (s.comb (neighbour core) y.slot).phase = .running →
    Becomes (.mpairStart core) s fun t => t.memory = s.memory ∧ t.stream? core = some { x with queue := x.queue.tail, pairing := .paired 0 none } ∧
      t.stream? (neighbour core) = some { y with queue := y.queue.tail, pairing := .paired 0 none }) ∧
  (∀ x c l since, s.stream? core = some x → x.queue = c :: l → since + 65536 ≤ s.clock.cycle →
    ((∃ tag, x.pairing = .seeking tag since) → s.mayPair core = false → (s.comb core x.slot).phase = .running → StreamFaults (.pairTimeout core) s core x .pairTimeout c.pc 0) ∧
    ((∃ n, x.pairing = .paired n (some since)) → StreamFaults (.pairTimeout core) s core x .pairTimeout c.pc 3))

/-- The lease table (R343, R346, R364): a lease that reaches its expiry is expired, a revocation notice gives a deadline at least 1 ms ahead, at the deadline the extent is revoked and no byte outside it changes, a lost node fails its extents once no strand stands past an atomic of its own on them that has not acted (the choice of log entry 21); and with no hint record, a renewal and a remapping make the extent active again, an acquired extent that overlaps no other holds what its backing holds, and a released one is free. -/
def Obligations.LeaseTableSteps : Prop :=
  ∀ (s : State) (idx : Nat) (l : Lease), s.lease? idx = some l →
  let becomes := fun (t : State) (l' : Lease) => t.lease? idx = some l' ∧ ∀ k, k ≠ idx → t.lease? k = s.lease? k
  (l.state = .active → l.expiry ≤ s.clock.gt → Becomes (.leaseExpire idx) s fun t => becomes t { l with state := .expired } ∧ t.memory = s.memory) ∧
  (l.state = .active → s.clock.gt < l.expiry → exec (.leaseExpire idx) s = .next s) ∧
  (∀ deadline, l.state = .active → s.clock.gt < l.expiry → s.clock.gt + 1000000 ≤ deadline →
    exec (.revocationNotice idx deadline) s = .next (s.setLease idx { l with state := .revoking, expiry := deadline })) ∧
  (l.state = .revoking → l.expiry ≤ s.clock.gt → Becomes (.leaseRevokeDeadline idx) s fun t => becomes t { l with state := .revoked } ∧
    (∀ a, a < l.base * 2097152 ∨ (l.base + l.size) * 2097152 ≤ a → Mem.byte t.memory.mem a = Mem.byte s.memory.mem a)) ∧
  (∀ borrowed node, s.tiers.leases = [(idx, some l)] → l.state ≠ .free → l.state ≠ .failed → (l.kind = .borrowed ↔ borrowed = true) → l.node = node → s.outrun borrowed node = false →
    Becomes (.poolNodeLost borrowed node) s fun t => becomes t { l with state := .failed } ∧ t.memory = s.memory) ∧
  (s.tiers.hints = [] →
    (∀ expiry, (l.state = .active ∧ l.expiry < expiry) ∨ l.state = .expired → Becomes (.leaseRenew idx expiry) s fun t => becomes t { l with state := .active, expiry := expiry } ∧ t.memory = s.memory) ∧
    (∀ node boff expiry contents, let l' := { l with state := .active, node := node, boff := boff, expiry := expiry }; l.state = .failed → s.leaseFits idx l' = true → s.dirtyLines l = [] →
      Becomes (.leaseRemap idx node boff expiry contents) s fun t => becomes t l' ∧
        (∀ a, Lease.has l a = false → Mem.byte t.memory.mem a = Mem.byte s.memory.mem a)) ∧
    (∀ x contents, l.state = .free → s.leaseFits idx x = true → Becomes (.leaseAcquire idx x contents) s fun t => becomes t { x with state := .active } ∧
      (∀ a, Lease.has x a = true → Mem.byte t.memory.mem a = Mem.byte (Mem.writeCells [] contents) a) ∧ (∀ a, Lease.has x a = false → Mem.byte t.memory.mem a = Mem.byte s.memory.mem a)) ∧
    (l.state ≠ .free → Becomes (.leaseRelease idx) s fun t => becomes t { l with state := .free } ∧
      (∀ a, Lease.has l a = false → Mem.byte t.memory.mem a = Mem.byte s.memory.mem a)))

/-- The pager's interface and the hints (R350 to R356, R359 to R364): a batch of one entry that fits is stored and FQTAIL counts it; with no hint record, a write of FQRES1 with KEYT 00 resolves a prefetch's written batch of one entry where the number matches, and leaves it where it does not; a ready comb goes on, each strand no longer fault-parked and with FC 0; counters are halved at each period; lent frames are counted, pinned pages stay (the choice of log entry 48), and reclaiming takes effect no sooner than 1 ms after the notice; THINT keeps records within the quotas and tells the outcome, the quota before the overlap (the choice of log entry 62); GPREF requests each page into which its addresses translate, a resident one too (log entry 63), and counts them; LCNT reads the words of its lanes' pages at issue, with D at once (log entry 64), and clears the counters under .clr. GPREF and LCNT do so once no translation waits. -/
def Obligations.TiersAndHints : Prop :=
  (∀ (s : State) (die id : Nat) (b : Batch) (x : BatchEntry), s.batch? id = some b → b.die = die → b.written = false → b.entries = [x] → let p := s.pager die
    p.en = true → p.held + 1 ≤ 2 ^ p.logn → (p.entryPa p.tail.toNat) % 32 = 0 → s.agentReady (lineOf (p.entryPa p.tail.toNat)) = true → die ≤ 1 → Becomes (.faultBatchWrite die id) s fun t =>
      Mem.read t.memory.mem (p.entryPa p.tail.toNat) 32 = b.entryBits 0 x % 2 ^ 256 ∧ (t.pager die).tail = p.tail + 1 ∧
      (∀ a, a < p.entryPa p.tail.toNat ∨ p.entryPa p.tail.toNat + 32 ≤ a → Mem.byte t.memory.mem a = Mem.byte s.memory.mem a) ∧ ∃ b', t.batch? id = some b' ∧ b'.written = true) ∧
  (∀ (s : State) (die : Nat) (value : Dbl) (b : Batch) (x : BatchEntry), s.mgmt.recovery = false → s.tiers.batches = [b] → b.die = die → b.written = true → b.entries = [x] → x.out = none →
    s.tiers.hints = [] → b.from_ = .prefetch →
    (bits value.toNat 17 16 = 0 → bits value.toNat 15 0 = b.num → Becomes (.fqres1Resolve die value) s fun t => (∀ y ∈ t.tiers.batches, y.resolved = true) ∧ t.memory = s.memory) ∧
    (bits value.toNat 17 16 = 0 → bits value.toNat 15 0 ≠ b.num → Becomes (.fqres1Resolve die value) s fun t => t.tiers.batches = [b] ∧ t.memory = s.memory)) ∧
  (∀ (s : State) (core n : Nat), s.nextReady core = some n → exec (.combFaultResume core) s = .next ((s.onCore core fun k => { k with ready := k.ready.erase n }).resumeParked core n)) ∧
  (∀ (s : State) (core slot : Nat) (c : Comb), s.comb? core slot = some c → let t := s.resumeParked core slot
    (t.comb core slot).batches = [] ∧ ∀ j, let u := t.strand { core := core, slot := slot, strand := j }; u.sched.fparked = false ∧ u.sched.fc = 0 ∧ u.regs = (s.strand { core := core, slot := slot, strand := j }).regs ∨
      (s.strand { core := core, slot := slot, strand := j }).live = 0) ∧
  (∀ (s : State) (die : Nat), die ≤ 1 → (s.pager die).halved + 2 ^ (s.pager die).dshift * 1000 ≤ s.clock.gt → Becomes (.counterHalving die) s fun t => t.memory.mem = s.memory.mem ∧
    ∀ k, (s.page (65536 * k)).resident = true → (t.page (65536 * k)).resident = true ∧
      (t.page (65536 * k)).counter = if homeDie (65536 * k) = die then (s.page (65536 * k)).counter / 2 else (s.page (65536 * k)).counter) ∧
  (∀ (s : State) (die units : Nat), die ≤ 1 → let lends := fun (n : Nat) => s.onPager die fun p => { p with lent := n }
    (units ≠ 0 → Tab.wf {} s.memory.pages = true → let n := (s.pager die).lent + units; n ≤ (s.pager die).lendmax.toNat →
      (∀ k ∈ Tab.keys ((lends n).shrinkSets die).memory.pages, ((lends n).shrinkSets die).overfull k = false) → Becomes (.hbmLend die (.lend units)) s fun t =>
        (t.pager die).lent = n ∧ t.memory.mem = s.memory.mem ∧ ∀ k, (s.page (65536 * k)).pin = true → t.page (65536 * k) = s.page (65536 * k)) ∧
    (∀ notice, units ≤ (s.pager die).lent → notice + 1000000 ≤ s.clock.gt → exec (.hbmLend die (.reclaim units notice)) s = .next (lends ((s.pager die).lent - units)))) ∧
  (∀ (e : Enc) (s : State) (d : List Nat), let w := s.cur; let tenant := s.tenantOf w.core w.slot; s.descriptor tenant = some d →
    (Active .thint e s → let i := s.issue .thint e; let h := parseHint tenant (s.lmDescriptor w (i.uA s).toNat); let l := s.tiers.hints; let old := l.any fun x => x.same h
      let rest := l.filter fun x => !x.same h; thintTrap i s = none →
      (e.sub = 1 → Becomes (.thint e) s fun t => t.tiers.hints = (if old then rest else l) ∧ t.memory.mem = s.memory.mem ∧
        (e.d.toNat < 64 → Tab.get 0 (t.strand w).regs.s e.d.toNat = if old then 0 else 0x80000003)) ∧
      (e.sub = 0 → let mine := (l.filter fun x => x.tenant == tenant).length
        let full := (old = false ∧ (descHquota d ≤ mine ∨ 4096 ≤ l.length)) ∨ (h.tier = 1 ∧ descPquota d < pinnedBy l h + h.npg); let clash := rest.any fun x => x.overlaps h
        (full → Becomes (.thint e) s fun t => t.tiers.hints = l ∧ (e.d.toNat < 64 → Tab.get 0 (t.strand w).regs.s e.d.toNat = 0x80000001)) ∧
        (¬ full → clash = true → Becomes (.thint e) s fun t => t.tiers.hints = l ∧ (e.d.toNat < 64 → Tab.get 0 (t.strand w).regs.s e.d.toNat = 0x80000002)) ∧
        (¬ full → clash = false → Becomes (.thint e) s fun t => t.tiers.hints = rest ++ [h] ∧ t.memory.mem = s.memory.mem ∧
          (e.d.toNat < 64 → Tab.get 0 (t.strand w).regs.s e.d.toNat = if old then 1 else 0)))) ∧
    (Active .gpref e s → let i := s.issue .gpref e; gprefTrap i s = none → e.qbit 0 = false → (s.core w.core).shares.en = false →
      let touches := gprefTouches (e.sub == 1) (s.lmDescriptor w (i.uA s).toNat)
      s.xlatWaits w i.st.trap.priv touches = false → let pages := (s.gprefPages w i.st.trap.priv (e.sub == 1) touches).1
      exec (.gpref e) s = .next (((pages.foldl State.prefetchPage s).writeS w e.d.toNat (BitVec.ofNat 32 pages.length)).advance i)) ∧
    (Active .lcnt e s → let i := s.issue .lcnt e; s.xlatWaits w i.st.trap.priv ((i.targets s true).map fun x => x.2) = false → let r := s.lcntRead w.core tenant i.st.trap.priv (e.sub == 1) (i.targets s true)
      exec (.lcnt e) s = .next ((r.1.writeD i fun l => match r.2.find? fun x => x.1 == l || x.1 == 32 with | some x => x.2 | none => 0).advance i)))

/-- The fabric instructions (R376, R388 to R390): FGET and FPUT check their length, the barrier slot, their LM bytes, the fabric range and the target in that order, and submit one copy request that counts at the barrier; FMSG checks its queue number and device (TVAL of the first and of an unreachable device: the choice of log entry 55) and sends the 64-byte entry with its destination pending; FSYNC stands while the strand has fabric operations outstanding, gives the status word of the record or, at once, a half of the first error's fabric address, and under .clr empties the record. -/
def Obligations.FabricInstructions : Prop :=
  (∀ (get : Bool) (e : Enc) (s : State), let o := if get then Op.fget else Op.fput; let n := if get then Instr.fget e else Instr.fput e
    Clear o e s → let w := s.cur; let i := s.issue o e; let len := (i.opB s).toNat; let bar := (i.uD s).toNat; let lm := (i.uA s).toNat; let fab := (s.readPair w e.c.toNat).toNat
    let r := s.onStrand w Strand.closeRegion
    (¬ (1 ≤ len ∧ len < 2 ^ 23) → Traps n o e s (Trap.of .illegalOperand len)) ∧
    (1 ≤ len → len < 2 ^ 23 → bar % 8 ≠ 0 → Traps n o e s (Trap.of .misaligned bar)) ∧
    (1 ≤ len → len < 2 ^ 23 → bar % 8 = 0 → s.inWindow w.core w.slot bar 8 = false → Traps n o e s (Trap.of .pageProtect bar)) ∧
    (1 ≤ len → len < 2 ^ 23 → bar % 8 = 0 → s.inWindow w.core w.slot bar 8 = true → s.inWindow w.core w.slot lm len = false →
      Traps n o e s (Trap.of .pageProtect (max lm (s.comb w.core w.slot).shape.window))) ∧
    (1 ≤ len → len < 2 ^ 23 → bar % 8 = 0 → s.inWindow w.core w.slot bar 8 = true → s.inWindow w.core w.slot lm len = true →
      (992 < fabDev fab ∨ fab / 2 ^ 48 ≠ (fab + len - 1) / 2 ^ 48 → Traps n o e s (Trap.of .pageProtect fab)) ∧
      (fabDev fab ≤ 992 → fab / 2 ^ 48 = (fab + len - 1) / 2 ^ 48 →
        (s.reachable (fabDev fab) = false → Traps n o e s (Trap.of .fabricUnreachable fab)) ∧
        (s.reachable (fabDev fab) = true → ∃ q : Request, q.kind = (if get then .fget w.strand else .fput w.strand) ∧ q.len0 = len ∧ q.bar = some bar ∧ q.total = len ∧
          (if get then q.sspc = 3 ∧ q.src = fab ∧ q.dspc = 0 ∧ q.dst = lm else q.sspc = 0 ∧ q.src = lm ∧ q.dspc = 3 ∧ q.dst = fab) ∧
          ((s.core w.core).kicks = [] → r.mayRegister w.core 1 = true → exec n s = .next ((r.register w.core w.slot [q]).advance i)) ∧
          (¬ ((s.core w.core).kicks = [] ∧ r.mayRegister w.core 1 = true) → Becomes n s fun t => t.memory = s.memory ∧ (t.core w.core).lm = (s.core w.core).lm ∧
            (t.core w.core).kicks = (s.core w.core).kicks ++ [{ slot := w.slot, strand := w.strand, reqs := [q] }] ∧ (t.strand w).pcs = (s.strand w).pcs))))) ∧
  (∀ (e : Enc) (s : State), Active .fmsg e s → let w := s.cur; let i := s.issue .fmsg e; let n := (i.opB s).toNat; let dev := (i.uC s).toNat; let off := (i.uA s).toNat
    (255 < n → Traps (.fmsg e) .fmsg e s (Trap.of .illegalOperand n)) ∧
    (n ≤ 255 → 992 < dev → Traps (.fmsg e) .fmsg e s (Trap.of .pageProtect dev)) ∧
    (n ≤ 255 → dev ≤ 992 → s.blockTrap w off 64 = none → bits (s.winRead w.core w.slot off 8) 31 8 = 0 →
      (s.reachable dev = false → Traps (.fmsg e) .fmsg e s (Trap.of .fabricUnreachable dev)) ∧
      (s.reachable dev = true → (s.target dev).out = [] → Becomes (.fmsg e) s fun t => t.memory = s.memory ∧ (t.strand w).flight.msgs = (s.strand w).flight.msgs ++ [e.d.toNat] ∧
        (t.target dev).nextSeq = ((s.target dev).nextSeq + 1) % 2 ^ 32 ∧
        ∃ o, (t.target dev).out = [o] ∧ o.use = .message w e.d.toNat ∧ o.first = some s.clock.gt ∧ o.packet.src = self ∧ o.packet.tenant = s.tenantOf w.core w.slot ∧
          o.packet.seq = (s.target dev).nextSeq ∧ o.packet.kind = .message n (BitVec.ofNat 512 (s.lmObject w off)))) ) ∧
  (∀ (e : Enc) (s : State), Active .fsync e s → let w := s.cur; let i := s.issue .fsync e; let r := (s.strand w).ferr
    let half := fun (n : Nat) => BitVec.ofNat 32 (if r.valid then r.addr / n else 0)
    let status := BitVec.ofNat 32 (if r.valid then 2 ^ 31 + r.count * 2 ^ 16 + r.cause else 0)
    (e.sub = 1 → Sets (.fsync e) .fsync e s fun _ => half 1) ∧ (e.sub = 2 → Sets (.fsync e) .fsync e s fun _ => half (2 ^ 32)) ∧
    (e.sub ≠ 1 → e.sub ≠ 2 → s.fabBusy w = true → exec (.fsync e) s = .next s) ∧
    (e.sub = 0 → s.fabBusy w = false → Sets (.fsync e) .fsync e s fun _ => status) ∧
    (e.sub = 3 → s.fabBusy w = false → exec (.fsync e) s = .next (((s.writeS w e.d.toNat status).onStrand w fun st => { st with ferr := {} }).advance i)))

/-- The target's side (R377 to R383, R450): a number more than 255 behind the highest is discarded; a number whose request was executed, a read apart, is answered with what was kept and not executed again; a new request of memory that the window does not admit is refused; a read returns the line; a write stores the bytes of its mask, changes no other byte and answers at a later GT than its arrival; a message is refused by a queue that is closed to it and is otherwise stored at the ring's tail, with the source's number and tenant after it. -/
def Obligations.FabricRequestsServed : Prop :=
  let answers := fun (t s : State) (req : FabRequest) (a : FabAnswer) (when_ : Nat) => let r : FabResponse := { target := self, seq := req.seq, epoch := s.fabric.epoch, answer := a }
    if req.src = self then t.fabric.acks = s.fabric.acks ++ [(when_, r)] else ∃ port via, t.fabric.outbox = s.fabric.outbox ++ [.packet req.src port (.response r via) when_]
  (∀ (s : State) (req : FabRequest), (s.source req.src).tooOld req.seq = true → exec (.fabricRequestArrival req) s = .next s) ∧
  (∀ (h k : Nat), k < h → h < 2 ^ 31 → ({ high := some h } : FabSource).tooOld k = decide (255 < h - k)) ∧
  (∀ (s : State) (req : FabRequest), (s.source req.src).tooOld req.seq = false →
    (∀ a, req.kind ≠ .read → (s.source req.src).done.find? (fun x => x.1 == req.seq) = some (req.seq, a) →
      Becomes (.fabricRequestArrival req) s fun t => t.memory = s.memory ∧ answers t s req a (s.answerTime req)) ∧
    (let x := s.window req.win; let va := x.vbase * 65536 + req.off
      ((∀ n d, req.kind ≠ .message n d) → (s.source req.src).saved req = none → x.admits req = false → Becomes (.fabricRequestArrival req) s fun t => t.memory = s.memory ∧ answers t s req .refusal s.clock.gt) ∧
      (∀ pa, x.admits req = true → isDevice pa = true → s.homeWaits (lineOf pa) = false →
        (req.kind = .read → s.translate (agentTlb 0) x.tenant false .read va = .ok pa → Becomes (.fabricRequestArrival req) s fun t => t.memory.mem = s.memory.mem ∧
          answers t s req (.data (Mem.line s.memory.mem (lineOf pa)) (s.linePoison (lineOf pa))) s.clock.gt) ∧
        (∀ mask data, req.kind = .write mask data false → s.translate (agentTlb 0) x.tenant false .write va = .ok pa → (s.source req.src).saved req = none → Becomes (.fabricRequestArrival req) s fun t =>
          (∀ j, j < 64 → Mem.byte t.memory.mem (lineOf pa + j) = if mask.getLsbD j then data.extractLsb' (8 * j) 8 else Mem.byte s.memory.mem (lineOf pa + j)) ∧
          (∀ a, a < lineOf pa ∨ lineOf pa + 64 ≤ a → Mem.byte t.memory.mem a = Mem.byte s.memory.mem a) ∧
          ∃ when_, s.clock.gt < when_ ∧ answers t s req .ack when_)))) ∧
  (∀ (s : State) (queue src : Nat) (tenant : BitVec 16) (entry : LineBits), let q := s.drone queue; let n := 2 ^ q.logcap
    (q.refuses tenant = true → exec (.fabricMessageReceive queue src tenant entry) s = .next s ∧ s.placeMessage queue src tenant entry = .ok (0x80000002, s)) ∧
    (∀ ring a b, q.refuses tenant = false → s.agentPa q.tenant .write q.base = .ok ring → s.homeWaits (lineOf ring) = false → let r := (s.remember (agentTlb 0) q.tenant q.base).atHome (lineOf ring)
      let head := Mem.read s.memory.mem ring 8; let tail := Mem.read s.memory.mem (ring + 8) 8; let va := q.base + 64 + 128 * (tail % n)
      ((tail + 2 ^ 64 - head) % 2 ^ 64 = n → Becomes (.fabricMessageReceive queue src tenant entry) s fun t => t.memory.mem = s.memory.mem) ∧
      ((tail + 2 ^ 64 - head) % 2 ^ 64 ≠ n → s.agentPa q.tenant .write va = .ok a → s.agentPa q.tenant .write (va + 64) = .ok b → r.homeWaits (lineOf a) = false → r.homeWaits (lineOf b) = false →
        a % 64 = 0 → b % 64 = 0 → ring % 64 = 0 → a ≠ b → a ≠ ring → b ≠ ring → Becomes (.fabricMessageReceive queue src tenant entry) s fun t =>
          Mem.read t.memory.mem a 64 = entry.toNat ∧ Mem.read t.memory.mem b 4 = src % 65536 + tenant.toNat * 65536 ∧ Mem.read t.memory.mem (ring + 8) 8 = (tail + 1) % 2 ^ 64 ∧
          Mem.read t.memory.mem ring 8 = head)))

/-- The source's side (R374, R375, R380 to R386): a final response ends its request, with the value in the register or the line in the load, and a refusal or a failure with its cause; a retry keeps it; a request is sent again with its number unchanged 2 µs after its last send, fails after 1,024 µs with FABRIC_TIMEOUT, and fails with FABRIC_UNREACHABLE when its target has been silent for 256 µs, once no strand stands past an atomic of its own on memory that the target lends (log entry 21); ports go down and up; a port that leads to no device stays dark (R371); a packet in transit goes on minimally to the intermediate of its path, and from there minimally to its destination. -/
def Obligations.FabricRequestsEnd : Prop :=
  (∀ (s : State) (v : Nat) (o : FabOut) (resp : FabResponse), (s.target v).out = [o] → o.first.isSome = true → resp.target = v → resp.seq = o.packet.seq → (s.target v).epoch = some resp.epoch →
    s.fabric.acks = [] →
    (∀ w reg m entry r, o.use = .message w reg → o.packet.kind = .message m entry → resp.answer = .result r → (s.strand w).live ≠ 0 → (s.strand w).flight.msgs = [reg] →
      Becomes (.fabricResponseArrival resp) s fun t => (t.target v).out = [] ∧ (t.strand w).flight.msgs = [] ∧ (reg < 64 → Tab.get 0 (t.strand w).regs.s reg = r) ∧ t.memory = s.memory) ∧
    (∀ w id line d p, o.use = .load w id line → o.packet.kind = .read → resp.answer = .data d p → (s.strand w).live ≠ 0 → Becomes (.fabricResponseArrival resp) s fun t => (t.target v).out = [] ∧
      t.memory = s.memory ∧ ∀ l ∈ (s.strand w).flight.loads, l.id = id →
        { l with sectors := l.sectors.map fun x => if lineOf (32 * x.1) = line then (x.1, some (d.toNat, p)) else x } ∈ (t.strand w).flight.loads) ∧
    (∀ w id m d p, o.use = .store w id → o.packet.kind = .write m d p → (s.strand w).live ≠ 0 → let r := (s.strand w).ferr
      (resp.answer = .refusal → Becomes (.fabricResponseArrival resp) s fun t => (t.target v).out = [] ∧ t.memory = s.memory ∧
        (t.strand w).ferr = if r.valid then { r with count := min 255 (r.count + 1) } else { valid := true, count := 1, cause := Cause.pageProtect.code, addr := fabAddr o.packet v }) ∧
      (resp.answer = .ack → Becomes (.fabricResponseArrival resp) s fun t => (t.target v).out = [] ∧ t.memory = s.memory ∧ id ∉ (t.strand w).flight.stores ∧
        (t.strand w).ferr = r)) ∧
    (resp.answer = .retry → Becomes (.fabricResponseArrival resp) s fun t => (t.target v).out = [{ o with last := s.clock.gt }] ∧ t.memory = s.memory)) ∧
  (∀ (s : State) (v : Nat) (o : FabOut) (first : Nat), (s.target v).out = [o] → o.first = some first →
    (o.last + 2000 ≤ s.clock.gt → exec (.fabricResend v o.packet.seq) s = .next ((s.onTarget v fun t => { t with out := [{ o with last := s.clock.gt }] }).transmit v o.packet)) ∧
    (s.clock.gt < o.last + 2000 → exec (.fabricResend v o.packet.seq) s = .next s) ∧
    (∀ w id, o.use = .store w id → (s.strand w).live ≠ 0 → (s.strand w).ferr.valid = false →
      let fails := fun (t : State) (c : Cause) => (t.target v).out = [] ∧ (t.strand w).ferr = { valid := true, count := 1, cause := c.code, addr := fabAddr o.packet v } ∧ t.memory = s.memory
      (first + 1024000 ≤ s.clock.gt → Becomes (.fabricTimeout v o.packet.seq) s fun t => fails t .fabricTimeout) ∧
      (v ≠ self → (s.target v).heard + 256000 ≤ s.clock.gt → s.outrun true v = false → Becomes (.fabricUnreachable v) s fun t => fails t .fabricUnreachable))) ∧
  (∀ (s : State) (port : Nat),
    (port < 32 → Becomes (.linkDown port) s fun t => t.portUp port = false ∧ (∀ p, p ≠ port → t.portUp p = s.portUp p) ∧ t.memory = s.memory ∧ t.cores = s.cores) ∧
    ((neighbourAt self port).isSome = true → Becomes (.linkUp port) s fun t => t.portUp port = true ∧ (∀ p, p ≠ port → t.portUp p = s.portUp p) ∧ t.memory = s.memory ∧ t.cores = s.cores) ∧
    (neighbourAt self port = none → s.portUp port = false ∧ exec (.linkUp port) s = .next s)) ∧
  (∀ (s : State) (p : FabPacket) (dst hop : Nat), dst ≠ self → 1 ≤ hop → hop ≤ 3 →
    exec (.packetTransit p dst hop) s = .next { s with fabric := { s.fabric with outbox := s.fabric.outbox ++ [.packet dst (s.nextPort p dst hop) p s.clock.gt] } }) ∧
  (∀ (s : State) (req : FabRequest) (dst hop : Nat), s.nextPort (.request req none) dst hop = (s.route dst).minp ∧
    ∀ i, s.nextPort (.request req (some i)) dst hop = (s.route (if i = self ∨ minHops req.src i ≤ hop then dst else i)).minp)

/-- Limits and the ceiling (R392, R393, R395 to R398, R404, R405): a legal LIMIT written by a member, an equal one too (the choice of log entry 69), is announced with its effective time LEAD microseconds ahead and holds from then on, that of a solo or joining device holds at once and ends a trip clamp below it (the choice of log entry 105), and an isolated device's clamp never rises; a notice is ignored unless its number is later and is otherwise in force at its time, at once when late; a pending limit whose time has come is in force, but for a member whose removal is due; a trip clamps the ceiling at once and is announced by a late notice; the ceiling of a device that follows a table is never above the limit of an entry in force, nor above a clamp that no notice in force has raised. -/
def Obligations.LimitsAndCeiling : Prop :=
  (∀ (s : State) (limit : Nat), s.mgmt.recovery = false → let a := s.accord
    (¬ (limit % 25 = 0 ∧ 800 ≤ limit ∧ limit ≤ 2200) → exec (.limitNotice limit) s = .next s) ∧
    (limit % 25 = 0 → 800 ≤ limit → limit ≤ 2200 →
      (a.state ≠ .member → a.state ≠ .isolated → exec (.limitNotice limit) s = .next { s with accord := { a with limit := limit, clamp := a.clamp.filter fun c => decide (limit ≤ c) } }) ∧
      (a.state = .isolated → exec (.limitNotice limit) s = .next { s with accord := { a with limit := limit, cap := some (match a.cap with | some c => min limit c | none => limit) } }) ∧
      (∀ m, a.state = .member → a.table = [m] → m.dev = self → a.forwards = [] → Becomes (.limitNotice limit) s fun t => let eff := s.clock.gt + a.lead * 1000
        t.accord.table = [{ m with pending := some (limit, eff), seq := a.seq + 1 }] ∧ t.accord.limit = limit ∧ t.accord.seq = a.seq + 1 ∧
        t.fabric.outbox = s.fabric.outbox ++ [.notice { dev := self, seq := a.seq + 1, limit := limit, eff := eff, late := false, leave := false, arrival := none }]))) ∧
  (∀ (s : State) (n : Notice) (m : Member), s.accord.en = true → s.accord.state = .member → n.dev ≠ self → s.accord.table = [m] → m.dev = n.dev →
    (n.seq ≤ m.seq → exec (.noticeReceive n) s = .next s) ∧
    (m.seq < n.seq → n.arrival = none → Becomes (.noticeReceive n) s fun t => t.memory = s.memory ∧
      (n.leave = true → t.accord.table = [{ m with seq := n.seq, pending := none, leaving := some n.eff }]) ∧
      (n.leave = false → n.late = true ∨ n.eff ≤ s.clock.gt → t.accord.table = [{ m with seq := n.seq, limit := n.limit, pending := none }]) ∧
      (n.leave = false → n.late = false → s.clock.gt < n.eff → t.accord.table = [{ m with seq := n.seq, pending := some (n.limit, n.eff) }]))) ∧
  (∀ (s : State) (m : Member) (limit eff : Nat), s.accord.table = [m] → m.pending = some (limit, eff) → s.removalDue m.dev = false → Becomes .limitApply s fun t =>
    t.accord.table = (if eff ≤ s.clock.gt then [{ m with limit := limit, pending := none }] else [m]) ∧ t.memory = s.memory) ∧
  (∀ (s : State), let a := s.accord; Becomes .emergencyTrip s fun t => t.memory = s.memory ∧ t.accord.ceilAt s.clock.gt ≤ a.trip ∧
    (a.state ≠ .member → a.state ≠ .joining → t.accord.table = a.table ∧ t.fabric = s.fabric) ∧
    (a.state = .joining → t.accord.lateTrip = some s.clock.gt ∧ t.fabric = s.fabric) ∧
    (a.state = .member → a.forwards = [] → t.accord.seq = a.seq + 1 ∧
      t.fabric.outbox = s.fabric.outbox ++ [.notice { dev := self, seq := a.seq + 1, limit := a.trip, eff := s.clock.gt, late := true, leave := false, arrival := none }])) ∧
  (∀ (a : Accord) (t : Nat), (a.follows = true → a.leftAt t = false → ∀ m ∈ a.table, (∀ e, m.leaving = some e → t < e) →
      (∀ l e, m.pending = some (l, e) → e ≤ t → a.ceilAt t ≤ l) ∧ ((∀ l e, m.pending = some (l, e) → t < e) → a.ceilAt t ≤ m.limit)) ∧
    (∀ c, a.clamp = some c → a.raised t = false → a.ceilAt t ≤ c) ∧ (a.follows = false ∨ a.leftAt t = true → a.ceilAt t ≤ a.limit))

/-- Membership (R395, R399 to R403): a member sends a heartbeat every 64 µs, which its own entry bears too; a later heartbeat is applied as a notice would be and keeps its sender in the table; a member silent for 256 µs is removed, with a rise of the ceiling held back; one that hears no other for as long, or that is told it was removed, is isolated under the lower of the ceiling it last applied and its own limit; a request to join is refused, or answered by a sponsor with the snapshot and the arrival's notice, by a solo device as the first member of its group (the choice of log entry 49); a join asks the sponsor, follows the snapshot and ends at its adoption time, by a timeout after 1 ms or by a refusal; a leaver goes on under its own limit LEAD microseconds after its notice; EN 0 makes the device solo, and a LEAD out of range is ignored (the choice of log entry 69). -/
def Obligations.AccordMembership : Prop :=
  (∀ (s : State) (m : Member), s.accord.table = [m] → m.dev = self → s.accord.state = .member → let gt := s.clock.gt
    (s.accord.beat + 64000 ≤ gt → Becomes .heartbeatSend s fun t => t.fabric.outbox = s.fabric.outbox ++ [.heartbeat { dev := self, seq := s.accord.seq, stamp := gt, limit := limitAt m gt, pending := m.pending }] ∧
      gt < t.accord.beat + 64000 ∧ t.accord.table = [{ m with stamp := gt }]) ∧
    (gt < s.accord.beat + 64000 → exec .heartbeatSend s = .next s) ∧
    (s.accord.heard + 256000 ≤ gt → Becomes .accordIsolation s fun t => t.accord.state = .isolated ∧ t.accord.table = [] ∧ t.accord.cap = some (min (s.accord.groupCeil gt) s.accord.limit)) ∧
    (gt < s.accord.heard + 256000 → exec .accordIsolation s = .next s) ∧
    (∀ sender, Becomes (.removedMessage sender) s fun t => t.accord.state = .isolated ∧ t.accord.table = [] ∧ t.accord.cap = some (min (s.accord.groupCeil gt) s.accord.limit)) ∧
    (s.mgmt.recovery = false → s.accord.forwards = [] → Becomes .accordLeave s fun t => let eff := gt + s.accord.lead * 1000
      t.accord.table = [{ m with seq := s.accord.seq + 1, pending := none, leaving := some eff }] ∧
      t.fabric.outbox = s.fabric.outbox ++ [.notice { dev := self, seq := s.accord.seq + 1, limit := s.accord.limit, eff := eff, late := false, leave := true, arrival := none }]) ∧
    (∀ e, m.leaving = some e → e ≤ gt → Becomes (.leaveEffective self) s fun t => t.accord.state = .solo ∧ t.accord.table = [])) ∧
  (∀ (s : State) (me m : Member) (h : Heartbeat), s.accord.en = true → s.accord.state = .member → s.accord.table = [me, m] → me.dev = self → m.dev ≠ self → let gt := s.clock.gt
    (h.dev = m.dev → Becomes (.heartbeatReceive h) s fun t => t.accord.heard = gt ∧ t.memory = s.memory ∧
      t.accord.table = [me, if m.seq < h.seq then { m with stamp := max m.stamp h.stamp, seq := h.seq, limit := h.limit, pending := h.pending } else { m with stamp := max m.stamp h.stamp }]) ∧
    (m.stamp + 256000 ≤ gt → (∀ e, m.leaving = some e → m.stamp + 256000 < e) → Becomes (.memberRemoval m.dev) s fun t => t.accord.table = [me] ∧
      (let at_ := m.stamp + 256000; t.accord.rises = s.accord.rises ++ [(at_ + 50000, match m.pending with | some (l, e) => if e < at_ then l else m.limit | none => m.limit)])) ∧
    (gt < m.stamp + 256000 → exec (.memberRemoval m.dev) s = .next s) ∧
    (∀ e, m.leaving = some e → e ≤ gt → gt < m.stamp + 256000 ∨ e ≤ m.stamp + 256000 → Becomes (.leaveEffective m.dev) s fun t => t.accord.table = [me] ∧ t.accord.state = .member)) ∧
  (∀ (s : State) (sponsor : Nat), s.mgmt.recovery = false → sponsor ≤ 992 → s.accord.en = true → s.accord.state = .solo ∨ s.accord.state = .isolated → Becomes (.accordJoin sponsor) s fun t =>
    t.accord.state = .joining ∧ t.accord.joining = some { sponsor := sponsor, back := s.accord.state, limit := s.accord.limit, since := s.clock.gt, adopt := none } ∧
    t.fabric.outbox = s.fabric.outbox ++ [.joinRequest sponsor s.accord.group s.accord.limit]) ∧
  (∀ (s : State) (dev group limit : Nat), dev ≠ self →
    (¬ (s.accord.en = true ∧ s.accord.group = group ∧ (s.accord.state = .member ∨ s.accord.state = .solo)) →
      exec (.joinRequestReceive dev group limit) s = .next { s with fabric := { s.fabric with outbox := s.fabric.outbox ++ [.refuse dev] } }) ∧
    (s.accord.en = true → s.accord.group = group → s.accord.state = .member → s.accord.forwards = [] → Becomes (.joinRequestReceive dev group limit) s fun t =>
      ∃ adopt, s.clock.gt + 50000 ≤ adopt ∧ t.accord.seq = s.accord.seq + 1 ∧ t.accord.forwards = [(dev, adopt)] ∧
        (∃ m ∈ t.accord.table, m.dev = dev ∧ m.pending = some (limit, adopt) ∧ m.leaving = none) ∧
        t.fabric.outbox = s.fabric.outbox ++ [.snapshot dev { members := s.accord.table, rises := s.accord.rises.filter fun x => decide (s.clock.gt < x.1) } adopt,
          .notice { dev := self, seq := s.accord.seq + 1, limit := limit, eff := adopt, late := false, leave := false, arrival := some dev }]) ∧
    (s.accord.en = true → s.accord.group = group → s.accord.state = .solo → Becomes (.joinRequestReceive dev group limit) s fun t => t.accord.state = .member ∧ t.accord.table.length = 2 ∧
      (∃ m ∈ t.accord.table, m.dev = self ∧ m.limit = s.accord.ceilAt s.clock.gt ∧ m.pending = none) ∧ ∃ m ∈ t.accord.table, m.dev = dev ∧ ∃ adopt, s.clock.gt + 50000 ≤ adopt ∧ m.pending = some (limit, adopt))) ∧
  (∀ (s : State) (j : Joining), s.accord.state = .joining → s.accord.joining = some j → let gt := s.clock.gt
    let ends := fun (t : State) (err : Nat) => t.accord.state = j.back ∧ t.accord.err = err ∧ t.accord.joining = none ∧ t.accord.table = s.accord.table
    (j.adopt = none →
      (∀ l adopt, Becomes (.snapshotReceive l adopt) s fun t => t.accord.joining = some { j with adopt := some adopt } ∧ t.accord.rises = l.rises ∧
        ∃ m, t.accord.table = l.members.filter (fun x => x.dev != self) ++ [m] ∧ m.dev = self ∧ m.pending = some (j.limit, adopt)) ∧
      (j.since + 1000000 ≤ gt → Becomes .joinTimeout s fun t => ends t 1) ∧ (gt < j.since + 1000000 → exec .joinTimeout s = .next s) ∧
      (Becomes .sponsorRefusal s fun t => ends t 2)) ∧
    (∀ adopt, j.adopt = some adopt → (gt < adopt → exec .adoption s = .next s) ∧
      (adopt ≤ gt → Becomes .adoption s fun t => t.accord.state = .member ∧ t.accord.joining = none ∧ t.accord.cap = none ∧
        (∀ g, s.accord.lateTrip = some g → t.accord.seq = s.accord.seq + 1)))) ∧
  (∀ (s : State) (value : Dbl), s.mgmt.recovery = false → let v := value.toNat; let lead := bits v 9 0
    (value.getLsbD 63 = true → Becomes (.accctlEnWrite value) s fun t => t.accord.en = true ∧ t.accord.state = s.accord.state ∧ t.accord.table = s.accord.table ∧
      (s.accord.en = true → t.accord = s.accord) ∧
      (s.accord.en = false → t.accord.group = bits v 47 32 ∧ t.accord.lead = if 50 ≤ lead ∧ lead ≤ 1000 then lead else s.accord.lead)) ∧
    (value.getLsbD 63 = false → Becomes (.accctlEnWrite value) s fun t => t.accord.en = false ∧ t.accord.state = .solo ∧ t.accord.table = [] ∧ t.accord.joining = none))

/-- The host's writes and the management space (R3, R436, R437, R439 to R442, R451): SYNC and a doorbell take effect once the earlier CXL.mem writes and CXL.cache snoops are absorbed (what absorption is: log entry 79); a write of a wrong size or alignment, to a reserved offset or to a register or half that no write can act on changes nothing, but in the debug block, where one while debug is locked raises the alarm (the choice of log entry 80); an 8-byte write offers the register the fields that it has, and a 4-byte write those of its half beside what the other half reads; a lock ends the writes of its register; CMD starts a command in range with the operands of that moment (the choice of log entry 73), sets ERR for one that is not, and is ignored while one runs; in recovery no host access has an effect. -/
def Obligations.HostWrites : Prop :=
  (∀ (s : State) (v : Word) (reg off size : Nat) (value : Dbl), s.mgmt.recovery = true →
    exec (.syncWrite v) s = .next s ∧ exec (.doorbellNotify reg) s = .next s ∧ exec (.mgmtRegisterWrite off size value) s = .next s) ∧
  (∀ (s : State) (v : Word) (reg : Nat), s.mgmt.recovery = false →
    (s.absorbed = true → Becomes (.syncWrite v) s fun t => t.host.sync = v ∧ t.host.pending = [] ∧ t.memory = s.memory) ∧
    (s.absorbed = false → exec (.syncWrite v) s = .next (s.again true) ∧ exec (.doorbellNotify reg) s = .next (s.again true)) ∧
    (s.absorbed = true → reg < 256 → (s.notifyOf reg).parked = [] → Becomes (.doorbellNotify reg) s fun t => (t.notifyOf reg).seq = (s.notifyOf reg).seq + 1 ∧
      (∀ n, n ≠ reg → t.notifyOf n = s.notifyOf n) ∧ t.memory = s.memory)) ∧
  (∀ (s : State) (off size : Nat) (value : Dbl), s.mgmt.recovery = false →
    (¬ ((size = 8 ∧ off % 8 = 0) ∨ (size = 4 ∧ off % 4 = 0)) → exec (.mgmtRegisterWrite off size value) s = .next s) ∧
    (regAt (off / 8 * 8) = none → ¬ (0x9000 ≤ off ∧ off < 0xA000 ∧ s.mgmt.dbgLock = true) → exec (.mgmtRegisterWrite off size value) s = .next s) ∧
    (regAt (off / 8 * 8) = none → 0x9000 ≤ off → off < 0xA000 → s.mgmt.dbgLock = true → (size = 8 ∧ off % 8 = 0) ∨ (size = 4 ∧ off % 4 = 0) →
      exec (.mgmtRegisterWrite off size value) s = .next (s.alarm .debug)) ∧
    (∀ r, regAt (off / 8 * 8) = some r → r.writable = 0 → r ≠ .dbgstat → (∀ k j, r ≠ .stop k j) → Tab.wf {} s.fabric.windows = true → exec (.mgmtRegisterWrite off size value) s = .next s) ∧
    (∀ r, regAt off = some r → off % 8 = 0 → exec (.mgmtRegisterWrite off 8 value) s = .next (s.writeMgmt r (value.toNat &&& r.writable))) ∧
    (∀ r, regAt (off / 8 * 8) = some r → off % 4 = 0 → let high := decide (off % 8 = 4)
      (r.inert high = true → exec (.mgmtRegisterWrite off 4 value) s = .next s) ∧
      (r.inert high = false → let new := value.toNat % 2 ^ 32 * (if high then 2 ^ 32 else 1); let other := s.readMgmt r &&& halfMask (!high)
        exec (.mgmtRegisterWrite off 4 value) s = .next (s.writeMgmt r ((other ||| new) &&& r.writable))))) ∧
  (∀ (s : State) (v : Nat),
    (v &&& MReg.writable .tdbase = v → (s.writeMgmt .tdbase v).readMgmt .tdbase = v) ∧ (v &&& MReg.writable .wtbase = v → (s.writeMgmt .wtbase v).readMgmt .wtbase = v) ∧
    (∀ d < 2, v < 2 ^ 32 → (s.writeMgmt (.pinmax d) v).readMgmt (.pinmax d) = v ∧ (s.writeMgmt (.lendmax d) v).readMgmt (.lendmax d) = v) ∧
    (∀ n < 256, v &&& MReg.writable (.binding n) = v → (s.writeMgmt (.binding n) v).readMgmt (.binding n) = v) ∧
    (∀ q < 64, (s.queue q).en = true → (s.writeMgmt (.qbase q) v).queue q = s.queue q) ∧
    (s.sec.lock = true → s.writeMgmt .secpol v = s) ∧
    (v < 8 → (s.writeMgmt .secstat v).sec.status = s.sec.status &&& (7 - v))) ∧
  (∀ (s : State) (op : Nat), (s.mgmt.command.isSome = true → s.writeMgmt .cmd op = s) ∧
    (s.mgmt.command = none → commandOk op s.mgmt.arg0.toNat s.mgmt.arg1.toNat = true → (s.writeMgmt .cmd op).runs op = true ∧ (s.writeMgmt .cmd op).mgmt.op0 = s.mgmt.arg0) ∧
    (s.mgmt.command = none → commandOk op s.mgmt.arg0.toNat s.mgmt.arg1.toNat = false → (s.writeMgmt .cmd op).mgmt = { s.mgmt with cmdErr := true }))

/-- Management commands and care (R429, R442, R443, R451 to R456): SUMMARY writes its buffer and nothing else; INVAL forgets a tenant's cached translations and keeps the others'; REMOVE and an internal error take a core out of service, discard its combs and ask for replacement; RESET keeps host memory, GT, the debug lock and the removed cores, counts cycles from 0, empties the cores, adds 1 to the epoch and signals the interrupt (what it keeps, and the interrupt: log entry 75; the number of the epoch: log entry 11); completion clears BUSY and ERR and signals the host once the command's writes have reached their terms; bring-up whose stages all pass removes the cores that fail and sets READY, and any other ends in recovery; a flush copies the life counters with the hours of GT added (log entry 81) and a power loss returns to the copy, an erased key staying erased (log entry 81). -/
def Obligations.CommandsAndCare : Prop :=
  (∀ (s : State), let pa := s.mgmt.op0.toNat
    (s.runs 1 = true → pa % 65536 = 0 → (∀ k < 274, s.agentReady (pa + 64 * k) = true) → Becomes .summary s fun t => t.mgmt.cmdDone = true ∧
      Mem.read t.memory.mem pa 8 = 0x4A400001 ∧ Mem.read t.memory.mem (pa + 8) 8 = s.clock.gt % 2 ^ 64 ∧
      ∀ a, a < pa ∨ pa + 17536 ≤ a → Mem.byte t.memory.mem a = Mem.byte s.memory.mem a) ∧
    (s.runs 2 = true → let tenant := s.mgmt.op0.setWidth 16; let va := s.mgmt.op1.toNat; Becomes .inval s fun t => t.mgmt.cmdDone = true ∧ t.memory = s.memory ∧
      (∀ x : TlbSlot, let e := x.entry; x ∈ t.tlb.entries ↔ x ∈ s.tlb.entries ∧ ¬ (e.tenant = tenant ∧ (va = 0 ∨ (e.va ≤ va ∧ va < e.va + e.size)))) ∧
      (va = 0 → Tab.get none t.tlb.descs tenant.toNat = none) ∧ (va ≠ 0 → t.tlb.descs = s.tlb.descs)) ∧
    (s.runs 4 = true → Becomes .reset s fun t => t.clock.gt = s.clock.gt ∧ t.clock.cycle = 0 ∧ t.mgmt.removed = s.mgmt.removed ∧ t.cores = [] ∧ t.mgmt.command = none ∧ t.mgmt.ready = false ∧ t.mgmt.dbgLock = s.mgmt.dbgLock ∧ t.fabric.epoch = s.fabric.epoch + 1 ∧
      t.host.msix = 0 :: s.host.msix ∧ ∀ a, isHost a = true → Mem.byte t.memory.mem a = Mem.byte s.memory.mem a) ∧
    (s.mgmt.command.isSome = true → s.mgmt.cmdDone = true → s.commandSettled = true → Becomes .mgmtCommandComplete s fun t => t.mgmt.command = none ∧ t.mgmt.cmdErr = false ∧ t.host.msix = 0 :: s.host.msix ∧ t.memory = s.memory) ∧
    (s.mgmt.cmdDone = false ∨ s.commandSettled = false → exec .mgmtCommandComplete s = .next s)) ∧
  (∀ (s : State) (c : Nat), c < 144 → s.mgmt.removed.contains c = false →
    let gone := fun (t : State) => (t.core c).combs = [] ∧ (t.core c).saved = [] ∧ t.mgmt.removed = s.mgmt.removed ++ [c] ∧ t.mgmt.rplreq = true ∧ t.memory.mem = s.memory.mem ∧
      ∀ k, k ≠ c → t.core k = s.core k
    (s.mgmt.stops = [] → s.runs 3 = true → s.mgmt.op0.toNat = c → Becomes .remove s fun t => gone t ∧ t.mgmt.cmdDone = true) ∧
    (s.mgmt.stops = [] → Becomes (.coreInternalError c) s fun t => gone t ∧ 0 ∈ t.host.msix) ∧
    (∀ stages, s.mgmt.stops = [] → s.mgmt.ready = false → s.mgmt.recovery = false → false ∉ stages → Becomes (.bringUp stages [c]) s fun t => gone t ∧ t.mgmt.ready = true)) ∧
  (∀ (s : State) (stages : List Bool) (failed : List Nat), s.mgmt.ready = false → s.mgmt.recovery = false → false ∈ stages →
    Becomes (.bringUp stages failed) s fun t => t.mgmt.recovery = true ∧ t.mgmt.ready = false ∧ t.cores = s.cores) ∧
  (∀ (s : State), let l := s.life
    (l.flushed + 60000000000 ≤ s.clock.gt → Becomes .lifeCounterFlush s fun t => t.life.nvCounters = t.life.counters ∧ t.life.nvBins = l.bins ∧ t.life.flushed = s.clock.gt ∧
      Tab.get 0 t.life.counters 0 = Tab.get 0 l.counters 0 + (s.clock.gt / hour - l.flushed / hour) ∧ ∀ k, k ≠ 0 → Tab.get 0 t.life.counters k = Tab.get 0 l.counters k) ∧
    (s.clock.gt < l.flushed + 60000000000 → exec .lifeCounterFlush s = .next s) ∧
    (Becomes .powerLoss s fun t => t.life.counters = l.nvCounters ∧ t.life.bins = l.nvBins ∧ t.cores = [] ∧ t.mgmt.ready = false ∧ t.sec.erased = s.sec.erased))

/-- Confidential contexts, the alarm and the application cores (R430 to R433, R446, R447): keys load only through a session; a context goes from CONFIG_UNLOCKED by LOCK, with nothing lost from then on, to CONFIG_LOCKED and by START to RUN (the requests: the choice of log entry 68); one that is lost has no key and no session, and its tenants' strands take CONF_LOST; a session lasts while its heartbeats come; after the identity key is erased attestation fails and no session is established (the latter: log entry 68); an alarm sets its bit, and takes the action of its field; a sandbox access or its translation fill outside the walls or to weights ends in WALL_VIOLATION, and any other load or store of device memory is performed; machine mode alone reads and writes the wall CSRs; SFENCE.VMA takes the weights map as it stands and ends every translation held. -/
def Obligations.ContextsAndAlarm : Prop :=
  (∀ (s : State) (c : Nat), c < 64 → let x := s.context c
    (∀ slot key, slot < 16 → Becomes (.keySlotLoad c slot key) s fun t =>
      (x.session = true → Tab.get none (t.context c).keys slot = some key ∧ ∀ k, k ≠ slot → Tab.get none (t.context c).keys k = Tab.get none x.keys k) ∧
      (x.session = false → t = s)) ∧
    (x.state = .configUnlocked → Becomes (.tdispRequest c .lock) s fun t => t.context c = { x with state := .configLocked, lost := false }) ∧
    (x.state = .configLocked → Becomes (.tdispRequest c .start) s fun t => t.context c = { x with state := .run }) ∧
    (x.state ≠ .configUnlocked → exec (.tdispRequest c .lock) s = .next s) ∧ (x.state ≠ .configLocked → exec (.tdispRequest c .start) s = .next s) ∧
    (let lost := fun (t : State) (n : TdispState) => t.context c = { x with state := n, keys := [], session := false, period := 0, lost := true };
      (x.state = .run → (Becomes (.tdispRequest c .stop) s fun t => lost t .configUnlocked) ∧ (Becomes (.tdispRequest c .error) s fun t => lost t .error) ∧
        (Becomes (.contextLoss c) s fun t => lost t .error)) ∧
      (x.session = true → (Becomes (.spdmRequest c .endSession) s fun t => lost t x.state) ∧
        (x.period ≠ 0 → x.beat + 2 * x.period ≤ s.clock.gt → Becomes (.spdmHeartbeatTimeout c) s fun t => lost t x.state) ∧
        (s.clock.gt < x.beat + 2 * x.period → exec (.spdmHeartbeatTimeout c) s = .next s) ∧
        (Becomes (.spdmRequest c .heartbeat) s fun t => t.context c = { x with beat := s.clock.gt }))) ∧
    (s.sec.erased = false → (∀ p, Becomes (.spdmRequest c (.establish p)) s fun t => t.context c = { x with session := true, period := p, beat := s.clock.gt }) ∧
      (Becomes (.spdmRequest c .getMeasurements) s fun t => t.sec.attested = Config.sign s.measurements :: s.sec.attested ∧ t.sec.contexts = s.sec.contexts)) ∧
    (s.sec.erased = true → exec (.spdmRequest c .getMeasurements) s = .next s ∧ ∀ p, exec (.spdmRequest c (.establish p)) s = .next s) ∧
    (∀ core slot k y, s.cores = [(core, k)] → k.combs = [(slot, some y)] → k.kicks = [] → y.reqs = [] → s.boundTo c y.tenant = true →
      ((s.loseContext c).comb core slot) = y.confLost c)) ∧
  (∀ (s : State), let raised := fun (t : State) (a : Alarm) (act : Nat) => t.sec.status = s.sec.status ||| 2 ^ a.bit ∧
      (act = 0 → t.sec.contexts = s.sec.contexts ∧ t.cores = s.cores) ∧ (act = 1 ∨ act = 2 → ∀ c < 64, (t.context c).keys = [] ∧ (t.context c).session = false) ∧
      (act = 2 → t.sec.erased = true ∧ t.sec.stopAll = true) ∧ (act ≠ 2 → t.sec.erased = s.sec.erased ∧ t.sec.stopAll = s.sec.stopAll)
    (Becomes .tamperAlarm s fun t => raised t .tamper s.sec.tmpa) ∧ (Becomes .glitchAlarm s fun t => raised t .glitch s.sec.glta)) ∧
  (∀ (s : State) (app : Nat) (access : SandAccess) (mode : AppMode) (fill : List Nat) (va pa size : Nat) (value : Dbl), app < 16 → s.mgmt.removedApps.contains app = false → s.mgmt.recovery = false →
    let x := s.app app; let walled := mode = .user ∧ x.sbx = true; let out := ∃ p ∈ pa :: fill, x.inWall p = false ∨ x.marked p = true
    (access = .fetch ∨ access = .load ∨ access = .store → walled → out → Becomes (.sandboxAccess app access { mode := mode, fill := fill, size := size, value := value } va pa) s fun t =>
      t.app app = { x with cause := 0x0E, xcause := if access = .fetch then 1 else if access = .load then 5 else 7, xval := va } ∧ t.memory = s.memory) ∧
    (¬ walled ∨ (¬ out ∧ fill ≠ []) → isDevice pa = true → 1 ≤ size → size ≤ 8 → pa % 64 + size ≤ 64 → s.agentReady (lineOf pa) = true →
      (access = .fetch ∨ access = .load → Becomes (.sandboxAccess app access { mode := mode, fill := fill, size := size, value := value } va pa) s fun t =>
        (t.app app).loaded = Mem.read s.memory.mem pa size ∧ (t.app app).bad = s.linePoison (lineOf pa) ∧ t.memory.mem = s.memory.mem) ∧
      (access = .store → Becomes (.sandboxAccess app access { mode := mode, fill := fill, size := size, value := value } va pa) s fun t =>
        Mem.read t.memory.mem pa size = value.toNat % 2 ^ (8 * size) ∧ ∀ a, a < pa ∨ pa + size ≤ a → Mem.byte t.memory.mem a = Mem.byte s.memory.mem a)) ∧
    (mode = .machine → (Becomes (.sandboxAccess app .csrRead { mode := mode, fill := fill, size := size, value := value } va pa) s fun t => (t.app app).loaded = x.csr pa ∧ t.memory = s.memory) ∧
      (Becomes (.sandboxAccess app .csrWrite { mode := mode, fill := fill, size := size, value := value } va pa) s fun t => t.app app = x.setCsr pa value ∧ t.memory = s.memory)) ∧
    (mode ≠ .machine → access = .csrRead ∨ access = .csrWrite → Becomes (.sandboxAccess app access { mode := mode, fill := fill, size := size, value := value } va pa) s fun t => t.app app = { x with xcause := 2, xval := 0 } ∧ t.memory = s.memory) ∧
    (Becomes (.sfenceVma app) s fun t => t.memory = s.memory ∧ (t.app app).held = [] ∧ ∀ k, k < 4194304 → Mem.byte (t.app app).weights k = Mem.byte s.memory.mem (s.service.wtbase + k)))

/-- The debug block (R421, R433): BRK under a debugger attached to the tenant stops its strand in the lowest free stop entry; with debug locked a command raises the alarm; an entry that is not valid sets ERR; RESUME frees the entry and takes its lanes past the BRK; DELIVER raises BRK in the strand; SAVE stores the context image at DBGARG and changes no other byte; LOAD loads one that passes its checks; DBGATT attaches a tenant; the lock detaches; DBGSTAT.BUSY reads 1 while a command waits. -/
def Obligations.DebugBlock : Prop :=
  (∀ (e : Enc) (s : State) (d : List Nat) (k : Nat), Active .brk e s → let w := s.cur; let st := s.strand w; let i := s.issue .brk e; let tenant := s.tenantOf w.core w.slot
    s.mgmt.dbgAtt = true → s.mgmt.dbgLock = false → s.mgmt.dbgTenant = tenant → st.act = false → s.descriptor tenant = some d → descDbg d = true → s.freeStop = some k →
    Becomes (.brk e) s fun t => Tab.get none t.mgmt.stops k = some { who := w, tenant := tenant, pc := i.pc.toNat, len := e.bytes, code := i.opB s, mask := i.group } ∧
      (∀ j, j ≠ k → Tab.get none t.mgmt.stops j = Tab.get none s.mgmt.stops j) ∧ t.host.msix = 0 :: s.host.msix ∧ t.memory = s.memory ∧
      (t.strand w).sched.stopped = true ∧ (t.strand w).regs = st.regs ∧ (t.strand w).pcs = st.pcs ∧ (t.strand w).trap = st.trap) ∧
  (∀ (s : State) (entry : Nat), s.mgmt.recovery = false → s.mgmt.dbgBusy = [] →
    (s.mgmt.dbgLock = true → let a := s.alarm .debug
      exec (.dbgResume entry) s = .next a ∧ exec (.dbgDeliver entry) s = .next a ∧ exec (.dbgSave entry) s = .next a ∧ exec (.dbgLoad entry) s = .next a) ∧
    (s.mgmt.dbgLock = false → 64 ≤ entry ∨ Tab.get none s.mgmt.stops entry = none → let t : State := { s with mgmt := { s.mgmt with dbgErr := true } }
      exec (.dbgResume entry) s = .next t ∧ exec (.dbgDeliver entry) s = .next t ∧ exec (.dbgSave entry) s = .next t ∧ exec (.dbgLoad entry) s = .next t) ∧
    (∀ x, s.mgmt.dbgLock = false → entry < 64 → Tab.get none s.mgmt.stops entry = some x → let w := x.who; let st := s.strand w; let pa := s.mgmt.dbgArg; let n := imageSize st.sp.n
      (st.live ≠ 0 → Becomes (.dbgResume entry) s fun t => Tab.get none t.mgmt.stops entry = none ∧ t.mgmt.dbgErr = false ∧ (t.strand w).regs = st.regs ∧ (t.strand w).sched.stopped = false ∧ t.memory = s.memory ∧
        ∀ l < 32, (x.mask &&& st.live).getLsbD l = true → (t.strand w).pc l = BitVec.ofNat 57 (x.pc + x.len)) ∧
      (MayTrap s w → st.live ≠ 0 → exec (.dbgDeliver entry) s = .next (((s.freeStopEntry entry).onStrand w fun st =>
        ({ st with sched := { st.sched with stopped := false } }).enterTrap Cause.brk.code (zx64 x.code) (BitVec.ofNat 57 x.pc) x.mask false).dbgResult 2 entry false)) ∧
      (imagePlace pa st.sp.n = false → let t : State := { s with mgmt := { s.mgmt with dbgErr := true } }; exec (.dbgSave entry) s = .next t ∧ exec (.dbgLoad entry) s = .next t) ∧
      (imagePlace pa st.sp.n = true → st.imagePending = false → (∀ l ∈ imageLines pa st.sp.n, s.agentReady l = true) →
        (Becomes (.dbgSave entry) s fun t => t.mgmt.dbgErr = false ∧ (∀ k < n / 32, Mem.read t.memory.mem (pa + 32 * k) 32 = st.imageSector k) ∧
          ∀ a, a < pa ∨ pa + n / 32 * 32 ≤ a → Mem.byte t.memory.mem a = Mem.byte s.memory.mem a) ∧
        (let m := s.readImage ((List.range (n / 32)).map fun k => (pa + 32 * k, pa + 32 * k)) fun _ p => Mem.read s.memory.mem p 32;
          (m.firstBad st ≠ none → Becomes (.dbgLoad entry) s fun t => t.mgmt.dbgErr = true ∧ (t.strand w).regs = st.regs ∧ (t.strand w).pcs = st.pcs ∧ (t.strand w).sp = st.sp ∧ (t.strand w).trap = st.trap) ∧
          (m.firstBad st = none → exec (.dbgLoad entry) s = .next ((((imageLines pa st.sp.n).foldl State.atHome s).onStrand w fun st => st.loadImage m).dbgResult 4 entry false)))))) ∧
  (∀ (s : State) (value : Dbl), s.mgmt.recovery = false →
    (s.mgmt.dbgLock = true → exec (.dbgattWrite value) s = .next (s.alarm .debug)) ∧
    (s.mgmt.dbgLock = false → s.mgmt.stops = [] → Becomes (.dbgattWrite value) s fun t => t.mgmt = { s.mgmt with dbgAtt := value.getLsbD 63, dbgTenant := value.setWidth 16 } ∧ t.cores = s.cores) ∧
    (∀ op entry, s.mgmt.stops.length ≤ 64 → (s.dbgWait op entry).readMgmt .dbgstat / 2 ^ 63 = 1) ∧ (s.mgmt.dbgBusy = [] → s.mgmt.stops = [] → s.readMgmt .dbgstat / 2 ^ 63 = 0) ∧
    (s.mgmt.stops = [] → Becomes .dbgctlLockWrite s fun t => t.mgmt = { s.mgmt with dbgLock := true, dbgAtt := false } ∧ t.cores = s.cores))
end

