-- ==== Sys2Proof/Laws/State.lean ====
section
/-! SUPPORT. The small lemmas of tables, memory and State: what a read gives after an update, and which fields an update leaves alone. -/

namespace Sys2Proof
variable {α : Type}

/-! Tables. -/

theorem Tab.get_del_same (d : α) (i : Nat) : ∀ t : Tab α, Tab.get d (Tab.del t i) i = d
  | [] => rfl
  | (k, v) :: t => by
    by_cases h : k = i
    · simp [Tab.del, h, Tab.get_del_same d i t]
    · simp [Tab.del, h, Tab.get, Tab.get_del_same d i t]

theorem Tab.get_del_ne (d : α) {i j : Nat} (h : i ≠ j) : ∀ t : Tab α, Tab.get d (Tab.del t i) j = Tab.get d t j
  | [] => rfl
  | (k, v) :: t => by
    by_cases hk : k = i
    · have : k ≠ j := fun hj => h (hk ▸ hj)
      simp [Tab.del, hk, Tab.get, Tab.get_del_ne d h t, h]
    · rw [Tab.del, if_neg hk, Tab.get, Tab.get, Tab.get_del_ne d h t]

theorem Tab.get_ins_ne (d : α) {i j : Nat} (v : α) (h : i ≠ j) : ∀ t : Tab α, Tab.get d (Tab.ins i v t) j = Tab.get d t j
  | [] => by simp [Tab.ins, Tab.get, h]
  | (k, w) :: t => by
    by_cases hk : i < k
    · simp [Tab.ins, hk, Tab.get, h]
    · rw [Tab.ins, if_neg hk, Tab.get, Tab.get, Tab.get_ins_ne d v h t]

theorem Tab.get_ins_del (d : α) (i : Nat) (v : α) : ∀ t : Tab α, Tab.get d (Tab.ins i v (Tab.del t i)) i = v
  | [] => by simp [Tab.del, Tab.ins, Tab.get]
  | (k, w) :: t => by
    by_cases hk : k = i
    · simp [Tab.del, hk, Tab.get_ins_del d i v t]
    · by_cases hl : i < k
      · simp [Tab.del, hk, Tab.ins, hl, Tab.get]
      · simp [Tab.del, hk, Tab.ins, hl, Tab.get, Tab.get_ins_del d i v t]

/-- A read after a write of the same key. -/
@[simp] theorem Tab.get_put_same [DecidableEq α] (d : α) (t : Tab α) (i : Nat) (v : α) : Tab.get d (Tab.put d t i v) i = v := by
  unfold Tab.put
  split
  · rename_i h; rw [Tab.get_del_same, h]
  · exact Tab.get_ins_del d i v t

/-- A read after a write of another key. -/
theorem Tab.get_put_ne [DecidableEq α] (d : α) (t : Tab α) {i j : Nat} (v : α) (h : i ≠ j) : Tab.get d (Tab.put d t i v) j = Tab.get d t j := by
  unfold Tab.put
  split
  · exact Tab.get_del_ne d h t
  · rw [Tab.get_ins_ne d v h, Tab.get_del_ne d h]

/-- A read after a write. -/
theorem Tab.get_put [DecidableEq α] (d : α) (t : Tab α) (i j : Nat) (v : α) : Tab.get d (Tab.put d t i v) j = if i = j then v else Tab.get d t j := by
  split
  · rename_i h; subst h; simp
  · rename_i h; exact Tab.get_put_ne d t v h

/-! The canonical form. -/

/-- The canonical form said key by key: every key is at least `n`, and the rest lies above it. -/
def Tab.above (d : α) : Nat → Tab α → Prop
  | _, [] => True
  | n, (k, v) :: t => n ≤ k ∧ v ≠ d ∧ Tab.above d (k + 1) t

theorem Tab.above_mono {d : α} {m n : Nat} (h : m ≤ n) : ∀ {t : Tab α}, Tab.above d n t → Tab.above d m t
  | [], _ => trivial
  | (_, _) :: _, ⟨a, b, c⟩ => ⟨Nat.le_trans h a, b, c⟩

theorem Tab.wf_cons [DecidableEq α] {d : α} {k : Nat} {v : α} : ∀ {t : Tab α}, Tab.wf d ((k, v) :: t) = true ↔ v ≠ d ∧ Tab.above d (k + 1) t
  | [] => by simp [Tab.wf, Tab.above]
  | (k', v') :: t => by
    rw [Tab.wf, Bool.and_eq_true, Bool.and_eq_true, Tab.wf_cons]
    simp only [decide_eq_true_eq, Tab.above, and_assoc]
    exact ⟨fun ⟨a, b, c⟩ => ⟨a, b, c⟩, fun ⟨a, b, c⟩ => ⟨a, b, c⟩⟩

theorem Tab.wf_iff [DecidableEq α] {d : α} : ∀ {t : Tab α}, Tab.wf d t = true ↔ Tab.above d 0 t
  | [] => by simp [Tab.wf, Tab.above]
  | (k, v) :: t => by rw [Tab.wf_cons]; simp [Tab.above]

theorem Tab.above_del {d : α} {i n : Nat} : ∀ {t : Tab α}, Tab.above d n t → Tab.above d n (Tab.del t i)
  | [], _ => trivial
  | (k, v) :: t, ⟨a, b, c⟩ => by
    by_cases hk : k = i
    · rw [Tab.del, if_pos hk]; exact Tab.above_mono (by omega) (Tab.above_del c)
    · rw [Tab.del, if_neg hk]; exact ⟨a, b, Tab.above_del c⟩

theorem Tab.above_ins {d : α} {i n : Nat} {v : α} (hv : v ≠ d) (hn : n ≤ i) :
    ∀ {t : Tab α}, Tab.above d n t → Tab.above d n (Tab.ins i v (Tab.del t i))
  | [], _ => ⟨hn, hv, trivial⟩
  | (k, w) :: t, ⟨a, b, c⟩ => by
    by_cases hk : k = i
    · rw [Tab.del, if_pos hk]; exact Tab.above_ins hv hn (Tab.above_mono (by omega) c)
    · rw [Tab.del, if_neg hk, Tab.ins]
      by_cases hl : i < k
      · rw [if_pos hl]; exact ⟨hn, hv, by omega, b, Tab.above_del c⟩
      · rw [if_neg hl]; exact ⟨a, b, Tab.above_ins hv (by omega) c⟩

/-- A write keeps the canonical form. -/
theorem Tab.wf_put [DecidableEq α] {d : α} {t : Tab α} (i : Nat) (v : α) (h : Tab.wf d t = true) : Tab.wf d (Tab.put d t i v) = true := by
  rw [Tab.wf_iff] at *
  unfold Tab.put
  split
  · exact Tab.above_del h
  · rename_i hv; exact Tab.above_ins hv (by omega) h

/-- A removal keeps the canonical form. -/
theorem Tab.wf_del [DecidableEq α] {d : α} {t : Tab α} (i : Nat) (h : Tab.wf d t = true) : Tab.wf d (Tab.del t i) = true := by
  rw [Tab.wf_iff] at *; exact Tab.above_del h

/-! Memory. -/

/-- A byte read after a byte written. -/
theorem Mem.byte_setByte (m : Mem) (a b : Nat) (v : Byte) : Mem.byte (Mem.setByte m a v) b = if a = b then v else Mem.byte m b := Tab.get_put 0 m a b v

/-- A byte written keeps the canonical form. -/
theorem Mem.wf_setByte {m : Mem} (a : Nat) (v : Byte) (h : Mem.wf m = true) : Mem.wf (Mem.setByte m a v) = true := Tab.wf_put a v h

/-- Bytes written keep the canonical form. -/
theorem Mem.wf_write : ∀ (n : Nat) {m : Mem} (a v : Nat), Mem.wf m = true → Mem.wf (Mem.write m a n v) = true
  | 0, _, _, _, h => h
  | n + 1, _, a, _, h => Mem.wf_write n (a + 1) _ (Mem.wf_setByte a _ h)

/-- Masked bytes written keep the canonical form. -/
theorem Mem.wf_writeMasked : ∀ (n : Nat) {m : Mem} (a k v : Nat), Mem.wf m = true → Mem.wf (Mem.writeMasked m a k v n) = true
  | 0, _, _, _, _, h => h
  | n + 1, _, a, k, v, h => by
    rw [Mem.writeMasked]
    split
    · exact Mem.wf_writeMasked n (a + 1) _ _ (Mem.wf_setByte a _ h)
    · exact Mem.wf_writeMasked n (a + 1) _ _ h

/-- Cells written keep the canonical form. -/
theorem Mem.wf_writeCells : ∀ (l : List (Nat × Byte)) {m : Mem}, Mem.wf m = true → Mem.wf (Mem.writeCells m l) = true
  | [], _, h => h
  | (a, b) :: t, _, h => Mem.wf_writeCells t (Mem.wf_setByte a b h)

/-- A byte outside those written reads as before. -/
theorem Mem.byte_write_out : ∀ (n : Nat) (m : Mem) (a v b : Nat), b < a ∨ a + n ≤ b → Mem.byte (Mem.write m a n v) b = Mem.byte m b
  | 0, _, _, _, _, _ => rfl
  | n + 1, m, a, v, b, h => by
    rw [Mem.write, Mem.byte_write_out n _ (a + 1) _ b (by omega), Mem.byte_setByte, if_neg (by omega)]

/-- A byte of those written reads as written (R2). -/
theorem Mem.byte_write_in : ∀ (n : Nat) (m : Mem) (a v k : Nat), k < n → Mem.byte (Mem.write m a n v) (a + k) = BitVec.ofNat 8 (v / 256 ^ k)
  | 0, _, _, _, _, h => absurd h (by omega)
  | n + 1, m, a, v, 0, _ => by
    rw [Mem.write, Mem.byte_write_out n _ _ _ _ (by omega), Mem.byte_setByte]; simp
  | n + 1, m, a, v, k + 1, h => by
    rw [Mem.write, show a + (k + 1) = a + 1 + k by omega, Mem.byte_write_in n _ (a + 1) (v / 256) k (by omega), Nat.div_div_eq_div_mul, Nat.pow_succ, Nat.mul_comm]

/-- A masked write: byte by byte. -/
theorem Mem.byte_writeMasked : ∀ (n : Nat) (m : Mem) (a k v b : Nat),
    Mem.byte (Mem.writeMasked m a k v n) b = if a ≤ b ∧ b < a + n ∧ k.testBit (b - a) = true then BitVec.ofNat 8 (v / 256 ^ (b - a)) else Mem.byte m b
  | 0, m, a, k, v, b => by rw [Mem.writeMasked, if_neg (by omega)]
  | n + 1, m, a, k, v, b => by
    rw [Mem.writeMasked, Mem.byte_writeMasked n]
    have other : b ≠ a → Mem.byte (if k % 2 = 1 then Mem.setByte m a (BitVec.ofNat 8 v) else m) b = Mem.byte m b := by
      intro hb
      split
      · rw [Mem.byte_setByte, if_neg (fun h => hb h.symm)]
      · rfl
    by_cases hb : b = a
    · subst hb
      rw [if_neg (by omega)]
      by_cases hk : k % 2 = 1
      · simp [hk, Mem.byte_setByte, Nat.testBit_zero]
      · simp [hk, Nat.testBit_zero]
    · rw [other hb]
      by_cases hlt : a < b
      · obtain ⟨c, rfl⟩ : ∃ c, b = a + 1 + c := ⟨b - (a + 1), by omega⟩
        have e1 : a + 1 + c - (a + 1) = c := by omega
        have e2 : a + 1 + c - a = c + 1 := by omega
        rw [e1, e2, Nat.testBit_succ, Nat.div_div_eq_div_mul, Nat.pow_succ, Nat.mul_comm 256]
        by_cases hn : c < n
        · by_cases ht : (k / 2).testBit c = true
          · rw [if_pos ⟨by omega, by omega, ht⟩, if_pos ⟨by omega, by omega, ht⟩]
          · rw [if_neg (fun h => ht h.2.2), if_neg (fun h => ht h.2.2)]
        · rw [if_neg (by omega), if_neg (by omega)]
      · rw [if_neg (by omega), if_neg (by omega)]

end Sys2Proof

namespace Sys2Proof.Machine
open Sys2Proof

/-! Cores, combs and strands. -/

@[simp] theorem State.core_setCore (s : State) (c : Nat) (x : Core) : (s.setCore c x).core c = x := by simp [State.core, State.setCore]

theorem State.core_setCore_ne (s : State) {c d : Nat} (x : Core) (h : c ≠ d) : (s.setCore c x).core d = s.core d := by
  simp [State.core, State.setCore, Tab.get_put_ne _ _ _ h]

@[simp] theorem State.core_onCore (s : State) (c : Nat) (f : Core → Core) : (s.onCore c f).core c = f (s.core c) := by simp [State.onCore]

theorem State.core_onCore_ne (s : State) {c d : Nat} (f : Core → Core) (h : c ≠ d) : (s.onCore c f).core d = s.core d := by
  simp [State.onCore, State.core_setCore_ne _ _ h]

@[simp] theorem State.comb?_setComb (s : State) (c n : Nat) (x : Comb) : (s.setComb c n x).comb? c n = some x := by
  simp [State.comb?, State.setComb]

/-- A resident comb after `onComb`. -/
theorem State.comb?_onComb {s : State} {c n : Nat} {x : Comb} (f : Comb → Comb) (h : s.comb? c n = some x) : (s.onComb c n f).comb? c n = some (f x) := by
  simp [State.onComb, h]

/-- A comb after `onComb`, where one is resident. -/
theorem State.comb_onComb {s : State} {c n : Nat} (f : Comb → Comb) (h : (s.comb? c n).isSome = true) : (s.onComb c n f).comb c n = f (s.comb c n) := by
  obtain ⟨x, hx⟩ := Option.isSome_iff_exists.mp h
  simp [State.comb, State.comb?_onComb f hx, hx]

/-- A strand after `onStrand`, where its comb is resident. -/
theorem State.strand_onStrand {s : State} {w : Sid} (f : Strand → Strand) (h : (s.comb? w.core w.slot).isSome = true) :
    (s.onStrand w f).strand w = f (s.strand w) := by
  unfold State.strand State.onStrand
  rw [State.comb_onComb _ h]
  simp

/-- Whether a comb is resident does not change with `onComb`. -/
theorem State.resident_onComb {s : State} {c n : Nat} (f : Comb → Comb) (h : (s.comb? c n).isSome = true) : ((s.onComb c n f).comb? c n).isSome = true := by
  obtain ⟨x, hx⟩ := Option.isSome_iff_exists.mp h
  simp [State.comb?_onComb f hx]

theorem State.resident_onStrand {s : State} {w : Sid} (f : Strand → Strand) (h : (s.comb? w.core w.slot).isSome = true) :
    ((s.onStrand w f).comb? w.core w.slot).isSome = true := State.resident_onComb _ h

/-- A strand with a live lane belongs to a resident comb. -/
theorem State.resident_of_live {s : State} {w : Sid} (h : (s.strand w).live ≠ 0) : (s.comb? w.core w.slot).isSome = true := by
  cases hc : s.comb? w.core w.slot with
  | some x => rfl
  | none => exact absurd (by simp [State.strand, State.comb, hc, Tab.get]) h

/-- A strand that may issue belongs to a resident comb. -/
theorem State.resident_of_may {s : State} {w : Sid} (h : s.mayIssue w = true) : (s.comb? w.core w.slot).isSome = true := by
  apply State.resident_of_live
  simp only [State.mayIssue, Strand.runnable, Bool.and_eq_true, bne_iff_ne] at h
  exact h.1.1.1.1.1.1.1.1.1.1.1.1.1

/-- A comb or none after `onComb`. -/
theorem State.comb?_onComb_map {s : State} {c n : Nat} (f : Comb → Comb) : (s.onComb c n f).comb? c n = (s.comb? c n).map f := by
  cases hc : s.comb? c n with
  | none => simp [State.onComb, hc]
  | some x => simp [State.comb?_onComb f hc]


/-! Fields that an update leaves alone. -/

@[simp] theorem State.setCore_clock (s : State) (c : Nat) (x : Core) : (s.setCore c x).clock = s.clock := rfl
@[simp] theorem State.setCore_cur (s : State) (c : Nat) (x : Core) : (s.setCore c x).cur = s.cur := rfl
@[simp] theorem State.setCore_inputs (s : State) (c : Nat) (x : Core) : (s.setCore c x).inputs = s.inputs := rfl
@[simp] theorem State.setCore_retry (s : State) (c : Nat) (x : Core) : (s.setCore c x).retry = s.retry := rfl
@[simp] theorem State.setCore_memory (s : State) (c : Nat) (x : Core) : (s.setCore c x).memory = s.memory := rfl
@[simp] theorem State.setCore_tlb (s : State) (c : Nat) (x : Core) : (s.setCore c x).tlb = s.tlb := rfl
@[simp] theorem State.setCore_tiers (s : State) (c : Nat) (x : Core) : (s.setCore c x).tiers = s.tiers := rfl
@[simp] theorem State.setCore_sched (s : State) (c : Nat) (x : Core) : (s.setCore c x).sched = s.sched := rfl
@[simp] theorem State.setCore_mgmt (s : State) (c : Nat) (x : Core) : (s.setCore c x).mgmt = s.mgmt := rfl
@[simp] theorem State.setCore_sec (s : State) (c : Nat) (x : Core) : (s.setCore c x).sec = s.sec := rfl
@[simp] theorem State.setCore_host (s : State) (c : Nat) (x : Core) : (s.setCore c x).host = s.host := rfl
@[simp] theorem State.setCore_service (s : State) (c : Nat) (x : Core) : (s.setCore c x).service = s.service := rfl
@[simp] theorem State.setCore_life (s : State) (c : Nat) (x : Core) : (s.setCore c x).life = s.life := rfl
@[simp] theorem State.setCore_fabric (s : State) (c : Nat) (x : Core) : (s.setCore c x).fabric = s.fabric := rfl
@[simp] theorem State.setCore_accord (s : State) (c : Nat) (x : Core) : (s.setCore c x).accord = s.accord := rfl
@[simp] theorem State.onCore_clock (s : State) (c : Nat) (f : Core → Core) : (s.onCore c f).clock = s.clock := rfl
@[simp] theorem State.onCore_cur (s : State) (c : Nat) (f : Core → Core) : (s.onCore c f).cur = s.cur := rfl
@[simp] theorem State.onCore_inputs (s : State) (c : Nat) (f : Core → Core) : (s.onCore c f).inputs = s.inputs := rfl
@[simp] theorem State.onCore_retry (s : State) (c : Nat) (f : Core → Core) : (s.onCore c f).retry = s.retry := rfl
@[simp] theorem State.onCore_memory (s : State) (c : Nat) (f : Core → Core) : (s.onCore c f).memory = s.memory := rfl
@[simp] theorem State.onCore_tlb (s : State) (c : Nat) (f : Core → Core) : (s.onCore c f).tlb = s.tlb := rfl
@[simp] theorem State.onCore_tiers (s : State) (c : Nat) (f : Core → Core) : (s.onCore c f).tiers = s.tiers := rfl
@[simp] theorem State.onCore_sched (s : State) (c : Nat) (f : Core → Core) : (s.onCore c f).sched = s.sched := rfl
@[simp] theorem State.onCore_mgmt (s : State) (c : Nat) (f : Core → Core) : (s.onCore c f).mgmt = s.mgmt := rfl
@[simp] theorem State.onCore_sec (s : State) (c : Nat) (f : Core → Core) : (s.onCore c f).sec = s.sec := rfl
@[simp] theorem State.onCore_host (s : State) (c : Nat) (f : Core → Core) : (s.onCore c f).host = s.host := rfl
@[simp] theorem State.onCore_service (s : State) (c : Nat) (f : Core → Core) : (s.onCore c f).service = s.service := rfl
@[simp] theorem State.onCore_life (s : State) (c : Nat) (f : Core → Core) : (s.onCore c f).life = s.life := rfl
@[simp] theorem State.onCore_fabric (s : State) (c : Nat) (f : Core → Core) : (s.onCore c f).fabric = s.fabric := rfl
@[simp] theorem State.onCore_accord (s : State) (c : Nat) (f : Core → Core) : (s.onCore c f).accord = s.accord := rfl
@[simp] theorem State.setComb_clock (s : State) (c n : Nat) (x : Comb) : (s.setComb c n x).clock = s.clock := rfl
@[simp] theorem State.setComb_cur (s : State) (c n : Nat) (x : Comb) : (s.setComb c n x).cur = s.cur := rfl
@[simp] theorem State.setComb_inputs (s : State) (c n : Nat) (x : Comb) : (s.setComb c n x).inputs = s.inputs := rfl
@[simp] theorem State.setComb_retry (s : State) (c n : Nat) (x : Comb) : (s.setComb c n x).retry = s.retry := rfl
@[simp] theorem State.setComb_memory (s : State) (c n : Nat) (x : Comb) : (s.setComb c n x).memory = s.memory := rfl
@[simp] theorem State.setComb_tlb (s : State) (c n : Nat) (x : Comb) : (s.setComb c n x).tlb = s.tlb := rfl
@[simp] theorem State.setComb_tiers (s : State) (c n : Nat) (x : Comb) : (s.setComb c n x).tiers = s.tiers := rfl
@[simp] theorem State.setComb_sched (s : State) (c n : Nat) (x : Comb) : (s.setComb c n x).sched = s.sched := rfl
@[simp] theorem State.setComb_mgmt (s : State) (c n : Nat) (x : Comb) : (s.setComb c n x).mgmt = s.mgmt := rfl
@[simp] theorem State.setComb_sec (s : State) (c n : Nat) (x : Comb) : (s.setComb c n x).sec = s.sec := rfl
@[simp] theorem State.setComb_host (s : State) (c n : Nat) (x : Comb) : (s.setComb c n x).host = s.host := rfl
@[simp] theorem State.setComb_service (s : State) (c n : Nat) (x : Comb) : (s.setComb c n x).service = s.service := rfl
@[simp] theorem State.setComb_life (s : State) (c n : Nat) (x : Comb) : (s.setComb c n x).life = s.life := rfl
@[simp] theorem State.setComb_fabric (s : State) (c n : Nat) (x : Comb) : (s.setComb c n x).fabric = s.fabric := rfl
@[simp] theorem State.setComb_accord (s : State) (c n : Nat) (x : Comb) : (s.setComb c n x).accord = s.accord := rfl
@[simp] theorem State.onStream_clock (s : State) (c : Nat) (f : Stream → Stream) : (s.onStream c f).clock = s.clock := rfl
@[simp] theorem State.onStream_cur (s : State) (c : Nat) (f : Stream → Stream) : (s.onStream c f).cur = s.cur := rfl
@[simp] theorem State.onStream_inputs (s : State) (c : Nat) (f : Stream → Stream) : (s.onStream c f).inputs = s.inputs := rfl
@[simp] theorem State.onStream_retry (s : State) (c : Nat) (f : Stream → Stream) : (s.onStream c f).retry = s.retry := rfl
@[simp] theorem State.onStream_memory (s : State) (c : Nat) (f : Stream → Stream) : (s.onStream c f).memory = s.memory := rfl
@[simp] theorem State.onStream_tlb (s : State) (c : Nat) (f : Stream → Stream) : (s.onStream c f).tlb = s.tlb := rfl
@[simp] theorem State.onStream_tiers (s : State) (c : Nat) (f : Stream → Stream) : (s.onStream c f).tiers = s.tiers := rfl
@[simp] theorem State.onStream_sched (s : State) (c : Nat) (f : Stream → Stream) : (s.onStream c f).sched = s.sched := rfl
@[simp] theorem State.onStream_mgmt (s : State) (c : Nat) (f : Stream → Stream) : (s.onStream c f).mgmt = s.mgmt := rfl
@[simp] theorem State.onStream_sec (s : State) (c : Nat) (f : Stream → Stream) : (s.onStream c f).sec = s.sec := rfl
@[simp] theorem State.onStream_host (s : State) (c : Nat) (f : Stream → Stream) : (s.onStream c f).host = s.host := rfl
@[simp] theorem State.onStream_service (s : State) (c : Nat) (f : Stream → Stream) : (s.onStream c f).service = s.service := rfl
@[simp] theorem State.onStream_life (s : State) (c : Nat) (f : Stream → Stream) : (s.onStream c f).life = s.life := rfl
@[simp] theorem State.onStream_fabric (s : State) (c : Nat) (f : Stream → Stream) : (s.onStream c f).fabric = s.fabric := rfl
@[simp] theorem State.onStream_accord (s : State) (c : Nat) (f : Stream → Stream) : (s.onStream c f).accord = s.accord := rfl
@[simp] theorem State.onMem_clock (s : State) (f : Memory → Memory) : (s.onMem f).clock = s.clock := rfl
@[simp] theorem State.onMem_cur (s : State) (f : Memory → Memory) : (s.onMem f).cur = s.cur := rfl
@[simp] theorem State.onMem_inputs (s : State) (f : Memory → Memory) : (s.onMem f).inputs = s.inputs := rfl
@[simp] theorem State.onMem_retry (s : State) (f : Memory → Memory) : (s.onMem f).retry = s.retry := rfl
@[simp] theorem State.onMem_cores (s : State) (f : Memory → Memory) : (s.onMem f).cores = s.cores := rfl
@[simp] theorem State.onMem_tlb (s : State) (f : Memory → Memory) : (s.onMem f).tlb = s.tlb := rfl
@[simp] theorem State.onMem_tiers (s : State) (f : Memory → Memory) : (s.onMem f).tiers = s.tiers := rfl
@[simp] theorem State.onMem_sched (s : State) (f : Memory → Memory) : (s.onMem f).sched = s.sched := rfl
@[simp] theorem State.onMem_mgmt (s : State) (f : Memory → Memory) : (s.onMem f).mgmt = s.mgmt := rfl
@[simp] theorem State.onMem_sec (s : State) (f : Memory → Memory) : (s.onMem f).sec = s.sec := rfl
@[simp] theorem State.onMem_host (s : State) (f : Memory → Memory) : (s.onMem f).host = s.host := rfl
@[simp] theorem State.onMem_service (s : State) (f : Memory → Memory) : (s.onMem f).service = s.service := rfl
@[simp] theorem State.onMem_life (s : State) (f : Memory → Memory) : (s.onMem f).life = s.life := rfl
@[simp] theorem State.onMem_fabric (s : State) (f : Memory → Memory) : (s.onMem f).fabric = s.fabric := rfl
@[simp] theorem State.onMem_accord (s : State) (f : Memory → Memory) : (s.onMem f).accord = s.accord := rfl
@[simp] theorem State.onPage_clock (s : State) (a : Nat) (f : Page → Page) : (s.onPage a f).clock = s.clock := rfl
@[simp] theorem State.onPage_cur (s : State) (a : Nat) (f : Page → Page) : (s.onPage a f).cur = s.cur := rfl
@[simp] theorem State.onPage_inputs (s : State) (a : Nat) (f : Page → Page) : (s.onPage a f).inputs = s.inputs := rfl
@[simp] theorem State.onPage_retry (s : State) (a : Nat) (f : Page → Page) : (s.onPage a f).retry = s.retry := rfl
@[simp] theorem State.onPage_cores (s : State) (a : Nat) (f : Page → Page) : (s.onPage a f).cores = s.cores := rfl
@[simp] theorem State.onPage_tlb (s : State) (a : Nat) (f : Page → Page) : (s.onPage a f).tlb = s.tlb := rfl
@[simp] theorem State.onPage_tiers (s : State) (a : Nat) (f : Page → Page) : (s.onPage a f).tiers = s.tiers := rfl
@[simp] theorem State.onPage_sched (s : State) (a : Nat) (f : Page → Page) : (s.onPage a f).sched = s.sched := rfl
@[simp] theorem State.onPage_mgmt (s : State) (a : Nat) (f : Page → Page) : (s.onPage a f).mgmt = s.mgmt := rfl
@[simp] theorem State.onPage_sec (s : State) (a : Nat) (f : Page → Page) : (s.onPage a f).sec = s.sec := rfl
@[simp] theorem State.onPage_host (s : State) (a : Nat) (f : Page → Page) : (s.onPage a f).host = s.host := rfl
@[simp] theorem State.onPage_service (s : State) (a : Nat) (f : Page → Page) : (s.onPage a f).service = s.service := rfl
@[simp] theorem State.onPage_life (s : State) (a : Nat) (f : Page → Page) : (s.onPage a f).life = s.life := rfl
@[simp] theorem State.onPage_fabric (s : State) (a : Nat) (f : Page → Page) : (s.onPage a f).fabric = s.fabric := rfl
@[simp] theorem State.onPage_accord (s : State) (a : Nat) (f : Page → Page) : (s.onPage a f).accord = s.accord := rfl
@[simp] theorem State.interrupt_clock (s : State) : (s.interrupt).clock = s.clock := rfl
@[simp] theorem State.interrupt_cur (s : State) : (s.interrupt).cur = s.cur := rfl
@[simp] theorem State.interrupt_inputs (s : State) : (s.interrupt).inputs = s.inputs := rfl
@[simp] theorem State.interrupt_retry (s : State) : (s.interrupt).retry = s.retry := rfl
@[simp] theorem State.interrupt_cores (s : State) : (s.interrupt).cores = s.cores := rfl
@[simp] theorem State.interrupt_memory (s : State) : (s.interrupt).memory = s.memory := rfl
@[simp] theorem State.interrupt_tlb (s : State) : (s.interrupt).tlb = s.tlb := rfl
@[simp] theorem State.interrupt_tiers (s : State) : (s.interrupt).tiers = s.tiers := rfl
@[simp] theorem State.interrupt_sched (s : State) : (s.interrupt).sched = s.sched := rfl
@[simp] theorem State.interrupt_mgmt (s : State) : (s.interrupt).mgmt = s.mgmt := rfl
@[simp] theorem State.interrupt_sec (s : State) : (s.interrupt).sec = s.sec := rfl
@[simp] theorem State.interrupt_service (s : State) : (s.interrupt).service = s.service := rfl
@[simp] theorem State.interrupt_life (s : State) : (s.interrupt).life = s.life := rfl
@[simp] theorem State.interrupt_fabric (s : State) : (s.interrupt).fabric = s.fabric := rfl
@[simp] theorem State.interrupt_accord (s : State) : (s.interrupt).accord = s.accord := rfl
@[simp] theorem State.count_clock (s : State) (i n : Nat) : (s.count i n).clock = s.clock := rfl
@[simp] theorem State.count_cur (s : State) (i n : Nat) : (s.count i n).cur = s.cur := rfl
@[simp] theorem State.count_inputs (s : State) (i n : Nat) : (s.count i n).inputs = s.inputs := rfl
@[simp] theorem State.count_retry (s : State) (i n : Nat) : (s.count i n).retry = s.retry := rfl
@[simp] theorem State.count_cores (s : State) (i n : Nat) : (s.count i n).cores = s.cores := rfl
@[simp] theorem State.count_memory (s : State) (i n : Nat) : (s.count i n).memory = s.memory := rfl
@[simp] theorem State.count_tlb (s : State) (i n : Nat) : (s.count i n).tlb = s.tlb := rfl
@[simp] theorem State.count_tiers (s : State) (i n : Nat) : (s.count i n).tiers = s.tiers := rfl
@[simp] theorem State.count_sched (s : State) (i n : Nat) : (s.count i n).sched = s.sched := rfl
@[simp] theorem State.count_mgmt (s : State) (i n : Nat) : (s.count i n).mgmt = s.mgmt := rfl
@[simp] theorem State.count_sec (s : State) (i n : Nat) : (s.count i n).sec = s.sec := rfl
@[simp] theorem State.count_host (s : State) (i n : Nat) : (s.count i n).host = s.host := rfl
@[simp] theorem State.count_service (s : State) (i n : Nat) : (s.count i n).service = s.service := rfl
@[simp] theorem State.count_fabric (s : State) (i n : Nat) : (s.count i n).fabric = s.fabric := rfl
@[simp] theorem State.count_accord (s : State) (i n : Nat) : (s.count i n).accord = s.accord := rfl
@[simp] theorem State.logHalt_clock (s : State) (l : List Nat) : (s.logHalt l).clock = s.clock := rfl
@[simp] theorem State.logHalt_cur (s : State) (l : List Nat) : (s.logHalt l).cur = s.cur := rfl
@[simp] theorem State.logHalt_inputs (s : State) (l : List Nat) : (s.logHalt l).inputs = s.inputs := rfl
@[simp] theorem State.logHalt_retry (s : State) (l : List Nat) : (s.logHalt l).retry = s.retry := rfl
@[simp] theorem State.logHalt_cores (s : State) (l : List Nat) : (s.logHalt l).cores = s.cores := rfl
@[simp] theorem State.logHalt_memory (s : State) (l : List Nat) : (s.logHalt l).memory = s.memory := rfl
@[simp] theorem State.logHalt_tlb (s : State) (l : List Nat) : (s.logHalt l).tlb = s.tlb := rfl
@[simp] theorem State.logHalt_tiers (s : State) (l : List Nat) : (s.logHalt l).tiers = s.tiers := rfl
@[simp] theorem State.logHalt_sched (s : State) (l : List Nat) : (s.logHalt l).sched = s.sched := rfl
@[simp] theorem State.logHalt_sec (s : State) (l : List Nat) : (s.logHalt l).sec = s.sec := rfl
@[simp] theorem State.logHalt_service (s : State) (l : List Nat) : (s.logHalt l).service = s.service := rfl
@[simp] theorem State.logHalt_life (s : State) (l : List Nat) : (s.logHalt l).life = s.life := rfl
@[simp] theorem State.logHalt_fabric (s : State) (l : List Nat) : (s.logHalt l).fabric = s.fabric := rfl
@[simp] theorem State.logHalt_accord (s : State) (l : List Nat) : (s.logHalt l).accord = s.accord := rfl
@[simp] theorem State.again_clock (s : State) (b : Bool) : (s.again b).clock = s.clock := rfl
@[simp] theorem State.again_cur (s : State) (b : Bool) : (s.again b).cur = s.cur := rfl
@[simp] theorem State.again_inputs (s : State) (b : Bool) : (s.again b).inputs = s.inputs := rfl
@[simp] theorem State.again_cores (s : State) (b : Bool) : (s.again b).cores = s.cores := rfl
@[simp] theorem State.again_memory (s : State) (b : Bool) : (s.again b).memory = s.memory := rfl
@[simp] theorem State.again_tlb (s : State) (b : Bool) : (s.again b).tlb = s.tlb := rfl
@[simp] theorem State.again_tiers (s : State) (b : Bool) : (s.again b).tiers = s.tiers := rfl
@[simp] theorem State.again_sched (s : State) (b : Bool) : (s.again b).sched = s.sched := rfl
@[simp] theorem State.again_mgmt (s : State) (b : Bool) : (s.again b).mgmt = s.mgmt := rfl
@[simp] theorem State.again_sec (s : State) (b : Bool) : (s.again b).sec = s.sec := rfl
@[simp] theorem State.again_host (s : State) (b : Bool) : (s.again b).host = s.host := rfl
@[simp] theorem State.again_service (s : State) (b : Bool) : (s.again b).service = s.service := rfl
@[simp] theorem State.again_life (s : State) (b : Bool) : (s.again b).life = s.life := rfl
@[simp] theorem State.again_fabric (s : State) (b : Bool) : (s.again b).fabric = s.fabric := rfl
@[simp] theorem State.again_accord (s : State) (b : Bool) : (s.again b).accord = s.accord := rfl
@[simp] theorem State.onComb_clock (s : State) (c n : Nat) (f : Comb → Comb) : (s.onComb c n f).clock = s.clock := by unfold State.onComb; split <;> rfl
@[simp] theorem State.onComb_cur (s : State) (c n : Nat) (f : Comb → Comb) : (s.onComb c n f).cur = s.cur := by unfold State.onComb; split <;> rfl
@[simp] theorem State.onComb_inputs (s : State) (c n : Nat) (f : Comb → Comb) : (s.onComb c n f).inputs = s.inputs := by unfold State.onComb; split <;> rfl
@[simp] theorem State.onComb_retry (s : State) (c n : Nat) (f : Comb → Comb) : (s.onComb c n f).retry = s.retry := by unfold State.onComb; split <;> rfl
@[simp] theorem State.onComb_memory (s : State) (c n : Nat) (f : Comb → Comb) : (s.onComb c n f).memory = s.memory := by unfold State.onComb; split <;> rfl
@[simp] theorem State.onComb_tlb (s : State) (c n : Nat) (f : Comb → Comb) : (s.onComb c n f).tlb = s.tlb := by unfold State.onComb; split <;> rfl
@[simp] theorem State.onComb_tiers (s : State) (c n : Nat) (f : Comb → Comb) : (s.onComb c n f).tiers = s.tiers := by unfold State.onComb; split <;> rfl
@[simp] theorem State.onComb_sched (s : State) (c n : Nat) (f : Comb → Comb) : (s.onComb c n f).sched = s.sched := by unfold State.onComb; split <;> rfl
@[simp] theorem State.onComb_mgmt (s : State) (c n : Nat) (f : Comb → Comb) : (s.onComb c n f).mgmt = s.mgmt := by unfold State.onComb; split <;> rfl
@[simp] theorem State.onComb_sec (s : State) (c n : Nat) (f : Comb → Comb) : (s.onComb c n f).sec = s.sec := by unfold State.onComb; split <;> rfl
@[simp] theorem State.onComb_host (s : State) (c n : Nat) (f : Comb → Comb) : (s.onComb c n f).host = s.host := by unfold State.onComb; split <;> rfl
@[simp] theorem State.onComb_service (s : State) (c n : Nat) (f : Comb → Comb) : (s.onComb c n f).service = s.service := by unfold State.onComb; split <;> rfl
@[simp] theorem State.onComb_life (s : State) (c n : Nat) (f : Comb → Comb) : (s.onComb c n f).life = s.life := by unfold State.onComb; split <;> rfl
@[simp] theorem State.onComb_fabric (s : State) (c n : Nat) (f : Comb → Comb) : (s.onComb c n f).fabric = s.fabric := by unfold State.onComb; split <;> rfl
@[simp] theorem State.onComb_accord (s : State) (c n : Nat) (f : Comb → Comb) : (s.onComb c n f).accord = s.accord := by unfold State.onComb; split <;> rfl
@[simp] theorem State.onStrand_clock (s : State) (w : Sid) (f : Strand → Strand) : (s.onStrand w f).clock = s.clock := State.onComb_clock s w.core w.slot _
@[simp] theorem State.onStrand_cur (s : State) (w : Sid) (f : Strand → Strand) : (s.onStrand w f).cur = s.cur := State.onComb_cur s w.core w.slot _
@[simp] theorem State.onStrand_inputs (s : State) (w : Sid) (f : Strand → Strand) : (s.onStrand w f).inputs = s.inputs := State.onComb_inputs s w.core w.slot _
@[simp] theorem State.onStrand_retry (s : State) (w : Sid) (f : Strand → Strand) : (s.onStrand w f).retry = s.retry := State.onComb_retry s w.core w.slot _
@[simp] theorem State.onStrand_memory (s : State) (w : Sid) (f : Strand → Strand) : (s.onStrand w f).memory = s.memory := State.onComb_memory s w.core w.slot _
@[simp] theorem State.onStrand_tlb (s : State) (w : Sid) (f : Strand → Strand) : (s.onStrand w f).tlb = s.tlb := State.onComb_tlb s w.core w.slot _
@[simp] theorem State.onStrand_tiers (s : State) (w : Sid) (f : Strand → Strand) : (s.onStrand w f).tiers = s.tiers := State.onComb_tiers s w.core w.slot _
@[simp] theorem State.onStrand_sched (s : State) (w : Sid) (f : Strand → Strand) : (s.onStrand w f).sched = s.sched := State.onComb_sched s w.core w.slot _
@[simp] theorem State.onStrand_mgmt (s : State) (w : Sid) (f : Strand → Strand) : (s.onStrand w f).mgmt = s.mgmt := State.onComb_mgmt s w.core w.slot _
@[simp] theorem State.onStrand_sec (s : State) (w : Sid) (f : Strand → Strand) : (s.onStrand w f).sec = s.sec := State.onComb_sec s w.core w.slot _
@[simp] theorem State.onStrand_host (s : State) (w : Sid) (f : Strand → Strand) : (s.onStrand w f).host = s.host := State.onComb_host s w.core w.slot _
@[simp] theorem State.onStrand_service (s : State) (w : Sid) (f : Strand → Strand) : (s.onStrand w f).service = s.service := State.onComb_service s w.core w.slot _
@[simp] theorem State.onStrand_life (s : State) (w : Sid) (f : Strand → Strand) : (s.onStrand w f).life = s.life := State.onComb_life s w.core w.slot _
@[simp] theorem State.onStrand_fabric (s : State) (w : Sid) (f : Strand → Strand) : (s.onStrand w f).fabric = s.fabric := State.onComb_fabric s w.core w.slot _
@[simp] theorem State.onStrand_accord (s : State) (w : Sid) (f : Strand → Strand) : (s.onStrand w f).accord = s.accord := State.onComb_accord s w.core w.slot _

end Sys2Proof.Machine
end

