-- ==== Sys2Proof/Laws/Words.lean ====
section
/-! SUPPORT. The bits of a mask built bit by bit, and the vectors of lanes. -/

namespace Sys2Proof

theorem Mask.of_sum (p : Nat → Bool) : ∀ n i, ((List.range n).foldl (fun acc i => if p i then acc + 2 ^ i else acc) 0).testBit i = (decide (i < n) && p i) ∧
    (List.range n).foldl (fun acc i => if p i then acc + 2 ^ i else acc) 0 < 2 ^ n
  | 0, i => by simp
  | n + 1, i => by
    have ih := fun j => Mask.of_sum p n j
    rw [List.range_succ, List.foldl_append]
    simp only [List.foldl_cons, List.foldl_nil]
    generalize hx : (List.range n).foldl (fun acc i => if p i then acc + 2 ^ i else acc) 0 = x at *
    have hlt : x < 2 ^ n := (ih 0).2
    by_cases hp : p n = true
    · simp only [hp, if_true]
      refine ⟨?_, by rw [Nat.pow_succ]; omega⟩
      by_cases hi : i = n
      · subst hi
        rw [Nat.add_comm, Nat.testBit_two_pow_add_eq, Nat.testBit_lt_two_pow hlt]
        simp [hp]
      · by_cases hin : i < n
        · rw [Nat.add_comm, Nat.testBit_two_pow_add_gt hin, (ih i).1]; simp [hin, Nat.lt_succ_of_lt hin]
        · have h1 : n < i := by omega
          rw [Nat.testBit_lt_two_pow]
          · simp [show ¬ i < n + 1 by omega]
          · calc x + 2 ^ n < 2 ^ (n + 1) := by rw [Nat.pow_succ]; omega
              _ ≤ 2 ^ i := Nat.pow_le_pow_right (by omega) h1
    · simp only [hp]
      refine ⟨?_, by rw [Nat.pow_succ]; simp; omega⟩
      simp only [Bool.false_eq_true, if_false]
      rw [(ih i).1]
      by_cases hin : i < n
      · simp [hin, Nat.lt_succ_of_lt hin]
      · by_cases hi : i = n
        · subst hi; simp [hp]
        · simp [hin, show ¬ i < n + 1 by omega]

/-- Bit `l` of a mask built from `p`. -/
@[simp] theorem Mask.getLsbD_of (p : Nat → Bool) (l : Nat) : (Mask.of p).getLsbD l = (decide (l < 32) && p l) := by
  unfold Mask.of
  rw [BitVec.getLsbD_ofNat, (Mask.of_sum p 32 l).1]
  simp

/-- A mask built from `p` is empty where `p` holds of no lane. -/
theorem Mask.of_eq_zero {p : Nat → Bool} : Mask.of p = 0 ↔ ∀ l < 32, p l = false := by
  constructor
  · intro h l hl
    have h2 := Mask.getLsbD_of p l
    rw [h] at h2
    have h3 : (0 : Mask).getLsbD l = false := by simp
    rw [h3] at h2
    simpa [hl] using h2.symm
  · intro h
    apply BitVec.eq_of_getLsbD_eq
    intro l hl
    rw [Mask.getLsbD_of, h l hl]
    simp

/-- A mask is the lanes that it holds. -/
theorem Mask.of_getLsbD (m : Mask) : (Mask.of fun l => m.getLsbD l) = m := by
  apply BitVec.eq_of_getLsbD_eq
  intro l hl
  rw [Mask.getLsbD_of]
  simp [hl]

/-- Masks built from predicates that agree on the lanes. -/
theorem Mask.of_congr {p q : Nat → Bool} (h : ∀ l < 32, p l = q l) : Mask.of p = Mask.of q := by
  apply BitVec.eq_of_getLsbD_eq
  intro l hl
  rw [Mask.getLsbD_of, Mask.getLsbD_of, h l hl]

/-- The lanes of a mask. -/
theorem Mask.mem_lanes {m : Mask} {l : Nat} : l ∈ Mask.lanes m ↔ l < 32 ∧ m.getLsbD l = true := by simp [Mask.lanes]

/-- A lane of lanes built from `f`. -/
@[simp] theorem Lanes.at_of (f : Nat → Word) {l : Nat} (h : l < 32) : (Lanes.of f).at l = f l := by simp [Lanes.of, Lanes.at, h]

/-- A lane of one value in every lane. -/
@[simp] theorem Lanes.at_all (w : Word) {l : Nat} (h : l < 32) : (Lanes.all w).at l = w := by simp [Lanes.all, Lanes.at, h]

end Sys2Proof

namespace Sys2Proof.Machine
open Sys2Proof

/-- No lane overflows. -/
theorem overflowMask_eq_zero {f : Nat → Int} {m : Mask} :
    overflowMask f m = 0 ↔ ∀ l < 32, m.getLsbD l = true → -(2 ^ 31 : Int) ≤ f l ∧ f l ≤ 2 ^ 31 - 1 := by
  unfold overflowMask
  rw [Mask.of_eq_zero]
  constructor
  · intro h l hl hm
    have := h l hl
    simp only [hm, Bool.true_and, Bool.or_eq_false_iff, decide_eq_false_iff_not] at this
    omega
  · intro h l hl
    cases hm : m.getLsbD l with
    | false => simp
    | true =>
      have := h l hl hm
      simp only [Bool.true_and, Bool.or_eq_false_iff, decide_eq_false_iff_not]
      omega

end Sys2Proof.Machine
end

