-- ==== Sys2Proof/Laws/Course.lean ====
section
/-! SUPPORT. The course of an instruction under the conditions of Safety: one lemma for each shared course. -/

namespace Sys2Proof.Machine
open Sys2Proof Sys2Proof.Safety

/-- A strand that is not in run-ahead at its issue ends none. -/
theorem aheadStops_normal {o : Op} {e : Enc} {s : State} (h : (s.strand s.cur).ahead = none) : (s.issue o e).aheadStops s = false := by
  simp [Issue.aheadStops, State.issue, h]

/-- Under `Issues` with a common fault, the instruction raises it. -/
theorem runStrand_trap {o : Op} {e : Enc} {s : State} {body : Issue → State → State} {t : Trap} (h : Issues o e s)
    (ht : (s.issue o e).firstTrap s = some t) : runStrand o e s body = s.raise (s.issue o e) t := by
  have hm : s.mayIssue (s.issue o e).w = true := h.may
  simp [runStrand, hm, h.free, aheadStops_normal h.normal, ht]

/-- Under `Clear`, a strand instruction takes its own course. -/
theorem runStrand_clear {o : Op} {e : Enc} {s : State} {body : Issue → State → State} (h : Clear o e s) :
    runStrand o e s body = body (s.issue o e) s := by
  have hm : s.mayIssue (s.issue o e).w = true := h.may
  simp [runStrand, hm, h.free, aheadStops_normal h.normal, h.checks]

/-- Under `Clear`, an instruction that only strands execute takes its own course. -/
theorem strandOnly_clear {o : Op} {e : Enc} {s : State} {body : Issue → State → State} (h : Clear o e s) :
    strandOnly o e s body = body (s.issue o e) s := by
  simp [strandOnly, h.strand, runStrand_clear h]

/-- As `runStrand_trap`, for an instruction that only strands execute. -/
theorem strandOnly_trap {o : Op} {e : Enc} {s : State} {body : Issue → State → State} {t : Trap} (h : Issues o e s)
    (ht : (s.issue o e).firstTrap s = some t) : strandOnly o e s body = s.raise (s.issue o e) t := by
  simp [strandOnly, h.strand, runStrand_trap h ht]

/-- As `runStrand_trap`, for an instruction that strands and streams execute. -/
theorem either_trap {o : Op} {e : Enc} {s : State} {body : Issue → State → State} {u : State} {t : Trap} (h : Issues o e s)
    (ht : (s.issue o e).firstTrap s = some t) : (if s.cur.strand = seqIndex then u else runStrand o e s body) = s.raise (s.issue o e) t := by
  rw [if_neg h.strand, runStrand_trap h ht]

/-- Every instruction raises the first of the common faults. -/
theorem raises_first {n : Instr} {o : Op} {e : Enc} {s : State} {t : Trap} (hp : n.parts = some (o, e)) (h : Issues o e s)
    (ht : (s.issue o e).firstTrap s = some t) : exec n s = .next (s.raise (s.issue o e) t) := by
  cases n <;> simp only [Instr.parts, Option.some.injEq, Prod.mk.injEq, reduceCtorEq] at hp <;> obtain ⟨rfl, rfl⟩ := hp <;> first
    | exact congrArg next (strandOnly_trap h ht)
    | exact congrArg next (either_trap h ht)
    | exact congrArg next ((if_neg h.strand).trans (either_trap h ht))

/-- With an active lane and no fault of its own, an instruction that ends no region has its effect and moves on. -/
theorem effect_done {check : Issue → State → Option Trap} {f : Issue → State → State} {i : Issue} {s : State}
    (ha : i.act ≠ 0) (hc : check i s = none) (hr : i.o.endsRegion i.e = false) : effect check f i s = (f i s).advance i := by
  unfold effect; rw [if_neg ha]; simp [hc, hr]

/-- As `effect_done`, for an instruction that ends an open region (R163). -/
theorem effect_ends {check : Issue → State → Option Trap} {f : Issue → State → State} {i : Issue} {s : State}
    (ha : i.act ≠ 0) (hc : check i s = none) (hr : i.o.endsRegion i.e = true) :
    effect check f i s = (f i (s.onStrand i.w Strand.closeRegion)).advance i := by
  unfold effect; rw [if_neg ha]; simp [hc, hr]

/-- A fault of its own. -/
theorem effect_trap {check : Issue → State → Option Trap} {f : Issue → State → State} {i : Issue} {s : State} {t : Trap}
    (ha : i.act ≠ 0) (hc : check i s = some t) : effect check f i s = s.raise i t := by
  unfold effect; rw [if_neg ha]; simp [hc]

/-- With an empty active mask an instruction only falls through (R29). -/
theorem effect_empty {check : Issue → State → Option Trap} {f : Issue → State → State} {i : Issue} {s : State}
    (ha : i.act = 0) : effect check f i s = s.advance i := by
  simp [effect, ha]

/-- A legal instruction of a stream takes its own course. -/
theorem runStream_active {o : Op} {e : Enc} {s : State} {x : Stream} {body : Nat → Stream → State → State} (h : StreamActive o e s x) :
    runStream o e s body = body s.cur.core x s := by
  have hf := h.free
  simp only [runStream, h.runs, h.may, hf, h.legal, h.clean]
  simp

/-- The result of an instruction in a strand, where .ov finds nothing. -/
theorem compute_strand {o : Op} {e : Enc} {s : State} {exact : Option (Args → Nat → Int)} {val : Args → Nat → Word} (h : Active o e s)
    (hr : o.endsRegion e = false)
    (hov : ∀ f, exact = some f → e.qbit 0 = true → (s.issue o e).ovTrap (f ((s.issue o e).args s)) = none) :
    compute o e s exact val = (s.writeD (s.issue o e) (val ((s.issue o e).args s))).advance (s.issue o e) := by
  have hs := h.strand
  unfold compute
  simp only [hs, if_false, runStrand_clear h.toClear]
  apply effect_done (f := fun i s => s.writeD i (val (i.args s))) h.active _ hr
  cases exact with
  | none => simp
  | some f => by_cases hq : e.qbit 0 = true <;> simp [hq, hov f rfl]

/-- AFFINE_OVERFLOW of an instruction with .ov in a strand. -/
theorem compute_overflow {o : Op} {e : Enc} {s : State} {f : Args → Nat → Int} {val : Args → Nat → Word} {t : Trap} (h : Active o e s)
    (hq : e.qbit 0 = true) (hov : (s.issue o e).ovTrap (f ((s.issue o e).args s)) = some t) :
    compute o e s (some f) val = s.raise (s.issue o e) t := by
  have hs := h.strand
  unfold compute
  simp only [hs, if_false, runStrand_clear h.toClear, hq, if_true]
  exact effect_trap h.active hov

/-- The result of an instruction in a stream, where .ov finds nothing. -/
theorem compute_stream {o : Op} {e : Enc} {s : State} {x : Stream} {exact : Option (Args → Nat → Int)} {val : Args → Nat → Word}
    (h : StreamActive o e s x)
    (hov : ∀ f, exact = some f → e.qbit 0 = true → overflowMask (f (s.seqArgs s.cur.core x o e)) 1 = 0) :
    compute o e s exact val = seqWrite e (val (s.seqArgs s.cur.core x o e) 0) s.cur.core x s := by
  unfold compute
  simp only [h.stream, if_true, runStream_active h]
  cases exact with
  | none => simp
  | some f =>
    by_cases hq : e.qbit 0 = true
    · simp only [hq, if_true, hov f rfl hq]
    · simp [hq]

/-- No overflow trap where every exact value stays in range. -/
theorem ovTrap_inRange {o : Op} {e : Enc} {s : State} {g : Issue → Nat → Int} (h : InRange o e s g) (hq : e.qbit 0 = true) :
    (s.issue o e).ovTrap (g (s.issue o e)) = none := by
  have h := h hq
  unfold Issue.ovTrap
  cases hd : (s.issue o e).dClass with
  | a =>
    have : overflowMask (g (s.issue o e)) (BitVec.allOnes 32) = 0 := by
      rw [overflowMask_eq_zero]; intro l hl _
      exact h l hl (by simp [hd])
    exact if_pos this
  | s =>
    have : overflowMask (g (s.issue o e)) 1 = 0 := by
      rw [overflowMask_eq_zero]; intro l hl hb
      exact h l hl (by simp at hb; simp [hd, hb])
    exact if_pos this
  | v =>
    have : overflowMask (g (s.issue o e)) (s.issue o e).act = 0 := by
      rw [overflowMask_eq_zero]; intro l hl hb
      exact h l hl (by simp [hd, hb])
    exact if_pos this
  | k =>
    have : overflowMask (g (s.issue o e)) (s.issue o e).act = 0 := by
      rw [overflowMask_eq_zero]; intro l hl hb
      exact h l hl (by simp [hd, hb])
    exact if_pos this
  | n =>
    have : overflowMask (g (s.issue o e)) (s.issue o e).act = 0 := by
      rw [overflowMask_eq_zero]; intro l hl hb
      exact h l hl (by simp [hd, hb])
    exact if_pos this

/-- An instruction that computes a value without .ov completes. -/
theorem results_of_compute {n : Instr} {o : Op} {e : Enc} {s : State} {val : Args → Nat → Word} {f : Issue → Nat → Word}
    (hn : exec n s = next (compute o e s none val)) (hr : o.endsRegion e = false)
    (hv : ∀ l, val ((s.issue o e).args s) l = f (s.issue o e) l) (h : Active o e s) : Results n o e s f := by
  unfold Results
  rw [hn, compute_strand h hr (by simp)]
  have : val ((s.issue o e).args s) = f (s.issue o e) := funext hv
  rw [this]; rfl

/-- An instruction that computes a value completes where its exact values stay in range. -/
theorem results_of_inRange {n : Instr} {o : Op} {e : Enc} {s : State} {val : Args → Nat → Word} {f : Issue → Nat → Word} {ex : Args → Nat → Int} {g : Issue → Nat → Int}
    (hn : exec n s = next (compute o e s (some ex) val)) (hr : o.endsRegion e = false)
    (hv : ∀ l, val ((s.issue o e).args s) l = f (s.issue o e) l) (h : Active o e s)
    (hg : ∀ l, ex ((s.issue o e).args s) l = g (s.issue o e) l)
    (hi : InRange o e s g) : Results n o e s f := by
  unfold Results
  rw [hn, compute_strand h hr]
  · have : val ((s.issue o e).args s) = f (s.issue o e) := funext hv
    rw [this]; rfl
  · intro f' hf hq
    cases hf
    rw [show ex ((s.issue o e).args s) = g (s.issue o e) from funext hg]
    exact ovTrap_inRange hi hq

/-- Without .ov an instruction that computes a value completes whatever its exact values. -/
theorem results_of_plain {n : Instr} {o : Op} {e : Enc} {s : State} {val : Args → Nat → Word} {f : Issue → Nat → Word} {ex : Option (Args → Nat → Int)}
    (hn : exec n s = next (compute o e s ex val)) (hr : o.endsRegion e = false)
    (hv : ∀ l, val ((s.issue o e).args s) l = f (s.issue o e) l) (h : Active o e s) (hq : e.qbit 0 = false) : Results n o e s f := by
  unfold Results
  rw [hn, compute_strand h hr (fun _ _ h' => by simp [hq] at h')]
  have : val ((s.issue o e).args s) = f (s.issue o e) := funext hv
  rw [this]; rfl

/-- A fault of an instruction outside run-ahead enters the handler (R414). -/
theorem raise_enters {s : State} {i : Issue} {t : Trap} (hn : (s.strand i.w).ahead = none) (h : MayTrap s i.w) :
    s.raise i t = s.onStrand i.w fun st => st.enterTrap t.cause.code t.tval i.pc i.group false := by
  simp [State.raise, hn, h.entry, State.takeTrap, h.act]

/-- Every instruction with a common fault enters the handler for the first. -/
theorem traps_first {n : Instr} {o : Op} {e : Enc} {s : State} {t : Trap} (hp : n.parts = some (o, e)) (h : Issues o e s)
    (ht : (s.issue o e).firstTrap s = some t) : Traps n o e s t := by
  intro hm
  rw [raises_first hp h ht, raise_enters (show (s.strand (s.issue o e).w).ahead = none from h.normal) (show MayTrap s (s.issue o e).w from hm)]
  rfl

/-- An instruction whose own check finds a fault enters the handler. -/
theorem traps_of {n : Instr} {o : Op} {e : Enc} {s : State} {check f t} (h : Active o e s)
    (hn : exec n s = next (strandOnly o e s (effect check f))) (hc : check (s.issue o e) s = some t) : Traps n o e s t := by
  intro hm
  rw [hn, strandOnly_clear h.toClear, effect_trap h.active hc, raise_enters (show (s.strand (s.issue o e).w).ahead = none from h.normal) (show MayTrap s (s.issue o e).w from hm)]
  rfl

/-- An instruction that changes its strand completes. -/
theorem changes_of {n : Instr} {o : Op} {e : Enc} {s : State} {check} {f : Issue → State → State} {g} (h : Active o e s)
    (hn : exec n s = next (strandOnly o e s (effect check f))) (hr : o.endsRegion e = false) (hc : check (s.issue o e) s = none)
    (hf : f (s.issue o e) s = s.onStrand s.cur (g (s.issue o e))) : Changes n o e s g := by
  unfold Changes
  rw [hn, strandOnly_clear h.toClear, effect_done h.active hc hr, hf]; rfl

/-- An instruction that writes a uniform field completes. -/
theorem sets_of {n : Instr} {o : Op} {e : Enc} {s : State} {check} {f : Issue → State → State} {g} (h : Active o e s)
    (hn : exec n s = next (strandOnly o e s (effect check f))) (hr : o.endsRegion e = false) (hc : check (s.issue o e) s = none)
    (hf : f (s.issue o e) s = s.writeS s.cur e.d.toNat (g (s.issue o e))) : Sets n o e s g := by
  unfold Sets
  rw [hn, strandOnly_clear h.toClear, effect_done h.active hc hr, hf]; rfl

end Sys2Proof.Machine
end

