-- ==== Sys2Proof/Laws/Strand.lean ====
section
/-! SUPPORT. What the updates of a strand change: registers, PCs, the special registers; and what moving the issuing lanes leaves alone. -/

namespace Sys2Proof.Machine
open Sys2Proof

/-! The PC table. -/

@[simp] theorem Strand.move_regs (st : Strand) (m : Mask) (f : Nat → Pc) : (st.move m f).regs = st.regs := by simp only [Strand.move]
@[simp] theorem Strand.move_live (st : Strand) (m : Mask) (f : Nat → Pc) : (st.move m f).live = st.live := by simp only [Strand.move]
@[simp] theorem Strand.move_trap (st : Strand) (m : Mask) (f : Nat → Pc) : (st.move m f).trap = st.trap := by simp only [Strand.move]
@[simp] theorem Strand.move_sp (st : Strand) (m : Mask) (f : Nat → Pc) : (st.move m f).sp = st.sp := by simp only [Strand.move]
@[simp] theorem Strand.move_flight (st : Strand) (m : Mask) (f : Nat → Pc) : (st.move m f).flight = st.flight := by simp only [Strand.move]
@[simp] theorem Strand.move_region (st : Strand) (m : Mask) (f : Nat → Pc) : (st.move m f).region = st.region := by simp only [Strand.move]
@[simp] theorem Strand.move_ahead (st : Strand) (m : Mask) (f : Nat → Pc) : (st.move m f).ahead = st.ahead := by simp only [Strand.move]
@[simp] theorem Strand.move_marks (st : Strand) (m : Mask) (f : Nat → Pc) : (st.move m f).marks = st.marks := by simp only [Strand.move]
@[simp] theorem Strand.move_sched (st : Strand) (m : Mask) (f : Nat → Pc) : (st.move m f).sched = st.sched := by simp only [Strand.move]

/-- The PC of a lane after a move. -/
theorem Strand.move_pc (st : Strand) (m : Mask) (f : Nat → Pc) {l : Nat} (h : l < 32) :
    (st.move m f).pc l = if m.getLsbD l then f l else st.pc l := by
  simp [Strand.pc, Strand.move, h]

@[simp] theorem Strand.account_regs (st b : Strand) (c : Nat) : (st.account b c).regs = st.regs := by simp only [Strand.account]
@[simp] theorem Strand.account_live (st b : Strand) (c : Nat) : (st.account b c).live = st.live := by simp only [Strand.account]
@[simp] theorem Strand.account_pcs (st b : Strand) (c : Nat) : (st.account b c).pcs = st.pcs := by simp only [Strand.account]
@[simp] theorem Strand.account_trap (st b : Strand) (c : Nat) : (st.account b c).trap = st.trap := by simp only [Strand.account]
@[simp] theorem Strand.account_sp (st b : Strand) (c : Nat) : (st.account b c).sp = st.sp := by simp only [Strand.account]
@[simp] theorem Strand.account_flight (st b : Strand) (c : Nat) : (st.account b c).flight = st.flight := by simp only [Strand.account]
@[simp] theorem Strand.account_region (st b : Strand) (c : Nat) : (st.account b c).region = st.region := by simp only [Strand.account]
@[simp] theorem Strand.account_ahead (st b : Strand) (c : Nat) : (st.account b c).ahead = st.ahead := by simp only [Strand.account]
@[simp] theorem Strand.account_marks (st b : Strand) (c : Nat) : (st.account b c).marks = st.marks := by simp only [Strand.account]

/-- Outside run-ahead no invalid mark changes. -/
theorem Strand.markAhead_none {st : Strand} {s : State} {i : Issue} (h : st.ahead = none) : st.markAhead s i = st := by
  simp only [Strand.markAhead, h]

theorem Strand.markAhead_cases (st : Strand) (s : State) (i : Issue) : ∃ a, st.markAhead s i = { st with ahead := a } := by
  unfold Strand.markAhead
  split
  · rename_i h; exact ⟨st.ahead, rfl⟩
  · split
    · exact ⟨st.ahead, rfl⟩
    · exact ⟨_, rfl⟩

@[simp] theorem Strand.markAhead_regs (st : Strand) (s : State) (i : Issue) : (st.markAhead s i).regs = st.regs := by
  obtain ⟨a, h⟩ := st.markAhead_cases s i; rw [h]
@[simp] theorem Strand.markAhead_live (st : Strand) (s : State) (i : Issue) : (st.markAhead s i).live = st.live := by
  obtain ⟨a, h⟩ := st.markAhead_cases s i; rw [h]
@[simp] theorem Strand.markAhead_pcs (st : Strand) (s : State) (i : Issue) : (st.markAhead s i).pcs = st.pcs := by
  obtain ⟨a, h⟩ := st.markAhead_cases s i; rw [h]
@[simp] theorem Strand.markAhead_trap (st : Strand) (s : State) (i : Issue) : (st.markAhead s i).trap = st.trap := by
  obtain ⟨a, h⟩ := st.markAhead_cases s i; rw [h]
@[simp] theorem Strand.markAhead_sp (st : Strand) (s : State) (i : Issue) : (st.markAhead s i).sp = st.sp := by
  obtain ⟨a, h⟩ := st.markAhead_cases s i; rw [h]
@[simp] theorem Strand.markAhead_flight (st : Strand) (s : State) (i : Issue) : (st.markAhead s i).flight = st.flight := by
  obtain ⟨a, h⟩ := st.markAhead_cases s i; rw [h]
@[simp] theorem Strand.markAhead_region (st : Strand) (s : State) (i : Issue) : (st.markAhead s i).region = st.region := by
  obtain ⟨a, h⟩ := st.markAhead_cases s i; rw [h]
@[simp] theorem Strand.markAhead_marks (st : Strand) (s : State) (i : Issue) : (st.markAhead s i).marks = st.marks := by
  obtain ⟨a, h⟩ := st.markAhead_cases s i; rw [h]

/-- The strand after its issuing lanes have moved. -/
theorem State.strand_moveTo {s : State} {i : Issue} (f : Nat → Pc) (h : (s.comb? i.w.core i.w.slot).isSome = true) :
    (s.moveTo i f).strand i.w = (((s.strand i.w).move i.group f).account i.st s.clock.cycle).markAhead s i := State.strand_onStrand _ h

/-- The PC of a lane after the issuing lanes have moved. -/
theorem State.moveTo_pc {s : State} {i : Issue} (f : Nat → Pc) (h : (s.comb? i.w.core i.w.slot).isSome = true) {l : Nat} (hl : l < 32) :
    ((s.moveTo i f).strand i.w).pc l = if i.group.getLsbD l then f l else (s.strand i.w).pc l := by
  rw [State.strand_moveTo f h, ← Strand.move_pc _ _ _ hl]
  unfold Strand.pc
  simp only [Strand.markAhead_pcs, Strand.account_pcs]

/-- The registers of the strand do not change when its lanes move. -/
theorem State.moveTo_regs {s : State} {i : Issue} (f : Nat → Pc) (h : (s.comb? i.w.core i.w.slot).isSome = true) :
    ((s.moveTo i f).strand i.w).regs = (s.strand i.w).regs := by
  rw [State.strand_moveTo f h]; simp

@[simp] theorem State.moveTo_clock (s : State) (i : Issue) (f : Nat → Pc) : (s.moveTo i f).clock = s.clock := State.onStrand_clock s i.w _
@[simp] theorem State.advance_clock (s : State) (i : Issue) : (s.advance i).clock = s.clock := State.onStrand_clock s i.w _
@[simp] theorem State.moveTo_cur (s : State) (i : Issue) (f : Nat → Pc) : (s.moveTo i f).cur = s.cur := State.onStrand_cur s i.w _
@[simp] theorem State.advance_cur (s : State) (i : Issue) : (s.advance i).cur = s.cur := State.onStrand_cur s i.w _
@[simp] theorem State.moveTo_inputs (s : State) (i : Issue) (f : Nat → Pc) : (s.moveTo i f).inputs = s.inputs := State.onStrand_inputs s i.w _
@[simp] theorem State.advance_inputs (s : State) (i : Issue) : (s.advance i).inputs = s.inputs := State.onStrand_inputs s i.w _
@[simp] theorem State.moveTo_retry (s : State) (i : Issue) (f : Nat → Pc) : (s.moveTo i f).retry = s.retry := State.onStrand_retry s i.w _
@[simp] theorem State.advance_retry (s : State) (i : Issue) : (s.advance i).retry = s.retry := State.onStrand_retry s i.w _
@[simp] theorem State.moveTo_memory (s : State) (i : Issue) (f : Nat → Pc) : (s.moveTo i f).memory = s.memory := State.onStrand_memory s i.w _
@[simp] theorem State.advance_memory (s : State) (i : Issue) : (s.advance i).memory = s.memory := State.onStrand_memory s i.w _
@[simp] theorem State.moveTo_tlb (s : State) (i : Issue) (f : Nat → Pc) : (s.moveTo i f).tlb = s.tlb := State.onStrand_tlb s i.w _
@[simp] theorem State.advance_tlb (s : State) (i : Issue) : (s.advance i).tlb = s.tlb := State.onStrand_tlb s i.w _
@[simp] theorem State.moveTo_tiers (s : State) (i : Issue) (f : Nat → Pc) : (s.moveTo i f).tiers = s.tiers := State.onStrand_tiers s i.w _
@[simp] theorem State.advance_tiers (s : State) (i : Issue) : (s.advance i).tiers = s.tiers := State.onStrand_tiers s i.w _
@[simp] theorem State.moveTo_sched (s : State) (i : Issue) (f : Nat → Pc) : (s.moveTo i f).sched = s.sched := State.onStrand_sched s i.w _
@[simp] theorem State.advance_sched (s : State) (i : Issue) : (s.advance i).sched = s.sched := State.onStrand_sched s i.w _
@[simp] theorem State.moveTo_mgmt (s : State) (i : Issue) (f : Nat → Pc) : (s.moveTo i f).mgmt = s.mgmt := State.onStrand_mgmt s i.w _
@[simp] theorem State.advance_mgmt (s : State) (i : Issue) : (s.advance i).mgmt = s.mgmt := State.onStrand_mgmt s i.w _
@[simp] theorem State.moveTo_sec (s : State) (i : Issue) (f : Nat → Pc) : (s.moveTo i f).sec = s.sec := State.onStrand_sec s i.w _
@[simp] theorem State.advance_sec (s : State) (i : Issue) : (s.advance i).sec = s.sec := State.onStrand_sec s i.w _
@[simp] theorem State.moveTo_host (s : State) (i : Issue) (f : Nat → Pc) : (s.moveTo i f).host = s.host := State.onStrand_host s i.w _
@[simp] theorem State.advance_host (s : State) (i : Issue) : (s.advance i).host = s.host := State.onStrand_host s i.w _
@[simp] theorem State.moveTo_service (s : State) (i : Issue) (f : Nat → Pc) : (s.moveTo i f).service = s.service := State.onStrand_service s i.w _
@[simp] theorem State.advance_service (s : State) (i : Issue) : (s.advance i).service = s.service := State.onStrand_service s i.w _
@[simp] theorem State.moveTo_life (s : State) (i : Issue) (f : Nat → Pc) : (s.moveTo i f).life = s.life := State.onStrand_life s i.w _
@[simp] theorem State.advance_life (s : State) (i : Issue) : (s.advance i).life = s.life := State.onStrand_life s i.w _
@[simp] theorem State.moveTo_fabric (s : State) (i : Issue) (f : Nat → Pc) : (s.moveTo i f).fabric = s.fabric := State.onStrand_fabric s i.w _
@[simp] theorem State.advance_fabric (s : State) (i : Issue) : (s.advance i).fabric = s.fabric := State.onStrand_fabric s i.w _
@[simp] theorem State.moveTo_accord (s : State) (i : Issue) (f : Nat → Pc) : (s.moveTo i f).accord = s.accord := State.onStrand_accord s i.w _
@[simp] theorem State.advance_accord (s : State) (i : Issue) : (s.advance i).accord = s.accord := State.onStrand_accord s i.w _

end Sys2Proof.Machine
end

