-- ==== Sys2Proof/Laws/Access.lean ====
section
/-! SUPPORT. The checks of R183: what an access comes to where every check passes, and where the first of them fails. -/

namespace Sys2Proof.Machine
open Sys2Proof Sys2Proof.Safety

theorem spotsOf_ok (l : List Spot) : spotsOf (l.map Located.ok) = l := by
  induction l with
  | nil => rfl
  | cons x t ih => simpa [spotsOf] using ih

theorem faultsOf_ok (l : List Spot) : faultsOf (l.map Located.ok) = [] := by
  induction l with
  | nil => rfl
  | cons x t ih => simpa [faultsOf] using ih

theorem protectOf_ok (l : List Spot) : protectOf (l.map Located.ok) = none := by
  have : ((l.map Located.ok).findSome? fun x => match x with | .protect a => some a | _ => none) = none := by
    induction l with
    | nil => rfl
    | cons x t ih => simpa using ih
  simp [protectOf, this]

theorem locate_lane {s : State} {w : Sid} {p : Bool} {acc : Access} {x : Nat × Nat} {y : Spot} (h : s.locate w p acc x = .ok y) : y.lane = x.1 := by
  unfold State.locate at h
  split at h
  · injection h with h; rw [← h]
  · cases h
  · cases h
  · cases h

theorem locateAll_lanes {s : State} {w : Sid} {p : Bool} {sp : Space} {acc : Access} {l : List (Nat × Nat)} {spots : List Spot}
    (h : s.locateAll w p sp acc l = spots.map Located.ok) : spots.map (fun x => x.lane) = l.map (fun x => x.1) := by
  have key : ∀ (f : Nat × Nat → Located), (∀ x y, f x = .ok y → y.lane = x.1) → ∀ (l : List (Nat × Nat)) (spots : List Spot),
      l.map f = spots.map Located.ok → spots.map (fun x => x.lane) = l.map (fun x => x.1) := by
    intro f hf l
    induction l with
    | nil => intro spots h; cases spots with | nil => rfl | cons _ _ => cases h
    | cons x t ih =>
      intro spots h
      cases spots with
      | nil => cases h
      | cons y u =>
        simp only [List.map_cons, List.cons.injEq] at h ⊢
        exact ⟨hf _ _ h.1, ih u h.2⟩
  cases sp with
  | global => exact key _ (fun _ _ hx => locate_lane hx) l spots h
  | lm => exact key _ (fun x y hx => by injection hx with hx; rw [← hx]) l spots h
  | peer => exact key _ (fun x y hx => by injection hx with hx; rw [← hx]) l spots h
  | fabric => exact key _ (fun x y hx => by injection hx with hx; rw [← hx]) l spots h

/-- Where every check passes, the accesses are performed, every lane among them, and the TLBs remember the translations. -/
theorem access_reaches {s : State} {i : Issue} {sp : Space} {l : List (Nat × Nat)} {n : Need} {spots : List Spot}
    (perform : List Spot → List Nat → State → State) (h : Reaches s i sp l n spots) :
    s.access i sp l n perform = perform spots [] (s.rememberAll i.w sp l) := by
  have h1 : alignTrap n.size l = none := by
    simp only [alignTrap, Option.map_eq_none_iff, List.find?_eq_none]
    intro x hx; simp [h.aligned x hx]
  have h2 : s.rangeTrap i.w sp n.size l = none := by
    simp only [State.rangeTrap, Option.map_eq_none_iff, List.find?_eq_none]
    intro x hx; simp [h.ranged x hx]
  have h3 : s.lockTrap i.w sp n.use n.size spots = none := by
    simp only [State.lockTrap, Option.map_eq_none_iff, List.find?_eq_none]
    intro x hx; simp [h.unlocked x hx]
  have h4 : s.unreachTrap sp spots = none := by
    unfold State.unreachTrap
    split
    · rename_i hs
      simp only [Option.map_eq_none_iff, List.find?_eq_none]
      intro x hx; simp [h.reachable hs x hx]
    · rfl
  have h5 : (spots.map Located.ok).contains Located.waits = false := by simp
  have h6 : ((l.filter fun y => !spots.any fun p => p.lane == y.1).map fun y => y.1) = [] := by
    have hl := locateAll_lanes h.located
    rw [List.map_eq_nil_iff, List.filter_eq_nil_iff]
    intro x hx
    have : x.1 ∈ spots.map (fun x => x.lane) := by rw [hl]; exact List.mem_map_of_mem hx
    obtain ⟨y, hy, he⟩ := List.mem_map.mp this
    simp only [Bool.not_eq_true', Bool.not_eq_false, List.any_eq_true]
    exact ⟨y, hy, by simp [he]⟩
  unfold State.access
  simp only [h1, h2, h.located, spotsOf_ok, faultsOf_ok, protectOf_ok, h5, h.more, h3, h4, h6]
  simp

/-- The first check: a misaligned address raises MISALIGNED. -/
theorem access_misaligned {s : State} {i : Issue} {sp : Space} {l : List (Nat × Nat)} {n : Need} {t : Trap}
    (perform : List Spot → List Nat → State → State) (h : alignTrap n.size l = some t) : s.access i sp l n perform = s.raise i t := by
  simp [State.access, h]

/-- The second check: an address outside the space raises PAGE_PROTECT. -/
theorem access_range {s : State} {i : Issue} {sp : Space} {l : List (Nat × Nat)} {n : Need} {t : Trap}
    (perform : List Spot → List Nat → State → State) (h1 : alignTrap n.size l = none) (h : s.rangeTrap i.w sp n.size l = some t) :
    s.access i sp l n perform = s.raise i t := by
  simp [State.access, h1, h]

end Sys2Proof.Machine
end

