-- ==== Sys2Proof/Laws/Memory.lean ====
section
/-! SUPPORT. Every operation that changes memory keeps its canonical form, and reset has it. -/

namespace Sys2Proof.Machine
open Sys2Proof

theorem Tab.above_filter {α : Type} {d : α} (p : Nat × α → Bool) : ∀ {n : Nat} {t : Tab α}, Tab.above d n t → Tab.above d n (t.filter p)
  | _, [], h => h
  | n, (k, v) :: t, h => by
    have ih := Tab.above_filter p h.2.2
    rw [List.filter_cons]
    split
    · exact ⟨h.1, h.2.1, ih⟩
    · exact Tab.above_mono (by have := h.1; omega) ih

/-- Leaving out entries keeps the canonical form. -/
theorem Tab.wf_filter {α : Type} [DecidableEq α] {d : α} (p : Nat × α → Bool) {t : Tab α} (h : Tab.wf d t = true) : Tab.wf d (t.filter p) = true :=
  Tab.wf_iff.mpr (Tab.above_filter p (Tab.wf_iff.mp h))

@[simp] theorem State.mapStrands_memory (s : State) (f : Strand → Strand) : (s.mapStrands f).memory = s.memory := rfl

/-- A write-back changes no byte. -/
theorem State.lineCleaned_mem (s : State) (line : Nat) : (s.lineCleaned line).memory.mem = s.memory.mem := rfl

theorem State.displaceL2_mem (s : State) (line : Nat) : (s.displaceL2 line).memory.mem = s.memory.mem := by
  unfold State.displaceL2
  split
  · simp only [State.onMem]; split <;> rfl
  · simp only [State.onMem]; split <;> rfl

theorem State.roomL2_mem (s : State) (line : Nat) : (s.roomL2 line).memory.mem = s.memory.mem := by
  unfold State.roomL2
  simp only
  split
  · rfl
  · split
    · exact State.displaceL2_mem _ _
    · rfl

theorem State.fillL2_mem (s : State) (line : Nat) : (s.fillL2 line).memory.mem = s.memory.mem := by
  unfold State.fillL2
  split
  · rfl
  · simp only
    split
    · exact State.roomL2_mem s line
    · exact State.roomL2_mem s line

theorem State.holdHost_mem (s : State) (line how : Nat) : (s.holdHost line how).memory.mem = s.memory.mem := by
  unfold State.holdHost; split
  · exact State.roomL2_mem s line
  · rfl

theorem State.onL1s_mem (s : State) (die : Nat) (f : Tab (Option Copy) → Tab (Option Copy)) : (s.onL1s die f).memory.mem = s.memory.mem := rfl

theorem State.applyLine_mem (s : State) (line : Nat) (mask : Dbl) (data : LineBits) :
    (s.applyLine line mask data).memory.mem = Mem.writeMasked s.memory.mem line mask.toNat data.toNat 64 := by
  have key : (if s.isOwned line then s else s.fillL2 line).memory.mem = s.memory.mem := by
    split
    · rfl
    · exact State.fillL2_mem s line
  unfold State.applyLine
  simp only
  split
  · rw [State.lineCleaned_mem, State.holdHost_mem]
    simp only [State.clearResv, State.mapStrands_memory, State.onL1s_mem, State.onMem, key]
  · rw [State.holdHost_mem]
    simp only [State.clearResv, State.mapStrands_memory, State.onL1s_mem, State.onMem, key]

theorem State.takeEvicted_mem (s : State) (line : Nat) : (s.takeEvicted line).memory.mem = s.memory.mem := by
  unfold State.takeEvicted; split <;> rfl

theorem State.recall_mem (s : State) (line : Nat) : (s.recall line).memory.mem = s.memory.mem := by
  unfold State.recall; split
  · rfl
  · exact State.takeEvicted_mem s line

theorem State.countAccess_mem (s : State) (line : Nat) : (s.countAccess line).memory.mem = s.memory.mem := by
  unfold State.countAccess; split <;> rfl

/-- An access at the home changes no byte. -/
theorem State.atHome_mem (s : State) (line : Nat) : (s.atHome line).memory.mem = s.memory.mem := by
  unfold State.atHome; rw [State.fillL2_mem, State.recall_mem]

/-- A store applied to a line. -/
theorem State.applyLine_wf {s : State} (line : Nat) (mask : Dbl) (data : LineBits) (h : s.memory.wf = true) : (s.applyLine line mask data).memory.wf = true := by
  unfold Memory.wf at *; rw [State.applyLine_mem]; exact Mem.wf_writeMasked 64 _ _ _ h

/-- A write at a home. -/
theorem State.homeWrite_wf {s : State} (pa n v : Nat) (h : s.memory.wf = true) : (s.homeWrite pa n v).memory.wf = true := State.applyLine_wf _ _ _ h

/-- A store at a home. -/
theorem State.homeStore_wf {s : State} (pa n v : Nat) (h : s.memory.wf = true) : (s.homeStore pa n v).memory.wf = true := by
  refine State.homeWrite_wf pa n v ?_
  unfold Memory.wf at *; rw [State.atHome_mem]; exact h

/-- Bytes written at homes. -/
theorem State.homeCells_wf : ∀ (l : List (Nat × Byte)) {s : State}, s.memory.wf = true → (s.homeCells l).memory.wf = true
  | [], _, h => h
  | (a, b) :: t, _, h => State.homeCells_wf t (State.homeWrite_wf a 1 b.toNat h)

/-- An extent filled with what its backing holds. -/
theorem State.fillExtent_wf {s : State} (l : Lease) (keep : List Nat) (c : List (Nat × Byte)) (h : s.memory.wf = true) : (s.fillExtent l keep c).memory.wf = true :=
  Mem.wf_writeCells _ (Tab.wf_filter _ h)

/-- A dirty line discarded. -/
theorem State.discardLine_wf {s : State} (x : Nat × LineBits) (h : s.memory.wf = true) : (s.discardLine x).memory.wf = true := by
  have e : (s.discardLine x).memory.mem = Mem.writeMasked s.memory.mem x.1 (2 ^ 64 - 1) x.2.toNat 64 := by
    unfold State.discardLine State.count State.lineCleaned State.onMem; simp only
  unfold Memory.wf at *; rw [e]; exact Mem.wf_writeMasked 64 _ _ _ h

/-- A reset keeps the host's bytes. -/
theorem State.restart_wf {s : State} (life : Life) (lock : Bool) (h : s.memory.wf = true) : (s.restart life lock).memory.wf = true := Tab.wf_filter _ h

/-- The memory of reset. -/
theorem State.reset_wf : State.reset.memory.wf = true := rfl

/-- The memory of the machine that runs one instruction next. -/
theorem State.withFetchWord_wf (s : State) (nbits w : Nat) : (s.withFetchWord nbits w).memory.wf = true := Mem.wf_writeCells _ rfl

end Sys2Proof.Machine
end

