-- ==== Sys2Proof/Laws/Trap.lean ====
section
/-! SUPPORT. What trap entry (R414) and the return (R417) leave in a strand, field by field. -/

namespace Sys2Proof.Machine
open Sys2Proof

variable (st : Strand) (cause : Nat) (tval : Dbl) (tpc : Pc) (group : Mask) (seq : Bool)

theorem Strand.enterTrap_pcs : (st.enterTrap cause tval tpc group seq).pcs = (st.move st.live fun _ => st.trap.tvec.setWidth 57).pcs := by
  simp only [Strand.enterTrap, Strand.move, Strand.loseResv]

/-- Every live lane moves to TVEC. -/
theorem Strand.enterTrap_pc {l : Nat} (h : l < 32) :
    (st.enterTrap cause tval tpc group seq).pc l = if st.live.getLsbD l then st.trap.tvec.setWidth 57 else st.pc l := by
  rw [← Strand.move_pc st st.live (fun _ => st.trap.tvec.setWidth 57) h]
  unfold Strand.pc
  rw [Strand.enterTrap_pcs]

/-- The frame takes the PCs of the live lanes. -/
theorem Strand.enterTrap_frame {l : Nat} (h : l < 32) :
    (st.enterTrap cause tval tpc group seq).trap.frame[l]? = some (if st.live.getLsbD l then st.pc l else st.trap.frame[l]) := by
  simp only [Strand.enterTrap, Strand.pc]
  simp [h]

@[simp] theorem Strand.enterTrap_tmask : (st.enterTrap cause tval tpc group seq).trap.tmask = group := by simp only [Strand.enterTrap]
@[simp] theorem Strand.enterTrap_tpc : (st.enterTrap cause tval tpc group seq).trap.tpc = tpc.setWidth 64 := by simp only [Strand.enterTrap]
@[simp] theorem Strand.enterTrap_tval : (st.enterTrap cause tval tpc group seq).trap.tval = tval := by simp only [Strand.enterTrap]
@[simp] theorem Strand.enterTrap_tcause : (st.enterTrap cause tval tpc group seq).trap.tcause = tcauseWord true st.trap.priv seq cause := by
  simp only [Strand.enterTrap, Strand.move, Strand.loseResv]
@[simp] theorem Strand.enterTrap_priv : (st.enterTrap cause tval tpc group seq).trap.priv = true := by simp only [Strand.enterTrap]
@[simp] theorem Strand.enterTrap_tvec : (st.enterTrap cause tval tpc group seq).trap.tvec = st.trap.tvec := by simp only [Strand.enterTrap, Strand.move, Strand.loseResv]
@[simp] theorem Strand.enterTrap_tscr0 : (st.enterTrap cause tval tpc group seq).trap.tscr0 = st.trap.tscr0 := by simp only [Strand.enterTrap, Strand.move, Strand.loseResv]
@[simp] theorem Strand.enterTrap_tscr1 : (st.enterTrap cause tval tpc group seq).trap.tscr1 = st.trap.tscr1 := by simp only [Strand.enterTrap, Strand.move, Strand.loseResv]
@[simp] theorem Strand.enterTrap_live : (st.enterTrap cause tval tpc group seq).live = st.live := by simp only [Strand.enterTrap, Strand.move, Strand.loseResv]
@[simp] theorem Strand.enterTrap_regs : (st.enterTrap cause tval tpc group seq).regs = st.regs := by simp only [Strand.enterTrap, Strand.move, Strand.loseResv]
@[simp] theorem Strand.enterTrap_region : (st.enterTrap cause tval tpc group seq).region = none := by simp only [Strand.enterTrap]
@[simp] theorem Strand.enterTrap_burst : (st.enterTrap cause tval tpc group seq).sched.burst = none := by simp only [Strand.enterTrap]
@[simp] theorem Strand.enterTrap_fc : (st.enterTrap cause tval tpc group seq).sched.fc = 0 := by simp only [Strand.enterTrap]
@[simp] theorem Strand.enterTrap_resv : (st.enterTrap cause tval tpc group seq).flight.resv = [] := by simp only [Strand.enterTrap, Strand.move, Strand.loseResv]

/-- The return: the lanes of TMASK to TPC, the other live lanes to their frame PCs. -/
theorem Strand.trapReturn_pc {l : Nat} (h : l < 32) :
    st.trapReturn.pc l = if st.live.getLsbD l then (if st.trap.tmask.getLsbD l then st.trap.tpc.setWidth 57 else st.trap.frame[l]) else st.pc l := by
  have := Strand.move_pc st st.live (fun i => if st.trap.tmask.getLsbD i then st.trap.tpc.setWidth 57 else (if h : i < 32 then st.trap.frame[i] else 0)) h
  simp only [h, dif_pos] at this
  rw [← this]
  unfold Strand.pc
  simp only [Strand.trapReturn, Strand.keepResid]

@[simp] theorem Strand.trapReturn_priv : st.trapReturn.trap.priv = st.trap.tcause.getLsbD 10 := by simp only [Strand.trapReturn]
@[simp] theorem Strand.trapReturn_tcause : st.trapReturn.trap.tcause = st.trap.tcause &&& ~~~(0x800 : Word) := by simp only [Strand.trapReturn]
@[simp] theorem Strand.trapReturn_live : st.trapReturn.live = st.live := by simp only [Strand.trapReturn, Strand.keepResid, Strand.move]
@[simp] theorem Strand.trapReturn_regs : st.trapReturn.regs = st.regs := by simp only [Strand.trapReturn, Strand.keepResid, Strand.move]
@[simp] theorem Strand.trapReturn_region : st.trapReturn.region = none := by simp only [Strand.trapReturn]

end Sys2Proof.Machine
end

