-- ==== Sys2Proof/Tests/Slice0.lean ====
section
/-! SUPPORT. Tests: the encodings of the spec's examples, ill-formed terms, worked examples of the spec, and for each statement with hypotheses a state and operands that meet them. -/

namespace Sys2Proof.Tests
open Sys2Proof Sys2Proof.Machine Sys2Proof.Safety

set_option maxRecDepth 8000

/-! Decoding: the words and operands of the encoding examples of each chapter. -/

/-- The fields of an instruction: D, A, B, C, SUB, QB, G and word 2. -/
def fields (e : Enc) : List Nat := [e.d.toNat, e.a.toNat, e.b.toNat, e.c.toNat, e.sub.toNat, e.qb.toNat, e.g.toNat, e.w2.toNat]

/-- The words decode to an instruction of an opcode with these fields; those left out are 0. -/
def reads (ws : List Word) (o : Op) (l : List Nat) : Bool :=
  match decodeBytes (ws.flatMap bytesOf) with
  | .ok (i, []) => (match i.parts with | some (p, e) => p == o && fields e == l ++ List.replicate (8 - l.length) 0 | none => false)
  | _ => false

/-- The words are refused for a reason. -/
def refuses (ws : List Word) (x : DecodeError) : Bool := match decodeBytes (ws.flatMap bytesOf) with | .error y => x == y | .ok _ => false

theorem test_decode_movement : (reads [0x00000004] .nop [] && reads [0x00041818] .prom [6, 2] && reads [0x00130809, 0] .mov [66, 9]) = true := by decide
theorem test_decode_window : (reads [0x84000024] .wbase [0, 0, 4] && reads [0x00000828] .wget [2] && reads [0x001E202C] .pushm [8, 15]) = true := by decide
theorem test_decode_mask : (reads [0x02020C44] .kand [3, 1, 2]) = true := by decide
theorem test_decode_add : (reads [0x03021080] .add [4, 1, 3] && reads [0xFD021080] .add [4, 1, 125] && reads [0x00122482, 0x00005D00, 0x12345678] .add [9, 9, 0, 0, 0, 0, 10, 0x12345678]) = true := by decide
theorem test_decode_integer : (reads [0x05040C9C] .mul [3, 2, 5] && reads [0x830E1CAC] .div [7, 7, 3] && reads [0x820210E9, 0x00002800] .shl [4, 1, 2] &&
  reads [0x030208A9, 0x00014000] .mad [2, 1, 3, 0, 0, 1] && reads [0x06080911, 0x0200C800] .cmp [2, 4, 6, 0, 2]) = true := by decide
theorem test_decode_select : (reads [0x0904150D, 0x02009800] .lea [5, 2, 9, 0, 2] && reads [0x03040519, 0x0000B805] .sel [1, 2, 3, 5] && reads [0x070C1889, 0x03005000] .adds [6, 6, 7, 0, 3]) = true := by decide
theorem test_decode_float : (reads [0x03021141, 0x01005000] .fadd [4, 1, 3, 0, 1] && reads [0x0004094A, 0x00005800, 0x3F000000] .fmul [2, 2, 0, 0, 0, 0, 0, 0x3F000000] &&
  reads [0x070A094D, 0x00006802] .ffma [2, 5, 7, 2] && reads [0x03040561, 0x0200C000] .fcmp [1, 2, 3, 0, 2] && reads [0x000C1995, 0x40005000] .cvt [6, 6, 0, 0, 0x40]) = true := by decide
theorem test_decode_tables : (reads [0x840001A9, 0x02000000] .modeset [0, 0, 4, 0, 2] && reads [0x8108018C] .tload [0, 4, 1] && reads [0x81000190] .tflip [0, 0, 1]) = true := by decide
theorem test_decode_lanes : (reads [0x810815C9, 0x0101F802] .shuf [5, 4, 1, 2, 1, 1] && reads [0x070819CD, 0x0001B803] .perm [6, 4, 7, 3, 0, 1] && reads [0x85061DD1, 0x00000800] .bcast [7, 3, 5] &&
  reads [0x000209C5, 0x0000E800] .vote [2, 1] && reads [0x000411D5, 0x00000800] .redu [4, 2] && reads [0x00020DD9, 0x08015000] .scan [3, 1, 0, 0, 8, 1] && reads [0x001211DD, 0x0100C800] .matchLanes [4, 9, 0, 0, 1]) = true := by decide
theorem test_decode_control : (reads [0x7FF80E08] .bru [3, 124, 127] && reads [0x0000420C] .jmp [16] && reads [0x00020215, 0x0000F80C] .call [0, 1, 0, 12] && reads [0x0018021C] .ret [0, 12] &&
  reads [0x00002206, 0x0000F900, 0x00000060] .brd [8, 0, 0, 0, 0, 0, 2, 0x60] && reads [0x8500022C] .trap [0, 0, 5] && reads [0x00000228] .yield [] && reads [0x00000229, 0x0000F800] .yield []) = true := by decide
theorem test_decode_memory : (reads [0x90060A40] .ld [2, 3, 16] && reads [0x83021E45, 0x0200A800] .st [7, 1, 3, 0, 2] && reads [0x05082251, 0x04018806] .mxld [8, 4, 5, 6, 4, 1] &&
  reads [0x80040259, 0x01015806] .pref [0, 2, 0, 6, 1, 1] && reads [0x880A125C] .ldc [4, 5, 8]) = true := by decide
theorem test_decode_ordering : (reads [0x00001661, 0x0200F800] .fence [5, 0, 0, 0, 2] && reads [0x000A0264] .fwait [0, 5] && reads [0x8300026D, 0x0100F800] .barc [0, 0, 3, 0, 1] &&
  reads [0x80061671, 0x00015806] .lres [5, 3, 0, 6, 0, 1] && reads [0x07060A75, 0x0001C006] .scnd [2, 3, 7, 6, 0, 1]) = true := by decide
theorem test_decode_atomics : (reads [0x0C062A81, 0x10016006] .atom [10, 3, 12, 6, 16, 1] && reads [0x09082289, 0x00010006] .cas [8, 4, 9, 6, 0, 1] && reads [0x0008269C] .mcas [9, 4]) = true := by decide
theorem test_decode_engines : (reads [0x820802A0] .kick [0, 4, 2] && reads [0x000A02AA, 0x0000F800, 0x00003000] .bbadd [0, 5, 0, 0, 0, 0, 0, 0x3000] && reads [0x800006B4] .gset [1] && reads [0x83081EBC] .qsub [7, 4, 3]) = true := by decide
theorem test_decode_matrix : (reads [0x000802C1, 0x0100F800] .mrunReg [0, 4, 0, 0, 1] && reads [0x01000ECD, 0x000AF806] .mma [3, 0, 1, 6, 0, 10] && reads [0x0C1402D5, 0x0300F80E] .mtopk [0, 10, 12, 14, 3] &&
  reads [0x050806E1, 0x0200F800] .mdrain [1, 4, 5, 0, 2]) = true := by decide
theorem test_decode_work : (reads [0x09042305, 0x0000F80A] .spawnn [8, 2, 9, 10] && reads [0x0904230D, 0x0000F80B] .park [8, 2, 9, 11] && reads [0x85002711, 0x0100F800] .notify [9, 0, 5, 0, 1] && reads [0x00001B19, 0x0600F800] .cellrd [6, 0, 0, 0, 6]) = true := by decide
theorem test_decode_fabric : (reads [0x80082325, 0x01010006] .lcnt [8, 4, 0, 6, 1, 1] && reads [0x07081741, 0x0009F806] .fget [5, 4, 7, 6, 0, 9]) = true := by decide
theorem test_decode_system : reads [0x002A1360] .srd [4, 21] = true := by decide

/-! Words that R24 and R32 refuse. -/

theorem test_refused_words : (refuses [0x00000083] .reservedLength && refuses [0x03021A80] .noShortForm && refuses [0x03021081, 0x00C05800] .literalSelect && refuses [0x000002B9, 0x02010000] .qualifier && reads [0x000002B9, 0x02000000] .rlq [0, 0, 0, 0, 2]) = true := by decide

/-! WellFormed: an ill-formed term for each check. -/

/-- A two-word instruction of type form 10, all of whose operands are register 0. -/
def two : Enc := { len := .two, i := false, b := 0, a := 0, d := 0, sub := 0, ls := 0, qb := 0, tf := 10, g := 0, c := 0, w2 := 0 }

theorem test_wellFormed : (Instr.add two).wellFormed = true := by decide
theorem test_illFormed_short : Op.check .atom { two with len := .one, tf := 12 } = some .noShortForm := by decide
theorem test_illFormed_typeForm : Op.check .add { two with tf := 24 } = some .typeForm := by decide
theorem test_illFormed_sub : Op.check .add { two with tf := 10, sub := 9 } = some .subOpcode := by decide
theorem test_illFormed_qualifier : Op.check .add { two with tf := 10, qb := 32 } = some .qualifier := by decide
theorem test_illFormed_literal : Op.check .add { two with tf := 10, ls := 3 } = some .literalSelect := by decide
theorem test_illFormed_guard : Op.check .add { two with tf := 10, g := 8 } = some .guardBits := by decide
theorem test_illFormed_immediate : Op.check .add { two with tf := 10, i := true } = some .immediate := by decide
theorem test_illFormed_range : Op.check .add { two with tf := 4, a := 40 } = some .fieldRange := by decide
theorem test_illFormed_target : Op.check .add { two with len := .three, tf := 11, b := 1 } = some .literalTarget := by decide
theorem test_illFormed_rule : Op.check .br { two with tf := 31 } = some .fieldRule := by decide
theorem test_illFormed_canonical : (Instr.add { two with tf := 10, w2 := 5 }).wellFormed = false := by decide
theorem test_illFormed_event : (Instr.linkDown 3).wellFormed = false := by decide

/-! The machine that the tests run. -/

/-- The place of the strand that the tests run. -/
def here : Sid := { core := 0, slot := 0, strand := 0 }

/-- Some registers with values. -/
def someRegs : Regs where
  s := [(1, 1), (2, 2), (3, 0xFFFFFFFF), (4, 0x80000000), (5, 0x7FFFFFFF), (6, 0x100), (7, 5), (8, 0x12000), (14, 0x104000)]
  a := [(1, (0x100, 4)), (2, (7, 0xFFFFFFFF)), (4, (0x200, 8)), (5, (0x400, 64))]
  v := [(1, Lanes.of fun l => BitVec.ofNat 32 (4 * l)), (2, Lanes.all 5)]
  k := [(1, 0xFFFFFFFF), (2, 0x0000FFFF)]

/-- A privileged strand that stands alone at an instruction, with 32 live lanes and values in some registers. -/
def tst : State := ({ State.reset.withFetchWord 32 4 with cur := here } : State).onStrand here fun st => { st with regs := someRegs, trap := { priv := true } }

/-- The conditions of `Active`, computed. -/
def activeB (o : Op) (e : Enc) (s : State) : Bool :=
  s.cur.strand != seqIndex && s.mayIssue s.cur && !(s.issue o e).blocked s && (s.strand s.cur).ahead.isNone && ((s.issue o e).firstTrap s).isNone && (s.issue o e).act != 0

theorem active_of {o : Op} {e : Enc} {s : State} (h : activeB o e s = true) : Active o e s := by
  simp only [activeB, Bool.and_eq_true, bne_iff_ne, ne_eq, Bool.not_eq_true', Option.isNone_iff_eq_none] at h
  exact ⟨⟨⟨h.1.1.1.1.1, h.1.1.1.1.2, h.1.1.1.2, h.1.1.2⟩, h.1.2⟩, h.2⟩

/-- A two-word instruction with these fields. -/
def e2 (tf d a b c : Nat) (sub qb : Nat := 0) : Enc := { len := .two, i := false, b := b, a := a, d := d, sub := sub, ls := 0, qb := qb, tf := tf, g := 0, c := c, w2 := 0 }

theorem inRange_of {o : Op} {e : Enc} {s : State} {f : Issue → Nat → Int} (h : ∀ l < 32, -(2 ^ 31 : Int) ≤ f (s.issue o e) l ∧ f (s.issue o e) l ≤ 2 ^ 31 - 1) : InRange o e s f :=
  fun _ l hl _ => h l hl

/-! Worked examples of the spec, one step each on a small state; every expected value is the spec's. -/

/-- The state after the instruction that the words encode. -/
def ran (ws : List Word) (s : State) : State :=
  match decodeBytes (ws.flatMap bytesOf) with
  | .ok (i, []) => (match exec i s with | .next t => t | _ => s)
  | _ => s

/-- The state after an instruction. -/
def does (i : Instr) (s : State) : State := match exec i s with | .next t => t | _ => s

/-- `tst` with its strand changed. -/
def tstWith (f : Strand → Strand) : State := tst.onStrand here f

/-- Register s`n` of the strand. -/
def sReg (s : State) (n : Nat) : Word := Tab.get 0 (s.strand here).regs.s n

/-- Register v`n` of the strand in one lane. -/
def vReg (s : State) (n l : Nat) : Word := (Tab.get (Lanes.all 0) (s.strand here).regs.v n).at l

/-- `tst` with values in uniform registers. -/
def tstS (l : List (Nat × Word)) : State := tstWith fun st => { st with regs := { st.regs with s := l } }

/-- R77 and R86: the affine example. -/
theorem test_affine : (let s := tstWith fun st => { st with regs := { st.regs with a := [(1, (0x1000, 4))] } }
    let t := does (.mul { e2 5 2 1 12 0 with i := true }) s; affine t 2 == (0xC000, 48) &&
    affine (does (.lea (e2 4 3 2 1 0 1)) t) 3 == (0xE000, 56)) = true := by decide

/-- R78: the saturation and element examples. -/
theorem test_saturation : (let s := tstS [(1, 0x7FF08001), (2, 0x0020FFFF)]
    let r := fun (o : Op) sub => sReg (does (o.instr (e2 0 3 1 2 0 sub)) s) 3
    r .adds 2 == 0x7FFF8000 && r .adds 3 == 0x8010FFFF && r .min 2 == 0x00F080FF && r .minu 2 == 0x00208001) = true := by decide

/-- R80: the borderline results. -/
theorem test_division : (let r := fun (o : Op) (x y : Word) => sReg (does (o.instr (e2 0 3 1 2 0)) (tstS [(1, x), (2, y)])) 3
    r .div 0x80000000 0xFFFFFFFF == 0x80000000 && r .rem 0x80000000 0xFFFFFFFF == 0 && r .divu 0x80000000 0xFFFFFFFF == 0 && r .remu 0x80000000 0xFFFFFFFF == 0x80000000 &&
    r .div (-7) 2 == -3 && r .rem (-7) 2 == -1 && r .divu (-7) 2 == 0x7FFFFFFC && r .remu (-7) 2 == 1 && r .div 9 0 == 0xFFFFFFFF && r .remu 9 0 == 9) = true := by decide

/-- R79: the first line of the 64-bit addition, with a carry out. -/
theorem test_carry : (let t := does (.addc (e2 0 4 0 2 6)) (tstS [(0, 0xFFFFFFFF), (2, 2), (6, 0)]); sReg t 4 == 1 && sReg t 6 == 1) = true := by decide

/-- R81 and R82: a compare into a mask with eight live lanes, with and without .z. -/
theorem test_compare : (let s := tstWith fun st => { st with live := 0xFF, regs := { st.regs with s := [(6, 1)], k := [(2, 0xFFFF0000)], v := [(4, Lanes.of fun l => BitVec.ofInt 32 (l - 2))] } }
    let k := fun qb => ((does (.cmp (e2 25 2 4 6 0 2 qb)) s).strand here).mask 2
    k 0 == 0xFFFF0007 && k 1 == 0x00000007 && sReg (does (.setc { e2 0 1 6 2 0 2 with i := true }) s) 1 == 1) = true := by decide

/-- R83: shifts by 32 or more. -/
theorem test_shift : (let r := fun (o : Op) (x y : Word) => sReg (does (o.instr (e2 0 3 1 2 0)) (tstS [(1, x), (2, y)])) 3
    r .shl 1 (-1) == 0 && r .sar 0x80000000 32 == 0xFFFFFFFF && r .shr 0x80000000 32 == 0 && r .rol 0x80000001 33 == 3) = true := by decide

/-- R84: the bit-field examples. -/
theorem test_bitField : (let s := fun (x p w d : Word) => tstS [(1, x), (2, p), (3, w), (4, d)]
    sReg (does (.bfx (e2 0 4 1 2 3 1)) (s 0xF5 28 8 0)) 4 == 0 && sReg (does (.bfi (e2 0 4 1 2 3)) (s 0xF5 28 8 0x12345678)) 4 == 0x52345678 &&
    sReg (does (.bfx (e2 0 4 1 2 3 1)) (s 0xF50 4 8 0)) 4 == 0xFFFFFFF5) = true := by decide

/-- R87: the byte products. -/
theorem test_dot4 : (let r := fun sub => sReg (does (.dot4 (e2 0 4 1 2 3 sub)) (tstS [(1, 0x80FF0102), (2, 0x0203FF7F), (3, 10)])) 4
    r 0 == 4 && r 1 == 1540 && r 2 == 260) = true := by decide

/-- R62: DEMA with the four lowest lanes not live. -/
theorem test_dema : (let s := tstWith fun st => { st with live := 0xFFFFFFF0, regs := { st.regs with v := [(7, Lanes.of fun l => BitVec.ofInt 32 (0x2010 + 4 * (l - 4)))] } }
    affine (ran [0x840E0C20] s) 3 == (0x2000, 4)) = true := by decide

/-- R67 and R68: the guarded mask example. -/
theorem test_mask : (let s := tstWith fun st => { st with regs := { st.regs with k := [(1, 0xFFFF), (2, 0xFF00FF), (3, 0xAAAAAAAA), (4, 0x0F0F0F0F)] } }
    let t := ran [0x02020C45, 0x0000EA00] s; (t.strand here).mask 3 == 0xA0A0A0AF && sReg (does (.kpop (e2 2 1 3 0 0)) t) 1 == 12 && sReg (does (.kff (e2 2 2 3 0 0)) t) 2 == 0) = true := by decide

/-- The diverged strand of chapters 3 and 19: lanes 0 to 15 at 0x4100, lanes 16 to 31 at 0x4180. -/
def diverged : State := tstWith fun st => { st with pcs := Vector.ofFn fun i : Fin 32 => if i.val < 16 then 0x4100 else 0x4180 }

/-- R45: a uniform write of half the live lanes. -/
theorem test_uniformPartial : (let t := (does (.add { e2 0 3 3 1 0 with i := true }) diverged).strand here
    t.trap.tval == 0xFFFFFFFF0000FFFF && t.trap.tcause.toNat % 256 == Cause.uniformPartial.code && sReg diverged 3 == Tab.get 0 t.regs.s 3) = true := by decide

/-- Chapter 19: the trap on a diverged strand and the return from its handler. -/
theorem test_trap : (let s := diverged.onStrand here fun st => { st with trap := { tvec := 0x9000 } }
    let u := (ran [0x8500022C] s).strand here
    let r := (ran [0x00000368] ((ran [0x8500022C] s).onStrand here fun st => { st with trap := { st.trap with tpc := st.trap.tpc + 4 } })).strand here
    u.trap.tmask == 0x0000FFFF && u.trap.tpc == 0x4100 && u.trap.tval == 5 && u.trap.tcause == 0x00000830 && u.trap.priv && u.pc 0 == 0x9000 && u.pc 31 == 0x9000 &&
    r.pc 0 == 0x4104 && r.pc 15 == 0x4104 && r.pc 16 == 0x4180 && r.trap.priv == false && r.act == false) = true := by decide

/-- Chapter 7: a strand under tiles of 8, diverged, with one lane exited. -/
def tiled : State := tstWith fun st =>
  { st with live := 0x7FFFFFFF, sp := { st.sp with part := 3 }, regs := { st.regs with k := [], v := [(4, Lanes.of fun l => BitVec.ofNat 32 (100 + l))] },
            pcs := Vector.ofFn fun i : Fin 32 => if 20 ≤ i.val ∧ i.val < 28 then 0x5280 else 0x5200 }

/-- R135, R136, R140: the exchange of the example. -/
theorem test_shuf : (let t := ran [0x820815C9, 0x0001F802] tiled
    [6, 18, 19, 28, 29, 20].map (vReg t 5) == [100, 120, 121, 130, 0, 0] && (t.strand here).mask 2 == 0x500FFFFF) = true := by decide

/-- R144: the sums of the example. -/
theorem test_redu : (let t := ran [0x000819D5, 0x00005000] tiled; [6, 18, 19, 28, 29, 20].map (vReg t 6) == [828, 470, 470, 387, 387, 0]) = true := by decide

/-- R133: the PART of the example. -/
theorem test_part : (let u := (ran [0x840001C0] tiled).strand here; u.trap.tval == 0x7FFFFFFF700FFFFF && u.sp.part == 3) = true := by decide

/-- R101 and R102: the conversions to E4M3 of chapter 5, with SAT from MODE bits 11 to 10. -/
theorem test_toE4M3 : (let c := fun (sat : Nat) rm x => convert (BitVec.ofNat 64 (sat * 1024)) 0 rm 0 0 4 0 x
    c 0 .rne 0x43960000 == 0x79 && c 0 .rup 0x43960000 == 0x7A && c 0 .rne 0x43E60000 == 0x7E && c 0 .rne 0x43FA0000 == 0x7F && c 1 .rne 0x43FA0000 == 0x7E &&
    c 2 .rne 0x43FA0000 == 0x7E && c 0 .rtz 0x43FA0000 == 0x7E && c 0 .rup 0xC3FA0000 == 0xFE) = true := by decide

/-- R103: 1.375 to E2M1 with stochastic rounding, by the random bits. -/
theorem test_stochastic : (let c := fun r => (fmtOf 7).sat 0 (roundTo (fmtOf 7) .rs r ((fmtOf 0).decode 0x3FB00000).toX); c 0x3FFF == 2 && c 0x4000 == 3) = true := by decide

/-- R105: the effect of K-grouping. -/
theorem test_grouping : (let row := fun (l : List (Nat × Int)) k => (FVal.num false { s := (l.find? fun x => x.1 == k).elim 0 (·.2), e := 0 }); let one := fun (_ : Nat) => FVal.num false { s := 1, e := 0 }
    accumulateAll false false 0 (row [(0, 2 ^ 24), (32, 1), (33, 1)]) one 64 == 0x4B800001 && accumulateAll false false 0 (row [(0, 2 ^ 24), (1, 1), (32, 1)]) one 64 == 0x4B800000) = true := by decide

/-- R232: four lanes that address one word, which holds 100, with the operands 1 to 4. -/
theorem test_lanesOnOneWord : (let part := fun l => ({ lane := l, va := 0, pa := 0, data := BitVec.ofNat 64 (l + 1), new := 0 } : AtomPart)
    actOn (.int .add false) 0 100 [part 0, part 1, part 2, part 3] == (110, [(0, 100), (1, 101), (2, 103), (3, 106)])) = true := by decide

/-- R148 and R149: the first step of a machine that holds a NOP moves every lane past it. -/
theorem test_step : (match step (State.reset.withFetchWord 32 4) with | .next t => (t.strand here).pc 0 == 0x10004 && (t.strand here).pc 31 == 0x10004 | _ => false) = true := by decide

/-- R120 and R121: two values packed into elements 6 and 7 of a word, and the second unpacked. -/
theorem test_pack : (let s := tstWith fun st => { st with regs := { s := [(3, 3)], v := [(1, Lanes.all 0x40200000), (2, Lanes.all 0xBF333333)] } }
    let t := does (.pack (e2 12 8 1 2 3 7)) s; let u := does (.unpk { e2 11 9 8 7 0 7 with i := true }) t
    vReg t 8 31 == 0x94000000 && vReg u 9 0 == 0xBF000000) = true := by decide

/-! Witnesses: for each statement with hypotheses, a state and operands that meet them. -/

/-! Witnesses. Each instruction, well formed, meets `Active` in the state `tst`: the hypothesis of the statements that say what it does. -/

/-- Every instruction of the list is well formed and active. -/
def actives (s : State) (l : List (Op × Enc)) : Bool := l.all fun (o, e) => (o.instr e).wellFormed && activeB o e s

theorem witness_active_1 : actives tst [
  (.nop, e2 31 0 0 0 0), (.mov, e2 10 0 8 0 0), (.movi, { e2 0 4 0 0 0 with len := .three }), (.laneid, e2 17 4 0 0 0), (.aff, e2 7 0 8 0 0),
  (.prom, e2 21 0 8 0 0), (.dems, e2 1 0 8 0 0), (.dema, e2 9 0 8 0 0), (.wbase, e2 0 0 0 2 0), (.wget, e2 0 4 0 0 0), (.pushm, e2 31 0 8 0 0),
  (.popm, e2 31 0 8 0 0), (.sspget, e2 0 4 0 0 0), (.sspset, e2 0 0 0 2 0), (.kmov, e2 29 4 0 0 0), (.kand, e2 29 4 0 0 0), (.kor, e2 29 4 0 0 0),
  (.kxor, e2 29 4 0 0 0), (.knot, e2 29 4 0 0 0), (.kpop, e2 2 4 0 0 0), (.kff, e2 2 4 0 0 0), (.add, e2 11 0 8 0 0)] = true := by decide

theorem witness_active_2 : actives tst [
  (.sub, e2 11 0 8 0 0), (.adds, e2 11 0 8 0 0), (.subs, e2 11 0 8 0 0), (.addc, e2 0 10 8 2 6), (.neg, e2 10 0 8 0 0), (.abs, e2 10 0 8 0 0),
  (.mul, e2 11 0 8 0 0), (.mulh, e2 11 0 8 0 0), (.mulhu, e2 11 0 8 0 0), (.mad, e2 0 10 8 2 6), (.div, e2 11 0 8 0 0), (.divu, e2 11 0 8 0 0),
  (.rem, e2 11 0 8 0 0), (.remu, e2 11 0 8 0 0), (.min, e2 11 0 8 0 0), (.max, e2 11 0 8 0 0), (.minu, e2 11 0 8 0 0), (.maxu, e2 11 0 8 0 0),
  (.clamp, e2 0 10 8 2 6), (.and, e2 11 0 8 0 0), (.or, e2 11 0 8 0 0), (.xor, e2 11 0 8 0 0)] = true := by decide

theorem witness_active_3 : actives tst [
  (.andn, e2 11 0 8 0 0), (.not, e2 10 0 8 0 0), (.shl, e2 11 0 8 0 0), (.shr, e2 11 0 8 0 0), (.sar, e2 11 0 8 0 0), (.rol, e2 11 0 8 0 0),
  (.bfx, e2 0 10 8 2 6), (.bfi, e2 0 10 8 2 6), (.popc, e2 10 0 8 0 0), (.clz, e2 10 0 8 0 0), (.brev, e2 10 0 8 0 0), (.lea, e2 0 0 8 0 0),
  (.cmp, e2 24 0 8 0 0), (.setc, e2 11 0 8 0 0), (.sel, e2 0 10 8 2 6), (.dot4, e2 0 10 8 2 6), (.fadd, e2 10 0 8 0 0), (.fsub, e2 10 0 8 0 0),
  (.fmul, e2 10 0 8 0 0), (.ffma, e2 10 10 8 2 6), (.fmin, e2 10 0 8 0 0), (.fmax, e2 10 0 8 0 0)] = true := by decide

theorem witness_active_4 : actives tst [
  (.fabs, e2 10 0 8 0 0), (.fneg, e2 10 0 8 0 0), (.fcmp, e2 24 0 8 0 0), (.fclass, e2 10 0 8 0 0), (.frcp, e2 10 0 8 0 0), (.frsq, e2 10 0 8 0 0),
  (.fsqrt, e2 10 0 8 0 0), (.fdiv, e2 10 0 8 0 0), (.fexp2, e2 10 0 8 0 0), (.flog2, e2 10 0 8 0 0), (.fsin, e2 10 0 8 0 0), (.fcos, e2 10 0 8 0 0),
  (.ftbl, e2 10 0 8 0 0), (.tload, { e2 31 0 8 1 0 with i := true }), (.tflip, { e2 31 0 0 1 0 with i := true }), (.cvt, e2 10 0 8 0 0),
  (.cvti, e2 10 0 8 0 0), (.pack, e2 12 10 8 2 6 1), (.unpk, e2 11 0 8 0 0 1), (.modeget, e2 0 4 0 0 0), (.modeset, e2 0 0 0 2 0), (.part, e2 0 0 0 2 0)] = true := by decide

theorem witness_active_5 : actives tst [
  (.vote, e2 1 0 8 0 0), (.shuf, e2 11 0 8 0 0), (.perm, e2 10 0 8 0 0), (.bcast, e2 11 0 8 0 0), (.redu, e2 1 0 8 0 0), (.scan, e2 10 0 8 0 0),
  (.matchLanes, e2 10 0 8 0 0), (.br, { e2 31 0 8 0 0 with g := 1 }), (.brd, { e2 31 0 8 0 0 with len := .three, g := 1 }), (.bru, e2 31 0 8 0 0),
  (.jmp, e2 31 0 8 0 0), (.jmpi, e2 31 0 8 0 0), (.call, e2 31 10 8 2 6), (.calli, e2 31 0 8 0 0), (.ret, e2 31 0 8 0 0), (.idem, e2 31 0 0 0 0),
  (.exit, e2 31 0 0 0 0), (.yield, { e2 31 0 0 0 0 with len := .one }), (.trap, e2 31 0 0 2 0), (.brk, e2 31 0 0 2 0), (.ld, e2 21 0 8 0 0),
  (.st, e2 21 0 8 0 0)] = true := by decide

theorem witness_active_6 : actives tst [
  (.ldg, e2 21 0 8 0 0), (.sts, e2 21 0 8 0 0), (.mxld, e2 17 0 8 0 0 3), (.mxst, e2 17 0 8 0 0 3), (.pref, e2 21 0 8 0 0 0 1), (.ldc, e2 0 0 8 0 0),
  (.fence, e2 31 4 0 0 0), (.fwait, e2 31 0 8 0 0), (.ftest, e2 31 0 8 0 0), (.barc, { e2 31 0 0 3 0 with i := true }), (.lres, e2 21 10 8 2 6 0 1),
  (.scnd, e2 24 4 8 0 8 0 1), (.lease, e2 31 0 0 2 0), (.gtime, e2 31 4 0 0 0), (.atom, e2 0 0 8 0 0), (.atomn, e2 0 0 8 0 0), (.cas, e2 0 0 8 0 0),
  (.atomf, e2 0 0 8 0 0), (.xadd, e2 0 0 8 0 0), (.xread, e2 0 0 8 0 0), (.xclr, e2 0 0 8 0 0), (.mcas, e2 31 0 8 0 0)] = true := by decide

theorem witness_active_7 : actives tst [
  (.kick, e2 31 0 8 0 0), (.bbinit, e2 31 0 8 0 0), (.bbadd, e2 31 0 8 0 0), (.bbwait, e2 31 0 8 0 0), (.bbtest, e2 31 0 8 0 0), (.gset, e2 31 4 0 0 0),
  (.rlq, e2 25 0 8 0 0), (.qsub, e2 31 0 8 0 0), (.mrun, e2 31 0 8 0 0), (.mrunReg, e2 31 0 8 0 0 1), (.mmap, e2 31 0 8 0 0), (.munf, e2 31 0 8 0 0),
  (.mma, e2 31 10 8 2 6), (.mdist, e2 31 10 8 2 6), (.mtopk, e2 31 10 8 2 6), (.mzero, e2 31 4 0 0 0), (.mldz, e2 31 0 8 0 0), (.mdrain, e2 31 0 8 0 0),
  (.mpair, e2 31 0 0 2 0), (.msplit, e2 31 0 0 0 0), (.mepi, e2 31 0 8 0 0), (.msync, e2 31 4 0 0 0)] = true := by decide

theorem witness_active_8 : actives tst [
  (.spawn, e2 31 0 8 0 0), (.spawnn, e2 31 10 8 2 6), (.join, e2 31 4 0 0 0), (.park, e2 31 10 8 2 6), (.notify, e2 31 0 0 2 0), (.done, e2 31 0 0 0 0),
  (.cellrd, e2 31 4 0 0 0), (.gpref, e2 0 0 8 0 0), (.thint, e2 0 0 8 0 0), (.lcnt, e2 0 10 8 2 6 0 1), (.fget, e2 31 10 8 2 6), (.fput, e2 31 10 8 2 6),
  (.fmsg, e2 31 10 8 2 6), (.fsync, e2 31 4 0 0 0), (.srd, e2 31 0 8 0 0), (.swr, e2 31 0 8 0 0), (.tret, e2 31 0 0 0 0), (.sysc, e2 31 0 0 2 0),
  (.ctxsv, e2 31 0 8 0 0), (.ctxld, e2 31 0 8 0 0), (.wait, e2 31 10 8 2 6), (.halt, e2 31 0 0 2 0)] = true := by decide

/-- An instruction of the list is active in the state that stands beside it. -/
def activeIn (l : List (Op × Enc × State)) : Bool := l.all fun (o, e, s) => activeB o e s

theorem mayTrap_tst : MayTrap tst tst.cur := ⟨by decide, by decide⟩

/-- ArithmeticResults, where .ov is set: values at the limits of the range. -/
theorem witness_overflowForms :
    (let e := e2 0 10 5 0 0 0 1; e.qbit 0 = true ∧ Active .add e tst ∧ InRange .add e tst fun i l => (i.opnd tst .a l).toInt + (i.opnd tst .b l).toInt) ∧
    (let e := e2 5 3 1 2 0 0 1; e.qbit 0 = true ∧ Active .add e tst ∧ InRange .add e tst fun i l => (i.opnd tst .a l).toInt + (i.opnd tst .b l).toInt) ∧
    (let e := e2 0 10 4 0 0 0 1; e.qbit 0 = true ∧ Active .sub e tst ∧ InRange .sub e tst fun i l => (i.opnd tst .a l).toInt - (i.opnd tst .b l).toInt) ∧
    (let e := e2 0 10 5 0 0 0 1; e.qbit 0 = true ∧ Active .neg e tst ∧ InRange .neg e tst fun i l => -(i.opnd tst .a l).toInt) ∧
    (let e := e2 0 10 4 1 0 0 1; e.qbit 0 = true ∧ Active .mul e tst ∧ InRange .mul e tst fun i l => (i.opnd tst .a l).toInt * (i.opnd tst .b l).toInt) ∧
    (let e := e2 0 10 4 3 3 0 1; e.qbit 0 = true ∧ Active .mad e tst ∧ InRange .mad e tst fun i l => (i.opnd tst .a l).toInt * (i.opnd tst .b l).toInt + (i.opnd tst .c l).toInt) :=
  ⟨⟨by decide, active_of (by decide), inRange_of (by decide)⟩, ⟨by decide, active_of (by decide), inRange_of (by decide)⟩,
   ⟨by decide, active_of (by decide), inRange_of (by decide)⟩, ⟨by decide, active_of (by decide), inRange_of (by decide)⟩,
   ⟨by decide, active_of (by decide), inRange_of (by decide)⟩, ⟨by decide, active_of (by decide), inRange_of (by decide)⟩⟩

/-- `tst` with values whose sums, products and differences leave the range of 32 bits. -/
def extreme : State := tstWith fun st => { st with regs := { s := [(1, 1), (4, 0x80000000), (5, 0x7FFFFFFF), (6, 0x10000)], a := [(1, (0x7FFFFFF0, 1)), (2, (0x80000000, 0))], v := [(1, Lanes.of fun l => BitVec.ofNat 32 (0x7FFFFFF0 + l)), (2, Lanes.all 0x80000000)] } }

/-- The instruction is active with .ov, has a destination of the class, and its exact value leaves the range in some lane that counts. -/
def overflowB (o : Op) (e : Enc) (f : Issue → Nat → Int) (affine : Bool) : Bool :=
  let i := extreme.issue o e; let out := fun l => decide (f i l < -(2 ^ 31 : Int) ∨ 2 ^ 31 - 1 < f i l)
  (o.instr e).wellFormed && activeB o e extreme && e.qbit 0 && (i.dClass == .s && out 0 || i.dClass == .v && (Mask.of fun l => i.act.getLsbD l && out l) != 0 || affine && i.dClass == .a && (Mask.of out) != 0)

/-- OverflowTraps: each instruction with each class of destination that it has. -/
theorem witness_overflowTraps : MayTrap extreme extreme.cur ∧
    (let A := fun (i : Issue) l => (i.opnd extreme .a l).toInt; let B := fun (i : Issue) l => (i.opnd extreme .b l).toInt; let C := fun (i : Issue) l => (i.opnd extreme .c l).toInt
    let all := fun (o : Op) (tfs : List (Nat × Nat × Nat × Nat)) (f : Issue → Nat → Int) => tfs.all fun t => overflowB o (e2 t.1 3 t.2.1 t.2.2.1 t.2.2.2 0 1) f true
    (all .add [(0, 5, 1, 0), (5, 1, 1, 0), (11, 1, 1, 0)] fun i l => A i l + B i l) && (all .sub [(0, 4, 1, 0), (5, 2, 1, 0), (11, 2, 1, 0)] fun i l => A i l - B i l) &&
    (all .neg [(0, 4, 0, 0), (5, 2, 0, 0), (10, 2, 0, 0)] fun i l => -A i l) && (all .mul [(0, 5, 5, 0), (5, 1, 6, 0), (11, 1, 6, 0)] fun i l => A i l * B i l) &&
    (all .mad [(0, 5, 5, 1), (8, 1, 6, 1)] fun i l => A i l * B i l + C i l) && (all .shl [(0, 5, 1, 0), (5, 1, 1, 0), (11, 1, 1, 0)] fun i l => A i l * (2 ^ (i.opnd extreme .b l).toNat : Nat)) &&
    (all .lea [(0, 5, 1, 0), (5, 1, 1, 0), (11, 1, 1, 0)] fun i l => A i l + B i l) && (all .aff [(7, 5, 1, 0)] fun i l => A i 0 + l * B i 0)) = true :=
  ⟨⟨by decide, by decide⟩, by decide +kernel⟩

/-- ArithmeticResults: each affine form, with no literal. -/
theorem witness_affinePairs : ([(.add, e2 4 3 1 2 0), (.add, e2 5 3 1 2 0), (.add, e2 6 3 2 1 0), (.sub, e2 4 3 1 2 0), (.sub, e2 5 3 1 2 0), (.sub, e2 6 3 2 1 0), (.mul, e2 5 3 1 2 0),
    (.mul, e2 6 3 2 1 0), (.mad, e2 8 3 1 2 2), (.shl, e2 5 3 1 2 0), (.neg, e2 5 3 1 0 0), (.lea, e2 4 3 1 2 0), (.lea, e2 5 3 1 2 0), (.lea, e2 6 3 2 1 0), (.aff, e2 7 3 1 2 0),
    (.laneid, e2 7 3 0 0 0), (.mov, e2 5 3 1 0 0)] : List (Op × Enc)).all (fun (o, e) => (o.instr e).wellFormed && activeB o e tst && !e.qbit 0 && !e.i &&
      !e.literal o .a && !e.literal o .b && !e.literal o .c) = true := by decide

/-- SaturationAndCarry: with the operands of the examples of R78 the elements of the results meet the hypotheses; the variants of CLAMP; both forms of ADDC. -/
theorem witness_saturation : let s := tstS [(1, 0x7FF08001), (2, 0x0020FFFF)]
    (let e := e2 0 3 1 2 0 2; let i := s.issue .adds e; Active .adds e s ∧ ∀ l < 32, ∀ j, j < 2 → element 16 false 0x7FFF8000 j =
      max (lowest 16 false) (min (highest 16 false) (element 16 false (i.opnd s .a l) j + element 16 false (i.opnd s .b l) j))) ∧
    (let e := e2 0 3 1 2 0 3; let i := s.issue .subs e; Active .subs e s ∧ ∀ l < 32, ∀ j, j < 2 → element 16 true 0x7FD00000 j =
      max (lowest 16 true) (min (highest 16 true) (element 16 true (i.opnd s .a l) j - element 16 true (i.opnd s .b l) j))) ∧
    (let e := e2 0 3 1 2 0 2; let i := s.issue .min e; Active .min e s ∧ ∀ l < 32, ∀ j, j < 4 → element 8 false 0x00F080FF j = min (element 8 false (i.opnd s .a l) j) (element 8 false (i.opnd s .b l) j)) ∧
    (let e := e2 0 3 1 2 0 2; let i := s.issue .max e; Active .max e s ∧ ∀ l < 32, ∀ j, j < 4 → element 8 false 0x7F20FF01 j = max (element 8 false (i.opnd s .a l) j) (element 8 false (i.opnd s .b l) j)) ∧
    (let e := e2 0 3 1 2 0 2; let i := s.issue .minu e; Active .minu e s ∧ ∀ l < 32, ∀ j, j < 4 → element 8 true 0x00208001 j = min (element 8 true (i.opnd s .a l) j) (element 8 true (i.opnd s .b l) j)) ∧
    (let e := e2 0 3 1 2 0 2; let i := s.issue .maxu e; Active .maxu e s ∧ ∀ l < 32, ∀ j, j < 4 → element 8 true 0x7FF0FFFF j = max (element 8 true (i.opnd s .a l) j) (element 8 true (i.opnd s .b l) j)) :=
  ⟨⟨active_of (by decide), by decide⟩, ⟨active_of (by decide), by decide⟩, ⟨active_of (by decide), by decide⟩, ⟨active_of (by decide), by decide⟩,
   ⟨active_of (by decide), by decide⟩, ⟨active_of (by decide), by decide⟩⟩

theorem witness_saturationForms : (((List.range 6).all fun n => activeB .adds (e2 0 3 1 2 0 n) tst && activeB .subs (e2 10 3 1 2 0 n) tst) &&
    actives tst [(.clamp, e2 10 3 1 2 2 0), (.clamp, e2 10 3 1 2 2 1), (.addc, e2 23 3 1 2 1), (.addc, e2 0 3 1 2 4), (.addc, e2 23 3 1 2 1 1)]) = true := by decide

/-- CompareResults: every condition, with a mask destination, a uniform one, and a varying one of SETC and SEL. -/
theorem witness_compare : ((List.range 10).all fun n => conditions[n]?.isSome && activeB .cmp (e2 24 3 1 2 0 n) tst && (tst.issue .cmp (e2 24 3 1 2 0 n)).dClass == .k &&
    activeB .cmp (e2 0 3 1 2 0 n) tst && (tst.issue .cmp (e2 0 3 1 2 0 n)).dClass == .s && activeB .setc (e2 10 3 1 2 0 n) tst) = true := by decide

/-- LogicAndBitResults: SHL and LEA with .ov at the limit, BFI with a field that ends at bit 31, the two sources of KMOV, and KFF of an empty and a full mask. -/
theorem witness_bits :
    (let e := e2 0 10 1 31 0 0 1; let s := tstS [(1, 0xFFFFFFFF), (31, 31)]; e.qbit 0 = true ∧ Active .shl e s ∧ InRange .shl e s fun i l => (i.opnd s .a l).toInt * (2 ^ (i.opnd s .b l).toNat : Nat)) ∧
    (let e := e2 0 10 5 0 0 4 1; e.qbit 0 = true ∧ Active .lea e tst ∧ InRange .lea e tst fun i l => (i.opnd tst .a l).toInt + (i.opnd tst .b l).toInt * (2 ^ e.sub.toNat : Nat)) ∧
    (let e := e2 0 4 1 2 3; let s := tstS [(1, 0xF5), (2, 28), (3, 8), (4, 0x12345678)]; let i := s.issue .bfi e; Active .bfi e s ∧ ∀ l < 32, ∀ k, k < 32 → (0x52345678 : Word).getLsbD k =
      if (i.opnd s .b l).toNat ≤ k ∧ k < (i.opnd s .b l).toNat + min (i.opnd s .c l).toNat (32 - (i.opnd s .b l).toNat) then (i.opnd s .a l).getLsbD (k - (i.opnd s .b l).toNat)
      else (i.opnd s .d l).getLsbD k) ∧
    (Active .kmov (e2 29 3 1 0 0) tst ∧ Active .kmov (e2 30 3 1 0 0) tst) ∧
    (let e := e2 2 3 4 0 0; Active .kff e tst ∧ (tst.issue .kff e).st.mask e.a.toNat = 0) ∧
    (let e := e2 2 3 2 0 0; let m := (tst.issue .kff e).st.mask e.a.toNat; Active .kff e tst ∧ m.getLsbD 0 = true ∧ ∀ j < 0, m.getLsbD j = false) :=
  ⟨⟨by decide, active_of (by decide), inRange_of (by decide)⟩, ⟨by decide, active_of (by decide), inRange_of (by decide)⟩, ⟨active_of (by decide), by decide⟩,
   ⟨active_of (by decide), active_of (by decide)⟩, ⟨active_of (by decide), by decide⟩, ⟨active_of (by decide), by decide, by decide⟩⟩

/-- MovementAndStackResults: AFF in range; DEMS and DEMA of lanes that agree and of lanes that differ; WBASE at 31 and at 32; SSPSET at the base, at the top and past it; PART 4 and 5. -/
theorem witness_movement :
    (let e := e2 7 3 1 2 0 0 1; e.qbit 0 = true ∧ Active .aff e tst ∧ InRange .aff e tst fun i l => (i.opnd tst .a 0).toInt + l * (i.opnd tst .b 0).toInt) ∧
    (let e := e2 1 3 2 0 0; let i := tst.issue .dems e; Active .dems e tst ∧ ∀ l < 32, i.act.getLsbD l → i.opnd tst .a l = i.opnd tst .a i.act.lowest) ∧
    (let e := e2 1 3 1 0 0; let i := tst.issue .dems e; Active .dems e tst ∧ (Mask.of fun l => i.act.getLsbD l && i.opnd tst .a l != i.opnd tst .a i.act.lowest) ≠ 0) ∧
    (let e := { e2 9 3 1 4 0 with i := true }; let i := tst.issue .dema e; let base := i.opnd tst .a i.act.lowest - BitVec.ofNat 32 i.act.lowest * i.opB tst
      Active .dema e tst ∧ ∀ l < 32, i.act.getLsbD l → i.opnd tst .a l = base + BitVec.ofNat 32 l * i.opB tst) ∧
    (let e := { e2 9 3 1 5 0 with i := true }; let i := tst.issue .dema e; let base := i.opnd tst .a i.act.lowest - BitVec.ofNat 32 i.act.lowest * i.opB tst
      Active .dema e tst ∧ (Mask.of fun l => i.act.getLsbD l && i.opnd tst .a l != base + BitVec.ofNat 32 l * i.opB tst) ≠ 0) ∧
    (let v := fun (n : Nat) => ((tst.issue .wbase { e2 0 0 0 n 0 with i := true }).opB tst).toNat; v 31 = 31 ∧ 8 * v 31 < (tst.strand tst.cur).sp.n ∧ 31 < v 32 ∧
      activeIn [(.wbase, { e2 0 0 0 31 0 with i := true }, tst), (.wbase, { e2 0 0 0 32 0 with i := true }, tst)] = true) ∧
    (let s := tstS [(1, 0x800), (2, 0x1000), (3, 0x1004)]; let st := s.strand s.cur; let v := fun n => ((s.issue .sspset (e2 0 0 0 n 0)).opB s).toNat
      v 1 = st.base ∧ v 1 % 4 = 0 ∧ v 2 = st.top ∧ v 2 % 4 = 0 ∧ st.top < v 3 ∧ activeIn [(.sspset, e2 0 0 0 1 0, s), (.sspset, e2 0 0 0 2 0, s), (.sspset, e2 0 0 0 3 0, s)] = true) ∧
    activeIn [(.part, { e2 0 0 0 4 0 with i := true }, tst), (.part, { e2 0 0 0 5 0 with i := true }, tst)] = true :=
  ⟨⟨by decide, active_of (by decide), inRange_of (by decide)⟩, ⟨active_of (by decide), by decide⟩, ⟨active_of (by decide), by decide⟩, ⟨active_of (by decide), by decide⟩,
   ⟨active_of (by decide), by decide⟩, by decide, by decide, by decide⟩

/-- MovementAndStackResults: a stack that just has room for the registers, and one that lacks four bytes. -/
theorem witness_stack :
    (let s := tstWith fun st => { st with sp := { st.sp with ssp := 0x810 } }; let i := s.issue .pushm (e2 31 1 4 0 0 1); let st := s.strand s.cur
      activeB .pushm (e2 31 1 4 0 0 1) s = true ∧ st.base + i.spillBytes = st.sp.ssp ∧ st.region = none ∧ s.windowConflict s.cur .write (st.sp.ssp - i.spillBytes) i.spillBytes = none) ∧
    (let s := tstWith fun st => { st with sp := { st.sp with ssp := 0x80C } }; let st := s.strand s.cur
      activeB .pushm (e2 31 1 4 0 0 1) s = true ∧ st.sp.ssp < st.base + (s.issue .pushm (e2 31 1 4 0 0 1)).spillBytes) ∧
    (let s := tstWith fun st => { st with sp := { st.sp with ssp := 0xFF0 } }; let i := s.issue .popm (e2 31 1 4 0 0 1); let st := s.strand s.cur
      activeB .popm (e2 31 1 4 0 0 1) s = true ∧ st.sp.ssp + i.spillBytes = st.top ∧ s.windowConflict s.cur .read st.sp.ssp i.spillBytes = none) ∧
    (let s := tstWith fun st => { st with sp := { st.sp with ssp := 0xFF4 } }; let st := s.strand s.cur
      activeB .popm (e2 31 1 4 0 0 1) s = true ∧ st.top < st.sp.ssp + (s.issue .popm (e2 31 1 4 0 0 1)).spillBytes) := by decide

/-- FloatResults and ConversionResults: the variants, both destinations of FCMP, the last index of PACK and UNPK and the one after it. -/
theorem witness_float : (actives tst [(.fabs, e2 10 3 1 0 0 2), (.fneg, e2 10 3 1 0 0 2), (.fcmp, e2 24 3 1 2 0 1), (.fcmp, e2 0 3 1 2 0 1), (.cvti, e2 10 3 1 0 0 4)] &&
    (tst.issue .fcmp (e2 24 3 1 2 0 1)).dClass == .k && (tst.issue .fcmp (e2 0 3 1 2 0 1)).dClass == .s &&
    (let e := e2 0 3 1 2 7 4; let j := fun x => (((tstS [(7, x)]).issue .pack e).opnd (tstS [(7, x)]) .c 0).toNat
      (Op.instr .pack e).wellFormed && activeB .pack e (tstS [(7, 1)]) && activeB .pack e (tstS [(7, 2)]) && j 1 == (packLimits (codeWidth 4)).1 && (packLimits (codeWidth 4)).1 < j 2) &&
    (let e := fun n => { e2 0 3 1 n 0 4 with i := true }; let j := fun n => ((tst.issue .unpk (e n)).opB tst).toNat
      activeB .unpk (e 3) tst && activeB .unpk (e 4) tst && j 3 == (packLimits (codeWidth 4)).2 && (packLimits (codeWidth 4)).2 < j 4)) = true := by decide

/-- RoundAndSat, ConversionLaws: magnitudes that a format holds, past its largest value in a mode that rounds away and in one that does not; encodings that are numbers. -/
theorem witness_rounding :
    (∀ x ∈ ([(3, -1, 0), (5, 0, 2), (7, 0, 2), (9, 0, 3)] : List (Nat × Int × Int)), 0 < x.1 ∧ (2 : ℚ) ^ x.2.2 ≤ x.1 * 2 ^ x.2.1 ∧ (x.1 : ℚ) * 2 ^ x.2.1 < 2 ^ (x.2.2 + 1)) ∧ (7 < 8 ∧ maxFinite 7 = 6 ∧ 0 < 2 ^ 16) ∧
    ((⌊(5 : ℚ) / 2⌋ + roundUp .rne false 2 (1 / 2) 0 : ℚ) * 2 ≤ maxFinite 7 ∧ maxFinite 7 < (⌊(7 : ℚ) / 2⌋ + roundUp .rne false 3 (1 / 2) 0 : ℚ) * 2 ∧ maxFinite 7 < (⌊(9 : ℚ) / 4⌋ + roundUp .rtz false 2 (1 / 4) 0 : ℚ) * 4) ∧
    (4 < 8 ∧ 0x38 < 2 ^ (fmtOf 4).width ∧ (fmtOf 4).decode 0x38 ≠ .nan ∧ 0x38 < 2 ^ codeWidth 4 ∧ (match (fmtOf 4).decode 0x38 with | .num _ _ => true | _ => false) = true ∧ 10 ≤ 12 ∧ 12 < 16 ∧ 5 < 2 ^ codeWidth 12) := by
  have f5 : ⌊(5 : ℚ) / 2⌋ = 2 := by norm_num
  have f7 : ⌊(7 : ℚ) / 2⌋ = 3 := by norm_num
  have f9 : ⌊(9 : ℚ) / 4⌋ = 2 := by norm_num
  refine ⟨?_, by norm_num [maxFinite], ?_, by decide⟩
  · simp only [List.forall_mem_cons]
    norm_num
  · rw [f5, f7, f9]
    norm_num [maxFinite, roundUp]

/-- `tst` with its comb changed. -/
def tstComb (f : Comb → Comb) : State := tst.onComb 0 0 f

/-- `tst` with its core changed. -/
def tstCore (f : Core → Core) : State := tst.onCore 0 f

/-- `tst` with a second strand that waits at a TLOAD of bank 1. -/
def queueing : State := (tstComb fun k => { k with strands := k.strands ++ [(1, { sched := { wait := some (.tload 1 0) } })] }).onCore 0 fun k => { k with bankQ := [(0, 1)] }

/-- ModeAndTables: both halves of MODE; a value that MODESET takes and one that it refuses; a bound bank that holds a table and one that does not; a TLOAD in a region, of the current bank, behind another TLOAD, of a bank that is bound, of one that is free with an image that loads, and at an offset that is no multiple of 64; a TFLIP with and without a TLOAD that waits. -/
theorem witness_modesAndTables :
    (actives tst [(.modeget, e2 0 3 0 0 0 0), (.modeget, e2 0 3 0 0 0 1)] = true) ∧
    (let e := fun n => { e2 0 0 0 n 0 2 with i := true }; activeB .modeset (e 4) tst = true ∧ modesetCheck (tst.issue .modeset (e 4)) tst = none ∧
      activeB .modeset (e 8) tst = true ∧ (modesetCheck (tst.issue .modeset (e 8)) tst).isSome = true) ∧
    (let e := e2 10 3 1 0 0; let s := tstCore fun k => { k with banks := [(0, { loaded := true })] }; activeB .ftbl e s = true ∧ (s.boundBank 0 0).loaded = true ∧
      activeB .ftbl e tst = true ∧ (tst.boundBank 0 0).loaded = false) ∧
    (let e := { e2 31 0 1 1 0 with i := true }; let s := (tstS [(1, 0)]).onCore 0 fun k => { k with lm := [(10, 0x80), (11, 0x3F)] }; let i := s.issue .tload e; let b := tstComb fun k => { k with bank := 1 }; let c := { e with b := 0 }; let r := s.onStrand here fun st => { st with region := some { entry := 0x10000, first := 0, v := none, s := none, a := none, k := [], ssp := 0, wb := 0, mode := 0, part := 0 } }
      activeB .tload e s = true ∧ i.st.region = none ∧ s.bankQueue 0 = [] ∧ (s.core 0).curBank ≠ 1 ∧ s.bankBound 0 1 = false ∧ (s.tloadRun here 1 (i.uA s).toNat).isRight = true ∧
      activeB .tload e tst = true ∧ tst.bankBound 0 1 = false ∧ (tst.tloadRun here 1 ((tst.issue .tload e).uA tst).toNat).isLeft = true ∧
      activeB .tload e b = true ∧ b.bankQueue 0 = [] ∧ (b.core 0).curBank ≠ 1 ∧ b.bankBound 0 1 = true ∧
      activeB .tload c tst = true ∧ (tst.core 0).curBank = 0 ∧ activeB .tload e r = true ∧ (r.issue .tload e).st.region.isSome = true ∧ activeB .tload e queueing = true ∧ queueing.bankQueue 0 ≠ []) ∧
    (let e := { e2 31 0 0 1 0 with i := true }; activeB .tflip e tst = true ∧ tst.bankQueue 0 = [] ∧ activeB .tflip e queueing = true) := by decide

/-- CrossLaneResults and CrossLaneIsolation: each destination class and operation, and the two readings of SHUF. -/
theorem witness_crosslane : (actives tst [(.shuf, { e2 31 3 1 5 2 0 1 with i := true }), (.perm, e2 23 3 1 2 2 0 1), (.bcast, e2 1 3 1 2 0), (.bcast, e2 11 3 1 2 0), (.vote, e2 1 3 1 0 0 3), (.vote, e2 1 3 1 0 0 0),
      (.vote, e2 25 3 1 0 0 3), (.redu, e2 1 3 1 0 0 5), (.redu, e2 10 3 1 0 0 6), (.redu, e2 10 3 1 0 0 7), (.scan, e2 10 3 1 0 0 0 1), (.matchLanes, e2 10 3 1 0 0 0), (.matchLanes, e2 10 3 1 0 0 1),
      (.matchLanes, e2 25 3 1 0 0 0), (.matchLanes, e2 25 3 1 0 0 1)] &&
    (tst.issue .vote (e2 1 3 1 0 0 3)).dClass == .s && (tst.issue .vote (e2 25 3 1 0 0 3)).dClass == .k && (tst.issue .redu (e2 1 3 1 0 0 5)).dClass == .s &&
    (tst.issue .redu (e2 10 3 1 0 0 6)).dClass == .v && (tst.issue .matchLanes (e2 10 3 1 0 0 1)).dClass == .v && (tst.issue .matchLanes (e2 25 3 1 0 0 1)).dClass == .k &&
    (tst.issue .bcast (e2 11 3 1 2 0)).dClass != .s) = true := by decide

/-- BranchesAndCalls: branches with the whole group, none of it and a part of it under the guard; aligned targets, and a target of lane 1 that is not. -/
theorem witness_branches :
    (let e := fun g len => ({ e2 31 4 0 0 0 with g := g, len := len } : Enc); let i := fun g => tst.issue .brd (e g .three)
      actives tst [(.br, e 1 .two), (.br, e 2 .two), (.brd, e 1 .three), (.brd, e 2 .three)] = true ∧ (i 1).act = (i 1).group ∧ (i 2).act ≠ (i 2).group ∧ (i 2).act ≠ 0 ∧
      (i 3).act = 0 ∧ (i 3).firstTrap tst = none) ∧
    (actives tst [(.bru, e2 31 1 4 0 0), (.bru, e2 31 0 4 0 0 1), (.jmp, e2 31 4 0 0 0), (.call, e2 31 4 0 0 3)] = true) ∧
    (let s := tstWith fun st => { st with regs := { st.regs with v := [(1, Lanes.of fun l => BitVec.ofNat 32 (4 * l)), (2, Lanes.of fun l => BitVec.ofNat 32 l)] } };
      actives s [(.jmpi, e2 31 0 1 0 0 1), (.jmpi, e2 31 0 2 0 0 1), (.calli, e2 31 0 1 0 3 1), (.calli, e2 31 0 2 0 3 1), (.ret, e2 31 0 1 0 0), (.ret, e2 31 0 2 0 0)] = true ∧
      (∀ l < 32, (s.readReg here (.v 1) l).toNat % 4 = 0) ∧ (s.readReg here (.v 2) 0).toNat % 4 = 0 ∧ (s.readReg here (.v 2) 1).toNat % 4 ≠ 0) := by decide

/-- RegionsExitAndHalt: IDEM with live-ins, EXIT of a strand with no stream and of the last strand of a comb with one, YIELD converged, diverged, and diverged after a recent LRES. -/
theorem witness_regions :
    (actives tst [(.nop, e2 31 0 0 0 0), (.idem, e2 31 1 4 0 0 0 1), (.exit, e2 31 0 0 0 0), (.halt, { e2 31 0 0 1 0 with i := true })] = true ∧ tst.exitWaits here = false) ∧
    (let s := tstCore fun k => { k with matrix := { k.matrix with stream := some { slot := 0, strand := 0, tenant := 0, priv := false, pc := 0 } } };
      activeB .exit (e2 31 0 0 0 0) s = true ∧ (s.issue .exit (e2 31 0 0 0 0)).act = (s.strand here).live ∧ s.exitWaits here = true) ∧
    (let e := { e2 31 0 0 0 0 with len := .one }; let r := diverged.onStrand here fun st => { st with flight := { st.flight with resv := (List.range 32).map fun l => (l, some { addr := 0, pa := 0, gt := 0, cycle := 0, order := 0 }) } };
      activeB .yield e tst = true ∧ (tst.strand here).converged = true ∧ activeB .yield e diverged = true ∧ (diverged.strand here).converged = false ∧ (diverged.strand here).burstFree 0 = true ∧
      activeB .yield e r = true ∧ (r.strand here).converged = false ∧ (r.strand here).burstFree 0 = false) := by decide

/-- TrapEntry and TrapReturn: no handler active, no debugger attached; a strand whose handler is active; a TPC that TRET takes and one that it refuses. -/
theorem witness_traps :
    (MayTrap tst tst.cur ∧ actives tst [(.trap, e2 31 0 0 1 0), (.brk, e2 31 0 0 1 0), (.sysc, e2 31 0 0 1 0)] = true ∧ tst.mgmt.dbgAtt = false) ∧
    (let s := tstWith fun st => { st with trap := { st.trap with tcause := 0x800 } }; activeB .trap (e2 31 0 0 1 0) s = true ∧ (s.strand s.cur).entryFree = true ∧ (s.strand s.cur).act = true) ∧
    (let s := fun (p : Dbl) => tstWith fun st => { st with trap := { st.trap with tcause := 0x800, tmask := 0xFFFF, tpc := p } };
      activeB .tret (e2 31 0 0 0 0) (s 0x10004) = true ∧ activeB .tret (e2 31 0 0 0 0) (s 0x10006) = true ∧ activeB .tret (e2 31 0 0 0 0) (s 0x0200000000000000) = true) :=
  ⟨⟨mayTrap_tst, by decide, by decide⟩, by decide, by decide⟩

/-- IssueChecks: the privileged instructions in a strand without privilege; a partial uniform write; a guard that no lane meets. -/
theorem witness_issueChecks :
    (let s := tstWith fun st => { st with trap := {} }; (s.strand s.cur).trap.priv = false ∧ (s.strand s.cur).entryFree = true ∧ (s.strand s.cur).act = false ∧
      ([(.tret, e2 31 0 0 0 0), (.ctxsv, e2 31 0 8 0 0), (.ctxld, e2 31 0 8 0 0), (.halt, e2 31 0 0 1 0), (.srd, e2 31 1 17 0 0), (.srd, e2 31 1 24 0 0), (.swr, e2 31 0 17 1 0), (.swr, e2 31 0 24 1 0)]
        : List (Op × Enc)).all (fun (o, e) => (o.instr e).wellFormed && s.mayIssue s.cur && !(s.issue o e).blocked s && (s.strand s.cur).ahead.isNone) = true) ∧
    (let e := e2 0 3 1 2 0; let i := diverged.issue .add e; diverged.mayIssue diverged.cur = true ∧ i.blocked diverged = false ∧ (diverged.strand here).ahead = none ∧ i.windowTrap = none ∧ i.act ≠ 0 ∧
      i.act ≠ (diverged.strand here).live) ∧
    ([(.add, e2 11 3 1 2 0), (.mov, e2 10 3 1 0 0), (.fadd, e2 10 3 1 2 0), (.kand, e2 29 3 1 2 0), (.vote, e2 25 3 1 0 0), (.ld, e2 21 3 1 0 0), (.st, e2 21 3 1 0 0),
      (.atom, e2 21 3 1 2 0), (.trap, e2 31 0 0 1 0), (.brk, e2 31 0 0 1 0), (.sysc, e2 31 0 0 1 0), (.exit, e2 31 0 0 0 0)] : List (Op × Enc)).all (fun (o, e) => let e := { e with g := 3 }
        (o.instr e).wellFormed && tst.mayIssue tst.cur && !(tst.issue o e).blocked tst && ((tst.issue o e).firstTrap tst).isNone && (tst.issue o e).act == 0) = true := by decide

/-- `tst` with 8 varying registers, an open region that declares s3, a3, v3 and k3, and marked positions of s1, a1, v1 and k1. -/
def checked (region marks : Bool) : State := tstWith fun st =>
  { st with sp := { st.sp with n := 8 }, marks := if marks then { s := [(1, BitVec.allOnes 32)], a := [(1, BitVec.allOnes 32)], v := [(1, 0x10)], k := [(1, 1)] } else {}
            region := if region then some { entry := 0x10000, first := 0, v := some (3, 3), s := some (3, 3), a := some (3, 3), k := [3], ssp := 0x1000, wb := 0, mode := 0, part := 0 } else none }

/-- The instruction may issue in the state, and is permitted and inside the window. -/
def permittedB (o : Op) (e : Enc) (s : State) (window : Bool) : Bool :=
  (o.instr e).wellFormed && (o.instr e).parts == some (o, e) && s.cur.strand != seqIndex && s.mayIssue s.cur && !(s.issue o e).blocked s && (s.strand s.cur).ahead.isNone && (!o.privileged e || (s.strand s.cur).trap.priv) &&
    (!window || (named o e s).all fun r => match r with | .v k => k < (s.strand s.cur).sp.n | _ => true)

/-- IssueChecks: a varying register past the window as a source, as a destination, in a prefetch, and in the range of IDEM; a partial issue of instructions that change what all lanes share; a live-in of each class written; and a marked source of each class. -/
theorem witness_windowAndShared :
    (MayTrap (checked false false) here ∧ ([(.add, e2 11 0 8 0 0, 8), (.add, e2 11 9 1 2 0, 9), (.pref, e2 11 0 10 0 8 0 1, 10), (.idem, e2 31 8 9 0 0 0 1, 8)] : List (Op × Enc × Nat)).all
      (fun (o, e, m) => permittedB o e (checked false false) false && (named o e (checked false false)).contains (.v m) && decide (8 ≤ m) && (named o e (checked false false)).all fun r => match r with | .v k => k < 8 || m ≤ k | _ => true) = true) ∧
    (MayTrap diverged here ∧ ([(.wbase, e2 0 0 0 2 0), (.sspset, e2 0 0 0 2 0), (.pushm, e2 31 0 8 0 0), (.popm, e2 31 0 8 0 0), (.add, e2 0 3 1 2 0), (.add, e2 0 70 1 2 0), (.add, e2 4 3 1 2 0), (.srd, e2 31 8 7 0 0 2)] : List (Op × Enc)).all
      (fun (o, e) => permittedB o e diverged true && (o ∈ [.wbase, .sspset, .pushm, .popm] || (o.writes e 0).any fun r => match r with | .s _ => true | .w _ => true | .a _ => true | _ => false) &&
        (diverged.issue o e).act != 0 && (diverged.issue o e).act != (diverged.strand here).live) = true) := ⟨⟨⟨by decide, by decide⟩, by decide⟩, ⟨by decide, by decide⟩, by decide⟩

theorem witness_clobberAndPoison :
    (MayTrap (checked true false) here ∧ ([(.add, e2 0 3 1 2 0, .s 3), (.add, e2 4 3 1 2 0, .a 3), (.add, e2 11 3 1 2 0, .v 3), (.kand, e2 29 3 1 2 0, .k 3)] : List (Op × Enc × Reg)).all (fun (o, e, x) => let s := checked true false
      permittedB o e s true && (s.issue o e).act == (s.strand here).live && (s.issue o e).act != 0 && (o.writes e 0).contains x && ((s.strand here).region.elim false fun r => r.holds x && (o.writes e 0).all fun y => !r.holds y || y == x)) = true) ∧
    (MayTrap (checked false true) here ∧ ([(.add, e2 0 3 1 2 0, .s 1), (.add, e2 4 3 1 2 0, .a 1), (.add, e2 11 3 1 2 0, .v 1), (.kand, e2 29 3 1 2 0, .k 1)] : List (Op × Enc × Reg)).all (fun (o, e, x) => let s := checked false true; let i := s.issue o e
      permittedB o e s true && i.act == (s.strand here).live && (s.strand here).region.isNone && e.g == 0 && (o.reads e 0).contains x && o.crossReg e 0 != some x && (o.reads e 0).all (fun y => y == x || i.poisonOf s y == 0) &&
      (i.poisonOf s x &&& i.act) != 0 && x.num < 256) = true) ∧
    (let s := (tstS [(2, 2)]).onComb 0 0 fun k => { k with wordMarks := [(6, true)] }; let e := e2 0 3 70 2 0; let i := s.issue .add e; permittedB .add e s true = true ∧ i.act ≠ 0 ∧ (Op.add.reads e 0).contains (.w 6) = true ∧ i.poisonOf s (.w 6) ≠ 0) :=
  ⟨⟨⟨by decide, by decide⟩, by decide⟩, ⟨⟨by decide, by decide⟩, by decide⟩, by decide⟩

theorem linked_some : ((List.range 993).all fun u => (List.range 993).any fun v => linked u v) = true := by decide +kernel

/-- Port 0 of this device leads to a device, whichever of the 993 it is (R371). -/
theorem port0_some : (neighbourAt self 0).isSome = true := by
  obtain ⟨v, m, h⟩ := List.any_eq_true.1 (List.all_eq_true.1 linked_some self (List.mem_range.2 Config.device.isLt))
  rw [neighbourAt, List.getElem?_eq_getElem (List.length_pos_of_mem (List.mem_filter.2 ⟨m, h⟩))]
  rfl

/-- The places that the accesses of a list reach. -/
def places (s : State) (i : Issue) (sp : Space) (l : List (Nat × Nat)) (n : Need) : List Spot := spotsOf (s.locateAll i.w i.st.trap.priv sp n.acc l)

/-- The conditions of `Reaches`, computed. -/
def reachesB (s : State) (i : Issue) (sp : Space) (l : List (Nat × Nat)) (n : Need) : Bool :=
  let p := places s i sp l n
  (l.all fun x => x.2 % n.size == 0) && (l.all fun x => s.addressOk i.w sp x.2 n.size) && s.locateAll i.w i.st.trap.priv sp n.acc l == p.map Located.ok &&
  (n.more p).isNone && (p.all fun x => !s.conflictAt i.w sp n.use x.addr n.size) && (sp != .fabric || (s.fabric.down.isEmpty && p.all fun x => (s.route (fabDev x.addr)).valid && (s.route (fabDev x.addr)).minp == 0))

theorem reaches_of {s : State} {i : Issue} {sp : Space} {l : List (Nat × Nat)} {n : Need} (h : reachesB s i sp l n = true) : Reaches s i sp l n (places s i sp l n) := by
  simp only [reachesB, Bool.and_eq_true, List.all_eq_true, beq_iff_eq, Bool.not_eq_true', Option.isNone_iff_eq_none, Bool.or_eq_true, bne_iff_ne] at h
  refine ⟨h.1.1.1.1.1, h.1.1.1.1.2, h.1.1.1.2, h.1.1.2, h.1.2, fun e x hx => ?_⟩
  obtain ⟨d, r⟩ := h.2.resolve_left fun c => c e
  simp [State.reachable, State.portUp, (r x hx).1, (r x hx).2, List.isEmpty_iff.1 d, port0_some]

/-- The instructions of the list are well formed and active, and each reaches its places with the need that stands beside it. -/
def accesses (s : State) (offset : Bool) (l : List (Op × Enc × (Issue → Need))) : Bool :=
  l.all fun (o, e, n) => let i := s.issue o e; (o.instr e).wellFormed && activeB o e s && reachesB s i (spaceOf e) (i.targets s offset) (n i)

theorem accesses_spec {s : State} {offset : Bool} {l : List (Op × Enc × (Issue → Need))} (h : accesses s offset l = true) {o : Op} {e : Enc} {n : Issue → Need} (m : (o, e, n) ∈ l) :
    let i := s.issue o e; Active o e s ∧ Reaches s i (spaceOf e) (i.targets s offset) (n i) (places s i (spaceOf e) (i.targets s offset) (n i)) := by
  have := List.all_eq_true.1 h _ m
  simp only [Bool.and_eq_true] at this
  exact ⟨active_of this.1.2, reaches_of this.2⟩

/-- SpecialRegisters: each word of a special register, the lease length 1, 64 and 65, and what SWR takes and refuses. -/
theorem witness_specialRegisters :
    (actives tst [(.srd, e2 31 10 7 0 0 0), (.srd, e2 31 10 7 0 0 1), (.srd, e2 31 10 7 0 0 2), (.gtime, e2 31 10 0 0 0 0), (.gtime, e2 31 10 0 0 0 1)] = true) ∧
    (let s := tstS [(1, 1), (2, 64), (3, 65)]; let e := fun n => e2 31 10 0 n 0 1; let v := fun n => ((s.issue .lease (e n)).opB s).toNat; actives s [(.lease, e 1), (.lease, e 2), (.lease, e 3)] = true ∧
      v 1 = 1 ∧ v 2 = 64 ∧ v 3 = 65) ∧
    (let s := tstS [(1, 0x9000), (2, 1), (3, 255), (4, 256)]; let refused := fun n b => swrTrap (s.issue .swr (e2 31 0 n b 0)) s
      ([6, 7, 8, 9, 10, 12, 17, 18, 19, 20, 22, 23, 24].all fun n => activeB .swr (e2 31 0 n 1 0) s) = true ∧ refused 17 1 = none ∧ (refused 17 2).isSome = true ∧ ((s.issue .swr (e2 31 0 17 2 0)).offered s) &&& 0xFE0000000000003F ≠ 0 ∧
      refused 12 4 = none ∧ (refused 12 2).isSome = true ∧ (refused 12 3).isSome = true ∧ refused 18 1 = none ∧ refused 10 1 = none) := by decide

/-- A strand with 8 varying registers and an image in memory at 0x12000 whose fields are well-formed. -/
def imaged : State := { (tstWith fun st => { st with sp := { st.sp with n := 8 } }) with
  memory := { tst.memory with mem := Mem.writeCells tst.memory.mem [(0x12025, 0x10), (0x12030, 8), (0x12032, 1), (0x12033, 1)] } }

/-- What an image needs of its accesses. -/
def imageNeed (a : Access) (u : LockUse) : Need := { size := 32, acc := a, use := u, more := noMore }

/-- ContextImages, CTXSV: an image of its own at 0x12000. -/
theorem witness_contextSave : let e := e2 31 0 8 0 0; let i := imaged.issue .ctxsv e; let n := imageNeed .write .write
    Active .ctxsv e imaged ∧ (imaged.readPair here 8).toNat % 64 = 0 ∧ (imaged.strand here).entryFree = true ∧ (imaged.strand here).imagePending = false ∧ Reaches imaged i .global (imageTargets 8 0x12000) n (places imaged i .global (imageTargets 8 0x12000) n) :=
  ⟨active_of (by decide +kernel), by decide +kernel, by decide +kernel, by decide +kernel, reaches_of (by decide +kernel)⟩

/-- ContextImages, CTXLD: an image that loads and, where memory lists nothing there, one whose SSP is out of range. -/
theorem witness_contextLoad : let e := e2 31 0 8 0 0; let n := imageNeed .read .read; let l := imageTargets 8 0x12000
    (Active .ctxld e imaged ∧ Reaches imaged (imaged.issue .ctxld e) .global l n (places imaged (imaged.issue .ctxld e) .global l n)) ∧
    (let s : State := { imaged with memory := tst.memory }; Active .ctxld e s ∧ MayTrap s here ∧ Reaches s (s.issue .ctxld e) .global l n (places s (s.issue .ctxld e) .global l n)) ∧
    (let s := tstS [(8, 0x12020)]; Active .ctxsv e s ∧ Active .ctxld e s ∧ (s.readPair here 8).toNat % 64 ≠ 0) :=
  ⟨⟨active_of (by decide +kernel), reaches_of (by decide +kernel)⟩, ⟨active_of (by decide +kernel), ⟨by decide +kernel, by decide +kernel⟩, reaches_of (by decide +kernel)⟩,
   ⟨active_of (by decide +kernel), active_of (by decide +kernel), by decide +kernel⟩⟩

theorem witness_contextFields : let n := imageNeed .read .read; let l := imageTargets 8 0x12000
    let first := fun (s : State) => let p := places s (s.issue .ctxld (e2 31 0 8 0 0)) .global l n; let r := s.rememberAll here .global l; let q := r.payIssue here (p.map fun x => lineOf x.pa).dedup
      ((p.all fun x => !r.homeWaits (lineOf x.pa)), q.1, (q.2.readImage (p.map fun x => (x.addr, x.pa)) fun va pa => q.2.ownRead here va pa 32).firstBad (s.strand here))
    first imaged = (true, true, none) ∧ first { imaged with memory := tst.memory } = (true, true, some 36) ∧ (imaged.core 0).shares.en = false := by decide +kernel

/-- `tst` with a route to device 5 through port 0, and a fabric address of it in s10 and s11. -/
def fabbed : State := { (tstS [(1, 1), (6, 0x100), (8, 0x12000), (11, 0x01400000)]) with fabric := { down := [], routes := [(5, { valid := true, direct := true })] } }

/-- `tst` with a second core that holds such a comb, and the aperture address of its LM in s6. -/
def peered : State := (tstS [(6, 0x80100)]).onCore 1 fun _ => tst.core 0

/-- Loads, Stores and PrefetchesAndBlocks: each space, in the lanes of an affine address and once for the strand. -/
theorem witness_accesses :
    accesses tst true [(.ld, e2 21 3 1 6 0, loadNeed), (.ldg, e2 21 4 4 6 0, loadNeed), (.st, e2 21 3 1 6 0, storeNeed), (.sts, e2 21 4 4 6 0, storeNeed),
      (.ld, e2 21 3 1 0 8 0 1, loadNeed), (.ldg, e2 21 4 4 0 8 0 1, loadNeed), (.st, e2 21 3 1 0 8 0 1, storeNeed), (.sts, e2 21 4 4 0 8 0 1, storeNeed), (.ld, e2 0 3 6 0 8 0 1, loadNeed),
      (.lres, e2 21 3 1 0 8 0 1, fun _ => { size := 4, acc := .read, use := .read, more := noMore })] = true ∧
    accesses peered true [(.ld, e2 21 3 4 6 0 0 2, loadNeed), (.ldg, e2 21 4 4 6 0 0 2, loadNeed), (.st, e2 21 3 4 6 0 0 2, storeNeed), (.sts, e2 21 4 4 6 0 0 2, storeNeed)] = true ∧
    accesses tst false [(.scnd, e2 24 3 1 1 8 0 1, fun _ => { size := 4, acc := .write, use := .write, more := noMore })] = true ∧
    ([e2 21 3 1 6 0, e2 21 3 4 6 0 0 2, e2 21 3 1 0 8 0 1].map spaceOf = [.lm, .peer, .global]) := by decide +kernel

theorem witness_fabricAccesses : accesses fabbed true [(.ld, e2 0 12 6 0 10 0 3, loadNeed), (.ldg, e2 0 12 6 0 10 0 3, loadNeed), (.st, e2 0 12 6 0 10 0 3, storeNeed)] = true ∧ spaceOf (e2 0 12 6 0 10 0 3) = .fabric := by decide

/-- A lock entry of a copy in another slot, over these ranges of LM. -/
def copying (src dst : Nat) (bar : Option Nat) : LockEntry :=
  { id := 7, slot := 1, tenant := 0, src := some { space := 0, lo := src, hi := src + 64 }, dst := some { space := 0, lo := dst, hi := dst + 64 }, bar := bar }

/-- AddressFaults: a load that meets the destination of a copy, and stores that meet its destination, its source and its barrier. -/
theorem witness_rangeConflicts : MayTrap tst here ∧
    (let at_ := fun (k : LockEntry) => tst.onCore 0 fun c => { c with locks := [k] }; let e := e2 21 4 4 6 0;
      let stops := fun (s : State) (o : Op) (store : Bool) => let i := s.issue o e; let n := i.accessSize; let l := i.targets s true; let k := (s.core 0).locks.headD (copying 0 0 none)
        let hits := fun (y : Nat × Nat) => let p := s.lmPhys 0 0 y.2; let covers := fun (r : Range) => r.space == 0 && meets p n r.lo r.hi
          (k.dst.any covers) || store && (k.src.any covers || k.bar.any fun b => meets p n b (b + 8))
        activeB o e s && spaceOf e == .lm && (l.all fun y => y.2 % n == 0 && s.addressOk here .lm y.2 n) && (l.find? hits).isSome
      stops (at_ (copying 0x800 0x300 none)) .ld false && stops (at_ (copying 0x800 0x300 none)) .ldg false && stops (at_ (copying 0x800 0x300 none)) .st true && stops (at_ (copying 0x300 0x800 none)) .st true &&
        stops (at_ (copying 0x800 0x900 (some 0x308))) .sts true) = true := ⟨mayTrap_tst, by decide +kernel⟩

/-- `tst` in which every table walk waits for a line that an MCAS holds. -/
def walkWaits : State := { tst with tlb := {}, memory := { tst.memory with locks := [{ line := 0x1000, owner := { here with slot := 9 }, until_ := none }] } }

/-- Prefetches: each level, with no walk that waits and with one. -/
theorem witness_prefetches : ((List.range 3).all fun sub => let e := e2 21 0 1 0 8 sub 1; let waits := fun (s : State) =>
      (((s.issue .pref e).slots ((s.issue .pref e).prefLanes s)).map fun l => (s.issue .pref e).addr s true l).map fun a => match s.translate 0 0 true .read a with | .error .waits => true | _ => false;
    (Op.instr .pref e).wellFormed && activeB .pref e tst && activeB .pref e walkWaits && (waits tst).length == 32 && (waits tst).all (!·) && (waits walkWaits).any id) = true := by decide +kernel

/-- BufferedStoresFrame: an entry of the strand for the line of a byte beside the bytes that the lanes store to. -/
theorem witness_storesFrame : let s := tst.onCore 0 fun k => { k with wcb := [{ id := 0, slot := 0, strand := 0, frame := 0, fabric := false, va := 0x12200, pa := 0x12200, mask := 0xF0, data := 0, opened := 0, touched := 0, owed := 0, access := 0, last := 0 }] }
    accesses s true [(.st, e2 21 3 4 0 8 0 1, storeNeed), (.sts, e2 21 4 4 0 8 0 1, storeNeed)] = true ∧
    (let e := e2 21 3 4 0 8 0 1; let i := s.issue .st e; let a := 0x12204; let mine := (s.core 0).wcb.filter fun x => x.of here && !x.fabric && x.va == lineOf a
      mine.length = 1 ∧ (∀ l ∈ i.slots i.act, a < i.addr s true l ∨ i.addr s true l + i.accessSize ≤ a) ∧
      ∀ x ∈ mine, ∀ y ∈ places s i .global (i.targets s true) (storeNeed i), lineOf y.addr = lineOf a → x.pa = lineOf y.pa) := by decide +kernel

/-- Loads: the sectors of a load fit; a constant is reached. AddressFaults: the lowest lane is misaligned, and outside the window. -/
theorem witness_loads :
    (let i := tst.issue .ld (e2 21 3 1 0 8 0 1); let secs := (tst.partsOf i .global (places tst i .global (i.targets tst true) (loadNeed i))).map (fun p => p.pa / 32) |>.dedup
      secs ≠ [] ∧ (tst.strand here).oc + secs.length ≤ 64) ∧
    (let i := tst.issue .ldc (e2 0 3 8 0 0); activeB .ldc (e2 0 3 8 0 0) tst = true ∧ reachesB tst i .global ((i.slots i.act).map fun l => (l, i.constAddr tst l)) { size := 4, acc := .read, use := .read, more := noMore } = true) ∧
    ([Op.ld, .ldg, .st, .sts].all fun o => let i := tst.issue o (e2 21 4 4 1 0); let j := tst.issue o (e2 21 4 4 8 0)
      activeB o (e2 21 4 4 1 0) tst && (i.targets tst true).find? (fun y => y.2 % i.accessSize != 0) == some (0, 0x201) &&
      activeB o (e2 21 4 4 8 0) tst && (j.targets tst true).all (fun y => y.2 % j.accessSize == 0) &&
      (j.targets tst true).find? (fun y => !tst.addressOk here (spaceOf (e2 21 4 4 8 0)) y.2 j.accessSize) == some (0, 0x12200)) = true := by decide

/-- PrefetchesAndBlocks: an MX block and its scale in the window. -/
theorem witness_blocks :
    ([Op.mxld, .mxst].all fun o => let e := e2 17 4 6 6 0 4; let a := (tst.issue o e).mxAddrs tst; let n := mxBytes 4
      (o.instr e).wellFormed && activeB o e tst && spaceOf e == .lm && a.1 % 8 == 0 && decide (a.1 % 64 + n ≤ 64) && tst.inWindow 0 0 a.1 n && tst.inWindow 0 0 a.2 1 &&
      [LockUse.read, .write].all fun u => !tst.lockConflict 0 u 0 (tst.lmPhys 0 0 a.1) n (tst.tenantOf 0 0) && !tst.lockConflict 0 u 0 (tst.lmPhys 0 0 a.2) 1 (tst.tenantOf 0 0)) = true := by decide

/-- A state at a later GT. -/
def later (s : State) (gt : Nat) : State := { s with clock := { s.clock with gt := gt } }

/-- Pending tokens of a strand. -/
def tokened (l : List PendingToken) : State := tstWith fun st => { st with flight := { st.flight with tokens := l } }

/-- FencesAndBarriers: with nothing to wait for, with four tokens pending, a token that is due, FWAIT at a token that has passed and at one that has not, and a barrier whose participants have all arrived. -/
theorem witness_fences :
    (let e := e2 31 12 0 0 0; let d := (tst.onStrand here Strand.closeRegion).drainWhere here fun x => scopeOf e.sub == .system || !x.fabric
      activeB .fence e tst = true ∧ (tst.strand here).flight.tokens = [] ∧ d.covered here (scopeOf e.sub) = [] ∧ (d.strand here).flight.lines = [] ∧ e.d.toNat < 64) ∧
    (let s := tokened ((List.range 4).map fun k => { reg := 20 + k, scope := .device, ids := [], lines := [], term := 0 }); activeB .fence (e2 31 12 0 0 0) s = true ∧
      4 ≤ ((s.strand here).flight.tokens.filter fun t => t.reg < 64).length ∧
      (s.strand here).flight.tokens.find? (fun t => t.reg == 20) = some { reg := 20, scope := .device, ids := [], lines := [], term := 0 }) ∧
    (let s := later tst 9; let passed := fun n => !(s.strand here).pendingRegs.contains (.s n) && gtPassed 9 (Tab.get 0 (s.strand here).regs.s n);
      actives s [(.fwait, e2 31 0 1 0 0), (.fwait, e2 31 0 5 0 0), (.ftest, e2 31 10 1 0 0), (.barc, { e2 31 0 0 3 0 0 with i := true })] = true ∧ passed 1 = true ∧ passed 5 = false) ∧
    (let t := later (does (.fwait (e2 31 0 5 0 0)) tst) 0x80000000; (t.strand here).sched.wait = some (.fwait 5) ∧ (t.strand here).pendingRegs.contains (.s 5) = false ∧
      gtPassed t.clock.gt (Tab.get 0 (t.strand here).regs.s 5) = true) ∧
    ((later (does (.barc { e2 31 0 0 3 0 0 with i := true }) tst) 1).barcReady 0 0 3 = true) := by decide +kernel

/-- `tst` after a load of four sectors of device memory homed on its own die. -/
def loading : State := does (.ld (e2 21 3 1 0 14 0 1)) tst

/-- `tst` after a store to two whole lines homed on its own die: each entry drains at once. -/
def storing : State := does (.st (e2 21 2 1 0 14 0 1)) tst

/-- Memory changed. -/
def tstMem (f : Memory → Memory) : State := { tst with memory := f tst.memory }

/-- LoadsComplete: a sector whose turn has come and that its home binds; one that has returned; a load whose line is far. -/
theorem witness_loadsComplete :
    (let l := (loading.strand here).load? 0; l.isSome = true ∧ (l.elim false fun l => l.reserve.isEmpty && l.via != .fabric && !l.discard && !l.sectors.any fun x => x.2.isSome) = true ∧
      loading.mayPerform here 0 33288 = true ∧ (l.elim false fun l => l.via == .l1) = true ∧ (loading.core 0).shares.en = false ∧ (loading.payLine here 0 (lineOf (32 * 33288))).1 = true ∧
      liveCopy (loading.core 0).l1 33288 loading.clock.gt = none ∧ dieOf 0 = homeDie (lineOf (32 * 33288)) ∧ loading.homeWaits (lineOf (32 * 33288)) = false ∧ loading.failed (32 * 33288) = false) ∧
    (let s := loading.onStrand here fun st => st.onLoad 0 fun l => { l with sectors := l.sectors.map fun x => if x.1 = 33288 then (x.1, some (0, false)) else x }; ((s.strand here).load? 0).elim false (fun l => (l.sectors.find? fun x => x.1 == 33288) == some (33288, some (0, false))) = true) ∧
    (let s := does (.ld (e2 21 3 1 0 14 0 1)) { tst with memory := { tst.memory with pages := [] } }; s.mayPark here = true) := by decide +kernel

theorem witness_bindSector : let s := (loading.payLine here 0 (lineOf (32 * 33288))).2
    s.bindLocal 0 4 33288 .l1 = none ∧ (s.bindSector 0 4 33288 .l1 true).1.isSome = true ∧ (s.bindSector 0 4 33288 .l1 false).1.isSome = true := by
  have h : liveCopy ((loading.payLine here 0 (lineOf (32 * 33288))).2.core 0).l1 33288 (loading.payLine here 0 (lineOf (32 * 33288))).2.clock.gt = none := by decide +kernel
  simp only [State.bindSector, State.bindLocal, h, ite_self]
  decide +kernel

/-- LoadsComplete: a prefetch whose turn has come, for each of the levels that hold no register, and a page that it may make resident. -/
theorem witness_prefetched : (∀ x ∈ ([(1, LoadVia.l2), (2, .hbm)] : List (Nat × LoadVia)), let s := (does (.pref (e2 21 0 1 0 8 x.1 1)) tst).onStrand here fun st => st.onLoad 0 fun l => { l with paid := [0x12100] }
      ((s.strand here).load? 0).elim false (fun l => l.via == x.2 && l.paid.contains (lineOf (32 * 2312))) = true ∧ s.mayPerform here 0 2312 = true) ∧
    (let s := tstMem fun m => { m with pages := [] }; let line := lineOf (32 * 2312); isDevice line = true ∧ (s.page line).noalloc = false ∧ s.canAllocate (line / 65536) = true ∧ s.locked line = false ∧ s.failed line = false ∧ (s.page line).resident = false) := by decide +kernel

/-- `tst` with an entry of the write-combining buffer whose bytes are all written, or its first four. -/
def buffered (full : Bool) : State := tst.onCore 0 fun k => { k with wcb := [{ id := 0, slot := 0, strand := 0, frame := 0, fabric := false, va := 0x104000, pa := 0x104000, mask := if full then BitVec.allOnes 64 else 0xF, data := 0, opened := 0, touched := 0, owed := 0, access := 0, last := 0 }] }

/-- StoresComplete: a full entry, one idle for 32 cycles, one of a strand that has ended, a drained entry that may be applied, and one that has been. -/
theorem witness_storesComplete :
    (((((buffered true).core 0).wcb.find? fun x => x.id == 0).elim false fun x => !x.fabric && x.mask == BitVec.allOnes 64) = true) ∧
    (let s := (buffered false).onStrand here fun st => { st with live := 0 }; ((s.core 0).wcb.find? fun x => x.id == 0).elim false (fun x => !x.fabric && (s.strand (x.sid 0)).live == 0) = true) ∧
    (let s := { buffered false with clock := { tst.clock with cycle := 32 } }; ((s.core 0).wcb.find? fun x => x.id == 0).elim false (fun x => !x.fabric && decide (x.touched + 32 ≤ s.clock.cycle)) = true) ∧
    (let s := storing; ((s.core 0).drains.find? fun d => d.entry.id == 0).elim false (fun d => s.mayApply 0 d && !(s.core 0).shares.en && dieOf 0 == homeDie d.entry.pa) = true) ∧
    (let s := does (.homeStoreApply 0 0) storing; ((s.core 0).drains.find? fun d => d.entry.id == 0).elim false (fun d => d.applied.isSome) = true) := by decide +kernel

/-- `tst` with one live lane, after an LRES. -/
def reserving : State := does (.lres (e2 21 3 1 0 8 0 1)) (tstWith fun st => { st with live := 1 })

/-- `tst` with an SCND of one lane in flight, and a reservation of its word or none. -/
def storingIf (held : Bool) : State := tstWith fun st => { st with flight := { st.flight with
  resv := if held then [(takenPlace 5 0, some { addr := 0x12100, pa := 0x12100, gt := 0, cycle := 0, order := 0 })] else []
  atomics := [{ id := 5, kind := .scnd, scalar := false, fabric := false, parts := [{ lane := 0, va := 0x12100, pa := 0x12100, data := 9, new := 0 }], active := 1, done := [], failed := [], lost := [], poison := [], dest := some 3, pc := 0x10000, lines := [] }] } }

/-- ReservationsAndSnoops: the load of an LRES whose turn has come, an SCND with and without its reservation, and one whose lanes are all decided. -/
theorem witness_reserve :
    (((reserving.strand here).load? 0).elim false fun l => l.via == .home && !l.discard && l.parts.length == 1 && l.parts.all (fun p => p.pa / 32 == 2312 && p.lane == 0) && l.reserve == [(0, 0)]) = true ∧
    reserving.mayPerform here 0 2312 = true ∧ (reserving.core 0).shares.en = false ∧ reserving.homeWaits (lineOf (32 * 2312)) = false ∧ (sliceResvs reserving 0x12100).length < 512 ∧
    (∀ held : Bool, let s := storingIf held; ((s.strand here).atomic? 5).elim false (fun a => a.kind == .scnd && !a.fabric) = true ∧ ((s.readyGroups here 5).map List.length) = [1] ∧ 0x12100 % 4 = 0 ∧ (s.core 0).shares.en = false ∧
      (match Tab.get none (s.strand here).flight.resv (takenPlace 5 0) with | some r => r.addr == 0x12100 && s.clock.gt < r.gt + 2000 | none => false) = held) ∧
    (let s := tstWith fun st => { st with flight := { st.flight with atomics := [{ id := 5, kind := .scnd, scalar := false, fabric := false, parts := [], active := 3, done := [(0, 1), (1, 0)], failed := [], lost := [], poison := [], dest := some 3, pc := 0x10000, lines := [] }] } };
      ((s.strand here).atomic? 5).elim false (fun a => a.kind == .scnd && a.parts.isEmpty && a.lost.isEmpty && a.poison.isEmpty && !a.fabric && a.dest == some 3) = true) := by decide +kernel

/-- ReservationsAndSnoops: a reservation before and after its end, a host line that the module holds and one that it does not, a line of a shared extent, and an answer that is due or not. -/
theorem witness_reservations :
    (let s := tstWith fun st => { st with flight := { st.flight with resv := [(3, some { addr := 0, pa := 0, gt := 0, cycle := 0, order := 0 })] } };
      ((Tab.get none (s.strand here).flight.resv 3).isSome = true ∧ (later s 2000).clock.gt = 2000 ∧ s.clock.gt < 2000)) ∧
    (isHost (2 ^ 48) = true ∧ 2 ^ 48 % 64 = 0 ∧ tst.snoopable (2 ^ 48) = true ∧ Tab.get 0 tst.memory.hostLines (lineNo (2 ^ 48)) = 0 ∧
      let s := tstMem fun m => { m with hostLines := [(lineNo (2 ^ 48), 1)] }; s.snoopable (2 ^ 48) = true ∧ Tab.get 0 s.memory.hostLines (lineNo (2 ^ 48)) ≠ 0) ∧
    (let s := { tst with tiers := { tst.tiers with leases := [(0, some { kind := .shared, state := .active, node := 0, size := 1, base := 0, boff := 0, expiry := 2 ^ 40 })] } };
      (s.extent? 0x104000).elim false (fun x => x.2.kind == .shared) = true ∧ isDevice 0x104000 = true ∧ s.snoopable 0x104000 = true) ∧
    (let s := tstMem fun m => { m with snoops := [{ line := 0x104000, expiry := 5 }] }; ((later s 5).memory.snoops.find? fun x => x.line == 0x104000 && decide (x.expiry ≤ (later s 5).clock.gt)).isSome = true ∧
      (∀ x ∈ s.memory.snoops, x.line = 0x104000 → s.clock.gt < x.expiry)) := by decide +kernel

/-- HomesServe: an eviction on its way, a word of LM without a mark, a page being fetched, a line whose write-back a token waits for, two halves of a region, a line that is not poisoned yet, and host accesses to served and unserved memory. -/
theorem witness_homes :
    ((tstMem fun m => { m with evictions := [{ tx := 5, line := 0x104000, taken := false }] }).memory.evictions.find? (fun x => x.tx == 5) = some { tx := 5, line := 0x104000, taken := false }) ∧ (tst.lmMarked 0 0x100 1 = false) ∧
    (let s := tstMem fun m => { m with pages := [(0, { resident := true, fetching := [3, 4] })] }; (s.page 0).resident = true ∧ (s.page 0).fetching = [3, 4]) ∧
    (let s := { (tokened [{ reg := 20, scope := .system, ids := [], lines := [0x104000], term := 0 }]) with memory := { tst.memory with dirty := [(lineNo 0x104000, some 0)] } };
      s.needsClean 0x104000 = true ∧ s.served 0x104000 = true) ∧
    (let a : DirRegion := { base := 0, lines := 1, sharers := [1], stale := 0 }; let b : DirRegion := { base := 64, lines := 1, sharers := [2], stale := 0 };
      let s := later (tstMem fun m => { m with directory := [a, b] }) 16000; a.lines = b.lines ∧ a.lines < 1024 ∧ a.base % (128 * a.lines) = 0 ∧ b.base = a.base + 64 * a.lines ∧
      a.stale + 16000 ≤ s.clock.gt ∧ b.stale + 16000 ≤ s.clock.gt ∧ s.memory.directory = [a, b]) ∧
    (tst.linePoison (lineOf 0x104000) = false) ∧
    (tst.mgmt.recovery = false ∧ isDevice 0x104000 = true ∧ tst.homeWaits (lineOf 0x104000) = false ∧ tst.serve 0x104000 false = none ∧ tst.serve 0x104000 true = none ∧
      isDevice 0x4000000 = true ∧ (tst.serve 0x4000000 true).isSome = true ∧ (tst.serve 0x4000000 false).isSome = true) := by decide +kernel

/-- StrandSteps: a fairness burst that is due and one that is over, run-ahead that has ended, a TLOAD whose bank is free, and an asynchronous fault. -/
theorem witness_strandSteps :
    (let s := diverged.onStrand here fun st => { st with sp := { st.sp with fair := 0x800 }, sched := { st.sched with fc := 0x800 } }; s.stands here = true ∧ (s.strand here).burstDue s.clock.cycle = true) ∧
    (let s := diverged.onStrand here fun st => { st with sched := { st.sched with burst := some { held := 0xFFFF, pc := 0x4100, left := 0 } } }; s.stands here = true ∧ (s.strand here).burstOver = true) ∧
    (let s := tstWith fun st => { st with ahead := some { batch := [], issued := 0, inv := {}, ended := true } }; (s.strand here).ahead.elim false (fun a => a.ended) = true) ∧
    (let s := (tstWith fun st => { st with sched := { st.sched with wait := some (.tload 1 0) } }).onCore 0 fun k => { k with lm := [(10, 0x80), (11, 0x3F)] };
      let s := s.onCore 0 fun k => { k with bankQ := [(0, 0)] }
      s.bankHead 0 = some here ∧ (s.strand here).sched.wait = some (.tload 1 0) ∧ (s.core 0).curBank ≠ 1 ∧ (s.tloadRun here 1 0).isRight = true) ∧
    (let s := (tstWith fun st => { st with sched := { st.sched with wait := some (.tflip 1) } }).onCore 0 fun k => { k with bankQ := [(0, 0)] };
      s.bankHead 0 = some here ∧ (s.strand here).sched.wait = some (.tflip 1)) ∧
    (let s := tstWith fun st => { st with sched := { st.sched with async := [{ cause := 0x28, tval := 0, seq := false }] } }; s.mayDeliver here = true ∧ (s.strand here).nextAsync.isSome = true ∧ (s.strand here).act = false) := by decide +kernel

/-- A strand with more LM, the two copy requests of chapter 12 at 0x400 and 0x440, and their offset and the barrier's in s4 and s5. -/
def feed : State := (((tstS [(4, 0x400), (5, 0x100)]).onComb 0 0 fun k => { k with shape := { k.shape with lmb := 0x5000 } })).onCore 0 fun k => { k with lm := Mem.writeCells [] (
  cellsOf 0x400 8 0x0000008400010020 ++ cellsOf 0x408 8 0x4000000000 ++ cellsOf 0x410 8 0x1000 ++ cellsOf 0x418 4 128 ++ cellsOf 0x41C 2 64 ++ cellsOf 0x41E 2 1 ++ cellsOf 0x420 2 1 ++
  cellsOf 0x424 4 1024 ++ cellsOf 0x430 4 128 ++
  cellsOf 0x440 8 0x0000908000010020 ++ cellsOf 0x448 8 0x4000010000 ++ cellsOf 0x450 8 0x3000 ++ cellsOf 0x458 4 4096 ++ cellsOf 0x45C 2 1 ++ cellsOf 0x45E 2 1 ++ cellsOf 0x460 2 1) }

/-- `feed` after BBINIT, BBADD and KICK. -/
def kicked : State := ran [0x820802A0] (ran [0x000A02AA, 0x0000F800, 0x00003000] (ran [0x810A02A4] feed))

/-- Chapter 12, a guarded feed: the barrier and the requests after each event of the table. -/
theorem test_feed : (let word := fun (s : State) => let b := s.winRead 0 0 0x100 8; (bits b 23 0, bits b 38 32, bit b 39)
    let status := fun (s : State) => (s.winRead 0 0 0x43C 4, s.winRead 0 0 0x47C 4);
    let t := does (.copyRequestStart 0 0) (does (.copyRequestStart 0 0) kicked); let u := does (.copyRequestStart 0 0) (ran [0x800006B4] t);
    word kicked == (12288, 1, false) && status kicked == (1, 1) && (kicked.core 0).locks.length == 2 && status t == (3, 2) && word t == (12288, 1, false) && status u == (3, 5) && word u == (8192, 1, false) &&
    (u.core 0).locks.length == 1) = true := by decide +kernel

/-- Atomics: on LM, on global memory and on the fabric; a target that no lane supports. -/
theorem witness_atomics :
    accesses tst false [(.atom, e2 21 10 1 1 0, fun _ => atomNeed .atom (e2 21 10 1 1 0)), (.atomn, e2 21 0 1 1 0, fun _ => atomNeed .atomn (e2 21 0 1 1 0)),
      (.cas, e2 21 10 1 2 0, fun _ => atomNeed .cas (e2 21 10 1 2 0)), (.atomf, e2 21 0 1 1 0, fun _ => atomNeed .atomf (e2 21 0 1 1 0))] = true ∧ (tst.core 0).lmPoison = [] ∧
    accesses tst false [(.atom, e2 21 10 1 1 14 0 1, fun _ => atomNeed .atom (e2 21 10 1 1 14 0 1)), (.atomn, e2 21 0 1 1 14 0 1, fun _ => atomNeed .atomn (e2 21 0 1 1 14 0 1)),
      (.cas, e2 21 10 1 2 14 0 1, fun _ => atomNeed .cas (e2 21 10 1 2 14 0 1)), (.atomf, e2 21 0 1 1 14 0 1, fun _ => atomNeed .atomf (e2 21 0 1 1 14 0 1)),
      (.xadd, e2 21 0 5 1 14 0 1, fun _ => atomNeed .xadd (e2 21 0 5 1 14 0 1)), (.xread, e2 21 10 5 0 14 0 1, fun _ => atomNeed .xread (e2 21 10 5 0 14 0 1)),
      (.xclr, e2 21 0 5 0 14 0 1, fun _ => atomNeed .xclr (e2 21 0 5 0 14 0 1))] = true ∧
    accesses fabbed false [(.atom, e2 0 12 0 1 10 0 3, fun _ => atomNeed .atom (e2 0 12 0 1 10 0 3)), (.atomn, e2 0 0 0 1 10 0 3, fun _ => atomNeed .atomn (e2 0 0 0 1 10 0 3))] = true ∧
    (let e := e2 21 10 5 0 0; let i := tst.issue .xread e; let l := i.targets tst false; (Op.instr .xread e).wellFormed = true ∧ activeB .xread e tst = true ∧ spaceOf e = .lm ∧
      (∀ y ∈ l, y.2 % 64 = 0) ∧ (∀ y ∈ l, tst.addressOk here .lm y.2 64 = true) ∧ MayTrap tst here ∧ (places tst i .lm l (atomNeed .xread e)) ≠ [] ∧
      (∀ x ∈ places tst i .lm l (atomNeed .xread e), supported (atomKind .xread e) .lm x.pa = false)) :=
  ⟨by decide +kernel, by decide +kernel, by decide +kernel, by decide +kernel, by decide, by decide, by decide, by decide, by decide, mayTrap_tst, by decide, by decide⟩

/-- `tst` with one lane's atomic on global memory in flight. -/
def atomed : State := tstWith fun st =>
  { st with flight := { st.flight with atomics := [{ id := 0, kind := .int .add false, scalar := true, fabric := false, parts := [{ lane := 32, va := 0x104000, pa := 0x104000, data := 1, new := 0 }], active := 1, done := [], failed := [], lost := [], poison := [], dest := some 12, pc := 0x10000, lines := [] }] } }

/-- Atomics in flight, the frame: an MXST with an element of lane 0 and its scale. -/
theorem witness_atomicFrame : let part := fun (l a : Nat) => ({ lane := l, va := a, pa := a, data := 1, new := 0 } : AtomPart)
    let s := tstWith fun st => { st with flight := { st.flight with atomics := [{ id := 0, kind := .mxst 3, scalar := false, fabric := false, parts := [part 0 0x104000, part 32 0x104020], active := 1, done := [], failed := [], lost := [], poison := [], dest := none, pc := 0x10000, lines := [] }] } }
    ((s.strand here).atomic? 0).elim false (fun a => a.kind == .mxst 3 && a.parts.any (fun p => p.lane != 32) && a.parts.any fun p => p.lane == 32) = true ∧ (match exec (.atomicExecute here 0) s with | .next _ => true | _ => false) = true := by decide +kernel

/-- Atomics in flight: one target whose turn has come, and a request whose parts have all acted. -/
theorem witness_atomicsInFlight :
    (((atomed.strand here).atomic? 0).elim false (fun a => !a.fabric && a.kind == .int .add false) = true ∧ ((atomed.readyGroups here 0).map List.length) = [1] ∧
      (atomed.readyGroups here 0).flatten.all (fun p => p.pa % 4 == 0 && !atomed.failed p.pa && !atomed.linePoison (lineOf p.pa)) = true ∧ (atomed.core 0).shares.en = false) ∧
    (let s := tstWith fun st => { st with flight := { st.flight with atomics := [{ id := 7, kind := .int .add false, scalar := false, fabric := false, parts := [], active := 1, done := [(0, 5)], failed := [], lost := [], poison := [], dest := some 3, pc := 0, lines := [] }] } };
      ((s.strand here).atomic? 7).elim false (fun a => a.parts.isEmpty && a.failed.isEmpty && a.lost.isEmpty && a.poison.isEmpty && a.kind == .int .add false && !a.scalar && a.dest == some 3 && a.done == [(0, 5)]) = true) := by
  decide +kernel

/-- `tst` with an MCAS block of two words at 0x100. -/
def blocked : State := tst.onCore 0 fun k => { k with lm := Mem.writeCells [] (cellsOf 0x100 8 2 ++ cellsOf 0x108 8 0x104000 ++ cellsOf 0x110 8 0 ++ cellsOf 0x118 8 7 ++ cellsOf 0x120 8 0x104040 ++ cellsOf 0x128 8 0 ++ cellsOf 0x130 8 9) }

/-- `tst` that stands at an MCAS. -/
def mcasing (m : Mcas) : State := tstWith fun st => { st with sched := { st.sched with wait := some (.mcas m) } }

/-- MultiWordCompareAndSwap: a block that passes the checks; a line to lock; a compare that fails and one that succeeds; a commit that is due. -/
theorem witness_mcas :
    (let e := e2 31 12 6 0 0; let raw := blocked.mcasWords here 0x100 2 false; let locs := blocked.locateAll here true .global .atomic ((raw.map fun x => x.1).mapIdx fun k a => (k, bits a 56 0)); let spots := spotsOf locs;
      let words := (spots.zip raw).map fun (p, r) => ({ va := p.addr, pa := p.pa, expected := r.2.1, new := r.2.2 } : McasWord);
      (Op.instr .mcas e).wellFormed = true ∧ activeB .mcas e blocked = true ∧ blocked.mcasBlock here 0x100 = none ∧
      (raw.mapIdx fun k x => mcasAddrTrap (mcasEntry 0x100 k) x.1 false).findSome? id = none ∧ locs = spots.map Located.ok ∧ blocked.mcasLate here 0x100 false (raw.map fun x => x.1) words = none) ∧
    (let x : McasWord := { va := 0x104000, pa := 0x104000, expected := 0, new := 7 }; let y : McasWord := { va := 0x104040, pa := 0x104040, expected := 0, new := 9 }; let z : McasWord := { y with expected := 1 };
      let m : Mcas := { block := 0x100, wide := false, dest := 12, words := [x, y], toLock := [0x104000, 0x104040], locked := [], result := none };
      let s := mcasing m; let n := 4;
      ((∀ x ∈ m.locked ++ [0x104000], s.failed x = false) ∧ s.homeWaits 0x104000 = false ∧ (∀ x ∈ mcasLines m.words, s.drained here m x = true) ∧ (s.core 0).shares.en = false ∧ isDevice 0x104000 = true ∧
        (s.page 0x104000).resident = true ∧ (s.page 0x104000).counter ≤ 255) ∧
      (∀ w ∈ [x, y], s.linePoison (lineOf w.pa) = false ∧ Mem.read s.memory.mem w.pa n = w.expected ∧ w.pa % n = 0) ∧ Mem.read s.memory.mem z.pa n ≠ z.expected ∧ x.pa ≠ y.pa ∧
      ((mcasing { m with toLock := [], locked := [0x104000, 0x104040], result := some ([0, 0], 0, 0) }).strand here).mcas?.elim false (fun k => k.toLock.isEmpty && k.result == some ([0, 0], 0, 0)) = true) := by
  decide +kernel

/-- CopyRequestsStart: well-formed objects with room, an earlier KICK that waits, no object, and a queue's head that has no guard, a true, a false and an unresolved one. -/
theorem witness_copyRequests :
    (let e := { e2 31 0 4 2 0 with i := true }; let s := ran [0x000A02AA, 0x0000F800, 0x00003000] (ran [0x810A02A4] feed); let i := s.issue .kick e; let reqs := s.kickReqs i; let r := s.onStrand here Strand.closeRegion;
      activeB .kick e s = true ∧ (i.opB s).toNat = 2 ∧ s.blockTrap here (i.uA s).toNat 128 = none ∧ reqs.findSome? (fun x => s.reqTrap here x.1 x.2.1 x.2.2) = none ∧ (reqs.all fun x => !x.2.2.dec) = true ∧
      (s.core 0).kicks = [] ∧ r.mayRegister 0 2 = true) ∧
    (let s := feed.onCore 0 fun k => { k with locks := List.replicate 31 { id := 9, slot := 1, tenant := 0, src := none, dst := none, bar := none } }; s.mayRegister 0 2 = false ∧ s.mayRegister 0 1 = true) ∧
    (activeB .kick { e2 31 0 4 0 0 with i := true } feed = true ∧ activeB .kick { e2 31 0 4 17 0 with i := true } feed = true) ∧
    (((kicked.comb 0 0).headReq).elim false (fun q => q.state == .queued && q.guard.isNone) && (kicked.comb 0 0).phase == .running) = true ∧
    (let s := does (.copyRequestStart 0 0) kicked; ((s.comb 0 0).headReq).elim false (fun q => q.state == .queued && q.guard == some 1) = true ∧ (s.comb 0 0).guard 1 = none ∧
      ((s.setGuard 0 0 1 1).comb 0 0).guard 1 = some true ∧ ((s.setGuard 0 0 1 2).comb 0 0).guard 1 = some false) := by decide +kernel

/-- A copy request of strand 0 that runs. -/
def aCopy : Request :=
  { id := 0, kind := .kick 0x400, strand := 0, guard := none, sspc := 0, dspc := 0, src := 0x100, dst := 0x200, len0 := 16, c1 := 1, c2 := 1, c3 := 1, sp1 := 0, sp2 := 0, sp3 := 0, dp1 := 0, dp2 := 0, dp3 := 0, sys := false, dec := false, key := 0, goff := 0, bar := none, tenant := 0, priv := false, state := .running, cause := 0, left := [], flying := [], staged := [], checked := true, counts := [], uncounted := 16, batch := none }

/-- CopiesMoveBytes: a chunk to read from LM, a staged one to write to LM, and a count that is due. -/
theorem witness_copies :
    (let c : Chunk := { row := 0, src := 0x100, dst := 0x200, len := 16, rpay := false, wpay := false };
      let has := fun (q : Request) => (tstComb fun k => { k with reqs := [q] }).req? 0 0 0 = some q;
      has { aCopy with left := [c] } ∧ has { aCopy with staged := [{ chunk := c, data := 5, poison := 0 }] } ∧ has { aCopy with counts := [{ len := 16, at_ := 0, line := none }] }) := by decide +kernel

/-- BarriersGuardsAndQueues: a barrier in its phase and out of it, an update in range and one that is not, and a drone queue that takes, is full, or is not bound. -/
theorem witness_barriers :
    (let s := tst.onCore 0 fun k => { k with lm := Mem.writeCells [] (cellsOf 0x100 8 0x01000001) }; let one := fun (o : Op) => { e2 31 10 6 1 0 with i := true, d := if o = .bbtest ∨ o = .qsub then 10 else 0 };
      actives s [(.bbinit, one .bbinit), (.bbadd, one .bbadd), (.bbwait, one .bbwait), (.bbwait, { e2 31 0 6 0 0 with i := true }), (.bbtest, one .bbtest), (.gset, e2 31 1 0 1 0), (.rlq, e2 0 10 0 0 0 2), (.rlq, e2 25 3 1 1 0), (.qsub, one .qsub)] = true ∧
      ([Op.bbinit, .bbadd, .bbwait, .bbtest].all fun o => (s.bbCheck o here ((s.issue o (one o)).uA s).toNat ((s.issue o (one o)).opB s)).isNone) = true ∧
      (bbUpdate (s.winRead 0 0 0x100 8) 1 1).isSome = true ∧ bbUpdate (s.winRead 0 0 0x100 8) 0x7FFFFF 1 = none ∧ bit (s.winRead 0 0 0x100 8) 39 = false) ∧
    (let s := tstWith fun st => { st with sched := { st.sched with wait := some (.bbwait 0x100 true) } }; (s.strand here).sched.wait = some (.bbwait 0x100 true) ∧ bit (s.winRead 0 0 0x100 8) 63 = false) ∧
    (let s := { (tstWith fun st => { st with flight := { st.flight with qsubs := [{ id := 0, reg := 10, queue := 1, entry := 0 }] } }) with service := { drones := [(1, { en := true, logcap := 2 })] } };
      ((s.strand here).flight.qsubs.find? fun x => x.reg == 10).isSome = true ∧ (s.drone 1).en = true ∧ (s.drone 1).orphan = false ∧ (s.drone 1).svc ≤ 2 ∧ (s.drone 1).tenant = s.tenantOf 0 0 ∧
      (s.drone 1).open_.length < 2 ^ (s.drone 1).logcap ∧ (s.drone 2).en = false) := by decide +kernel

/-- `tst` with queue 0 open to tenant 0, and notify register 7 bound to it. -/
def working : State := { tst with sched := { queues := [(0, { en := true, dies := 3, logcap := 4 })], notify := [(7, { binding := 0x8000000000000000 })] } }

/-- `working` that waits to enqueue, at a later GT. -/
def working1 (job : Job) : State := later (working.onStrand here fun st => { st with sched := { st.sched with wait := some (.terms job 12) } }) 1

theorem hasRecord_working (o : Op) (e : Enc) (h : reachesB working (working.issue o e) .global [(32, 0x104000)] { size := 64, acc := .read, use := .read, more := noMore } = true)
    (p : places working (working.issue o e) .global [(32, 0x104000)] { size := 64, acc := .read, use := .read, more := noMore } = [{ lane := 32, addr := 0x104000, pa := 0x104000 }])
    (t : ((working.rememberAll here .global [(32, 0x104000)]).payIssue here [0x104000]).1 = true)
    (v : recordBad (working.ownRead (working.issue o e).w 0x104000 0x104000 64) = none) : HasRecord working (working.issue o e) 0x104000 0x104000 :=
  ⟨p ▸ reaches_of h, by decide, by decide +kernel, t, v⟩

/-- WorkIsHeld: a record that passes its check, a bound notify register and one that is not, SPAWNN of no cell, JOIN without a parent, and a strand of a swarm's cell. -/
theorem witness_workIsHeld :
    HasRecord working (working.issue .spawn (e2 31 10 14 0 0)) 0x104000 0x104000 ∧ HasRecord working (working.issue .spawnn (e2 31 10 14 2 8)) 0x104000 0x104000 ∧
    HasRecord working (working.issue .join (e2 31 10 14 0 0 1)) 0x104000 0x104000 ∧ HasRecord working (working.issue .park (e2 31 10 14 7 1)) 0x104000 0x104000 :=
  ⟨hasRecord_working _ _ (by decide +kernel) (by decide +kernel) (by decide +kernel) (by decide +kernel), hasRecord_working _ _ (by decide +kernel) (by decide +kernel) (by decide +kernel) (by decide +kernel),
   hasRecord_working _ _ (by decide +kernel) (by decide +kernel) (by decide +kernel) (by decide +kernel), hasRecord_working _ _ (by decide +kernel) (by decide +kernel) (by decide +kernel) (by decide +kernel)⟩

theorem witness_workOperands :
    (actives working [(.spawn, e2 31 10 14 0 0), (.spawnn, e2 31 10 14 2 8), (.spawnn, e2 31 10 14 0 8), (.join, e2 31 10 0 0 0 0), (.join, e2 31 10 14 0 0 1), (.park, { e2 31 10 14 7 1 with i := true }), (.notify, { e2 31 10 0 7 0 1 with i := true }),
      (.notify, { e2 31 0 0 6 0 with i := true }), (.wait, { e2 31 10 1 7 1 with i := true }), (.wait, { e2 31 10 1 6 1 with i := true }), (.done, e2 31 0 0 0 0), (.cellrd, e2 31 10 0 0 0 7)] = true ∧
      (working.issue .spawn (e2 31 10 14 0 0)).pairA working = 0x104000 ∧ ((working.issue .spawnn (e2 31 10 14 0 8)).opB working).toNat = 0 ∧ (working.comb 0 0).parent = 0 ∧
      (working.notifyOf 7).bound = some (working.tenantOf 0 0) ∧ (working.notifyOf 6).bound = none) ∧
    (let n : Need := { size := 16, acc := .write, use := .write, more := noMore }; let h := ((working.rememberAll here .global [(32, 0x104000)]).payIssue here [0x104000]).2.atHome 0x104000; let r := h.rememberAll here .global [(32, 0x12000)]; let i := working.issue .spawnn (e2 31 10 14 2 8);
      (i.opB working).toNat = 2 ∧ (working.readPair here 8).toNat = 0x12000 ∧ reachesB h i .global [(32, 0x12000)] n = true ∧ places h i .global [(32, 0x12000)] n = [{ lane := 32, addr := 0x12000, pa := 0x12000 }] ∧
      (r.translate 0 0 true .read 0x12000).toOption.isSome = true ∧ isDevice 0x12000 = true ∧ r.homeWaits 0x12000 = false ∧ (r.payIssue here [0x12000]).1 = true ∧ bits (r.ownRead here 0x12000 0x12000 16) 63 42 = 0 ∧ bits (r.ownRead here 0x12000 0x12000 16) 127 64 = 0) ∧
    (let s := working.onComb 0 0 fun k => { k with swarm := some 3 }; (s.comb 0 0).swarm.isSome = true ∧ (s.strand here).sched.done = false) := by decide +kernel

/-- WorkTakesEffect: a job that may act, with the record admitted and with room, admitted without room, and not admitted; a JOIN count of 2 and of 1; a notify register at the expected value and past it. -/
theorem witness_workTakesEffect :
    (let s := working1 (.spawn 0x104000 0x104000); let c := recordCell 0x104000 0x104000 (Mem.read s.memory.mem 0x104000 64);
      (s.strand here).sched.wait = some (.terms (.spawn 0x104000 0x104000) 12) ∧ s.termsReached here = true ∧ (∀ l ∈ (Job.spawn 0x104000 0x104000).lines, s.homeWaits l = false) ∧
      (s.queue c.queue).en = true ∧ (s.queue c.queue).tenant = s.tenantOf 0 0 ∧ ((s.queue c.queue).level c.prio).length < 2 ^ (s.queue c.queue).logcap ∧ s.ringServed c.queue c.prio = true ∧ s.freeSwarm = some 0 ∧ s.parkCount < 4096 ∧
      (∀ l ∈ (Job.spawnn 0x104000 0x104000 2 0x12000 0x12000).lines, s.homeWaits l = false) ∧ (∀ l ∈ (Job.join 0x104000 0x104000).lines, s.homeWaits l = false) ∧
      (s.notifyOf 7).seq = 0 ∧ ((s.onNotify 7 fun n => { n with seq := 1 }).notifyOf 7).seq ≠ 0) ∧
    (let c : Cell := { va := 0x104000, pa := 0x104000, queue := 0, prio := 0, index := 0, shape := {} }; let e : QEntry := { cell := c, next := 0, last := 1, swarm := none };
      let s : State := { (working1 (.spawn 0x104000 0x104000)) with sched := { queues := [(0, { en := true, dies := 3, logcap := 0, levels := [(0, [e])] })] } }; let t : State := { s with sched := {} };
      (s.queue 0).en = true ∧ ¬ ((s.queue 0).level 0).length < 2 ^ (s.queue 0).logcap ∧ (t.queue 0).en = false ∧ s.termsReached here = true ∧ t.termsReached here = true) ∧
    (let join := fun o => { (working1 (.join 0x104000 0x104000)) with memory := { tst.memory with mem := Mem.writeCells tst.memory.mem (cellsOf 0x104010 4 o) } }; let o := fun n => bits (Mem.read (join n).memory.mem 0x104000 64) 159 128;
      o 2 = 2 ∧ o 1 = 1 ∧ ((join 1).queue 0).en = true ∧ (recordCell 0x104000 0x104000 (Mem.read (join 1).memory.mem 0x104000 64)).queue = 0 ∧ (∀ l ∈ (Job.join 0x104000 0x104000).lines, (join 1).homeWaits l = false)) ∧
    (let wait := fun (x : Wait) => later (working.onStrand here fun st => { st with sched := { st.sched with wait := some x } }) 9; let s := wait (.notify 7 0 5 12);
      (s.notifyOf 7).seq = 0 ∧ gtPassed s.clock.gt 5 = true ∧ gtPassed (later s 4).clock.gt 5 = false ∧ ((s.onNotify 7 fun n => { n with seq := 1 }).notifyOf 7).seq ≠ 0) := by decide +kernel

/-- A state in which die 0 picks a head for core 1. -/
def dispatching : State :=
  let c : Cell := { va := 0x104000, pa := 0x104000, queue := 0, prio := 1, index := 3, shape := { lmb := 0x400, spill := 0x100, regs := 0 } };
  { (working.onCore 1 fun k => { k with slice := some { entry := 0, tenant := 0, length := 0, start := 0 } }) with
    sched := { working.sched with queues := [(0, { en := true, dies := 3, logcap := 4, levels := [(1, [{ cell := c, next := 3, last := 4, swarm := none, passed0 := 65536 }])] })] } }

/-- CombsLaunchAndRetire: a completion due, a strand of two that may retire, a comb that may, a head for a core with room, and one passed over too long. -/
theorem witness_combs :
    (let s := later { tst with sched := { swarms := [(4, { used := true, pa := 0x104000, n := 9, oldest := 2, window := [{ cell := 2, term := 0, lines := [] }] })] } } 1; let x : Swarm := Tab.get {} s.sched.swarms 4;
      s.mayReport 4 2 = true ∧ s.agentReady (lineOf x.pa) = true ∧ x.oldest = 2 ∧ x.reported = [] ∧ x.pa % 64 + 4 ≤ 64 ∧ 2 + 1 < x.n ∧ x.n < 2 ^ 32) ∧
    (let s := (tstComb fun k => { k with strands := k.strands ++ [(1, {})] }).onStrand here fun st => { st with live := 0 }; s.mayRetire here = true ∧ ∃ x ∈ (s.comb 0 0).strands, x.1 ≠ here.strand ∧ x.2.sched.retired = false) ∧
    ((tstWith fun st => { st with sched := { st.sched with retired := true } }).mayRetireComb 0 0 = true) ∧
    (let s := dispatching; let q := s.queue 0; ((s.pickHead 0).elim false fun x => x.1 == 0 && x.2.1 == 1 && x.2.2.next + 1 == x.2.2.last && q.level 1 == [x.2.2] && s.agentReady (lineOf x.2.2.cell.pa) &&
        s.roomiest (s.takers 0 q x.2.2) == some 1 && ((s.core 1).place x.2.2.cell.shape).isSome) = true ∧ 65536 ≤ s.passedCount 0 0 1 ∧ (0, 0, 1) ∉ s.sched.stopped) := by decide +kernel

/-- A stream of the comb of `tst`. -/
def aStream : Stream := { slot := 0, strand := 0, tenant := 0, priv := true, pc := 0x10000, s := [(1, 1), (2, 2), (6, 0x100)] }

/-- A core that runs a stream. -/
def streaming (x : Stream) : State := { (tstCore fun k => { k with matrix := { k.matrix with stream := some x, last := some 0 }, lm := Mem.writeCells [] (cellsOf 0x100 8 0x01000001) }) with cur := { core := 0, slot := 0, strand := 32 } }

/-- SlicesSaveAndResume: a slice to begin; one that has passed with no other entry, with one of another tenant and with one of its own; a comb whose requests run on. -/
theorem witness_slices :
    (let s := tstCore fun k => { k with slices := [(0, { valid := true, tenant := 0, length := 1 })] }; (s.core 0).slice = none ∧ (s.core 0).saving = false ∧ s.nextBegin 0 = some 0) ∧
    (let s := tstCore fun k => { k with combs := [], slice := some { entry := 0, tenant := 0, length := 4096, start := 0 } }; s.sliceDone 0 = true ∧ tst.sliceDone 0 = false) ∧
    (let s := (streaming { aStream with pairing := .paired 0 none }).onComb 0 0 fun k => { k with cutPending := true }; s.streamPaired 0 0 = true ∧
      let s := (streaming aStream).onComb 0 0 fun k => { k with cutPending := true }; s.streamPaired 0 0 = false ∧ (s.comb 0 0).cutPending = true ∧ (s.comb 0 0).phase = .running) ∧
    (let s := fun l => let s := tstCore fun k => { k with slices := l, slice := some { entry := 0, tenant := 0, length := 4096, start := 0 } }; { s with clock := { s.clock with cycle := 4096 } };
      (s []).slicePassed 0 = true ∧ (s []).nextSlice 0 (some 0) = none ∧ (s [(0, { valid := true })]).nextSlice 0 (some 0) = some 0 ∧
      (let t := (s [(0, { valid := true }), (1, { valid := true, tenant := 5 })]).onCore 0 fun k => { k with combs := k.combs ++ [(1, some { tenant := 5 })] }; t.slicePassed 0 = true ∧ t.nextSlice 0 (some 0) = some 1) ∧
      (s []).mgmt.recovery = false) ∧
    ((tstComb fun k => { k with phase := .preempting, reqs := [aCopy] }).mayDrain 0 0 = true) ∧
    (let s := (streaming aStream).onComb 0 0 fun k => { k with phase := .preempting, reqs := [aCopy] }; s.mayDrain 0 0 = true ∧ s.stream? 0 = some aStream ∧ aStream.slot = 0 ∧ s.chosen = some (.drain 0 0) ∧ (s.drainComb 0 0).chosen ≠ some (.drain 0 0)) := by decide +kernel

/-- A state whose one lease covers all of device memory. -/
def wholly (s : State) : State := { s with tiers := { leases := [(0, some { kind := .pool, state := .active, node := 0, size := 2 ^ 25, base := 0, boff := 0, expiry := s.clock.gt + 1 })] } }

theorem served_wholly (s : State) (pa : Nat) : (wholly s).served pa = true := by
  unfold State.served State.serve
  split
  · rfl
  · next h =>
    have h : pa < 2 ^ 46 := by simpa [isDevice] using h
    have : pa / 2097152 < 33554432 := by omega
    simp [wholly, State.extent?, Lease.covers, this]

/-- A core with a saved comb and the slice of its tenant. -/
def suspended : State :=
  wholly (tstCore fun k => { k with combs := [], slice := some { entry := 0, tenant := 0, length := 0, start := 0 }, saved := [{ comb := { tst.comb 0 0 with phase := .preempting }, slot := 0, lm := [], poison := [], stream := none, acc := [], intTag := [], sealedBy := none }] })

/-- SlicesSaveAndResume: a comb whose image is ready, and a saved comb whose place is free. -/
theorem witness_images : (wholly (tstComb fun k => { k with phase := .preempting })).imageReady 0 0 = true ∧
    (∃ x, (suspended.core 0).saved = [x] ∧ suspended.resumable 0 = none ∧ suspended.nextSaved 0 = some x ∧ (suspended.core 0).slotFor x = some 0 ∧ x.comb.reqs = [] ∧ x.stream = none ∧ x.comb.batches = [] ∧
      (suspended.core 0).matrix.restores = [] ∧ (suspended.descriptor x.comb.tenant).isSome = true ∧ ((suspended.descriptor x.comb.tenant).elim true descConf) = false) := by
  have h : suspended.areaServed 0 = true := served_wholly _ _
  refine ⟨?_, _, rfl, by decide +kernel, ?_, by decide +kernel, rfl, rfl, rfl, by decide +kernel, by decide +kernel, by decide +kernel⟩
  · simp only [State.imageReady, State.areaServed, served_wholly, Bool.and_true]
    decide +kernel
  · simp only [State.nextSaved, State.mayResumeSaved, h, Bool.and_true]
    decide +kernel

/-- The conditions of `StreamActive`, computed. -/
def streamB (o : Op) (e : Enc) (s : State) (x : Stream) : Bool :=
  s.cur.strand == seqIndex && s.stream? s.cur.core == some x && s.seqMay s.cur.core x && !((o.reads e 0).any fun r => ((s.comb s.cur.core x.slot).pendingWords s.clock.cycle).contains r) && o.seqLegal e && (s.seqPoison s.cur.core x o e).isNone

theorem streamActive_of {o : Op} {e : Enc} {s : State} {x : Stream} (h : streamB o e s x = true) : StreamActive o e s x := by
  simp only [streamB, Bool.and_eq_true, beq_iff_eq, Bool.not_eq_true', Option.isNone_iff_eq_none] at h
  exact ⟨h.1.1.1.1.1, h.1.1.1.1.2, h.1.1.1.2, h.1.1.2, h.1.2, h.2⟩

/-- A command of a stream with this operation and values. -/
def cmdOf (o : Op) (vals : List Nat) : Cmd := { op := o, enc := e2 31 0 1 2 4, pc := 0x10000, vals := vals }

/-- StreamInstructions and MatrixInstructionsIssue, in a stream: every instruction named is legal and may issue, with a drained queue, with commands in it, and with a full one. -/
theorem witness_stream :
    ([(.add, e2 0 3 1 2 0), (.sub, e2 0 3 1 2 0), (.and, e2 0 3 1 2 0), (.xor, e2 0 3 1 2 0), (.nop, e2 31 0 0 0 0), (.jmp, e2 31 4 0 0 0), (.bru, e2 31 1 4 0 0), (.exit, e2 31 0 0 0 0), (.bbinit, e2 31 0 6 1 0),
      (.bbadd, e2 31 0 6 1 0), (.bbwait, e2 31 0 6 1 0), (.bbtest, e2 31 10 6 1 0), (.add, e2 0 70 1 2 0), (.gset, e2 31 1 0 1 0), (.msync, e2 31 0 0 0 0), (.mmap, e2 31 1 6 0 0), (.munf, e2 31 0 6 0 0), (.mma, e2 31 0 1 2 4),
      (.mdist, e2 31 0 1 2 4), (.mtopk, e2 31 0 6 1 2), (.mzero, e2 31 0 0 0 0), (.mldz, e2 31 0 6 6 0), (.mdrain, e2 31 0 6 6 0), (.mpair, e2 31 0 0 2 0), (.msplit, e2 31 0 0 0 0), (.mepi, e2 31 0 6 6 2 0 16)] : List (Op × Enc)).all
      (fun (o, e) => (o.instr e).wellFormed && streamB o e (streaming aStream) aStream && streamB o e (streaming { aStream with queue := List.replicate 8 (cmdOf .mzero []) }) { aStream with queue := List.replicate 8 (cmdOf .mzero []) }) = true ∧
    (let s := streaming aStream; aStream.drained = true ∧ Stream.drained { aStream with queue := List.replicate 8 (cmdOf .mzero []) } = false ∧
      ([Op.bbadd, .bbwait, .bbtest].all fun o => let e := e2 31 (if o = .bbtest then 10 else 0) 6 1 0; (s.bbCheck o { core := 0, slot := 0, strand := 32 } (s.seqOpnd 0 aStream o e .a).toNat (s.seqOpnd 0 aStream o e .b)).isNone) = true ∧
      (bbUpdate (s.winRead 0 0 0x100 8) 1 1).isSome = true ∧ Op.ld.seqLegal (e2 21 3 1 6 0) = false ∧ s.seqMay 0 aStream = true ∧ s.cur.strand = 32) := by decide +kernel

/-- MatrixInstructionsIssue, in a strand: MRUN to a multiple of 64 and to another target, direct commands without and with a slot guard, and MSYNC with a stream that runs and one that has ended. -/
theorem witness_matrixInStrand :
    (actives (tstS [(1, 0x10040), (2, 0x10044)]) [(.mrun, e2 31 16 0 0 0), (.mrun, e2 31 1 0 0 0), (.mrunReg, e2 31 0 1 0 0 1), (.mrunReg, e2 31 0 2 0 0 1), (.mzero, e2 31 0 0 0 0), (.mzero, e2 31 0 0 0 0 0 8), (.mldz, e2 31 0 6 6 0),
      (.mdrain, e2 31 0 6 6 0), (.mldz, e2 31 0 6 6 0 0 8), (.mdrain, e2 31 0 6 6 0 0 8), (.msync, e2 31 10 0 0 0 0), (.msync, e2 31 10 0 0 0 1), (.msync, e2 31 10 0 0 0 2), (.msync, e2 31 10 0 0 0 3)] = true) ∧
    ((tst.issue .mrun (e2 31 16 0 0 0)).pc + 64 : Pc).toNat % 64 = 0 ∧ tst.streams 0 0 = false ∧ ({ (streaming aStream) with cur := here } : State).streams 0 0 = true ∧
    activeB .msync (e2 31 10 0 0 0 0) { (streaming aStream) with cur := here } = true ∧ MayTrap tst tst.cur :=
  ⟨by decide +kernel, by decide, by decide, by decide, by decide +kernel, mayTrap_tst⟩

/-- MatrixEngineSteps: a waiter for MRUN; the head commands of each kind with operands that pass; a command that is executed; EXIT with nothing left; a fetch that misses; an image to restore; two streams that seek each other; and a seeking and a paired stream that wait too long. -/
theorem witness_matrixEngine :
    (let x : SeqWaiter := { slot := 0, strand := 0, frame := 0, cycle := 0, cmd := { op := .mrun, enc := e2 31 16 0 0 0, pc := 0x10000, vals := [0x10040] } };
      let s := (tstWith fun st => { st with sched := { st.sched with wait := some .sequencer } }).onCore 0 fun k => { k with matrix := { k.matrix with waiters := [x] } };
      ({ s with clock := { s.clock with cycle := 1 } } : State).nextWaiter 0 = some x) ∧
    (let x := fun o v => { aStream with queue := [cmdOf o v], maps := [(1, some (0x00018001800000000010000000, true)), (2, some (0x00018001800000000010000000, true))] };
      ([(Op.mzero, []), (.mldz, [0x100, 256]), (.mldz, [0x108, 256]), (.mma, [0, 0]), (.mdist, [32, 0])] : List (Op × List Nat)).all (fun (o, v) => (x o v).headCmd == some (cmdOf o v) && (x o v).pairing == .none &&
        (streaming (x o v)).stream? 0 == some (x o v)) = true ∧
      (((x .mma []).operand 1).elim false fun m => m.pairs m && m.isInt == (streaming (x .mma [])).tag 0 0) = true ∧ ((streaming aStream).core 0).lmPoison = [] ∧ (cmdOf .mma []).enc.qbit 3 = false ∧
      256 + 63 * 256 + 256 ≤ ((tstComb fun k => { k with shape := { k.shape with lmb := 0x8000 } }).comb 0 0).shape.window) ∧
    (match (streaming { aStream with queue := [cmdOf .mmap [0x100]] }).startOwn 0 0 (some { aStream with queue := [cmdOf .mmap [0x100]] }) (cmdOf .mmap [0x100]) with | .ok _ _ => true | .fault _ => false) = true ∧
    ((streaming { aStream with wait := some .exit }).stream? 0 = some { aStream with wait := some .exit }) ∧
    (((streaming { aStream with pc := 0x300000 }).fetchMisses 0).isSome = true) ∧
    (let x : Restore := { slot := 0, stream := aStream, acc := [], intTag := [] }; let s := tstCore fun k => { k with matrix := { k.matrix with restores := [x] } };
      s.stream? 0 = none ∧ (s.core 0).matrix.direct = none ∧ (s.core 0).matrix.restores = [x] ∧ x.stream.wait = none ∧ (s.comb? 0 0).isSome = true ∧ (s.comb 0 0).reqs = []) ∧
    (let s := (streaming { aStream with pairing := .seeking 5 0 }).onCore 1 fun _ => (streaming { aStream with pairing := .seeking 5 3 }).core 0;
      s.stream? 0 = some { aStream with pairing := .seeking 5 0 } ∧ neighbour 0 = 1 ∧ s.stream? 1 = some { aStream with pairing := .seeking 5 3 } ∧ (s.comb 0 0).phase = .running ∧ (s.comb 1 0).phase = .running) ∧
    (let x := fun p => { aStream with queue := [cmdOf .mpair []], pairing := p }; let s := fun (p : Pairing) => let t := streaming (x p); ({ t with clock := { t.clock with cycle := 65540 } } : State);
      ([Pairing.seeking 5 4, .paired 1 (some 4)].all fun p => (s p).stream? 0 == some (x p) && decide (4 + 65536 ≤ (s p).clock.cycle) && !(s p).mayPair 0) = true) := by decide +kernel

/-- A lease table with this extent, at GT 5,000,000. -/
def leased (l : Lease) : State := later { tst with tiers := { leases := [(3, some l)] } } 5000000

/-- An extent of one unit. -/
def anExtent (x : LeaseState) (expiry : Nat) : Lease := { kind := .pool, state := x, node := 0, size := 1, base := 0x800, boff := 0, expiry := expiry }

/-- LeaseTableSteps: an active extent past and before its expiry, one at its revocation deadline, a failed one that is mapped again, an expired and a free one. -/
theorem witness_leases :
    (∀ x ∈ ([(.active, 4000000), (.active, 9000000), (.revoking, 5000000), (.failed, 0), (.expired, 0), (.free, 0)] : List (LeaseState × Nat)), (leased (anExtent x.1 x.2)).lease? 3 = some (anExtent x.1 x.2)) ∧
    (leased (anExtent .active 9000000)).outrun false 0 = false ∧ (leased (anExtent .active 9000000)).clock.gt + 1000000 ≤ 9000000 ∧ (leased (anExtent .active 9000000)).tiers.leases = [(3, some (anExtent .active 9000000))] ∧ (anExtent .active 0).kind ≠ .borrowed ∧
    (leased (anExtent .failed 0)).leaseFits 3 { anExtent .failed 0 with state := .active, node := 4096, boff := 7, expiry := 9 } = true ∧ (leased (anExtent .failed 0)).dirtyLines (anExtent .failed 0) = [] ∧
    (leased (anExtent .free 0)).leaseFits 3 (anExtent .free 0) = true ∧ (leased (anExtent .free 0)).tiers.hints = [] := by decide

/-- A batch of die 0 with one entry. -/
def aBatch (written : Bool) : Batch :=
  { id := 4, die := 0, num := 9, origin := 4, from_ := .prefetch, tenant := 0, core := 0, slot := 0, gt := 0, written := written, entries := [{ va := 0x200000, pa := none, cause := 1, acc := 0, out := none }] }

/-- `tst` with a batch and an enabled fault queue. -/
def paged (written : Bool) : State := { tst with tiers := { tst.tiers with batches := [aBatch written], pager0 := { en := true, fqbase := 0x12000, logn := 3, lendmax := 4 } } }

/-- `tst` with a descriptor in LM and a tenant that may keep hints and pin frames. -/
def hinting (quota d : Nat) (hints : List Hint) : State :=
  let s := tstS [(6, 0x100)]
  { (s.onCore 0 fun k => { k with lm := Mem.writeCells k.lm (cellsOf 0x100 32 d) }) with
    memory := { s.memory with mem := Mem.writeCells s.memory.mem (cellsOf (s.descAddr 0 + 16) 8 quota) }, tlb := {}, tiers := { s.tiers with hints := hints } }

/-- TiersAndHints: an unwritten batch with room for it, a written one, a ready comb, a halving due, and frames to lend and to reclaim. -/
theorem witness_pager :
    (let s := paged false; let p := s.pager 0; s.batch? 4 = some (aBatch false) ∧ p.en = true ∧ p.held + 1 ≤ 2 ^ p.logn ∧ p.entryPa p.tail.toNat % 32 = 0 ∧ s.agentReady (lineOf (p.entryPa p.tail.toNat)) = true ∧
      p.lent + 2 ≤ p.lendmax.toNat ∧ Tab.wf {} s.memory.pages = true ∧ (let s := tstMem fun m => { m with pages := [] }; let t := (s.onPager 0 fun p => { p with lent := 2 }).shrinkSets 0; Tab.wf {} s.memory.pages = true ∧ Tab.keys t.memory.pages = [])) ∧
    (let s := later ((paged false).onPager 0 fun p => { p with lent := 3 }) 2000000; 2 ≤ (s.pager 0).lent ∧ 1000000 + 1000000 ≤ s.clock.gt) ∧
    (let s := paged true; s.tiers.batches = [aBatch true] ∧ s.tiers.hints = [] ∧ (aBatch true).from_ = .prefetch) ∧
    (tstCore fun k => { k with ready := [0] }).nextReady 0 = some 0 ∧ (tst.comb? 0 0).isSome = true ∧
    (later tst 2000000).pager 0 = {} ∧ ((later tst 2000000).pager 0).halved + 2 ^ ((later tst 2000000).pager 0).dshift * 1000 ≤ (later tst 2000000).clock.gt ∧ ((later tst 2000000).page 0x100000).resident = true := by decide +kernel

/-- TiersAndHints: no walk waits for the addresses of GPREF and LCNT. -/
theorem witness_walksDone :
    (let d := 0x100000 + (64 + 2 ^ 32 + 2 ^ 48) * 2 ^ 64; let s := hinting 0 d []; let touches := gprefTouches false (s.lmDescriptor here 0x100); touches ≠ [] ∧ s.xlatWaits here true touches = false) ∧
    (∀ sub < 2, let i := tst.issue .lcnt (e2 1 3 6 1 0 sub); tst.xlatWaits here true ((i.targets tst true).map fun x => x.2) = false) := by decide +kernel

/-- TiersAndHints: THINT that keeps, removes, clashes and is full; GPREF of one page; LCNT of each form. -/
theorem witness_hints :
    (let d := 0x100000 + (1 + 2 * 2 ^ 32) * 2 ^ 64 + (2 ^ 128 - 1) * 2 ^ 128; let q := 4 + 8 * 2 ^ 32; let e := fun sub => e2 31 10 6 0 0 sub; let h := parseHint 0 d; let o := { h with npg := 2 };
      (∀ x ∈ ([[], [h], [o]] : List (List Hint)), let s := hinting q d x; (s.descriptor 0).isSome = true ∧ (∀ sub < 2, activeB .thint (e sub) s = true ∧ thintTrap (s.issue .thint (e sub)) s = none)) ∧
      ((hinting q d []).descriptor 0).elim 0 descHquota = 4 ∧ ((hinting q d []).descriptor 0).elim 0 descPquota = 8 ∧ o.overlaps h = true ∧ o.same h = false ∧ h.same h = true ∧
      ((hinting 0 d []).descriptor 0).elim 1 descHquota = 0) ∧
    (let d := 0x100000 + (64 + 2 ^ 32 + 2 ^ 48) * 2 ^ 64; let e := e2 31 10 6 0 0; let s := hinting 0 d []; activeB .gpref e s = true ∧ gprefTrap (s.issue .gpref e) s = none ∧ e.qbit 0 = false ∧ (s.core 0).shares.en = false) ∧
    (∀ sub < 2, activeB .lcnt (e2 1 3 6 1 0 sub) tst = true) ∧ (tst.descriptor 0).isSome = true := by decide +kernel

/-- A QSUB entry that is open in queue 2, whose completion record lies at 0x12000, with message slots behind the ring at 0x104000. -/
def droned (svc : Nat) : State :=
  let q : DroneQueue := { en := true, ien := true, svc := svc, ften := 0xFFFF, logcap := 2, base := 0x104000, seq := 7, open_ := [{ seq := 6, entry := BitVec.ofNat 512 (0x12000 * 2 ^ 256), tenant := 0, core := 0, slot := 0 }] }
  { tst with service := { drones := [(2, q)] } }

/-- DroneEntriesAndTokens: an entry that may complete, a ring with room for a message, and a period that has begun. -/
theorem witness_drones :
    (let s := droned 0; let q := s.drone 2; let x : DroneEntry := { seq := 6, entry := BitVec.ofNat 512 (0x12000 * 2 ^ 256), tenant := 0, core := 0, slot := 0 };
      q.open_.find? (fun x => x.seq == 6) = some x ∧ q.orphan = false ∧ bits x.entry.toNat 511 320 = 0 ∧ x.entry.getLsbD 15 = false ∧ q.ien = true ∧
      (s.agentCells 0 (cellsOf (bits x.entry.toNat 319 256) 16 7)).isSome = true ∧ s.agentReady 0x12000 = true ∧ (s.atHome 0x12000).settled 0x12000 = true) ∧
    (let s := droned 3; let q := s.drone 2; q.refuses 0 = false ∧ (droned 0).drone 2 = { q with svc := 0 } ∧ ((droned 0).drone 2).refuses 0 = true ∧
      (match s.agentPa 0 .write 0x104000, s.agentPa 0 .write 0x104040, s.agentPa 0 .write 0x104080 with | .ok 0x104000, .ok 0x104040, .ok 0x104080 => true | _, _, _ => false) = true ∧
      (let r := (s.remember (agentTlb 0) q.tenant q.base).atHome 0x104000; s.homeWaits 0x104000 = false ∧ r.homeWaits 0x104040 = false ∧ r.homeWaits 0x104080 = false) ∧ Mem.read s.memory.mem 0x104000 16 = 0) ∧
    (let s : State := { State.reset with clock := { State.reset.clock with cycle := 2048 } }; (s.core 0).shares.en = false ∧ (s.core 0).shares.filled < s.clock.cycle / 1024) ∧
    (let s : State := { State.reset with clock := { State.reset.clock with cycle := 2048 }, cores := [(0, { shares := { en := true } })] }; (s.core 0).shares.en = true ∧ (s.core 0).shares.filled < s.clock.cycle / 1024 ∧ s.fabric.targets = [] ∧ (s.core 0).combs = []) := by decide +kernel

/-- The module after reset, once bring-up has ended. -/
def booted : State := { State.reset with mgmt := { ready := true } }

/-- StepRunsDecoded: a core that has issued nothing in the cycle and one with no slot left, a strand that enters its handler with the fault that it holds, a strand that issues, a stream that issues, a lease that expires, an input, and nothing to do; a word of code that is read, whole instructions of one and two words, and a refused word. -/
theorem witness_step :
    (let e := e2 31 0 0 0 0; (tst.core 0).issued = [] ∧ tst.slotFree here .nop e = true ∧ (tst.takeSlot here .nop e).slotFree here .nop e = false) ∧
    ((tstWith fun st => { st with sched := { st.sched with pend := some { order := 0, cause := 2, tval := 0, tpc := 0x10000, group := 1 } } }).chosen = some (.enter here)) ∧
    (let s := State.reset.withFetchWord 32 4; s.chosen = some (.issue here) ∧ (match (({ s with cur := here } : State).fetchStrand here).1 with | .instr (.nop _) => true | _ => false) = true) ∧
    (let s := (streaming aStream).onStrand here fun st => { st with sched := { st.sched with wait := some .sequencer } }; s.chosen = some (.stream 0) ∧ s.stream? 0 = some aStream) ∧
    (let s : State := { booted with tiers := { leases := [(3, some (anExtent .active 0))] } }; s.chosen = some (.event (.leaseExpire 3))) ∧
    (let s : State := { booted with inputs := [.glitchAlarm] }; s.chosen = some .input ∧ s.inputs = [.glitchAlarm]) ∧ booted.chosen = none ∧
    ((match tst.translate 0 0 true .fetch 0x10000 with | .ok 0x10000 => true | _ => false) && (liveCopy (tst.core 0).icache (sectorOf 0x10000) tst.clock.gt).isNone && !tst.homeWaits (lineOf 0x10000) && !tst.linePoison (lineOf 0x10000)) = true ∧
    (match tst.codeWord 0 0 true 0 0x10000 with | (.ok w, _) => decide (w = 4) | _ => false) = true ∧
    (match decodeBytes (bytesOf 4) with | .ok (.nop _, []) => true | _ => false) = true := by decide +kernel

/-- ResultsChangeTheirDestination: an addition whose result is written, and a fabric status word that is set. -/
theorem witness_results : Results (.add (e2 10 3 1 2 0)) .add (e2 10 3 1 2 0) tst (fun _ l => BitVec.ofNat 32 (4 * l + 5)) ∧ Sets (.fsync (e2 31 10 0 0 0)) .fsync (e2 31 10 0 0 0) tst (fun _ => 0) ∧
    (tst.comb? tst.cur.core tst.cur.slot).isSome = true ∧ activeB .add (e2 10 3 1 2 0) tst = true ∧ activeB .fsync (e2 31 10 0 0 0) tst = true :=
  ⟨congrArg Host.Outcome.next (by decide +kernel), congrArg Host.Outcome.next (by decide +kernel), by decide +kernel⟩

/-- `tst` with a route to device 5 and these operands of a fabric instruction: LM at 0x100 in s8, the length in s2, a barrier slot in s10, and what c names in s6 and s7. -/
def fabArg (len bar c6 dev : Nat) : State :=
  { (tstS [(2, BitVec.ofNat 32 len), (6, BitVec.ofNat 32 c6), (7, BitVec.ofNat 32 (dev * 2 ^ 22)), (8, 0x100), (10, BitVec.ofNat 32 bar)]) with fabric := { down := [], routes := [(5, { valid := true, direct := true })] } }

theorem reachable_fabArg (len bar c6 dev : Nat) : (fabArg len bar c6 dev).reachable 5 = true := by simp [State.reachable, fabArg, State.route, Tab.get, State.portUp, port0_some]

/-- FabricInstructions: lengths and barrier slots that trap and that pass, a device number past the last, a target that can be reached, with and without a request already waiting, and a message to a queue number past the last and to queue 3. -/
theorem witness_fabricInstructions :
    (∀ o ∈ [Op.fget, .fput], let e := e2 31 10 8 2 6;
      (∀ x ∈ ([(0, 0x200, 5), (8, 0x204, 5), (8, 0x200, 993), (8, 0x200, 5)] : List (Nat × Nat × Nat)), let s := fabArg x.1 x.2.1 0 x.2.2; let i := s.issue o e; activeB o e s = true ∧ (i.opB s).toNat = x.1 ∧ (i.uD s).toNat = x.2.1 ∧
        fabDev (s.readPair s.cur e.c.toNat).toNat = x.2.2 ∧ s.inWindow 0 0 0x200 8 = true ∧ s.inWindow 0 0 (i.uA s).toNat 8 = true) ∧
      (let s := fabArg 8 0x200 0 5; (s.core 0).kicks = [] ∧ (s.onStrand here Strand.closeRegion).mayRegister 0 1 = true ∧ (s.readPair s.cur 6).toNat / 2 ^ 48 = ((s.readPair s.cur 6).toNat + 7) / 2 ^ 48) ∧
      activeB o e ((fabArg 8 0x200 0 5).onCore 0 fun k => { k with kicks := [{ slot := 0, strand := 3, reqs := [] }] }) = true) ∧
    (let e := e2 31 10 8 2 6; (∀ x ∈ ([(256, 5), (3, 993), (3, 5)] : List (Nat × Nat)), let s := fabArg x.1 0 x.2 0; let i := s.issue .fmsg e; activeB .fmsg e s = true ∧ (i.opB s).toNat = x.1 ∧ (i.uC s).toNat = x.2 ∧
      s.blockTrap s.cur (i.uA s).toNat 64 = none ∧ bits (s.winRead 0 0 (i.uA s).toNat 8) 31 8 = 0 ∧ (s.target 5).out = [])) ∧
    (∀ sub < 4, activeB .fsync (e2 31 10 0 0 0 sub) tst = true) ∧ tst.fabBusy here = false ∧ (tstWith fun st => { st with flight := { st.flight with msgs := [10] } }).fabBusy here = true ∧
    (∀ sub < 4, activeB .fsync (e2 31 10 0 0 0 sub) (tstWith fun st => { st with flight := { st.flight with msgs := [9] } }) = true) := by decide +kernel

/-- FabricInstructions: a barrier outside the window, LM bytes that leave it, and a fabric range that crosses a multiple of 2^48. -/
theorem witness_fabricFaults : ∀ o ∈ [Op.fget, .fput], let e := e2 31 10 8 2 6;
    (∀ x ∈ ([(8, 0x10000, 0x100, 5 * 2 ^ 22), (0x2000, 0x200, 0x100, 5 * 2 ^ 22), (8, 0x200, 0xFFFFFFFC, 5 * 2 ^ 22 + 0xFFFF)] : List (Nat × Nat × Nat × Nat)),
      let s := (fabArg x.1 x.2.1 x.2.2.1 5).onStrand here fun st => { st with regs := { st.regs with s := Tab.put 0 st.regs.s 7 (BitVec.ofNat 32 x.2.2.2) } }; let i := s.issue o e; let fab := (s.readPair s.cur 6).toNat
      activeB o e s = true ∧ MayTrap s s.cur ∧ (i.uD s).toNat % 8 = 0 ∧ fabDev fab ≤ 992 ∧ s.inWindow 0 0 (i.uD s).toNat 8 = decide (x.2.1 = 0x200) ∧ s.inWindow 0 0 (i.uA s).toNat (i.opB s).toNat = decide (x.1 = 8) ∧
        decide (fab / 2 ^ 48 = (fab + (i.opB s).toNat - 1) / 2 ^ 48) = decide (x.2.2.1 = 0x100)) := by
  intro o ho
  rcases List.mem_cons.1 ho with rfl | ho
  · exact fun x hx => ⟨by revert x; decide +kernel, ⟨by revert x; decide +kernel, by revert x; decide +kernel⟩, by revert x; decide +kernel, by revert x; decide +kernel, by revert x; decide +kernel, by revert x; decide +kernel, by revert x; decide +kernel⟩
  · obtain rfl := List.mem_singleton.1 ho
    exact fun x hx => ⟨by revert x; decide +kernel, ⟨by revert x; decide +kernel, by revert x; decide +kernel⟩, by revert x; decide +kernel, by revert x; decide +kernel, by revert x; decide +kernel, by revert x; decide +kernel, by revert x; decide +kernel⟩

/-- FabricInstructions: some device of two has no route, and is not this one. -/
theorem witness_unreachable : ∃ dev, (dev = 6 ∨ dev = 7) ∧ ∀ len bar c6 d, (fabArg len bar c6 d).reachable dev = false := by
  by_cases h : self = 6
  · exact ⟨7, .inr rfl, fun _ _ _ _ => by simp [State.reachable, fabArg, State.route, Tab.get, h]⟩
  · exact ⟨6, .inl rfl, fun _ _ _ _ => by simp [State.reachable, fabArg, State.route, Tab.get, Ne.symm h]⟩

/-- `tst` with a window of 64 KiB at 0, and a source 5 whose highest number is 1000. -/
def windowed : State := { tst with fabric := { windows := [(1, { valid := true, r := true, w := true, srct := 0xFFFF, len := 1 })], sources := [(5, { high := some 1000, done := [(999, .ack)] })] } }

/-- A request of source 5 to that window. -/
def aRequest (seq off : Nat) (kind : FabKind) : FabRequest := { src := 5, tenant := 3, seq := seq, win := 1, off := off, kind := kind }

/-- FabricRequestsServed: a number too old, one executed, reads and a write that the window admits, one past its end, and messages to a full ring and to one with room. -/
theorem witness_fabricServed :
    (let s := windowed; let f := s.source 5; f.tooOld 744 = true ∧ f.tooOld 745 = false ∧ f.tooOld 1001 = false ∧ f.done.find? (fun x => x.1 == 999) = some (999, .ack) ∧ (255 < 1000 - 744) ∧
      ([FabKind.read, .write 0xFF 7 false].all fun k => let q := aRequest 1001 0x2000 k; let x := s.window q.win; let va := x.vbase * 65536 + q.off
        x.admits q && (match s.translate (agentTlb 0) x.tenant false (fabAccess k) va with | .ok pa => pa == 0x2000 && isDevice pa && !s.homeWaits (lineOf pa) | _ => false) && (f.saved q).isNone) = true ∧
      ∀ k ∈ [FabKind.read, .write 0xFF 7 false, .write 0xFF 7 true], let q := aRequest 1001 0x10000 k; (match k with | .message _ _ => false | _ => true) = true ∧ (s.window q.win).admits q = false ∧ (s.source q.src).saved q = none ∧ (s.source q.src).tooOld q.seq = false) ∧
    (let full : State := { (droned 3) with memory := { tst.memory with mem := Mem.writeCells tst.memory.mem (cellsOf 0x104008 8 4) } };
      (Mem.read full.memory.mem 0x104008 8 + 2 ^ 64 - Mem.read full.memory.mem 0x104000 8) % 2 ^ 64 = 2 ^ (full.drone 2).logcap ∧ (full.drone 2).refuses 0 = false ∧
      (match full.agentPa 0 .write 0x104000 with | .ok 0x104000 => true | _ => false) = true ∧ full.homeWaits 0x104000 = false ∧
      let r := ((droned 3).remember (agentTlb 0) 0 0x104000).atHome 0x104000; r.homeWaits 0x104040 = false ∧ r.homeWaits 0x104080 = false) := by decide +kernel

/-- `tst` with one request to device 9, sent at GT 100. -/
def sent (use : FabUse) (kind : FabKind) : State :=
  let o : FabOut := { use := use, cost := 0, packet := { src := 0, tenant := 0, seq := 4, win := 1, off := 0, kind := kind }, first := some 100, last := 100 }
  { (tstWith fun st => { st with flight := { st.flight with msgs := [12] } }) with fabric := { targets := [(9, { nextSeq := 5, epoch := some 2, heard := 100, out := [o] })] } }

/-- FabricRequestsEnd: responses to a message, a load and a store, a request due to be sent again, and one past its deadline. -/
theorem witness_fabricEnds :
    (∀ x ∈ ([(.message here 12, .message 2 0), (.load here 0 0x40, .read), (.store here 0, .write 1 0 false)] : List (FabUse × FabKind)), let s := sent x.1 x.2; let r : FabResponse := { target := 9, seq := 4, epoch := 2, answer := .ack };
      let o : FabOut := { use := x.1, cost := 0, packet := { src := 0, tenant := 0, seq := 4, win := 1, off := 0, kind := x.2 }, first := some 100, last := 100 };
      (s.target 9).out = [o] ∧ r.seq = o.packet.seq ∧ (s.target 9).epoch = some r.epoch ∧ s.fabric.acks = [] ∧ (s.strand here).live ≠ 0 ∧ (s.strand here).flight.msgs = [12] ∧ (s.strand here).ferr.valid = false ∧
      o.last + 2000 ≤ (later s 2100).clock.gt ∧ (later s 2099).clock.gt < o.last + 2000 ∧ 100 + 1024000 ≤ (later s 1024100).clock.gt ∧ (s.target 9).heard + 256000 ≤ (later s 1024100).clock.gt ∧ (later s 1024100).outrun true 9 = false) := by decide +kernel

/-- FabricRequestsEnd: a port that leads to a device and one that leads to none, and a packet for another device on its second hop. -/
theorem witness_ports : (neighbourAt self 0).isSome = true ∧ neighbourAt self 1000 = none ∧ (∃ dst, dst ≠ self) ∧ 1 ≤ 2 ∧ 2 ≤ 3 :=
  ⟨port0_some, List.getElem?_eq_none_iff.2 ((List.length_filter_le _ _).trans (by simp)), ⟨self + 1, by omega⟩, by decide, by decide⟩

/-- Some device of two is not this one. -/
theorem witness_other : ∃ dev, (dev = 5 ∨ dev = 9) ∧ dev ≠ self := by
  by_cases h : (5 : Nat) = self
  · exact ⟨9, .inr rfl, by omega⟩
  · exact ⟨5, .inl rfl, h⟩

/-- A device in this state of the accord, with these entries in its table. -/
def accorded (state : AccState) (table : List Member) (gt : Nat := 300000) : State := later { State.reset with accord := { en := true, state := state, table := table } } gt

/-- An entry of the limit table. -/
def aMember (dev : Nat) (pending : Option (Nat × Nat) := none) (leaving : Option Nat := none) : Member := { dev := dev, limit := 1500, pending := pending, leaving := leaving, seq := 3, stamp := 100 }

/-- LimitsAndCeiling: the limits at both ends, a device alone and a member, a notice of another device, a limit due, a trip in each state, and a ceiling that follows a table. -/
theorem witness_limits : ∃ dev, dev ≠ self ∧
    (let s := accorded .member [aMember self]; s.mgmt.recovery = false ∧ s.accord.state = .member ∧ s.accord.table = [aMember self] ∧ (aMember self).dev = self ∧ s.accord.forwards = [] ∧ s.accord.clamp = none) ∧
    (let s := accorded .member [aMember dev]; s.accord.en = true ∧ s.accord.table = [aMember dev] ∧ (aMember dev).seq = 3) ∧
    ((accorded .solo []).accord.state ≠ .member ∧ (800 % 25 = 0 ∧ 2200 % 25 = 0 ∧ 801 % 25 ≠ 0)) ∧
    ((aMember self (some (900, 5))).pending = some (900, 5) ∧ (accorded .member [aMember self (some (900, 5))]).removalDue self = false ∧ (accorded .joining []).accord.state = .joining ∧ (accorded .member [aMember dev]).accord.follows = true ∧ (accorded .solo []).accord.follows = false) ∧
    ((accorded .isolated []).accord.state = .isolated ∧ ({ (accorded .solo []).accord with clamp := some 900 } : Accord).raised 7 = false ∧ (accorded .member []).accord.leftAt 7 = false ∧ (accorded .member []).accord.follows = true) := by
  obtain ⟨dev, -, h⟩ := witness_other
  exact ⟨dev, h, ⟨rfl, rfl, rfl, rfl, rfl, rfl⟩, ⟨rfl, rfl, rfl⟩, by decide, ⟨rfl, by simp [State.removalDue, aMember], rfl, rfl, rfl⟩, by decide +kernel⟩

/-- AccordMembership: members alone and of two with a heartbeat due and not due, silent for too long and not, a leave, a device that may join, one that it sponsors, and joins before and after their snapshot. -/
theorem witness_membership : ∃ dev, dev ≠ self ∧ dev ≤ 992 ∧
    (let s := accorded .member [aMember self]; s.accord.table = [aMember self] ∧ s.accord.beat + 64000 ≤ s.clock.gt ∧ s.accord.heard + 256000 ≤ s.clock.gt ∧
      (later s 4).clock.gt < s.accord.beat + 64000 ∧ (aMember self none (some 5)).leaving = some 5 ∧ s.mgmt.recovery = false ∧ s.accord.forwards = []) ∧
    (let s := accorded .member [aMember self, aMember dev]; s.accord.table = [aMember self, aMember dev] ∧ (aMember dev).stamp + 256000 ≤ s.clock.gt ∧ (later s 4).clock.gt < (aMember dev).stamp + 256000 ∧
      (aMember dev none (some 400000)).leaving = some 400000 ∧ (aMember dev).stamp + 256000 < 400000 ∧ 5 ≤ (aMember dev).stamp + 256000) ∧
    (let s := accorded .solo []; s.accord.en = true ∧ s.accord.state = .solo ∧ s.accord.group = 0 ∧ s.mgmt.recovery = false) ∧
    (let j : Joining := { sponsor := dev, back := .solo, limit := 900, since := 0, adopt := none }; let s := fun j => later { State.reset with accord := { en := true, state := .joining, joining := some j } } 2000000;
      (s j).accord.state = .joining ∧ (s j).accord.joining = some j ∧ j.adopt = none ∧ j.since + 1000000 ≤ (s j).clock.gt ∧ ({ j with adopt := some 7 } : Joining).adopt = some 7 ∧ 7 ≤ (s j).clock.gt) := by
  obtain ⟨dev, d, h⟩ := witness_other
  exact ⟨dev, h, by omega, ⟨rfl, by show 0 + 64000 ≤ 300000; decide, by show 0 + 256000 ≤ 300000; decide, by show 4 < 0 + 64000; decide, rfl, rfl, rfl⟩,
    ⟨rfl, by show 100 + 256000 ≤ 300000; decide, by show 4 < 100 + 256000; decide, rfl, by show 100 + 256000 < 400000; decide, by show 5 ≤ 100 + 256000; decide⟩, by decide,
    rfl, rfl, rfl, by show 0 + 1000000 ≤ 2000000; decide, rfl, by show 7 ≤ 2000000; decide⟩

/-- HostWrites: recovery, writes absorbed and not, sizes and offsets that are wrong and right, a reserved offset, a register that no write can act on, a queue that is enabled, a lock, and commands in and out of range. -/
theorem witness_host :
    ({ State.reset with mgmt := { recovery := true } } : State).mgmt.recovery = true ∧ tst.mgmt.recovery = false ∧ tst.absorbed = true ∧ ({ tst with host := { tst.host with pending := [9] } } : State).absorbed = false ∧
    (tstMem fun m => { m with snoops := [{ line := 2 ^ 48, expiry := 5 }] }).absorbed = false ∧ regAt 0x9028 = none ∧ ({ tst with mgmt := { tst.mgmt with dbgLock := true } } : State).mgmt.dbgLock = true ∧
    (match regAt 56, regAt 40 with | some a, some b => a.inert true && !a.inert false && !b.inert true && !b.inert false | _, _ => false) = true ∧ 0x1000 &&& MReg.writable .tdbase = 0x1000 ∧ 0x1000 &&& MReg.writable .wtbase = 0x1000 ∧
    2 ^ 63 + 5 &&& MReg.writable (.binding 7) = 2 ^ 63 + 5 ∧
    (tst.notifyOf 7).parked = [] ∧ regAt 0x4FFF8 = none ∧ (match regAt 0x1000, regAt 0x8000 with | some a, some b => a.writable == 0 && a != .dbgstat && (match a with | .stop _ _ => false | _ => true) && b.writable != 0 | _, _ => false) = true ∧
    Tab.wf {} tst.fabric.windows = true ∧ (working.queue 0).en = true ∧ ({ tst with sec := { lock := true } } : State).sec.lock = true ∧ ({ tst with mgmt := { command := some 2 } } : State).mgmt.command.isSome = true ∧
    tst.mgmt.command = none ∧ commandOk 2 65535 0 = true ∧ commandOk 2 65536 0 = false ∧ commandOk 3 143 0 = true ∧ commandOk 3 144 0 = false ∧ commandOk 5 0 0 = false ∧ commandOk 1 0x10000 0 = true := by decide +kernel

/-- CommandsAndCare: the buffer of a SUMMARY that may be written, commands that run, a core that is in service, a module before bring-up, and a flush that is due and one that is not. -/
theorem witness_commands :
    (let s : State := { tst with mgmt := { tst.mgmt with command := some 1, op0 := 0x10000 } }; s.runs 1 = true ∧ ∀ k < 274, s.agentReady (0x10000 + 64 * k) = true) ∧
    (let s := fun (n gt : Nat) => later { tst with mgmt := { tst.mgmt with command := some n, op0 := 0x10000, cmdDone := true, cmdTerm := 5 } } gt; (s 1 9).commandSettled = true ∧ (s 1 5).commandSettled = false ∧ (s 2 5).commandSettled = true) ∧
    (false ∉ [true, true] ∧ false ∈ [true, false]) ∧
    ((∀ n ∈ [2, 3, 4], ({ tst with mgmt := { command := some n, op0 := 5 } } : State).runs n = true) ∧ ({ tst with mgmt := { command := some 4, cmdDone := true } } : State).mgmt.cmdDone = true ∧ tst.mgmt.cmdDone = false) ∧
    (tst.mgmt.removed.contains 143 = false ∧ tst.mgmt.stops = [] ∧ State.reset.mgmt.ready = false ∧ State.reset.mgmt.recovery = false) ∧
    tst.life.flushed + 60000000000 ≤ (later tst 60000000000).clock.gt ∧ tst.clock.gt < tst.life.flushed + 60000000000 := by decide +kernel

/-- ContextsAndAlarm: contexts in each state, with and without a session, with a heartbeat too late and in time; a comb of a tenant bound to a context; and addresses inside and outside a wall. -/
theorem witness_contexts :
    (let s := fun (x : Context) => later { tst with sec := { contexts := [(3, x)] } } 50;
      (s {}).context 3 = {} ∧ ({} : Context).state = .configUnlocked ∧ ({} : Context).session = false ∧ (s { state := .run, session := true, period := 9, beat := 32 }).context 3 = { state := .run, session := true, period := 9, beat := 32 } ∧
      32 + 2 * 9 ≤ (s {}).clock.gt ∧ (s {}).clock.gt < 33 + 2 * 9 ∧ (s { state := .configLocked }).context 3 = { state := .configLocked } ∧ (s {}).sec.erased = false ∧
      ({ tst with sec := { erased := true } } : State).sec.erased = true) ∧
    (let s : State := { tst with memory := { tst.memory with mem := Mem.writeCells tst.memory.mem (cellsOf 0x100018 8 (1 + 3 * 256)) }, cores := [(0, { combs := [(0, some { tenant := 0 })] })] };
      s.boundTo 3 0 = true ∧ (s.core 0).combs = [(0, some { tenant := 0 })] ∧ (s.core 0).kicks = [] ∧ ({ tenant := 0 } : Comb).reqs = []) ∧
    (tst.mgmt.removedApps.contains 3 = false ∧ tst.mgmt.recovery = false ∧ tst.agentReady (lineOf 0x12000) = true ∧ isDevice 0x12000 = true ∧ (tst.app 3).sbx = false ∧
      let s : State := { tst with service := { apps := [(3, { sbx := true, wallB := [(0, 0x12001)], wallL := [(0, 0x13000)] })] } }; (s.app 3).sbx = true ∧ (∀ p ∈ [0x12000, 0x13000], (s.app 3).inWall p = true ∧ (s.app 3).marked p = false) ∧
        (s.app 3).inWall 0x14000 = false ∧ s.agentReady (lineOf 0x12000) = true) ∧
    (let x : AppCore := { sbx := true, wallB := [(0, 0x12001)], wallL := [(0, 0x13000)], weights := [(0, 2)] };
      x.inWall 0x13FFF = true ∧ x.inWall 0x14000 = false ∧ x.inWall 0x11FFF = false ∧ x.marked 0x200000 = true ∧ x.marked 0x12000 = false) := by decide +kernel

/-- `imaged` with a stop entry 5 for its strand, and the argument of the debug block at the image. -/
def stopped : State := { imaged with mgmt := { imaged.mgmt with dbgArg := 0x12000, stops := [(5, some { who := here, tenant := 0, pc := 0x10000, len := 4, code := 7, mask := BitVec.allOnes 32 })] } }

/-- DebugBlock: BRK in a strand of a tenant that a debugger is attached to. -/
theorem witness_breakpoint : let s : State := { tst with memory := { tst.memory with mem := Mem.writeCells tst.memory.mem (cellsOf 0x100018 8 2) }, tlb := {}, mgmt := { tst.mgmt with dbgAtt := true, dbgTenant := 0 } }
    activeB .brk (e2 31 0 0 2 0) s = true ∧ s.mgmt.dbgAtt = true ∧ s.mgmt.dbgLock = false ∧ s.mgmt.dbgTenant = s.tenantOf 0 0 ∧ (s.strand here).act = false ∧ (s.descriptor 0).isSome = true ∧ (s.descriptor 0).elim false descDbg = true ∧
      s.freeStop = some 0 := by decide +kernel

/-- StepKeepsForm: a state in its canonical form whose step runs. -/
theorem witness_keptForm : WellKept tst ∧ (match step tst with | .next _ => true | _ => false) = true ∧ (match exec (.st (e2 21 3 1 6 0)) tst with | .next _ => true | _ => false) = true :=
  ⟨⟨by decide +kernel, by decide +kernel, by decide +kernel⟩, by decide +kernel, by decide +kernel⟩

/-- DebugBlock: a locked block, entries that are valid and not, a strand that may take BRK, places of an image that fit and not, and images that pass their checks and not. -/
theorem witness_debug :
    ({ stopped with mgmt := { stopped.mgmt with dbgLock := true } } : State).mgmt.dbgLock = true ∧ stopped.mgmt.dbgLock = false ∧ stopped.mgmt.recovery = false ∧ stopped.mgmt.dbgBusy = [] ∧ (stopped.strand here).imagePending = false ∧ Tab.get none stopped.mgmt.stops 4 = none ∧
    (Tab.get none stopped.mgmt.stops 5).isSome = true ∧ (stopped.strand here).live ≠ 0 ∧ MayTrap stopped here ∧ imagePlace 0x12000 (stopped.strand here).sp.n = true ∧ imagePlace 0x12004 8 = false ∧
    (∀ l ∈ imageLines 0x12000 (stopped.strand here).sp.n, stopped.agentReady l = true) ∧
    (let read := fun (s : State) => (s.readImage ((List.range (imageSize 8 / 32)).map fun k => (0x12000 + 32 * k, 0x12000 + 32 * k)) fun _ p => Mem.read s.memory.mem p 32).firstBad (s.strand here);
      read stopped = none ∧ read { stopped with memory := tst.memory } ≠ none) ∧ tst.mgmt.stops = [] :=
  ⟨by decide +kernel, by decide +kernel, by decide +kernel, by decide +kernel, by decide +kernel, by decide +kernel, by decide +kernel, by decide +kernel, ⟨by decide +kernel, by decide +kernel⟩, by decide +kernel, by decide +kernel, by decide +kernel, by decide +kernel, by decide +kernel⟩

end Sys2Proof.Tests
end

section
-- One declaration at a time: side by side, the many lemmas below would each hold a thread while it waits for others, more than the check has room for.
set_option Elab.async false

/-! Proofs about memory: how writes read back, the canonical form, and stores at a home. -/

namespace Sys2Proof
open Machine

/-- Bytes that read as those of `v` are the number `v`, cut to the bytes read (R2). -/
theorem Mem.read_of_bytes (m : Mem) : ∀ (n a v : Nat), (∀ k < n, Mem.byte m (a + k) = BitVec.ofNat 8 (v / 256 ^ k)) → Mem.read m a n = v % 256 ^ n
  | 0, _, _, _ => by simp [Mem.read, Nat.mod_one]
  | n + 1, a, v, h => by
    have first : Mem.byte m a = BitVec.ofNat 8 v := by simpa using h 0 (by omega)
    have rest : Mem.read m (a + 1) n = v / 256 % 256 ^ n := Mem.read_of_bytes m n (a + 1) (v / 256) fun k hk => by
      rw [show a + 1 + k = a + (k + 1) by omega, h (k + 1) (by omega), Nat.div_div_eq_div_mul, Nat.pow_succ, Nat.mul_comm]
    rw [Mem.read, first, rest, Nat.pow_succ, Nat.mul_comm _ 256, Nat.mod_mul, BitVec.toNat_ofNat]

/-- A write reads back as written. -/
theorem Mem.read_write (m : Mem) (a n v : Nat) : Mem.read (Mem.write m a n v) a n = v % 256 ^ n :=
  Mem.read_of_bytes _ n a v fun k hk => Mem.byte_write_in n m a v k hk

/-- Below every key of a table stands the default. -/
theorem Tab.get_of_above {α : Type} {d : α} : ∀ {t : Tab α} {n i : Nat}, Tab.above d n t → i < n → Tab.get d t i = d
  | [], _, _, _, _ => rfl
  | (k, v) :: t, n, i, ⟨hk, _, ht⟩, hi => by
    rw [Tab.get, if_neg (by omega), Tab.get_of_above ht (by omega)]

/-- Tables in the canonical form that read alike are equal. -/
theorem Tab.ext_of_above {α : Type} {d : α} : ∀ {t u : Tab α} {n : Nat}, Tab.above d n t → Tab.above d n u → (∀ i, Tab.get d t i = Tab.get d u i) → t = u
  | [], [], _, _, _, _ => rfl
  | [], (k, v) :: u, _, _, ⟨_, hv, _⟩, h => absurd (by simpa [Tab.get] using (h k).symm) hv
  | (k, v) :: t, [], _, ⟨_, hv, _⟩, _, h => absurd (by simpa [Tab.get] using h k) hv
  | (k, v) :: t, (j, w) :: u, n, ⟨hk, hv, ht⟩, ⟨hj, hw, hu⟩, h => by
    have reads := fun i => h i
    simp only [Tab.get] at reads
    have keys : k = j := by
      rcases Nat.lt_trichotomy k j with hlt | heq | hlt
      · have := reads k
        rw [if_pos rfl, if_neg (by omega), Tab.get_of_above hu (by omega)] at this
        exact absurd this hv
      · exact heq
      · have := reads j
        rw [if_pos rfl, if_neg (by omega), Tab.get_of_above ht (by omega)] at this
        exact absurd this.symm hw
    subst keys
    have vals : v = w := by simpa using reads k
    have tails : t = u := Tab.ext_of_above ht hu fun i => by
      by_cases hi : k = i
      · rw [Tab.get_of_above ht (by omega), Tab.get_of_above hu (by omega)]
      · simpa [hi] using reads i
    rw [vals, tails]

/-- Memories in the canonical form that read alike are equal. -/
theorem Mem.ext_of_byte {m m' : Mem} (h : Mem.wf m = true) (h' : Mem.wf m' = true) (hb : ∀ a, Mem.byte m a = Mem.byte m' a) : m = m' :=
  Tab.ext_of_above (Tab.wf_iff.mp h) (Tab.wf_iff.mp h') hb

end Sys2Proof

namespace Sys2Proof.Machine

/-- A byte of the mask that `lineWrite` makes: those of the `n` bytes written. -/
theorem lineWrite_mask_testBit {pa n v k : Nat} (hn : pa % 64 + n ≤ 64) :
    (lineWrite pa n v).1.toNat.testBit k = decide (pa % 64 ≤ k ∧ k < pa % 64 + n) := by
  simp only [lineWrite, BitVec.toNat_ofNat, Nat.testBit_mod_two_pow, Nat.testBit_mul_two_pow, Nat.testBit_two_pow_sub_one]
  simp only [← Bool.decide_and]
  exact decide_eq_decide.mpr (by omega)

/-- A byte of the data that `lineWrite` makes, at a byte that is written. -/
theorem lineWrite_data_byte {pa n v k : Nat} (hn : pa % 64 + n ≤ 64) (hk : k < n) :
    BitVec.ofNat 8 ((lineWrite pa n v).2.toNat / 256 ^ (pa % 64 + k)) = BitVec.ofNat 8 (v / 256 ^ k) := by
  have p : ∀ j : Nat, 256 ^ j = 2 ^ (8 * j) := fun j => by rw [Nat.pow_mul]
  apply BitVec.eq_of_getLsbD_eq
  intro i hi
  simp only [lineWrite, BitVec.getLsbD_ofNat, BitVec.toNat_ofNat, p, Nat.testBit_div_two_pow, Nat.testBit_mod_two_pow, Nat.testBit_mul_two_pow,
    show i + 8 * (pa % 64 + k) - 8 * (pa % 64) = i + 8 * k by omega, show i + 8 * (pa % 64 + k) < 512 by omega, show 8 * (pa % 64) ≤ i + 8 * (pa % 64 + k) by omega,
    show i + 8 * k < 8 * n by omega, decide_true, Bool.true_and]

/-- A write at a home writes its bytes and no other. -/
theorem State.homeWrite_byte {s : State} {pa n v : Nat} (hn : pa % 64 + n ≤ 64) (b : Nat) :
    Mem.byte (s.homeWrite pa n v).memory.mem b = if pa ≤ b ∧ b < pa + n then BitVec.ofNat 8 (v / 256 ^ (b - pa)) else Mem.byte s.memory.mem b := by
  unfold State.homeWrite
  rw [State.applyLine_mem, Mem.byte_writeMasked, lineWrite_mask_testBit hn]
  have line : lineOf pa + pa % 64 = pa := by unfold lineOf; omega
  by_cases hb : pa ≤ b ∧ b < pa + n
  · obtain ⟨k, rfl⟩ : ∃ k, b = pa + k := ⟨b - pa, by omega⟩
    rw [if_pos ⟨by omega, by omega, decide_eq_true (by omega)⟩, if_pos hb, show pa + k - lineOf pa = pa % 64 + k by omega, show pa + k - pa = k by omega,
      lineWrite_data_byte hn (by omega)]
  · rw [if_neg hb, if_neg]
    rintro ⟨h1, h2, h3⟩
    have := of_decide_eq_true h3
    omega

/-- A store at a home writes its bytes and no other. -/
theorem State.homeStore_byte {s : State} {pa n v : Nat} (hn : pa % 64 + n ≤ 64) (b : Nat) :
    Mem.byte (s.homeStore pa n v).memory.mem b = if pa ≤ b ∧ b < pa + n then BitVec.ofNat 8 (v / 256 ^ (b - pa)) else Mem.byte s.memory.mem b := by
  unfold State.homeStore
  rw [State.homeWrite_byte hn, State.atHome_mem]

/-- A store at a home reads back as written. -/
theorem State.homeStore_read {s : State} {pa n v : Nat} (hn : pa % 64 + n ≤ 64) : Mem.read (s.homeStore pa n v).memory.mem pa n = v % 256 ^ n :=
  Mem.read_of_bytes _ n pa v fun k hk => by
    rw [State.homeStore_byte hn, if_pos (by omega), Nat.add_sub_cancel_left]

/-- Settles O7: the laws of tables and of masked writes, said of memory; a store at a home is a masked write of its line. -/
theorem memoryLaws : Obligations.MemoryLaws := by
  unfold Obligations.MemoryLaws
  refine ⟨fun m a n v => ⟨Mem.read_write m a n v, Mem.byte_write_out n m a v, Mem.wf_write n a v⟩,
    fun m a mask v n => ⟨Mem.wf_writeMasked n a mask v, Mem.byte_writeMasked n m a mask v⟩,
    fun m m' => Mem.ext_of_byte, fun m p => Tab.wf_filter p, fun m l => Mem.wf_writeCells l, ?_, State.reset_wf⟩
  intro s pa n v hn _
  refine ⟨State.homeStore_read hn, fun a ha => ?_, State.homeStore_wf pa n v⟩
  rw [State.homeStore_byte hn, if_neg (by omega)]

end Sys2Proof.Machine

/-! Proofs about the special registers: SRD, GTIME, LEASE and SWR. -/

namespace Sys2Proof.Machine
open Sys2Proof Sys2Proof.Safety

/-! What SWR writes, field by field (R411). -/

section
variable (st : Strand) (n : Nat) (v : Dbl)

theorem Strand.setSreg_part : (st.setSreg n v).sp.part = if n = 6 then v.setWidth 32 else st.sp.part := by
  unfold Strand.setSreg; split <;> simp_all
theorem Strand.setSreg_mode : (st.setSreg n v).sp.mode = if n = 7 then modeClean v else st.sp.mode := by
  unfold Strand.setSreg; split <;> simp_all
theorem Strand.setSreg_wb : (st.setSreg n v).sp.wb = if n = 8 then 8 * (v.setWidth 32).toNat else st.sp.wb := by
  unfold Strand.setSreg; split <;> simp_all
theorem Strand.setSreg_ssp : (st.setSreg n v).sp.ssp = if n = 9 then (v.setWidth 32).toNat else st.sp.ssp := by
  unfold Strand.setSreg; split <;> simp_all
theorem Strand.setSreg_fair : (st.setSreg n v).sp.fair = if n = 12 then v.setWidth 32 &&& 0xFFFF else st.sp.fair := by
  unfold Strand.setSreg; split <;> simp_all
theorem Strand.setSreg_tvec : (st.setSreg n v).trap.tvec = if n = 17 then v else st.trap.tvec := by
  unfold Strand.setSreg; split <;> simp_all
theorem Strand.setSreg_tcause : (st.setSreg n v).trap.tcause = if n = 18 then v.setWidth 32 &&& 0xDFF else st.trap.tcause := by
  unfold Strand.setSreg; split <;> simp_all
theorem Strand.setSreg_tpc : (st.setSreg n v).trap.tpc = if n = 19 then v else st.trap.tpc := by
  unfold Strand.setSreg; split <;> simp_all
theorem Strand.setSreg_tval : (st.setSreg n v).trap.tval = if n = 20 then v else st.trap.tval := by
  unfold Strand.setSreg; split <;> simp_all
theorem Strand.setSreg_tmask : (st.setSreg n v).trap.tmask = if n = 22 then v.setWidth 32 else st.trap.tmask := by
  unfold Strand.setSreg; split <;> simp_all
theorem Strand.setSreg_tscr0 : (st.setSreg n v).trap.tscr0 = if n = 23 then v else st.trap.tscr0 := by
  unfold Strand.setSreg; split <;> simp_all
theorem Strand.setSreg_tscr1 : (st.setSreg n v).trap.tscr1 = if n = 24 then v else st.trap.tscr1 := by
  unfold Strand.setSreg; split <;> simp_all
theorem Strand.setSreg_priv : (st.setSreg n v).trap.priv = st.trap.priv := by
  unfold Strand.setSreg; split <;> rfl
theorem Strand.setSreg_live : (st.setSreg n v).live = st.live := by
  unfold Strand.setSreg; split <;> rfl
theorem Strand.setSreg_regs : (st.setSreg n v).regs = st.regs := by
  unfold Strand.setSreg; split <;> rfl
theorem Strand.setSreg_region : (st.setSreg n v).region = st.region := by
  unfold Strand.setSreg; split <;> rfl

end

/-! Special registers after a change of the strand. -/

/-- A change of a strand changes nothing of its comb but the strand. -/
theorem State.comb_onStrand {s : State} {w : Sid} (f : Strand → Strand) (h : (s.comb? w.core w.slot).isSome = true) :
    ((s.onStrand w f).comb w.core w.slot).record = (s.comb w.core w.slot).record ∧ ((s.onStrand w f).comb w.core w.slot).tenant = (s.comb w.core w.slot).tenant := by
  unfold State.onStrand
  rw [State.comb_onComb _ h]
  exact ⟨rfl, rfl⟩

/-- A change that leaves SP, the live mask and the trap registers alone changes no special register. -/
theorem State.sreg_onStrand_same {s : State} {w : Sid} {f : Strand → Strand} (h : (s.comb? w.core w.slot).isSome = true)
    (hsp : (f (s.strand w)).sp = (s.strand w).sp) (hl : (f (s.strand w)).live = (s.strand w).live) (ht : (f (s.strand w)).trap = (s.strand w).trap) (n : Nat) :
    (s.onStrand w f).sreg w n = s.sreg w n := by
  obtain ⟨hr, hten⟩ := State.comb_onStrand f h
  unfold State.sreg
  simp only [State.strand_onStrand f h, hsp, hl, ht, hr, hten, State.gt64, State.ceil, State.ceilt, State.onStrand_clock, State.onStrand_accord, State.onStrand_host]

/-- Moving the issuing lanes on changes no special register. -/
theorem State.sreg_advance {s : State} {i : Issue} (h : (s.comb? i.w.core i.w.slot).isSome = true) (n : Nat) : (s.advance i).sreg i.w n = s.sreg i.w n := by
  refine State.sreg_onStrand_same h ?_ (by simp) ?_ n
  · obtain ⟨a, ha⟩ := Strand.markAhead_cases (((s.strand i.w).move i.group fun _ => i.next).account i.st s.clock.cycle) s i
    rw [ha]; simp
  · obtain ⟨a, ha⟩ := Strand.markAhead_cases (((s.strand i.w).move i.group fun _ => i.next).account i.st s.clock.cycle) s i
    rw [ha]; simp

/-- A write of one special register changes no other. -/
theorem State.sreg_setSreg_ne {s : State} {w : Sid} {n m : Nat} (v : Dbl) (h : (s.comb? w.core w.slot).isSome = true) (hm : m ≠ n) :
    (s.onStrand w fun st => st.setSreg n v).sreg w m = s.sreg w m := by
  obtain ⟨hr, hten⟩ := State.comb_onStrand (fun st => st.setSreg n v) h
  unfold State.sreg
  simp only [State.strand_onStrand _ h, hr, hten, State.gt64, State.ceil, State.ceilt, State.onStrand_clock, State.onStrand_accord, State.onStrand_host,
    Strand.setSreg_part, Strand.setSreg_mode, Strand.setSreg_wb, Strand.setSreg_ssp, Strand.setSreg_fair, Strand.setSreg_tvec, Strand.setSreg_tcause, Strand.setSreg_tpc,
    Strand.setSreg_tval, Strand.setSreg_tmask, Strand.setSreg_tscr0, Strand.setSreg_tscr1, Strand.setSreg_priv, Strand.setSreg_live]
  split <;> simp [hm.symm]

/-- What a special register reads as after a write of it (R3, R411): the offered value without the reserved bits, WBASE eight times it, and a read-only one as before. -/
def State.sregWritten (s : State) (w : Sid) (n : Nat) (v : Dbl) : Dbl :=
  let lo := v.extractLsb' 0 32
  if n ∈ [6, 22] then lo.setWidth 64 else if n = 7 then v &&& modeClean (BitVec.allOnes 64) else if n = 8 then BitVec.ofNat 64 (8 * lo.toNat)
    else if n = 9 then lo.setWidth 64 else if n = 12 then v &&& 0xFFFF else if n = 18 then v &&& 0xDFF
    else if n ∈ [17, 19, 20, 23, 24] then v else s.sreg w n

/-- A mask of the low word cuts the high word off. -/
theorem setWidth_and_low (v c : Dbl) (hc : c.toNat < 2 ^ 32) : (v.setWidth 32).setWidth 64 &&& c = v &&& c := by
  apply BitVec.eq_of_getLsbD_eq
  intro i hi
  by_cases h : i < 32
  · simp [h, hi]
  · have : c.getLsbD i = false := Nat.testBit_lt_two_pow (Nat.lt_of_lt_of_le hc (Nat.pow_le_pow_right (by decide) (by omega)))
    simp [this]

theorem State.sreg_setSreg_same {s : State} {w : Sid} (n : Nat) (v : Dbl) (h : (s.comb? w.core w.slot).isSome = true) :
    (s.onStrand w fun st => st.setSreg n v).sreg w n = s.sregWritten w n v := by
  obtain ⟨hr, hten⟩ := State.comb_onStrand (fun st => st.setSreg n v) h
  unfold State.sregWritten State.sreg
  simp only [State.strand_onStrand _ h, hr, hten, State.gt64, State.ceil, State.ceilt, State.onStrand_clock, State.onStrand_accord, State.onStrand_host,
    Strand.setSreg_part, Strand.setSreg_mode, Strand.setSreg_wb, Strand.setSreg_ssp, Strand.setSreg_fair, Strand.setSreg_tvec, Strand.setSreg_tcause, Strand.setSreg_tpc,
    Strand.setSreg_tval, Strand.setSreg_tmask, Strand.setSreg_tscr0, Strand.setSreg_tscr1, Strand.setSreg_priv, Strand.setSreg_live]
  split
  case h_26 => simp_all
  case h_13 => simpa [zx64] using setWidth_and_low v 0xFFFF (by decide)
  case h_19 => simpa [zx64] using setWidth_and_low v 0xDFF (by decide)
  all_goals simp [zx64, modeClean, ← BitVec.setWidth_eq_extractLsb']
  case h_10 => exact BitVec.eq_of_toNat_eq (by simp)

/-! SRD, GTIME, LEASE and SWR. -/

/-- An instruction that only strands execute, with no fault, has its effect and moves on. -/
theorem exec_done {n : Instr} {o : Op} {e : Enc} {s : State} {check f} (h : Active o e s) (hn : exec n s = next (strandOnly o e s (effect check f)))
    (hr : o.endsRegion e = false) (hc : check (s.issue o e) s = none) : exec n s = .next ((f (s.issue o e) s).advance (s.issue o e)) := by
  rw [hn, strandOnly_clear h.toClear, effect_done h.active hc hr]; rfl

/-- The table of R408, and what SRD, GTIME and LEASE make of it (R216, R217, R410). -/
theorem specialRegisterReads : Statements.SpecialRegisterReads := by
  intro e s
  refine ⟨rfl, fun h => ⟨fun hs => ?srdLow, fun hs => ?srdHigh, fun hs => ?srdBoth⟩, fun h => ⟨fun hs => ?gtimeBoth, fun hs => ?gtimeLow⟩,
    fun h => ⟨fun hv => ?leaseSet, fun hv => ?leaseRefused⟩⟩
  case srdLow => exact sets_of h rfl rfl rfl (by simp [hs]; rfl)
  case srdHigh => exact sets_of h rfl rfl rfl (by simp [hs]; rfl)
  case srdBoth => refine (exec_done h rfl rfl rfl).trans ?_; simp [hs]; rfl
  case gtimeBoth => refine (exec_done h rfl rfl rfl).trans ?_; simp [hs]; rfl
  case gtimeLow => exact sets_of h rfl rfl rfl ((if_neg hs).trans rfl)
  case leaseSet =>
    obtain ⟨h1, h2⟩ := hv
    refine (exec_done (n := .lease e) h rfl rfl ?_).trans rfl
    exact if_neg (not_or.mpr ⟨Nat.not_lt.mpr h1, Nat.not_lt.mpr h2⟩)
  case leaseRefused =>
    have out := (Classical.not_and_iff_not_or_not.mp hv).imp Nat.not_le.mp Nat.not_le.mp
    refine traps_of h rfl ?_
    exact (if_pos out).trans (by simp [zx64])

/-- Closing the region changes no uniform field that the strand reads. -/
theorem State.readS_closeRegion {s : State} {w : Sid} (h : (s.comb? w.core w.slot).isSome = true) (n : Nat) :
    (s.onStrand w Strand.closeRegion).readS w n = s.readS w n := by
  have words : ((s.onStrand w Strand.closeRegion).comb w.core w.slot).readWord = (s.comb w.core w.slot).readWord := by
    unfold State.onStrand
    rw [State.comb_onComb _ h]
    rfl
  simp only [State.readS, State.strand_onStrand _ h, words, State.onStrand_clock, Strand.closeRegion]

/-- Closing the region does not change what SWR offers. -/
theorem Issue.offered_closeRegion {s : State} {i : Issue} (h : (s.comb? i.w.core i.w.slot).isSome = true) :
    i.offered (s.onStrand i.w Strand.closeRegion) = i.offered s := by
  simp only [Issue.offered, Issue.opB, State.readPair, State.readS_closeRegion h, State.sreg_onStrand_same (f := Strand.closeRegion) h rfl rfl rfl]

/-- The state in which SWR writes: the region is closed but for five registers (R163, R411). -/
def State.swrRegion (s : State) (w : Sid) (n : Nat) : State := if n ∈ [6, 7, 8, 9, 12] then s else s.onStrand w Strand.closeRegion

theorem exec_swr {e : Enc} {s : State} (h : Active .swr e s) (hc : swrTrap (s.issue .swr e) s = none) :
    exec (.swr e) s = .next (((s.swrRegion s.cur e.a.toNat).onStrand s.cur fun st => st.setSreg e.a.toNat ((s.issue .swr e).offered s)).advance (s.issue .swr e)) := by
  have hw := State.resident_of_may h.may
  refine congrArg Host.Outcome.next ((strandOnly_clear h.toClear).trans ?_)
  unfold State.swrRegion
  by_cases hn : e.a.toNat ∈ [6, 7, 8, 9, 12]
  · rw [if_pos hn, effect_done h.active hc (by simpa [State.issue, Op.endsRegion, or_iff_not_imp_left] using hn)]
    rfl
  · rw [if_neg hn, effect_ends h.active hc (by simpa [State.issue, Op.endsRegion] using hn)]
    rw [Issue.offered_closeRegion (i := s.issue .swr e) hw]
    rfl

theorem State.swrRegion_sreg {s : State} {w : Sid} (h : (s.comb? w.core w.slot).isSome = true) (n m : Nat) : (s.swrRegion w n).sreg w m = s.sreg w m := by
  unfold State.swrRegion
  split
  · rfl
  · exact State.sreg_onStrand_same h rfl rfl rfl m

theorem State.swrRegion_resident {s : State} {w : Sid} (h : (s.comb? w.core w.slot).isSome = true) (n : Nat) : ((s.swrRegion w n).comb? w.core w.slot).isSome = true := by
  unfold State.swrRegion
  split
  · exact h
  · exact State.resident_onStrand _ h

theorem State.swrRegion_memory (s : State) (w : Sid) (n : Nat) : (s.swrRegion w n).memory = s.memory := by
  unfold State.swrRegion; split <;> simp

theorem State.swrRegion_strand {s : State} {w : Sid} (h : (s.comb? w.core w.slot).isSome = true) (n : Nat) :
    ((s.swrRegion w n).strand w).regs = (s.strand w).regs ∧ ((s.swrRegion w n).strand w).region = if n ∈ [6, 7, 8, 9, 12] then (s.strand w).region else none := by
  unfold State.swrRegion
  split
  · exact ⟨rfl, rfl⟩
  · rw [State.strand_onStrand _ h]; exact ⟨rfl, rfl⟩

/-- What the registers read as once SWR is done. -/
theorem State.sregWritten_swrRegion {s : State} {w : Sid} (h : (s.comb? w.core w.slot).isSome = true) (n : Nat) (v : Dbl) :
    (s.swrRegion w n).sregWritten w n v = s.sregWritten w n v := by
  simp only [State.sregWritten, State.swrRegion_sreg h]

/-- A reserved bit of a new TVEC is a fault (R411). -/
theorem tvecTrap_reserved {v : Dbl} (h : v &&& 0xFE0000000000003F ≠ 0) : tvecTrap v = some { cause := .illegalOperand, tval := v } := by
  refine if_pos (Classical.byContradiction fun hn => h ?_)
  obtain ⟨high, low⟩ := not_or.mp hn
  rw [ne_eq, not_not] at high low
  have hl : v.toNat < 2 ^ 64 := v.isLt
  apply BitVec.eq_of_getLsbD_eq
  intro i hi
  have clear : 57 ≤ i ∨ i < 6 → v.getLsbD i = false := by
    rintro (hj | hj)
    · exact Nat.testBit_lt_two_pow (Nat.lt_of_lt_of_le (show v.toNat < 2 ^ 57 by simp only [bits] at high; omega) (Nat.pow_le_pow_right (by decide) hj))
    · have : (v.toNat % 2 ^ 6).testBit i = false := by simp only [bits] at low; rw [show v.toNat % 2 ^ 6 = 0 by omega, Nat.zero_testBit]
      rwa [Nat.testBit_mod_two_pow, decide_eq_true hj, Bool.true_and] at this
  by_cases hj : 57 ≤ i ∨ i < 6
  · rw [BitVec.getLsbD_and, clear hj]; simp
  · have mask : (0xFE0000000000003F : Dbl).getLsbD i = false := by
      have : ∀ j < 57, 6 ≤ j → (0xFE0000000000003F : Dbl).getLsbD j = false := by decide
      exact this i (by omega) (by omega)
    rw [BitVec.getLsbD_and, mask]; simp

/-- Moving the issuing lanes on changes no region. -/
theorem State.advance_region {s : State} {i : Issue} (h : (s.comb? i.w.core i.w.slot).isSome = true) :
    ((s.advance i).strand i.w).region = (s.strand i.w).region := by
  rw [State.advance, State.strand_moveTo _ h]; simp

/-- SWR (R3, R157, R411, R413). -/
theorem specialRegisterWrites : Statements.SpecialRegisterWrites := by
  intro e s h
  have hw : (s.comb? s.cur.core s.cur.slot).isSome = true := State.resident_of_may h.may
  have hr := State.swrRegion_resident hw e.a.toNat
  have hs := State.resident_onStrand (fun st => st.setSreg e.a.toNat ((s.issue .swr e).offered s)) hr
  have strand := State.strand_onStrand (fun st => st.setSreg e.a.toNat ((s.issue .swr e).offered s)) hr
  obtain ⟨regs, region⟩ := State.swrRegion_strand hw e.a.toNat
  refine ⟨fun hc => ⟨_, exec_swr h hc, ?new, fun m hm => ?others, ?regs, ?memory, ?region⟩, fun x hx => traps_of h rfl hx, fun hn hv => ?tvec, fun hn h1 h2 => ?fair, fun hn => ?unchecked⟩
  case new =>
    exact (State.sreg_advance (i := s.issue .swr e) hs _).trans ((State.sreg_setSreg_same _ _ hr).trans (State.sregWritten_swrRegion hw _ _))
  case others =>
    exact (State.sreg_advance (i := s.issue .swr e) hs m).trans ((State.sreg_setSreg_ne _ hr hm).trans (State.swrRegion_sreg hw _ m))
  case regs =>
    refine (State.moveTo_regs (i := s.issue .swr e) _ hs).trans ((congrArg Strand.regs strand).trans ?_)
    rw [Strand.setSreg_regs, regs]
  case memory => simp [State.swrRegion_memory]
  case region =>
    refine (State.advance_region (i := s.issue .swr e) hs).trans ((congrArg Strand.region strand).trans ?_)
    rw [Strand.setSreg_region, region]
  case tvec => simpa [swrTrap, State.issue, hn] using tvecTrap_reserved hv
  case fair =>
    have low : ∀ x : Nat, bits x 15 0 = x % 65536 := fun x => by simp [bits]
    simp only [swrTrap, State.issue, hn, fairTrap, low]
    exact if_pos ⟨h1, h2⟩
  case unchecked =>
    unfold swrTrap
    split <;> simp_all [State.issue]

/-- Settles O25: reads by the table of R408, writes field by field. -/
theorem specialRegisters : Obligations.SpecialRegisters := ⟨specialRegisterReads, specialRegisterWrites⟩

end Sys2Proof.Machine

/-! Proofs about the writes of the host: SYNC, doorbells and the management space. -/

namespace Sys2Proof

/-- Writing to a table in the canonical form what it holds changes nothing. -/
theorem Tab.put_get {α : Type} [DecidableEq α] {d : α} {t : Tab α} (i : Nat) (h : Tab.wf d t = true) : Tab.put d t i (Tab.get d t i) = t :=
  Tab.ext_of_above (Tab.wf_iff.mp (Tab.wf_put i _ h)) (Tab.wf_iff.mp h) fun j => by
    rw [Tab.get_put]
    split
    · rename_i e; rw [e]
    · rfl

end Sys2Proof

namespace Sys2Proof.Machine
open Sys2Proof Sys2Proof.Safety

/-! SYNC and doorbells (R436, R437). -/

/-- In recovery no host access has an effect (R451). -/
theorem State.fromHost_recovery {s : State} (f : State → State) (h : s.mgmt.recovery = true) : s.fromHost f = s := if_pos h

/-- Outside recovery a host access has its effect. -/
theorem State.fromHost_running {s : State} (f : State → State) (h : s.mgmt.recovery = false) : s.fromHost f = f s := by simp [State.fromHost, h]

theorem State.afterAbsorption_absorbed {s : State} (f : State → State) (h : s.mgmt.recovery = false) (ha : s.absorbed = true) :
    s.afterAbsorption f = f { s with host := { s.host with pending := [] } } := (State.fromHost_running _ h).trans (if_pos ha)

theorem State.afterAbsorption_waits {s : State} (f : State → State) (h : s.mgmt.recovery = false) (ha : s.absorbed = false) : s.afterAbsorption f = s.again true :=
  (State.fromHost_running _ h).trans (if_neg (by simp [ha]))

theorem State.notifyOf_onNotify (s : State) (reg n : Nat) (f : Notify → Notify) : (s.onNotify reg f).notifyOf n = if reg = n then f (s.notifyOf reg) else s.notifyOf n :=
  Tab.get_put _ _ _ _ _

/-- A NOTIFY on a register without parked cells only advances its sequence (R335). -/
theorem State.bump_unparked {s : State} {reg : Nat} (h : (s.notifyOf reg).parked = []) : s.bump reg = s.onNotify reg fun n => { n with seq := n.seq + 1 } := by
  simp [State.bump, h]

theorem hostWrites_inRecovery (s : State) (v : Word) (reg off size : Nat) (value : Dbl) (h : s.mgmt.recovery = true) :
    exec (.syncWrite v) s = .next s ∧ exec (.doorbellNotify reg) s = .next s ∧ exec (.mgmtRegisterWrite off size value) s = .next s :=
  ⟨congrArg next (State.fromHost_recovery _ h), congrArg next (State.fromHost_recovery _ h), congrArg next (State.fromHost_recovery _ h)⟩

theorem syncAndDoorbells (s : State) (v : Word) (reg : Nat) (h : s.mgmt.recovery = false) :
    (s.absorbed = true → Becomes (.syncWrite v) s fun t => t.host.sync = v ∧ t.host.pending = [] ∧ t.memory = s.memory) ∧
    (s.absorbed = false → exec (.syncWrite v) s = .next (s.again true) ∧ exec (.doorbellNotify reg) s = .next (s.again true)) ∧
    (s.absorbed = true → reg < 256 → (s.notifyOf reg).parked = [] → Becomes (.doorbellNotify reg) s fun t => (t.notifyOf reg).seq = (s.notifyOf reg).seq + 1 ∧
      (∀ n, n ≠ reg → t.notifyOf n = s.notifyOf n) ∧ t.memory = s.memory) := by
  refine ⟨fun ha => ⟨_, congrArg next (State.afterAbsorption_absorbed _ h ha), rfl, rfl, rfl⟩,
    fun ha => ⟨congrArg next (State.afterAbsorption_waits _ h ha), congrArg next (State.afterAbsorption_waits _ h ha)⟩, fun ha hr hp => ?_⟩
  let u : State := { s with host := { s.host with pending := [] } }
  have bumped : exec (.doorbellNotify reg) s = .next (u.onNotify reg fun n => { n with seq := n.seq + 1 }) :=
    congrArg next ((State.afterAbsorption_absorbed _ h ha).trans ((if_pos hr).trans (State.bump_unparked (s := u) hp)))
  refine ⟨_, bumped, ?_, fun n hn => ?_, rfl⟩
  · rw [State.notifyOf_onNotify, if_pos rfl]; rfl
  · rw [State.notifyOf_onNotify, if_neg (Ne.symm hn)]; rfl

/-! Writes of the management space (R440). -/

/-- The sizes and offsets that a write may have (R440). -/
def mgmtAligned (off size : Nat) : Prop := (size = 8 ∧ off % 8 = 0) ∨ (size = 4 ∧ off % 4 = 0)

theorem exec_mgmtRegisterWrite {s : State} (off size : Nat) (value : Dbl) (h : s.mgmt.recovery = false) :
    exec (.mgmtRegisterWrite off size value) s = .next (s.mgmtWrite off size value) := congrArg next (State.fromHost_running _ h)

theorem State.mgmtWrite_misaligned {s : State} {off size : Nat} {value : Dbl} (h : ¬ mgmtAligned off size) : s.mgmtWrite off size value = s :=
  if_pos (by rw [Bool.not_eq_true', decide_eq_false_iff_not]; exact h)

/-- An aligned write, by the register at its offset. -/
theorem State.mgmtWrite_aligned {s : State} {off size : Nat} {value : Dbl} (h : mgmtAligned off size) :
    s.mgmtWrite off size value = match regAt (off / 8 * 8) with
      | none => s.debugAccess off
      | some r =>
        if size = 8 then s.writeMgmt r (value.toNat &&& r.writable)
        else if r.inert (decide (off % 8 = 4)) then s
        else s.writeMgmt r (((s.readMgmt r &&& halfMask (!decide (off % 8 = 4))) ||| value.toNat % 2 ^ 32 * (if decide (off % 8 = 4) then 2 ^ 32 else 1)) &&& r.writable) :=
  if_neg (by rw [Bool.not_eq_true', decide_eq_false_iff_not, not_not]; exact h)

theorem State.mgmtWrite_reserved {s : State} {off size : Nat} {value : Dbl} (h : mgmtAligned off size) (hr : regAt (off / 8 * 8) = none) :
    s.mgmtWrite off size value = s.debugAccess off := by
  rw [State.mgmtWrite_aligned h, hr]

/-- An 8-byte write. -/
theorem State.mgmtWrite_double {s : State} {off : Nat} {value : Dbl} {r : MReg} (h : off % 8 = 0) (hr : regAt (off / 8 * 8) = some r) :
    s.mgmtWrite off 8 value = s.writeMgmt r (value.toNat &&& r.writable) := by
  rw [State.mgmtWrite_aligned (.inl ⟨rfl, h⟩), hr]
  exact if_pos rfl

/-- A 4-byte write. -/
theorem State.mgmtWrite_word {s : State} {off : Nat} {value : Dbl} {r : MReg} (h : off % 4 = 0) (hr : regAt (off / 8 * 8) = some r) :
    s.mgmtWrite off 4 value = if r.inert (decide (off % 8 = 4)) then s else
      s.writeMgmt r (((s.readMgmt r &&& halfMask (!decide (off % 8 = 4))) ||| value.toNat % 2 ^ 32 * (if decide (off % 8 = 4) then 2 ^ 32 else 1)) &&& r.writable) := by
  rw [State.mgmtWrite_aligned (.inr ⟨rfl, h⟩), hr]
  exact if_neg (by decide)

/-- A window double past the fields of the entry is read-only (R377). -/
theorem Window.setDouble_readOnly {x : Window} {n j : Nat} (h : (MReg.window n j).writable = 0) (v : Nat) : x.setDouble j v = x := by
  match j with
  | 0 | 1 | 2 => exact absurd h (by simp [MReg.writable, fld])
  | _ + 3 => rfl

/-- A write that can act on no bit of a register changes nothing (R3), outside the debug block. -/
theorem State.writeMgmt_readOnly {s : State} {r : MReg} (h : r.writable = 0) (hd : r ≠ .dbgstat) (hs : ∀ k j, r ≠ .stop k j) (hw : Tab.wf {} s.fabric.windows = true) (v : Nat) :
    s.writeMgmt r v = s := by
  cases r with
  | window n j =>
    show ({ s with fabric := { s.fabric with windows := Tab.put {} s.fabric.windows n ((s.window n).setDouble j v) } } : State) = s
    rw [Window.setDouble_readOnly h, State.window, Tab.put_get n hw]
  | dbgstat => exact absurd rfl hd
  | stop e j => exact absurd rfl (hs e j)
  | slice c e j => exact absurd h (by by_cases hj : j = 0 <;> simp [MReg.writable, fld, hj])
  | devstat | corestat | cmdstat | hlogtail | hlog | fqtail | accstat | lease | life | bins => rfl
  | _ => exact absurd h (by simp [MReg.writable, fld])

/-- A half of such a register is inert. -/
theorem MReg.inert_readOnly {r : MReg} (h : r.writable = 0) (hd : r ≠ .dbgstat) (hs : ∀ k j, r ≠ .stop k j) (high : Bool) : r.inert high = true := by
  cases r with
  | dbgstat => exact absurd rfl hd
  | stop e j => exact absurd rfl (hs e j)
  | _ => simp [MReg.inert, h]

theorem State.mgmtWrite_readOnly {s : State} {off size : Nat} {value : Dbl} {r : MReg} (hr : regAt (off / 8 * 8) = some r) (h : r.writable = 0) (hd : r ≠ .dbgstat)
    (hs : ∀ k j, r ≠ .stop k j) (hw : Tab.wf {} s.fabric.windows = true) : s.mgmtWrite off size value = s := by
  by_cases ha : mgmtAligned off size
  · obtain ⟨rfl, h8⟩ | ⟨rfl, h4⟩ := ha
    · rw [State.mgmtWrite_double h8 hr, State.writeMgmt_readOnly h hd hs hw]
    · rw [State.mgmtWrite_word h4 hr, if_pos (MReg.inert_readOnly h hd hs _)]
  · exact State.mgmtWrite_misaligned ha

/-- The writes of the management space (R440). -/
theorem managementWrites (s : State) (off size : Nat) (value : Dbl) (h : s.mgmt.recovery = false) :
    (¬ ((size = 8 ∧ off % 8 = 0) ∨ (size = 4 ∧ off % 4 = 0)) → exec (.mgmtRegisterWrite off size value) s = .next s) ∧
    (regAt (off / 8 * 8) = none → ¬ (0x9000 ≤ off ∧ off < 0xA000 ∧ s.mgmt.dbgLock = true) → exec (.mgmtRegisterWrite off size value) s = .next s) ∧
    (regAt (off / 8 * 8) = none → 0x9000 ≤ off → off < 0xA000 → s.mgmt.dbgLock = true → (size = 8 ∧ off % 8 = 0) ∨ (size = 4 ∧ off % 4 = 0) →
      exec (.mgmtRegisterWrite off size value) s = .next (s.alarm .debug)) ∧
    (∀ r, regAt (off / 8 * 8) = some r → r.writable = 0 → r ≠ .dbgstat → (∀ k j, r ≠ .stop k j) → Tab.wf {} s.fabric.windows = true → exec (.mgmtRegisterWrite off size value) s = .next s) ∧
    (∀ r, regAt off = some r → off % 8 = 0 → exec (.mgmtRegisterWrite off 8 value) s = .next (s.writeMgmt r (value.toNat &&& r.writable))) ∧
    (∀ r, regAt (off / 8 * 8) = some r → off % 4 = 0 → let high := decide (off % 8 = 4)
      (r.inert high = true → exec (.mgmtRegisterWrite off 4 value) s = .next s) ∧
      (r.inert high = false → let new := value.toNat % 2 ^ 32 * (if high then 2 ^ 32 else 1); let other := s.readMgmt r &&& halfMask (!high)
        exec (.mgmtRegisterWrite off 4 value) s = .next (s.writeMgmt r ((other ||| new) &&& r.writable)))) := by
  have run := fun size => exec_mgmtRegisterWrite off size value h
  refine ⟨fun ha => ?misaligned, fun hr hn => ?reserved, fun hr lo hi hl ha => ?locked, fun r hr hz hd hs hw => ?readOnly, fun r hr h8 => ?double, fun r hr h4 => ⟨fun hi => ?inert, fun hi => ?word⟩⟩
  case misaligned => rw [run, State.mgmtWrite_misaligned ha]
  case reserved =>
    by_cases ha : mgmtAligned off size
    · rw [run, State.mgmtWrite_reserved ha hr, State.debugAccess, if_neg hn]
    · rw [run, State.mgmtWrite_misaligned ha]
  case locked => rw [run, State.mgmtWrite_reserved ha hr, State.debugAccess, if_pos ⟨lo, hi, hl⟩]
  case readOnly => rw [run, State.mgmtWrite_readOnly hr hz hd hs hw]
  case double => rw [run, State.mgmtWrite_double h8 (by rwa [show off / 8 * 8 = off by omega])]
  case inert => rw [run, State.mgmtWrite_word h4 hr, if_pos hi]
  case word => exact (run 4).trans (congrArg next ((State.mgmtWrite_word h4 hr).trans (if_neg (by rw [hi]; decide))))

/-! What the registers read after a write (R441). -/

theorem State.pager_onPager (s : State) (d : Nat) (f : Pager → Pager) : (s.onPager d f).pager d = f (s.pager d) := by
  unfold State.onPager State.pager
  split <;> rfl

/-- Unpinning pages leaves the pagers as they are. -/
theorem State.trimPins_tiers (die : Nat) : ∀ (n : Nat) (s : State), (s.trimPins die n).tiers = s.tiers
  | 0, _ => rfl
  | n + 1, s => by
    unfold State.trimPins
    simp only
    split
    · split
      · rfl
      · rw [State.trimPins_tiers die n]; rfl
    · rfl

/-- The fields of a binding cut no value off. -/
theorem binding_lt {n v : Nat} (h : v &&& MReg.writable (.binding n) = v) : v < 2 ^ 64 := by
  rw [← h]
  exact Nat.lt_of_le_of_lt Nat.and_le_right (by simp [MReg.writable, fld])

theorem managementReads (s : State) (v : Nat) :
    (v &&& MReg.writable .tdbase = v → (s.writeMgmt .tdbase v).readMgmt .tdbase = v) ∧ (v &&& MReg.writable .wtbase = v → (s.writeMgmt .wtbase v).readMgmt .wtbase = v) ∧
    (∀ d < 2, v < 2 ^ 32 → (s.writeMgmt (.pinmax d) v).readMgmt (.pinmax d) = v ∧ (s.writeMgmt (.lendmax d) v).readMgmt (.lendmax d) = v) ∧
    (∀ n < 256, v &&& MReg.writable (.binding n) = v → (s.writeMgmt (.binding n) v).readMgmt (.binding n) = v) ∧
    (∀ q < 64, (s.queue q).en = true → (s.writeMgmt (.qbase q) v).queue q = s.queue q) ∧
    (s.sec.lock = true → s.writeMgmt .secpol v = s) ∧
    (v < 8 → (s.writeMgmt .secstat v).sec.status = s.sec.status &&& (7 - v)) := by
  refine ⟨fun _ => rfl, fun _ => rfl, fun d _ hv => ⟨?pinmax, ?lendmax⟩, fun n _ hv => ?binding, fun q _ hq => ?qbase, fun hl => ?secpol, fun _ => rfl⟩
  case pinmax =>
    show (State.pager (State.trimPins (s.onPager d fun p => { p with pinmax := BitVec.ofNat 32 v }) d s.memory.pages.length) d).pinmax.toNat = v
    unfold State.pager
    rw [State.trimPins_tiers]
    refine (congrArg (fun p : Pager => p.pinmax.toNat) (State.pager_onPager s d _)).trans ?_
    simpa using hv
  case lendmax =>
    refine (congrArg (fun p : Pager => p.lendmax.toNat) (State.pager_onPager s d _)).trans ?_
    simpa using hv
  case binding =>
    refine (congrArg (fun x : Notify => x.binding.toNat) ((State.notifyOf_onNotify s n n _).trans (if_pos rfl))).trans ?_
    simpa using binding_lt hv
  case qbase => exact (Tab.get_put_same _ _ _ _).trans (if_pos hq)
  case secpol =>
    show ({ s with sec := s.sec.setPolicy v } : State) = s
    rw [show s.sec.setPolicy v = s.sec from if_pos hl]

/-- CMD (R442). -/
theorem commandWrites (s : State) (op : Nat) : (s.mgmt.command.isSome = true → s.writeMgmt .cmd op = s) ∧
    (s.mgmt.command = none → commandOk op s.mgmt.arg0.toNat s.mgmt.arg1.toNat = true → (s.writeMgmt .cmd op).runs op = true ∧ (s.writeMgmt .cmd op).mgmt.op0 = s.mgmt.arg0) ∧
    (s.mgmt.command = none → commandOk op s.mgmt.arg0.toNat s.mgmt.arg1.toNat = false → (s.writeMgmt .cmd op).mgmt = { s.mgmt with cmdErr := true }) := by
  have write : s.writeMgmt .cmd op = { s with mgmt := s.mgmt.setCommand op s.clock.gt } := rfl
  rw [write]
  refine ⟨fun h => ?busy, fun hn hk => ?starts, fun hn hk => ?refused⟩
  case busy => rw [show s.mgmt.setCommand op s.clock.gt = s.mgmt from if_pos h]
  case starts => simp [State.runs, Mgmt.setCommand, hn, hk]
  case refused => simp [Mgmt.setCommand, hn, hk]

/-- Settles O57: the host's writes, by the course of each. -/
theorem hostWrites : Obligations.HostWrites :=
  ⟨hostWrites_inRecovery, syncAndDoorbells, managementWrites, managementReads, commandWrites⟩

end Sys2Proof.Machine

/-! Proofs that every step keeps the canonical form of memory, the page table and the window table (O5): one rule for each operation of the model, a rule of an operation built from the rules of its parts. First, tables and folds. -/

namespace Sys2Proof

/-- Changing every entry of a table keeps the canonical form. -/
theorem Tab.above_mapVals {α : Type} [DecidableEq α] {d : α} (f : Nat → α → α) :
    ∀ {n : Nat} {t : Tab α}, Tab.above d n t → Tab.above d n (Tab.mapVals d f t)
  | _, [], h => h
  | n, (k, v) :: t, ⟨hk, _, ht⟩ => by
    have ih := Tab.above_mapVals f ht
    unfold Tab.mapVals at ih ⊢
    rw [List.map_cons, List.filter_cons]
    by_cases hv : f k v = d
    · rw [if_neg (by simpa using hv)]; exact Tab.above_mono (by omega) ih
    · rw [if_pos (by simpa using hv)]; exact ⟨hk, hv, ih⟩

theorem Tab.wf_mapVals {α : Type} [DecidableEq α] {d : α} (f : Nat → α → α) {t : Tab α} (h : Tab.wf d t = true) :
    Tab.wf d (Tab.mapVals d f t) = true :=
  Tab.wf_iff.mpr (Tab.above_mapVals f (Tab.wf_iff.mp h))

end Sys2Proof

namespace Sys2Proof.Safety
open Sys2Proof Sys2Proof.Machine

/-! Rules of `WellKept` that the proofs about the model's operations are built from. -/

/-- Where memory, the page table and the window table are those of a state in its canonical form, so is the state. -/
theorem WellKept.frame {s t : State} (h : WellKept s) (hm : t.memory.mem = s.memory.mem := by rfl) (hp : t.memory.pages = s.memory.pages := by rfl)
    (hw : t.fabric.windows = s.fabric.windows := by rfl) : WellKept t := by
  obtain ⟨mem, pages, windows⟩ := h
  exact ⟨by rw [Memory.wf, hm]; exact mem, by rw [hp]; exact pages, by rw [hw]; exact windows⟩

/-- Either branch in its canonical form. -/
theorem WellKept.ite {c : Prop} {_ : Decidable c} {s t : State} (h : WellKept s) (h' : WellKept t) : WellKept (if c then s else t) := by
  split
  · exact h
  · exact h'

/-- A fold of operations that keep the canonical form keeps it. -/
theorem WellKept.foldl {α : Type} {f : State → α → State} {l : List α} {s : State} (h : WellKept s) (hf : ∀ s x, WellKept s → WellKept (f s x)) :
    WellKept (l.foldl f s) := by
  induction l generalizing s with
  | nil => exact h
  | cons x l ih => exact ih (hf s x h)

/-! What the rules rest on: the bytes, the page table and the windows of a state, and changes that leave them alone. -/

theorem WellKept.mem {s : State} (h : WellKept s) : Mem.wf s.memory.mem = true := h.1
theorem WellKept.pages {s : State} (h : WellKept s) : Tab.wf {} s.memory.pages = true := h.2.1
theorem WellKept.windows {s : State} (h : WellKept s) : Tab.wf {} s.fabric.windows = true := h.2.2

/-- Bytes in their canonical form, with the tables of a state in its. -/
theorem WellKept.bytes {s t : State} (h : WellKept s) (hm : Mem.wf t.memory.mem = true) (hp : t.memory.pages = s.memory.pages := by rfl)
    (hw : t.fabric.windows = s.fabric.windows := by rfl) : WellKept t := ⟨hm, hp ▸ h.pages, hw ▸ h.windows⟩

/-- A page table in its canonical form, with the bytes and windows of a state in its. -/
theorem WellKept.pageTable {s t : State} (h : WellKept s) (hp : Tab.wf {} t.memory.pages = true) (hm : t.memory.mem = s.memory.mem := by rfl)
    (hw : t.fabric.windows = s.fabric.windows := by rfl) : WellKept t := ⟨(congrArg Mem.wf hm).trans h.mem, hp, hw ▸ h.windows⟩

/-- A change of the memory system that leaves the bytes and the page table alone. -/
theorem WellKept.onMem {s : State} {dirty : Memory → Tab (Option LineBits)} {poison owned l2 : Memory → Tab Bool}
    {allocSeq nextTx nextResv : Memory → Nat} {rdc : Memory → Tab (Option Copy)}
    {grants hostLines : Memory → Tab Nat} {directory : Memory → List DirRegion}
    {evictions : Memory → List Eviction} {detected : Memory → List PoisonSite} {snoops : Memory → List Snoop} {locks : Memory → List LineLock}
    (h : WellKept s) :
    WellKept (s.onMem fun m => ⟨m.mem, dirty m, poison m, m.pages, allocSeq m, rdc m, owned m, grants m, directory m, l2 m,
      evictions m, detected m, nextTx m, snoops m, hostLines m, locks m, nextResv m⟩) := h.frame

/-- A change of every entry of the page table, and of the lines that L2 holds. -/
theorem WellKept.mapPages {s : State} {f : Memory → Nat → Page → Page} {l2 : Memory → Tab Bool} (h : WellKept s) :
    WellKept (s.onMem fun m => { m with pages := Tab.mapVals {} (f m) m.pages, l2 := l2 m }) := h.pageTable (Tab.wf_mapVals _ h.pages)

/-- A fold that carries a state and a value. -/
theorem WellKept.foldl_fst {α β : Type} {f : State × β → α → State × β} {l : List α} {p : State × β} (h : WellKept p.1)
    (hf : ∀ p x, WellKept p.1 → WellKept (f p x).1) :
    WellKept (l.foldl f p).1 := by
  induction l generalizing p with
  | nil => exact h
  | cons x l ih => exact ih (hf p x h)

section
variable {clock : Clock} {cur : Sid} {inputs : List Instr} {retry : Option Bool} {cores : Tab Core} {tlb : Tlb} {tiers : Tiers}
  {sched : Scheduler} {mgmt : Mgmt} {sec : Security}
  {host : HostIf} {service : Service} {life : Life} {accord : Accord}

/-- A change of the state outside the memory system and the fabric. -/
theorem WellKept.update {s : State} (h : WellKept s) :
    WellKept ⟨clock, cur, inputs, retry, cores, s.memory, tlb, tiers, sched, mgmt, sec, host, service, life, s.fabric, accord⟩ := h.frame

/-- A change of the state outside the memory system and the window table. -/
theorem WellKept.updateFabric {s : State} {routes : Tab Route} {down : List Nat} {targets : Tab FabTarget} {sources : Tab FabSource}
    {epoch : Nat} {acks : List (Nat × FabResponse)}
    {outbox : List OutMsg} (h : WellKept s) :
    WellKept ⟨clock, cur, inputs, retry, cores, s.memory, tlb, tiers, sched, mgmt, sec, host, service, life,
      ⟨routes, s.fabric.windows, down, targets, sources, epoch, acks, outbox⟩, accord⟩ :=
  h.frame

end

/-- An instruction leads to a next state, and that state is in its canonical form. -/
inductive KeptOutcome : Host.Outcome State Fault Refusal → Prop
  | next {s : State} (h : WellKept s) : KeptOutcome (.next s)

/-- A matrix command that starts does so in a state in its canonical form. -/
def KeptStart : Started → Prop
  | .fault _ => True
  | .ok s _ => WellKept s

/-- An arriving message is placed, or waits, in a state in its canonical form. -/
def KeptPlaced : Except State (Word × State) → Prop
  | .error s => WellKept s
  | .ok r => WellKept r.2

/-- A sector bound from a nearby copy leaves a state in its canonical form. -/
def KeptBound : Option ((BitVec 256 × Bool) × State) → Prop
  | none => True
  | some r => WellKept r.2

/-- A table image that passes its checks is loaded into a state in its canonical form. -/
def KeptLoaded : Trap ⊕ State → Prop
  | .inl _ => True
  | .inr s => WellKept s

/-- A request at its target is answered, or waits, in a state in its canonical form. -/
def KeptServed : Served → Prop
  | .answer _ _ s => WellKept s
  | .waits s => WellKept s

/-! The rules of the operations, in the order of the model. -/

/-! Operations on cores, combs, strands and the host's own state. -/

theorem WellKept.again {s : State} {first} (h : WellKept s) : WellKept (s.again first) := h.frame
theorem WellKept.fromHost {s : State} {f} (h : WellKept s) (hf : ∀ s, WellKept s → WellKept (f s)) : WellKept (s.fromHost f) := .ite h (hf _ h)
theorem WellKept.setCore {s : State} {c x} (h : WellKept s) : WellKept (s.setCore c x) := h.frame
theorem WellKept.onCore {s : State} {c f} (h : WellKept s) : WellKept (s.onCore c f) := h.setCore
theorem WellKept.setComb {s : State} {c slot x} (h : WellKept s) : WellKept (s.setComb c slot x) := h.onCore
theorem WellKept.onComb {s : State} {c slot f} (h : WellKept s) : WellKept (s.onComb c slot f) := by
  unfold State.onComb
  split
  · exact h.setComb
  · exact h

theorem WellKept.onStrand {s : State} {w f} (h : WellKept s) : WellKept (s.onStrand w f) := h.onComb
theorem WellKept.onStream {s : State} {c f} (h : WellKept s) : WellKept (s.onStream c f) := h.onCore
theorem WellKept.writeS {s : State} {w n v} (h : WellKept s) : WellKept (s.writeS w n v) := .ite h.onStrand (.ite h h.onComb)
theorem WellKept.interrupt {s : State} (h : WellKept s) : WellKept (s.interrupt) := h.frame
theorem WellKept.logHalt {s : State} {l} (h : WellKept s) : WellKept (s.logHalt l) := h.frame.interrupt
theorem WellKept.count {s : State} {i n} (h : WellKept s) : WellKept (s.count i n) := h.frame
theorem WellKept.takeTrap {s : State} {w cause tval tpc group seq} (h : WellKept s) : WellKept (s.takeTrap w cause tval tpc group seq) :=
  .ite h.onStrand.logHalt.count h.onStrand

/-! Writing a result, moving a group, traps and the course of an instruction of a strand. -/

theorem WellKept.writeD {s : State} {i f} (h : WellKept s) : WellKept (s.writeD i f) := by
  unfold State.writeD
  extract_lets n
  split
  · exact h.onStrand
  · exact h.onStrand
  · exact h.writeS
  · exact h.onStrand
  · exact h

theorem WellKept.moveTo {s : State} {i f} (h : WellKept s) : WellKept (s.moveTo i f) := h.onStrand
theorem WellKept.advance {s : State} {i} (h : WellKept s) : WellKept (s.advance i) := h.moveTo
theorem WellKept.enterPending {s : State} {w} (h : WellKept s) : WellKept (s.enterPending w) := by
  unfold State.enterPending
  extract_lets st
  split
  · exact .ite h.onStrand.takeTrap h
  · exact h

theorem WellKept.dropWait {s : State} {w} (h : WellKept s) : WellKept (s.dropWait w) := h.onStrand.onCore
theorem WellKept.holdTrap {s : State} {w p} (h : WellKept s) : WellKept (s.holdTrap w p) := .enterPending (.onStrand (.ite h h.dropWait))
theorem WellKept.trapWait {s : State} {w cause tval} (h : WellKept s) : WellKept (s.trapWait w cause tval) := h.dropWait.holdTrap
theorem WellKept.raise {s : State} {i t} (h : WellKept s) : WellKept (s.raise i t) := by
  unfold State.raise
  split
  · exact h.onStrand
  · exact .ite h.takeTrap h

theorem WellKept.runStrand {s : State} {o e body} (h : WellKept s) (hbody : ∀ x0 s, WellKept s → WellKept (body x0 s)) : WellKept (runStrand o e s body) := by
  unfold Machine.runStrand
  extract_lets i
  refine .ite h (.ite h.onStrand ?_)
  split
  · exact h.raise
  · exact hbody _ _ h

theorem WellKept.effect {s : State} {check f i} (h : WellKept s) (hf : ∀ x0 s, WellKept s → WellKept (f x0 s)) : WellKept (effect check f i s) := by
  unfold Machine.effect
  extract_lets s
  have hs : WellKept s := .ite h.onStrand h
  refine .ite h.advance ?_
  split
  · exact h.raise
  · exact (hf _ _ hs).advance

theorem WellKept.seqPut {s : State} {c x n v} (h : WellKept s) : WellKept (s.seqPut c x n v) := .ite h.onStream h.onComb
theorem WellKept.seqAdvance {s : State} {c e} (h : WellKept s) : WellKept (s.seqAdvance c e) := h.onStream

/-! Lines at their homes, the page table of the caches, and the stores that write memory. -/

theorem WellKept.onL1s {s : State} {die f} (h : WellKept s) : WellKept (s.onL1s die f) := h.frame
theorem WellKept.evictOwned {s : State} {line} (h : WellKept s) : WellKept (s.evictOwned line) := .ite h.frame h
theorem WellKept.takeEvicted {s : State} {line} (h : WellKept s) : WellKept (s.takeEvicted line) := .ite h.onMem h
theorem WellKept.recall {s : State} {line} (h : WellKept s) : WellKept (s.recall line) := .ite h.onMem h.takeEvicted
theorem WellKept.walked {s : State} {u t va} (h : WellKept s) : WellKept (s.walked u t va) := h.foldl fun _ _ h => h.recall
theorem WellKept.remember {s : State} {u t va} (h : WellKept s) : WellKept (s.remember u t va) := by
  unfold State.remember
  extract_lets turn base
  have hbase : WellKept base := h.walked
  split
  · exact hbase
  · exact hbase.update

theorem WellKept.onPage {s : State} {pa f} (h : WellKept s) : WellKept (s.onPage pa f) := h.pageTable (Tab.wf_put _ _ h.pages)
theorem WellKept.lineCleaned {s : State} {line} (h : WellKept s) : WellKept (s.lineCleaned line) := h.frame
theorem WellKept.cleanPage {s : State} {page} (h : WellKept s) : WellKept (s.cleanPage page) := h.foldl fun _ _ h => h.lineCleaned
theorem WellKept.evictPage {s : State} {page} (h : WellKept s) : WellKept (s.evictPage page) := h.cleanPage.pageTable (Tab.wf_put _ _ h.cleanPage.pages)
theorem WellKept.allocate {s : State} {line} (h : WellKept s) : WellKept (s.allocate line) := by
  unfold State.allocate
  extract_lets page s
  have hs : WellKept s := by
    unfold s
    refine .ite h ?_
    split
    · exact h.evictPage
    · exact h
  exact hs.onPage.onMem

theorem WellKept.displaceL2 {s : State} {line} (h : WellKept s) : WellKept (s.displaceL2 line) := by
  unfold State.displaceL2
  split
  · refine h.frame (by unfold State.onMem; dsimp only; split <;> rfl) (by unfold State.onMem; dsimp only; split <;> rfl)
  · exact (WellKept.ite h h.frame).onMem

theorem WellKept.roomL2 {s : State} {line} (h : WellKept s) : WellKept (s.roomL2 line) := by
  unfold State.roomL2
  extract_lets held
  refine .ite h ?_
  split
  · exact h.displaceL2
  · exact h

theorem WellKept.fillL2 {s : State} {line} (h : WellKept s) : WellKept (s.fillL2 line) := .ite h (.ite h.roomL2.onMem h.roomL2)
theorem WellKept.holdHost {s : State} {line how} (h : WellKept s) : WellKept (s.holdHost line how) := .ite h.roomL2.onMem h
theorem WellKept.homeMiss {s : State} {line} (h : WellKept s) : WellKept (s.homeMiss line) := .ite h.allocate h
theorem WellKept.fetchLine {s : State} {line} (h : WellKept s) : WellKept (s.fetchLine line) := .ite h h.homeMiss
theorem WellKept.countAccess {s : State} {line} (h : WellKept s) : WellKept (s.countAccess line) := .ite h.onPage h
theorem WellKept.dropRdc {s : State} {die line} (h : WellKept s) : WellKept (s.dropRdc die line) := h.onMem
theorem WellKept.roomRdc {s : State} {die line} (h : WellKept s) : WellKept (s.roomRdc die line) := by
  unfold State.roomRdc
  extract_lets held
  refine .ite h ?_
  split
  · exact .ite h.evictOwned h.dropRdc
  · exact h

theorem WellKept.dropRegion {s : State} {r} (h : WellKept s) : WellKept (s.dropRegion r) := h.frame
theorem WellKept.mapStrands {s : State} {f} (h : WellKept s) : WellKept (s.mapStrands f) := h.frame
theorem WellKept.clearResv {s : State} {line} (h : WellKept s) : WellKept (s.clearResv line) := h.mapStrands
theorem WellKept.clearResvs {s : State} {p} (h : WellKept s) : WellKept (s.clearResvs p) := h.mapStrands
theorem WellKept.poisonLine {s : State} {line} (h : WellKept s) : WellKept (s.poisonLine line) := h.onMem.onL1s
theorem WellKept.applyLine {s : State} {line mask data} (h : WellKept s) : WellKept (s.applyLine line mask data) := by
  unfold State.applyLine
  extract_lets n mine die gt old through holds s1 s2 s3
  have hs1 : WellKept s1 := .ite h h.fillL2
  have hs2 : WellKept s2 := hs1.bytes (Mem.wf_writeMasked 64 line mask.toNat data.toNat hs1.mem)
  have hs3 : WellKept s3 := hs2.onL1s.clearResv.holdHost
  exact .ite hs3.lineCleaned hs3

theorem WellKept.homeWrite {s : State} {pa n v} (h : WellKept s) : WellKept (s.homeWrite pa n v) := h.applyLine
theorem WellKept.homeCells {s : State} {l} (h : WellKept s) : WellKept (s.homeCells l) := by
  induction l generalizing s with
  | nil => exact h
  | cons x l ih => exact ih h.homeWrite

theorem WellKept.reachHome {s : State} {line die always} (h : WellKept s) : WellKept (s.reachHome line die always) := .ite h.recall h
theorem WellKept.lmWrite {s : State} {core a n v} (h : WellKept s) : WellKept (s.lmWrite core a n v) := h.onCore
theorem WellKept.lmMark {s : State} {core a n} (h : WellKept s) : WellKept (s.lmMark core a n) := h.onCore
theorem WellKept.winWrite {s : State} {core slot off n v} (h : WellKept s) : WellKept (s.winWrite core slot off n v) := h.lmWrite

/-! Fault batches. -/

theorem WellKept.onPager {s : State} {die f} (h : WellKept s) : WellKept (s.onPager die f) := h.frame
theorem WellKept.formBatch {s : State} {from_ core slot t faults} (h : WellKept s) : WellKept (s.formBatch from_ core slot t faults) := h.frame.onPager
theorem WellKept.sendBatch {s : State} {w faults} (h : WellKept s) : WellKept (s.sendBatch w faults) := h.formBatch.onComb.onStrand
theorem WellKept.queueFault {s : State} {i faults} (h : WellKept s) : WellKept (s.queueFault i faults).1 := by
  unfold State.queueFault
  extract_lets b stop
  split
  · exact h.onStrand
  split
  · exact h.sendBatch
  · exact h.onStrand

theorem WellKept.endAhead {s : State} {w} (h : WellKept s) : WellKept (s.endAhead w) := by
  unfold State.endAhead
  split
  · exact h
  · exact h.onStrand.sendBatch

theorem WellKept.resumeParked {s : State} {core slot} (h : WellKept s) : WellKept (s.resumeParked core slot) := by
  unfold State.resumeParked
  extract_lets s
  have hs : WellKept s := h.onComb
  refine hs.foldl fun _ _ h => ?_
  extract_lets w s1 st
  have hs1 : WellKept s1 := h.onStrand
  split
  · exact h
  · exact hs1.holdTrap

theorem WellKept.readyComb {s : State} {core slot} (h : WellKept s) : WellKept (s.readyComb core slot) := .ite h h.onCore

/-! The course of an instruction of a stream. -/

theorem WellKept.dissolve {s : State} {c x} (h : WellKept s) : WellKept (s.dissolve c x) := by
  unfold State.dissolve
  split
  · exact h.onStream
  · exact h

theorem WellKept.streamFault {s : State} {c x cause pc tval} (h : WellKept s) : WellKept (s.streamFault c x cause pc tval) := by
  unfold State.streamFault
  extract_lets s s1
  have hs : WellKept s := h.dissolve.onCore
  have hs1 : WellKept s1 := hs.onComb
  split
  · exact hs1.onStrand
  · exact hs1

theorem WellKept.seqFault {s : State} {c x t} (h : WellKept s) : WellKept (s.seqFault c x t) := .ite h.streamFault h
theorem WellKept.runStream {s : State} {o e body} (h : WellKept s) (hbody : ∀ x0 x1 s, WellKept s → WellKept (body x0 x1 s)) :
    WellKept (runStream o e s body) := by
  unfold Machine.runStream
  extract_lets c
  split
  · exact h
  extract_lets pending
  refine .ite h (.ite h.seqFault ?_)
  split
  · exact h.seqFault
  · exact hbody _ _ _ h

theorem WellKept.strandOnly {s : State} {o e body} (h : WellKept s) (hbody : ∀ x0 s, WellKept s → WellKept (body x0 s)) : WellKept (strandOnly o e s body) :=
  .ite (h.runStream fun _ _ _ h => h) (h.runStrand fun _ _ h => hbody _ _ h)

theorem WellKept.seqWrite {s : State} {e v c x} (h : WellKept s) : WellKept (seqWrite e v c x s) := .ite h h.seqPut.seqAdvance
theorem WellKept.compute {s : State} {o e bound val} (h : WellKept s) : WellKept (compute o e s bound val) := by
  unfold Machine.compute
  extract_lets ov
  split
  · refine h.runStream fun _ _ _ h => ?_
    extract_lets args
    clear_value ov
    split
    · exact .ite h.seqWrite h.seqFault
    · exact h.seqWrite
  · exact h.runStrand fun _ _ h => h.effect fun _ _ h1 => h1.writeD

/-! Integer arithmetic. -/

theorem WellKept.execAddc {s : State} {e} (h : WellKept s) : KeptOutcome (execAddc e s) := by
  unfold Machine.execAddc
  extract_lets bw sum
  exact .next (.ite (h.runStream fun _ _ _ h => .ite h h.seqPut.seqPut.seqAdvance)
    (h.runStrand fun _ _ h => h.effect fun _ _ h1 => .ite h1.writeD.onStrand h1.writeD.writeS))

theorem WellKept.compareInto {s : State} {o e cond} (h : WellKept s) : WellKept (compareInto o e s cond) :=
  .ite (h.runStream fun _ _ _ h => h.seqWrite) (h.runStrand fun _ _ h => .ite h.onStrand.advance (h.effect fun _ _ h1 => h1.writeD))

/-! Moves, the window and the spill stack. -/

theorem WellKept.lmPutWords {s : State} {core a l} (h : WellKept s) : WellKept (s.lmPutWords core a l) := by
  induction l generalizing s a with
  | nil => exact h
  | cons x l ih => exact ih (.ite h.lmWrite.lmMark h.lmWrite)

theorem WellKept.execPushm {s : State} {e} (h : WellKept s) : KeptOutcome (execPushm e s) :=
  .next (h.strandOnly fun _ _ h => h.effect fun _ _ h1 => .onStrand (.ite h1 h1.lmPutWords))

/-! Floating point, conversions and function tables. -/

theorem WellKept.stepped {s : State} {i rm} (h : WellKept s) : WellKept (s.stepped i rm) := .ite h.onStrand h
theorem WellKept.floatOp {s : State} {o e f} (h : WellKept s) : KeptOutcome (floatOp o e s f) :=
  .next (h.strandOnly fun _ _ h => h.effect fun _ _ h1 => h1.writeD.stepped)

theorem WellKept.execFadd {s : State} {e} (h : WellKept s) : KeptOutcome (execFadd e s) := h.floatOp
theorem WellKept.execFsub {s : State} {e} (h : WellKept s) : KeptOutcome (execFsub e s) := h.floatOp
theorem WellKept.execFmul {s : State} {e} (h : WellKept s) : KeptOutcome (execFmul e s) := h.floatOp
theorem WellKept.execFfma {s : State} {e} (h : WellKept s) : KeptOutcome (execFfma e s) := h.floatOp
theorem WellKept.execFdiv {s : State} {e} (h : WellKept s) : KeptOutcome (execFdiv e s) := h.floatOp
theorem WellKept.execFsqrt {s : State} {e} (h : WellKept s) : KeptOutcome (execFsqrt e s) := h.floatOp
theorem WellKept.execFrcp {s : State} {e} (h : WellKept s) : KeptOutcome (execFrcp e s) := h.floatOp
theorem WellKept.execFrsq {s : State} {e} (h : WellKept s) : KeptOutcome (execFrsq e s) := h.floatOp
theorem WellKept.transOp {s : State} {o e f} (h : WellKept s) : KeptOutcome (transOp o e s f) :=
  .next (h.strandOnly fun _ _ h => h.effect fun _ _ h1 => h1.writeD.stepped)

theorem WellKept.execFexp2 {s : State} {e} (h : WellKept s) : KeptOutcome (execFexp2 e s) := h.transOp
theorem WellKept.execFlog2 {s : State} {e} (h : WellKept s) : KeptOutcome (execFlog2 e s) := h.transOp
theorem WellKept.execFsin {s : State} {e} (h : WellKept s) : KeptOutcome (execFsin e s) := h.transOp
theorem WellKept.execFcos {s : State} {e} (h : WellKept s) : KeptOutcome (execFcos e s) := h.transOp
theorem WellKept.elementOp {s : State} {o e f} (h : WellKept s) : KeptOutcome (elementOp o e s f) :=
  .next (h.strandOnly fun _ _ h => h.effect fun _ _ h1 => h1.writeD)

theorem WellKept.execFmin {s : State} {e} (h : WellKept s) : KeptOutcome (execFmin e s) := h.elementOp
theorem WellKept.execFmax {s : State} {e} (h : WellKept s) : KeptOutcome (execFmax e s) := h.elementOp
theorem WellKept.execFabs {s : State} {e} (h : WellKept s) : KeptOutcome (execFabs e s) := h.elementOp
theorem WellKept.execFneg {s : State} {e} (h : WellKept s) : KeptOutcome (execFneg e s) := h.elementOp
theorem WellKept.steppedIf {s : State} {i used} (h : WellKept s) : WellKept (s.steppedIf i used) := .ite h.stepped h
theorem WellKept.bankStand {s : State} {i x} (h : WellKept s) : WellKept (s.bankStand i x) := h.onCore.onStrand
theorem WellKept.tloadRun {s : State} {w bank off} (h : WellKept s) : KeptLoaded (s.tloadRun w bank off) := by
  unfold State.tloadRun
  extract_lets word last n segs c b
  clear_value n last segs
  split
  · trivial
  split
  · trivial
  split
  · trivial
  split
  · trivial
  split
  · trivial
  split
  · trivial
  · exact h.onCore

theorem WellKept.execTload {s : State} {e} (h : WellKept s) : KeptOutcome (execTload e s) := by
  unfold Machine.execTload
  refine .next (h.strandOnly fun i s h => ?_)
  extract_lets n
  refine .ite h.advance (.ite h.raise (.ite h.raise (.ite h.bankStand ?_)))
  have loaded : KeptLoaded (s.tloadRun i.w n (i.uA s).toNat) := h.tloadRun
  split
  case h_1 => exact h.raise
  case h_2 hl => rw [hl] at loaded; exact WellKept.advance loaded

theorem WellKept.execTflip {s : State} {e} (h : WellKept s) : KeptOutcome (execTflip e s) :=
  .next (h.strandOnly fun _ _ h => .ite h.bankStand (h.effect fun _ _ h1 => h1.onCore))

theorem WellKept.execTloadProceed {s : State} {core} (h : WellKept s) : KeptOutcome (execTloadProceed core s) := by
  unfold Machine.execTloadProceed
  refine .next ?_
  split
  · exact h
  case h_2 w _ =>
    split
    case h_1 n off _ =>
      refine .ite h.trapWait ?_
      have loaded : KeptLoaded (s.tloadRun w n off) := h.tloadRun
      split
      case h_1 => exact h.trapWait
      case h_2 hl => rw [hl] at loaded; exact WellKept.onStrand loaded
    · exact h.onCore.onStrand
    · exact h

/-! Exchanges, votes, reductions and scans. -/

theorem WellKept.exchange {s : State} {o e} (h : WellKept s) : KeptOutcome (exchange o e s) :=
  .next (h.strandOnly fun _ _ h => h.effect fun _ _ h1 => .ite (.onStrand (.ite h1.onStrand h1.writeD)) (.ite h1.onStrand h1.writeD))

theorem WellKept.execShuf {s : State} {e} (h : WellKept s) : KeptOutcome (execShuf e s) := h.exchange
theorem WellKept.execPerm {s : State} {e} (h : WellKept s) : KeptOutcome (execPerm e s) := h.exchange
theorem WellKept.execBcast {s : State} {e} (h : WellKept s) : KeptOutcome (execBcast e s) := h.exchange
theorem WellKept.execVote {s : State} {e} (h : WellKept s) : KeptOutcome (execVote e s) :=
  .next (h.strandOnly fun _ _ h => h.effect fun _ _ h1 => .ite h1.writeS h1.writeD)

theorem WellKept.steppedSum {s : State} {i} (h : WellKept s) : WellKept (s.steppedSum i) := .ite h.stepped h
theorem WellKept.execRedu {s : State} {e} (h : WellKept s) : KeptOutcome (execRedu e s) :=
  .next (h.strandOnly fun _ _ h => h.effect fun _ _ h1 => .steppedSum (.ite h1.writeS h1.writeD))

theorem WellKept.execScan {s : State} {e} (h : WellKept s) : KeptOutcome (execScan e s) :=
  .next (h.strandOnly fun _ _ h => h.effect fun _ _ h1 => h1.writeD.steppedSum)

/-! Branches, calls, yields and breakpoints. -/

theorem WellKept.execNop {s : State} {e} (h : WellKept s) : KeptOutcome (execNop e s) :=
  .next (.ite (h.runStream fun _ _ _ h => h.seqAdvance) (h.runStrand fun _ _ h => h.effect fun _ _ h1 => h1))

theorem WellKept.execBru {s : State} {e} (h : WellKept s) : KeptOutcome (execBru e s) :=
  .next (.ite (h.runStream fun _ _ _ h => .ite h.onStream h.seqAdvance) (h.runStrand fun _ _ h => h.moveTo))

theorem WellKept.execJmp {s : State} {e} (h : WellKept s) : KeptOutcome (execJmp e s) :=
  .next (.ite (h.runStream fun _ _ _ h => h.onStream) (h.runStrand fun _ _ h => h.moveTo))

theorem WellKept.jump {s : State} {i link t} (h : WellKept s) : WellKept (s.jump i link t) := .moveTo (.ite h.onStrand h)
theorem WellKept.jumpReg {s : State} {i link varying} (h : WellKept s) : WellKept (s.jumpReg i link varying) := by
  unfold State.jumpReg
  split
  · exact h.raise
  · exact h.jump

theorem WellKept.execCall {s : State} {e} (h : WellKept s) : KeptOutcome (execCall e s) :=
  .next (.ite (h.runStream fun _ _ _ h => h.seqPut.onStream) (h.runStrand fun _ _ h => h.jump))

theorem WellKept.execRet {s : State} {e} (h : WellKept s) : KeptOutcome (execRet e s) :=
  .next (.ite (h.runStream fun _ _ _ h => .ite h.seqFault h.onStream) (h.runStrand fun _ _ h => h.jumpReg))

theorem WellKept.execExit {s : State} {e} (h : WellKept s) : KeptOutcome (execExit e s) :=
  .next (.ite (h.runStream fun _ _ _ h => h.onStream) (h.runStrand fun _ _ h => .ite h.advance (.ite h.onStrand h.onStrand.advance.onStrand)))

theorem WellKept.execYield {s : State} {e} (h : WellKept s) : KeptOutcome (execYield e s) :=
  .next (h.strandOnly fun _ _ h => .ite h.advance.onStrand (.ite h.advance.onStrand h.advance))

theorem WellKept.stopAt {s : State} {i k} (h : WellKept s) : WellKept (s.stopAt i k) := h.onStrand.update.interrupt
theorem WellKept.execBrk {s : State} {e} (h : WellKept s) : KeptOutcome (execBrk e s) := by
  unfold Machine.execBrk
  refine .next (h.strandOnly fun _ _ h => ?_)
  extract_lets t trap
  have htrap : WellKept trap := h.raise
  refine .ite h.advance (.ite htrap ?_)
  split
  · exact h
  · exact .ite h.stopAt htrap
  · exact htrap

/-! Instruction fetch. -/

theorem WellKept.fillCode {s : State} {core sec expiry} (h : WellKept s) : WellKept (s.fillCode core sec expiry) := h.onCore
theorem WellKept.missCode {s : State} {core pa word} (h : WellKept s) : WellKept (s.missCode core pa word).2 := by
  unfold State.missCode
  extract_lets line
  split
  · exact h.fetchLine
  · exact h.reachHome.fillL2.holdHost.fillCode

theorem WellKept.codeWord {s : State} {core t priv origin va} (h : WellKept s) : WellKept (s.codeWord core t priv origin va).2 := by
  unfold State.codeWord
  extract_lets s1
  have hs1 : WellKept s1 := h.remember
  split
  · exact h.walked
  · exact h.walked
  · exact h
  extract_lets sec word keep
  split
  · split
    · exact hs1
    · exact hs1.missCode
  · exact hs1.missCode

theorem WellKept.of_codeWord {s s' : State} {core t priv origin pc r} (h : WellKept s) (hr : s.codeWord core t priv origin pc = (r, s')) : WellKept s' := by
  have hs : WellKept (s.codeWord core t priv origin pc).2 := h.codeWord
  rwa [hr] at hs

theorem WellKept.fetchAt {s : State} {core t priv origin pc} (h : WellKept s) : WellKept (s.fetchAt core t priv origin pc).2 := by
  unfold State.fetchAt
  extract_lets illegal answer
  split
  case h_1 h1 => exact h.of_codeWord h1
  case h_2 h1 =>
    have hs1 := h.of_codeWord h1
    extract_lets n
    split
    · exact hs1
    split
    · exact hs1
    split
    case h_1 h2 => exact hs1.of_codeWord h2
    case h_2 h2 =>
      have hs2 := hs1.of_codeWord h2
      split
      · exact hs2
      split
      case h_1 h3 => exact hs2.of_codeWord h3
      case h_2 h3 => exact hs2.of_codeWord h3

theorem WellKept.fetchFault {s : State} {f} (h : WellKept s) : WellKept (s.fetchFault f) := by
  unfold State.fetchFault
  extract_lets i
  split
  · exact h
  · exact h
  · exact h.raise
  · exact h.queueFault.onStrand

theorem WellKept.fetchStrand {s : State} {w} (h : WellKept s) : WellKept (s.fetchStrand w).2 := h.fetchAt
theorem WellKept.fetchStream {s : State} {core} (h : WellKept s) : WellKept (s.fetchStream core).2 := by
  unfold State.fetchStream
  split
  · exact h.fetchAt
  · exact h

/-! Fabric requests and their ports. -/

theorem WellKept.spend {s : State} {core t r n} (h : WellKept s) : WellKept (s.spend core t r n).2 := by
  unfold State.spend
  extract_lets x k q b
  split
  · exact h
  · exact h.onCore

theorem WellKept.transmit {s : State} {v p} (h : WellKept s) : WellKept (s.transmit v p) := .ite h.frame h.frame
theorem WellKept.onTarget {s : State} {v f} (h : WellKept s) : WellKept (s.onTarget v f) := h.frame
theorem WellKept.joinPorts {s : State} {before l} (h : WellKept s) : WellKept (s.joinPorts before l) := by
  induction l generalizing s before with
  | nil => exact h
  | cons o l ih =>
    refine ih ?_
    dsimp only
    split
    · exact .ite h.onCore h
    · exact h

theorem WellKept.pumpOne {s : State} {v} (h : WellKept s) : WellKept (s.pumpOne v) := by
  unfold State.pumpOne
  extract_lets t sent s pays
  have hs : WellKept s := .ite h.joinPorts h
  split
  · exact hs
  split
  · exact hs
  extract_lets pay s1 out gt base p out1
  have hpay : WellKept pay.2 := by
    unfold pay
    split
    · exact hs.spend
    · exact hs
  exact .ite hpay.onTarget hpay.onTarget.transmit

theorem WellKept.pumpN {s : State} {v n} (h : WellKept s) : WellKept (s.pumpN v n) := by
  induction n generalizing s with
  | zero => exact h
  | succ n ih => exact ih h.pumpOne

theorem WellKept.pump {s : State} {v} (h : WellKept s) : WellKept (s.pump v) := h.pumpN
theorem WellKept.fabRequest {s : State} {use cost t dev win off kind} (h : WellKept s) : WellKept (s.fabRequest use cost t dev win off kind) := h.onTarget.pump

/-! The course of an access, write-combining entries and reads at a home. -/

theorem WellKept.rememberAll {s : State} {w sp l} (h : WellKept s) : WellKept (s.rememberAll w sp l) := .ite (h.foldl fun _ _ h => h.remember) h
theorem WellKept.access {s : State} {i sp l n perform} (h : WellKept s) (hperform : ∀ x0 x1 s, WellKept s → WellKept (perform x0 x1 s)) :
    WellKept (s.access i sp l n perform) := by
  unfold State.access
  extract_lets x spots held r
  have hheld : WellKept held := h.rememberAll
  have hr : WellKept r.1 := by
    unfold r
    split
    · exact hheld
    · exact hheld.queueFault
  split
  · exact h.raise
  split
  · exact h.raise
  split
  · exact hheld.raise
  refine .ite hheld (.ite hr ?_)
  split
  · exact hr.raise
  split
  · exact hr.raise
  split
  · exact hr.raise
  · exact hperform _ _ _ hr

theorem WellKept.payIssue {s : State} {w lines} (h : WellKept s) : WellKept (s.payIssue w lines).2 := by
  unfold State.payIssue
  extract_lets owed p
  have hp : WellKept p.2 := h.spend
  split
  · exact h
  · exact hp.onStrand

theorem WellKept.drainEntry {s : State} {core id} (h : WellKept s) : WellKept (s.drainEntry core id) := by
  unfold State.drainEntry
  split
  · exact h
  · exact .ite h.onCore.fabRequest h.onCore.onCore

theorem WellKept.drainWhere {s : State} {w p} (h : WellKept s) : WellKept (s.drainWhere w p) := h.foldl fun _ _ h => h.drainEntry
theorem WellKept.drainFull {s : State} {core id} (h : WellKept s) : WellKept (s.drainFull core id) := by
  unfold State.drainFull
  split
  · exact .ite h.drainEntry h
  · exact h

theorem WellKept.putWcb {s : State} {w fabric va pa n v k} (h : WellKept s) : WellKept (s.putWcb w fabric va pa n v k) := by
  unfold State.putWcb
  extract_lets frame cycle mine s id s1 e base e1
  have hs : WellKept s := by
    unfold s
    clear_value mine
    split
    · exact .ite h.drainEntry h
    · exact h
  have hs1 : WellKept s1 := hs.onStrand
  split
  · exact h.onCore.drainFull
  · exact hs1.onCore.drainFull

theorem WellKept.forget {s : State} {core line} (h : WellKept s) : WellKept (s.forget core line) := .ite h h.onCore.dropRdc
theorem WellKept.fillL1 {s : State} {core via sec c} (h : WellKept s) : WellKept (s.fillL1 core via sec c) := h.onCore
theorem WellKept.detect {s : State} {x} (h : WellKept s) : WellKept (s.detect x) := .ite h h.onMem.count
theorem WellKept.detectFailed {s : State} {line} (h : WellKept s) : WellKept (s.detectFailed line) := by
  unfold State.detectFailed
  split
  · exact .ite h.detect h
  · exact h

theorem WellKept.readHome {s : State} {core len sec via count} (h : WellKept s) : WellKept (s.readHome core len sec via count).2 := by
  unfold State.readHome
  extract_lets line die s s1 v c s2
  have hs : WellKept s := h.reachHome
  have hs1 : WellKept s1 := .detectFailed (.holdHost (.fillL2 (.ite hs.countAccess hs)))
  have hs2 : WellKept s2 := hs1.roomRdc.onMem
  split
  · exact hs1.forget
  split
  · exact hs1.fillL1.onMem
  · exact hs2.fillL1

theorem WellKept.bindLocal {s : State} {core len sec via} (h : WellKept s) : KeptBound (s.bindLocal core len sec via) := by
  unfold State.bindLocal
  extract_lets line die gt cache c
  clear_value cache gt die
  split
  · exact h
  split
  · trivial
  split
  · exact h.fillL1
  generalize (if Config.keeps (s.clock.turn * 2 ^ 57 + 2 * sec + 1) then liveCopy s.memory.rdc (rdcKey die sec) gt else none) = r
  split
  · exact h.fillL1
  · trivial

theorem WellKept.bindSector {s : State} {core len sec via count} (h : WellKept s) : WellKept (s.bindSector core len sec via count).2 := by
  have hb : KeptBound (s.bindLocal core len sec via) := h.bindLocal
  unfold State.bindSector
  split
  case h_1 hr => rwa [hr] at hb
  case h_2 =>
    split
    · exact h.fetchLine
    · exact h.readHome

theorem WellKept.fillPart {s : State} {w scalar cycle p v poison} (h : WellKept s) : WellKept (s.fillPart w scalar cycle p v poison) :=
  .ite (.ite h.onStrand (.ite h h.onComb)) h.onStrand

/-! Loads and stores at their issue. -/

theorem WellKept.passLoad {s : State} {i bad} (h : WellKept s) : WellKept (s.passLoad i bad) := h.advance.onStrand
theorem WellKept.loadLm {s : State} {i sp parts} (h : WellKept s) : WellKept (s.loadLm i sp parts) := (h.foldl fun _ _ h => h.fillPart).onStrand
theorem WellKept.pushLoad {s : State} {i via parts keys reserve} (h : WellKept s) : WellKept (s.pushLoad i via parts keys reserve) := .ite h h.onStrand
theorem WellKept.loadGlobal {s : State} {i via reserve parts bad} (h : WellKept s) : WellKept (s.loadGlobal i via reserve parts bad) :=
  .ite h h.pushLoad.pushLoad.passLoad

theorem WellKept.loadFabric {s : State} {i parts} (h : WellKept s) : WellKept (s.loadFabric i parts) :=
  .ite h (h.drainWhere.pushLoad.onStrand.foldl fun _ _ h => h.fabRequest)

theorem WellKept.load {s : State} {i} (h : WellKept s) : WellKept (s.load i) := by
  unfold State.load
  extract_lets sp
  refine .ite h.advance (h.access fun _ _ _ h => ?_)
  extract_lets parts
  clear_value sp
  split
  · exact h.loadLm.passLoad
  · exact h.loadLm.passLoad
  · exact h.loadGlobal
  · exact h.loadFabric

theorem WellKept.execLdc {s : State} {e} (h : WellKept s) : KeptOutcome (execLdc e s) :=
  .next (h.strandOnly fun _ _ h => .ite h.advance (h.access fun _ _ _ h1 => h1.loadGlobal))

theorem WellKept.storeSpot {s : State} {w sp va pa n v k} (h : WellKept s) : WellKept (s.storeSpot w sp va pa n v k) := by
  unfold State.storeSpot
  split
  · exact h.lmWrite
  · exact h.lmWrite
  · exact h.putWcb
  · exact h.putWcb

theorem WellKept.storeAll {s : State} {i sp spots} (h : WellKept s) : WellKept (s.storeAll i sp spots) := by
  unfold State.storeAll
  extract_lets k s s1 gt
  have hs : WellKept s := h.onStrand
  have hs1 : WellKept s1 := hs.foldl fun _ _ h => h.foldl fun _ _ h1 => h1.storeSpot
  split
  · exact hs1.onStrand
  · exact hs1.onStrand
  · exact hs1

theorem WellKept.store {s : State} {i} (h : WellKept s) : WellKept (s.store i) := .ite h.advance (h.access fun _ _ _ h => .ite h.advance h.storeAll.advance)
theorem WellKept.execPref {s : State} {e} (h : WellKept s) : KeptOutcome (execPref e s) :=
  .next (h.strandOnly fun _ _ h => .ite h.advance (.ite h.rememberAll h.rememberAll.pushLoad.advance))

theorem WellKept.mxFill {s : State} {w d sub act block scale poison} (h : WellKept s) : WellKept (s.mxFill w d sub act block scale poison) := h.onStrand
theorem WellKept.mxStoreLm {s : State} {core a sub act v} (h : WellKept s) : WellKept (s.mxStoreLm core a sub act v) := h.lmWrite.foldl fun _ _ h => h.lmMark
theorem WellKept.mxLm {s : State} {i load e c} (h : WellKept s) : WellKept (s.mxLm i load e c) := .onStrand (.ite h.mxFill h.mxStoreLm.lmWrite)
theorem WellKept.mxGlobal {s : State} {i load ev ep sv sp} (h : WellKept s) : WellKept (s.mxGlobal i load ev ep sv sp) := h.drainWhere.onStrand
theorem WellKept.mx {s : State} {i load} (h : WellKept s) : WellKept (s.mx i load) := by
  unfold State.mx
  split
  · exact h.advance
  extract_lets sp sub a n acc use ahead x s1 r spots ep sp'
  have hs1 : WellKept s1 := h.rememberAll
  have hr : WellKept r.1 := hs1.queueFault
  clear_value sp
  split
  · exact h.passLoad
  split
  · exact h.raise
  split
  · exact h.raise
  split
  · exact hs1.raise
  split
  · exact hs1
  split
  · exact .ite hr.passLoad hr
  split
  · exact hs1.raise
  split
  · exact hs1.advance
  split
  · exact hs1.mxLm.advance
  · exact hs1.mxLm.advance
  · exact .ite hs1.fetchLine.fetchLine.passLoad hs1.mxGlobal.advance

/-! Loads, stores and write-backs in flight. -/

theorem WellKept.reserve {s : State} {w slot va pa} (h : WellKept s) : WellKept (s.reserve w slot va pa) := .ite h.onStrand.onMem h.onStrand.onMem.mapStrands
theorem WellKept.prefetchLine {s : State} {core line via} (h : WellKept s) : WellKept (s.prefetchLine core line via).1 := by
  unfold State.prefetchLine
  extract_lets s
  have hs : WellKept s := h.fetchLine
  split
  · exact hs
  split
  · exact hs
  · exact hs.reachHome.fillL2.holdHost

theorem WellKept.payLine {s : State} {w id line} (h : WellKept s) : WellKept (s.payLine w id line).2 := by
  unfold State.payLine
  extract_lets p
  have hp : WellKept p.2 := h.spend
  split
  · exact h
  split
  · exact h
  split
  · exact hp
  · exact hp.onStrand

theorem WellKept.execLoadPerform {s : State} {w id line} (h : WellKept s) : KeptOutcome (execLoadPerform w id line s) := by
  unfold Machine.execLoadPerform
  refine .next ?_
  extract_lets pay
  have hpay : WellKept pay.2 := h.payLine
  refine .ite h ?_
  split
  · exact h
  extract_lets r s home r1 s1 live
  have hr : WellKept r.1 := hpay.prefetchLine
  have hs : WellKept s := .ite hpay.fetchLine hpay
  have hr1 : WellKept r1.2 := hs.bindSector
  refine .ite hpay (.ite (.ite hr.onStrand hr) ?_)
  split
  · exact hr1
  extract_lets s2
  have hs2 : WellKept s2 := hr1.onStrand
  split
  · refine hs2.foldl fun _ _ h => ?_
    split
    · exact h.reserve
    · exact h
  · exact hs2

theorem WellKept.endFabLoad {s : State} {w l} (h : WellKept s) : WellKept (s.endFabLoad w l) := by
  unfold State.endFabLoad
  extract_lets gone value s gt
  have hs : WellKept s := by
    unfold s
    refine h.foldl fun _ _ h => ?_
    split
    · exact h.fillPart
    · exact h
  refine .ite h (.ite h.onStrand ?_)
  split
  · exact h.onStrand.trapWait
  · exact hs.onStrand

theorem WellKept.execLoadFill {s : State} {w id line} (h : WellKept s) : KeptOutcome (execLoadFill w id line s) := by
  unfold Machine.execLoadFill
  refine .next ?_
  extract_lets own
  split
  · exact h
  refine .ite h.endFabLoad ?_
  split
  · exact h
  · exact .onStrand (.onStrand (.ite h (h.foldl fun _ _ h => h.fillPart)))

theorem WellKept.execWcbDrain {s : State} {core id} (h : WellKept s) : KeptOutcome (execWcbDrain core id s) := by
  unfold Machine.execWcbDrain
  refine .next ?_
  split
  · exact .ite h.drainEntry h
  · exact h

theorem WellKept.execWcbIdleDrain {s : State} {core id} (h : WellKept s) : KeptOutcome (execWcbIdleDrain core id s) := by
  unfold Machine.execWcbIdleDrain
  refine .next ?_
  split
  · exact .ite h.drainEntry h
  · exact h

theorem WellKept.applyDrain {s : State} {core e} (h : WellKept s) : WellKept (s.applyDrain core e) := by
  unfold State.applyDrain
  extract_lets line die other gt mine takes s s1 s2 s3 done s4
  have hs : WellKept s := .ite h h.reachHome
  have hs1 : WellKept s1 := .ite hs.roomRdc.onMem hs
  have hs2 : WellKept s2 := .ite hs1 hs1.countAccess
  have hs3 : WellKept s3 := hs2.applyLine
  have hs4 : WellKept s4 := .ite hs3.dropRdc (.ite hs3 hs3.forget)
  exact hs4.onCore

theorem WellKept.execHomeStoreApply {s : State} {core id} (h : WellKept s) : KeptOutcome (execHomeStoreApply core id s) := by
  unfold Machine.execHomeStoreApply
  refine .next ?_
  split
  · exact h
  extract_lets p left s
  have hp : WellKept p.2 := by
    unfold p
    split
    · exact h
    · exact h.spend
  have hs : WellKept s := hp.onCore
  exact .ite h (.ite hs (.ite hs.applyDrain (.ite hs.fetchLine hs)))

theorem WellKept.execStoreAck {s : State} {core id} (h : WellKept s) : KeptOutcome (execStoreAck core id s) := by
  unfold Machine.execStoreAck
  refine .next ?_
  extract_lets s
  have hs : WellKept s := h.onCore
  split
  · exact h
  extract_lets lines
  split
  · exact h
  · exact hs.onStrand

theorem WellKept.execLateWritebackArrival {s : State} {tx} (h : WellKept s) : KeptOutcome (execLateWritebackArrival tx s) := by
  unfold Machine.execLateWritebackArrival
  refine .next ?_
  extract_lets s
  have hs : WellKept s := h.onMem
  split
  · exact h
  · exact .ite hs hs.fillL2

theorem WellKept.execDirectoryMerge {s : State} {base} (h : WellKept s) : KeptOutcome (execDirectoryMerge base s) := by
  unfold Machine.execDirectoryMerge
  refine .next ?_
  extract_lets d
  split
  · exact h.onMem
  · exact h

theorem WellKept.execPoisonDetect {s : State} {site} (h : WellKept s) : KeptOutcome (execPoisonDetect site s) := by
  unfold Machine.execPoisonDetect
  extract_lets addr
  refine .next ?_
  split
  · exact .ite h h.lmMark.onMem.count.interrupt
  · exact .ite h h.onMem.count.interrupt

theorem WellKept.execAsyncFaultDelivery {s : State} {w} (h : WellKept s) : KeptOutcome (execAsyncFaultDelivery w s) := by
  unfold Machine.execAsyncFaultDelivery
  refine .next (.ite h ?_)
  split
  · exact h
  · exact h.onStrand.onCore.takeTrap

/-! Fences, tokens, reservations and snoops. -/

theorem WellKept.beginToken {s : State} {w sc reg} (h : WellKept s) : WellKept (s.beginToken w sc reg) := h.drainWhere.onStrand
theorem WellKept.writeToken {s : State} {w reg} (h : WellKept s) : WellKept (s.writeToken w reg) := by
  unfold State.writeToken
  split
  · exact h
  · exact .ite h h.onStrand

theorem WellKept.execFence {s : State} {e} (h : WellKept s) : KeptOutcome (execFence e s) :=
  .next (h.strandOnly fun _ _ h => .ite h (h.effect fun _ _ h1 => h1.beginToken.writeToken))

theorem WellKept.execFwaitWake {s : State} {w} (h : WellKept s) : KeptOutcome (execFwaitWake w s) := by
  unfold Machine.execFwaitWake
  refine .next ?_
  split
  · exact .ite h.onStrand h
  · exact h

theorem WellKept.execBarc {s : State} {e} (h : WellKept s) : KeptOutcome (execBarc e s) :=
  .next (h.strandOnly fun _ _ h => .ite h.advance h.onStrand.beginToken.onStrand)

theorem WellKept.execLres {s : State} {e} (h : WellKept s) : KeptOutcome (execLres e s) :=
  .next (h.strandOnly fun _ _ h => .ite h.advance (h.access fun _ _ _ h1 => .loadGlobal (.ite h1 h1.onStrand)))

theorem WellKept.execScnd {s : State} {e} (h : WellKept s) : KeptOutcome (execScnd e s) :=
  .next (h.strandOnly fun _ _ h => .ite h.advance (h.access fun _ _ _ h1 => h1.onStrand.drainWhere.onStrand.advance))

theorem WellKept.execReservationExpiry {s : State} {w resv} (h : WellKept s) : KeptOutcome (execReservationExpiry w resv s) := by
  unfold Machine.execReservationExpiry
  refine .next ?_
  split
  · exact .ite h.onStrand h
  · exact h

theorem WellKept.execLease {s : State} {e} (h : WellKept s) : KeptOutcome (execLease e s) :=
  .next (h.strandOnly fun _ _ h => h.effect fun _ _ h1 => .ite h1.onStrand.writeS h1.onStrand)

theorem WellKept.execGtime {s : State} {e} (h : WellKept s) : KeptOutcome (execGtime e s) :=
  .next (h.strandOnly fun _ _ h => h.effect fun _ _ h1 => .ite h1.writeS.writeS h1.writeS)

theorem WellKept.withdraw {s : State} {line mask data} (h : WellKept s) : WellKept (s.withdraw line mask data) := h.recall.clearResv.onL1s.onMem
theorem WellKept.hostStore {s : State} {line mask data} (h : WellKept s) : WellKept (s.hostStore line mask data) := by
  unfold State.hostStore
  extract_lets s1
  have hs1 : WellKept s1 := .ite h h.clearResv
  exact hs1.bytes (Mem.wf_writeMasked 64 line mask.toNat data.toNat hs1.mem)

theorem WellKept.execBackInvalidate {s : State} {line} (h : WellKept s) : KeptOutcome (execBackInvalidate line s) := by
  unfold Machine.execBackInvalidate
  refine .next ?_
  split
  · exact .ite h.withdraw h
  · exact h

theorem WellKept.execSnoopResponse {s : State} {line} (h : WellKept s) : KeptOutcome (execSnoopResponse line s) := by
  unfold Machine.execSnoopResponse
  refine .next ?_
  extract_lets s a base s1
  have hs : WellKept s := h.onMem
  have hs1 : WellKept s1 := hs.hostStore
  split
  · exact h
  · exact .ite hs.update.hostStore (.ite hs1.onPage hs1)

/-! Atomics and MCAS. -/

theorem WellKept.writeFetched {s : State} {w wide scalar dest got} (h : WellKept s) : WellKept (s.writeFetched w wide scalar dest got) := by
  unfold State.writeFetched
  split
  · exact h
  · exact h.foldl fun _ _ h => h.onStrand

theorem WellKept.atomLm {s : State} {i k sp spots} (h : WellKept s) : WellKept (s.atomLm i k sp spots) := by
  unfold State.atomLm
  extract_lets n bad good r s gt s1
  have hr : WellKept r.1 := h.foldl_fst fun _ _ h => .ite h.lmWrite h
  have hs : WellKept s := hr.writeFetched
  have hs1 : WellKept s1 := hs.onStrand
  clear_value bad
  split
  · exact hs1.advance
  · exact hs1.holdTrap

theorem WellKept.atomFar {s : State} {i k sp spots} (h : WellKept s) : WellKept (s.atomFar i k sp spots) := by
  unfold State.atomFar
  extract_lets parts fabric lines s id x s1 stands s2 targets first
  have hs : WellKept s := h.drainWhere
  have hs1 : WellKept s1 := hs.onStrand
  have hs2 : WellKept s2 := .ite hs1.onStrand hs1.advance
  refine .ite hs2 ?_
  split
  · exact hs2.foldl fun _ _ h => h.fabRequest
  · exact hs2

theorem WellKept.atomic {s : State} {i} (h : WellKept s) : WellKept (s.atomic i) := by
  unfold State.atomic
  extract_lets k sp more
  refine .ite h.onStrand.advance (h.access fun _ _ _ h => ?_)
  clear_value sp
  split
  · exact h.atomLm
  · exact h.atomLm
  · exact h.atomFar

theorem WellKept.scndLine {s : State} {w id g} (h : WellKept s) : WellKept (s.scndLine w id g).1 :=
  h.foldl_fst fun _ _ h => .ite h.onStrand.homeWrite h.onStrand

theorem WellKept.mxBlock {s : State} {w a sub load g} (h : WellKept s) : WellKept (s.mxBlock w a sub load g).1 := by
  unfold State.mxBlock
  extract_lets elems ep sp n block bad v scale x
  split
  · exact h.detectFailed.detectFailed
  · exact h.homeWrite.homeWrite

theorem WellKept.actGroup {s : State} {w a g} (h : WellKept s) : WellKept (s.actGroup w a g).s := by
  unfold State.actGroup
  extract_lets r pa
  have hr : WellKept r.1 := h.scndLine
  split
  · exact hr
  · exact h.mxBlock
  · exact h.mxBlock
  extract_lets r1
  split
  · exact h
  split
  · exact h
  split
  · exact h.homeWrite
  · exact h

theorem WellKept.payAtomic {s : State} {w a lines} (h : WellKept s) : WellKept (s.payAtomic w a lines).2 := by
  unfold State.payAtomic
  extract_lets owed p
  have hp : WellKept p.2 := h.spend
  split
  · exact h
  · exact hp.onStrand

theorem WellKept.execAtomicExecute {s : State} {w id} (h : WellKept s) : KeptOutcome (execAtomicExecute w id s) := by
  unfold Machine.execAtomicExecute
  refine .next ?_
  split
  · exact h
  extract_lets ready
  split
  · exact .ite h (h.foldl fun _ _ h => h.fetchLine)
  extract_lets lines pay s1 r s2 terms
  have hpay : WellKept pay.2 := h.payAtomic
  have hs1 : WellKept s1 := hpay.foldl fun _ _ h => h.reachHome.countAccess.fillL2.holdHost
  have hs2 : WellKept s2 := hs1.actGroup.foldl fun _ _ h => h.forget
  exact .ite hpay hs2.onStrand

theorem WellKept.writeAtomic {s : State} {w a} (h : WellKept s) : WellKept (s.writeAtomic w a) := by
  unfold State.writeAtomic
  extract_lets ok at_
  split
  · exact h.onStrand
  · exact h.onStrand
  · exact h.writeFetched

theorem WellKept.finishAtomic {s : State} {w a} (h : WellKept s) : WellKept (s.finishAtomic w a) := h.onStrand
theorem WellKept.parkAtomic {s : State} {w a} (h : WellKept s) : WellKept (s.parkAtomic w a) := h.finishAtomic.onStrand.sendBatch
theorem WellKept.execAtomicResponse {s : State} {w id} (h : WellKept s) : KeptOutcome (execAtomicResponse w id s) := by
  unfold Machine.execAtomicResponse
  refine .next ?_
  split
  · exact h
  extract_lets s s1 stands
  have hs : WellKept s := h.writeAtomic
  have hs1 : WellKept s1 := hs.finishAtomic
  refine .ite h (.ite hs.parkAtomic ?_)
  split
  · exact .holdTrap (.ite hs1.dropWait hs1)
  · exact .ite hs1.onStrand hs1

theorem WellKept.mcasStart {s : State} {i off wide words} (h : WellKept s) : WellKept (s.mcasStart i off wide words) := h.drainWhere.onStrand
theorem WellKept.execMcas {s : State} {e} (h : WellKept s) : KeptOutcome (execMcas e s) := by
  unfold Machine.execMcas
  refine .next (h.strandOnly fun _ _ h => ?_)
  extract_lets w off header wide raw addrs targets x2 held words
  have hheld : WellKept held := h.rememberAll
  refine .ite h.advance ?_
  split
  · exact h.raise
  split
  · exact h.raise
  split
  · exact hheld.raise
  refine .ite hheld (.ite hheld.queueFault ?_)
  split
  · exact hheld.raise
  · exact hheld.mcasStart

theorem WellKept.unlock {s : State} {w} (h : WellKept s) : WellKept (s.unlock w) := h.onMem
theorem WellKept.mcasFinish {s : State} {w m obs mask} (h : WellKept s) : WellKept (s.mcasFinish w m obs mask) :=
  ((h.foldl fun _ _ h => h.winWrite).onStrand).onStrand

theorem WellKept.mcasCompare {s : State} {w m} (h : WellKept s) : WellKept (s.mcasCompare w m) :=
  .ite (((h.onStrand.unlock.foldl fun _ _ h => h.forget).mcasFinish).onStrand) h.onStrand.onMem.onStrand

theorem WellKept.mcasFailed {s : State} {w m line} (h : WellKept s) : WellKept (s.mcasFailed w m line) := h.unlock.onStrand.queueFault
theorem WellKept.mcasLocked {s : State} {w m} (h : WellKept s) : WellKept (s.mcasLocked w m) := by
  unfold State.mcasLocked
  split
  · exact h.unlock.onStrand.trapWait
  · exact h.mcasCompare

theorem WellKept.execMcasLockPhase {s : State} {w} (h : WellKept s) : KeptOutcome (execMcasLockPhase w s) := by
  unfold Machine.execMcasLockPhase
  refine .next ?_
  split
  · exact h
  extract_lets pay s
  have hpay : WellKept pay.2 := by
    unfold pay
    split
    · exact h
    · exact h.spend
  have hs : WellKept s := hpay.onStrand
  split
  · exact h
  · split
    · exact h.mcasFailed
    · exact h.mcasLocked
  extract_lets lock entries s1 m s2
  have hs1 : WellKept s1 := ((hpay.reachHome.foldl fun _ _ h => h.countAccess).fillL2).onMem
  have hs2 : WellKept s2 := hs1.onStrand
  split
  · exact h.mcasFailed
  · exact .ite h (.ite hpay (.ite hs.fetchLine (.ite hs2.mcasLocked hs2)))

theorem WellKept.execMcasCommit {s : State} {w} (h : WellKept s) : KeptOutcome (execMcasCommit w s) := by
  unfold Machine.execMcasCommit
  refine .next (.ite h ?_)
  split
  · exact h
  extract_lets s lines
  have hs : WellKept s := h.foldl fun _ _ h => h.homeWrite.forget
  split
  · exact h
  · exact hs.unlock.mcasFinish.onStrand

/-! Copy engines, barriers and guards. -/

theorem WellKept.writeStatus {s : State} {core slot q code cause} (h : WellKept s) : WellKept (s.writeStatus core slot q code cause) := by
  unfold State.writeStatus
  split
  · exact h.winWrite
  · exact h

theorem WellKept.lockReq {s : State} {core slot q} (h : WellKept s) : WellKept (s.lockReq core slot q) := h.onCore
theorem WellKept.register {s : State} {core slot l} (h : WellKept s) : WellKept (s.register core slot l) :=
  h.foldl fun _ _ h => h.onCore.lockReq.writeStatus.onComb

theorem WellKept.submit {s : State} {i l} (h : WellKept s) : WellKept (s.submit i l) := .ite h.onStrand.register.advance h.onStrand.onCore.onStrand
theorem WellKept.execKickRegister {s : State} {core} (h : WellKept s) : KeptOutcome (execKickRegister core s) := by
  unfold Machine.execKickRegister
  refine .next ?_
  split
  · exact h
  · exact .ite h.onCore.register.onStrand h

theorem WellKept.execKick {s : State} {e} (h : WellKept s) : KeptOutcome (execKick e s) := by
  unfold Machine.execKick
  refine .next (h.strandOnly fun _ _ h => ?_)
  extract_lets n reqs count
  split
  · exact h.raise
  refine .ite h ?_
  split
  · exact h.raise
  · exact h.submit

theorem WellKept.engineCount {s : State} {core slot bar bytes err} (h : WellKept s) : WellKept (s.engineCount core slot bar bytes err) := by
  unfold State.engineCount
  split
  · exact h
  · exact h.winWrite

theorem WellKept.bbWrite {s : State} {o e} (h : WellKept s) : WellKept (bbWrite o e s) := by
  unfold Machine.bbWrite
  extract_lets value
  split
  · refine h.runStream fun _ _ _ h => ?_
    extract_lets off
    refine .ite h ?_
    split
    · exact h.seqFault
    · exact h.winWrite.seqAdvance
  refine h.runStrand fun _ _ h => ?_
  extract_lets off
  split
  · exact h.raise
  · exact h.onStrand.winWrite.advance

theorem WellKept.execBbwait {s : State} {e} (h : WellKept s) : KeptOutcome (execBbwait e s) := by
  unfold Machine.execBbwait
  refine .next ?_
  split
  · refine h.runStream fun _ _ _ h => ?_
    extract_lets off v
    split
    · exact h.seqFault
    · exact .ite h.seqAdvance h.onStream
  refine h.runStrand fun _ _ h => ?_
  extract_lets off v
  split
  · exact h.raise
  · exact .ite h.advance h.onStrand

theorem WellKept.execBbwaitWake {s : State} {w} (h : WellKept s) : KeptOutcome (execBbwaitWake w s) := by
  unfold Machine.execBbwaitWake
  refine .next ?_
  split
  · split
    · split
      · exact .ite h (.ite (.ite h.streamFault h.onStream) h.onStream)
      · exact h
    · exact h
  split
  · exact .ite h (.ite h.trapWait h.onStrand)
  · exact h

theorem WellKept.execBbtest {s : State} {e} (h : WellKept s) : KeptOutcome (execBbtest e s) := by
  unfold Machine.execBbtest
  refine .next ?_
  split
  · refine h.runStream fun _ _ _ h => ?_
    extract_lets off v
    split
    · exact h.seqFault
    · exact h.seqWrite
  · exact h.runStrand fun _ _ h => h.effect fun _ _ h1 => h1.writeS

theorem WellKept.onReq {s : State} {core slot id f} (h : WellKept s) : WellKept (s.onReq core slot id f) := h.onComb
theorem WellKept.endReq {s : State} {core slot q code cause bytes err} (h : WellKept s) : WellKept (s.endReq core slot q code cause bytes err) :=
  .onComb (.ite h.onCore.writeStatus.engineCount h.onCore.writeStatus.engineCount.updateFabric)

theorem WellKept.discard {s : State} {core slot q} (h : WellKept s) : WellKept (s.discard core slot q) := h.endReq
theorem WellKept.abort {s : State} {core slot q cause addr} (h : WellKept s) : WellKept (s.abort core slot q cause addr) := by
  unfold State.abort
  extract_lets s
  have hs : WellKept s := h.endReq
  split
  · exact hs.onStrand
  · exact hs.onStrand
  · exact hs

theorem WellKept.startReq {s : State} {core slot q} (h : WellKept s) : WellKept (s.startReq core slot q) := h.onReq.writeStatus
theorem WellKept.sampleHead {s : State} {core slot q} (h : WellKept s) : WellKept (s.sampleHead core slot q) := by
  unfold State.sampleHead
  split
  · exact h.startReq
  split
  · exact h.startReq
  · exact h.discard
  · exact .ite h h.onReq.writeStatus

theorem WellKept.execCopyRequestStart {s : State} {core slot} (h : WellKept s) : KeptOutcome (execCopyRequestStart core slot s) := by
  unfold Machine.execCopyRequestStart
  refine .next (.ite h ?_)
  split
  · exact h.sampleHead
  · exact h

theorem WellKept.setGuard {s : State} {core slot n v} (h : WellKept s) : WellKept (s.setGuard core slot n v) := by
  unfold State.setGuard
  extract_lets s s1
  have hs : WellKept s := h.onComb
  have hs1 : WellKept s1 := by
    unfold s1
    split
    · exact .ite hs.onStream hs
    · exact hs
  split
  · exact .ite hs1.sampleHead hs1
  · exact hs1

theorem WellKept.execGset {s : State} {e} (h : WellKept s) : KeptOutcome (execGset e s) := by
  unfold Machine.execGset
  refine .next ?_
  extract_lets code
  exact .ite (h.runStream fun _ _ _ h => .ite h h.setGuard.seqAdvance) (h.runStrand fun _ _ h => h.effect fun _ _ h1 => h1.setGuard)

theorem WellKept.engineRead {s : State} {core line count} (h : WellKept s) : WellKept (s.engineRead core line count).2 := by
  unfold State.engineRead
  extract_lets die now s atHome copy
  have hs : WellKept s := h.reachHome
  have hatHome : WellKept atHome.2 := by
    unfold atHome
    split
    · exact .ite h h.homeMiss
    · exact .holdHost (.fillL2 (.ite hs.countAccess hs))
  split
  · exact hatHome
  split
  · exact h
  split
  · exact h
  · exact hatHome

theorem WellKept.engineWrite {s : State} {core pa n v poison count} (h : WellKept s) : WellKept (s.engineWrite core pa n v poison count).2 := by
  unfold State.engineWrite
  extract_lets line mine s s1 s2 s3
  have hs : WellKept s := .ite h h.reachHome
  have hs1 : WellKept s1 := .ite hs hs.countAccess
  have hs2 : WellKept s2 := hs1.homeWrite
  have hs3 : WellKept s3 := .ite hs2.poisonLine hs2
  exact hs3

theorem WellKept.lmMarkMask {s : State} {core a n mask} (h : WellKept s) : WellKept (s.lmMarkMask core a n mask) := h.foldl fun _ _ h => .ite h.lmMark h
theorem WellKept.suspendReq {s : State} {core slot q f} (h : WellKept s) : WellKept (s.suspendReq core slot q f) := h.formBatch.onReq.writeStatus
theorem WellKept.engineXlat {s : State} {core slot q acc va f} (h : WellKept s) (hf : ∀ x0 s, WellKept s → WellKept (f x0 s)) :
    WellKept (s.engineXlat core slot q acc va f) := by
  unfold State.engineXlat
  extract_lets s1
  have hs1 : WellKept s1 := h.remember
  split
  · exact hf _ _ hs1
  · exact hs1.abort
  · exact hs1.suspendReq
  · exact hs1

theorem WellKept.stage {s : State} {core slot q c data poison} (h : WellKept s) : WellKept (s.stage core slot q c data poison) := h.onReq
theorem WellKept.chunkRequest {s : State} {core slot q c a kind} (h : WellKept s) : WellKept (s.chunkRequest core slot q c a kind) :=
  .ite h.abort h.onReq.fabRequest

theorem WellKept.readChunk {s : State} {core slot q c} (h : WellKept s) : WellKept (s.readChunk core slot q c) := by
  unfold State.readChunk
  extract_lets local_ paid c
  split
  · exact h.stage
  · exact h.stage
  · exact h.chunkRequest
  refine h.engineXlat fun _ _ h => ?_
  extract_lets pay r
  have hpay : WellKept pay.2 := by
    unfold pay
    split
    · exact h.spend
    · exact h
  have hr : WellKept r.2 := hpay.onReq.engineRead
  refine .ite hpay ?_
  split
  · exact hr
  · exact hr.stage

theorem WellKept.written {s : State} {core slot q x at_ line} (h : WellKept s) : WellKept (s.written core slot q x at_ line) := h.onReq
theorem WellKept.writeChunk {s : State} {core slot q x} (h : WellKept s) : WellKept (s.writeChunk core slot q x) := by
  unfold State.writeChunk
  extract_lets c local_ w paid x
  split
  · exact h.lmWrite.lmMarkMask.written
  · exact h.lmWrite.lmMarkMask.written
  · exact h.chunkRequest
  refine h.engineXlat fun _ _ h => ?_
  extract_lets line pay s r
  have hpay : WellKept pay.2 := by
    unfold pay
    split
    · exact h.spend
    · exact h
  have hs : WellKept s := hpay.onReq
  have hr : WellKept r.2 := hs.engineWrite
  exact .ite hpay (.ite (.ite hs hs.homeMiss) hr.written)

theorem WellKept.checkTag {s : State} {core slot q} (h : WellKept s) : WellKept (s.checkTag core slot q) := by
  unfold State.checkTag
  extract_lets cells cipher lm
  split
  · exact h
  · exact .ite h.onReq h.endReq

theorem WellKept.takeCount {s : State} {core slot q c} (h : WellKept s) : WellKept (s.takeCount core slot q c) := .ite h.endReq h.onReq.engineCount
theorem WellKept.execCopyChunk {s : State} {core slot req} (h : WellKept s) : KeptOutcome (execCopyChunk core slot req s) := by
  unfold Machine.execCopyChunk
  refine .next ?_
  split
  · exact h
  extract_lets w n k
  refine .ite h.checkTag ?_
  split
  · split
    · exact h.readChunk
    · exact h
  split
  · split
    · exact h.writeChunk
    · exact h
  split
  · exact h.takeCount
  · exact h

theorem WellKept.releaseReq {s : State} {core slot id out} (h : WellKept s) : WellKept (s.releaseReq core slot id out) := by
  unfold State.releaseReq
  split
  · exact h
  split
  · exact h.abort
  · exact h.onReq.writeStatus

theorem WellKept.execRlq {s : State} {e} (h : WellKept s) : KeptOutcome (execRlq e s) :=
  .next (h.strandOnly fun _ _ h => h.effect fun _ _ h1 => .ite h1.writeD h1.writeD)

theorem WellKept.onDrone {s : State} {q f} (h : WellKept s) : WellKept (s.onDrone q f) := h.frame
theorem WellKept.execDroneQsubResponse {s : State} {w reg} (h : WellKept s) : KeptOutcome (execDroneQsubResponse w reg s) := by
  unfold Machine.execDroneQsubResponse
  refine .next ?_
  extract_lets t
  split
  · exact h
  · exact .onStrand (.ite (.ite h.onDrone.onComb h.onDrone) h)

/-! Queues, swarms, notifications and slices. -/

theorem WellKept.atHome {s : State} {line} (h : WellKept s) : WellKept (s.atHome line) := h.recall.fillL2
theorem WellKept.checkRecord {s : State} {i va act} (h : WellKept s) (hact : ∀ x0 x1 s, WellKept s → WellKept (act x0 x1 s)) :
    WellKept (s.checkRecord i va act) := by
  unfold State.checkRecord
  refine h.access fun _ _ _ h => ?_
  split
  · exact h
  extract_lets pay s r
  have hpay : WellKept pay.2 := h.payIssue
  refine .ite h.raise ?_
  refine .ite h.fetchLine (.ite hpay ?_)
  split
  · exact hpay.raise
  · exact hact _ _ _ hpay.atHome

theorem WellKept.onQueue {s : State} {q f} (h : WellKept s) : WellKept (s.onQueue q f) := h.frame
theorem WellKept.enqueue {s : State} {e} (h : WellKept s) : WellKept (s.enqueue e) := h.onQueue
theorem WellKept.holdJob {s : State} {i job dest} (h : WellKept s) : WellKept (s.holdJob i job dest) := by
  unfold State.holdJob
  exact h.onStrand.beginToken.onStrand

theorem WellKept.checkSwarm {s : State} {i va act} (h : WellKept s) (hact : ∀ x0 s, WellKept s → WellKept (act x0 s)) : WellKept (s.checkSwarm i va act) := by
  unfold State.checkSwarm
  refine h.access fun _ _ _ h => ?_
  extract_lets readable
  split
  · exact h
  · exact .ite h.raise (.ite h.fetchLine (.ite h.payIssue (.ite h.payIssue.raise (hact _ _ h.payIssue))))

theorem WellKept.execSpawnn {s : State} {e} (h : WellKept s) : KeptOutcome (execSpawnn e s) :=
  .next (h.strandOnly fun _ _ h => .ite h.raise (h.checkRecord fun _ _ _ h1 => h1.checkSwarm fun _ _ h2 => h2.holdJob))

theorem WellKept.execJoin {s : State} {e} (h : WellKept s) : KeptOutcome (execJoin e s) :=
  .next (h.strandOnly fun _ _ h => .ite h.raise (h.checkRecord fun _ _ _ h1 => h1.holdJob))

theorem WellKept.onNotify {s : State} {reg f} (h : WellKept s) : WellKept (s.onNotify reg f) := h.frame
theorem WellKept.execPark {s : State} {e} (h : WellKept s) : KeptOutcome (execPark e s) := by
  unfold Machine.execPark
  refine .next (h.strandOnly fun _ _ h => ?_)
  extract_lets va
  refine h.checkRecord fun _ _ _ h1 => ?_
  split
  · exact h1.raise
  · exact h1.holdJob

theorem WellKept.execNotify {s : State} {e} (h : WellKept s) : KeptOutcome (execNotify e s) := by
  unfold Machine.execNotify
  refine .next (h.strandOnly fun _ _ h => ?_)
  split
  · exact h.raise
  · exact h.holdJob

theorem WellKept.enterParked {s : State} {reg p} (h : WellKept s) : WellKept (s.enterParked reg p) := h.onNotify.enqueue
theorem WellKept.release {s : State} {reg p} (h : WellKept s) : WellKept (s.release reg p) := .ite h.enterParked h.onNotify
theorem WellKept.bump {s : State} {reg} (h : WellKept s) : WellKept (s.bump reg) := h.onNotify.foldl fun _ _ h => h.release
theorem WellKept.jobDone {s : State} {w dest} (h : WellKept s) : WellKept (s.jobDone w dest) := h.onStrand
theorem WellKept.actSpawn {s : State} {w va pa dest} (h : WellKept s) : WellKept (s.actSpawn w va pa dest) := by
  unfold State.actSpawn
  extract_lets c
  split
  · exact h.jobDone
  · exact .ite h.enqueue.jobDone h

theorem WellKept.onSwarm {s : State} {k f} (h : WellKept s) : WellKept (s.onSwarm k f) := h.frame
theorem WellKept.storeFor {s : State} {w pa n v} (h : WellKept s) : WellKept (s.storeFor w pa n v) := h.homeWrite.forget.onStrand
theorem WellKept.homeStore {s : State} {pa n v} (h : WellKept s) : WellKept (s.homeStore pa n v) := h.atHome.homeWrite
theorem WellKept.actSpawnn {s : State} {w va pa n dva dpa dest} (h : WellKept s) : WellKept (s.actSpawnn w va pa n dva dpa dest) := by
  unfold State.actSpawnn
  extract_lets c t d x
  split
  · exact h.jobDone
  · exact h.jobDone
  · exact .ite h h.atHome.storeFor.onSwarm.enqueue.jobDone

theorem WellKept.enqueueOrWait {s : State} {w c dest v} (h : WellKept s) : WellKept (s.enqueueOrWait w c dest v) := .ite h.enqueue.jobDone h.onStrand
theorem WellKept.actJoin {s : State} {w va pa dest} (h : WellKept s) : WellKept (s.actJoin w va pa dest) := by
  unfold State.actJoin
  extract_lets s r o c s1
  have hs : WellKept s := h.atHome.countAccess
  have hs1 : WellKept s1 := hs.storeFor
  exact .ite hs.trapWait (.ite hs.jobDone (.ite hs1.jobDone hs1.enqueueOrWait))

theorem WellKept.actPark {s : State} {w va pa reg expected dest} (h : WellKept s) : WellKept (s.actPark w va pa reg expected dest) :=
  .ite h.jobDone (.ite h.enqueueOrWait (.ite h.jobDone h.frame.jobDone))

theorem WellKept.execDeviceScopeTermReached {s : State} {w} (h : WellKept s) : KeptOutcome (execDeviceScopeTermReached w s) := by
  unfold Machine.execDeviceScopeTermReached
  refine .next ?_
  split
  · refine .ite h (.ite (h.foldl fun _ _ h => h.fetchLine) ?_)
    split
    · exact h.actSpawn
    · exact h.actSpawnn
    · exact h.actJoin
    · exact h.actPark
    · exact .ite h.jobDone h.bump.jobDone
  · exact h

theorem WellKept.execLevelRoomEnqueue {s : State} {src} (h : WellKept s) : KeptOutcome (execLevelRoomEnqueue src s) := by
  unfold Machine.execLevelRoomEnqueue
  refine .next (.ite h ?_)
  split
  · split
    · exact h.enqueue.jobDone
    · exact h
  split
  · exact h.enterParked
  · exact h

theorem WellKept.markDone {s : State} {w} (h : WellKept s) : WellKept (s.markDone w) := .ite h h.onStrand
theorem WellKept.freeSlot {s : State} {swarm o} (h : WellKept s) : WellKept (s.freeSlot swarm o) := h.frame.onSwarm
theorem WellKept.execSwarmCompletionReport {s : State} {swarm cell} (h : WellKept s) : KeptOutcome (execSwarmCompletionReport swarm cell s) := by
  unfold Machine.execSwarmCompletionReport
  refine .next ?_
  extract_lets s x reported o s1 s2 s3
  have hs : WellKept s := h.frame
  have hs1 : WellKept s1 := hs.onSwarm
  have hs2 : WellKept s2 := hs1.homeStore
  have hs3 : WellKept s3 := hs2.freeSlot
  exact .ite h (.ite h.fetchLine (.ite hs1 (.ite hs2 (.ite hs3.bump hs3))))

theorem WellKept.dropHeld {s : State} {core slot} (h : WellKept s) : WellKept (s.dropHeld core slot) := by
  unfold State.dropHeld
  split
  · exact .ite h.discard h
  · exact h

theorem WellKept.execStrandRetire {s : State} {w} (h : WellKept s) : KeptOutcome (execStrandRetire w s) :=
  .next (.ite h (.ite h.markDone.onStrand.onCore.dropHeld h.markDone.onStrand.onCore))

theorem WellKept.enterWindow {s : State} {k} (h : WellKept s) : WellKept (s.enterWindow k) := by
  unfold State.enterWindow
  extract_lets l c
  split
  · exact h.onSwarm
  · exact h

theorem WellKept.disown {s : State} {core slot} (h : WellKept s) : WellKept (s.disown core slot) := h.frame
theorem WellKept.execCombRetire {s : State} {core slot} (h : WellKept s) : KeptOutcome (execCombRetire core slot s) := by
  unfold Machine.execCombRetire
  refine .next ?_
  split
  · exact h
  · exact .ite h.enterWindow.disown.onCore (.ite h.dropHeld h)

theorem WellKept.launch {s : State} {c qn l e} (h : WellKept s) : WellKept (s.launch c qn l e) := by
  unfold State.launch
  extract_lets q k tvec e' rest
  split
  · exact h
  · exact h.frame

theorem WellKept.execCellDispatch {s : State} {die} (h : WellKept s) : KeptOutcome (execCellDispatch die s) := by
  unfold Machine.execCellDispatch
  refine .next ?_
  split
  · exact h
  extract_lets line
  refine .ite h.fetchLine ?_
  split
  · exact h.atHome.launch
  · exact h

theorem WellKept.closeSlice {s : State} {c} (h : WellKept s) : WellKept (s.closeSlice c) := h.onCore
theorem WellKept.openSlice {s : State} {c e} (h : WellKept s) : WellKept (s.openSlice c e) := h.onCore
theorem WellKept.preemptCombs {s : State} {c cut} (h : WellKept s) : WellKept (s.preemptCombs c cut) := h.onCore
theorem WellKept.preemptAll {s : State} {c t} (h : WellKept s) : WellKept (s.preemptAll c t) := h.onCore.preemptCombs
theorem WellKept.cutComb {s : State} {c slot} (h : WellKept s) : WellKept (s.cutComb c slot) := .ite h.preemptCombs h
theorem WellKept.execSliceExpiry {s : State} {core} (h : WellKept s) : KeptOutcome (execSliceExpiry core s) := by
  unfold Machine.execSliceExpiry
  refine .next ?_
  split
  · exact h
  refine .ite h ?_
  split
  · exact .ite h.closeSlice.openSlice h.closeSlice.preemptAll
  · exact h.closeSlice.preemptAll

theorem WellKept.endSlice {s : State} {core} (h : WellKept s) : WellKept (s.endSlice core) := by
  unfold State.endSlice
  split
  · exact h
  · exact h.closeSlice.preemptAll

theorem WellKept.dropStops {s : State} {core slot} (h : WellKept s) : WellKept (s.dropStops core slot) := h.frame
theorem WellKept.saveStream {s : State} {core slot} (h : WellKept s) : WellKept (s.saveStream core slot) := by
  unfold State.saveStream
  split
  · exact .ite h.onCore h
  · exact h

theorem WellKept.drainComb {s : State} {core slot} (h : WellKept s) : WellKept (s.drainComb core slot) := .ite h.dropStops.saveStream.onComb h
theorem WellKept.saveComb {s : State} {core slot} (h : WellKept s) : WellKept (s.saveComb core slot) := by
  unfold State.saveComb
  extract_lets s c wait
  have hs : WellKept s := h.saveStream
  split
  · exact hs
  · exact hs.dropStops.onCore

theorem WellKept.execSliceBegin {s : State} {core} (h : WellKept s) : KeptOutcome (execSliceBegin core s) := by
  unfold Machine.execSliceBegin
  refine .next ?_
  extract_lets s
  have hs : WellKept s := .ite h.closeSlice h
  refine .ite h (.ite hs ?_)
  split
  · exact hs.openSlice
  · exact hs

theorem WellKept.resumeRuns {s : State} {core slot} (h : WellKept s) : WellKept (s.resumeRuns core slot) := .ite h h.onComb.resumeParked
theorem WellKept.reregister {s : State} {core slot} (h : WellKept s) : WellKept (s.reregister core slot) :=
  (h.foldl fun _ _ h => h.onReq.lockReq).foldl fun _ _ h => .ite h.abort (.ite h.releaseReq h)

theorem WellKept.resumeComb {s : State} {core x} (h : WellKept s) : WellKept (s.resumeComb core x) := by
  unfold State.resumeComb
  extract_lets k live frames place base c d lost c1
  split
  · exact h
  · exact .resumeRuns (.ite h.onCore.reregister h.onCore)

theorem WellKept.execCombResume {s : State} {core} (h : WellKept s) : KeptOutcome (execCombResume core s) := by
  unfold Machine.execCombResume
  refine .next ?_
  split
  · exact h.reregister.resumeRuns
  split
  · exact h.resumeComb
  · exact h

/-! Requests, responses and messages of the fabric. -/

theorem WellKept.fabCopy {s : State} {i} (h : WellKept s) : WellKept (s.fabCopy i) := by
  unfold State.fabCopy
  split
  · exact h.raise
  · exact h.submit

theorem WellKept.execFmsg {s : State} {e} (h : WellKept s) : KeptOutcome (execFmsg e s) :=
  .next (h.strandOnly fun _ _ h => h.effect fun _ _ h1 => h1.onStrand.fabRequest)

theorem WellKept.execFsync {s : State} {e} (h : WellKept s) : KeptOutcome (execFsync e s) :=
  .next (h.strandOnly fun _ _ h => .ite h (h.effect fun _ _ h1 => .ite h1.writeS.onStrand h1.writeS))

theorem WellKept.failChunk {s : State} {core slot req owner cause addr} (h : WellKept s) : WellKept (s.failChunk core slot req owner cause addr) := by
  unfold State.failChunk
  split
  · exact h.abort
  split
  · exact h.onStrand
  · exact h

theorem WellKept.failOut {s : State} {v o cause} (h : WellKept s) : WellKept (s.failOut v o cause) := by
  unfold State.failOut
  extract_lets a
  split
  · exact h.onStrand
  · exact h.onStrand
  · exact h.onStrand
  · exact h.failChunk
  · exact h.onStrand

theorem WellKept.chunkAnswer {s : State} {core slot req c a} (h : WellKept s) : WellKept (s.chunkAnswer core slot req c a) := by
  unfold State.chunkAnswer
  split
  · exact h
  split
  · exact h.stage
  · exact h.written

theorem WellKept.answerOut {s : State} {v o a} (h : WellKept s) : WellKept (s.answerOut v o a) := by
  unfold State.answerOut
  extract_lets now
  split
  · exact h.failOut
  · exact h.failOut
  split
  · split
    · exact h.onStrand
    · exact h
  · split
    · exact h.onStrand
    · exact h
  · exact h.onStrand
  · exact h.chunkAnswer
  split
  · exact h.onStrand
  · exact h

theorem WellKept.dropOut {s : State} {v o} (h : WellKept s) : WellKept (s.dropOut v o) := h.onTarget
theorem WellKept.failAll {s : State} {v} (h : WellKept s) : WellKept (s.failAll v) := h.foldl fun _ _ h => h.dropOut.failOut
theorem WellKept.noteEpoch {s : State} {v e} (h : WellKept s) : WellKept (s.noteEpoch v e) := .ite h.onTarget h.onTarget.failAll
theorem WellKept.respond {s : State} {resp} (h : WellKept s) : WellKept (s.respond resp) := by
  unfold State.respond
  extract_lets v gt
  split
  · exact h
  · exact .ite h.onTarget (.ite h.dropOut.answerOut h)

theorem WellKept.execFabricResponseArrival {s : State} {resp} (h : WellKept s) : KeptOutcome (execFabricResponseArrival resp s) := by
  unfold Machine.execFabricResponseArrival
  refine .next ?_
  extract_lets v gt mine base s s1
  have hs : WellKept s := by
    unfold s
    clear_value mine
    split
    · exact h.frame
    · exact h
  have hs1 : WellKept s1 := hs.onTarget
  exact hs1.respond.noteEpoch.pump

theorem WellKept.execFabricResend {s : State} {target seq} (h : WellKept s) : KeptOutcome (execFabricResend target seq s) := by
  unfold Machine.execFabricResend
  refine .next ?_
  extract_lets gt
  split
  · exact .ite h.onTarget.transmit h
  · exact h

theorem WellKept.execFabricTimeout {s : State} {target seq} (h : WellKept s) : KeptOutcome (execFabricTimeout target seq s) := by
  unfold Machine.execFabricTimeout
  refine .next ?_
  split
  · exact .ite h.dropOut.failOut.pump h
  · exact h

theorem WellKept.placeMessage {s : State} {queue src tenant entry} (h : WellKept s) : KeptPlaced (s.placeMessage queue src tenant entry) := by
  unfold State.placeMessage
  extract_lets q
  split
  · exact h
  split
  case h_1 =>
    split
    · exact h.fetchLine
    extract_lets s1 head tail va
    clear_value head tail va
    have hs1 : WellKept s1 := h.remember.atHome
    split
    · exact hs1
    split
    case h_1 =>
      split
      · exact hs1.fetchLine.fetchLine
      · exact hs1.homeStore.homeStore.homeStore.bump
    case h_2 => exact hs1
  case h_2 => exact h

theorem WellKept.execFabricMessageReceive {s : State} {queue src tenant entry} (h : WellKept s) :
    KeptOutcome (execFabricMessageReceive queue src tenant entry s) := by
  have hp : KeptPlaced (s.placeMessage queue src tenant entry) := h.placeMessage
  unfold Machine.execFabricMessageReceive
  refine .next ?_
  split
  case h_1 r hr => rwa [hr] at hp
  case h_2 t ht => rw [ht] at hp; exact WellKept.again hp

theorem WellKept.windowFault {s : State} {t f} (h : WellKept s) : WellKept (s.windowFault t f) := .ite h h.formBatch
theorem WellKept.sendResponse {s : State} {src seq a when_} (h : WellKept s) : WellKept (s.sendResponse src seq a when_) := .ite h.frame h.frame
theorem WellKept.keepAnswer {s : State} {req a} (h : WellKept s) : WellKept (s.keepAnswer req a) := .ite h h.frame
theorem WellKept.performAt {s : State} {p pa} (h : WellKept s) : KeptServed (s.performAt p pa) := by
  unfold State.performAt
  extract_lets line gt s1
  have hs1 : WellKept s1 := h.atHome.countAccess
  split
  · exact hs1
  · exact WellKept.ite hs1.applyLine.poisonLine hs1.applyLine
  · split
    · exact hs1
    · exact WellKept.ite hs1.homeWrite hs1

theorem WellKept.execRequest {s : State} {p} (h : WellKept s) : KeptServed (s.execRequest p) := by
  unfold State.execRequest
  extract_lets gt x va
  split
  case h_1 queue entry _ =>
    have hp : KeptPlaced (s.placeMessage queue p.src p.tenant entry) := h.placeMessage
    split
    case h_1 hr => rwa [hr] at hp
    case h_2 ht => rwa [ht] at hp
  case h_2 =>
    split
    · exact h
    split
    · exact h
    · exact h
    · exact h.windowFault
    · split
      · exact h
      split
      · exact h.fetchLine
      · exact h.remember.performAt

theorem WellKept.execFabricRequestArrival {s : State} {req} (h : WellKept s) : KeptOutcome (execFabricRequestArrival req s) := by
  have hr : KeptServed (s.execRequest req) := h.execRequest
  unfold Machine.execFabricRequestArrival
  refine .next (.ite h ?_)
  split
  · exact h.sendResponse
  split
  case h_1 hs => rw [hs] at hr; exact WellKept.again hr
  case h_2 hs => rw [hs] at hr; exact (WellKept.keepAnswer hr).sendResponse

/-! Streams and matrix commands. -/

theorem WellKept.onMatrix {s : State} {core f} (h : WellKept s) : WellKept (s.onMatrix core f) := h.onCore
theorem WellKept.setAcc {s : State} {core d f} (h : WellKept s) : WellKept (s.setAcc core d f) := h.onMatrix
theorem WellKept.setTag {s : State} {core d int} (h : WellKept s) : WellKept (s.setTag core d int) := h.onMatrix
theorem WellKept.clearFor {s : State} {core t} (h : WellKept s) : WellKept (s.clearFor core t) := h.onMatrix
theorem WellKept.tile {s : State} {core slot ma bcore bslot mb dist d kk ra rb} (h : WellKept s) :
    WellKept (s.tile core slot ma bcore bslot mb dist d kk ra rb) :=
  h.setAcc

theorem WellKept.runHead {s : State} {core c writes} (h : WellKept s) : WellKept (s.runHead core c writes) := h.onStream
theorem WellKept.cmdFault {s : State} {core x c t} (h : WellKept s) : WellKept (s.cmdFault core x c t) := h.streamFault
theorem WellKept.started {s : State} {core slot checks ranges f writes} (h : WellKept s) (hf : ∀ s, WellKept s → WellKept (f s)) :
    KeptStart (s.started core slot checks ranges f writes) := by
  unfold State.started
  split
  · trivial
  split
  · trivial
  · exact hf _ h

theorem WellKept.startMap {s : State} {core slot c} (h : WellKept s) : KeptStart (s.startMap core slot c) := h.started fun _ h => h.onStream
theorem WellKept.startMma {s : State} {core x c} (h : WellKept s) : KeptStart (s.startMma core x c) := by
  unfold State.startMma
  extract_lets kk ra rb
  split
  · exact h.started fun _ h => h.tile
  · trivial
  · exact h

theorem WellKept.startZero {s : State} {core c} (h : WellKept s) : KeptStart (s.startZero core c) := h.setAcc.setTag
theorem WellKept.startLoad {s : State} {core slot c} (h : WellKept s) : KeptStart (s.startLoad core slot c) := by
  unfold State.startLoad
  extract_lets o p d
  exact h.started fun _ h => h.setAcc.setTag

theorem WellKept.startTopk {s : State} {core slot c} (h : WellKept s) : KeptStart (s.startTopk core slot c) := h.started fun _ h => h
theorem WellKept.startDrain {s : State} {core slot c} (h : WellKept s) : KeptStart (s.startDrain core slot c) := h.started fun _ h => h
theorem WellKept.startOwn {s : State} {core slot x c} (h : WellKept s) : KeptStart (s.startOwn core slot x c) := by
  unfold State.startOwn
  split
  · exact h.startMap
  · exact h.startMap
  · exact h.startMma
  · exact h.startMma
  · exact h.startZero
  · exact h.startLoad
  · exact h.startTopk
  · exact h.startDrain
  · exact h.startDrain
  · exact h

theorem WellKept.startAt {s : State} {core x c r} (h : WellKept s) (hr : KeptStart r) : WellKept (s.startAt core x c r) := by
  unfold State.startAt
  split
  · exact h.cmdFault
  · exact WellKept.runHead hr

theorem WellKept.startPair {s : State} {e x c o y d} (h : WellKept s) : WellKept (s.startPair e x c o y d) := by
  unfold State.startPair
  extract_lets bad kk ra rb lost dist run
  have hbad : WellKept bad := h.cmdFault.cmdFault
  split
  · exact .ite hbad (.ite h.cmdFault.cmdFault h.tile.tile.runHead.onStream.runHead.onStream)
  · exact hbad

theorem WellKept.startPaired {s : State} {core x c} (h : WellKept s) : WellKept (s.startPaired core x c) := by
  unfold State.startPaired
  extract_lets odd own
  clear_value own odd
  split
  · exact h.cmdFault
  split
  · extract_lets s1
    have hs1 : WellKept s1 := h.onStream
    split
    · split
      · exact .ite hs1.startPair hs1.startPair
      · exact hs1
    · exact hs1
  · exact h.cmdFault
  · exact h

theorem WellKept.startHead {s : State} {core x c} (h : WellKept s) : WellKept (s.startHead core x c) := by
  unfold State.startHead
  extract_lets paired drop g
  clear_value paired g
  split
  · exact h.startPaired
  split
  · exact h.onStream
  · exact h.onStream
  split
  · exact .ite h.cmdFault h.onStream
  · exact h.dissolve.onStream
  · exact h.startAt h.startOwn

theorem WellKept.dropWaiter {s : State} {core x} (h : WellKept s) : WellKept (s.dropWaiter core x) := h.onMatrix
theorem WellKept.startDirect {s : State} {core x} (h : WellKept s) : WellKept (s.startDirect core x) := by
  have hs1 : WellKept (s.clearFor core (s.tenantOf core x.slot)) := h.clearFor
  unfold State.startDirect
  extract_lets w s1
  have ks : KeptStart (s1.startOwn core x.slot none x.cmd) := hs1.startOwn
  split
  case h_1 => exact hs1.dropWaiter.trapWait
  case h_2 s2 l hs =>
    have hs2 : WellKept s2 := by rwa [hs] at ks
    extract_lets s3
    have hs3 : WellKept s3 := hs2.dropWaiter.onMatrix
    exact .ite hs3.onStrand hs3

theorem WellKept.execMatrixCommandStart {s : State} {core} (h : WellKept s) : KeptOutcome (execMatrixCommandStart core s) := by
  unfold Machine.execMatrixCommandStart
  refine .next ?_
  split
  · split
    · exact h.startHead
    · exact h
  split
  · exact .ite h h.startDirect
  · exact h

theorem WellKept.cmdWrites {s : State} {core slot l} (h : WellKept s) : WellKept (s.cmdWrites core slot l) := h.foldl fun _ _ h => h.winWrite
theorem WellKept.execMatrixCommandComplete {s : State} {core} (h : WellKept s) : KeptOutcome (execMatrixCommandComplete core s) := by
  unfold Machine.execMatrixCommandComplete
  refine .next ?_
  split
  · split
    · exact h.cmdWrites.onStream
    · exact h
  · exact h.cmdWrites.onMatrix.onStrand
  · exact h

theorem WellKept.waitSequencer {s : State} {i c} (h : WellKept s) : WellKept (s.waitSequencer i c) := h.onStrand.onMatrix.onStrand
theorem WellKept.mrunTo {s : State} {o e target} (h : WellKept s) : WellKept (mrunTo o e s target) :=
  .ite (h.runStream fun _ _ _ h => h.seqFault) (h.runStrand fun _ _ h => .ite h.advance (.ite h.raise h.waitSequencer))

theorem WellKept.execMrunStart {s : State} {core} (h : WellKept s) : KeptOutcome (execMrunStart core s) := by
  unfold Machine.execMrunStart
  refine .next ?_
  split
  · exact .ite h h.clearFor.dropWaiter.onMatrix.onStrand
  · exact h

theorem WellKept.execStreamEnd {s : State} {core} (h : WellKept s) : KeptOutcome (execStreamEnd core s) := by
  unfold Machine.execStreamEnd
  refine .next (.ite h ?_)
  split
  · exact h
  extract_lets s
  have hs : WellKept s := h.dissolve.onMatrix
  split
  · exact h.streamFault
  · exact hs.onComb

theorem WellKept.execSequencerFetchFault {s : State} {core} (h : WellKept s) : KeptOutcome (execSequencerFetchFault core s) := by
  unfold Machine.execSequencerFetchFault
  refine .next ?_
  extract_lets id
  split
  · exact h.formBatch.onStream
  · exact h

theorem WellKept.releaseStream {s : State} {core id out} (h : WellKept s) : WellKept (s.releaseStream core id out) := by
  unfold State.releaseStream
  split
  · refine .ite h ?_
    split <;> exact h.onStream
  · exact h

theorem WellKept.execSequencerRestore {s : State} {core slot} (h : WellKept s) : KeptOutcome (execSequencerRestore core slot s) := by
  unfold Machine.execSequencerRestore
  refine .next (.ite h ?_)
  split
  · exact h
  extract_lets s s1
  have hs : WellKept s := h.onMatrix
  have hs1 : WellKept s1 := by
    unfold s1
    split
    · split
      · exact .ite hs.releaseStream hs
      · exact hs.releaseStream
    · exact hs
  exact hs1.resumeRuns

theorem WellKept.execPairTimeout {s : State} {core} (h : WellKept s) : KeptOutcome (execPairTimeout core s) := by
  unfold Machine.execPairTimeout
  refine .next ?_
  split
  · split
    · exact h.cmdFault
    · exact h
  · exact h

theorem WellKept.queueCmd {s : State} {o e} (h : WellKept s) : WellKept (queueCmd o e s) := h.runStream fun _ _ _ h => .ite h h.onStream.seqAdvance
theorem WellKept.streamCommand {s : State} {o e} (h : WellKept s) : WellKept (streamCommand o e s) :=
  .ite h.queueCmd (h.runStrand fun _ _ h => h.effect fun _ _ h1 => h1)

theorem WellKept.directCommand {s : State} {o e} (h : WellKept s) : WellKept (directCommand o e s) :=
  .ite h.queueCmd (h.runStrand fun _ _ h => .ite h.advance (.ite h.raise h.waitSequencer))

theorem WellKept.execMsync {s : State} {e} (h : WellKept s) : KeptOutcome (execMsync e s) :=
  .next (.ite (h.runStream fun _ _ _ h => .ite h.seqFault (.ite h.seqAdvance h)) (h.runStrand fun _ _ h => .ite h.advance (.ite h.onStrand h.onStrand.writeS.advance)))

/-! Leases, extents, pagers and hints. -/

theorem WellKept.execFaultBatchWrite {s : State} {die batch} (h : WellKept s) : KeptOutcome (execFaultBatchWrite die batch s) := by
  unfold Machine.execFaultBatchWrite
  refine .next ?_
  extract_lets p
  split
  · exact h
  · exact .ite h (.ite (h.foldl fun _ _ h => h.fetchLine) (((h.foldl fun _ _ h => h.homeStore).onPager).update))

theorem WellKept.releaseStrand {s : State} {w b} (h : WellKept s) : WellKept (s.releaseStrand w b) := by
  unfold State.releaseStrand
  extract_lets k give
  split
  · exact h.onComb.readyComb
  · exact h.onCore

theorem WellKept.releaseEngine {s : State} {core req b} (h : WellKept s) : WellKept (s.releaseEngine core req b) := by
  unfold State.releaseEngine
  extract_lets k later
  split
  · exact .ite h.releaseReq h.onComb
  · exact h.onCore

theorem WellKept.releaseBatch {s : State} {b} (h : WellKept s) : WellKept (s.releaseBatch b) := by
  unfold State.releaseBatch
  split
  · exact h.releaseStrand
  · exact h.releaseEngine
  · exact h.releaseStream
  · exact h
  · exact h

theorem WellKept.trimPins {s : State} {die n} (h : WellKept s) : WellKept (s.trimPins die n) := by
  induction n generalizing s with
  | zero => exact h
  | succ n ih =>
    unfold State.trimPins
    extract_lets l
    split
    · exact .ite h (ih h.onPage)
    · exact h

theorem WellKept.placePage {s : State} {tier pa} (h : WellKept s) : WellKept (s.placePage tier pa) := by
  unfold State.placePage
  split
  · exact .ite h.onPage h
  · exact h.onPage
  · exact h

theorem WellKept.unplaceHint {s : State} {y1} (h : WellKept s) : WellKept (s.unplaceHint y1) := by
  unfold State.unplaceHint
  refine h.foldl fun _ _ h => ?_
  split
  · exact h.onPage
  · exact h.onPage
  · exact h

theorem WellKept.placeHint {s : State} {y1} (h : WellKept s) : WellKept (s.placeHint y1) := h.foldl fun _ _ h => h.placePage
theorem WellKept.placeHints {s : State} (h : WellKept s) : WellKept (s.placeHints) := h.foldl fun _ _ h => h.placeHint
theorem WellKept.movePage {s : State} {t va p} (h : WellKept s) : WellKept (s.movePage t va p) := by
  unfold State.movePage
  split
  · exact h
  extract_lets place
  split
  · exact h
  · exact .ite h (((h.foldl fun _ _ h => h.homeStore).homeStore).update)

theorem WellKept.copyShared {s : State} {die key value} (h : WellKept s) : WellKept (s.copyShared die key value) := by
  unfold State.copyShared
  refine .ite h (h.foldl fun _ _ h => h.foldl fun _ _ h1 => ?_)
  split
  · split
    · exact .ite h1.movePage h1
    · exact h1
  · exact h1

theorem WellKept.resolve {s : State} {die value} (h : WellKept s) : WellKept (s.resolve die value) :=
  .ite h.copyShared (((h.copyShared.update.foldl fun _ _ h => h.releaseBatch).update).placeHints)

theorem WellKept.execCombFaultResume {s : State} {core} (h : WellKept s) : KeptOutcome (execCombFaultResume core s) := by
  unfold Machine.execCombFaultResume
  refine .next ?_
  split
  · exact h.onCore.resumeParked
  · exact h

theorem WellKept.setLease {s : State} {idx l} (h : WellKept s) : WellKept (s.setLease idx l) := h.frame
theorem WellKept.discardLine {s : State} {x} (h : WellKept s) : WellKept (s.discardLine x) :=
  h.bytes (State.discardLine_wf x h.mem)

theorem WellKept.dropPages {s : State} {l} (h : WellKept s) : WellKept (s.dropPages l) := (h.foldl fun _ _ h => h.recall).mapPages
theorem WellKept.loseLease {s : State} {l} (h : WellKept s) : WellKept (s.loseLease l) := h.clearResvs
theorem WellKept.dropExtent {s : State} {l} (h : WellKept s) : WellKept (s.dropExtent l) := ((h.foldl fun _ _ h => h.discardLine).dropPages).loseLease
theorem WellKept.execLeaseExpire {s : State} {idx} (h : WellKept s) : KeptOutcome (execLeaseExpire idx s) := by
  unfold Machine.execLeaseExpire
  refine .next ?_
  split
  · exact .ite h.loseLease.setLease.count h
  · exact h

theorem WellKept.execLeaseRevokeDeadline {s : State} {idx} (h : WellKept s) : KeptOutcome (execLeaseRevokeDeadline idx s) := by
  unfold Machine.execLeaseRevokeDeadline
  refine .next ?_
  split
  · exact .ite h.dropExtent.setLease h
  · exact h

theorem WellKept.execRevocationNotice {s : State} {idx deadline} (h : WellKept s) : KeptOutcome (execRevocationNotice idx deadline s) := by
  unfold Machine.execRevocationNotice
  refine .next ?_
  split
  · exact .ite h.setLease h
  · exact h

theorem WellKept.failExtent {s : State} {borrowed node idx} (h : WellKept s) : WellKept (s.failExtent borrowed node idx) := by
  unfold State.failExtent
  split
  · exact .ite h.loseLease.setLease.count h
  · exact h

theorem WellKept.failNode {s : State} {borrowed node} (h : WellKept s) : WellKept (s.failNode borrowed node) :=
  .ite (h.foldl fun _ _ h => h.failExtent) ((h.foldl fun _ _ h => h.failExtent).interrupt)

theorem WellKept.fillExtent {s : State} {l keep c} (h : WellKept s) : WellKept (s.fillExtent l keep c) := h.bytes (Mem.wf_writeCells _ (Tab.wf_filter _ h.mem))
theorem WellKept.execLeaseRenew {s : State} {idx expiry} (h : WellKept s) : KeptOutcome (execLeaseRenew idx expiry s) := by
  unfold Machine.execLeaseRenew
  refine .next ?_
  split
  · exact .ite h (.ite h.setLease.placeHints h)
  · exact h

theorem WellKept.execLeaseRemap {s : State} {idx node boff expiry contents} (h : WellKept s) :
    KeptOutcome (execLeaseRemap idx node boff expiry contents s) := by
  unfold Machine.execLeaseRemap
  refine .next ?_
  split
  case h_1 l _ =>
    extract_lets l' dirty filled s1
    have hfilled : WellKept filled := h.fillExtent
    have hs1 : WellKept s1 := hfilled.mapPages
    have hs2 : WellKept (dirty.foldl State.lineCleaned s1) := hs1.foldl fun _ _ h => h.lineCleaned
    exact .ite h (.ite h hs2.setLease.placeHints)
  case h_2 => exact h

theorem WellKept.execLeaseRelease {s : State} {idx} (h : WellKept s) : KeptOutcome (execLeaseRelease idx s) := by
  unfold Machine.execLeaseRelease
  refine .next ?_
  split
  · exact .ite h.dropExtent.setLease h
  · exact h

theorem WellKept.shrinkSets {s : State} {die} (h : WellKept s) : WellKept (s.shrinkSets die) := by
  unfold State.shrinkSets
  refine h.foldl fun _ _ h => ?_
  split
  · split
    · exact h.evictPage
    · exact h
  · exact h

theorem WellKept.execHbmLend {s : State} {die what} (h : WellKept s) : KeptOutcome (execHbmLend die what s) := by
  unfold Machine.execHbmLend
  extract_lets p
  refine .next ?_
  split
  · exact .ite h.onPager h
  · exact .ite h (.ite h h.onPager.shrinkSets)

theorem WellKept.execThint {s : State} {e} (h : WellKept s) : KeptOutcome (execThint e s) := by
  unfold Machine.execThint
  refine .next (h.strandOnly fun _ _ h => ?_)
  extract_lets t x2 old base
  refine .ite h.advance ?_
  split
  · exact h.raise
  split
  · exact h
  extract_lets r s s1 s2
  have hs : WellKept s := h.frame
  have hs1 : WellKept s1 := by
    unfold s1
    clear_value old
    split
    · exact .ite hs.unplaceHint.placeHints hs
    · exact hs
  have hs2 : WellKept s2 := .ite hs1.placeHint hs1
  exact hs2.writeS.advance

theorem WellKept.prefetchPage {s : State} {x} (h : WellKept s) : WellKept (s.prefetchPage x) := .foldl (.ite h.homeMiss h.homeMiss.onPage) fun _ _ h => h.fillL2
theorem WellKept.sendPages {s : State} {w pages} (h : WellKept s) : WellKept (s.sendPages w pages).2 := h.spend.foldl fun _ _ h => h.prefetchPage
theorem WellKept.gprefOn {s : State} {w} (h : WellKept s) : WellKept (s.gprefOn w) := by
  unfold State.gprefOn
  split
  · exact .ite h.sendPages.onStrand h.sendPages.onStrand
  · exact h

theorem WellKept.prefetchFaults {s : State} {w l n} (h : WellKept s) : WellKept (s.prefetchFaults w l n) := by
  induction n generalizing s l with
  | zero => exact h
  | succ n ih => exact .ite h (ih h.formBatch)

theorem WellKept.execGpref {s : State} {e} (h : WellKept s) : KeptOutcome (execGpref e s) := by
  unfold Machine.execGpref
  refine .next ?_
  extract_lets l2
  refine h.strandOnly fun _ _ h => ?_
  extract_lets touches r s n r1
  have hs : WellKept s := .ite h.prefetchFaults h
  have hr1 : WellKept r1.2 := hs.sendPages
  refine .ite h.advance ?_
  split
  · exact h.raise
  · exact .ite h (.ite hr1.writeS.advance hr1.onStrand)

theorem WellKept.lcntRead {s : State} {core t priv clr l} (h : WellKept s) : WellKept (s.lcntRead core t priv clr l).1 := by
  induction l generalizing s with
  | nil => exact h
  | cons x l ih =>
    refine ih ?_
    split
    · exact h
    · exact .ite h.onPage h

theorem WellKept.execLcnt {s : State} {e} (h : WellKept s) : KeptOutcome (execLcnt e s) :=
  .next (h.strandOnly fun _ _ h => .ite h.advance (.ite h h.lcntRead.writeD.advance))

theorem WellKept.portsOn {s : State} {core} (h : WellKept s) : WellKept (s.portsOn core) := by
  unfold State.portsOn
  extract_lets s
  have hs : WellKept s := h.foldl fun _ _ h => h.pump
  refine hs.foldl fun _ _ h => ?_
  split
  · exact h.foldl fun _ _ h1 => h1.gprefOn
  · exact h

/-! The accord. -/

theorem WellKept.onAccord {s : State} {f} (h : WellKept s) : WellKept (s.onAccord f) := h.frame
theorem WellKept.post {s : State} {l} (h : WellKept s) : WellKept (s.post l) := h.frame
theorem WellKept.broadcast {s : State} {n} (h : WellKept s) : WellKept (s.broadcast n) := h.post
theorem WellKept.writeLimit {s : State} {limit} (h : WellKept s) : WellKept (s.writeLimit limit) :=
  .ite h (.ite h.onAccord.broadcast (.ite h.onAccord h.onAccord))

theorem WellKept.execNoticeReceive {s : State} {n} (h : WellKept s) : KeptOutcome (execNoticeReceive n s) := by
  unfold Machine.execNoticeReceive
  refine .next ?_
  extract_lets t tardy s s1
  have hs : WellKept s := h.onAccord
  have hs1 : WellKept s1 := hs.post
  refine .ite h ?_
  split
  · exact h.post
  · exact .ite h (.ite hs1.count hs1)

theorem WellKept.lateNotice {s : State} {t} (h : WellKept s) : WellKept (s.lateNotice t) := h.onAccord.broadcast
theorem WellKept.execEmergencyTrip {s : State} (h : WellKept s) : KeptOutcome (execEmergencyTrip s) := by
  unfold Machine.execEmergencyTrip
  extract_lets s
  have hs : WellKept s := h.onAccord.count
  refine .next ?_
  split
  · exact hs.lateNotice
  · exact hs.onAccord
  · exact hs

theorem WellKept.execHeartbeatSend {s : State} (h : WellKept s) : KeptOutcome (execHeartbeatSend s) := by
  unfold Machine.execHeartbeatSend
  refine .next ?_
  extract_lets t
  split
  · exact h.onAccord.post
  · exact h

theorem WellKept.execHeartbeatReceive {s : State} {y0} (h : WellKept s) : KeptOutcome (execHeartbeatReceive y0 s) := by
  unfold Machine.execHeartbeatReceive
  refine .next ?_
  extract_lets up
  refine .ite h ?_
  split
  · exact h.post
  · exact h.onAccord

theorem WellKept.execMemberRemoval {s : State} {dev} (h : WellKept s) : KeptOutcome (execMemberRemoval dev s) := by
  unfold Machine.execMemberRemoval
  refine .next ?_
  split
  · exact h.onAccord
  · exact h

theorem WellKept.isolate {s : State} (h : WellKept s) : WellKept (s.isolate) := h.onAccord
theorem WellKept.writeAccctl {s : State} {value} (h : WellKept s) : WellKept (s.writeAccctl value) := h.onAccord
theorem WellKept.beginJoin {s : State} {sponsor} (h : WellKept s) : WellKept (s.beginJoin sponsor) := .ite h h.onAccord.post
theorem WellKept.found {s : State} (h : WellKept s) : WellKept (s.found) := .ite h h.onAccord
theorem WellKept.execSnapshotReceive {s : State} {table adopt} (h : WellKept s) : KeptOutcome (execSnapshotReceive table adopt s) := by
  unfold Machine.execSnapshotReceive
  refine .next ?_
  split
  · exact .ite h h.onAccord
  · exact h

theorem WellKept.failJoin {s : State} {err} (h : WellKept s) : WellKept (s.failJoin err) := by
  unfold State.failJoin
  split
  · exact h.onAccord
  · exact h

theorem WellKept.execAdoption {s : State} (h : WellKept s) : KeptOutcome (execAdoption s) := by
  unfold Machine.execAdoption
  refine .next ?_
  extract_lets t late take s
  have hs : WellKept s := h.onAccord
  refine .ite h ?_
  clear_value late
  split
  · exact hs.lateNotice
  · exact hs

theorem WellKept.beginLeave {s : State} (h : WellKept s) : WellKept (s.beginLeave) := .ite h h.onAccord.broadcast

/-! Contexts, commands, removal and restart. -/

theorem WellKept.execSrd {s : State} {e} (h : WellKept s) : KeptOutcome (execSrd e s) := by
  unfold Machine.execSrd
  refine .next (h.strandOnly fun _ _ h => h.effect fun _ _ h1 => ?_)
  extract_lets v lo hi
  split
  · exact h1.writeS
  · exact h1.writeS
  · exact h1.writeS.writeS

theorem WellKept.execWait {s : State} {e} (h : WellKept s) : KeptOutcome (execWait e s) := by
  unfold Machine.execWait
  refine .next (h.strandOnly fun _ _ h => .ite h.advance ?_)
  split
  · exact h.raise
  · exact h.onStrand.onStrand

theorem WellKept.execWaitWake {s : State} {w} (h : WellKept s) : KeptOutcome (execWaitWake w s) := by
  unfold Machine.execWaitWake
  refine .next ?_
  split
  · exact .ite h.onStrand h
  · exact h

theorem WellKept.execCtxsv {s : State} {e} (h : WellKept s) : KeptOutcome (execCtxsv e s) := by
  unfold Machine.execCtxsv
  refine .next (h.strandOnly fun _ _ h => ?_)
  extract_lets a k
  refine .ite h.advance ?_
  split
  · exact h.raise
  · exact .ite h (h.access fun _ _ _ h1 => .ite h1.advance ((h1.onStrand.foldl fun _ _ h2 => h2.storeSpot).advance))

theorem WellKept.execCtxld {s : State} {e} (h : WellKept s) : KeptOutcome (execCtxld e s) := by
  unfold Machine.execCtxld
  refine .next (h.strandOnly fun _ _ h => ?_)
  extract_lets a
  refine .ite h.advance ?_
  split
  · exact h.raise
  refine .ite h (h.access fun _ _ _ h1 => ?_)
  extract_lets lines waits pay s m
  have hpay : WellKept pay.2 := h1.payIssue
  refine .ite h1.advance ?_
  refine .ite (h1.foldl fun _ _ h2 => h2.fetchLine) (.ite hpay ?_)
  split
  · exact hpay.raise
  · exact ((hpay.foldl fun _ _ h2 => h2.atHome.countAccess.forget).onStrand).advance

theorem WellKept.onContext {s : State} {c f} (h : WellKept s) : WellKept (s.onContext c f) := h.frame
theorem WellKept.abortKicks {s : State} {core slot} (h : WellKept s) : WellKept (s.abortKicks core slot) :=
  h.onCore.foldl fun _ _ h => (h.foldl fun _ _ h1 => h1.abort).onStrand

theorem WellKept.abortAll {s : State} {core slot} (h : WellKept s) : WellKept (s.abortAll core slot) := (h.foldl fun _ _ h => h.abort).abortKicks
theorem WellKept.loseContext {s : State} {c} (h : WellKept s) : WellKept (s.loseContext c) :=
  (((h.foldl fun _ _ h => h.abortAll).onContext).foldl fun _ _ h => h.onComb).update

theorem WellKept.execTdispRequest {s : State} {ctx req} (h : WellKept s) : KeptOutcome (execTdispRequest ctx req s) := by
  unfold Machine.execTdispRequest
  extract_lets x leave
  refine .next (.ite h ?_)
  split
  · exact h.onContext
  · exact h.onContext
  · exact .onContext (.ite h.loseContext h)
  · exact .onContext (.ite h.loseContext h)
  · exact h

theorem WellKept.execSpdmRequest {s : State} {ctx req} (h : WellKept s) : KeptOutcome (execSpdmRequest ctx req s) := by
  unfold Machine.execSpdmRequest
  extract_lets x base
  refine .next (.ite h ?_)
  split
  · exact .ite h h.onContext
  · exact .ite h.onContext h
  · exact .ite h.loseContext h
  · exact .ite h h.frame

theorem WellKept.eraseKeys {s : State} (h : WellKept s) : WellKept (s.eraseKeys) := h.foldl fun _ _ h => h.loseContext
theorem WellKept.alarm {s : State} {a} (h : WellKept s) : WellKept (s.alarm a) :=
  .ite (.update (.ite h.frame.count.eraseKeys h.frame.count)) (.ite h.frame.count.eraseKeys h.frame.count)

theorem WellKept.freeStopEntry {s : State} {k} (h : WellKept s) : WellKept (s.freeStopEntry k) := h.frame
theorem WellKept.dbgResult {s : State} {op entry err} (h : WellKept s) : WellKept (s.dbgResult op entry err) := h.frame
theorem WellKept.dbgWait {s : State} {op entry} (h : WellKept s) : WellKept (s.dbgWait op entry) := .again (.ite h h.frame)
theorem WellKept.resumeStop {s : State} {k} (h : WellKept s) : WellKept (s.resumeStop k) := by
  unfold State.resumeStop
  split
  · exact h
  · exact h.freeStopEntry.onStrand

theorem WellKept.onStop {s : State} {op k f} (h : WellKept s) (hf : ∀ x, WellKept (f x)) : WellKept (s.onStop op k f) := by
  unfold State.onStop
  split
  · exact h.alarm
  split
  · exact h.dbgResult
  · exact hf _

theorem WellKept.dbgRun {s : State} {entry} (h : WellKept s) : WellKept (s.dbgRun entry) := h.onStop fun _ => h.resumeStop.dbgResult
theorem WellKept.dbgTrap {s : State} {entry} (h : WellKept s) : WellKept (s.dbgTrap entry) :=
  h.onStop fun _ => .ite h.dbgWait h.freeStopEntry.onStrand.takeTrap.dbgResult

theorem WellKept.dbgStore {s : State} {entry} (h : WellKept s) : WellKept (s.dbgStore entry) := by
  unfold State.dbgStore
  extract_lets pa
  refine h.onStop fun _ => ?_
  extract_lets st waits
  exact .ite h.dbgResult (.ite ((h.foldl fun _ _ h => h.fetchLine).dbgWait) ((h.foldl fun _ _ h => h.homeStore).dbgResult))

theorem WellKept.dbgFetch {s : State} {entry} (h : WellKept s) : WellKept (s.dbgFetch entry) := by
  unfold State.dbgFetch
  extract_lets pa
  refine h.onStop fun _ => ?_
  extract_lets st waits s m
  have hs : WellKept s := h.foldl fun _ _ h => h.atHome
  refine .ite h.dbgResult (.ite ((h.foldl fun _ _ h => h.fetchLine).dbgWait) ?_)
  split
  · exact hs.dbgResult
  · exact hs.onStrand.dbgResult

theorem WellKept.resumeStops {s : State} (h : WellKept s) : WellKept (s.resumeStops) := h.foldl fun _ _ h => h.resumeStop
theorem WellKept.writeDbgatt {s : State} {value} (h : WellKept s) : WellKept (s.writeDbgatt value) := .ite h.alarm (.ite h.frame h.frame.resumeStops)
theorem WellKept.lockDebug {s : State} (h : WellKept s) : WellKept (s.lockDebug) := h.frame.resumeStops

/-! The management space, the debug block and sandboxed accesses. -/

theorem WellKept.answer {s : State} {x} (h : WellKept s) : WellKept (s.answer x) := h.frame
theorem WellKept.execHostCxlMemAccess {s : State} {write pa size value} (h : WellKept s) : KeptOutcome (execHostCxlMemAccess write pa size value s) := by
  unfold Machine.execHostCxlMemAccess
  refine .next ?_
  extract_lets line
  refine h.fromHost fun _ h => ?_
  extract_lets s s1 base
  have hs : WellKept s := h.atHome.countAccess
  have hs1 : WellKept s1 := hs.homeWrite
  exact .ite h (.ite h.answer (.ite h.fetchLine.again (.ite hs1.update.answer hs.answer)))

theorem WellKept.afterAbsorption {s : State} {f} (h : WellKept s) (hf : ∀ s, WellKept s → WellKept (f s)) : WellKept (s.afterAbsorption f) :=
  h.fromHost fun _ h => .ite (hf _ h.frame) h.again

theorem WellKept.debugCommand {s : State} {op entry} (h : WellKept s) : WellKept (s.debugCommand op entry) := by
  unfold State.debugCommand
  split
  · exact h.dbgRun
  · exact h.dbgTrap
  · exact h.dbgStore
  · exact h.dbgFetch
  · exact .ite h.alarm h.dbgResult

theorem WellKept.writeMgmt {s : State} {r v} (h : WellKept s) : WellKept (s.writeMgmt r v) := by
  unfold State.writeMgmt
  cases r with
  | tdbase | cmd | cmdarg | wtbase | secpol | secstat => exact h.update
  | dbgctl => exact .ite h.lockDebug h
  | dbgatt => exact h.writeDbgatt
  | dbgcmd => exact h.debugCommand
  | dbgarg => exact (WellKept.ite h.alarm h).update
  | dbgstat | stop => exact .ite h.alarm h
  | qctl | qbase => exact h.onQueue
  | fqbase | fqctl | fqhead | fqres0 | tierctl | lendmax => exact h.onPager
  | fqres1 => exact h.resolve
  | pinmax => exact h.onPager.trimPins
  | accctl => exact h.writeAccctl
  | acclim => exact h.onAccord.writeLimit
  | acccmd =>
    dsimp only
    split
    · exact h.beginJoin
    · exact h.beginLeave
    · exact h
  | dqctl | dqbase => exact h.onDrone
  | binding => exact h.onNotify
  | bwctl | bwt | slice => exact h.onCore
  | slcmd => exact .ite h.endSlice h
  | route => exact h.updateFabric
  | window => exact ⟨h.mem, h.pages, Tab.wf_put _ _ h.windows⟩
  | devstat | corestat | cmdstat | hlogtail | hlog | fqtail | accstat | lease | life | bins => exact h

theorem WellKept.debugAccess {s : State} {off} (h : WellKept s) : WellKept (s.debugAccess off) := .ite h.alarm h
theorem WellKept.mgmtWrite {s : State} {off size value} (h : WellKept s) : WellKept (s.mgmtWrite off size value) := by
  unfold State.mgmtWrite
  extract_lets high new
  refine .ite h ?_
  split
  · exact h.debugAccess
  · exact .ite h.writeMgmt (.ite h h.writeMgmt)

theorem WellKept.commandDone {s : State} (h : WellKept s) : WellKept (s.commandDone) := h.frame
theorem WellKept.execSummary {s : State} (h : WellKept s) : KeptOutcome (execSummary s) :=
  .next (.ite h (.ite (h.foldl fun _ _ h => h.fetchLine) (((h.foldl fun _ _ h => h.homeStore).update).commandDone)))

theorem WellKept.noteRemoval {s : State} (h : WellKept s) : WellKept (s.noteRemoval) := h.frame.count
theorem WellKept.removeCompute {s : State} {c} (h : WellKept s) : WellKept (s.removeCompute c) :=
  (((((h.foldl fun _ _ h => h.logHalt).foldl fun _ _ h => h.dropStops).onCore).onMem).update).noteRemoval

theorem WellKept.removeDrone {s : State} {d} (h : WellKept s) : WellKept (s.removeDrone d) := h.frame.noteRemoval
theorem WellKept.removeCore {s : State} {c} (h : WellKept s) : WellKept (s.removeCore c) :=
  .ite (.ite h h.removeCompute) (.ite (.ite h h.removeDrone) (.ite (.ite h h.frame.noteRemoval) h))

theorem WellKept.restart {s : State} {life lock} (h : WellKept s) : WellKept (s.restart life lock) := ⟨Tab.wf_filter _ h.mem, rfl, rfl⟩
theorem WellKept.bringUp {s : State} {stages failed} (h : WellKept s) : WellKept (s.bringUp stages failed) :=
  .ite h (.ite h.frame ((h.frame.foldl fun _ _ h => h.removeCore).update))

theorem WellKept.onApp {s : State} {a f} (h : WellKept s) : WellKept (s.onApp a f) := h.frame
theorem WellKept.appLoads {s : State} {app v bad} (h : WellKept s) : WellKept (s.appLoads app v bad) := h.onApp
theorem WellKept.appFault {s : State} {app access va} (h : WellKept s) : WellKept (s.appFault app access va) := h.onApp
theorem WellKept.appMemory {s : State} {app store pa size v} (h : WellKept s) : WellKept (s.appMemory app store pa size v) :=
  .ite h.fetchLine.again (.ite h.atHome.countAccess.homeWrite.onApp h.atHome.countAccess.appLoads)

theorem WellKept.appAccess {s : State} {app access va pa size value} (h : WellKept s) : WellKept (s.appAccess app access va pa size value) := by
  unfold State.appAccess
  extract_lets store off
  refine .ite h ?_
  split
  · exact .ite h.appMemory h.appFault
  · exact .ite h.appMemory h.appFault
  · exact .ite h.mgmtWrite h.appLoads
  · exact .ite h.appLoads (.ite (.ite h.bump h.again) h)
  · exact h.appFault

theorem WellKept.execSandboxAccess {s : State} {app access how va pa} (h : WellKept s) : KeptOutcome (execSandboxAccess app access how va pa s) := by
  unfold Machine.execSandboxAccess
  extract_lets x mode fill walled page
  refine .next (.ite h ?_)
  split
  · exact .ite h.appLoads h.appFault
  · exact .ite h.onApp h.appFault
  · exact .ite h.onApp.appFault (.ite h h.onApp.appAccess)

theorem WellKept.droneCount {s : State} {x queue} (h : WellKept s) : WellKept (s.droneCount x queue) :=
  .ite h ((h.foldl fun _ _ h => h.engineCount.onComb).onCore)

theorem WellKept.execDroneEntryComplete {s : State} {queue seq status moved writes} (h : WellKept s) :
    KeptOutcome (execDroneEntryComplete queue seq status moved writes s) := by
  unfold Machine.execDroneEntryComplete
  extract_lets q
  refine .next ?_
  split
  · exact h
  extract_lets data
  refine .ite h.again ?_
  split
  · exact h.again
  extract_lets lines waits t s s1 s2 base
  have ht : WellKept t := h.foldl fun _ _ h => h.atHome
  have hs : WellKept s := ht.homeCells
  have hs1 : WellKept s1 := hs.foldl fun _ _ h => .ite h.lineCleaned h
  have hs2 : WellKept s2 := hs1.onDrone.droneCount
  exact .ite ((h.foldl fun _ _ h => h.fetchLine).again) (.ite ht.again (.ite hs2.update hs2))

/-! The turn of the machine. -/

theorem WellKept.tick {s : State} (h : WellKept s) : WellKept (s.tick) := h.frame
theorem WellKept.takeSlot {s : State} {w o e} (h : WellKept s) : WellKept (s.takeSlot w o e) := h.onCore
theorem WellKept.requeue {s : State} {i} (h : WellKept s) : WellKept (State.requeue i s) := by
  unfold State.requeue
  split
  · exact h.frame
  · exact h.frame
  · exact h

/-! Every instruction. -/

theorem WellKept.exec {s : State} {i} (h : WellKept s) : KeptOutcome (exec i s) := by
  cases i with
  | mov | movi | laneid | aff | prom | add | sub | adds | subs | neg | abs | mul | mulh | mulhu | mad | div | divu | rem | remu | min | max | minu |
    maxu | clamp | and | or | xor | andn | not | shl | shr | sar | rol | bfx | bfi | popc | clz | brev | lea | setc | sel | dot4 => exact .next h.compute
  | dema | wbase | popm | sspset | modeset | part | idem | qsub | swr => exact .next (h.strandOnly fun _ _ h => h.effect fun _ _ h1 => h1.onStrand)
  | dems | wget | sspget | kpop | kff | modeget | ftest | cellrd => exact .next (h.strandOnly fun _ _ h => h.effect fun _ _ h1 => h1.writeS)
  | kmov | kand | kor | kxor | knot | fclass | unpk | matchLanes => exact .next (h.strandOnly fun _ _ h => h.effect fun _ _ h1 => h1.writeD)
  | mmap | munf | mma | mdist | mtopk | mpair | msplit | mepi => exact .next h.streamCommand
  | atom | atomn | cas | atomf | xadd | xclr => exact .next (h.strandOnly fun _ _ h => h.atomic)
  | passedOverLimit | linkDown | linkUp | packetTransit => exact .next (.ite h.frame h)
  | cvt | cvti | pack => exact .next (h.strandOnly fun _ _ h => h.effect fun _ _ h1 => h1.writeD.steppedIf)
  | mzero | mldz | mdrain => exact .next h.directCommand
  | fairnessBurst | burstEnd | farMissPark => exact .next (.ite h.onStrand h)
  | br | brd => exact .next (h.strandOnly fun _ _ h => h.moveTo)
  | jmpi | calli => exact .next (h.strandOnly fun _ _ h => h.jumpReg)
  | ld | ldg => exact .next (h.strandOnly fun _ _ h => h.load)
  | st | sts => exact .next (h.strandOnly fun _ _ h => h.store)
  | mxld | mxst => exact .next (h.strandOnly fun _ _ h => h.mx)
  | bbinit | bbadd => exact .next h.bbWrite
  | mrun | mrunReg => exact .next h.mrunTo
  | fget | fput => exact .next (h.strandOnly fun _ _ h => h.fabCopy)
  | removedMessage | accordIsolation => exact .next (.ite h.isolate h)
  | joinTimeout | sponsorRefusal => exact .next (.ite h.failJoin h)
  | tamperAlarm | glitchAlarm => exact .next h.alarm
  | nop => exact h.execNop
  | pushm => exact h.execPushm
  | addc => exact h.execAddc
  | cmp => exact .next h.compareInto
  | fadd => exact h.execFadd
  | fsub => exact h.execFsub
  | fmul => exact h.execFmul
  | ffma => exact h.execFfma
  | fmin => exact h.execFmin
  | fmax => exact h.execFmax
  | fabs => exact h.execFabs
  | fneg => exact h.execFneg
  | fcmp => exact .next (.ite (h.runStream fun _ _ _ h => h) h.compareInto)
  | frcp => exact h.execFrcp
  | frsq => exact h.execFrsq
  | fsqrt => exact h.execFsqrt
  | fdiv => exact h.execFdiv
  | fexp2 => exact h.execFexp2
  | flog2 => exact h.execFlog2
  | fsin => exact h.execFsin
  | fcos => exact h.execFcos
  | ftbl => exact .next (h.strandOnly fun _ _ h => h.effect fun _ _ h1 => h1.writeD.stepped)
  | tload => exact h.execTload
  | tflip => exact h.execTflip
  | vote => exact h.execVote
  | shuf => exact h.execShuf
  | perm => exact h.execPerm
  | bcast => exact h.execBcast
  | redu => exact h.execRedu
  | scan => exact h.execScan
  | bru => exact h.execBru
  | jmp => exact h.execJmp
  | call => exact h.execCall
  | ret => exact h.execRet
  | exit => exact h.execExit
  | yield => exact h.execYield
  | trap => exact .next (h.strandOnly fun _ _ h => h.effect fun _ _ h1 => h1)
  | brk => exact h.execBrk
  | pref => exact h.execPref
  | ldc => exact h.execLdc
  | fence => exact h.execFence
  | fwait => exact .next (h.strandOnly fun _ _ h => .ite h.advance h.onStrand)
  | barc => exact h.execBarc
  | lres => exact h.execLres
  | scnd => exact h.execScnd
  | lease => exact h.execLease
  | gtime => exact h.execGtime
  | xread => exact .next (h.strandOnly fun _ _ h => .ite h.atomic.stepped h.atomic)
  | mcas => exact h.execMcas
  | kick => exact h.execKick
  | bbwait => exact h.execBbwait
  | bbtest => exact h.execBbtest
  | gset => exact h.execGset
  | rlq => exact h.execRlq
  | msync => exact h.execMsync
  | spawn => exact .next (h.strandOnly fun _ _ h => h.checkRecord fun _ _ _ h1 => h1.holdJob)
  | spawnn => exact h.execSpawnn
  | join => exact h.execJoin
  | park => exact h.execPark
  | notify => exact h.execNotify
  | done => exact .next (h.strandOnly fun _ _ h => h.effect fun _ _ h1 => h1.markDone)
  | gpref => exact h.execGpref
  | thint => exact h.execThint
  | lcnt => exact h.execLcnt
  | fmsg => exact h.execFmsg
  | fsync => exact h.execFsync
  | srd => exact h.execSrd
  | tret => exact .next (h.strandOnly fun _ _ h => .ite h.raise h.onStrand)
  | sysc => exact .next (h.strandOnly fun _ _ h => .ite h.advance (.ite h.takeTrap h))
  | ctxsv => exact h.execCtxsv
  | ctxld => exact h.execCtxld
  | wait => exact h.execWait
  | halt => exact .next (h.strandOnly fun _ _ h => .ite h.advance h.onComb.dropStops.logHalt)
  | asyncFaultDelivery => exact h.execAsyncFaultDelivery
  | runAheadEnd => exact .next (.ite h.endAhead h)
  | strandRetire => exact h.execStrandRetire
  | cellDispatch => exact h.execCellDispatch
  | levelRoomEnqueue => exact h.execLevelRoomEnqueue
  | swarmCompletionReport => exact h.execSwarmCompletionReport
  | combRetire => exact h.execCombRetire
  | sliceBegin => exact h.execSliceBegin
  | sliceExpiry => exact h.execSliceExpiry
  | slcmdEnd => exact .next (h.fromHost fun _ h => h.endSlice)
  | combImageComplete => exact .next (.ite h.saveComb h)
  | combResume => exact h.execCombResume
  | tloadProceed => exact h.execTloadProceed
  | wcbDrain => exact h.execWcbDrain
  | wcbIdleDrain => exact h.execWcbIdleDrain
  | homeStoreApply => exact h.execHomeStoreApply
  | storeAck => exact h.execStoreAck
  | loadFill => exact h.execLoadFill
  | pageFill => exact .next (.ite (.ite h.onPage.fillL2 h.onPage) h)
  | writebackAck => exact .next (.ite h.lineCleaned h)
  | lateWritebackArrival => exact h.execLateWritebackArrival
  | directoryMerge => exact h.execDirectoryMerge
  | reservationExpiry => exact h.execReservationExpiry
  | fenceTokenWrite => exact .next h.writeToken
  | fwaitWake => exact h.execFwaitWake
  | barcRelease => exact .next (.ite (h.foldl fun _ _ h => h.onStrand) h)
  | bbwaitWake => exact h.execBbwaitWake
  | waitWake => exact h.execWaitWake
  | atomicExecute => exact h.execAtomicExecute
  | atomicResponse => exact h.execAtomicResponse
  | mcasLockPhase => exact h.execMcasLockPhase
  | mcasCommit => exact h.execMcasCommit
  | hostSnoop => exact .next (.ite h (.ite h.again (.ite h.hostStore h.withdraw)))
  | snoopResponse => exact h.execSnoopResponse
  | backInvalidate => exact h.execBackInvalidate
  | hostCxlMemAccess => exact h.execHostCxlMemAccess
  | poisonDetect => exact h.execPoisonDetect
  | faultBatchWrite => exact h.execFaultBatchWrite
  | fqres1Resolve => exact .next (h.fromHost fun _ h => h.resolve)
  | combFaultResume => exact h.execCombFaultResume
  | leaseExpire => exact h.execLeaseExpire
  | leaseRevokeDeadline => exact h.execLeaseRevokeDeadline
  | revocationNotice => exact h.execRevocationNotice
  | poolNodeLost => exact .next (.ite h.again h.failNode)
  | leaseAcquire => exact .next (.ite h.fillExtent.setLease.placeHints h)
  | leaseRenew => exact h.execLeaseRenew
  | leaseRemap => exact h.execLeaseRemap
  | leaseRelease => exact h.execLeaseRelease
  | counterHalving => exact .next (.ite h h.mapPages.onPager)
  | kickRegister => exact h.execKickRegister
  | copyRequestStart => exact h.execCopyRequestStart
  | copyChunk => exact h.execCopyChunk
  | droneQsubResponse => exact h.execDroneQsubResponse
  | droneEntryComplete => exact h.execDroneEntryComplete
  | fabricMessageReceive => exact h.execFabricMessageReceive
  | mrunStart => exact h.execMrunStart
  | matrixCommandStart => exact h.execMatrixCommandStart
  | matrixCommandComplete => exact h.execMatrixCommandComplete
  | streamEnd => exact h.execStreamEnd
  | sequencerFetchFault => exact h.execSequencerFetchFault
  | sequencerRestore => exact h.execSequencerRestore
  | mpairStart => exact .next (.ite h h.onStream.onStream)
  | pairTimeout => exact h.execPairTimeout
  | fabricRequestArrival => exact h.execFabricRequestArrival
  | fabricResponseArrival => exact h.execFabricResponseArrival
  | fabricResend => exact h.execFabricResend
  | fabricTimeout => exact h.execFabricTimeout
  | fabricUnreachable => exact .next (.ite h.failAll.failNode.pump h)
  | limitNotice => exact .next (h.fromHost fun _ h => h.writeLimit)
  | noticeReceive => exact h.execNoticeReceive
  | limitApply => exact .next h.onAccord
  | heartbeatSend => exact h.execHeartbeatSend
  | heartbeatReceive => exact h.execHeartbeatReceive
  | memberRemoval => exact h.execMemberRemoval
  | emergencyTrip => exact h.execEmergencyTrip
  | accordJoin => exact .next (h.fromHost fun _ h => h.beginJoin)
  | joinRequestReceive => exact .next (.ite h.post h.found.post.onAccord.broadcast.onAccord)
  | snapshotReceive => exact h.execSnapshotReceive
  | adoption => exact h.execAdoption
  | accordLeave => exact .next (h.fromHost fun _ h => h.beginLeave)
  | leaveEffective => exact .next (.ite h (.ite h.onAccord h.onAccord))
  | syncWrite => exact .next (h.afterAbsorption fun _ h => h.frame)
  | doorbellNotify => exact .next (h.afterAbsorption fun _ h => .ite h.bump h)
  | summary => exact h.execSummary
  | inval => exact .next (.ite h h.frame.commandDone)
  | remove => exact .next (.ite h.removeCore.commandDone h)
  | reset => exact .next (.ite h.restart.count.interrupt h)
  | mgmtCommandComplete => exact .next (.ite h.frame.interrupt h)
  | dbgResume => exact .next (h.fromHost fun _ h => h.dbgRun)
  | dbgDeliver => exact .next (h.fromHost fun _ h => h.dbgTrap)
  | dbgSave => exact .next (h.fromHost fun _ h => h.dbgStore)
  | dbgLoad => exact .next (h.fromHost fun _ h => h.dbgFetch)
  | dbgattWrite => exact .next (h.fromHost fun _ h => h.writeDbgatt)
  | mgmtRegisterWrite => exact .next (h.fromHost fun _ h => h.mgmtWrite)
  | coreInternalError => exact .next (.ite h.removeCore.interrupt h)
  | bringUp => exact .next h.bringUp
  | lifeCounterFlush => exact .next (.ite h h.frame)
  | contextLoss => exact .next (.ite h.loseContext.onContext h)
  | spdmHeartbeatTimeout => exact .next (.ite h.loseContext h)
  | keySlotLoad => exact .next (.ite h.onContext h)
  | bandwidthRefill => exact .next (.ite h h.onCore.portsOn)
  | loadPerform => exact h.execLoadPerform
  | deviceScopeTermReached => exact h.execDeviceScopeTermReached
  | accctlEnWrite => exact .next (h.fromHost fun _ h => h.writeAccctl)
  | tdispRequest => exact h.execTdispRequest
  | spdmRequest => exact h.execSpdmRequest
  | sandboxAccess => exact h.execSandboxAccess
  | sfenceVma => exact .next (.ite h.onApp h)
  | dbgctlLockWrite => exact .next (h.fromHost fun _ h => h.lockDebug)
  | powerLoss => exact .next h.restart
  | hbmLend => exact h.execHbmLend

/-! Every step. -/

theorem KeptOutcome.after {f : State → State} {o} (h : KeptOutcome o) (hf : ∀ s, WellKept s → WellKept (f s)) : KeptOutcome (after f o) := by
  cases h with
  | next h => exact .next (hf _ h)

theorem KeptOutcome.of_next {o : Host.Outcome State Fault Refusal} {t : State} (h : KeptOutcome o) (ht : o = .next t) : WellKept t := by
  subst ht
  cases h with
  | next h => exact h

theorem WellKept.issueInstr {s : State} {i} (h : WellKept s) : KeptOutcome (s.issueInstr i) := by
  unfold State.issueInstr
  split
  · exact h.exec
  split
  · exact h.takeSlot.exec
  · exact .next h

theorem WellKept.runStrandAt {s : State} {w} (h : WellKept s) : KeptOutcome (s.runStrandAt w) := by
  unfold State.runStrandAt
  extract_lets s1 f
  have hf : WellKept f.2 := h.update.fetchStrand
  split
  · exact hf.issueInstr
  · exact .next hf.fetchFault

theorem WellKept.runStreamAt {s : State} {core} (h : WellKept s) : KeptOutcome (s.runStreamAt core) := by
  unfold State.runStreamAt
  split
  · exact .next h
  extract_lets s1 f
  have hf : WellKept f.2 := h.update.fetchStream
  split
  · exact hf.issueInstr
  · exact .next hf.seqFault
  · exact hf.exec
  · exact .next hf

theorem WellKept.runInput {s : State} (h : WellKept s) : KeptOutcome s.runInput := by
  unfold State.runInput
  split
  · exact .next h
  · exact h.update.exec.after fun _ h => h.requeue

theorem WellKept.run {s : State} {m} (h : WellKept s) : KeptOutcome (s.run m) := by
  cases m with
  | issue => exact h.runStrandAt
  | stream => exact h.runStreamAt
  | event => exact h.exec
  | enter => exact .next h.enterPending
  | drain => exact .next h.drainComb
  | cut => exact .next h.cutComb
  | dropRegion => exact .next h.dropRegion
  | evict => exact .next h.evictOwned
  | displace => exact .next (.ite h.displaceL2 h)
  | port => exact .next h.portsOn
  | settle => exact .next h.movePage
  | boot => exact .next h.bringUp
  | input => exact h.runInput

theorem WellKept.step {s : State} (h : WellKept s) : KeptOutcome (step s) := by
  unfold Machine.step
  split
  · exact .next h.tick
  · exact h.run.after fun _ h => h.tick

/-- The one-instruction machine has its two words in memory, three pages in its table and no windows. -/
theorem wellKept_withFetchWord (s : State) (nbits w : Nat) : WellKept (s.withFetchWord nbits w) :=
  ⟨State.withFetchWord_wf s nbits w, rfl, rfl⟩

/-- Settles O5: a rule for every operation of the model, folded along the dispatch of `exec` and the choice of `step`. -/
theorem stepKeepsForm : Obligations.StepKeepsForm :=
  ⟨fun _ _ h ht => h.step.of_next ht, fun _ _ _ h ht => h.exec.of_next ht, wellKept_withFetchWord⟩

end Sys2Proof.Safety

end

section
/-! The refutation of O3: a fetch whose fill takes a line from a full slice of the home L2, in a state that lists a core twice. -/

namespace Sys2Proof

/-- A table with one value at each of these keys. -/
def Tab.listing {α : Type} (keys : List Nat) (v : α) : Tab α := keys.map fun k => (k, v)

theorem Tab.get_listing {α : Type} {d v : α} {i : Nat} : ∀ {keys : List Nat}, Tab.get d (Tab.listing keys v) i = if i ∈ keys then v else d
  | [] => rfl
  | k :: keys => by
    have ih := Tab.get_listing (d := d) (v := v) (i := i) (keys := keys)
    simp only [Tab.listing, List.map_cons, Tab.get, List.mem_cons] at ih ⊢
    by_cases h : k = i
    · simp [h]
    · simp [h, Ne.symm h, ih]

theorem Tab.keys_listing {α : Type} (keys : List Nat) (v : α) : Tab.keys (Tab.listing keys v) = keys := by
  simp [Tab.keys, Tab.listing, Function.comp_def]

end Sys2Proof

namespace Sys2Proof.Machine
open Sys2Proof

/-! Homes, and fetches that no cached copy serves. -/

/-- The home die of a PA is that of its 64 KiB page (R179). -/
theorem homeDie_of_page (pa : Nat) : homeDie (65536 * (pa / 65536)) = homeDie pa := by
  have host : isHost (65536 * (pa / 65536)) = isHost pa := by
    unfold isHost; congr 1 <;> exact decide_eq_decide.mpr (by omega)
  have page : bits (65536 * (pa / 65536)) 47 16 = bits pa 47 16 := by unfold bits; omega
  unfold homeDie
  rw [host, page]

/-- The home slice of a PA is that of its 64 KiB page (R179). -/
theorem homeSlice_of_page (pa : Nat) : homeSlice (65536 * (pa / 65536)) = homeSlice pa := by
  have page : bits (65536 * (pa / 65536)) 47 16 = bits pa 47 16 := by unfold bits; omega
  unfold homeSlice
  rw [page]

/-- Where there is a line, one gives way. -/
theorem displaced_mem {l : List Nat} (h : 0 < l.length) (turn : Nat) : ∃ v ∈ l, displaced l turn = some v := by
  have lt := Nat.mod_lt (Config.displaced turn) h
  exact ⟨l[Config.displaced turn % l.length], List.getElem_mem lt, List.getElem?_eq_getElem lt⟩

/-- Only host lines are held for the host. -/
theorem State.holdHost_device {s : State} {line how : Nat} (h : isHost line = false) : s.holdHost line how = s := by
  rw [State.holdHost, h]
  rfl

/-- A word of code of which the core has no live copy comes from its home, once the translation is remembered (R481). -/
theorem State.codeWord_of_no_copy {s : State} {core : Nat} {t : BitVec 16} {priv : Bool} {origin va pa : Nat} (ht : s.translate core t priv .fetch va = .ok pa)
    (hc : liveCopy (s.core core).icache (sectorOf pa) s.clock.gt = none) :
    ∃ word, s.codeWord core t priv origin va = (s.remember core t va).missCode core pa word := by
  rw [State.codeWord, ht]
  dsimp only
  rw [hc]
  exact ⟨_, rfl⟩

/-! Lines that fill a slice. -/

/-- The numbers of `n` lines of the slice of line 0x10000: 1,024 lines of each page 1 + 131584 a, whose bits for a cancel in the hash of R179. -/
def sameSlice (n : Nat) : List Nat := (List.range n).map fun k => 1024 * (1 + 131584 * (k / 1024 + 1)) + k % 1024

/-- The numbers of as many lines as the slice has room for. -/
@[irreducible] def fullSlice : List Nat := sameSlice l2Lines

theorem length_fullSlice : fullSlice.length = l2Lines := by
  unfold fullSlice
  rw [sameSlice, List.length_map, List.length_range]

theorem page_of_sameSlice {n x : Nat} (hn : n ≤ 32768) (h : x ∈ sameSlice n) : ∃ a < 32, 64 * x / 65536 = 1 + 131584 * (a + 1) := by
  obtain ⟨k, hk, rfl⟩ := List.mem_map.mp h
  have hk := List.mem_range.mp hk
  exact ⟨k / 1024, by omega, by omega⟩

theorem page_of_fullSlice {x : Nat} (h : x ∈ fullSlice) : ∃ a < 32, 64 * x / 65536 = 1 + 131584 * (a + 1) :=
  page_of_sameSlice (n := l2Lines) (by decide) (by unfold fullSlice at h; exact h)

theorem home_of_fullSlice {x : Nat} (h : x ∈ fullSlice) : homeDie (64 * x) = homeDie 0x10000 ∧ homeSlice (64 * x) = homeSlice 0x10000 := by
  obtain ⟨a, ha, page⟩ := page_of_fullSlice h
  have hash : ∀ a < 32, homeDie (65536 * (1 + 131584 * (a + 1))) = homeDie 0x10000 ∧ homeSlice (65536 * (1 + 131584 * (a + 1))) = homeSlice 0x10000 := by decide
  rw [← homeDie_of_page, ← homeSlice_of_page, page]
  exact hash a ha

/-! The counterexample. -/

/-- Core 1 listed twice: an entry that holds the default, which no table in the canonical form has, and behind it one with a live strand. -/
def listedTwice : Tab Core := [(1, {}), (1, { combs := [(0, some { strands := [(0, { live := 1 })] })] })]

/-- The strand of the second entry. -/
def hiddenStrand : Sid := { core := 1, slot := 0, strand := 0 }

/-- The machine of `withFetchWord`, with core 1 listed twice and the slice of its instruction full of dirty lines whose pages are not resident. -/
def crowded (tlb : Tlb) : State :=
  let s := State.reset.withFetchWord 32 4
  { s with
    cores := listedTwice
    memory := { s.memory with l2 := Tab.listing fullSlice true, dirty := Tab.listing fullSlice (some 0) }
    tlb := tlb
    tiers := { s.tiers with leases := [(0, some { kind := .pool, state := .active, node := 0, size := 2 ^ 18, base := 0, boff := 0, expiry := 2 ^ 63 })] } }

theorem crowded_translate : (crowded {}).translate 0 0 true .fetch 0x10000 = .ok 0x10000 := by decide +kernel

theorem crowded_no_copy : liveCopy ((crowded {}).core 0).icache (sectorOf 0x10000) (crowded {}).clock.gt = none := rfl

theorem isHost_crowded_code : isHost 0x10000 = false := by decide

section
variable (tlb : Tlb)

theorem crowded_inL2 : (crowded tlb).inL2 0x10000 = false := by
  have absent : 1024 ∉ fullSlice := fun h => by
    obtain ⟨a, _, page⟩ := page_of_fullSlice h
    omega
  simp [State.inL2, isHost_crowded_code, crowded, lineNo, Tab.get_listing, absent]

theorem crowded_homeWaits : (crowded tlb).homeWaits 0x10000 = false := by
  have ready : (crowded tlb).homeReady 0x10000 = true := by
    have device : isDevice 0x10000 = true := by decide
    rw [State.homeReady, crowded_inL2]
    simp [isHost_crowded_code, device, State.page, crowded, State.withFetchWord, Tab.get]
  rw [State.homeWaits, ready]
  rfl

theorem crowded_sliceLines : (crowded tlb).sliceLines (homeDie 0x10000) (homeSlice 0x10000) = fullSlice.map (64 * ·) := by
  have keys : Tab.keys (crowded tlb).memory.l2 ++ Tab.keys (crowded tlb).memory.hostLines = fullSlice :=
    (List.append_nil _).trans (Tab.keys_listing _ _)
  rw [State.sliceLines, keys, List.filter_eq_self]
  intro pa h
  obtain ⟨x, hx, rfl⟩ := List.mem_map.mp h
  obtain ⟨die, slice⟩ := home_of_fullSlice hx
  simp [die, slice]

/-- Every line of the full slice may leave it, and is then written back to its backing (R348). -/
theorem crowded_displaceL2 {x : Nat} (h : x ∈ fullSlice) :
    (crowded tlb).mayDisplace (64 * x) = true ∧ ((crowded tlb).displaceL2 (64 * x)).cores = ((crowded tlb).lineCleaned (64 * x)).cores := by
  obtain ⟨a, ha, page⟩ := page_of_fullSlice h
  have host : isHost (64 * x) = false := by simp [isHost]; omega
  have device : isDevice (64 * x) = true := by simp [isDevice]; omega
  have away : ((crowded tlb).page (64 * x)).resident = false := by
    rw [State.page, page]
    simp [crowded, State.withFetchWord, Tab.get, show ¬ 16 = 1 + 131584 * (a + 1) by omega]
  have dirty : (crowded tlb).isDirty (64 * x) = true := by
    simp [State.isDirty, crowded, Tab.get_listing, show lineNo (64 * x) = x by unfold lineNo; omega, h]
  have owned : (crowded tlb).isOwned (64 * x) = false := rfl
  have served : (crowded tlb).served (64 * x) = true := by
    simp [State.served, State.serve, State.extent?, device, crowded, Lease.covers, State.withFetchWord, State.reset, show 64 * x / 2097152 < 262144 by omega]
  rw [State.mayDisplace, State.displaceL2, host, away, dirty, owned, served]
  exact ⟨rfl, rfl⟩

/-- The fill of the instruction's line writes a line of the full slice back. -/
theorem crowded_fillL2 : ∃ v, ((crowded tlb).fillL2 0x10000).cores = ((crowded tlb).lineCleaned v).cores := by
  have full : (fullSlice.map (64 * ·)).length = l2Lines := by rw [List.length_map, length_fullSlice]
  have all : (fullSlice.map (64 * ·)).filter (crowded tlb).mayDisplace = fullSlice.map (64 * ·) := by
    rw [List.filter_eq_self]
    intro pa h
    obtain ⟨x, hx, rfl⟩ := List.mem_map.mp h
    exact (crowded_displaceL2 tlb hx).1
  obtain ⟨v, hv, gone⟩ := displaced_mem (l := fullSlice.map (64 * ·)) (by rw [full]; decide) (crowded tlb).clock.turn
  obtain ⟨x, hx, rfl⟩ := List.mem_map.mp hv
  have room : (crowded tlb).roomL2 0x10000 = (crowded tlb).displaceL2 (64 * x) := by
    rw [State.roomL2, crowded_sliceLines, crowded_inL2, all, gone, if_neg (by simp [length_fullSlice])]
  refine ⟨64 * x, ?_⟩
  rw [State.fillL2, crowded_inL2, room, if_neg (by decide), ← (crowded_displaceL2 tlb hx).2]
  dsimp only
  split <;> rfl

theorem crowded_recall (line : Nat) : (crowded tlb).recall line = crowded tlb := rfl

theorem crowded_remember (u : Nat) (t : BitVec 16) (va : Nat) : ∃ tlb', (crowded tlb).remember u t va = crowded tlb' := by
  have walked : (crowded tlb).walked u t va = crowded tlb := List.foldl_fixed' (crowded_recall tlb) _
  rw [State.remember, walked]
  split
  · exact ⟨_, rfl⟩
  · exact ⟨_, rfl⟩

theorem crowded_missCode (word : BitVec 256 → Bool → Except Fetched Word) :
    ∃ v, ((crowded tlb).missCode 0 0x10000 word).2.core 1 = ((crowded tlb).lineCleaned v).core 1 := by
  obtain ⟨v, cores⟩ := crowded_fillL2 tlb
  have line : lineOf 0x10000 = 0x10000 := by decide
  have reach : (crowded tlb).reachHome 0x10000 (dieOf 0) false = crowded tlb := by
    rw [State.reachHome, crowded_recall, ite_self]
  rw [State.missCode, line, crowded_homeWaits, reach, State.holdHost_device isHost_crowded_code]
  exact ⟨v, (State.core_onCore_ne _ _ (by decide)).trans (by rw [State.core, State.core, cores])⟩

/-- A write-back leaves the default entry of core 1 out, so that the strand of the second one comes to light. -/
theorem crowded_lineCleaned (v : Nat) : (((crowded tlb).lineCleaned v).strand hiddenStrand).live = 1 := rfl

end

theorem State.strand_congr {s t : State} {w : Sid} (h : s.core w.core = t.core w.core) : s.strand w = t.strand w := by
  rw [State.strand, State.strand, State.comb, State.comb, State.comb?, State.comb?, h]

/-- The fetch of a word of code by core 0 shows a strand of core 1 that was not to be seen before. -/
theorem crowded_codeWord : (((crowded {}).codeWord 0 0 true 0 0x10000).2.strand hiddenStrand).live = 1 := by
  obtain ⟨word, miss⟩ := State.codeWord_of_no_copy (origin := 0) crowded_translate crowded_no_copy
  obtain ⟨tlb, remembered⟩ := crowded_remember {} 0 0 0x10000
  obtain ⟨v, moved⟩ := crowded_missCode tlb word
  rw [miss, remembered, State.strand_congr (w := hiddenStrand) moved]
  exact crowded_lineCleaned tlb v

/-- Refutes O3: the clause about a word of code claims of every state that its fetch leaves every strand as it was. In a state whose table of cores lists a default entry before
another one of the same core, which the model's tables exclude and the statement does not, the fetch's fill of a full slice of the home L2 writes a line back, the default entry is left out, and the
strand of the other entry takes the place of the default strand. -/
theorem not_stepRunsDecoded : ¬ Obligations.StepRunsDecoded := by
  intro h
  obtain ⟨-, -, -, -, -, -, -, -, -, codeWord, -⟩ := h
  obtain ⟨u, fetched, -, -, -, same⟩ := codeWord (crowded {}) 0 0 true 0 0x10000 0x10000 crowded_translate (by decide) crowded_no_copy (crowded_homeWaits {}) rfl
  obtain ⟨-, -, live, -⟩ := same hiddenStrand
  have shown := crowded_codeWord
  rw [fetched, live] at shown
  exact absurd shown (by decide)

end Sys2Proof.Machine
end

section
/-! Proofs about the decoder and the encoder: the fields of each word, the opcodes, the two forms of word 1, and that decoding and encoding agree (O1, O2). -/

namespace Sys2Proof

/-! The fields of the words (R2, R21, R22). -/

/-- The bytes of four joined bytes. -/
theorem bytes_of_join (b3 b2 b1 b0 : Byte) :
    let w : BitVec (8 + 8 + 8 + 8) := b3 ++ b2 ++ b1 ++ b0
    w.extractLsb' 0 8 = b0 ∧ w.extractLsb' 8 8 = b1 ∧ w.extractLsb' 16 8 = b2 ∧ w.extractLsb' 24 8 = b3 := by
  simp (disch := omega) only [BitVec.extractLsb'_append_eq_of_le, BitVec.extractLsb'_append_eq_of_add_le]
  exact ⟨BitVec.extractLsb'_eq_self, BitVec.extractLsb'_eq_self, BitVec.extractLsb'_eq_self, BitVec.extractLsb'_eq_self⟩

theorem bytesOf_wordOf (b0 b1 b2 b3 : Byte) : bytesOf (wordOf b0 b1 b2 b3) = [b0, b1, b2, b3] := by
  obtain ⟨h0, h1, h2, h3⟩ := bytes_of_join b3 b2 b1 b0
  exact congr (congrArg List.cons h0) (congr (congrArg List.cons h1) (congr (congrArg List.cons h2) (congrArg (fun b => [b]) h3)))

theorem wordOf_bytes (w : Word) : wordOf (w.extractLsb' 0 8) (w.extractLsb' 8 8) (w.extractLsb' 16 8) (w.extractLsb' 24 8) = w := by
  unfold wordOf
  simp (disch := omega) only [BitVec.extractLsb'_append_extractLsb'_eq_extractLsb']
  exact BitVec.extractLsb'_eq_self

/-- A list begins with a word: the word's bytes stand before the rest. -/
theorem takeWord_eq_some {l rest : List Byte} {w : Word} : takeWord l = some (w, rest) ↔ bytesOf w ++ rest = l := by
  constructor
  · intro h
    unfold takeWord at h
    split at h
    · obtain ⟨rfl, rfl⟩ := Prod.mk.inj (Option.some.inj h)
      rw [bytesOf_wordOf]; rfl
    · cases h
  · rintro rfl
    exact congrArg (fun w => some (w, rest)) (wordOf_bytes w)

/-- The fields of word 0 (R21). -/
theorem fields_of_word0 (i : Bool) (b a d : BitVec 7) (op : BitVec 8) (l : BitVec 2) :
    let w : BitVec (1 + 7 + 7 + 7 + 8 + 2) := BitVec.ofBool i ++ b ++ a ++ d ++ op ++ l
    w.getLsbD 31 = i ∧ w.extractLsb' 24 7 = b ∧ w.extractLsb' 17 7 = a ∧ w.extractLsb' 10 7 = d ∧ w.extractLsb' 2 8 = op ∧ w.extractLsb' 0 2 = l := by
  refine ⟨by simp only [BitVec.getLsbD_append]; simp, ?_⟩
  simp (disch := omega) only [BitVec.extractLsb'_append_eq_of_le, BitVec.extractLsb'_append_eq_of_add_le]
  exact ⟨BitVec.extractLsb'_eq_self, BitVec.extractLsb'_eq_self, BitVec.extractLsb'_eq_self, BitVec.extractLsb'_eq_self, BitVec.extractLsb'_eq_self⟩

/-- The fields of word 1 (R22). -/
theorem fields_of_word1 (sub : BitVec 8) (ls : BitVec 2) (qb : BitVec 6) (tf : BitVec 5) (g : BitVec 4) (c : BitVec 7) :
    let w : BitVec (8 + 2 + 6 + 5 + 4 + 7) := sub ++ ls ++ qb ++ tf ++ g ++ c
    w.extractLsb' 24 8 = sub ∧ w.extractLsb' 22 2 = ls ∧ w.extractLsb' 16 6 = qb ∧ w.extractLsb' 11 5 = tf ∧ w.extractLsb' 7 4 = g ∧ w.extractLsb' 0 7 = c := by
  simp (disch := omega) only [BitVec.extractLsb'_append_eq_of_le, BitVec.extractLsb'_append_eq_of_add_le]
  exact ⟨BitVec.extractLsb'_eq_self, BitVec.extractLsb'_eq_self, BitVec.extractLsb'_eq_self, BitVec.extractLsb'_eq_self, BitVec.extractLsb'_eq_self, BitVec.extractLsb'_eq_self⟩

/-- Word 0 is its fields. -/
theorem word0_join (w : Word) :
    (BitVec.ofBool (w.getLsbD 31) ++ w.extractLsb' 24 7 ++ w.extractLsb' 17 7 ++ w.extractLsb' 10 7 ++ w.extractLsb' 2 8 ++ w.extractLsb' 0 2 : BitVec 32) = w := by
  have top : BitVec.ofBool (w.getLsbD 31) = w.extractLsb' 31 1 := by
    ext i hi
    obtain rfl : i = 0 := by omega
    simp
  rw [top]
  simp (disch := omega) only [BitVec.extractLsb'_append_extractLsb'_eq_extractLsb']
  exact BitVec.extractLsb'_eq_self

/-- Word 1 is its fields. -/
theorem word1_join (w : Word) :
    (w.extractLsb' 24 8 ++ w.extractLsb' 22 2 ++ w.extractLsb' 16 6 ++ w.extractLsb' 11 5 ++ w.extractLsb' 7 4 ++ w.extractLsb' 0 7 : BitVec 32) = w := by
  simp (disch := omega) only [BitVec.extractLsb'_append_extractLsb'_eq_extractLsb']
  exact BitVec.extractLsb'_eq_self

theorem Enc.word1_ofWords (len : Len) (w0 w1 w2 : Word) : (Enc.ofWords len w0 w1 w2).word1 = w1 := word1_join w1

/-! Opcodes (R34). -/

theorem Op.code_lt (o : Op) : o.code < 256 := by cases o <;> decide

/-- An opcode is read back from its number, with a variant that it has: MRUN and its register form share a number (R278). -/
theorem Op.ofCode_code {o : Op} {sub : Nat} (h : o.legalSub sub = true) : Op.ofCode o.code sub = some o := by
  cases o with
  | mrun => obtain rfl : sub = 0 := eq_of_beq h; rfl
  | mrunReg => obtain rfl : sub = 1 := eq_of_beq h; rfl
  | _ => rfl

set_option maxRecDepth 4000 in
/-- The number of an opcode is the one that it is read from. -/
theorem Op.code_of_ofCode {o : Op} {code sub : Nat} (h : Op.ofCode code sub = some o) : o.code = code := by
  unfold Op.ofCode at h
  split at h
  all_goals cases h
  case h_141.refl => split <;> rfl
  all_goals rfl

theorem Op.parts_instr (o : Op) (e : Enc) : (o.instr e).parts = some (o, e) := by cases o <;> rfl

theorem Instr.instr_of_parts {i : Instr} {o : Op} {e : Enc} (h : i.parts = some (o, e)) : o.instr e = i := by
  cases i <;> cases h <;> rfl

/-! The canonical form of the fields (R24). -/

theorem Op.shortTf_lt {o : Op} {t : Nat} (h : o.shortTf = some t) : t < 32 := by
  cases o <;> cases h <;> decide

/-- The word 1 of a type form and zeros. -/
theorem word1_of_tf : ∀ t < 32, BitVec.ofNat 32 (t * 2048) = (0#8 ++ 0#2 ++ 0#6 ++ BitVec.ofNat 5 t ++ 0#4 ++ 0#7 : BitVec 32) := by decide

/-- The word 1 that a 32-bit form stands for (R24). -/
theorem Op.shortWord1_of {o : Op} {t : Nat} (h : o.shortTf = some t) : o.shortWord1 = (0#8 ++ 0#2 ++ 0#6 ++ BitVec.ofNat 5 t ++ 0#4 ++ 0#7 : BitVec 32) := by
  rw [← word1_of_tf t (Op.shortTf_lt h), Op.shortWord1, h]
  rfl

/-- The fields of a 32-bit form are those of its expansion (R24). -/
theorem Op.word1_of_canonical {o : Op} {e : Enc} (hc : o.canonical e = true) (hl : e.len = .one) : e.word1 = o.shortWord1 ∧ e.sub = 0 := by
  simp only [Op.canonical, hl, bne_self_eq_false, Bool.false_or, Bool.and_eq_true, beq_iff_eq] at hc
  obtain ⟨-, ⟨⟨⟨⟨hsub, hls⟩, hqb⟩, hg⟩, hcc⟩, htf⟩ := hc
  split at htf
  · rename_i t ht
    refine ⟨?_, hsub⟩
    rw [Op.shortWord1_of ht, Enc.word1, hsub, hls, hqb, hg, hcc, ← beq_iff_eq.mp htf, BitVec.ofNat_toNat, BitVec.setWidth_eq]
    rfl
  · cases htf

/-- What lies past the words of an encoding is 0. -/
theorem Op.w2_of_canonical {o : Op} {e : Enc} (hc : o.canonical e = true) (hl : e.len ≠ .three) : e.w2 = 0 := by
  have h := (Bool.and_eq_true _ _ ▸ hc).1
  simpa [hl] using h

/-- The fields of a 32-bit word are in the canonical form, where the opcode has a short form. -/
theorem Op.canonical_one {o : Op} (h : o.shortTf.isSome = true) (w0 : Word) : o.canonical (Enc.ofWords .one w0 o.shortWord1 0) = true := by
  obtain ⟨t, ht⟩ := Option.isSome_iff_exists.mp h
  have tf : (BitVec.ofNat 5 t).toNat = t := by simpa using Op.shortTf_lt ht
  have fields : Enc.ofWords .one w0 o.shortWord1 0 =
      { Enc.ofWords .one w0 0 0 with sub := 0, ls := 0, qb := 0, tf := BitVec.ofNat 5 t, g := 0, c := 0 } := by
    obtain ⟨hsub, hls, hqb, htf, hg, hc⟩ := fields_of_word1 0 0 0 (BitVec.ofNat 5 t) 0 0
    rw [Op.shortWord1_of ht, Enc.ofWords, Enc.ofWords]
    exact Enc.mk.injEq .. ▸ ⟨rfl, rfl, rfl, rfl, rfl, hsub, hls, hqb, htf, hg, hc, rfl⟩
  rw [fields]
  simp [Op.canonical, Enc.ofWords, ht, tf]

/-- The fields of words 0, 1 and 2 are those that the words were made of. -/
theorem Enc.ofWords_words (o : Op) (e : Enc) : Enc.ofWords e.len (o.word0 e) e.word1 e.w2 = e := by
  obtain ⟨hi, hb, ha, hd, -, -⟩ := fields_of_word0 e.i e.b e.a e.d (BitVec.ofNat 8 o.code) e.len.bits
  obtain ⟨hsub, hls, hqb, htf, hg, hc⟩ := fields_of_word1 e.sub e.ls e.qb e.tf e.g e.c
  exact Enc.mk.injEq .. ▸ ⟨rfl, hi, hb, ha, hd, hsub, hls, hqb, htf, hg, hc, rfl⟩

/-- The fields of an encoding in the canonical form, as the decoder reads them from its words. -/
theorem Enc.ofWords_canonical {o : Op} {e : Enc} (hc : o.canonical e = true) :
    Enc.ofWords e.len (o.word0 e) (if e.len = .one then o.shortWord1 else e.word1) (if e.len = .three then e.w2 else 0) = e := by
  have h1 : (if e.len = .one then o.shortWord1 else e.word1) = e.word1 := by
    split
    · rename_i hl; exact (Op.word1_of_canonical hc hl).1.symm
    · rfl
  have h2 : (if e.len = .three then e.w2 else 0) = e.w2 := by
    split
    · rfl
    · rename_i hl; exact (Op.w2_of_canonical hc hl).symm
  rw [h1, h2, Enc.ofWords_words]

theorem opField_word0 (o : Op) (e : Enc) : opField (o.word0 e) = o.code := by
  obtain ⟨-, -, -, -, hop, -⟩ := fields_of_word0 e.i e.b e.a e.d (BitVec.ofNat 8 o.code) e.len.bits
  exact (congrArg BitVec.toNat hop).trans (by simpa using o.code_lt)

theorem len_of_word0 (o : Op) (e : Enc) : (o.word0 e).extractLsb' 0 2 = e.len.bits := by
  obtain ⟨-, -, -, -, -, hl⟩ := fields_of_word0 e.i e.b e.a e.d (BitVec.ofNat 8 o.code) e.len.bits
  exact hl

/-- Word 0 of the fields of a word, with its own opcode and length, is the word. -/
theorem Op.word0_ofWords {o : Op} {len : Len} {w0 : Word} (ho : o.code = opField w0) (hl : w0.extractLsb' 0 2 = len.bits) (w1 w2 : Word) :
    o.word0 (Enc.ofWords len w0 w1 w2) = w0 := by
  have op : BitVec.ofNat 8 o.code = w0.extractLsb' 2 8 := by rw [ho, opField, BitVec.ofNat_toNat, BitVec.setWidth_eq]
  refine Eq.trans ?_ (word0_join w0)
  rw [Op.word0, op, hl]
  rfl

/-! The checks of R32. -/

/-- A check that passes leaves the checks after it. -/
theorem none_of_ite {α : Type} {p : Prop} [Decidable p] {x : α} {rest : Option α} (h : (if p then some x else rest) = none) : ¬ p ∧ rest = none := by
  by_cases hp : p
  · rw [if_pos hp] at h; cases h
  · rw [if_neg hp] at h; exact ⟨hp, h⟩

/-- A 32-bit form passes the checks only where its opcode has a short form. -/
theorem Op.shortTf_of_check {o : Op} {e : Enc} (h : o.check e = none) (hl : e.len = .one) : o.shortTf.isSome = true := by
  obtain ⟨hs, -⟩ := none_of_ite h
  rw [decide_eq_true hl, Bool.true_and, Bool.not_eq_true, Option.isNone_eq_false_iff] at hs
  exact hs

/-- An encoding passes the checks only where its opcode has the variant. -/
theorem Op.legalSub_of_check {o : Op} {e : Enc} (h : o.check e = none) : o.legalSub e.sub.toNat = true := by
  obtain ⟨-, h⟩ := none_of_ite h
  obtain ⟨-, h⟩ := none_of_ite h
  obtain ⟨hs, -⟩ := none_of_ite h
  rwa [Bool.not_eq_true, Bool.not_eq_false'] at hs

/-! Decoding and encoding. -/

/-- The words of an instruction of a length. -/
def Len.wordsOf (len : Len) (w0 w1 w2 : Word) : List Word :=
  match len with
  | .one => [w0]
  | .two => [w0, w1]
  | .three => [w0, w1, w2]

theorem encodeWords_eq (o : Op) (e : Enc) : encodeWords o e = e.len.wordsOf (o.word0 e) e.word1 e.w2 := by
  unfold encodeWords Len.wordsOf
  cases e.len <;> rfl

theorem takeWord_bytesOf (w : Word) (t : List Byte) : takeWord (bytesOf w ++ t) = some (w, t) := takeWord_eq_some.mpr rfl

/-- The decoder reads as many words as the length in the first one says (R20, R21). -/
theorem decodeBytes_words {len : Len} {w0 : Word} (hl : w0.extractLsb' 0 2 = len.bits) (w1 w2 : Word) (t : List Byte) :
    decodeBytes ((len.wordsOf w0 w1 w2).flatMap bytesOf ++ t) = (decodeWords len w0 w1 w2).map fun i => (i, t) := by
  cases len with
  | one =>
    change decodeBytes (bytesOf w0 ++ t) = (decodeWords .one w0 0 0).map _
    rw [decodeBytes, takeWord_bytesOf]
    dsimp only
    rw [hl]
    cases decodeWords .one w0 0 0 <;> rfl
  | two =>
    change decodeBytes (bytesOf w0 ++ (bytesOf w1 ++ t)) = (decodeWords .two w0 w1 0).map _
    rw [decodeBytes, takeWord_bytesOf]
    dsimp only
    rw [hl, takeWord_bytesOf]
    dsimp only
    cases decodeWords .two w0 w1 0 <;> rfl
  | three =>
    change decodeBytes (bytesOf w0 ++ (bytesOf w1 ++ (bytesOf w2 ++ t))) = (decodeWords .three w0 w1 w2).map _
    rw [decodeBytes, takeWord_bytesOf]
    dsimp only
    rw [hl, takeWord_bytesOf]
    dsimp only
    rw [takeWord_bytesOf]
    dsimp only
    cases decodeWords .three w0 w1 w2 <;> rfl

/-- Bytes that decode begin with the words of a length. -/
theorem words_of_decodeBytes {l : List Byte} {x : Instr × List Byte} (h : decodeBytes l = .ok x) :
    ∃ len w0 w1 w2 t, w0.extractLsb' 0 2 = Len.bits len ∧ (len.wordsOf w0 w1 w2).flatMap bytesOf ++ t = l := by
  unfold decodeBytes at h
  split at h
  · cases h
  rename_i w0 t0 h0
  rw [← takeWord_eq_some.mp h0]
  have len : ∀ n : BitVec 2, n.toNat ≠ 3 → n.toNat ≠ 0 → n.toNat ≠ 1 → n = 2 := by decide
  dsimp only at h
  split at h
  · cases h
  rename_i h3
  split at h
  · rename_i hn
    exact ⟨.one, w0, 0, 0, t0, BitVec.eq_of_toNat_eq hn, rfl⟩
  rename_i hn0
  split at h
  · cases h
  rename_i w1 t1 h1
  rw [← takeWord_eq_some.mp h1]
  split at h
  · rename_i hn
    exact ⟨.two, w0, w1, 0, t1, BitVec.eq_of_toNat_eq hn, rfl⟩
  rename_i hn1
  split at h
  · cases h
  rename_i w2 t2 h2
  rw [← takeWord_eq_some.mp h2]
  exact ⟨.three, w0, w1, w2, t2, len _ h3 hn0 hn1, rfl⟩

/-- Words that decode are those of a well-formed instruction. -/
theorem encodeWords_of_decodeWords {len : Len} {w0 w1 w2 : Word} {i : Instr} (hlen : w0.extractLsb' 0 2 = len.bits) (h : decodeWords len w0 w1 w2 = .ok i) :
    ∃ o e, i = o.instr e ∧ o.canonical e = true ∧ o.check e = none ∧ encodeWords o e = len.wordsOf w0 w1 w2 := by
  unfold decodeWords at h
  split at h
  · cases h
  rename_i o ho
  dsimp only at h
  split at h
  · cases h
  rename_i hc
  refine ⟨o, _, (Except.ok.inj h).symm, ?_, hc, ?_⟩
  · cases len with
    | one => exact Op.canonical_one (Op.shortTf_of_check hc rfl) w0
    | two => rfl
    | three => rfl
  · rw [encodeWords_eq, Op.word0_ofWords (Op.code_of_ofCode ho) hlen, Enc.word1_ofWords]
    cases len <;> rfl

/-- The words of a well-formed instruction decode to it. -/
theorem decodeWords_of_fields {o : Op} {e : Enc} (hcan : o.canonical e = true) (hc : o.check e = none) :
    decodeWords e.len (o.word0 e) e.word1 e.w2 = .ok (o.instr e) := by
  have sub : (if e.len = .one then 0 else (e.word1.extractLsb' 24 8).toNat) = e.sub.toNat := by
    split
    · rename_i hl; rw [(Op.word1_of_canonical hcan hl).2]; rfl
    · obtain ⟨hsub, -⟩ := fields_of_word1 e.sub e.ls e.qb e.tf e.g e.c
      exact congrArg BitVec.toNat hsub
  unfold decodeWords
  rw [opField_word0, sub, Op.ofCode_code (Op.legalSub_of_check hc)]
  dsimp only
  rw [Enc.ofWords_canonical hcan, hc]

theorem Op.wellFormed_instr {o : Op} {e : Enc} : (o.instr e).wellFormed = true ↔ o.canonical e = true ∧ o.check e = none := by
  rw [Instr.wellFormed, Op.parts_instr]
  simp

theorem Op.encode_instr (o : Op) (e : Enc) : encode (o.instr e) = (encodeWords o e).flatMap bytesOf := by
  rw [encode, Op.parts_instr]

/-- A well-formed instruction is an opcode with its fields. -/
theorem Instr.exists_of_wellFormed {i : Instr} (h : i.wellFormed = true) : ∃ (o : Op) (e : Enc), i = o.instr e := by
  unfold Instr.wellFormed at h
  split at h
  · rename_i o e hp; exact ⟨o, e, (Instr.instr_of_parts hp).symm⟩
  · cases h

/-- Bytes decode to an instruction where it is well formed, and they are its encoding and what follows. -/
theorem decodeBytes_ok {l rest : List Byte} {i : Instr} : decodeBytes l = .ok (i, rest) ↔ i.wellFormed = true ∧ encode i ++ rest = l := by
  constructor
  · intro h
    obtain ⟨len, w0, w1, w2, t, hlen, rfl⟩ := words_of_decodeBytes h
    rw [decodeBytes_words hlen] at h
    cases hd : decodeWords len w0 w1 w2 with
    | error x => rw [hd] at h; cases h
    | ok j =>
      rw [hd] at h
      cases h
      obtain ⟨o, e, rfl, hcan, hc, hw⟩ := encodeWords_of_decodeWords hlen hd
      exact ⟨Op.wellFormed_instr.mpr ⟨hcan, hc⟩, by rw [Op.encode_instr, hw]⟩
  · rintro ⟨hwf, rfl⟩
    obtain ⟨o, e, rfl⟩ := Instr.exists_of_wellFormed hwf
    obtain ⟨hcan, hc⟩ := Op.wellFormed_instr.mp hwf
    rw [Op.encode_instr, encodeWords_eq, decodeBytes_words (len_of_word0 o e), decodeWords_of_fields hcan hc]
    rfl

/-- Settles O2: the words of an instruction hold its fields and give them back, an opcode is read back from its number, and the canonical form leaves one encoding for each length. -/
theorem decodeAndEncodeAgree : Obligations.DecodeAndEncodeAgree :=
  ⟨fun _ _ h => decodeBytes_ok.mpr ⟨h, rfl⟩, fun _ _ _ h => decodeBytes_ok.mp h⟩

set_option maxRecDepth 8000 in
/-- Settles O1: each word, decoded. -/
theorem exampleWordsDecode : Obligations.ExampleWordsDecode := by
  unfold Obligations.ExampleWordsDecode
  decide

end Sys2Proof
end

section
/-! Proofs that nothing stops the module (O4): every meaning answers a next state, and so does every course of a step. -/

namespace Sys2Proof.Safety
open Sys2Proof Sys2Proof.Machine

/-- An outcome that goes on. -/
def GoesOn (o : Host.Outcome State Fault Refusal) : Prop := ∃ t, o = .next t

theorem GoesOn.next (s : State) : GoesOn (.next s) := ⟨s, rfl⟩

theorem GoesOn.after {f : State → State} {o : Host.Outcome State Fault Refusal} (h : GoesOn o) : GoesOn (after f o) := by
  obtain ⟨t, rfl⟩ := h
  exact .next (f t)

/-- Every arm of `exec` answers a next state. -/
theorem goesOn_exec (i : Instr) (s : State) : GoesOn (exec i s) := by
  cases i <;> exact .next _

theorem goesOn_issueInstr (s : State) (i : Instr) : GoesOn (s.issueInstr i) := by
  unfold State.issueInstr
  split
  · exact goesOn_exec i s
  split
  · exact goesOn_exec i _
  · exact .next s

theorem goesOn_runStrandAt (s : State) (w : Sid) : GoesOn (s.runStrandAt w) := by
  unfold State.runStrandAt
  extract_lets s1 f
  split
  · exact goesOn_issueInstr f.2 _
  · exact .next _

theorem goesOn_runStreamAt (s : State) (core : Nat) : GoesOn (s.runStreamAt core) := by
  unfold State.runStreamAt
  split
  · exact .next s
  extract_lets s1 f
  split
  · exact goesOn_issueInstr f.2 _
  · exact .next _
  · exact goesOn_exec _ f.2
  · exact .next f.2

theorem goesOn_runInput (s : State) : GoesOn s.runInput := by
  unfold State.runInput
  split
  · exact .next s
  · exact (goesOn_exec _ _).after

theorem goesOn_run (s : State) (m : Move) : GoesOn (s.run m) := by
  cases m with
  | issue w => exact goesOn_runStrandAt s w
  | stream core => exact goesOn_runStreamAt s core
  | event i => exact goesOn_exec i s
  | input => exact goesOn_runInput s
  | enter | drain | cut | dropRegion | evict | displace | port | settle | boot => exact .next _

theorem goesOn_step (s : State) : GoesOn (step s) := by
  unfold Machine.step
  split
  · exact .next s.tick
  · exact (goesOn_run s _).after

/-- Settles O4: every meaning answers a next state, and each move of a step is a meaning or a change of the state. -/
theorem everyStepGoesOn : Obligations.EveryStepGoesOn :=
  ⟨goesOn_exec, fun _ t _ => goesOn_step t⟩

end Sys2Proof.Safety
end

section
/-! Proofs about the checks before every instruction (O24): what each check of R54 finds, and that it is the first to find a fault where those before it pass. -/

namespace Sys2Proof.Machine
open Sys2Proof Sys2Proof.Safety

/-- TVAL of a word. -/
theorem Trap.of_word (c : Cause) (v : Word) : Trap.of c v.toNat = { cause := c, tval := v.setWidth 64 } :=
  congrArg (fun x : Dbl => ({ cause := c, tval := x } : Trap)) (BitVec.eq_of_toNat_eq (by simp))

section
variable {o : Op} {e : Enc} {s : State}

/-! The order of the checks (R54). -/

theorem firstTrap_priv (hp : o.privileged e = true) (hs : (s.strand s.cur).trap.priv = false) :
    (s.issue o e).firstTrap s = some (Trap.of .priv (o.word0 e).toNat) :=
  if_pos ⟨hp, by rw [show (s.issue o e).st.trap.priv = false from hs]; exact Bool.false_ne_true⟩

/-- Past the privilege check the others follow. -/
theorem firstTrap_permitted (h : Permitted o e s) :
    (s.issue o e).firstTrap s = (((s.issue o e).windowTrap.or (s.issue o e).partialTrap).or (s.issue o e).clobberTrap).or
      (if (s.issue o e).st.ahead.isSome then none else (s.issue o e).poisonTrap s) := by
  unfold Issue.firstTrap
  rw [if_neg fun ⟨hp, hn⟩ => hn (h hp)]
  cases (s.issue o e).windowTrap with
  | some t => rfl
  | none =>
    cases (s.issue o e).partialTrap with
    | some t => rfl
    | none => cases (s.issue o e).clobberTrap <;> rfl

/-! WINDOW_RANGE (R48). -/

end

/-- The number of a varying register at or past a window's size. -/
def Reg.beyond (size : Nat) : Reg → Option Nat
  | .v n => if size ≤ n then some n else none
  | _ => none

theorem Reg.mem_beyond {l : List Reg} {size m : Nat} : m ∈ l.filterMap (Reg.beyond size) ↔ Reg.v m ∈ l ∧ size ≤ m := by
  rw [List.mem_filterMap]
  constructor
  · rintro ⟨r, hr, hm⟩
    cases r with
    | v n =>
      by_cases h : size ≤ n
      · rw [show Reg.beyond size (.v n) = some n from if_pos h] at hm
        cases hm
        exact ⟨hr, h⟩
      · rw [show Reg.beyond size (.v n) = none from if_neg h] at hm
        cases hm
    | s | w | a | k => cases hm
  · rintro ⟨hr, hm⟩
    exact ⟨.v m, hr, if_pos hm⟩

section
variable {o : Op} {e : Enc} {s : State}

/-- WINDOW_RANGE names the lowest number past the window. -/
theorem windowTrap_eq : (s.issue o e).windowTrap = ((named o e s).filterMap (Reg.beyond (s.strand s.cur).sp.n)).min?.map (Trap.of .windowRange) := by
  unfold Issue.windowTrap
  generalize hl : List.filterMap _ _ = l
  rw [show (named o e s).filterMap (Reg.beyond (s.strand s.cur).sp.n) = l from hl]
  cases l <;> rfl

theorem windowTrap_inWindow (h : InWindow o e s) : (s.issue o e).windowTrap = none := by
  have inside : (named o e s).filterMap (Reg.beyond (s.strand s.cur).sp.n) = [] := by
    rw [List.eq_nil_iff_forall_not_mem]
    intro m hm
    obtain ⟨hr, hs⟩ := Reg.mem_beyond.mp hm
    exact absurd (h.2 m hr) (Nat.not_lt.mpr hs)
  rw [windowTrap_eq, inside]
  rfl

theorem windowTrap_lowest {m : Nat} (hm : Reg.v m ∈ named o e s) (hs : (s.strand s.cur).sp.n ≤ m)
    (low : ∀ k, Reg.v k ∈ named o e s → (s.strand s.cur).sp.n ≤ k → m ≤ k) : (s.issue o e).windowTrap = some (Trap.of .windowRange m) := by
  have lowest : ((named o e s).filterMap (Reg.beyond (s.strand s.cur).sp.n)).min? = some m :=
    List.min?_eq_some_iff.mpr ⟨Reg.mem_beyond.mpr ⟨hm, hs⟩, fun k hk => low k (Reg.mem_beyond.mp hk).1 (Reg.mem_beyond.mp hk).2⟩
  rw [windowTrap_eq, lowest]
  rfl

/-! UNIFORM_PARTIAL (R45). -/

theorem partialTrap_whole (h : Whole o e s) : (s.issue o e).partialTrap = none := by
  obtain ⟨-, h⟩ := h
  refine if_neg ?_
  rintro ⟨h0, hl, hu⟩
  rcases h with h | h | h
  · exact Bool.false_ne_true (h.symm.trans hu)
  · exact h0 h
  · exact hl h

theorem partialTrap_partial (hu : o.uniform e (s.strand s.cur).sp.wb = true) (h0 : (s.issue o e).act ≠ 0) (hl : (s.issue o e).act ≠ (s.strand s.cur).live) :
    (s.issue o e).partialTrap = some { cause := .uniformPartial, tval := (s.strand s.cur).live ++ (s.issue o e).act } :=
  if_pos ⟨h0, hl, hu⟩

/-- The instructions that the statement of R45 names, and those that write what all lanes share, are subject to R45. -/
theorem Op.uniform_of {wb : Nat}
    (h : o ∈ [.wbase, .sspset, .pushm, .popm] ∨ ∃ r ∈ o.writes e wb, (match r with | .s _ => True | .w _ => True | .a _ => True | _ => False)) :
    o.uniform e wb = true := by
  unfold Op.uniform
  rw [Bool.or_eq_true]
  rcases h with h | ⟨r, hr, h⟩
  · left
    simp only [List.mem_cons, List.not_mem_nil, or_false] at h
    rcases h with rfl | rfl | rfl | rfl <;> rfl
  · right
    refine List.any_eq_true.mpr ⟨r, hr, ?_⟩
    cases r with
    | s | w | a => rfl
    | v | k => exact h.elim

/-! IDEM_CLOBBER (R162). -/

theorem clobberTrap_outside (h : (s.strand s.cur).region = none) : (s.issue o e).clobberTrap = none := by
  unfold Issue.clobberTrap
  rw [show (s.issue o e).st.region = none from h]

/-- The one element of a list for which a test holds is the one found. -/
theorem find?_of_only {α : Type} {p : α → Bool} {l : List α} {x : α} (hx : x ∈ l) (hp : p x = true) (only : ∀ y ∈ l, p y = true → y = x) : l.find? p = some x := by
  cases h : l.find? p with
  | none => exact absurd hp (List.find?_eq_none.mp h x hx)
  | some y => rw [only y (List.mem_of_find?_eq_some h) (List.find?_some h)]

theorem clobberTrap_only {r : Region} {x : Reg} (ha : (s.issue o e).act ≠ 0) (ho : o ≠ .ctxld) (hr : (s.strand s.cur).region = some r)
    (hx : x ∈ o.writes e (s.strand s.cur).sp.wb) (hh : r.holds x = true) (only : ∀ y ∈ o.writes e (s.strand s.cur).sp.wb, r.holds y = true → y = x) :
    (s.issue o e).clobberTrap = some (Trap.of .idemClobber (x.classCode * 256 + x.num)) := by
  unfold Issue.clobberTrap
  rw [show (s.issue o e).st.region = some r from hr]
  dsimp only
  rw [if_neg ha, if_neg (show (s.issue o e).o ≠ .ctxld from ho), show (s.issue o e).o.writes (s.issue o e).e (s.issue o e).st.sp.wb = o.writes e (s.strand s.cur).sp.wb from rfl,
    find?_of_only hx hh only]

/-! MEM_POISON of a consumer (R202). -/

/-- Without a guard, a register that is not read across lanes is read in the active lanes. -/
theorem markedLanes_plain {x : Reg} (m : Mask) (hg : e.g = 0) (hx : o.crossReg e (s.strand s.cur).sp.wb ≠ some x) :
    (s.issue o e).markedLanes s m x = m &&& (s.issue o e).act := by
  have guard : ((s.issue o e).e.g != 0) = false := by rw [show (s.issue o e).e.g = 0 from hg]; rfl
  have across : ((s.issue o e).o.crossReg (s.issue o e).e (s.issue o e).st.sp.wb == some x) = false := beq_false_of_ne hx
  unfold Issue.markedLanes
  dsimp only
  rw [guard, across]
  rfl

/-- MEM_POISON names the one register that holds a mark. -/
theorem poisonTrap_only {x : Reg} (h1 : o ≠ .pushm) (h2 : o ≠ .ctxsv) (h3 : o ≠ .pref) (hg : e.g = 0) (hx : x ∈ o.reads e (s.strand s.cur).sp.wb)
    (hc : o.crossReg e (s.strand s.cur).sp.wb ≠ some x) (only : ∀ y ∈ o.reads e (s.strand s.cur).sp.wb, y ≠ x → (s.issue o e).poisonOf s y = 0)
    (hm : (s.issue o e).poisonOf s x &&& (s.issue o e).act ≠ 0) :
    (s.issue o e).poisonTrap s = some (Trap.of .memPoison (((s.issue o e).poisonOf s x &&& (s.issue o e).act).toNat + x.num % 256 * 2 ^ 32 + x.classCode * 2 ^ 40)) := by
  have marked := markedLanes_plain (s := s) ((s.issue o e).poisonOf s x) hg hc
  have found : ((s.issue o e).o.reads (s.issue o e).e (s.issue o e).st.sp.wb).find?
      (fun r => (s.issue o e).markedLanes s ((s.issue o e).poisonOf s r) r ≠ 0) = some x := by
    refine find?_of_only hx (decide_eq_true (by rwa [marked])) fun y hy hp => ?_
    by_contra hne
    refine of_decide_eq_true hp ?_
    rw [only y hy hne]
    exact BitVec.zero_and
  unfold Issue.poisonTrap
  rw [if_neg (by rintro (h | h | h) <;> contradiction), found]
  dsimp only
  rw [marked]
  rfl

/-! An empty active mask (R29). -/

/-- An instruction that only strands execute falls through. -/
theorem strandOnly_falls {check : Issue → State → Option Trap} {f : Issue → State → State} (h : Clear o e s) (ha : (s.issue o e).act = 0) :
    strandOnly o e s (effect check f) = s.advance (s.issue o e) := by
  rw [strandOnly_clear h, effect_empty ha]

/-- So does one that computes a value. -/
theorem compute_falls {exact : Option (Args → Nat → Int)} {val : Args → Nat → Word} (h : Clear o e s) (ha : (s.issue o e).act = 0) :
    compute o e s exact val = s.advance (s.issue o e) := by
  unfold compute
  rw [if_neg h.strand, runStrand_clear h, effect_empty ha]

end

theorem privilegeIsChecked : Statements.PrivilegeIsChecked := by
  intro e s hs refused
  have priv : ∀ (n : Instr) (o : Op), n.parts = some (o, e) → o.privileged e = true → refused n o := fun n o hn hp h => by
    rw [← Trap.of_word]
    exact traps_first hn h (firstTrap_priv hp hs)
  have exec : e.a.toNat ∈ [17, 18, 19, 20, 22, 23, 24] → specialExec e.a.toNat = true := fun h => List.contains_iff_mem.mpr h
  exact ⟨priv _ _ rfl rfl, priv _ _ rfl rfl, priv _ _ rfl rfl, priv _ _ rfl rfl, fun h => ⟨priv _ _ rfl (exec h), priv _ _ rfl (exec h)⟩⟩

theorem windowRangeTraps : Statements.WindowRangeTraps := by
  intro n o e s m hn h hp size hm hs low
  refine traps_first hn h ?_
  rw [firstTrap_permitted hp, windowTrap_lowest hm hs low]
  rfl

theorem partialUniformWritesTrap : Statements.PartialUniformWritesTrap := by
  intro n o e s hn h hw i live hu h0 hl
  refine traps_first hn h ?_
  rw [firstTrap_permitted hw.1, windowTrap_inWindow hw, partialTrap_partial (Op.uniform_of hu) h0 hl]
  rfl

theorem idemClobberTraps : Statements.IdemClobberTraps := by
  intro n o e s r x hn h hw h0 ho writes hr hx hh only
  have traps : Traps n o e s (Trap.of .idemClobber (x.classCode * 256 + x.num)) := by
    refine traps_first hn h ?_
    rw [firstTrap_permitted hw.1.1, windowTrap_inWindow hw.1, partialTrap_whole hw, clobberTrap_only h0 ho hr hx hh only]
    rfl
  cases x with
  | w => cases hh
  | v | s | a | k => simpa only [Reg.classCode, Reg.num, Nat.zero_mul, Nat.zero_add, Nat.one_mul, Nat.reduceMul] using traps

theorem poisonedSourcesTrap : Statements.PoisonedSourcesTrap := by
  intro n o e s x hn h hw hr h1 h2 h3 hg i wb m hx hc only hm place hnum
  have code : place * 2 ^ 32 = x.num % 256 * 2 ^ 32 + x.classCode * 2 ^ 40 := by
    cases x with
    | v | s | w | a | k =>
      simp only [Reg.num] at hnum
      simp only [place, Reg.num, Reg.classCode]
      omega
  rw [code, ← Nat.add_assoc]
  refine traps_first hn h ?_
  rw [firstTrap_permitted hw.1.1, windowTrap_inWindow hw.1, partialTrap_whole hw, clobberTrap_outside hr, show (s.issue o e).st.ahead = none from h.normal]
  exact poisonTrap_only h1 h2 h3 hg hx hc only hm

theorem emptyMaskWritesNothing : Statements.EmptyMaskWritesNothing := by
  intro e s falls
  have plain : ∀ (n : Instr) (o : Op) {check f}, exec n s = next (strandOnly o e s (effect check f)) → falls n o := fun n o _ _ hn h ha => by
    rw [hn, strandOnly_falls h ha]; rfl
  have computes : ∀ (n : Instr) (o : Op) {x v}, exec n s = next (compute o e s x v) → falls n o := fun n o _ _ hn h ha => by
    rw [hn, compute_falls h ha]; rfl
  have own : ∀ (n : Instr) (o : Op) {f : Issue → State → State}, exec n s = next (strandOnly o e s f) →
      ((s.issue o e).act = 0 → f (s.issue o e) s = s.advance (s.issue o e)) → falls n o := fun n o _ hn hf h ha => by
    rw [hn, strandOnly_clear h, hf ha]; rfl
  refine ⟨computes _ _ rfl, computes _ _ rfl, plain _ _ rfl, plain _ _ rfl, plain _ _ rfl, own _ _ rfl fun ha => if_pos ha, own _ _ rfl fun ha => if_pos ha,
    ?atom, plain _ _ rfl, own _ _ rfl fun ha => if_pos ha, own _ _ rfl fun ha => if_pos ha, ?exit⟩
  case atom =>
    intro h i ha
    exact congrArg next ((strandOnly_clear h).trans (if_pos ha))
  case exit =>
    intro h ha
    exact congrArg next ((if_neg h.strand).trans ((runStrand_clear h).trans (if_pos ha)))

/-- Settles O24: each check finds its fault, and is the first to where the state passes those before it. -/
theorem issueChecks : Obligations.IssueChecks :=
  ⟨privilegeIsChecked, windowRangeTraps, partialUniformWritesTrap, idemClobberTraps, poisonedSourcesTrap, emptyMaskWritesNothing⟩

end Sys2Proof.Machine
end

section
/-! Proofs about the frame of an instruction that writes a result (O8): what a write of a comb word leaves to be read, what a write of one register changes, and what the issuing lanes' move leaves alone. -/

namespace Sys2Proof.Machine
open Sys2Proof Sys2Proof.Safety

/-! Comb words (R52). -/

/-- What a reader holds for a comb word once it has come to a write in comb order. -/
def WordWrite.read (x c n : Nat) (v : Word) (e : WordWrite) : Word :=
  if e.reg = n ∧ (e.cycle + 2 ≤ c ∨ (e.strand = x ∧ e.cycle < c)) then e.value else v

theorem Comb.readWord_eq (k : Comb) (x c n : Nat) : k.readWord x c n = k.log.foldl (WordWrite.read x c n) (Tab.get 0 k.words n) := rfl

/-- Writes that every reader sees may as well stand in the table. -/
theorem read_of_old {x c n : Nat} : ∀ (old : List WordWrite) (t : Tab Word), (∀ e ∈ old, e.cycle + 2 ≤ c) →
    old.foldl (WordWrite.read x c n) (Tab.get 0 t n) = Tab.get 0 (old.foldl (fun t e => Tab.put 0 t e.reg e.value) t) n
  | [], _, _ => rfl
  | e :: old, t, h => by
    have here : WordWrite.read x c n (Tab.get 0 t n) e = Tab.get 0 (Tab.put 0 t e.reg e.value) n := by
      simp [WordWrite.read, Tab.get_put, h e List.mem_cons_self]
    rw [List.foldl_cons, List.foldl_cons, here, read_of_old old _ fun y hy => h y (List.mem_cons_of_mem e hy)]

/-- Settling the log changes nothing that is read from then on. -/
theorem Comb.readWord_settle (k : Comb) {c c' : Nat} (h : c ≤ c') (x n : Nat) : (k.settle c).readWord x c' n = k.readWord x c' n := by
  rw [Comb.readWord_eq, Comb.readWord_eq, Comb.settle]
  dsimp only
  generalize hp : (fun e : WordWrite => decide (e.cycle + 2 ≤ c) && _) = p
  have old : ∀ e ∈ k.log.takeWhile p, e.cycle + 2 ≤ c' := by
    intro e he
    have := List.mem_takeWhile_imp he
    rw [← hp, Bool.and_eq_true, decide_eq_true_eq] at this
    omega
  rw [← read_of_old _ _ old, ← List.foldl_append, List.prefix_iff_eq_append.mp (List.takeWhile_prefix p)]

/-- A write of one comb word changes no other. -/
theorem read_insertWrite_ne {x c n : Nat} {e : WordWrite} (h : e.reg ≠ n) : ∀ (log : List WordWrite) (v : Word),
    (insertWrite e log).foldl (WordWrite.read x c n) v = log.foldl (WordWrite.read x c n) v
  | [], v => if_neg fun h' => h h'.1
  | y :: log, v => by
    unfold insertWrite
    split
    · rw [List.foldl_cons, show WordWrite.read x c n v e = v from if_neg fun h' => h h'.1]
    · rw [List.foldl_cons, List.foldl_cons, read_insertWrite_ne h log]

/-- A write that comes after all others in comb order stands last. -/
theorem insertWrite_last {e : WordWrite} : ∀ {log : List WordWrite}, (∀ y ∈ log, y.cycle < e.cycle ∨ y.cycle = e.cycle ∧ y.strand ≤ e.strand) →
    insertWrite e log = log ++ [e]
  | [], _ => rfl
  | y :: log, h => by
    have before := h y List.mem_cons_self
    rw [insertWrite, if_neg (by omega), insertWrite_last fun z hz => h z (List.mem_cons_of_mem y hz)]
    rfl

theorem Comb.readWord_writeWord_ne (k : Comb) {c c' n m : Nat} (h : c ≤ c') (hm : m ≠ n) (x y : Nat) (v : Word) :
    (k.writeWord y c n v).readWord x c' m = k.readWord x c' m := by
  rw [← Comb.readWord_settle k h]
  exact read_insertWrite_ne hm.symm _ _

theorem Comb.readWord_writeWord_same (k : Comb) {x y c c' n : Nat} (v : Word) (last : ∀ e ∈ k.log, e.cycle < c ∨ e.cycle = c ∧ e.strand ≤ y)
    (seen : c + 2 ≤ c' ∨ x = y ∧ c < c') : (k.writeWord y c n v).readWord x c' n = v := by
  have log : (k.writeWord y c n v).log = (k.settle c).log ++ [{ cycle := c, strand := y, reg := n, value := v, poison := false }] :=
    insertWrite_last fun e he => last e (List.mem_of_mem_drop he)
  rw [Comb.readWord_eq, log, List.foldl_append]
  exact if_pos ⟨rfl, seen.imp id fun ⟨hx, hc⟩ => ⟨hx.symm, hc⟩⟩

/-! What changes where a strand or its comb does. -/

/-- What a write of registers or of comb words by a strand leaves alone: everything but that strand's registers and marks, and the comb's words. -/
structure OnlyRegs (s t : State) (w : Sid) : Prop where
  memory : t.memory = s.memory
  sched : t.sched = s.sched
  fabric : t.fabric = s.fabric
  mgmt : t.mgmt = s.mgmt
  lm : (t.core w.core).lm = (s.core w.core).lm
  others : ∀ x, x ≠ w → t.strand x = s.strand x
  strand : ∃ r m, t.strand w = { s.strand w with regs := r, marks := m }
  resident : (t.comb? w.core w.slot).isSome = true

/-- A change of a comb changes nothing of a core but its combs. -/
theorem State.core_onComb (s : State) (c n : Nat) (f : Comb → Comb) (d : Nat) : ∃ l, (s.onComb c n f).core d = { s.core d with combs := l } := by
  unfold State.onComb
  split
  · by_cases h : c = d
    · subst h
      exact ⟨_, State.core_onCore _ _ _⟩
    · exact ⟨_, State.core_onCore_ne _ _ h⟩
  · exact ⟨_, rfl⟩

theorem State.onComb_lm (s : State) (c n : Nat) (f : Comb → Comb) (d : Nat) : ((s.onComb c n f).core d).lm = (s.core d).lm := by
  obtain ⟨l, h⟩ := s.core_onComb c n f d
  rw [h]

theorem State.onComb_matrix (s : State) (c n : Nat) (f : Comb → Comb) (d : Nat) : ((s.onComb c n f).core d).matrix = (s.core d).matrix := by
  obtain ⟨l, h⟩ := s.core_onComb c n f d
  rw [h]

/-- A change of a comb changes no other. -/
theorem State.comb?_onComb_ne (s : State) {c n c' n' : Nat} (f : Comb → Comb) (h : c ≠ c' ∨ n ≠ n') : (s.onComb c n f).comb? c' n' = s.comb? c' n' := by
  unfold State.onComb
  split
  · by_cases hc : c = c'
    · subst hc
      rw [State.comb?, State.setComb, State.core_onCore]
      dsimp only
      rw [Tab.get_put_ne _ _ _ (h.resolve_left fun hn => hn rfl)]
      rfl
    · rw [State.comb?, State.setComb, State.core_onCore_ne _ _ hc]
      rfl
  · rfl

/-- A change of a comb that keeps a strand of it keeps the strand. -/
theorem State.strand_onComb (s : State) (c n : Nat) (f : Comb → Comb) (x : Sid)
    (h : ∀ k, Tab.get {} (f k).strands x.strand = (Tab.get {} k.strands x.strand : Strand)) : (s.onComb c n f).strand x = s.strand x := by
  by_cases hc : c = x.core ∧ n = x.slot
  · obtain ⟨rfl, rfl⟩ := hc
    rw [State.strand, State.comb, State.comb?_onComb_map, State.strand, State.comb]
    cases s.comb? x.core x.slot with
    | none => rfl
    | some k => exact h k
  · rw [State.strand, State.comb, State.comb?_onComb_ne s f (by omega)]
    rfl

theorem State.strand_onStrand_ne (s : State) {w x : Sid} (f : Strand → Strand) (h : x ≠ w) : (s.onStrand w f).strand x = s.strand x := by
  by_cases hs : w.strand = x.strand
  · have away : w.core ≠ x.core ∨ w.slot ≠ x.slot := by
      by_contra hn
      rw [not_or, not_not, not_not] at hn
      exact h (by cases x; cases w; simp_all)
    rw [State.strand, State.comb, State.onStrand, State.comb?_onComb_ne s _ away]
    rfl
  · exact State.strand_onComb s _ _ _ x fun k => Tab.get_put_ne _ _ _ hs

section
variable {s : State} {w : Sid}

theorem onlyRegs_onStrand {f : Strand → Strand} (h : (s.comb? w.core w.slot).isSome = true) (hf : ∃ r m, f (s.strand w) = { s.strand w with regs := r, marks := m }) :
    OnlyRegs s (s.onStrand w f) w where
  memory := State.onStrand_memory s w f
  sched := State.onStrand_sched s w f
  fabric := State.onStrand_fabric s w f
  mgmt := State.onStrand_mgmt s w f
  lm := State.onComb_lm s _ _ _ _
  others _ hx := State.strand_onStrand_ne s f hx
  strand := by rw [State.strand_onStrand f h]; exact hf
  resident := State.resident_onStrand f h

theorem onlyRegs_onComb {f : Comb → Comb} (h : (s.comb? w.core w.slot).isSome = true) (hf : ∀ k, (f k).strands = k.strands) :
    OnlyRegs s (s.onComb w.core w.slot f) w where
  memory := State.onComb_memory s _ _ f
  sched := State.onComb_sched s _ _ f
  fabric := State.onComb_fabric s _ _ f
  mgmt := State.onComb_mgmt s _ _ f
  lm := State.onComb_lm s _ _ _ _
  others x _ := State.strand_onComb s _ _ f x fun k => by rw [hf]
  strand := ⟨_, _, State.strand_onComb s _ _ f w fun k => by rw [hf]⟩
  resident := State.resident_onComb f h

end

/-! Writes of registers. -/

theorem Strand.putS_only (st : Strand) (n : Nat) (v : Word) : ∃ r m, st.putS n v = { st with regs := r, marks := m } := ⟨_, _, rfl⟩
theorem Strand.putA_only (st : Strand) (n : Nat) (v : Word × Word) : ∃ r m, st.putA n v = { st with regs := r, marks := m } := ⟨_, _, rfl⟩
theorem Strand.putV_only (st : Strand) (n : Nat) (m : Mask) (f : Nat → Word) : ∃ r k, st.putV n m f = { st with regs := r, marks := k } := ⟨_, _, rfl⟩
theorem Strand.putK_only (st : Strand) (n : Nat) (m v : Mask) : ∃ r k, st.putK n m v = { st with regs := r, marks := k } := by
  unfold Strand.putK
  split
  · exact ⟨_, _, rfl⟩
  · exact ⟨_, _, rfl⟩

theorem Strand.putK_live (st : Strand) (n : Nat) (m v : Mask) : (st.putK n m v).live = st.live := by
  obtain ⟨r, k, h⟩ := st.putK_only n m v
  rw [h]

/-- A lane of a varying register after a write of some lanes of one (R44). -/
theorem Strand.putV_lane (st : Strand) (n : Nat) (m : Mask) (f : Nat → Word) (k : Nat) {l : Nat} (hl : l < 32) :
    (Tab.get (Lanes.all 0) (st.putV n m f).regs.v k).at l = if k = n ∧ m.getLsbD l = true then f l else (Tab.get (Lanes.all 0) st.regs.v k).at l := by
  rw [Strand.putV]
  dsimp only
  rw [Tab.get_put]
  by_cases hk : n = k
  · subst hk
    simp [hl]
  · simp [hk, Ne.symm hk]

/-- A bit of a mask register after a write of some bits of one; k0 reads as the live mask, and a write to it is discarded (R43, R44). -/
theorem Strand.putK_bit (st : Strand) (n : Nat) (m v : Mask) (k : Nat) {l : Nat} (hl : l < 32) :
    ((st.putK n m v).mask k).getLsbD l = if k = n ∧ n ≠ 0 ∧ m.getLsbD l = true then v.getLsbD l else (st.mask k).getLsbD l := by
  unfold Strand.putK
  by_cases hn : n = 0
  · simp [hn]
  · rw [if_neg hn]
    unfold Strand.mask
    by_cases hk : k = 0
    · simp [hk, Ne.symm hn]
    · rw [if_neg hk, if_neg hk]
      dsimp only
      rw [Tab.get_put]
      by_cases hnk : n = k
      · subst hnk
        cases hm : m[l] <;> simp [hn, hl, hm]
      · simp [hnk, Ne.symm hnk]

section
variable {s : State} {w : Sid}

theorem State.words_onStrand (f : Strand → Strand) (h : (s.comb? w.core w.slot).isSome = true) :
    ((s.onStrand w f).comb w.core w.slot).words = (s.comb w.core w.slot).words ∧ ((s.onStrand w f).comb w.core w.slot).log = (s.comb w.core w.slot).log := by
  unfold State.onStrand
  rw [State.comb_onComb _ h]
  exact ⟨rfl, rfl⟩

/-! A write of a uniform field: a register, or a comb word. -/

theorem State.writeS_register {n : Nat} (v : Word) (hn : n < 64) : s.writeS w n v = s.onStrand w fun st => st.putS n v := if_pos hn

theorem State.writeS_word {n : Nat} (v : Word) (hn : 64 ≤ n) (ha : (s.strand w).ahead = none) :
    s.writeS w n v = s.onComb w.core w.slot fun k => k.writeWord w.strand s.clock.cycle (n - 64) v := by
  rw [State.writeS, if_neg (Nat.not_lt.mpr hn), ha]
  rfl

theorem onlyRegs_writeS (h : (s.comb? w.core w.slot).isSome = true) (ha : (s.strand w).ahead = none) (n : Nat) (v : Word) : OnlyRegs s (s.writeS w n v) w := by
  rcases Nat.lt_or_ge n 64 with hn | hn
  · rw [State.writeS_register v hn]
    exact onlyRegs_onStrand h (Strand.putS_only _ n v)
  · rw [State.writeS_word v hn ha]
    exact onlyRegs_onComb h fun k => rfl

/-- The registers after a write of a uniform field. -/
theorem State.regs_writeS (h : (s.comb? w.core w.slot).isSome = true) (ha : (s.strand w).ahead = none) (n : Nat) (v : Word) :
    ((s.writeS w n v).strand w).regs = { (s.strand w).regs with s := if n < 64 then Tab.put 0 (s.strand w).regs.s n v else (s.strand w).regs.s } := by
  rcases Nat.lt_or_ge n 64 with hn | hn
  · rw [State.writeS_register v hn, State.strand_onStrand _ h, if_pos hn]
    rfl
  · rw [State.writeS_word v hn ha, if_neg (Nat.not_lt.mpr hn)]
    exact congrArg Strand.regs (State.strand_onComb s _ _ _ w fun _ => rfl)

end

/-- What the strands of a comb read of its words from a cycle on, after a write of a uniform field: word `n` takes the value by comb order, every other is as before (R52). -/
def TakesWord (now : Nat) (k k' : Comb) (y n : Nat) (v : Word) : Prop :=
  ∀ j x c', now ≤ c' → (j ≠ n → k'.readWord x c' j = k.readWord x c' j) ∧
    (j = n → (∀ e ∈ k.log, e.cycle < now ∨ e.cycle = now ∧ e.strand ≤ y) → now + 2 ≤ c' ∨ x = y ∧ now < c' → k'.readWord x c' j = v)

theorem takesWord_writeWord (k : Comb) (now y n : Nat) (v : Word) : TakesWord now k (k.writeWord y now n v) y n v := fun _ x _ hc =>
  ⟨fun hj => Comb.readWord_writeWord_ne k hc hj x y v, fun hj last seen => hj ▸ Comb.readWord_writeWord_same k v last seen⟩

/-- The comb words are those that they were. -/
def SameWords (k k' : Comb) : Prop := k'.words = k.words ∧ k'.log = k.log

theorem SameWords.trans {k k' k'' : Comb} (h : SameWords k k') (h' : SameWords k' k'') : SameWords k k'' := ⟨h'.1.trans h.1, h'.2.trans h.2⟩

theorem TakesWord.trans {now : Nat} {k k' k'' : Comb} {y n : Nat} {v : Word} (h : TakesWord now k k' y n v) (hs : SameWords k' k'') : TakesWord now k k'' y n v := by
  have reads : k''.readWord = k'.readWord := by
    funext x c j
    rw [Comb.readWord_eq, Comb.readWord_eq, hs.1, hs.2]
  rw [TakesWord, reads]
  exact h

section
variable {s t : State} {w : Sid}

theorem State.writeS_words (h : (s.comb? w.core w.slot).isSome = true) (ha : (s.strand w).ahead = none) (n : Nat) (v : Word) :
    if 64 ≤ n then TakesWord s.clock.cycle (s.comb w.core w.slot) ((s.writeS w n v).comb w.core w.slot) w.strand (n - 64) v
    else SameWords (s.comb w.core w.slot) ((s.writeS w n v).comb w.core w.slot) := by
  split
  · rename_i hn
    rw [State.writeS_word v hn ha, State.comb_onComb _ h]
    exact takesWord_writeWord _ _ _ _ _
  · rename_i hn
    rw [State.writeS_register v (Nat.not_le.mp hn)]
    exact State.words_onStrand _ h

end

/-! The move of the issuing lanes (R149). -/

section
variable {s t : State} {i : Issue}

@[simp] theorem Strand.move_ferr (st : Strand) (m : Mask) (f : Nat → Pc) : (st.move m f).ferr = st.ferr := by simp only [Strand.move]
@[simp] theorem Strand.account_ferr (st b : Strand) (c : Nat) : (st.account b c).ferr = st.ferr := by simp only [Strand.account]

/-- Where only registers and comb words have changed, the instruction moves on: nothing else changes but the PCs of the issuing lanes. -/
theorem advance_frame (h : OnlyRegs s t i.w) (ha : (s.strand i.w).ahead = none) : let u := (t.advance i).strand i.w; let st := s.strand i.w
    (t.advance i).memory = s.memory ∧ (t.advance i).sched = s.sched ∧ (t.advance i).fabric = s.fabric ∧ (t.advance i).mgmt = s.mgmt ∧
    ((t.advance i).core i.w.core).lm = (s.core i.w.core).lm ∧ (∀ x, x ≠ i.w → (t.advance i).strand x = s.strand x) ∧
    u.sp = st.sp ∧ u.trap = st.trap ∧ u.live = st.live ∧ u.flight = st.flight ∧ u.region = st.region ∧ u.ferr = st.ferr ∧
    (∀ l < 32, u.pc l = if i.group.getLsbD l then i.next else st.pc l) := by
  obtain ⟨r, m, hst⟩ := h.strand
  have moved : (t.advance i).strand i.w = ((t.strand i.w).move i.group fun _ => i.next).account i.st t.clock.cycle := by
    refine (State.strand_moveTo _ h.resident).trans (Strand.markAhead_none ?_)
    rw [Strand.account_ahead, Strand.move_ahead, hst]
    exact ha
  intro u st
  have field : ∀ {α : Type} (p : Strand → α), (∀ a b c f m, p ((a.move m f).account b c) = p a) → (∀ a r m, p { a with regs := r, marks := m } = p a) → p u = p st := by
    intro α p hp hr
    rw [show u = _ from moved, hp, hst, hr]
  refine ⟨(State.advance_memory t i).trans h.memory, (State.advance_sched t i).trans h.sched, (State.advance_fabric t i).trans h.fabric, (State.advance_mgmt t i).trans h.mgmt,
    (State.onComb_lm t _ _ _ _).trans h.lm, fun x hx => (State.strand_onStrand_ne t _ hx).trans (h.others x hx),
    field _ (by simp) fun _ _ _ => rfl, field _ (by simp) fun _ _ _ => rfl, field _ (by simp) fun _ _ _ => rfl, field _ (by simp) fun _ _ _ => rfl,
    field _ (by simp) fun _ _ _ => rfl, field _ (by simp) fun _ _ _ => rfl, fun l hl => ?_⟩
  rw [show u.pc l = _ from State.moveTo_pc _ h.resident hl, hst]
  rfl

theorem advance_words (h : OnlyRegs s t i.w) : SameWords (t.comb i.w.core i.w.slot) ((t.advance i).comb i.w.core i.w.slot) := State.words_onStrand _ h.resident

end

/-! The result written to D (R44, R75). -/

section
variable {s : State} {i : Issue} {f : Nat → Word}

theorem onlyRegs_refl (h : (s.comb? i.w.core i.w.slot).isSome = true) : OnlyRegs s s i.w :=
  ⟨rfl, rfl, rfl, rfl, rfl, fun _ _ => rfl, ⟨_, _, rfl⟩, h⟩

theorem onlyRegs_writeD (h : (s.comb? i.w.core i.w.slot).isSome = true) (ha : (s.strand i.w).ahead = none) (f : Nat → Word) : OnlyRegs s (s.writeD i f) i.w := by
  unfold State.writeD
  dsimp only
  split
  · exact onlyRegs_onStrand h (Strand.putV_only _ _ _ _)
  · exact onlyRegs_onStrand h (Strand.putK_only _ _ _ _)
  · exact onlyRegs_writeS h ha _ _
  · exact onlyRegs_onStrand h (Strand.putA_only _ _ _)
  · exact onlyRegs_refl h

/-- The registers of the strand after the result is written: by the class of D. -/
theorem State.regs_writeD (h : (s.comb? i.w.core i.w.slot).isSome = true) (ha : (s.strand i.w).ahead = none) (f : Nat → Word) :
    ((s.writeD i f).strand i.w).regs =
      let st := s.strand i.w; let d := i.e.d.toNat
      { s := if i.dClass = .s ∧ d < 64 then Tab.put 0 st.regs.s d (f 0) else st.regs.s
        a := if i.dClass = .a then Tab.put (0, 0) st.regs.a d (f 0, f 1 - f 0) else st.regs.a
        v := if i.dClass = .v then (st.putV (i.st.sp.wb + d) i.act f).regs.v else st.regs.v
        k := if i.dClass = .k then (st.putK d i.act (Mask.of fun l => (f l).getLsbD 0)).regs.k else st.regs.k } := by
  unfold State.writeD
  dsimp only
  split
  · rename_i hc
    rw [State.strand_onStrand _ h, hc]
    simp [Strand.putV]
  · rename_i hc
    rw [State.strand_onStrand _ h, hc]
    unfold Strand.putK
    split <;> simp
  · rename_i hc
    rw [State.regs_writeS h ha, hc]
    simp
  · rename_i hc
    rw [State.strand_onStrand _ h, hc]
    simp [Strand.putA]
  · rename_i hc
    rw [hc]
    simp

theorem State.writeD_words (h : (s.comb? i.w.core i.w.slot).isSome = true) (ha : (s.strand i.w).ahead = none) (f : Nat → Word) :
    if i.dClass = .s ∧ 64 ≤ i.e.d.toNat then TakesWord s.clock.cycle (s.comb i.w.core i.w.slot) ((s.writeD i f).comb i.w.core i.w.slot) i.w.strand (i.e.d.toNat - 64) (f 0)
    else SameWords (s.comb i.w.core i.w.slot) ((s.writeD i f).comb i.w.core i.w.slot) := by
  unfold State.writeD
  dsimp only
  cases hc : i.dClass with
  | s => simpa only [true_and] using State.writeS_words h ha i.e.d.toNat (f 0)
  | n =>
    rw [if_neg (by simp)]
    exact ⟨rfl, rfl⟩
  | v | k | a =>
    rw [if_neg (by simp)]
    exact State.words_onStrand _ h

end

theorem Tab.get_put_where {α : Type} [DecidableEq α] (dflt : α) (t : Tab α) (p : Prop) [Decidable p] (d k : Nat) (v : α) :
    Tab.get dflt (if p then Tab.put dflt t d v else t) k = if p ∧ k = d then v else Tab.get dflt t k := by
  by_cases hp : p
  · simp [hp, Tab.get_put, eq_comm]
  · simp [hp]

/-- A mask register reads by the live mask and the mask registers alone. -/
theorem Strand.mask_congr {a b : Strand} (hl : a.live = b.live) (hk : a.regs.k = b.regs.k) (n : Nat) : a.mask n = b.mask n := by
  rw [Strand.mask, Strand.mask, hl, hk]

section
variable {s : State} {i : Issue}

/-! The registers as an instruction leaves them that has written its result and moved on. -/

theorem State.regs_result (h : (s.comb? i.w.core i.w.slot).isSome = true) (ha : (s.strand i.w).ahead = none) (f : Nat → Word) :
    (((s.writeD i f).advance i).strand i.w).regs = ((s.writeD i f).strand i.w).regs :=
  State.moveTo_regs _ (onlyRegs_writeD h ha f).resident

theorem State.uniform_result (h : (s.comb? i.w.core i.w.slot).isSome = true) (ha : (s.strand i.w).ahead = none) (f : Nat → Word) (k : Nat) :
    Tab.get 0 (((s.writeD i f).advance i).strand i.w).regs.s k =
      if i.dClass = .s ∧ k = i.e.d.toNat ∧ i.e.d.toNat < 64 then f 0 else Tab.get 0 (s.strand i.w).regs.s k := by
  rw [State.regs_result h ha, State.regs_writeD h ha]
  exact (Tab.get_put_where _ _ _ _ _ _).trans (if_congr (by tauto) rfl rfl)

theorem State.affine_result (h : (s.comb? i.w.core i.w.slot).isSome = true) (ha : (s.strand i.w).ahead = none) (f : Nat → Word) (k : Nat) :
    Tab.get (0, 0) (((s.writeD i f).advance i).strand i.w).regs.a k =
      if i.dClass = .a ∧ k = i.e.d.toNat then (f 0, f 1 - f 0) else Tab.get (0, 0) (s.strand i.w).regs.a k := by
  rw [State.regs_result h ha, State.regs_writeD h ha]
  exact Tab.get_put_where _ _ _ _ _ _

theorem State.varying_result (h : (s.comb? i.w.core i.w.slot).isSome = true) (ha : (s.strand i.w).ahead = none) (f : Nat → Word) (k : Nat) {l : Nat} (hl : l < 32) :
    (Tab.get (Lanes.all 0) (((s.writeD i f).advance i).strand i.w).regs.v k).at l =
      if i.dClass = .v ∧ k = i.st.sp.wb + i.e.d.toNat ∧ i.act.getLsbD l = true then f l else (Tab.get (Lanes.all 0) (s.strand i.w).regs.v k).at l := by
  rw [State.regs_result h ha, State.regs_writeD h ha]
  dsimp only
  by_cases hc : i.dClass = .v
  · rw [if_pos hc, Strand.putV_lane _ _ _ _ _ hl]
    exact if_congr (and_iff_right hc).symm rfl rfl
  · rw [if_neg hc, if_neg fun h => hc h.1]

theorem State.mask_result (h : (s.comb? i.w.core i.w.slot).isSome = true) (ha : (s.strand i.w).ahead = none) (f : Nat → Word) (k : Nat) {l : Nat} (hl : l < 32) :
    ((((s.writeD i f).advance i).strand i.w).mask k).getLsbD l =
      if i.dClass = .k ∧ k = i.e.d.toNat ∧ i.e.d.toNat ≠ 0 ∧ i.act.getLsbD l = true then (f l).getLsbD 0 else ((s.strand i.w).mask k).getLsbD l := by
  obtain ⟨-, -, -, -, -, -, -, -, live, -⟩ := advance_frame (onlyRegs_writeD h ha f) ha
  have regs := (State.regs_result h ha f).trans (State.regs_writeD h ha f)
  by_cases hc : i.dClass = .k
  · have bits : (((s.writeD i f).advance i).strand i.w).regs.k = ((s.strand i.w).putK i.e.d.toNat i.act (Mask.of fun l => (f l).getLsbD 0)).regs.k := by
      rw [regs]
      exact if_pos hc
    rw [Strand.mask_congr (live.trans (Strand.putK_live _ _ _ _).symm) bits, Strand.putK_bit _ _ _ _ _ hl, Mask.getLsbD_of, decide_eq_true hl, Bool.true_and]
    exact if_congr (and_iff_right hc).symm rfl rfl
  · have bits : (((s.writeD i f).advance i).strand i.w).regs.k = (s.strand i.w).regs.k := by
      rw [regs]
      exact if_neg hc
    rw [Strand.mask_congr live bits, if_neg fun h => hc h.1]

theorem State.words_result (h : (s.comb? i.w.core i.w.slot).isSome = true) (ha : (s.strand i.w).ahead = none) (f : Nat → Word) :
    if i.dClass = .s ∧ 64 ≤ i.e.d.toNat then
      TakesWord s.clock.cycle (s.comb i.w.core i.w.slot) (((s.writeD i f).advance i).comb i.w.core i.w.slot) i.w.strand (i.e.d.toNat - 64) (f 0)
    else SameWords (s.comb i.w.core i.w.slot) (((s.writeD i f).advance i).comb i.w.core i.w.slot) := by
  have written := State.writeD_words h ha f
  have only := onlyRegs_writeD h ha f
  by_cases hp : i.dClass = .s ∧ 64 ≤ i.e.d.toNat
  · rw [if_pos hp] at written ⊢
    exact written.trans (advance_words only)
  · rw [if_neg hp] at written ⊢
    exact written.trans (advance_words only)

/-! The same of a uniform field. -/

theorem State.regs_setResult (h : (s.comb? i.w.core i.w.slot).isSome = true) (ha : (s.strand i.w).ahead = none) (n : Nat) (v : Word) :
    (((s.writeS i.w n v).advance i).strand i.w).regs = { (s.strand i.w).regs with s := if n < 64 then Tab.put 0 (s.strand i.w).regs.s n v else (s.strand i.w).regs.s } :=
  (State.moveTo_regs _ (onlyRegs_writeS h ha n v).resident).trans (State.regs_writeS h ha n v)

theorem State.uniform_setResult (h : (s.comb? i.w.core i.w.slot).isSome = true) (ha : (s.strand i.w).ahead = none) (n : Nat) (v : Word) (k : Nat) :
    Tab.get 0 (((s.writeS i.w n v).advance i).strand i.w).regs.s k = if k = n ∧ n < 64 then v else Tab.get 0 (s.strand i.w).regs.s k := by
  rw [State.regs_setResult h ha]
  exact (Tab.get_put_where _ _ _ _ _ _).trans (if_congr and_comm rfl rfl)

theorem State.words_setResult (h : (s.comb? i.w.core i.w.slot).isSome = true) (ha : (s.strand i.w).ahead = none) (n : Nat) (v : Word) :
    if 64 ≤ n then TakesWord s.clock.cycle (s.comb i.w.core i.w.slot) (((s.writeS i.w n v).advance i).comb i.w.core i.w.slot) i.w.strand (n - 64) v
    else SameWords (s.comb i.w.core i.w.slot) (((s.writeS i.w n v).advance i).comb i.w.core i.w.slot) := by
  have written := State.writeS_words h ha n v
  have only := onlyRegs_writeS h ha n v
  by_cases hp : 64 ≤ n
  · rw [if_pos hp] at written ⊢
    exact written.trans (advance_words only)
  · rw [if_neg hp] at written ⊢
    exact written.trans (advance_words only)

end

/-- Settles O8: a result changes its register or comb word alone, and the move of the issuing lanes their PCs alone. -/
theorem resultsChangeTheirDestination : Obligations.ResultsChangeTheirDestination := by
  intro n o e s h hres w i st d c frame k now words
  have ha : (s.strand i.w).ahead = none := h.normal
  refine ⟨fun f hr => ⟨_, hr, advance_frame (onlyRegs_writeD hres ha _) ha, State.uniform_result hres ha _, State.affine_result hres ha _,
    fun k _ hl => State.mask_result hres ha _ k hl, fun k _ hl => State.varying_result hres ha _ k hl, State.words_result hres ha _⟩, fun v hs => ?_⟩
  have regs := State.regs_setResult (i := i) hres ha d (v i)
  exact ⟨_, hs, advance_frame (onlyRegs_writeS hres ha d _) ha, State.uniform_setResult hres ha d _, (congrArg Regs.a regs :), (congrArg Regs.k regs :), (congrArg Regs.v regs :),
    State.words_setResult hres ha d _⟩

end Sys2Proof.Machine
end

section
/-! Proofs about the instructions that a matrix stream runs itself (O47): what a change of the stream leaves alone, the write of its own register, and its end by a fault. -/

namespace Sys2Proof.Machine
open Sys2Proof Sys2Proof.Safety

/-! The running stream changed. -/

section
variable {s : State} {c : Nat} {x : Stream} {f g : Stream → Stream}

theorem State.stream?_onStream : (s.onStream c f).stream? c = (s.stream? c).map f := by
  rw [State.onStream, State.stream?, State.core_onCore]
  rfl

theorem State.combs_onStream : ((s.onStream c f).core c).combs = (s.core c).combs := by
  rw [State.onStream, State.core_onCore]

/-- A change of the stream is what it makes of the stream that runs. -/
theorem State.onStream_congr (h : s.stream? c = some x) (hf : f x = g x) : s.onStream c f = s.onStream c g := by
  rw [State.stream?] at h
  simp only [State.onStream, State.onCore, h, Option.map_some, hf]

/-- The running stream becomes `y`, and neither memory nor a comb changes. -/
structure OnlyStream (s t : State) (c : Nat) (y : Stream) : Prop where
  stream : t.stream? c = some y
  memory : t.memory = s.memory
  combs  : (t.core c).combs = (s.core c).combs

theorem onlyStream_onStream (h : s.stream? c = some x) : OnlyStream s (s.onStream c f) c (f x) where
  stream := by rw [State.stream?_onStream, h]; rfl
  memory := rfl
  combs := State.combs_onStream

theorem OnlyStream.trans {t u : State} {y z : Stream} (h : OnlyStream s t c y) (h' : OnlyStream t u c z) : OnlyStream s u c z :=
  ⟨h'.stream, h'.memory.trans h.memory, h'.combs.trans h.combs⟩

/-- A result in a register of the stream's own (R277). -/
theorem seqWrite_register (h : s.stream? c = some x) {e : Enc} (hd : e.d.toNat < 64) (v : Word) :
    OnlyStream s (seqWrite e v c x s) c { x with s := Tab.put 0 x.s e.d.toNat v, pc := x.pc + BitVec.ofNat 57 e.bytes } := by
  have put : OnlyStream s (s.seqPut c x e.d.toNat v) c { x with s := Tab.put 0 x.s e.d.toNat v } := by
    rw [State.seqPut, if_pos hd]
    exact onlyStream_onStream h
  have own : ¬ (e.d.toNat ≥ 64 && !x.drained) = true := by simp [hd]
  rw [seqWrite, if_neg own]
  exact put.trans (onlyStream_onStream put.stream)

/-- A write of a comb word waits for the commands before it (R284). -/
theorem seqWrite_waits {e : Enc} (hd : 64 ≤ e.d.toNat) (hx : x.drained = false) (v : Word) : seqWrite e v c x s = s := by
  rw [seqWrite, if_pos (by simp [hd, hx])]

theorem State.seqAdvance_eq (h : s.stream? c = some x) (e : Enc) : s.seqAdvance c e = s.onStream c fun y => { y with pc := x.pc + BitVec.ofNat 57 e.bytes } :=
  State.onStream_congr h rfl

end

/-! The results, the moves and the waits of a stream's instructions. -/

section
variable {n : Instr} {o : Op} {e : Enc} {s : State} {x : Stream} {body : Nat → Stream → State → State} {u : State}

/-- An instruction that a stream executes takes the course of its body. -/
theorem exec_stream (hn : exec n s = next (if s.cur.strand = seqIndex then runStream o e s body else u)) (h : StreamActive o e s x) :
    exec n s = .next (body s.cur.core x s) := by
  rw [hn, if_pos h.stream, runStream_active h]
  rfl

/-- An instruction that computes a value writes it to the stream's own register; without .ov its exact value is not asked for (R76, R277). -/
theorem compute_putsRegister {exact : Option (Args → Nat → Int)} {val : Args → Nat → Word} (hn : exec n s = next (compute o e s exact val)) (h : StreamActive o e s x)
    (hq : e.qbit 0 = false) (hd : e.d.toNat < 64) :
    Becomes n s fun t => OnlyStream s t s.cur.core { x with s := Tab.put 0 x.s e.d.toNat (val (s.seqArgs s.cur.core x o e) 0), pc := x.pc + BitVec.ofNat 57 e.bytes } := by
  refine ⟨_, hn, ?_⟩
  rw [compute_stream h fun _ _ hq' => absurd hq' (by simp [hq])]
  exact seqWrite_register h.runs hd _

end

/-! The end of a stream by a fault (R282). -/

theorem neighbour_ne (c : Nat) : neighbour c ≠ c := by
  unfold neighbour
  split <;> omega

/-- Where a pairing dissolves, the other stream alone changes. -/
theorem State.core_dissolve (s : State) (c : Nat) (x : Stream) : (s.dissolve c x).core c = s.core c ∧ (s.dissolve c x).memory = s.memory := by
  unfold State.dissolve
  split
  · exact ⟨State.core_onCore_ne _ _ (neighbour_ne c), rfl⟩
  · exact ⟨rfl, rfl⟩

/-- The strand that takes the fault keeps its comb's end state. -/
theorem State.ending_onStrand (s : State) (w : Sid) (f : Strand → Strand) (h : (s.comb? w.core w.slot).isSome = true) :
    ((s.onStrand w f).comb w.core w.slot).ending = (s.comb w.core w.slot).ending := by
  rw [State.onStrand, State.comb_onComb _ h]

/-- The fault idles the sequencer and leaves the end state in the comb; neither memory nor LM nor the accumulators change. -/
theorem streamFault_ends (s : State) (c : Nat) (x : Stream) (cause pc : Nat) (tval : Dbl) : let t := s.streamFault c x cause pc tval
    t.stream? c = none ∧ t.memory = s.memory ∧ (t.core c).lm = (s.core c).lm ∧ (t.core c).matrix.acc = (s.core c).matrix.acc ∧
    ((s.comb? c x.slot).isSome = true → (t.comb c x.slot).ending = some { cause := cause, pc := pc, tval := tval }) := by
  obtain ⟨core, memory⟩ := s.core_dissolve c x
  unfold State.streamFault
  dsimp only
  generalize hu : (s.dissolve c x).onCore c _ = u
  have idle : (u.core c).matrix.stream = none ∧ (u.core c).matrix.acc = (s.core c).matrix.acc ∧ (u.core c).lm = (s.core c).lm ∧ (u.core c).combs = (s.core c).combs := by
    rw [← hu, State.core_onCore, core]
    exact ⟨rfl, rfl, rfl, rfl⟩
  obtain ⟨stream, acc, lm, combs⟩ := idle
  have comb : u.comb? c x.slot = s.comb? c x.slot := by rw [State.comb?, combs]; rfl
  have kept : u.memory = s.memory := by rw [← hu]; exact memory
  generalize hv : u.onComb c x.slot _ = v
  have ended : (v.core c).matrix = (u.core c).matrix ∧ (v.core c).lm = (u.core c).lm ∧ v.memory = u.memory := by
    rw [← hv]
    exact ⟨State.onComb_matrix _ _ _ _ _, State.onComb_lm _ _ _ _ _, State.onComb_memory _ _ _ _⟩
  obtain ⟨vmatrix, vlm, vmemory⟩ := ended
  have ending : (s.comb? c x.slot).isSome = true → (v.comb? c x.slot).isSome = true ∧ (v.comb c x.slot).ending = some { cause := cause, pc := pc, tval := tval } := by
    intro h
    rw [← comb] at h
    rw [← hv]
    exact ⟨State.resident_onComb _ h, by rw [State.comb_onComb _ h]⟩
  split
  · refine ⟨?_, (State.onStrand_memory _ _ _).trans (vmemory.trans kept), (State.onComb_lm _ _ _ _ _).trans (vlm.trans lm), ?_, fun h => ?_⟩
    · exact (congrArg Matrix.stream ((State.onComb_matrix _ _ _ _ _).trans vmatrix)).trans stream
    · exact (congrArg Matrix.acc ((State.onComb_matrix _ _ _ _ _).trans vmatrix)).trans acc
    · exact (State.ending_onStrand v { core := c, slot := x.slot, strand := _ } _ (ending h).1).trans (ending h).2
  · exact ⟨(congrArg Matrix.stream vmatrix).trans stream, vmemory.trans kept, vlm.trans lm, (congrArg Matrix.acc vmatrix).trans acc, fun h => (ending h).2⟩

/-- A stream that meets an instruction outside R33, with its commands completed, ends by the fault. -/
theorem runStream_illegal {o : Op} {e : Enc} {s : State} {x : Stream} {body : Nat → Stream → State → State} (runs : s.stream? s.cur.core = some x)
    (may : s.seqMay s.cur.core x = true) (drained : x.drained = true)
    (free : ((o.reads e 0).any fun r => ((s.comb s.cur.core x.slot).pendingWords s.clock.cycle).contains r) = false) (illegal : o.seqLegal e = false) :
    runStream o e s body = s.streamFault s.cur.core x Cause.illegalInstr.code x.pc.toNat ((o.word0 e).setWidth 64) := by
  simp only [runStream, runs, may, free, illegal, State.seqFault, drained, Trap.of_word]
  simp

/-! The barriers. -/

/-- BBADD with its commands completed and its checks passed writes the barrier's new value (R261). -/
theorem bbWrite_add {e : Enc} {s : State} {x : Stream} (h : StreamActive .bbadd e s x) (drained : x.drained = true)
    (free : s.bbCheck .bbadd (seqSid s.cur.core x) (s.seqOpnd s.cur.core x .bbadd e .a).toNat (s.seqOpnd s.cur.core x .bbadd e .b) = none) {b : Nat}
    (value : s.bbValue .bbadd e.sub (seqSid s.cur.core x) (s.seqOpnd s.cur.core x .bbadd e .a).toNat (s.seqOpnd s.cur.core x .bbadd e .b) = .ok b) :
    bbWrite .bbadd e s = (s.winWrite s.cur.core x.slot (s.seqOpnd s.cur.core x .bbadd e .a).toNat 8 b).seqAdvance s.cur.core e := by
  simp only [bbWrite, if_pos h.stream, runStream_active h, drained, free, value]
  rfl

theorem bbValue_add {s : State} {sub : BitVec 8} {w : Sid} {off b : Nat} {v : Word}
    (h : bbUpdate (s.winRead w.core w.slot off 8) v.toNat (if sub = 1 then 0 else 1) = some b) : s.bbValue .bbadd sub w off v = .ok b := by
  simp only [State.bbValue, h]

/-- The bits of BBTEST's result: the phase reached, OVF, ERR (R263). -/
theorem bbStatus_eq (b : Nat) (v : Word) : bbStatus b v =
    BitVec.ofNat 32 ((if bit b 39 = v.getLsbD 0 then 1 else 0) + (if bit b 63 then 2 else 0) + (if bit b 62 then 4 else 0)) := by
  have reached : b2n (bit b 39 == v.getLsbD 0) = if bit b 39 = v.getLsbD 0 then 1 else 0 := by
    simp only [b2n, beq_iff_eq]
  have ovf : 2 * b2n (bit b 63) = if bit b 63 then 2 else 0 := by
    cases bit b 63 <;> rfl
  have err : 4 * b2n (bit b 62) = if bit b 62 then 4 else 0 := by
    cases bit b 62 <;> rfl
  rw [bbStatus, reached, ovf, err]

theorem bruTaken_iff (e : Enc) (v : Word) : bruTaken e v = true ↔ (e.sub = 0 ∧ v ≠ 0) ∨ (e.sub ≠ 0 ∧ v = 0) := by
  unfold bruTaken
  by_cases h : e.sub = 0
  · rw [if_pos h, bne_iff_ne]
    tauto
  · rw [if_neg h, beq_iff_eq]
    tauto

/-- Settles O47: each instruction takes its own course of the stream, and LD, which is outside R33, ends it. -/
theorem streamInstructions : Obligations.StreamInstructions := by
  intro e s x c next puts goes off21 off14 v bar word free waits
  have computes : ∀ (n : Instr) (o : Op) (f : Word → Word → Word) {exact}, exec n s = Machine.next (compute o e s exact fun r l => f (r.a l) (r.b l)) → puts n o f := by
    intro n o f exact hn h hq hd
    obtain ⟨t, ht, only⟩ := compute_putsRegister hn h hq hd
    exact ⟨t, ht, _, only.stream, rfl, Tab.get_put_same _ _ _ _, fun k hk => Tab.get_put_ne _ _ _ hk.symm, rfl, only.memory, only.combs⟩
  refine ⟨computes _ _ _ rfl, computes _ _ _ rfl, computes _ _ _ rfl, computes _ _ _ rfl, ?nop, ?jmp, ?bru, ?exit, ?bbinit, ?bbaddWaits, ?gset, ?wordWaits,
    ?bbadd, ?bbwait, ?bbtest, ?msync, ?illegal⟩
  case nop => exact fun h => (exec_stream rfl h).trans (congrArg _ (State.seqAdvance_eq h.runs e))
  case jmp =>
    intro h
    refine (exec_stream rfl h).trans (congrArg _ ?_)
    exact State.onStream_congr h.runs rfl
  case bru =>
    intro h
    refine (exec_stream rfl h).trans (congrArg _ ?_)
    by_cases taken : (e.sub = 0 ∧ v ≠ 0) ∨ (e.sub ≠ 0 ∧ v = 0)
    · rw [if_pos taken, if_pos ((bruTaken_iff e v).mpr taken)]
      exact State.onStream_congr h.runs rfl
    · rw [if_neg taken, if_neg fun h' => taken ((bruTaken_iff e v).mp h')]
      exact State.seqAdvance_eq h.runs e
  case exit => exact fun h => (exec_stream rfl h).trans rfl
  case bbinit | bbaddWaits | gset => exact fun h hx => (exec_stream rfl h).trans (congrArg _ (if_pos (by rw [hx]; rfl)))
  case wordWaits =>
    intro hd hq h hx
    exact congrArg Machine.next ((compute_stream h fun _ _ hq' => absurd hq' (by simp [hq])).trans (seqWrite_waits hd hx _))
  case bbadd => exact fun h hx hf b hb => congrArg Machine.next (bbWrite_add h hx hf (bbValue_add hb))
  case bbwait =>
    intro h hf
    refine (exec_stream rfl h).trans (congrArg _ ?_)
    dsimp only
    rw [show s.bbCheck .bbwait (seqSid s.cur.core x) _ _ = none from hf]
    exact if_congr beq_iff_eq rfl rfl
  case bbtest =>
    intro h hf hd
    have only := seqWrite_register h.runs hd (bbStatus (word .bbtest) (s.seqOpnd c x .bbtest e .b))
    have waits : x.wait = none := by
      have may := h.may
      rw [State.seqMay, Bool.and_eq_true, Option.isNone_iff_eq_none] at may
      exact may.1
    refine ⟨_, (exec_stream rfl h).trans (congrArg _ ?_), only.memory, only.combs, _, only.stream, rfl, rfl, waits, (Tab.get_put_same _ _ _ _).trans (bbStatus_eq _ _)⟩
    dsimp only
    rw [show s.bbCheck .bbtest (seqSid s.cur.core x) _ _ = none from hf]
  case msync => exact fun h hd hs => (exec_stream rfl h).trans (congrArg _ (if_neg (by rw [hd, hs]; simp)))
  case illegal =>
    intro here runs may drained pending illegal
    exact ⟨_, congrArg Machine.next ((if_pos here).trans (runStream_illegal runs may drained pending illegal)), streamFault_ends _ _ _ _ _ _⟩

end Sys2Proof.Machine
end

section
/-! The functions of words that the arithmetic, shift and bit instructions compute (R77, R83 to R87), and the count and the lowest lane of a mask (R68). -/

namespace Sys2Proof

/-! Fields of bits. -/

/-- A field of a word as a number. -/
theorem bits_toNat (x : Word) (lo : Nat) {w : Nat} (hw : 0 < w) : bits x.toNat (lo + w - 1) lo = (x.extractLsb' lo w).toNat := by
  rw [bits, BitVec.extractLsb'_toNat, Nat.shiftRight_eq_div_pow, show lo + w - 1 + 1 - lo = w by omega]

/-- Sign extension is the signed value of the bits. -/
theorem sx_toNat {w : Nat} (v : BitVec w) (hw : 0 < w) : sx v.toNat w = v.toInt := by
  obtain ⟨n, rfl⟩ : ∃ n, w = n + 1 := ⟨w - 1, by omega⟩
  rw [sx, BitVec.toInt_eq_toNat_cond, Nat.mod_eq_of_lt v.isLt, Nat.add_sub_cancel, Nat.pow_succ]
  exact if_congr (by omega) rfl rfl

/-- A number with a field replaced: the bits above, the field and the bits below. -/
theorem setBits_eq (x lo v : Nat) {w : Nat} (hw : 0 < w) : setBits x (lo + w - 1) lo v = 2 ^ lo * (2 ^ w * (x / 2 ^ lo / 2 ^ w) + v % 2 ^ w) + x % 2 ^ lo := by
  have outer := Nat.div_add_mod x (2 ^ lo)
  have inner := Nat.div_add_mod (x / 2 ^ lo) (2 ^ w)
  rw [setBits, bits, show lo + w - 1 + 1 - lo = w by omega, Nat.mul_comm _ (2 ^ lo), Nat.mul_comm _ (2 ^ lo), Nat.mul_add]
  rw [← inner, Nat.mul_add] at outer
  omega

theorem testBit_setBits (x lo v k : Nat) {w : Nat} (hw : 0 < w) :
    (setBits x (lo + w - 1) lo v).testBit k = if lo ≤ k ∧ k < lo + w then v.testBit (k - lo) else x.testBit k := by
  rw [setBits_eq x lo v hw, Nat.testBit_two_pow_mul_add _ (Nat.mod_lt _ (Nat.two_pow_pos lo)), Nat.testBit_two_pow_mul_add _ (Nat.mod_lt _ (Nat.two_pow_pos w)),
    Nat.testBit_mod_two_pow, Nat.testBit_mod_two_pow, Nat.testBit_div_two_pow, Nat.testBit_div_two_pow]
  by_cases below : k < lo
  · simp [below, show ¬ lo ≤ k by omega]
  · by_cases inside : k - lo < w
    · simp [below, inside, show lo ≤ k ∧ k < lo + w by omega]
    · rw [if_neg below, if_neg inside, if_neg (by omega), show k - lo - w + w + lo = k by omega]

/-! Masks. -/

/-- The count of a mask's bits. -/
theorem Mask.count_eq (m : Mask) : Mask.count m = (List.range 32).countP fun k => m.getLsbD k :=
  List.countP_eq_length_filter.symm

/-- The lowest lane of a mask is the first that it holds. -/
theorem Mask.lowest_eq {m : Mask} {k : Nat} (h : (k = 32 ∧ m = 0) ∨ (k < 32 ∧ m.getLsbD k = true ∧ ∀ j < k, m.getLsbD j = false)) : Mask.lowest m = k := by
  rw [Mask.lowest, Mask.lanes, List.headD_eq_head?_getD, List.head?_filter]
  rcases h with ⟨rfl, rfl⟩ | ⟨hk, isSet, clear⟩
  · rw [List.find?_eq_none.mpr (by simp)]
    rfl
  · rw [List.find?_range_eq_some.mpr ⟨isSet, List.mem_range.mpr hk, fun j hj => by rw [clear j hj]; rfl⟩]
    rfl

end Sys2Proof

namespace Sys2Proof.Machine
open Sys2Proof Sys2Proof.Safety

/-! The functions of R77 as the exact integers leave them. -/

theorem ofInt_sub_toInt (x y : Word) : BitVec.ofInt 32 (x.toInt - y.toInt) = x - y := by
  rw [Int.sub_eq_add_neg, BitVec.ofInt_add, BitVec.ofInt_neg, BitVec.ofInt_toInt, BitVec.ofInt_toInt, BitVec.sub_eq_add_neg]

theorem ofInt_abs_toInt (x : Word) : BitVec.ofInt 32 |x.toInt| = if x.getLsbD 31 then -x else x := by
  have sign : x.getLsbD 31 = decide (x.toInt < 0) := BitVec.msb_eq_toInt (x := x)
  rw [sign]
  by_cases h : x.toInt < 0
  · simp [h, abs_of_neg h, BitVec.ofInt_neg]
  · simp [h, abs_of_nonneg (not_lt.mp h)]

/-- The high word of a 64-bit value is the floor of its 2^32th part. -/
theorem extractLsb'_ofInt (z : Int) : (BitVec.ofInt 64 z).extractLsb' 32 32 = BitVec.ofInt 32 (z / (2 ^ 32 : Nat)) := by
  apply BitVec.eq_of_toNat_eq
  rw [BitVec.extractLsb'_toNat, BitVec.toNat_ofInt, BitVec.toNat_ofInt, Nat.shiftRight_eq_div_pow]
  omega

theorem high_product (x y : Word) : (x.signExtend 64 * y.signExtend 64).extractLsb' 32 32 = BitVec.ofInt 32 (x.toInt * y.toInt / (2 ^ 32 : Nat)) := by
  rw [BitVec.signExtend, BitVec.signExtend, ← BitVec.ofInt_mul, extractLsb'_ofInt]

theorem high_product_unsigned (x y : Word) : (x.setWidth 64 * y.setWidth 64).extractLsb' 32 32 = BitVec.ofNat 32 (x.toNat * y.toNat / 2 ^ 32) := by
  apply BitVec.eq_of_toNat_eq
  rw [BitVec.extractLsb'_toNat, BitVec.toNat_mul, BitVec.toNat_setWidth_of_le (by omega), BitVec.toNat_setWidth_of_le (by omega), BitVec.toNat_ofNat, Nat.shiftRight_eq_div_pow]
  omega

/-! Shifts by the full amount (R83). -/

theorem shlWord_eq (x n : Word) : shlWord x n = x <<< n := by
  unfold shlWord
  split
  · rfl
  · exact (BitVec.shiftLeft_eq_zero (by omega)).symm

theorem shrWord_eq (x n : Word) : shrWord x n = x >>> n := by
  unfold shrWord
  split
  · rfl
  · exact (BitVec.ushiftRight_eq_zero (by omega)).symm

theorem allOrNone_bit (b : Bool) {k : Nat} (hk : k < 32) : (allOrNone b).getLsbD k = b := by
  cases b
  · exact BitVec.getLsbD_zero
  · exact BitVec.getLsbD_allOnes.trans (decide_eq_true hk)

theorem sarWord_eq (x n : Word) : sarWord x n = x.sshiftRight n.toNat := by
  unfold sarWord
  split
  · rfl
  · apply BitVec.eq_of_getLsbD_eq
    intro k hk
    rw [BitVec.getLsbD_sshiftRight, if_neg (by omega), BitVec.msb_eq_getLsbD_last, allOrNone_bit _ hk]
    simp [hk]

/-! Bit fields and bit counts (R84, R85). -/

theorem bfxWord_eq (signed : Bool) (x y z : Word) : bfxWord signed x y z =
    let v := x.extractLsb' y.toNat (min z.toNat (32 - y.toNat)); if signed then v.signExtend 32 else v.setWidth 32 := by
  unfold bfxWord
  dsimp only
  generalize hw : min z.toNat (32 - y.toNat) = w
  have empty : y.toNat ≥ 32 ∨ z = 0 ↔ w = 0 := by bv_omega
  by_cases h : w = 0
  · rw [if_pos (empty.mpr h)]
    subst h
    rw [BitVec.eq_nil (x.extractLsb' _ 0)]
    cases signed
    · rfl
    · rfl
  · have hpos : 0 < w := Nat.pos_of_ne_zero h
    rw [if_neg fun h' => h (empty.mp h'), bits_toNat x _ hpos, sx_toNat _ hpos, BitVec.ofNat_toNat]
    rfl

theorem bfiWord_bit (old x y z : Word) {k : Nat} (hk : k < 32) : (bfiWord old x y z).getLsbD k =
    if y.toNat ≤ k ∧ k < y.toNat + min z.toNat (32 - y.toNat) then x.getLsbD (k - y.toNat) else old.getLsbD k := by
  unfold bfiWord
  dsimp only
  by_cases empty : y.toNat ≥ 32 ∨ z = 0
  · have none : ¬ (y.toNat ≤ k ∧ k < y.toNat + min z.toNat (32 - y.toNat)) := by bv_omega
    rw [if_pos empty, if_neg none]
  · have hpos : 0 < min z.toNat (32 - y.toNat) := by bv_omega
    rw [if_neg empty, BitVec.getLsbD_ofNat, decide_eq_true hk, Bool.true_and, testBit_setBits _ _ _ _ hpos]
    rfl

/-- The leading zeros below bit `n`, counted from the top. -/
theorem clzAuxRec_eq (x : Word) : ∀ n < 32, x.clzAuxRec n = BitVec.ofNat 32 (31 - n + ((List.range (n + 1)).reverse.takeWhile fun k => !x.getLsbD k).length)
  | 0, _ => by
    rw [BitVec.clzAuxRec_zero, show (List.range (0 + 1)).reverse = [0] from rfl, List.takeWhile_cons]
    cases x.getLsbD 0
    · rfl
    · rfl
  | n + 1, hn => by
    rw [BitVec.clzAuxRec_succ, clzAuxRec_eq x n (by omega), List.range_succ (n := n + 1), List.reverse_append, List.reverse_singleton, List.singleton_append, List.takeWhile_cons]
    cases h : x.getLsbD (n + 1)
    · simp only [Bool.not_false, if_true, if_false, List.length_cons, Bool.false_eq_true]
      congr 1
      omega
    · simp

theorem clzWord_eq (x : Word) : clzWord x = x.clz := by
  rw [BitVec.clz, clzAuxRec_eq x 31 (by omega), clzWord]
  simp only [Nat.sub_self, Nat.zero_add]

theorem brevWord_eq (x : Word) : brevWord x = x.reverse := by
  apply BitVec.eq_of_getLsbD_eq
  intro k hk
  rw [brevWord, Mask.getLsbD_of, BitVec.getLsbD_reverse, BitVec.getMsbD_eq_getLsbD]

/-! Elements (R78, R87). -/

/-- An element of a word by its bits. -/
theorem elemVal_bits {w : Nat} (hw : 0 < w) (unsigned : Bool) (x : Word) (j : Nat) :
    elemVal w unsigned (bits x.toNat (w * j + w - 1) (w * j)) = element w unsigned x j := by
  rw [elemVal, element, bits_toNat x _ hw, sx_toNat _ hw]

theorem dot4Word_eq (sub : BitVec 8) (x y z : Word) : dot4Word sub.toNat x y z =
    let p := fun j => element 8 (sub == 1) x j * element 8 (sub != 0) y j; BitVec.ofInt 32 (z.toNat + p 0 + p 1 + p 2 + p 3) := by
  have one : (sub.toNat == 1) = (sub == 1) := by
    rw [Bool.eq_iff_iff, beq_iff_eq, beq_iff_eq]
    bv_omega
  have zero : (sub.toNat != 0) = (sub != 0) := by
    rw [Bool.eq_iff_iff, bne_iff_ne, bne_iff_ne]
    bv_omega
  have elements : ∀ (u : Bool) (v : Word) (j : Nat), elemVal 8 u (bits v.toNat (8 * j + 7) (8 * j)) = element 8 u v j := fun u v j => elemVal_bits (w := 8) (by omega) u v j
  simp only [dot4Word, one, zero, elements, show List.range 4 = [0, 1, 2, 3] from rfl, List.foldl_cons, List.foldl_nil, w32]

end Sys2Proof.Machine
end

section
/-! Exact values that leave the range of 32 bits, and what .ov makes of them (R47, R76). -/

namespace Sys2Proof.Machine
open Sys2Proof Sys2Proof.Safety

/-- An exact value that does not fit a signed word. -/
def Outside (x : Int) : Prop := x < -(2 ^ 31 : Int) ∨ 2 ^ 31 - 1 < x

theorem not_outside {x : Int} : ¬ Outside x ↔ -(2 ^ 31 : Int) ≤ x ∧ x ≤ 2 ^ 31 - 1 := by
  unfold Outside
  omega

/-- A mask that names the lanes whose value does not fit is the overflow mask. -/
theorem overflowMask_eq {f : Nat → Int} {lanes m : Mask} (h : ∀ l < 32, m.getLsbD l = true ↔ lanes.getLsbD l = true ∧ Outside (f l)) :
    overflowMask f lanes = m := by
  apply BitVec.eq_of_getLsbD_eq
  intro l hl
  rw [overflowMask, Mask.getLsbD_of, Bool.eq_iff_iff, h l hl]
  simp [hl, Outside]

/-- Only whether the exact values fit matters to .ov. -/
theorem inRange_congr {o : Op} {e : Enc} {s : State} {f g : Issue → Nat → Int}
    (hfg : ∀ l, Outside (f (s.issue o e) l) ↔ Outside (g (s.issue o e) l)) (h : InRange o e s f) : InRange o e s g :=
  fun hq l hl hc => not_outside.mp fun hg => not_outside.mpr (h hq l hl hc) ((hfg l).mpr hg)

/-- Multiplied by 2 to the power 64 or more, no integer but 0 fits. -/
theorem outside_mul_two_pow {x : Int} (hx : x ≠ 0) {n : Nat} (hn : 64 ≤ n) : Outside (x * (2 ^ n : Nat)) := by
  have large : (2 : Int) ^ 64 ≤ (2 ^ n : Nat) := by exact_mod_cast Nat.pow_le_pow_right (by omega) hn
  unfold Outside
  rcases Int.lt_or_gt_of_ne hx with neg | pos
  · left; nlinarith
  · right; nlinarith

/-- The amount that SHL counts up to does not change whether the exact value fits (R76). -/
theorem outside_shlExact (x : Int) (n : Nat) : Outside (execShl.shlExact x n) ↔ Outside (x * (2 ^ n : Nat)) := by
  unfold execShl.shlExact
  rcases Nat.le_total n 64 with hn | hn
  · rw [Nat.min_eq_left hn]
  · rw [Nat.min_eq_right hn]
    by_cases hx : x = 0
    · simp [hx]
    · exact iff_of_true (outside_mul_two_pow hx (Nat.le_refl 64)) (outside_mul_two_pow hx hn)

section
variable {i : Issue} {f : Nat → Int} {m : Mask}

/-- What AFFINE_OVERFLOW reports, by the class of D (R47, R76). -/
theorem ovTrap_affine (hd : i.dClass = .a) (hm : m ≠ 0) (h : ∀ l < 32, m.getLsbD l = true ↔ Outside (f l)) :
    i.ovTrap f = some { cause := .affineOverflow, tval := m.setWidth 64 } := by
  have mask : overflowMask f (BitVec.allOnes 32) = m := overflowMask_eq fun l hl => by
    rw [h l hl, BitVec.getLsbD_allOnes, decide_eq_true hl, and_iff_right rfl]
  simp only [Issue.ovTrap, hd, mask, if_neg hm]
  rfl

theorem ovTrap_varying (hd : i.dClass = .v) (hm : m ≠ 0) (h : ∀ l < 32, m.getLsbD l = true ↔ i.act.getLsbD l = true ∧ Outside (f l)) :
    i.ovTrap f = some { cause := .affineOverflow, tval := m.setWidth 64 } := by
  simp only [Issue.ovTrap, hd, overflowMask_eq h, if_neg hm]
  rfl

theorem ovTrap_uniform (hd : i.dClass = .s) (h : Outside (f 0)) : i.ovTrap f = some { cause := .affineOverflow, tval := i.act.setWidth 64 } := by
  have mask : overflowMask f 1 ≠ 0 := fun hz => not_outside.mpr (overflowMask_eq_zero.mp hz 0 (by omega) (by decide)) h
  simp only [Issue.ovTrap, hd, if_neg mask]
  rfl

end

/-- With .ov, an instruction that computes a value enters the handler for the trap that .ov finds. -/
theorem traps_of_ovTrap {n : Instr} {o : Op} {e : Enc} {s : State} {f : Args → Nat → Int} {val : Args → Nat → Word} {t : Trap} (h : Active o e s)
    (hn : exec n s = next (compute o e s (some f) val)) (hq : e.qbit 0 = true) (ht : (s.issue o e).ovTrap (f ((s.issue o e).args s)) = some t) : Traps n o e s t := by
  intro hm
  rw [hn, compute_overflow h hq ht, raise_enters (show (s.strand (s.issue o e).w).ahead = none from h.normal) (show MayTrap s (s.issue o e).w from hm)]
  rfl

/-- AFFINE_OVERFLOW of an instruction with each class of destination: `g` gives exact values that fit where those of the model fit. -/
theorem traps_of_outside {n : Instr} {o : Op} {e : Enc} {s : State} {f : Args → Nat → Int} {val : Args → Nat → Word} {m : Mask} {g : Issue → Nat → Int} (h : Active o e s)
    (hn : exec n s = next (compute o e s (some f) val)) (hq : e.qbit 0 = true) (hm : m ≠ 0)
    (hfg : ∀ l, Outside (f ((s.issue o e).args s) l) ↔ Outside (g (s.issue o e) l)) : let i := s.issue o e
    (i.dClass = .a → (∀ l < 32, m.getLsbD l = true ↔ Outside (g i l)) → Traps n o e s { cause := .affineOverflow, tval := m.setWidth 64 }) ∧
    (i.dClass = .v → (∀ l < 32, m.getLsbD l = true ↔ i.act.getLsbD l = true ∧ Outside (g i l)) → Traps n o e s { cause := .affineOverflow, tval := m.setWidth 64 }) ∧
    (i.dClass = .s → Outside (g i 0) → Traps n o e s { cause := .affineOverflow, tval := i.act.setWidth 64 }) := by
  refine ⟨fun hd ho => ?affine, fun hd ho => ?varying, fun hd ho => ?uniform⟩
  case affine => exact traps_of_ovTrap h hn hq (ovTrap_affine hd hm fun l hl => (ho l hl).trans (hfg l).symm)
  case varying => exact traps_of_ovTrap h hn hq (ovTrap_varying hd hm fun l hl => (ho l hl).trans (and_congr_right' (hfg l).symm))
  case uniform => exact traps_of_ovTrap h hn hq (ovTrap_uniform hd ((hfg 0).mpr ho))

/-- The part of O9 about .ov: in each instruction the values that .ov checks are those of R76. -/
theorem overflowTraps : Statements.OverflowTraps := by
  intro e s m hq hm A B C overflows
  have traps : ∀ (n : Instr) (o : Op) {f : Args → Nat → Int} {val : Args → Nat → Word}, exec n s = next (compute o e s (some f) val) → overflows n o fun i => f (i.args s) :=
    fun _ _ f _ hn h => traps_of_outside (g := fun i => f (i.args s)) h hn hq hm fun _ => Iff.rfl
  refine ⟨traps (.add e) .add rfl, traps (.sub e) .sub rfl, traps (.neg e) .neg rfl, traps (.mul e) .mul rfl, traps (.mad e) .mad rfl, ?shl,
    traps (.lea e) .lea rfl, traps (.aff e) .aff rfl⟩
  case shl => exact fun h => traps_of_outside (n := .shl e) (g := fun i l => A i l * (2 ^ (i.opnd s .b l).toNat : Nat)) h rfl hq hm fun _ => outside_shlExact _ _

end Sys2Proof.Machine
end

section
/-! Proofs about sums, differences, products and absolute values, and about the pairs of affine destinations (O9). -/

namespace Sys2Proof.Machine
open Sys2Proof Sys2Proof.Safety

/-- The part of O9 about the functions of R77. -/
theorem arithmeticFunctions : Statements.ArithmeticFunctions := by
  intro e s A B C
  refine ⟨?add, ?sub, ?neg, ?abs, ?mul, ?mulh, ?mulhu, ?mad⟩
  case add => exact fun h => results_of_inRange rfl rfl (fun l => by rw [BitVec.ofInt_add, BitVec.ofInt_toInt, BitVec.ofInt_toInt]; rfl) h fun _ => rfl
  case sub => exact fun h => results_of_inRange rfl rfl (fun l => (ofInt_sub_toInt _ _).symm) h fun _ => rfl
  case neg => exact fun h => results_of_inRange rfl rfl (fun l => by rw [BitVec.ofInt_neg, BitVec.ofInt_toInt]; rfl) h fun _ => rfl
  case abs => exact results_of_compute rfl rfl fun l => (ofInt_abs_toInt _).symm
  case mul => exact fun h => results_of_inRange rfl rfl (fun l => by rw [BitVec.ofInt_mul, BitVec.ofInt_toInt, BitVec.ofInt_toInt]; rfl) h fun _ => rfl
  case mulh => exact results_of_compute rfl rfl fun l => (high_product _ _).symm
  case mulhu => exact results_of_compute rfl rfl fun l => (high_product_unsigned _ _).symm
  case mad =>
    refine fun h => results_of_inRange rfl rfl (fun l => ?_) h fun _ => rfl
    rw [BitVec.ofInt_add, BitVec.ofInt_mul, BitVec.ofInt_toInt, BitVec.ofInt_toInt, BitVec.ofInt_toInt]
    rfl

/-! Values that lie on a line over the lanes (R46). -/

/-- The values of the lanes lie on the line of a base and a stride. -/
def OnLine (f : Nat → Word) (p : Word × Word) : Prop := ∀ l, f l = p.1 + BitVec.ofNat 32 l * p.2

section
variable {f g : Nat → Word} {p q : Word × Word}

theorem OnLine.add (hf : OnLine f p) (hg : OnLine g q) : OnLine (fun l => f l + g l) (p.1 + q.1, p.2 + q.2) := fun l => by
  dsimp only
  rw [hf l, hg l]
  ring

theorem OnLine.sub (hf : OnLine f p) (hg : OnLine g q) : OnLine (fun l => f l - g l) (p.1 - q.1, p.2 - q.2) := fun l => by
  dsimp only
  rw [hf l, hg l]
  ring

theorem OnLine.neg (hf : OnLine f p) : OnLine (fun l => -f l) (-p.1, -p.2) := fun l => by
  dsimp only
  rw [hf l]
  ring

/-- Values that are the same in every lane lie on a line without a stride. -/
theorem OnLine.uniform (hg : ∀ l, g l = g 0) : OnLine g (g 0, 0) := fun l => by simp [hg l]

theorem OnLine.add_uniform (hf : OnLine f p) (hg : ∀ l, g l = g 0) : OnLine (fun l => f l + g l) (p.1 + g 0, p.2) := by
  simpa only [add_zero] using hf.add (.uniform hg)

theorem OnLine.uniform_add (hf : OnLine f p) (hg : ∀ l, g l = g 0) : OnLine (fun l => g l + f l) (g 0 + p.1, p.2) := by
  simpa only [zero_add] using (OnLine.uniform hg).add hf

theorem OnLine.sub_uniform (hf : OnLine f p) (hg : ∀ l, g l = g 0) : OnLine (fun l => f l - g l) (p.1 - g 0, p.2) := by
  simpa only [sub_zero] using hf.sub (.uniform hg)

theorem OnLine.uniform_sub (hf : OnLine f p) (hg : ∀ l, g l = g 0) : OnLine (fun l => g l - f l) (g 0 - p.1, -p.2) := by
  simpa only [zero_sub] using (OnLine.uniform hg).sub hf

theorem OnLine.mul_uniform (hf : OnLine f p) (hg : ∀ l, g l = g 0) : OnLine (fun l => f l * g l) (p.1 * g 0, p.2 * g 0) := fun l => by
  dsimp only
  rw [hf l, hg l]
  ring

theorem OnLine.uniform_mul (hf : OnLine f p) (hg : ∀ l, g l = g 0) : OnLine (fun l => g l * f l) (g 0 * p.1, g 0 * p.2) := by
  simpa only [mul_comm] using hf.mul_uniform hg

theorem OnLine.shiftLeft (hf : OnLine f p) (n : Nat) : OnLine (fun l => f l <<< n) (p.1 <<< n, p.2 <<< n) := by
  simp only [BitVec.shiftLeft_eq_mul_twoPow]
  exact hf.mul_uniform (g := fun _ => BitVec.twoPow 32 n) fun _ => rfl

theorem OnLine.shlWord_uniform (hf : OnLine f p) (hg : ∀ l, g l = g 0) : OnLine (fun l => shlWord (f l) (g l)) (p.1 <<< g 0, p.2 <<< g 0) := fun l => by
  dsimp only
  rw [hg l, shlWord_eq]
  exact hf.shiftLeft (g 0).toNat l

/-- Values on a line are written as its base and stride. -/
theorem OnLine.pair (hf : OnLine f p) : (f 0, f 1 - f 0) = p := by
  rw [hf 0, hf 1]
  ext1
  · simp
  · simp

end

section
variable {o : Op} {e : Enc} {s : State} {f : Fld}

/-- A register operand has the values of its register in the lanes. -/
theorem opnd_register (hl : e.literal o f = false ∧ ¬ (f = .b ∧ e.i = true)) (l : Nat) :
    (s.issue o e).opnd s f l = s.readReg s.cur (regOf (classOf e.tf.toNat f) (s.strand s.cur).sp.wb (e.field f)) l := by
  obtain ⟨lit, imm⟩ := hl
  exact (if_neg imm).trans (if_neg (ne_true_of_eq_false lit))

/-- An affine operand lies on the line of its register (R46). -/
theorem opnd_onLine (hc : classOf e.tf.toNat f = .a) (hl : e.literal o f = false ∧ ¬ (f = .b ∧ e.i = true)) :
    OnLine ((s.issue o e).opnd s f) (affine s (e.field f)) := fun l => by
  rw [opnd_register hl, hc]
  rfl

/-- A uniform operand has one value. -/
theorem opnd_uniform (hc : classOf e.tf.toNat f = .s) (l : Nat) : (s.issue o e).opnd s f l = (s.issue o e).opnd s f 0 := by
  unfold Issue.opnd
  rw [show classOf (s.issue o e).e.tf.toNat f = .s from hc, regOf]
  split
  · rfl
  · split
    · rfl
    · split <;> rfl

end

theorem State.writeS_cur (s : State) (w : Sid) (n : Nat) (v : Word) : (s.writeS w n v).cur = s.cur := by
  unfold State.writeS
  split
  · exact State.onStrand_cur _ _ _
  · split
    · rfl
    · exact State.onComb_cur _ _ _ _

theorem State.writeD_cur (s : State) (i : Issue) (f : Nat → Word) : (s.writeD i f).cur = s.cur := by
  unfold State.writeD
  dsimp only
  split
  · exact State.onStrand_cur _ _ _
  · exact State.onStrand_cur _ _ _
  · exact State.writeS_cur _ _ _ _
  · exact State.onStrand_cur _ _ _
  · rfl

/-- An instruction with an affine destination whose result lies on a line completes with the line's base and stride. -/
theorem pairs_of_onLine {n : Instr} {o : Op} {e : Enc} {s : State} {ex : Option (Args → Nat → Int)} {val : Args → Nat → Word} {p : Word × Word}
    (hn : exec n s = next (compute o e s ex val)) (hr : o.endsRegion e = false) (hq : e.qbit 0 = false) (h : Active o e s)
    (hd : classOf e.tf.toNat .d = .a) (hp : OnLine (val ((s.issue o e).args s)) p) : Pairs n e s p := by
  have done : Results n o e s fun i => val (i.args s) := results_of_plain hn hr (fun _ => rfl) h hq
  refine ⟨_, done, (State.advance_cur _ _).trans (State.writeD_cur _ _ _), ?_⟩
  have written := State.affine_result (i := s.issue o e) (State.resident_of_may h.may) h.normal (val ((s.issue o e).args s)) e.d.toNat
  rw [if_pos ⟨hd, rfl⟩, hp.pair] at written
  rw [affine, State.advance_cur, State.writeD_cur]
  exact written

/-- The part of O9 about pairs: the closures of R46 applied to the operands of each form. -/
theorem affinePairs : Statements.AffinePairs := by
  intro e s hq x y z u v lit
  have line : ∀ {o : Op} (f : Fld) {n : BitVec 5}, e.tf = n → classOf n.toNat f = .a → lit o f → OnLine ((s.issue o e).opnd s f) (affine s (e.field f)) :=
    fun _ _ tf hc => opnd_onLine (by rw [tf]; exact hc)
  have one : ∀ {o : Op} (f : Fld) {n : BitVec 5}, e.tf = n → classOf n.toNat f = .s → ∀ l, (s.issue o e).opnd s f l = (s.issue o e).opnd s f 0 :=
    fun _ _ tf hc => opnd_uniform (by rw [tf]; exact hc)
  have pairs : ∀ {n : Instr} {o : Op} {ex : Option (Args → Nat → Int)} {val : Args → Nat → Word} {p : Word × Word} {tf : BitVec 5}, Active o e s → e.tf = tf →
      exec n s = next (compute o e s ex val) → o.endsRegion e = false → classOf tf.toNat .d = .a → OnLine (val ((s.issue o e).args s)) p → Pairs n e s p :=
    fun h tf hn hr hd => pairs_of_onLine hn hr hq h (by rw [tf]; exact hd)
  refine ⟨?addAA, ?addAS, ?addSA, ?subAA, ?subAS, ?subSA, ?mulAS, ?mulSA, ?mad, ?shl, ?neg, ?leaAA, ?leaAS, ?leaSA, ?aff, ?laneid, ?mov⟩
  case addAA => exact fun h tf a b => pairs h tf rfl rfl rfl ((line .a tf rfl a).add (line .b tf rfl b))
  case addAS => exact fun h tf a => pairs h tf rfl rfl rfl ((line .a tf rfl a).add_uniform (one .b tf rfl))
  case addSA => exact fun h tf b => pairs h tf rfl rfl rfl ((line .b tf rfl b).uniform_add (one .a tf rfl))
  case subAA => exact fun h tf a b => pairs h tf rfl rfl rfl ((line .a tf rfl a).sub (line .b tf rfl b))
  case subAS => exact fun h tf a => pairs h tf rfl rfl rfl ((line .a tf rfl a).sub_uniform (one .b tf rfl))
  case subSA => exact fun h tf b => pairs h tf rfl rfl rfl ((line .b tf rfl b).uniform_sub (one .a tf rfl))
  case mulAS => exact fun h tf a => pairs h tf rfl rfl rfl ((line .a tf rfl a).mul_uniform (one .b tf rfl))
  case mulSA => exact fun h tf b => pairs h tf rfl rfl rfl ((line .b tf rfl b).uniform_mul (one .a tf rfl))
  case mad => exact fun h tf a c => pairs h tf rfl rfl rfl (((line .a tf rfl a).mul_uniform (one .b tf rfl)).add (line .c tf rfl c))
  case shl => exact fun h tf a => pairs h tf rfl rfl rfl ((line .a tf rfl a).shlWord_uniform (one .b tf rfl))
  case neg => exact fun h tf a => pairs h tf rfl rfl rfl (line .a tf rfl a).neg
  case leaAA => exact fun h tf a b => pairs h tf rfl rfl rfl ((line .a tf rfl a).add ((line .b tf rfl b).shiftLeft _))
  case leaAS => exact fun h tf a => pairs h tf rfl rfl rfl ((line .a tf rfl a).add_uniform fun l => congrArg (fun x : Word => x <<< e.sub.toNat) (one .b tf rfl l))
  case leaSA => exact fun h tf b => pairs h tf rfl rfl rfl (((line .b tf rfl b).shiftLeft _).uniform_add (one .a tf rfl))
  case aff => exact fun h tf => pairs h tf rfl rfl rfl fun _ => rfl
  case laneid => exact fun h tf => pairs h tf rfl rfl rfl fun l => by simp
  case mov => exact fun h tf a => pairs h tf rfl rfl rfl (line .a tf rfl a)

/-- Settles O9: results, pairs and traps of the arithmetic instructions. -/
theorem arithmeticResults : Obligations.ArithmeticResults := ⟨arithmeticFunctions, affinePairs, overflowTraps⟩

end Sys2Proof.Machine
end

section
/-! Proofs about logic, shifts, bit fields, counts, scaled addresses, byte products and mask registers (O13). -/

namespace Sys2Proof.Machine
open Sys2Proof Sys2Proof.Safety

/-! Only the values of the 32 lanes are written. -/

theorem Strand.putV_congr (st : Strand) (n : Nat) (m : Mask) {f g : Nat → Word} (h : ∀ l < 32, f l = g l) : st.putV n m f = st.putV n m g := by
  have lanes : ∀ old : Lanes, (Lanes.of fun l => if m.getLsbD l then f l else old.at l) = Lanes.of fun l => if m.getLsbD l then g l else old.at l := fun old =>
    congrArg Vector.ofFn (funext fun l => by simp only [h l l.isLt])
  simp only [Strand.putV, lanes]

theorem State.writeD_congr (s : State) (i : Issue) {f g : Nat → Word} (h : ∀ l < 32, f l = g l) : s.writeD i f = s.writeD i g := by
  have varying : ∀ (st : Strand) (n : Nat), st.putV n i.act f = st.putV n i.act g := fun st n => st.putV_congr n i.act h
  have mask : (Mask.of fun l => (f l).getLsbD 0) = Mask.of fun l => (g l).getLsbD 0 := Mask.of_congr fun l hl => by rw [h l hl]
  simp only [State.writeD, varying, mask, h 0 (by omega), h 1 (by omega)]

/-- As `results_of_compute`, where the values agree in the 32 lanes. -/
theorem results_of_lanes {n : Instr} {o : Op} {e : Enc} {s : State} {val : Args → Nat → Word} {f : Issue → Nat → Word}
    (hn : exec n s = next (compute o e s none val)) (hr : o.endsRegion e = false)
    (hv : ∀ l < 32, val ((s.issue o e).args s) l = f (s.issue o e) l) (h : Active o e s) : Results n o e s f :=
  (results_of_compute (f := fun i => val (i.args s)) hn hr (fun _ => rfl) h).trans (by rw [State.writeD_congr _ _ hv])

/-- An instruction that only strands execute completes with its effect. -/
theorem completes_of {n : Instr} {o : Op} {e : Enc} {s : State} {check : Issue → State → Option Trap} {f : Issue → State → State} (h : Active o e s)
    (hn : exec n s = next (strandOnly o e s (effect check f))) (hr : o.endsRegion e = false) (hc : check (s.issue o e) s = none) :
    exec n s = .next ((f (s.issue o e) s).advance (s.issue o e)) := by
  rw [hn, strandOnly_clear h.toClear, effect_done h.active hc hr]
  rfl

/-- An instruction that only strands execute completes with the result that it writes. -/
theorem results_of {n : Instr} {o : Op} {e : Enc} {s : State} {check : Issue → State → Option Trap} {f : Issue → State → State} {g : Issue → Nat → Word} (h : Active o e s)
    (hn : exec n s = next (strandOnly o e s (effect check f))) (hr : o.endsRegion e = false) (hc : check (s.issue o e) s = none)
    (hf : f (s.issue o e) s = s.writeD (s.issue o e) (g (s.issue o e))) : Results n o e s g :=
  (completes_of h hn hr hc).trans (by rw [hf])

/-- The part of O13 about logic and shifts. -/
theorem logicAndShiftResults : Statements.LogicAndShiftResults := by
  intro e s A B
  refine ⟨results_of_compute rfl rfl fun _ => rfl, results_of_compute rfl rfl fun _ => rfl, results_of_compute rfl rfl fun _ => rfl,
    results_of_compute rfl rfl fun _ => rfl, results_of_compute rfl rfl fun _ => rfl, ?shl, ?shr, ?sar, results_of_compute rfl rfl fun _ => rfl⟩
  case shl =>
    exact fun h hi => results_of_inRange (g := fun i l => execShl.shlExact (A i l).toInt (i.opnd s .b l).toNat) rfl rfl (fun _ => shlWord_eq _ _) h (fun _ => rfl)
      (inRange_congr (fun _ => (outside_shlExact _ _).symm) hi)
  case shr => exact results_of_compute rfl rfl fun _ => shrWord_eq _ _
  case sar => exact results_of_compute rfl rfl fun _ => sarWord_eq _ _

/-- The part of O13 about bit fields, bit counts, scaled addresses and byte products. -/
theorem bitFieldResults : Statements.BitFieldResults := by
  intro e s f A B C width byte
  refine ⟨?bfx, ?bfi, ?popc, ?clz, ?brev, ?lea, ?dot4⟩
  case bfx => exact results_of_compute rfl rfl fun _ => (bfxWord_eq _ _ _ _).trans (if_congr beq_iff_eq rfl rfl)
  case bfi =>
    intro h i hf
    refine results_of_lanes rfl rfl (fun l hl => BitVec.eq_of_getLsbD_eq fun k hk => ?_) h
    rw [hf l hl k hk]
    exact bfiWord_bit _ _ _ _ hk
  case popc => exact results_of_compute rfl rfl fun _ => congrArg _ (Mask.count_eq _)
  case clz => exact results_of_compute rfl rfl fun _ => clzWord_eq _
  case brev => exact results_of_compute rfl rfl fun _ => brevWord_eq _
  case lea => exact fun h => results_of_inRange rfl rfl (fun _ => rfl) h fun _ => rfl
  case dot4 => exact results_of_compute rfl rfl fun _ => dot4Word_eq _ _ _ _

/-- The part of O13 about mask registers. -/
theorem maskResults : Statements.MaskResults := by
  intro e s k A B m
  refine ⟨fun h tf => ?fromMask, fun h tf => ?fromBits, fun h => ?and, fun h => ?or, fun h => ?xor, fun h => ?not, fun h => ?pop, fun h hk => ?ff⟩
  case fromMask =>
    have notBits : e.tf ≠ 30 := by
      rw [tf]
      decide
    exact results_of h rfl rfl rfl (congrArg (s.writeD _) (funext fun _ => if_neg notBits))
  case fromBits => exact results_of h rfl rfl rfl (congrArg (s.writeD _) (funext fun _ => if_pos tf))
  case pop => exact sets_of h rfl rfl rfl (congrArg (fun n => s.writeS s.cur e.d.toNat (BitVec.ofNat 32 n)) (Mask.count_eq _))
  case ff => exact sets_of h rfl rfl rfl (congrArg (fun n => s.writeS s.cur e.d.toNat (BitVec.ofNat 32 n)) (Mask.lowest_eq hk))
  all_goals exact results_of h rfl rfl rfl rfl

/-- Settles O13: logic and shifts, bit fields and counts, and mask registers. -/
theorem logicAndBitResults : Obligations.LogicAndBitResults := ⟨logicAndShiftResults, bitFieldResults, maskResults⟩

end Sys2Proof.Machine
end

section
/-! Proofs about movement, demotion, the register window, the stack pointer, PUSHM and POPM (O14). -/

namespace Sys2Proof.Machine
open Sys2Proof Sys2Proof.Safety

/-- The part of O14 about copies, constants, lane indices and lines. -/
theorem movementResults : Statements.MovementResults := by
  intro e s A B
  exact ⟨results_of_compute rfl rfl fun _ => rfl, results_of_compute rfl rfl fun _ => rfl, results_of_compute rfl rfl fun _ => rfl, results_of_compute rfl rfl fun _ => rfl,
    fun h => results_of_inRange rfl rfl (fun _ => rfl) h fun _ => rfl⟩

/-! Demotion (R61, R62). -/

section
variable {i : Issue} {s : State} {f : Nat → Word}

theorem illegalLanes_agree (h : ∀ l < 32, i.act.getLsbD l → i.opnd s .a l = f l) : illegalLanes (i.differing s f) = none := by
  refine if_pos (Mask.of_eq_zero.mpr fun l hl => ?_)
  cases ha : i.act.getLsbD l
  · rfl
  · simp [h l hl ha]

theorem illegalLanes_differ (h : i.differing s f ≠ 0) :
    illegalLanes (i.differing s f) = some { cause := .illegalOperand, tval := (i.differing s f).setWidth 64 } := if_neg h

end

/-- The part of O14 about DEMS and DEMA. -/
theorem demotionResults : Statements.DemotionResults := by
  intro e s A base line
  refine ⟨fun h agree => ?one, fun h bad => ?differ, fun h agree => ?line, fun h bad => ?bent⟩
  case one => exact sets_of h rfl rfl (illegalLanes_agree agree) rfl
  case differ => exact traps_of h rfl (illegalLanes_differ bad)
  case line => exact changes_of h rfl rfl (illegalLanes_agree agree) rfl
  case bent => exact traps_of h rfl (illegalLanes_differ bad)

/-! The checks of a new window base, a new SSP and a new PART (R63, R66, R133). -/

theorem wbaseTrap_inside {n : Nat} {v : Word} (h : v.toNat ≤ 31 ∧ 8 * v.toNat < n) : wbaseTrap n v = none := if_neg (by omega)

theorem wbaseTrap_outside {n : Nat} {v : Word} (h : ¬ (v.toNat ≤ 31 ∧ 8 * v.toNat < n)) : wbaseTrap n v = some { cause := .illegalOperand, tval := v.setWidth 64 } :=
  if_pos (by omega)

theorem sspTrap_inside {st : Strand} {v : Word} (h : v.toNat % 4 = 0 ∧ st.base ≤ v.toNat ∧ v.toNat ≤ st.top) : sspTrap st v = none := if_neg (by omega)

theorem sspTrap_outside {st : Strand} {v : Word} (h : ¬ (v.toNat % 4 = 0 ∧ st.base ≤ v.toNat ∧ v.toNat ≤ st.top)) :
    sspTrap st v = some { cause := .illegalOperand, tval := v.setWidth 64 } := if_pos (by omega)

theorem partTrap_inside {v : Word} (h : v.toNat ≤ 4) : partTrap v = none := if_neg (by omega)

theorem partTrap_outside {v : Word} (h : 4 < v.toNat) : partTrap v = some { cause := .illegalOperand, tval := v.setWidth 64 } := if_pos h

/-- The part of O14 about the window, SSP and PART. -/
theorem windowAndStackPointer : Statements.WindowAndStackPointer := by
  intro e s v
  refine ⟨fun h => ⟨fun inside => ?wbase, fun outside => ?wbaseOut⟩, fun h => ?wget, fun h => ?sspget, fun h => ⟨fun inside => ?sspset, fun outside => ?sspsetOut⟩,
    fun h => ⟨fun inside => ?part, fun outside => ?partOut⟩⟩
  case wbase => exact changes_of h rfl rfl (wbaseTrap_inside inside) rfl
  case wbaseOut => exact traps_of h rfl (wbaseTrap_outside outside)
  case wget | sspget => exact sets_of h rfl rfl rfl rfl
  case sspset => exact changes_of h rfl rfl (sspTrap_inside inside) rfl
  case sspsetOut => exact traps_of h rfl (sspTrap_outside outside)
  case part => exact changes_of h rfl rfl (partTrap_inside inside) rfl
  case partOut => exact traps_of h rfl (partTrap_outside outside)

/-! The spill stack (R49 to R51, R65). -/

section
variable {i : Issue} {s : State}

theorem pushmCheck_room (room : i.st.base + i.spillBytes ≤ i.st.sp.ssp) (region : ∀ r, i.st.region = some r → i.st.sp.ssp ≤ r.ssp)
    (free : s.windowConflict i.w .write (i.st.sp.ssp - i.spillBytes) i.spillBytes = none) : pushmCheck i s = none := by
  unfold pushmCheck
  dsimp only
  rw [if_neg (Nat.not_lt.mpr room)]
  cases hr : i.st.region with
  | none => exact free
  | some r =>
    dsimp only
    rw [if_neg (Nat.not_lt.mpr (region r hr))]
    exact free

theorem pushmCheck_full (full : i.st.sp.ssp < i.st.base + i.spillBytes) :
    pushmCheck i s = some { cause := .stackOverflow, tval := d64 ((i.st.sp.ssp : Int) - i.spillBytes) } := if_pos full

theorem popmCheck_room (room : i.st.sp.ssp + i.spillBytes ≤ i.st.top) (free : s.windowConflict i.w .read i.st.sp.ssp i.spillBytes = none) : popmCheck i s = none :=
  (if_neg (Nat.not_lt.mpr room)).trans free

theorem popmCheck_full (full : i.st.top < i.st.sp.ssp + i.spillBytes) : popmCheck i s = some (Trap.of .stackOverflow (i.st.sp.ssp + i.spillBytes)) := if_pos full

end

/-! What POPM loads of the words that PUSHM stores. -/

section
variable (st st' : Strand) (n : Nat)

theorem unspill_varying (wb : st'.sp.wb = st.sp.wb) {l : Nat} (hl : l < 32) :
    (Tab.get (Lanes.all 0) (st'.unspill 0 n (st.spillWords 0 n)).regs.v (st.sp.wb + n)).at l = (Tab.get (Lanes.all 0) st.regs.v (st.sp.wb + n)).at l := by
  have regs : (st'.unspill 0 n (st.spillWords 0 n)).regs = (st'.putV (st'.sp.wb + n) (BitVec.allOnes 32) fun k => ((st.spillWords 0 n).getD k (0, false)).1).regs := rfl
  have all : (BitVec.allOnes 32 : Mask).getLsbD l = true := BitVec.getLsbD_allOnes.trans (decide_eq_true hl)
  rw [regs, ← wb, Strand.putV_lane _ _ _ _ _ hl, if_pos ⟨rfl, all⟩, wb]
  simp [Strand.spillWords, hl]

theorem unspill_uniform : Tab.get 0 (st'.unspill 1 n (st.spillWords 1 n)).regs.s n = Tab.get 0 st.regs.s n := Tab.get_put_same _ _ _ _

theorem unspill_affine : Tab.get (0, 0) (st'.unspill 2 n (st.spillWords 2 n)).regs.a n = Tab.get (0, 0) st.regs.a n := Tab.get_put_same _ _ _ _

theorem unspill_mask (hn : n ≠ 0) : Tab.get 0 (st'.unspill 3 n (st.spillWords 3 n)).regs.k n = Tab.get 0 st.regs.k n := by
  have regs : (st'.unspill 3 n (st.spillWords 3 n)).regs = (st'.putK n (BitVec.allOnes 32) (st.mask n)).regs := by
    simp only [Strand.unspill, if_neg hn]
    rfl
  rw [regs, Strand.putK, if_neg hn, Strand.mask, if_neg hn]
  dsimp only
  rw [Tab.get_put_same, BitVec.not_allOnes, BitVec.and_zero, BitVec.and_allOnes, BitVec.zero_or]

theorem unspill_mask_zero : (st'.unspill 3 0 (st.spillWords 3 0)).regs = st'.regs := rfl

end

/-- The part of O14 about PUSHM and POPM. -/
theorem stackResults : Statements.StackResults := by
  refine ⟨?pushm, ?popm, ?words⟩
  case pushm =>
    intro e s h w i st n ssp
    refine ⟨fun room region free => ?push, fun full => traps_of h rfl (pushmCheck_full full)⟩
    have stores : (s.issue .pushm e).st.ahead.isSome = false := by rw [show (s.issue .pushm e).st.ahead = none from h.normal]; rfl
    have done := completes_of (n := .pushm e) h rfl rfl (pushmCheck_room room region free)
    rw [stores] at done
    exact done
  case popm =>
    intro e s h w i st n ssp size
    exact ⟨fun room free => completes_of (n := .popm e) h rfl rfl (popmCheck_room room free), fun full => traps_of h rfl (popmCheck_full full)⟩
  case words =>
    exact fun st st' n wb => ⟨fun l hl => unspill_varying st st' n wb hl, unspill_uniform st st' n, unspill_affine st st' n, unspill_mask st st' n, unspill_mask_zero st st'⟩

/-- Settles O14: movement, demotion, the window and the stack pointer, and the spill stack. -/
theorem movementAndStackResults : Obligations.MovementAndStackResults := ⟨movementResults, demotionResults, windowAndStackPointer, stackResults⟩

end Sys2Proof.Machine
end

section
/-! The functions of words that the division, saturating, comparing and carrying instructions compute (R78 to R82). -/

namespace Sys2Proof.Machine
open Sys2Proof Sys2Proof.Safety

/-! Quotients and remainders (R80). -/

theorem divSigned_eq (x y : Word) : divSigned x y = if y = 0 then 0xFFFFFFFF else x.sdiv y := by
  have quotient : w32 (x.toInt.tdiv y.toInt) = x.sdiv y := BitVec.eq_of_toInt_eq (by rw [w32, BitVec.toInt_ofInt, BitVec.toInt_sdiv])
  rw [← quotient]
  rfl

theorem remSigned_eq (x y : Word) : remSigned x y = if y = 0 then x else x.srem y := by
  have remainder : w32 (x.toInt.tmod y.toInt) = x.srem y := by rw [w32, ← BitVec.toInt_srem, BitVec.ofInt_toInt]
  rw [← remainder]
  rfl

theorem divUnsigned_eq (x y : Word) : divUnsigned x y = if y = 0 then 0xFFFFFFFF else x / y := by
  rw [BitVec.udiv_def]
  rfl

theorem remUnsigned_eq (x y : Word) : remUnsigned x y = if y = 0 then x else x % y := by
  rw [BitVec.umod_def]
  rfl

/-! Elements (R78). -/

/-- A sum of digits in base 2 to the power `w`: the digits are read back in their places. -/
theorem digits_of_sum (w : Nat) (d : Nat → Nat) : ∀ n, let sum := (List.range n).foldl (fun acc j => acc + (d j % 2 ^ w) * 2 ^ (w * j)) 0
    sum < 2 ^ (w * n) ∧ ∀ j < n, sum / 2 ^ (w * j) % 2 ^ w = d j % 2 ^ w
  | 0 => ⟨Nat.two_pow_pos _, fun _ hj => absurd hj (Nat.not_lt_zero _)⟩
  | n + 1 => by
    obtain ⟨small, digits⟩ := digits_of_sum w d n
    dsimp only
    rw [List.range_succ, List.foldl_append, List.foldl_cons, List.foldl_nil]
    generalize (List.range n).foldl (fun acc j => acc + (d j % 2 ^ w) * 2 ^ (w * j)) 0 = sum at small digits ⊢
    have digit : d n % 2 ^ w < 2 ^ w := Nat.mod_lt _ (Nat.two_pow_pos w)
    refine ⟨?bound, fun j hj => ?place⟩
    case bound =>
      calc sum + d n % 2 ^ w * 2 ^ (w * n) < (d n % 2 ^ w + 1) * 2 ^ (w * n) := by rw [Nat.add_mul]; omega
        _ ≤ 2 ^ w * 2 ^ (w * n) := Nat.mul_le_mul_right _ digit
        _ = 2 ^ (w * (n + 1)) := by rw [← Nat.pow_add, Nat.mul_succ, Nat.add_comm]
    case place =>
      rcases Nat.lt_succ_iff_lt_or_eq.mp hj with below | rfl
      · have split : 2 ^ (w * n) = 2 ^ (w * j) * (2 ^ w * 2 ^ (w * (n - j - 1))) := by
          rw [← Nat.pow_add, ← Nat.pow_add, Nat.add_comm w, ← Nat.mul_succ, ← Nat.mul_add, show j + (n - j - 1).succ = n by omega]
        rw [split, Nat.mul_left_comm, Nat.add_mul_div_left _ _ (Nat.two_pow_pos _), Nat.mul_left_comm, Nat.add_mul_mod_self_left, digits j below]
      · rw [Nat.add_mul_div_right _ _ (Nat.two_pow_pos _), Nat.div_eq_of_lt small, Nat.zero_add, Nat.mod_mod]

section
variable {w : Nat}

theorem width_pos (hw : w ∣ 32) : 0 < w := Nat.pos_of_dvd_of_pos hw (by omega)

/-- An element of a result by elements is `f` of the elements of the operands. -/
theorem element_perElement (hw : w ∣ 32) (unsigned : Bool) (f : Nat → Nat → Nat) (x y : Word) {j : Nat} (hj : j < 32 / w) :
    element w unsigned (perElement w f x y) j =
      elemVal w unsigned (f (bits x.toNat (w * j + w - 1) (w * j)) (bits y.toNat (w * j + w - 1) (w * j)) % 2 ^ w) := by
  obtain ⟨small, digits⟩ := digits_of_sum w (fun j => f (bits x.toNat (w * j + w - 1) (w * j)) (bits y.toNat (w * j + w - 1) (w * j))) (32 / w)
  rw [Nat.mul_div_cancel' hw] at small
  have pos := width_pos hw
  rw [← elemVal_bits pos, perElement, BitVec.toNat_ofNat, Nat.mod_eq_of_lt small, ← digits j hj, bits, show w * j + w - 1 + 1 - w * j = w by omega]

/-- The elements fix a word. -/
theorem eq_of_elements (hw : w ∣ 32) {unsigned : Bool} {x y : Word} (h : ∀ j < 32 / w, element w unsigned x j = element w unsigned y j) : x = y := by
  have same : ∀ j < 32 / w, x.extractLsb' (w * j) w = y.extractLsb' (w * j) w := fun j hj => by
    cases unsigned with
    | false => exact BitVec.eq_of_toInt_eq (h j hj)
    | true => exact BitVec.eq_of_toNat_eq (Int.ofNat.inj (h j hj))
  have pos := width_pos hw
  apply BitVec.eq_of_getLsbD_eq
  intro k hk
  have bit := congrArg (fun v => v.getLsbD (k % w)) (same (k / w) (Nat.div_lt_div_of_lt_of_dvd hw hk))
  simpa only [BitVec.getLsbD_extractLsb', Nat.mod_lt _ pos, decide_true, Bool.true_and, Nat.div_add_mod] using bit

/-- An integer limited to the range of an element is the element of the nearest value in the range (R78). -/
theorem limitTo_eq (unsigned : Bool) (z : Int) :
    limitTo w unsigned z = (BitVec.ofInt w (max (lowest w unsigned) (min (highest w unsigned) z))).toNat := by
  have half : 0 < 2 ^ (w - 1) := Nat.two_pow_pos _
  have whole : 0 < 2 ^ w := Nat.two_pow_pos _
  rw [limitTo, lowest, highest, BitVec.toNat_ofInt]
  congr 2
  cases unsigned with
  | false =>
    simp only [Bool.false_eq_true, if_false]
    omega
  | true =>
    simp only [if_true]
    omega

theorem elemVal_limitTo (pos : 0 < w) (unsigned : Bool) (z : Int) :
    elemVal w unsigned (limitTo w unsigned z % 2 ^ w) = max (lowest w unsigned) (min (highest w unsigned) z) := by
  rw [limitTo_eq, Nat.mod_eq_of_lt (BitVec.isLt _)]
  cases unsigned with
  | false =>
    have half : (0 : Int) < 2 ^ (w - 1) := Int.pow_pos (by omega)
    refine (sx_toNat _ pos).trans (BitVec.toInt_ofInt_eq_self pos ?_ ?_)
    · simp [lowest]
    · simp [lowest, highest]
  | true =>
    have nonneg : 0 ≤ max (lowest w true) (min (highest w true) z) := Int.le_max_left 0 _
    have whole : 0 < 2 ^ w := Nat.two_pow_pos _
    have below : max (lowest w true) (min (highest w true) z) < (2 ^ w : Nat) := by
      simp only [lowest, highest, if_true]
      omega
    rw [elemVal, BitVec.toNat_ofInt, Int.emod_eq_of_lt nonneg below]
    exact Int.toNat_of_nonneg nonneg

/-- The value of the chosen one of two elements. -/
theorem element_pick (hw : w ∣ 32) (unsigned greater : Bool) (x y : Word) {j : Nat} (hj : j < 32 / w) :
    element w unsigned (perElement w (fun p q => if decide (elemVal w unsigned p < elemVal w unsigned q) == greater then q else p) x y) j =
      if greater then max (element w unsigned x j) (element w unsigned y j) else min (element w unsigned x j) (element w unsigned y j) := by
  have pos := width_pos hw
  have inside : ∀ v : Word, bits v.toNat (w * j + w - 1) (w * j) % 2 ^ w = bits v.toNat (w * j + w - 1) (w * j) := fun v => by
    rw [bits, show w * j + w - 1 + 1 - w * j = w by omega, Nat.mod_mod]
  rw [element_perElement hw _ _ _ _ hj, apply_ite (· % 2 ^ w), inside, inside, apply_ite (elemVal w unsigned), elemVal_bits pos, elemVal_bits pos]
  cases greater with
  | false =>
    by_cases less : element w unsigned x j < element w unsigned y j
    · simp [less, Int.le_of_lt less]
    · simp [less, Int.not_lt.mp less]
  | true =>
    by_cases less : element w unsigned x j < element w unsigned y j
    · simp [less, Int.le_of_lt less]
    · simp [less, Int.not_lt.mp less]

end

/-- The element widths of ADDS and SUBS (R74). -/
theorem satWidth_eq : ∀ sub ≤ 5, satWidth sub = satElement sub ∧ satElement sub ∣ 32 := by decide

/-- ADDS and SUBS limit what `f` gives for each pair of elements (R78). -/
theorem element_saturate {sub : Nat} (hs : sub ≤ 5) (f : Int → Int → Int) (x y : Word) {j : Nat} (hj : j < 32 / satElement sub) :
    let w := satElement sub; let u := sub % 2 == 1
    element w u (saturate sub f x y) j = max (lowest w u) (min (highest w u) (f (element w u x j) (element w u y j))) := by
  obtain ⟨width, hw⟩ := satWidth_eq sub hs
  have pos := width_pos hw
  dsimp only
  rw [saturate, width, element_perElement hw _ _ _ _ hj, elemVal_limitTo pos, elemVal_bits pos, elemVal_bits pos]

/-- MIN, MAX, MINU and MAXU choose between the elements (R78). -/
theorem element_pickElem {sub : Nat} (hs : sub ≤ 2) (unsigned greater : Bool) (x y : Word) {j : Nat} (hj : j < 32 / [32, 16, 8].getD sub 32) :
    let w := [32, 16, 8].getD sub 32
    element w unsigned (pickElem sub unsigned greater x y) j =
      if greater then max (element w unsigned x j) (element w unsigned y j) else min (element w unsigned x j) (element w unsigned y j) :=
  match sub, hs, hj with
  | 0, _, hj | 1, _, hj | 2, _, hj => element_pick (by decide) unsigned greater x y hj

/-- The element widths of MIN, MAX, MINU and MAXU (R74). -/
theorem pickWidth_dvd : ∀ sub ≤ 2, [32, 16, 8].getD sub 32 ∣ 32 := by decide

/-- CLAMP limits x to between y and z; z counts last (R82). -/
theorem clampWord_eq (unsigned : Bool) (x y z : Word) : clampWord unsigned x y z =
    if unsigned then BitVec.ofNat 32 (min (max x.toNat y.toNat) z.toNat) else BitVec.ofInt 32 (min (max x.toInt y.toInt) z.toInt) := by
  have limited : ∀ v : Word → Int, BitVec.ofInt 32 (min (max (v x) (v y)) (v z)) =
      BitVec.ofInt 32 (v (if v z < v (if v x < v y then y else x) then z else if v x < v y then y else x)) := fun v => by
    congr 1
    rw [apply_ite v, apply_ite v]
    omega
  cases unsigned with
  | false =>
    have value : ∀ v : Word, elemVal 32 false v.toNat = v.toInt := fun v => sx_toNat v (by omega)
    simp only [clampWord, value, Bool.false_eq_true, if_false, limited BitVec.toInt, BitVec.ofInt_toInt]
  | true =>
    have clamped := limited fun v => v.toNat
    rw [← Nat.cast_max, ← Nat.cast_min, BitVec.ofInt_natCast, BitVec.ofInt_natCast, BitVec.ofNat_toNat, BitVec.setWidth_eq] at clamped
    exact clamped.symm

/-! The carry chain (R79). -/

/-- The 33-bit sum or difference of R79. -/
def wideSum (borrow : Bool) (x y c : Word) : BitVec 33 :=
  let cin := (BitVec.ofBool (c.getLsbD 0)).setWidth 33
  if borrow then x.setWidth 33 - y.setWidth 33 - cin else x.setWidth 33 + y.setWidth 33 + cin

/-- The 33-bit sum is the exact one modulo 2^33. -/
theorem wideSum_eq (borrow : Bool) (x y c : Word) : wideSum borrow x y c = BitVec.ofInt 33 (carrySum borrow x y c) := by
  have word : ∀ v : Word, BitVec.ofInt 33 v.toNat = v.setWidth 33 := fun v => by rw [BitVec.ofInt_natCast, BitVec.ofNat_toNat]
  have carry : BitVec.ofInt 33 (if c.getLsbD 0 then 1 else 0) = (BitVec.ofBool (c.getLsbD 0)).setWidth 33 := by
    cases c.getLsbD 0
    · rfl
    · rfl
  cases borrow with
  | false => simp only [wideSum, carrySum, Bool.false_eq_true, if_false, BitVec.ofInt_add, word, carry]
  | true => simp only [wideSum, carrySum, if_true, Int.sub_eq_add_neg, BitVec.ofInt_add, BitVec.ofInt_neg, word, carry, BitVec.sub_eq_add_neg]

theorem w32_carrySum (borrow : Bool) (x y c : Word) : w32 (carrySum borrow x y c) = (wideSum borrow x y c).setWidth 32 := by
  rw [wideSum_eq]
  apply BitVec.eq_of_toNat_eq
  rw [w32, BitVec.toNat_setWidth, BitVec.toNat_ofInt, BitVec.toNat_ofInt]
  omega

/-- The carry or borrow out is the top bit of the 33-bit sum. -/
theorem carryOut_carrySum (borrow : Bool) (x y c : Word) :
    carryOut borrow (carrySum borrow x y c) = if (wideSum borrow x y c).getLsbD 32 then 1 else 0 := by
  have top : (wideSum borrow x y c).getLsbD 32 = decide (2 ^ 32 ≤ (carrySum borrow x y c % (2 ^ 33 : Nat)).toNat) := by
    rw [← BitVec.toNat_ofInt, ← wideSum_eq]
    exact (BitVec.msb_eq_getLsbD_last _).symm.trans (BitVec.msb_eq_decide _)
  have carry : 0 ≤ (if c.getLsbD 0 then 1 else 0 : Int) ∧ (if c.getLsbD 0 then 1 else 0 : Int) ≤ 1 := by
    cases c.getLsbD 0
    · decide
    · decide
  rw [carryOut, top]
  cases borrow with
  | false =>
    have total : carrySum false x y c = x.toNat + y.toNat + (if c.getLsbD 0 then 1 else 0) := rfl
    have out : carrySum false x y c ≥ (2 ^ 32 : Nat) ↔ 2 ^ 32 ≤ (carrySum false x y c % (2 ^ 33 : Nat)).toNat := by omega
    simp only [Bool.false_eq_true, if_false, out]
  | true =>
    have total : carrySum true x y c = x.toNat - y.toNat - (if c.getLsbD 0 then 1 else 0) := rfl
    have out : carrySum true x y c < 0 ↔ 2 ^ 32 ≤ (carrySum true x y c % (2 ^ 33 : Nat)).toNat := by omega
    simp only [if_true, out]

/-! Conditions (R81). -/

/-- The condition that SUB names. -/
theorem condition_eq {c : Word → Word → Bool} : ∀ {sub : Nat}, conditions[sub]? = some c → condition sub = c
  | 0, h | 1, h | 2, h | 3, h | 4, h | 5, h | 6, h | 7, h | 8, h | 9, h => Option.some.inj h
  | _ + 10, h => nomatch h

end Sys2Proof.Machine
end

section
/-! Proofs about division (O10). -/

namespace Sys2Proof.Machine
open Sys2Proof Sys2Proof.Safety

/-- A signed quotient that fits and its remainder are those of the integers (R80). -/
theorem sdiv_srem_exact {x y : Word} (h : ¬ (x = 0x80000000 ∧ y = 0xFFFFFFFF)) :
    (x.sdiv y).toInt = x.toInt.tdiv y.toInt ∧ (x.srem y).toInt = x.toInt.tmod y.toInt ∧ x.toInt = (x.sdiv y).toInt * y.toInt + (x.srem y).toInt := by
  have quotient : (x.sdiv y).toInt = x.toInt.tdiv y.toInt := BitVec.toInt_sdiv_of_ne_or_ne x y (not_and_or.mp h)
  have remainder : (x.srem y).toInt = x.toInt.tmod y.toInt := BitVec.toInt_srem x y
  refine ⟨quotient, remainder, ?_⟩
  rw [quotient, remainder, Int.mul_comm, Int.mul_tdiv_add_tmod]

/-- An unsigned quotient and its remainder (R80). -/
theorem udiv_umod_exact {x y : Word} (h : y ≠ 0) : x.toNat = (x / y).toNat * y.toNat + (x % y).toNat ∧ (x % y).toNat < y.toNat := by
  rw [BitVec.toNat_udiv, BitVec.toNat_umod, Nat.mul_comm]
  exact ⟨(Nat.div_add_mod _ _).symm, Nat.mod_lt _ (Nat.pos_of_ne_zero fun hz => h (BitVec.eq_of_toNat_eq hz))⟩

/-- Settles O10: each function of division, the borderline results, and the exact integers otherwise. -/
theorem divisionResults : Obligations.DivisionResults := by
  intro e s A B
  refine ⟨?div, ?rem, ?divu, ?remu, rfl, rfl, fun x y _ h => sdiv_srem_exact h, fun x y h => udiv_umod_exact h⟩
  case div => exact results_of_compute rfl rfl fun _ => divSigned_eq _ _
  case rem => exact results_of_compute rfl rfl fun _ => remSigned_eq _ _
  case divu => exact results_of_compute rfl rfl fun _ => divUnsigned_eq _ _
  case remu => exact results_of_compute rfl rfl fun _ => remUnsigned_eq _ _

end Sys2Proof.Machine
end

section
/-! Proofs about saturation, minima and maxima by elements, CLAMP and the carry chain (O11). -/

namespace Sys2Proof.Machine
open Sys2Proof Sys2Proof.Safety

/-- An instruction that computes a value completes with any result of the same elements. -/
theorem results_of_elements {n : Instr} {o : Op} {e : Enc} {s : State} {val : Args → Nat → Word} {f : Issue → Nat → Word} {w : Nat} {unsigned : Bool} (h : Active o e s)
    (hn : exec n s = next (compute o e s none val)) (hr : o.endsRegion e = false) (hw : w ∣ 32)
    (hf : ∀ l < 32, ∀ j < 32 / w, element w unsigned (val ((s.issue o e).args s) l) j = element w unsigned (f (s.issue o e) l) j) : Results n o e s f :=
  results_of_lanes hn hr (fun l hl => eq_of_elements hw (hf l hl)) h

/-- The part of O11 about ADDS and SUBS: the elements of the result are those of the statement, and fix it. -/
theorem saturatingResults : Statements.SaturatingResults := by
  intro e s f A B sub w u hs
  obtain ⟨_, hw⟩ := satWidth_eq sub hs
  refine ⟨fun h => ?adds, fun h => ?subs⟩
  case adds | subs =>
    intro i hf
    exact results_of_elements h rfl rfl hw fun l hl j hj => (element_saturate hs _ _ _ hj).trans (hf l hl j hj).symm

/-- The part of O11 about MIN, MAX, MINU, MAXU and CLAMP. -/
theorem minMaxResults : Statements.MinMaxResults := by
  intro e s f A B C w hs
  have hw : w ∣ 32 := pickWidth_dvd _ hs
  refine ⟨fun h => ?min, fun h => ?max, fun h => ?minu, fun h => ?maxu, ?clamp⟩
  case min | max | minu | maxu =>
    intro i hf
    exact results_of_elements h rfl rfl hw fun l hl j hj => (element_pickElem hs _ _ _ _ hj).trans (hf l hl j hj).symm
  case clamp => exact results_of_compute rfl rfl fun _ => (clampWord_eq _ _ _ _).trans (if_congr beq_iff_eq rfl rfl)

/-- An instruction of a strand without a check of its own completes with its effect. -/
theorem runStrand_done {o : Op} {e : Enc} {s : State} {f : Issue → State → State} (h : Active o e s) (hr : o.endsRegion e = false) :
    runStrand o e s (effect noCheck f) = (f (s.issue o e) s).advance (s.issue o e) :=
  (runStrand_clear h.toClear).trans (effect_done h.active rfl hr)

/-- ADDC writes D and then C (R79): the mask bits of the active lanes, or the uniform field. -/
theorem exec_addc {e : Enc} {s : State} (h : Active .addc e s) :
    let i := s.issue .addc e; let t := fun l => wideSum (e.sub == 1) (i.opnd s .a l) (i.opnd s .b l) (i.opnd s .c l)
    let u := s.writeD i fun l => (t l).setWidth 32
    (classOf e.tf.toNat .c = .k → exec (.addc e) s = .next ((u.onStrand s.cur fun st => st.putK e.c.toNat i.act (Mask.of fun l => (t l).getLsbD 32)).advance i)) ∧
    (classOf e.tf.toNat .c ≠ .k → exec (.addc e) s = .next ((u.writeS s.cur e.c.toNat (if (t 0).getLsbD 32 then 1 else 0)).advance i)) := by
  intro i t u
  have bit : ∀ b : Bool, (if b then 1 else 0 : Word).getLsbD 0 = b := by decide
  have course : exec (.addc e) s = .next (runStrand .addc e s _) := congrArg next (if_neg h.strand)
  rw [course, runStrand_done h rfl]
  dsimp only
  simp only [w32_carrySum, carryOut_carrySum, bit]
  exact ⟨fun hk => by rw [if_pos hk]; rfl, fun hk => by rw [if_neg hk]; rfl⟩

/-- The part of O11 about the carry chain. -/
theorem carryResults : Statements.CarryResults := by
  intro e s i A B C t h
  have wide : t = fun l => wideSum (e.sub == 1) (A l) (B l) (C l) := funext fun l => (if_congr beq_iff_eq rfl rfl).symm
  obtain ⟨mask, uniform⟩ := exec_addc h
  clear_value t
  subst wide
  exact ⟨fun tf => mask (by rw [tf]; rfl), fun tf => uniform (by rw [tf]; decide)⟩

/-- Settles O11: saturation, minima and maxima by elements, and the carry chain. -/
theorem saturationAndCarry : Obligations.SaturationAndCarry := ⟨saturatingResults, minMaxResults, carryResults⟩

end Sys2Proof.Machine
end

section
/-! Proofs about CMP, SETC and SEL (O12). -/

namespace Sys2Proof.Machine
open Sys2Proof Sys2Proof.Safety

section
variable {o : Op} {e : Enc} {s : State} {cond : Args → Nat → Bool}

/-- A comparison into a mask register completes, whatever the active mask (R81). -/
theorem compareInto_mask (h : Clear o e s) (hd : (s.issue o e).dClass = .k) : let i := s.issue o e
    compareInto o e s cond = (s.onStrand s.cur fun st =>
      st.putK e.d.toNat (if e.qbit 0 then BitVec.allOnes 32 else i.act) (Mask.of fun l => i.act.getLsbD l && cond (i.args s) l)).advance i := by
  rw [compareInto, if_neg h.strand, runStrand_clear h, if_pos hd]
  rfl

/-- A comparison into another register completes with all ones or zero (R81). -/
theorem compareInto_register (h : Active o e s) (hd : (s.issue o e).dClass ≠ .k) (hr : o.endsRegion e = false) : let i := s.issue o e
    compareInto o e s cond = (s.writeD i fun l => allOrNone (cond (i.args s) l)).advance i := by
  rw [compareInto, if_neg h.strand, runStrand_clear h.toClear, if_neg hd]
  exact effect_done h.active rfl hr

end

/-- Settles O12: the masks, the words and the selection that the conditions give. -/
theorem compareResults : Obligations.CompareResults := by
  intro e s c hc A B
  have holds : ∀ x y, condition e.sub.toNat x y = c x y := fun x y => by rw [condition_eq hc]
  refine ⟨fun h hd => ?mask, fun h hd => ?uniform, ?setc, results_of_compute rfl rfl fun _ => rfl⟩
  case mask =>
    intro i
    refine congrArg next ((compareInto_mask h hd).trans ?_)
    simp only [holds]
    rfl
  case uniform =>
    refine congrArg next ((compareInto_register h (by rw [hd]; decide) rfl).trans ?_)
    simp only [holds]
    rfl
  case setc =>
    refine results_of_compute rfl rfl fun l => ?_
    simp only [holds]
    by_cases hm : e.qbit 0 = true
    · simp only [hm, if_true]
      rfl
    · simp only [hm]
      rfl

end Sys2Proof.Machine
end

section
/-! The values that the encodings of a floating format stand for (R91), and Round and Sat on them (R98, R101). -/

namespace Sys2Proof.Machine
open Sys2Proof Sys2Proof.Safety

/-! Encodings without their sign bit. -/

/-- The number that an encoding without its sign bit stands for (R91). -/
def Fmt.magnitude (f : Fmt) (c : Nat) : Dy :=
  if c / 2 ^ f.m = 0 then { s := c, e := 1 - (f.bias : Int) - f.m } else { s := (2 ^ f.m + c % 2 ^ f.m : Nat), e := (c / 2 ^ f.m : Nat) - (f.bias : Int) - f.m }

/-- The sign bit of an encoding. -/
def Fmt.signBit (f : Fmt) (neg : Bool) : Nat := if neg then 2 ^ (f.e + f.m) else 0

/-- A number with a sign. -/
def Dy.signed (neg : Bool) (d : Dy) : Dy := if neg then d.neg else d

theorem exactValue_signed (neg : Bool) (d : Dy) : exactValue (d.signed neg) = if neg then -exactValue d else exactValue d := by
  cases neg
  · rfl
  · simp [Dy.signed, Dy.neg, exactValue]

section
variable {f : Fmt} {c : Nat}

theorem Fmt.largest_lt : f.largest < 2 ^ (f.e + f.m) := by
  have pos : 0 < 2 ^ (f.e + f.m) := Nat.two_pow_pos _
  have exps : (2 ^ f.e - 1) * 2 ^ f.m ≤ 2 ^ (f.e + f.m) := by
    rw [Nat.pow_add]
    exact Nat.mul_le_mul_right _ (Nat.sub_le _ _)
  unfold Fmt.largest
  split
  · omega
  · split <;> omega

/-- The encodings past the largest finite one are those that R90 keeps for infinities and NaN. -/
theorem Fmt.largest_lt_iff (he : 0 < f.e) (hc : c < 2 ^ (f.e + f.m)) :
    f.largest < c ↔ (f.inf = true ∧ c / 2 ^ f.m = 2 ^ f.e - 1) ∨ (f.nan = true ∧ ¬ f.inf = true ∧ c = 2 ^ (f.e + f.m) - 1) := by
  have exponent : c / 2 ^ f.m < 2 ^ f.e := Nat.div_lt_of_lt_mul (by rwa [← Nat.pow_add, Nat.add_comm])
  have two : 2 ≤ 2 ^ (f.e + f.m) := Nat.le_self_pow (by omega) 2
  unfold Fmt.largest
  by_cases inf : f.inf = true
  · have top : (2 ^ f.e - 1) * 2 ^ f.m ≤ c ↔ 2 ^ f.e - 1 ≤ c / 2 ^ f.m := (Nat.le_div_iff_mul_le (Nat.two_pow_pos _)).symm
    have infinities : 0 < (2 ^ f.e - 1) * 2 ^ f.m := Nat.mul_pos (Nat.sub_pos_of_lt (Nat.one_lt_two_pow he.ne')) (Nat.two_pow_pos _)
    simp only [inf, if_true, true_and, not_true_eq_false, false_and, and_false, or_false]
    omega
  · by_cases nan : f.nan = true
    · simp only [inf, nan, if_true, if_false, true_and, false_and, not_false_eq_true, false_or, Bool.false_eq_true]
      omega
    · simp only [inf, nan, if_false, false_and, or_false, Bool.false_eq_true, iff_false]
      omega

/-- The fields of an encoding (R90). -/
theorem Fmt.fields (he : 0 < f.e) (neg : Bool) (hc : c < 2 ^ (f.e + f.m)) : let x := f.signBit neg + c
    bit x (f.e + f.m) = neg ∧ bits x (f.e + f.m - 1) f.m = c / 2 ^ f.m ∧ x % 2 ^ f.m = c % 2 ^ f.m ∧ x % 2 ^ (f.e + f.m) = c := by
  have exponent : c / 2 ^ f.m < 2 ^ f.e := Nat.div_lt_of_lt_mul (by rwa [← Nat.pow_add, Nat.add_comm])
  have field : f.e + f.m - 1 + 1 - f.m = f.e := by omega
  have sign : f.signBit neg = 2 ^ f.m * (2 ^ f.e * neg.toNat) := by
    cases neg
    · rfl
    · simp [Fmt.signBit, Nat.pow_add, Nat.mul_comm]
  intro x
  refine ⟨?sign, ?exponent, ?fraction, ?whole⟩
  case sign =>
    show decide ((f.signBit neg + c) / 2 ^ (f.e + f.m) % 2 = 1) = neg
    rw [sign, ← Nat.mul_assoc, ← Nat.pow_add, Nat.add_comm f.m, Nat.mul_add_div (Nat.two_pow_pos _), Nat.div_eq_of_lt hc]
    cases neg <;> rfl
  case exponent =>
    show (f.signBit neg + c) / 2 ^ f.m % _ = _
    rw [field, sign, Nat.mul_add_div (Nat.two_pow_pos _), Nat.mul_add_mod, Nat.mod_eq_of_lt exponent]
  case fraction =>
    show (f.signBit neg + c) % 2 ^ f.m = _
    rw [sign, Nat.mul_add_mod]
  case whole =>
    show (f.signBit neg + c) % _ = c
    rw [sign, ← Nat.mul_assoc, ← Nat.pow_add, Nat.add_comm f.m, Nat.mul_add_mod, Nat.mod_eq_of_lt hc]

/-- An encoding up to the largest finite one stands for its number (R91). -/
theorem Fmt.decode_finite (he : 0 < f.e) (neg : Bool) (hc : c ≤ f.largest) : f.decode (f.signBit neg + c) = .num neg ((f.magnitude c).signed neg) := by
  have bound := hc.trans_lt f.largest_lt
  obtain ⟨sign, exponent, fraction, whole⟩ := Fmt.fields he neg bound
  obtain ⟨notInf, notNan⟩ := not_or.mp ((Fmt.largest_lt_iff he bound).not.mp (Nat.not_lt.mpr hc))
  have small : c / 2 ^ f.m = 0 → c % 2 ^ f.m = c := fun h => Nat.mod_eq_of_lt (by simpa using h)
  rw [Fmt.decode]
  simp only [sign, exponent, fraction, whole, if_neg notInf, if_neg notNan]
  by_cases sub : c / 2 ^ f.m = 0
  · rw [if_pos sub, Fmt.magnitude, if_pos sub, small sub]
    cases neg <;> rfl
  · rw [if_neg sub, Fmt.magnitude, if_neg sub]
    cases neg <;> rfl

/-- An encoding past the largest finite one stands for no number. -/
theorem Fmt.decode_special (he : 0 < f.e) (neg : Bool) (hc : f.largest < c) (bound : c < 2 ^ (f.e + f.m)) (n : Bool) (d : Dy) :
    f.decode (f.signBit neg + c) ≠ .num n d := by
  obtain ⟨sign, exponent, fraction, whole⟩ := Fmt.fields he neg bound
  rw [Fmt.decode]
  simp only [sign, exponent, fraction, whole]
  by_cases top : f.inf = true ∧ c / 2 ^ f.m = 2 ^ f.e - 1
  · rw [if_pos top]
    split <;> exact FVal.noConfusion
  · rw [if_neg top, if_pos (((Fmt.largest_lt_iff he bound).mp hc).resolve_left top)]
    exact FVal.noConfusion

/-- A number's encoding is its sign bit and an encoding up to the largest finite one. -/
theorem Fmt.finite_of_decode (he : 0 < f.e) {x : Nat} (hx : x < 2 ^ f.width) {neg : Bool} {d : Dy} (h : f.decode x = .num neg d) :
    ∃ c ≤ f.largest, x = f.signBit neg + c ∧ d = (f.magnitude c).signed neg := by
  have half : 2 ^ f.width = 2 ^ (f.e + f.m) + 2 ^ (f.e + f.m) := by rw [Fmt.width, Nat.add_assoc, Nat.pow_add]; omega
  have below : x % 2 ^ (f.e + f.m) < 2 ^ (f.e + f.m) := Nat.mod_lt _ (Nat.two_pow_pos _)
  have parts : x = f.signBit (decide (2 ^ (f.e + f.m) ≤ x)) + x % 2 ^ (f.e + f.m) := by
    by_cases top : 2 ^ (f.e + f.m) ≤ x
    · rw [Nat.mod_eq_sub_mod top, Nat.mod_eq_of_lt (by omega)]
      simp [Fmt.signBit, top]
    · rw [Nat.mod_eq_of_lt (by omega)]
      simp [Fmt.signBit, top]
  rw [parts] at h
  by_cases finite : x % 2 ^ (f.e + f.m) ≤ f.largest
  · obtain ⟨rfl, rfl⟩ := FVal.num.inj ((Fmt.decode_finite he _ finite).symm.trans h)
    exact ⟨_, finite, parts, rfl⟩
  · exact absurd h (Fmt.decode_special he _ (Nat.not_le.mp finite) below neg d)

end

/-! The values in order. -/

section
variable (f : Fmt)

/-- The value that an encoding without its sign bit stands for. -/
def Fmt.value (c : Nat) : ℚ := exactValue (f.magnitude c)

/-- The value of an encoding in units of the least subnormal number. -/
def Fmt.units (c : Nat) : Nat := if c / 2 ^ f.m = 0 then c else (2 ^ f.m + c % 2 ^ f.m) * 2 ^ (c / 2 ^ f.m - 1)

theorem Fmt.value_eq_units (c : Nat) : f.value c = f.units c * 2 ^ (1 - (f.bias : Int) - f.m) := by
  unfold Fmt.value Fmt.magnitude Fmt.units exactValue
  by_cases sub : c / 2 ^ f.m = 0
  · simp only [if_pos sub]
    norm_cast
  · simp only [if_neg sub]
    obtain ⟨k, hk⟩ := Nat.exists_eq_succ_of_ne_zero sub
    have exponent : ((k + 1 : Nat) : Int) - f.bias - f.m = (k : Int) + (1 - (f.bias : Int) - f.m) := by omega
    rw [hk, Nat.succ_eq_add_one, exponent, zpow_add₀ two_ne_zero, zpow_natCast, ← mul_assoc, Nat.add_sub_cancel]
    norm_cast

/-- The next encoding stands for a greater number. -/
theorem Fmt.units_lt_succ (c : Nat) : f.units c < f.units (c + 1) := by
  have pos : 0 < 2 ^ f.m := Nat.two_pow_pos _
  have inside := Nat.mod_lt c pos
  have whole := Nat.mod_add_div c (2 ^ f.m)
  unfold Fmt.units
  by_cases carry : c % 2 ^ f.m + 1 < 2 ^ f.m
  · obtain ⟨exponent, fraction⟩ := (Nat.div_mod_unique (a := c + 1) (d := c / 2 ^ f.m) pos).mpr ⟨by omega, carry⟩
    rw [exponent, fraction]
    split
    · exact Nat.lt_succ_self c
    · exact Nat.mul_lt_mul_of_pos_right (by omega) (Nat.two_pow_pos _)
  · obtain ⟨exponent, fraction⟩ := (Nat.div_mod_unique (a := c + 1) (d := c / 2 ^ f.m + 1) (c := 0) pos).mpr ⟨by rw [Nat.mul_add]; omega, pos⟩
    rw [exponent, fraction, if_neg (Nat.succ_ne_zero _), Nat.add_sub_cancel]
    by_cases sub : c / 2 ^ f.m = 0
    · rw [sub, Nat.mul_zero] at whole
      rw [if_pos sub, sub]
      omega
    · obtain ⟨k, hk⟩ := Nat.exists_eq_succ_of_ne_zero sub
      rw [if_neg sub, hk, Nat.succ_eq_add_one, Nat.add_sub_cancel, Nat.add_zero, Nat.pow_succ, Nat.mul_comm _ 2, ← Nat.mul_assoc]
      exact Nat.mul_lt_mul_of_pos_right (by omega) (Nat.two_pow_pos _)

theorem Fmt.value_strictMono : StrictMono f.value := by
  have unit : (0 : ℚ) < 2 ^ (1 - (f.bias : Int) - f.m) := by positivity
  refine strictMono_nat_of_lt_succ fun c => ?_
  rw [f.value_eq_units, f.value_eq_units]
  exact mul_lt_mul_of_pos_right (by exact_mod_cast f.units_lt_succ c) unit

/-- The significand and the exponent of a number of the format. -/
theorem Fmt.magnitude_bounds (c : Nat) : 0 ≤ (f.magnitude c).s ∧ (f.magnitude c).s < 2 ^ (f.m + 1) ∧ 1 - (f.bias : Int) - f.m ≤ (f.magnitude c).e := by
  have pos : 0 < 2 ^ f.m := Nat.two_pow_pos _
  have inside := Nat.mod_lt c pos
  have double : (2 : Int) ^ (f.m + 1) = ((2 ^ f.m + 2 ^ f.m : Nat) : Int) := by push_cast; ring
  unfold Fmt.magnitude
  rw [double]
  by_cases sub : c / 2 ^ f.m = 0
  · have small : c < 2 ^ f.m := by simpa using sub
    rw [if_pos sub]
    dsimp only
    omega
  · obtain ⟨k, hk⟩ := Nat.exists_eq_succ_of_ne_zero sub
    rw [if_neg sub, hk]
    dsimp only
    omega

/-- The value of a normal number by its fields (R91). -/
theorem Fmt.value_normal {x y : Nat} (hx : 0 < x) (hy : y < 2 ^ f.m) : f.value (x * 2 ^ f.m + y) = ((2 ^ f.m + y : Nat) : ℚ) * 2 ^ ((x : Int) - f.bias - f.m) := by
  have pos : 0 < 2 ^ f.m := Nat.two_pow_pos _
  obtain ⟨exponent, fraction⟩ := (Nat.div_mod_unique (a := x * 2 ^ f.m + y) pos).mpr ⟨by rw [Nat.add_comm, Nat.mul_comm], hy⟩
  rw [Fmt.value, Fmt.magnitude, exponent, fraction, if_neg hx.ne', exactValue]
  norm_cast

/-- The value of a subnormal number (R91). -/
theorem Fmt.value_subnormal {y : Nat} (hy : y < 2 ^ f.m) : f.value y = y * 2 ^ (1 - (f.bias : Int) - f.m) := by
  rw [Fmt.value, Fmt.magnitude, if_pos (Nat.div_eq_of_lt hy), exactValue]
  norm_cast

end

/-! Dyadic numbers. -/

/-- A power of two by a smaller one. -/
theorem two_zpow_eq {a b : Int} (h : b ≤ a) : (2 : ℚ) ^ a = ((2 ^ (a - b).toNat : Nat) : ℚ) * 2 ^ b := by
  rw [Nat.cast_pow, Nat.cast_ofNat, ← zpow_natCast, ← zpow_add₀ two_ne_zero, Int.toNat_of_nonneg (by omega), sub_add_cancel]

/-- The exponent of the leading bit of a magnitude bounds it. -/
theorem log2_bounds {n : Nat} (hn : 0 < n) (e : Int) : (2 : ℚ) ^ ((Nat.log2 n : Int) + e) ≤ n * 2 ^ e ∧ n * 2 ^ e < (2 : ℚ) ^ ((Nat.log2 n : Int) + e + 1) := by
  have pos : (0 : ℚ) < 2 ^ e := by positivity
  rw [add_right_comm, zpow_add₀ two_ne_zero, zpow_add₀ two_ne_zero]
  exact ⟨mul_le_mul_of_nonneg_right (by exact_mod_cast Nat.log2_self_le hn.ne') pos.le, mul_lt_mul_of_pos_right (by exact_mod_cast Nat.lt_log2_self) pos⟩

theorem log2_of_bounds {n : Nat} {e l : Int} (hn : 0 < n) (low : (2 : ℚ) ^ l ≤ n * 2 ^ e) (high : n * 2 ^ e < (2 : ℚ) ^ (l + 1)) : (Nat.log2 n : Int) + e = l := by
  obtain ⟨below, above⟩ := log2_bounds hn e
  have first := (zpow_lt_zpow_iff_right₀ one_lt_two).mp (below.trans_lt high)
  have second := (zpow_lt_zpow_iff_right₀ one_lt_two).mp (low.trans_lt above)
  omega

theorem dyGt_iff (k : Nat) (e : Int) (k' : Nat) (e' : Int) : dyGt k e k' e' = true ↔ (k' : ℚ) * 2 ^ e' < k * 2 ^ e := by
  unfold dyGt
  by_cases h : e' ≤ e
  · have pos : (0 : ℚ) < 2 ^ e' := by positivity
    rw [if_pos h, decide_eq_true_eq, two_zpow_eq h, ← mul_assoc, mul_lt_mul_iff_left₀ pos]
    norm_cast
  · have pos : (0 : ℚ) < 2 ^ e := by positivity
    rw [if_neg h, decide_eq_true_eq, two_zpow_eq (Int.le_of_not_le h), ← mul_assoc, mul_lt_mul_iff_left₀ pos]
    norm_cast

section
variable {f : Fmt} {k : Nat} {q : Int}

/-- A significand moved up to the width of the format's significands. -/
theorem significand_bounds {m : Nat} (hk : 0 < k) (short : Nat.log2 k ≤ m) : 2 ^ m ≤ k * 2 ^ (m - Nat.log2 k) ∧ k * 2 ^ (m - Nat.log2 k) < 2 ^ m + 2 ^ m := by
  constructor
  · calc 2 ^ m = 2 ^ Nat.log2 k * 2 ^ (m - Nat.log2 k) := by rw [← Nat.pow_add, Nat.add_sub_cancel' short]
      _ ≤ _ := Nat.mul_le_mul_right _ (Nat.log2_self_le hk.ne')
  · calc k * 2 ^ (m - Nat.log2 k) < 2 ^ (Nat.log2 k + 1) * 2 ^ (m - Nat.log2 k) := Nat.mul_lt_mul_of_pos_right Nat.lt_log2_self (Nat.two_pow_pos _)
      _ = 2 ^ m + 2 ^ m := by rw [← Nat.pow_add, show Nat.log2 k + 1 + (m - Nat.log2 k) = m + 1 by omega, Nat.pow_succ, Nat.mul_two]

/-- A number below the least normal one is encoded by its value (R91). -/
theorem Fmt.value_encode_subnormal (hq : 1 - (f.bias : Int) - f.m ≤ q) (sub : (Nat.log2 k : Int) + q < 1 - f.bias) : f.value (f.encode false k q) = k * 2 ^ q := by
  have small : k * 2 ^ (q - (1 - (f.bias : Int) - f.m)).toNat < 2 ^ f.m :=
    calc k * 2 ^ (q - (1 - (f.bias : Int) - f.m)).toNat < 2 ^ (Nat.log2 k + 1) * 2 ^ (q - (1 - (f.bias : Int) - f.m)).toNat :=
          Nat.mul_lt_mul_of_pos_right Nat.lt_log2_self (Nat.two_pow_pos _)
      _ ≤ 2 ^ f.m := by
        rw [← Nat.pow_add]
        exact Nat.pow_le_pow_right (by omega) (by omega)
  simp only [Fmt.encode, if_pos sub, if_pos hq, Bool.false_eq_true, if_false, Nat.zero_add]
  rw [f.value_subnormal small, two_zpow_eq hq, Nat.cast_mul, mul_assoc]

/-- A number with its significand and exponent in the range of the format is encoded by its value (R91). -/
theorem Fmt.value_encode (hk : 0 < k) (high : k ≤ 2 ^ (f.m + 1)) (hq : 1 - (f.bias : Int) - f.m ≤ q) : f.value (f.encode false k q) = k * 2 ^ q := by
  by_cases sub : (Nat.log2 k : Int) + q < 1 - f.bias
  · exact f.value_encode_subnormal hq sub
  have leading := Nat.log2_self_le hk.ne'
  have exponent : (((Nat.log2 k : Int) + q + f.bias).toNat : Int) - f.bias - f.m = Nat.log2 k + q - f.m := by omega
  simp only [Fmt.encode, if_neg sub, Bool.false_eq_true, if_false, Nat.zero_add]
  by_cases short : Nat.log2 k ≤ f.m
  · obtain ⟨low, fits⟩ := significand_bounds hk short
    have shift : (q - (Nat.log2 k + q - f.m)).toNat = f.m - Nat.log2 k := by omega
    rw [if_pos (by omega), shift, f.value_normal (by omega) (by omega), Nat.add_sub_cancel' low, exponent, two_zpow_eq (show (Nat.log2 k : Int) + q - f.m ≤ q by omega), shift]
    push_cast
    ring
  · have top : Nat.log2 k ≤ f.m + 1 := (Nat.pow_le_pow_iff_right Nat.one_lt_two).mp (leading.trans high)
    have carried : Nat.log2 k = f.m + 1 := by omega
    have power : k = 2 ^ f.m * 2 := by
      rw [carried] at leading
      rw [← Nat.pow_succ]
      exact le_antisymm high leading
    have shift : ((f.m + 1 : Nat) + q - f.m - q).toNat = 1 := by omega
    rw [carried] at exponent ⊢
    rw [if_neg (by omega), shift, power, Nat.pow_one, Nat.mul_div_cancel _ Nat.two_pos, Nat.sub_self, f.value_normal (by omega) (Nat.two_pow_pos _), exponent,
      Nat.add_zero, show ((f.m + 1 : Nat) : Int) + q - f.m = q + 1 by omega, zpow_add_one₀ two_ne_zero]
    push_cast
    ring

theorem Fmt.encode_sign (neg : Bool) : f.encode neg k q = f.signBit neg + f.encode false k q := by
  unfold Fmt.encode Fmt.signBit
  simp only [Bool.false_eq_true, if_false]
  split <;> omega

end

/-! Round. -/

/-- Nothing is added to an exact multiple (R98). -/
theorem roundUp_zero (rm : RMode) (neg : Bool) (t : Int) {rand : Nat} (hr : rand < 2 ^ 16) : roundUp rm neg t 0 rand = 0 := by
  cases rm with
  | rs => simp [roundUp]; omega
  | rne => norm_num [roundUp]
  | rtz | rup | rdn => simp [roundUp]

theorem roundUp_le_one (rm : RMode) (neg : Bool) (t : Int) (y : ℚ) (rand : Nat) : roundUp rm neg t y rand ≤ 1 := by
  have increment : ∀ up : Bool, (if up = true then (1 : Int) else 0) ≤ 1 := by decide
  exact increment _

/-- Whether R98 rounds up a quotient `t` by `2 * half` with the remainder `r`. -/
def roundsUp (rm : RMode) (neg : Bool) (t r half rand : Nat) : Bool :=
  match rm with
  | .rne => decide (half < r) || (r == half && t % 2 == 1)
  | .rtz => false
  | .rup => r != 0 && !neg
  | .rdn => r != 0 && neg
  | .rs => decide (2 ^ 16 ≤ r * 2 ^ 16 / (2 * half) + rand)

theorem roundUp_remainder (rm : RMode) (neg : Bool) (t r rand : Nat) {half : Nat} (pos : 0 < half) :
    roundUp rm neg t ((r : ℚ) / (2 * half : Nat)) rand = if roundsUp rm neg t r half rand then 1 else 0 := by
  have whole : (0 : ℚ) < (2 * half : Nat) := by positivity
  refine congrArg (fun b : Bool => if b = true then (1 : Int) else 0) ?_
  cases rm with
  | rne =>
    have above : (r : ℚ) / (2 * half : Nat) > 1 / 2 ↔ half < r := by
      rw [gt_iff_lt, lt_div_iff₀ whole]
      push_cast
      rw [one_div, inv_mul_cancel_left₀ two_ne_zero, Nat.cast_lt]
    have tie : (r : ℚ) / (2 * half : Nat) = 1 / 2 ↔ r = half := by
      rw [div_eq_iff whole.ne']
      push_cast
      rw [one_div, inv_mul_cancel_left₀ two_ne_zero, Nat.cast_inj]
    have odd : (t : Int) % 2 = 1 ↔ t % 2 = 1 := by omega
    simp only [roundsUp, above, tie, odd]
    rfl
  | rtz => rfl
  | rup | rdn =>
    have positive : decide ((r : ℚ) / (2 * half : Nat) > 0) = (r != 0) := by
      rw [Bool.eq_iff_iff, decide_eq_true_iff, bne_iff_ne, gt_iff_lt, div_pos_iff_of_pos_right whole, Nat.cast_pos, Nat.pos_iff_ne_zero]
    simp only [roundsUp, positive]
  | rs =>
    have scaled : ⌊(r : ℚ) / (2 * half : Nat) * 2 ^ 16⌋ = ((r * 2 ^ 16 / (2 * half) : Nat) : Int) := by
      rw [div_mul_eq_mul_div, show (r : ℚ) * 2 ^ 16 = ((r * 2 ^ 16 : Nat) : ℚ) by push_cast; rfl, Rat.floor_natCast_div_natCast]
      rfl
    simp only [roundsUp, scaled]
    refine decide_eq_decide.mpr ?_
    omega

/-- Rounding away bits adds one to the quotient where R98 rounds up. -/
theorem roundUnits_quotient (neg : Bool) (n : Nat) (rm : RMode) (rand : Nat) {e q : Int} {d : Nat} (hd : (q - e).toNat = d + 1) :
    roundUnits neg n e false q rm rand = n / (2 * 2 ^ d) + if roundsUp rm neg (n / (2 * 2 ^ d)) (n % (2 * 2 ^ d)) (2 ^ d) rand then 1 else 0 := by
  have double : 2 ^ (d + 1) = 2 * 2 ^ d := Nat.pow_succ'
  refine Eq.trans ?_ (apply_ite (n / (2 * 2 ^ d) + ·) _ 1 0).symm
  rw [roundUnits, if_neg (by omega), hd]
  simp only [double, Nat.add_sub_cancel]
  cases rm <;> rfl

/-- Rounding to a multiple of 2 to the power `q`: the floor and the increment of R98. -/
theorem roundUnits_eq (neg : Bool) (n : Nat) (e q : Int) (rm : RMode) {rand : Nat} (hr : rand < 2 ^ 16) : let y : ℚ := n * 2 ^ (e - q)
    ((roundUnits neg n e false q rm rand : Nat) : Int) = ⌊y⌋ + roundUp rm neg ⌊y⌋ (y - ⌊y⌋) rand := by
  intro y
  by_cases h : q ≤ e
  · have multiple : y = ((n * 2 ^ (e - q).toNat : Nat) : ℚ) := by
      show (n : ℚ) * 2 ^ (e - q) = _
      rw [two_zpow_eq (b := 0) (by omega), sub_zero, zpow_zero, mul_one, Nat.cast_mul]
    rw [multiple, Int.floor_natCast, Int.cast_natCast, sub_self, roundUp_zero rm neg _ hr, roundUnits, if_pos h]
    simp
  · obtain ⟨d, hd⟩ : ∃ d, (q - e).toNat = d + 1 := ⟨(q - e).toNat - 1, by omega⟩
    have quotient : y = (n : ℚ) / (2 ^ (d + 1) : Nat) := by
      show (n : ℚ) * 2 ^ (e - q) = _
      rw [div_eq_mul_inv, Nat.cast_pow, Nat.cast_ofNat, ← zpow_natCast, ← zpow_neg, ← hd, Int.toNat_of_nonneg (by omega), neg_sub]
    have floor : ⌊y⌋ = ((n / 2 ^ (d + 1) : Nat) : Int) := by rw [quotient, Rat.floor_natCast_div_natCast]; rfl
    have rest : y - ⌊y⌋ = ((n % 2 ^ (d + 1) : Nat) : ℚ) / (2 ^ (d + 1) : Nat) := by
      have pos : ((2 ^ (d + 1) : Nat) : ℚ) ≠ 0 := by positivity
      rw [floor, quotient, eq_div_iff pos, sub_mul, div_mul_cancel₀ _ pos, sub_eq_iff_eq_add]
      rw [Int.cast_natCast, ← Nat.cast_mul, ← Nat.cast_add, Nat.mod_add_div']
    rw [rest, floor, Nat.pow_succ', roundUp_remainder rm neg _ _ _ (Nat.two_pow_pos d), roundUnits_quotient neg n rm rand hd]
    push_cast
    rfl

/-! Round and Sat together. -/

section
variable {f : Fmt}

/-- `x` encodes the magnitude `y` with a sign. -/
def Fmt.Encodes (f : Fmt) (x : Nat) (neg : Bool) (y : ℚ) : Prop := ∃ c ≤ f.largest, x = f.signBit neg + c ∧ f.value c = y

theorem Fmt.Encodes.decode {x : Nat} {neg : Bool} {y : ℚ} (he : 0 < f.e) (h : f.Encodes x neg y) :
    ∃ d, f.decode x = .num neg d ∧ exactValue d = if neg then -y else y := by
  obtain ⟨c, hc, rfl, rfl⟩ := h
  exact ⟨_, f.decode_finite he neg hc, exactValue_signed neg _⟩

/-- A magnitude has one encoding. -/
theorem Fmt.Encodes.unique {x x' : Nat} {neg : Bool} {y : ℚ} (h : f.Encodes x neg y) (h' : f.Encodes x' neg y) : x = x' := by
  obtain ⟨c, -, rfl, value⟩ := h
  obtain ⟨c', -, rfl, value'⟩ := h'
  rw [f.value_strictMono.injective (value.trans value'.symm)]

/-- A zero keeps its sign (R98, R101). -/
theorem Fmt.encodes_zero (field : Nat) (neg : Bool) : f.Encodes (f.sat field (.zero neg)) neg 0 :=
  ⟨0, Nat.zero_le _, rfl, by rw [f.value_subnormal (Nat.two_pow_pos _), Nat.cast_zero, zero_mul]⟩

/-- A finite value in the range of the format is saved as it is (R101). -/
theorem Fmt.encodes_fin (field : Nat) (neg : Bool) {k : Nat} {q : Int} (hk : 0 < k) (high : k ≤ 2 ^ (f.m + 1)) (hq : 1 - (f.bias : Int) - f.m ≤ q)
    (fits : (k : ℚ) * 2 ^ q ≤ f.value f.largest) : f.Encodes (f.sat field (.fin neg k q)) neg (k * 2 ^ q) := by
  have value := f.value_encode hk high hq
  exact ⟨f.encode false k q, f.value_strictMono.le_iff_le.mp (value.trans_le fits), f.encode_sign neg, value⟩

/-- The modes that round a magnitude past the largest finite one to infinity (R98). -/
def RMode.Away (rm : RMode) (neg : Bool) : Prop := rm = .rne ∨ rm = .rs ∨ (rm = .rup ∧ neg = false) ∨ (rm = .rdn ∧ neg = true)

/-- The magnitude of an encoding as significand and exponent. -/
theorem Fmt.value_eq_natAbs (c : Nat) : f.value c = (f.magnitude c).s.natAbs * 2 ^ (f.magnitude c).e := by
  rw [Fmt.value, exactValue, Nat.cast_natAbs, abs_of_nonneg (f.magnitude_bounds c).1]

/-- What Round makes of a magnitude by the units that it comes to (R98). -/
theorem roundTo_mag (he : 0 < f.e) (rm : RMode) (rand : Nat) (neg : Bool) {n : Nat} {e l : Int} (hl : (Nat.log2 n : Int) + e = l) :
    let q := max l (1 - (f.bias : Int)) - f.m; let k := roundUnits neg n e false q rm rand; let top := f.magnitude f.largest
    (k = 0 → roundTo f rm rand (.mag neg n e false) = .zero neg) ∧
    (0 < k → k * 2 ^ q ≤ f.value f.largest → roundTo f rm rand (.mag neg n e false) = .fin neg k q) ∧
    (f.value f.largest < k * 2 ^ q → rm.Away neg → roundTo f rm rand (.mag neg n e false) = .inf neg) ∧
    (f.value f.largest < k * 2 ^ q → ¬ rm.Away neg → roundTo f rm rand (.mag neg n e false) = .fin neg top.s.natAbs top.e) := by
  intro q k top
  have big : f.decode f.largest = .num false top := by simpa [Fmt.signBit, Dy.signed] using f.decode_finite he false (le_refl f.largest)
  have past : dyGt k q top.s.natAbs top.e = true ↔ f.value f.largest < k * 2 ^ q := by rw [dyGt_iff, f.value_eq_natAbs]
  have nonneg : 0 ≤ f.value f.largest := by rw [f.value_eq_natAbs]; positivity
  have away : (rm = .rne ∨ rm = .rs ∨ (rm = .rup ∧ ¬ neg = true) ∨ (rm = .rdn ∧ neg = true)) ↔ rm.Away neg := by rw [RMode.Away, Bool.not_eq_true]
  have course : roundTo f rm rand (.mag neg n e false) = if k = 0 then .zero neg
      else if dyGt k q top.s.natAbs top.e = true then if rm = .rne ∨ rm = .rs ∨ (rm = .rup ∧ ¬ neg = true) ∨ (rm = .rdn ∧ neg = true) then .inf neg else .fin neg top.s.natAbs top.e
      else .fin neg k q := by
    rw [roundTo]
    simp only [hl, big]
    rfl
  have nonzero : f.value f.largest < k * 2 ^ q → ¬ k = 0 := by
    intro beyond zero
    rw [zero, Nat.cast_zero, zero_mul] at beyond
    exact absurd beyond (not_lt.mpr nonneg)
  rw [course]
  refine ⟨fun zero => if_pos zero, fun pos fits => ?fits, fun beyond out => ?inf, fun beyond inward => ?top⟩
  case fits => rw [if_neg pos.ne', if_neg (past.not.mpr (not_lt.mpr fits))]
  case inf => rw [if_neg (nonzero beyond), if_pos (past.mpr beyond), if_pos (away.mpr out)]
  case top => rw [if_neg (nonzero beyond), if_pos (past.mpr beyond), if_neg (away.not.mpr inward)]

theorem Fmt.largest_pos (he : 1 < f.e) : 0 < f.largest := by
  have four : 4 ≤ 2 ^ f.e := Nat.pow_le_pow_right (n := 2) Nat.two_pos he
  have exps : 2 ^ f.e - 1 ≤ (2 ^ f.e - 1) * 2 ^ f.m := Nat.le_mul_of_pos_right _ (Nat.two_pow_pos _)
  have whole : 2 ^ f.e ≤ 2 ^ (f.e + f.m) := Nat.pow_le_pow_right Nat.two_pos (Nat.le_add_right _ _)
  unfold Fmt.largest
  split
  · omega
  · split <;> omega

/-- A value of the format as significand and exponent. -/
theorem Fmt.value_parts (f : Fmt) (c : Nat) : ∃ (s : Nat) (E : Int), f.value c = s * 2 ^ E ∧ s < 2 ^ (f.m + 1) ∧ 1 - (f.bias : Int) - f.m ≤ E := by
  obtain ⟨nonneg, small, least⟩ := f.magnitude_bounds c
  exact ⟨_, _, f.value_eq_natAbs c, by zify; rw [abs_of_nonneg nonneg]; exact small, least⟩

section
variable {n : Nat} {e l : Int} {rand : Nat}

/-- Rounding comes to at most the first significand past those of the format. -/
theorem roundUnits_le (f : Fmt) (neg : Bool) (rm : RMode) (hr : rand < 2 ^ 16) (high : n * 2 ^ e < (2 : ℚ) ^ (l + 1)) :
    roundUnits neg n e false (max l (1 - (f.bias : Int)) - f.m) rm rand ≤ 2 ^ (f.m + 1) := by
  generalize hq : max l (1 - (f.bias : Int)) - f.m = q
  have below : (n : ℚ) * 2 ^ (e - q) < (2 : ℚ) ^ (f.m + 1) :=
    calc (n : ℚ) * 2 ^ (e - q) = n * 2 ^ e * 2 ^ (-q) := by rw [sub_eq_add_neg, zpow_add₀ two_ne_zero, mul_assoc]
      _ < 2 ^ (l + 1) * 2 ^ (-q) := mul_lt_mul_of_pos_right high (by positivity)
      _ = 2 ^ (l + 1 - q) := by rw [sub_eq_add_neg, ← zpow_add₀ two_ne_zero]
      _ ≤ 2 ^ ((f.m + 1 : Nat) : Int) := zpow_le_zpow_right₀ one_le_two (by omega)
      _ = _ := zpow_natCast _ _
  have floor : ⌊(n : ℚ) * 2 ^ (e - q)⌋ < 2 ^ (f.m + 1) := Int.floor_lt.mpr (by exact_mod_cast below)
  have units := roundUnits_eq neg n e q rm hr
  have bound : ((roundUnits neg n e false q rm rand : Nat) : Int) ≤ (2 ^ (f.m + 1) : Nat) := by
    rw [units]
    push_cast
    linarith [roundUp_le_one rm neg ⌊(n : ℚ) * 2 ^ (e - q)⌋ ((n : ℚ) * 2 ^ (e - q) - ⌊(n : ℚ) * 2 ^ (e - q)⌋) rand]
  exact_mod_cast bound

/-- Round and Sat on a magnitude (R98, R101): the rounded value where the format reaches it; past that the largest finite value, or as an infinity is saved. -/
theorem sat_roundTo (he : 1 < f.e) (rm : RMode) (neg : Bool) (field : Nat) (hr : rand < 2 ^ 16) (hn : 0 < n) (low : (2 : ℚ) ^ l ≤ n * 2 ^ e) (high : n * 2 ^ e < (2 : ℚ) ^ (l + 1)) :
    let q := max l (1 - (f.bias : Int)) - f.m; let v : ℚ := roundUnits neg n e false q rm rand * 2 ^ q; let result := f.sat field (roundTo f rm rand (.mag neg n e false))
    (v ≤ f.value f.largest → f.Encodes result neg v) ∧ (f.value f.largest < v → ¬ rm.Away neg → f.Encodes result neg (f.value f.largest)) ∧
    (f.value f.largest < v → rm.Away neg → result = f.sat field (.inf neg)) := by
  intro q v result
  obtain ⟨zero, fin, inf, top⟩ := roundTo_mag (Nat.zero_lt_of_lt he) rm rand neg (log2_of_bounds hn low high)
  refine ⟨fun fits => ?fits, fun beyond inward => ?top, fun beyond out => congrArg (f.sat field) (inf beyond out)⟩
  case fits =>
    rcases Nat.eq_zero_or_pos (roundUnits neg n e false q rm rand) with units | pos
    · have value : v = 0 := by simp only [v, units, Nat.cast_zero, zero_mul]
      rw [value, show result = _ from congrArg (f.sat field) (zero units)]
      exact f.encodes_zero field neg
    · rw [show result = _ from congrArg (f.sat field) (fin pos fits)]
      exact f.encodes_fin field neg pos (roundUnits_le f neg rm hr high) (by omega) fits
  case top =>
    obtain ⟨nonneg, small, least⟩ := f.magnitude_bounds f.largest
    have value := f.value_eq_natAbs f.largest
    have pos : 0 < (f.magnitude f.largest).s.natAbs := by
      have rises := f.value_strictMono (f.largest_pos he)
      rw [f.value_subnormal (Nat.two_pow_pos _), Nat.cast_zero, zero_mul, value] at rises
      exact Nat.pos_of_ne_zero fun h => by simp [h] at rises
    rw [show result = _ from congrArg (f.sat field) (top beyond inward), value]
    exact f.encodes_fin field neg pos (by zify; rw [abs_of_nonneg nonneg]; exact small.le) least value.ge

/-- Rounding a multiple of 2 to the power `q` changes nothing. -/
theorem roundUnits_exact (neg : Bool) (rm : RMode) (hr : rand < 2 ^ 16) {s : Nat} {E q : Int} (hq : q ≤ E) (hs : (s : ℚ) * 2 ^ E = n * 2 ^ e) :
    (roundUnits neg n e false q rm rand : ℚ) * 2 ^ q = n * 2 ^ e := by
  have multiple : (n : ℚ) * 2 ^ (e - q) = ((s * 2 ^ (E - q).toNat : Nat) : ℚ) := by
    rw [zpow_sub₀ two_ne_zero, ← mul_div_assoc, ← hs, mul_div_assoc, ← zpow_sub₀ two_ne_zero, two_zpow_eq (Int.sub_nonneg_of_le hq), sub_zero, zpow_zero, mul_one, Nat.cast_mul]
  have units := roundUnits_eq neg n e q rm hr
  dsimp only at units
  rw [multiple, Int.floor_natCast, Int.cast_natCast, sub_self, roundUp_zero rm neg _ hr, add_zero, Nat.cast_inj] at units
  rw [units, ← multiple, mul_assoc, ← zpow_add₀ two_ne_zero, sub_add_cancel]

/-- A magnitude of the format rounds to itself. -/
theorem sat_roundTo_exact (he : 1 < f.e) (rm : RMode) (neg : Bool) (field : Nat) (hr : rand < 2 ^ 16) (hn : 0 < n) {c : Nat} (hc : c ≤ f.largest) (hv : f.value c = n * 2 ^ e) :
    f.sat field (roundTo f rm rand (.mag neg n e false)) = f.signBit neg + c := by
  obtain ⟨low, high⟩ := log2_bounds hn e
  obtain ⟨rounded, -, -⟩ := sat_roundTo he rm neg field hr hn low high
  obtain ⟨s, E, parts, small, least⟩ := f.value_parts c
  have multiple : max ((Nat.log2 n : Int) + e) (1 - (f.bias : Int)) - f.m ≤ E := by
    have bound : (2 : ℚ) ^ ((Nat.log2 n : Int) + e) < 2 ^ (((f.m + 1 : Nat) : Int) + E) :=
      calc _ ≤ (s : ℚ) * 2 ^ E := low.trans_eq (hv.symm.trans parts)
        _ < _ := by
          rw [zpow_add₀ two_ne_zero, zpow_natCast]
          exact mul_lt_mul_of_pos_right (by exact_mod_cast small) (by positivity)
    have := (zpow_lt_zpow_iff_right₀ one_lt_two).mp bound
    omega
  rw [roundUnits_exact neg rm hr multiple (parts.symm.trans hv), ← hv] at rounded
  exact (rounded (f.value_strictMono.le_iff_le.mpr hc)).unique ⟨c, hc, rfl, rfl⟩

/-- The largest finite values (R90). -/
theorem value_largest {code : Nat} (h : code < 8) : (fmtOf code).value (fmtOf code).largest = maxFinite code := by
  interval_cases code <;> norm_num [Fmt.value, Fmt.magnitude, Fmt.largest, fmtOf, exactValue, maxFinite]

theorem fmtOf_exponent (code : Nat) : 1 < (fmtOf code).e := by
  unfold fmtOf
  split <;> decide

end

end

end Sys2Proof.Machine
end

section
/-! Proofs about floating-point arithmetic and selection, rounding and its bits (O15). -/

namespace Sys2Proof.Machine
open Sys2Proof Sys2Proof.Safety

/-- An instruction that rounds an exact result completes (R112). -/
theorem rounds_of {n : Instr} {o : Op} {e : Enc} {s : State} {f : RMode → FVal → FVal → FVal → XReal} (h : Active o e s) (hn : exec n s = floatOp o e s f)
    (hr : o.endsRegion e = false) : Rounds n o e s f :=
  completes_of h hn hr rfl

/-- A transcendental function completes (R114). -/
theorem transcends_of {n : Instr} {o : Op} {e : Enc} {s : State} {f : FVal → Option XReal} (h : Active o e s) (hn : exec n s = transOp o e s f)
    (hr : o.endsRegion e = false) : Transcends n o e s f :=
  completes_of h hn hr rfl

/-- The part of O15 about the instructions that round. -/
theorem floatArithmetic : Statements.FloatArithmetic := by
  intro e s
  exact ⟨fun h => rounds_of h rfl rfl, fun h => rounds_of h rfl rfl, fun h => rounds_of h rfl rfl, fun h => rounds_of h rfl rfl, fun h => rounds_of h rfl rfl,
    fun h => rounds_of h rfl rfl, fun h => rounds_of h rfl rfl, fun h => rounds_of h rfl rfl, fun h => transcends_of h rfl rfl, fun h => transcends_of h rfl rfl,
    fun h => transcends_of h rfl rfl, fun h => transcends_of h rfl rfl⟩

/-! Elements and their sign bits (R112, R115). -/

/-- The sign bit cleared. -/
theorem ofNat_mod_signBit {w : Nat} (x : BitVec (w + 1)) : BitVec.ofNat (w + 1) (x.toNat % 2 ^ w) = x &&& ~~~ BitVec.twoPow (w + 1) w := by
  apply BitVec.eq_of_getLsbD_eq
  intro k hk
  have bit : x.toNat.testBit k = x.getLsbD k := rfl
  rw [BitVec.getLsbD_ofNat, Nat.testBit_mod_two_pow, bit, BitVec.getLsbD_and, BitVec.getLsbD_not, BitVec.getLsbD_twoPow]
  by_cases top : k = w
  · simp [top]
  · simp [show k < w by omega, show ¬ w = k by omega, hk]

/-- The sign bit inverted. -/
theorem ofNat_add_signBit {w : Nat} (x : BitVec (w + 1)) : BitVec.ofNat (w + 1) ((x.toNat + 2 ^ w) % 2 ^ (w + 1)) = x ^^^ BitVec.twoPow (w + 1) w := by
  apply BitVec.eq_of_getLsbD_eq
  intro k hk
  have bit : x.toNat.testBit k = x.getLsbD k := rfl
  rw [BitVec.getLsbD_ofNat, Nat.testBit_mod_two_pow, Nat.add_comm x.toNat, BitVec.getLsbD_xor, BitVec.getLsbD_twoPow]
  by_cases top : k = w
  · subst top
    rw [Nat.testBit_two_pow_add_eq, bit]
    simp
  · rw [Nat.testBit_two_pow_add_gt (by omega), bit]
    simp [show ¬ w = k by omega, hk]

/-- Two words side by side as a number. -/
theorem toNat_append_eq {m n : Nat} (x : BitVec m) (y : BitVec n) : (x ++ y).toNat = x.toNat * 2 ^ n + y.toNat := by
  rw [BitVec.toNat_append, ← Nat.shiftLeft_add_eq_or_of_lt y.isLt, Nat.shiftLeft_eq]

/-- The two 16-bit elements of a result (R112). -/
theorem byElement_pair {sub : Nat} (hs : sub ≠ 0) (f : Nat → Nat → Nat → Nat → Nat) (x y z : Word) :
    byElement sub f x y z = (BitVec.ofNat 16 (f 1 (x.extractLsb' 16 16).toNat (y.extractLsb' 16 16).toNat (z.extractLsb' 16 16).toNat) ++
      BitVec.ofNat 16 (f 0 (x.extractLsb' 0 16).toNat (y.extractLsb' 0 16).toNat (z.extractLsb' 0 16).toNat) : BitVec (16 + 16)) := by
  have high : ∀ v : Word, bits v.toNat 31 16 = (v.extractLsb' 16 16).toNat := fun v => bits_toNat (w := 16) v 16 (by omega)
  have low : ∀ v : Word, bits v.toNat 15 0 = (v.extractLsb' 0 16).toNat := fun v => bits_toNat (w := 16) v 0 (by omega)
  apply BitVec.eq_of_toNat_eq
  rw [byElement, if_neg hs, toNat_append_eq]
  simp only [Nat.mul_zero, Nat.mul_one, Nat.zero_add, Nat.reduceAdd, high, low, BitVec.toNat_ofNat]
  omega

/-- The elements of a pair are the halves of a word. -/
theorem halves_append (x : Word) : x.extractLsb' 16 16 ++ x.extractLsb' 0 16 = x := by
  apply BitVec.eq_of_toNat_eq
  rw [toNat_append_eq, BitVec.extractLsb'_toNat, BitVec.extractLsb'_toNat, Nat.shiftRight_eq_div_pow, Nat.shiftRight_eq_div_pow]
  omega

theorem pairFmt_width : ∀ sub ≤ 2, sub ≠ 0 → (fmtOf (pairFmt sub)).width = 16 := by decide

/-- FABS of a word (R115). -/
theorem fabs_word {sub : Nat} (hs : sub ≤ 2) (x y : Word) :
    byElement sub (fun _ p _ _ => p % 2 ^ ((fmtOf (pairFmt sub)).width - 1)) x y 0 = if sub ≠ 0 then x &&& 0x7FFF7FFF else x &&& 0x7FFFFFFF := by
  by_cases h : sub = 0
  · subst h
    exact ofNat_mod_signBit (w := 31) x
  · rw [byElement_pair h, if_pos h, pairFmt_width sub hs h, ofNat_mod_signBit (w := 15), ofNat_mod_signBit (w := 15), ← BitVec.and_append, halves_append]
    rfl

/-- FNEG of a word (R115). -/
theorem fneg_word {sub : Nat} (hs : sub ≤ 2) (x y : Word) :
    byElement sub (fun _ p _ _ => (p + 2 ^ ((fmtOf (pairFmt sub)).width - 1)) % 2 ^ (fmtOf (pairFmt sub)).width) x y 0 = if sub ≠ 0 then x ^^^ 0x80008000 else x ^^^ 0x80000000 := by
  by_cases h : sub = 0
  · subst h
    exact ofNat_add_signBit (w := 31) x
  · rw [byElement_pair h, if_pos h, pairFmt_width sub hs h, ofNat_add_signBit (w := 15), ofNat_add_signBit (w := 15), ← BitVec.xor_append, halves_append]
    rfl

/-- FCMP of the words of the lanes (R116). -/
theorem exec_fcmp {e : Enc} {s : State} (h : Clear .fcmp e s) :
    exec (.fcmp e) s = next (compareInto .fcmp e s fun x l => floatCondition e.sub.toNat ((fmtOf 0).decode (x.a l).toNat) ((fmtOf 0).decode (x.b l).toNat)) :=
  congrArg next (if_neg h.strand)

/-- The part of O15 about the instructions that round nothing. -/
theorem floatSelectionResults : Statements.FloatSelectionResults := by
  intro e s A B pair cond
  refine ⟨fun h hs => ?fabs, fun h hs => ?fneg, fun h => ?fmin, fun h => ?fmax, fun h hd => ?mask, fun h hd => ?uniform, fun h => ?fclass⟩
  case fabs => exact results_of h rfl rfl rfl (congrArg (s.writeD (s.issue .fabs e)) (funext fun l => fabs_word hs (A _ l) (B _ l)))
  case fneg => exact results_of h rfl rfl rfl (congrArg (s.writeD (s.issue .fneg e)) (funext fun l => fneg_word hs (A _ l) (B _ l)))
  case fmin | fmax | fclass => exact results_of h rfl rfl rfl rfl
  case mask => exact (exec_fcmp h).trans (congrArg next (compareInto_mask h hd))
  case uniform => exact (exec_fcmp h.toClear).trans (congrArg next (compareInto_register h (by rw [hd]; decide) rfl))

/-- The part of O15 about special results (R101). -/
theorem specialResults : Statements.SpecialResults := by
  refine ⟨fun f rm rand => ⟨rfl, fun neg => ⟨rfl, rfl⟩⟩, ?table⟩
  intro code hcode field hfield
  decide +revert

/-! The stochastic generator (R99, R100). -/

/-- A field of any word as a number. -/
theorem bits_extract {n : Nat} (x : BitVec n) (lo : Nat) {w : Nat} (hw : 0 < w) : bits x.toNat (lo + w - 1) lo = (x.extractLsb' lo w).toNat := by
  rw [bits, BitVec.extractLsb'_toNat, Nat.shiftRight_eq_div_pow, show lo + w - 1 + 1 - lo = w by omega]

/-- The two words that R99 mixes. -/
theorem seed_word (mode : Dbl) (lane : BitVec 5) (elem : BitVec 3) :
    BitVec.ofNat 32 (bits mode.toNat 63 40 * 256 + lane.toNat % 32 * 8 + elem.toNat % 8) = (mode.extractLsb' 40 24 ++ lane ++ elem : BitVec (24 + 5 + 3)) := by
  have seed : bits mode.toNat 63 40 = (mode.extractLsb' 40 24).toNat := bits_extract (w := 24) mode 40 (by omega)
  apply BitVec.eq_of_toNat_eq
  rw [toNat_append_eq, toNat_append_eq, seed, BitVec.toNat_ofNat]
  omega

theorem step_word (mode : Dbl) (pc : Pc) :
    BitVec.ofNat 32 (bits mode.toNat 39 24 * 65536 + bits pc.toNat 17 2) = (mode.extractLsb' 24 16 ++ pc.extractLsb' 2 16 : BitVec (16 + 16)) := by
  have step : bits mode.toNat 39 24 = (mode.extractLsb' 24 16).toNat := bits_extract (w := 16) mode 24 (by omega)
  have address : bits pc.toNat 17 2 = (pc.extractLsb' 2 16).toNat := bits_extract (w := 16) pc 2 (by omega)
  apply BitVec.eq_of_toNat_eq
  rw [toNat_append_eq, step, address, BitVec.toNat_ofNat]
  omega

/-- The upper half of a word. -/
theorem upper_half (x : Word) : x.toNat / 65536 = (x.extractLsb' 16 16).toNat := by
  rw [BitVec.extractLsb'_toNat, Nat.shiftRight_eq_div_pow]
  omega

/-- STEP advances, and the other fields of MODE stay (R100). -/
theorem stepMode_fields (mode : Dbl) : (stepMode mode).extractLsb' 24 16 = mode.extractLsb' 24 16 + 1 ∧ (stepMode mode).extractLsb' 40 24 = mode.extractLsb' 40 24 ∧
    (stepMode mode).extractLsb' 0 24 = mode.extractLsb' 0 24 := by
  have whole : (stepMode mode).toNat = 2 ^ 24 * (2 ^ 16 * (mode.toNat / 2 ^ 24 / 2 ^ 16) + (mode.toNat / 2 ^ 24 + 1) % 2 ^ 16) + mode.toNat % 2 ^ 24 := by
    rw [stepMode, BitVec.toNat_ofNat, show (39 : Nat) = 24 + 16 - 1 from rfl, setBits_eq _ _ _ (by omega), bits]
    omega
  refine ⟨?step, ?seed, ?low⟩ <;> apply BitVec.eq_of_toNat_eq
  case step =>
    rw [BitVec.toNat_add, BitVec.extractLsb'_toNat, BitVec.extractLsb'_toNat, whole, Nat.shiftRight_eq_div_pow, Nat.shiftRight_eq_div_pow]
    show _ = (_ + 1) % _
    omega
  case seed | low =>
    rw [BitVec.extractLsb'_toNat, BitVec.extractLsb'_toNat, whole, Nat.shiftRight_eq_div_pow, Nat.shiftRight_eq_div_pow]
    omega

/-- The part of O15 about the stochastic generator (R99, R100). -/
theorem stochasticBits : Statements.StochasticBits := by
  refine ⟨fun mode pc lane elem => ?bits, stepMode_fields⟩
  intro x y mixed
  rw [randBits, seed_word, step_word]
  exact upper_half _

/-- The part of O15 about Round and Sat. -/
theorem roundAndSat : Statements.RoundAndSat := by
  intro code field rand n neg e l rm hcode _ hr hn f x low high q t v result is away
  obtain ⟨fin, top, inf⟩ := sat_roundTo (fmtOf_exponent code) rm neg field hr hn low high
  have he := Nat.zero_lt_of_lt (fmtOf_exponent code)
  have quotient : x / q = n * 2 ^ (e - (max l (1 - (f.bias : Int)) - f.m)) := by
    show (n : ℚ) * 2 ^ e / 2 ^ _ = _
    rw [zpow_sub₀ two_ne_zero e, mul_div_assoc]
  have value : v = roundUnits neg n e false (max l (1 - (f.bias : Int)) - f.m) rm rand * q := by
    show ((t : ℚ) + roundUp rm neg t (x / q - t) rand) * q = _
    have units := roundUnits_eq neg n e (max l (1 - (f.bias : Int)) - f.m) rm hr
    dsimp only at units
    rw [← quotient] at units
    have cast := congrArg (Int.cast (R := ℚ)) units
    rw [Int.cast_add, Int.cast_natCast] at cast
    rw [cast]
  rw [value_largest hcode] at fin top inf
  rw [value]
  exact ⟨fun fits => (fin fits).decode he, fun beyond inward => (top beyond inward).decode he, inf⟩

/-- Settles O15: the arithmetic rounded once, the selections, and what Round, Sat and the generator give. -/
theorem floatResults : Obligations.FloatResults := ⟨floatArithmetic, floatSelectionResults, roundAndSat, specialResults, stochasticBits⟩

end Sys2Proof.Machine
end

section
/-! Proofs about CVT, CVTI, PACK and UNPK, and what conversions do to values (O16). -/

namespace Sys2Proof.Machine
open Sys2Proof Sys2Proof.Safety

/-- The part of O16 about the instructions. -/
theorem conversionResults : Statements.ConversionResults := by
  intro e s A B code w own
  refine ⟨fun h => ?cvt, fun h => ?cvti, fun h => ⟨fun fits => ?pack, fun past => ?packOut⟩, fun h => ⟨fun fits => ?unpk, fun past => ?unpkOut⟩⟩
  case cvt => exact completes_of (n := .cvt e) h rfl rfl rfl
  case cvti => exact completes_of (n := .cvti e) h rfl rfl rfl
  case pack => exact completes_of (n := .pack e) h rfl rfl (if_neg (Nat.not_lt.mpr fits))
  case packOut => exact traps_of h rfl (if_pos past)
  case unpk => exact results_of h rfl rfl (if_neg (Nat.not_lt.mpr fits)) rfl
  case unpkOut => exact traps_of h rfl (if_pos past)

/-! Integers (R88, R103). -/

/-- The odd codes are the unsigned formats (R88, R110). -/
theorem intFmt_eq {code : Nat} (low : 8 ≤ code) (high : code < 16) : intFmt code = (code % 2 != 1, codeWidth code) := by
  interval_cases code <;> rfl

/-- An integer limited to the limits of its format (R103). -/
theorem clampInt_eq {code : Nat} (low : 8 ≤ code) (high : code < 16) (x : Int) : clampInt code x = max (intLow code) (min (intHigh code) x) := by
  have half : 0 < 2 ^ (codeWidth code - 1) := Nat.two_pow_pos _
  have whole : 0 < 2 ^ codeWidth code := Nat.two_pow_pos _
  rw [clampInt, intFmt_eq low high, intLow, intHigh]
  by_cases odd : code % 2 = 1
  · simp only [odd, bne_self_eq_false, Bool.false_eq_true, if_false, if_true]
    omega
  · simp only [odd, bne_iff_ne, ne_eq, not_false_eq_true, if_true, if_false]
    omega

/-- An integer element as a number of its format (R88). -/
theorem fromInt_eq {code : Nat} (low : 8 ≤ code) (high : code < 16) (x : Nat) :
    fromInt code x = if code % 2 = 1 then ((x % 2 ^ codeWidth code : Nat) : Int) else sx x (codeWidth code) := by
  rw [fromInt, intFmt_eq low high]
  by_cases odd : code % 2 = 1
  · simp [odd]
  · simp [odd]

/-- Conversions between integer formats limit the value (R118). -/
theorem convert_integers {dst src : Nat} (hd : 8 ≤ dst) (low : 8 ≤ src) (high : src < 16) (mode : Dbl) (pc : Pc) (rm : RMode) (lane elem x : Nat) :
    convert mode pc rm lane elem dst src x = w32 (clampInt dst (fromInt src x)) := by
  have element : fromInt src (x % 2 ^ codeWidth src) = fromInt src x := by rw [fromInt_eq low high, fromInt_eq low high, Nat.mod_mod, sx, sx, Nat.mod_mod]
  rw [convert, if_neg (by omega), if_neg (by omega), if_neg (by omega), element]

/-- The word of a limited integer is read back as the integer. -/
theorem w32_limited {code : Nat} (low : 8 ≤ code) (high : code < 16) (z : Int) : let v := max (intLow code) (min (intHigh code) z)
    if code % 2 = 1 then ((w32 v).toNat : Int) = v else (w32 v).toInt = v := by
  have range : (code % 2 = 1 → intLow code = 0 ∧ 0 ≤ intHigh code ∧ intHigh code < 2 ^ 32) ∧ (code % 2 ≠ 1 → -2 ^ 31 ≤ intLow code ∧ intLow code ≤ 0 ∧ 0 ≤ intHigh code ∧ intHigh code < 2 ^ 31) := by
    interval_cases code <;> decide
  obtain ⟨unsigned, signed⟩ := range
  intro v
  by_cases odd : code % 2 = 1
  · obtain ⟨least, nonneg, most⟩ := unsigned odd
    rw [if_pos odd, w32, BitVec.toNat_ofInt]
    omega
  · obtain ⟨least, nonpos, nonneg, most⟩ := signed odd
    rw [if_neg odd, w32]
    exact BitVec.toInt_ofInt_eq_self (by omega) (by omega) (by omega)

/-- Rounding to an integer and limiting it (R103). -/
theorem toInt_mag {code : Nat} (low : 8 ≤ code) (high : code < 16) (rm : RMode) (neg : Bool) (n : Nat) (e : Int) {rand : Nat} (hr : rand < 2 ^ 16) :
    let x : ℚ := n * 2 ^ e; let t := ⌊x⌋; let v := t + roundUp rm neg t (x - t) rand
    toInt code rm rand (.mag neg n e false) = max (intLow code) (min (intHigh code) (if neg then -v else v)) := by
  intro x t v
  have units := roundUnits_eq neg n e 0 rm hr
  rw [sub_zero] at units
  rw [toInt, clampInt_eq low high, units]

/-- An infinity becomes the nearest limit (R103). -/
theorem toInt_inf {code : Nat} (low : 8 ≤ code) (high : code < 16) (rm : RMode) (rand : Nat) (neg : Bool) :
    toInt code rm rand (.inf neg) = if neg then intLow code else intHigh code := by
  interval_cases code <;> cases neg <;> rfl

/-! Elements of PACK and UNPK (R120, R121). -/

/-- Sign extension keeps the low bits and stays in their signed range. -/
theorem sx_bounds (x : Nat) {n : Nat} (hn : 0 < n) :
    -(2 ^ (n - 1) : Nat) ≤ sx x n ∧ sx x n ≤ (2 ^ (n - 1) : Nat) - 1 ∧ (sx x n % (2 ^ n : Nat)).toNat = x % 2 ^ n := by
  have double : 2 ^ n = 2 * 2 ^ (n - 1) := by rw [← Nat.pow_succ', Nat.succ_eq_add_one, Nat.sub_add_cancel hn]
  have inside := Nat.mod_lt x (Nat.two_pow_pos n)
  have residue : ((x % 2 ^ n : Nat) : Int) % (2 ^ n : Nat) = (x % 2 ^ n : Nat) := by rw [← Int.natCast_mod, Nat.mod_mod]
  rw [sx]
  split
  · rw [residue]
    omega
  · rw [Int.sub_emod_right, residue]
    omega

/-- An integer element lies between the limits of its format and has the residue of its bits. -/
theorem fromInt_bounds {code : Nat} (low : 8 ≤ code) (high : code < 16) (x : Nat) :
    intLow code ≤ fromInt code x ∧ fromInt code x ≤ intHigh code ∧ (fromInt code x % (2 ^ codeWidth code : Nat)).toNat = x % 2 ^ codeWidth code := by
  have pos : 0 < codeWidth code := by interval_cases code <;> decide
  have inside := Nat.mod_lt x (Nat.two_pow_pos (codeWidth code))
  rw [fromInt_eq low high, intLow, intHigh]
  by_cases odd : code % 2 = 1
  · simp only [if_pos odd]
    rw [← Int.natCast_mod, Nat.mod_mod, Int.toNat_natCast]
    omega
  · simp only [if_neg odd]
    exact sx_bounds x pos

/-- An integer element survives UNPK and PACK. -/
theorem packElem_unpackElem_integer {code v : Nat} (low : 10 ≤ code) (high : code < 16) (hv : v < 2 ^ codeWidth code) (mode : Dbl) (pc : Pc) (rm : RMode) (lane elem : Nat) :
    packElem mode pc rm lane elem code (unpackElem code v) % 2 ^ codeWidth code = v := by
  obtain ⟨least, most, residue⟩ := fromInt_bounds (by omega) high v
  have limits : intLow 8 ≤ intLow code ∧ intHigh code ≤ intHigh 8 ∧ (2 ^ codeWidth code : Nat) ∣ 2 ^ 32 := by interval_cases code <;> decide
  obtain ⟨lower, upper, divides⟩ := limits
  have word : (w32 (fromInt code v)).toInt = fromInt code v := by
    have limited : max (intLow 8) (min (intHigh 8) (fromInt code v)) = fromInt code v := by omega
    have read := w32_limited (code := 8) (by omega) (by omega) (fromInt code v)
    rwa [limited] at read
  have widened : fromInt 8 (w32 (fromInt code v)).toNat = fromInt code v := (sx_toNat (w32 (fromInt code v)) (by omega)).trans word
  have kept : clampInt code (fromInt code v) = fromInt code v := by rw [clampInt_eq (by omega) high]; omega
  have back : (((w32 (fromInt code v)).toNat % 2 ^ codeWidth code : Nat) : Int) = v := by
    rw [w32, BitVec.toNat_ofInt, Int.natCast_mod, Int.toNat_of_nonneg (Int.emod_nonneg _ (by norm_num)), Int.emod_emod_of_dvd _ (by exact_mod_cast divides)]
    have nonneg := Int.emod_nonneg (fromInt code v) (show ((2 ^ codeWidth code : Nat) : Int) ≠ 0 by positivity)
    rw [Nat.mod_eq_of_lt hv] at residue
    omega
  rw [packElem, unpackElem, if_neg (by omega), if_neg (by omega), convert_integers (by omega) (by omega) (by omega), widened, kept]
  exact_mod_cast back

section
variable {f g : Fmt} {c c' : Nat}

/-- A finite value as a value to round. -/
theorem toX_magnitude (neg : Bool) (hc : 0 < (g.magnitude c).s) : (FVal.num neg ((g.magnitude c).signed neg)).toX = .mag neg (g.magnitude c).s.natAbs (g.magnitude c).e false := by
  cases neg with
  | false =>
    show Dy.toX (g.magnitude c) false = _
    rw [Dy.toX, if_neg hc.ne', decide_eq_false (by omega)]
  | true =>
    show Dy.toX (g.magnitude c).neg true = _
    rw [Dy.toX, Dy.neg]
    dsimp only
    rw [if_neg (by omega), decide_eq_true (by omega), Int.natAbs_neg]

/-- A value of one format that another has too is converted to its encoding there. -/
theorem sat_roundTo_toX (he : 1 < f.e) (rm : RMode) (neg : Bool) (field : Nat) {rand : Nat} (hr : rand < 2 ^ 16) (hc' : c' ≤ f.largest) (same : f.value c' = g.value c) :
    f.sat field (roundTo f rm rand (FVal.num neg ((g.magnitude c).signed neg)).toX) = f.signBit neg + c' := by
  obtain ⟨nonneg, -, -⟩ := g.magnitude_bounds c
  have value := g.value_eq_natAbs c
  rcases nonneg.eq_or_lt with zero | pos
  · have none : f.value c' = 0 := by rw [same, value, ← zero, Int.natAbs_zero, Nat.cast_zero, zero_mul]
    have toX : (FVal.num neg ((g.magnitude c).signed neg)).toX = .zero neg := by
      cases neg <;> simp [FVal.toX, Dy.toX, Dy.signed, Dy.neg, ← zero]
    rw [toX]
    exact (f.encodes_zero field neg).unique ⟨c', hc', rfl, none⟩
  · rw [toX_magnitude neg pos]
    exact sat_roundTo_exact he rm neg field hr (by omega) hc' (same.trans value)

theorem Fmt.encoding_lt (neg : Bool) (hc : c ≤ f.largest) : f.signBit neg + c < 2 ^ f.width := by
  have bound := hc.trans_lt f.largest_lt
  have double : 2 ^ f.width = 2 ^ (f.e + f.m) + 2 ^ (f.e + f.m) := by rw [Fmt.width, Nat.add_assoc, Nat.add_comm, Nat.pow_succ, Nat.mul_two]
  rw [double]
  unfold Fmt.signBit
  split <;> omega

end

/-- FP32 has the values of every floating format (R90). -/
theorem exists_value_fp32 {code c : Nat} (h : code < 8) (hc : c ≤ (fmtOf code).largest) : ∃ c' ≤ (fmtOf 0).largest, (fmtOf 0).value c' = (fmtOf code).value c := by
  have shape : (fmtOf code).m ≤ (fmtOf 0).m ∧ (fmtOf code).bias + (fmtOf code).m ≤ (fmtOf 0).bias + (fmtOf 0).m := by interval_cases code <;> decide
  have range : maxFinite code ≤ maxFinite 0 := by interval_cases code <;> norm_num [maxFinite]
  obtain ⟨s, E, parts, small, least⟩ := (fmtOf code).value_parts c
  have below := (fmtOf code).value_strictMono.le_iff_le.mpr hc
  rw [value_largest h] at below
  rcases Nat.eq_zero_or_pos s with rfl | pos
  · exact ⟨0, Nat.zero_le _, by rw [parts, (fmtOf 0).value_subnormal (Nat.two_pow_pos _)]; simp⟩
  · have value := (fmtOf 0).value_encode (q := E) pos (small.le.trans (Nat.pow_le_pow_right Nat.two_pos (by omega))) (by omega)
    refine ⟨_, ?_, value.trans parts.symm⟩
    rw [← (fmtOf 0).value_strictMono.le_iff_le, value, ← parts, value_largest (by omega)]
    exact below.trans range

theorem randBits_lt (mode : Dbl) (pc : Pc) (lane elem : Nat) : randBits mode pc lane elem < 2 ^ 16 :=
  Nat.div_lt_of_lt_mul (BitVec.isLt _)

theorem width_le (code : Nat) : (fmtOf code).width ≤ 32 := by
  unfold fmtOf
  split <;> decide

/-- A conversion between floating formats of a value that both have. -/
theorem convert_same_value {dst src c c' : Nat} (hd : dst < 8) (hs : src < 8) (differ : dst ≠ src) (hc : c ≤ (fmtOf src).largest) (hc' : c' ≤ (fmtOf dst).largest)
    (same : (fmtOf dst).value c' = (fmtOf src).value c) (neg : Bool) (mode : Dbl) (pc : Pc) (rm : RMode) (lane elem : Nat) :
    (convert mode pc rm lane elem dst src ((fmtOf src).signBit neg + c)).toNat = (fmtOf dst).signBit neg + c' := by
  have source := Fmt.encoding_lt neg hc
  have result := Fmt.encoding_lt neg hc'
  have word := Nat.pow_le_pow_right Nat.two_pos (width_le dst)
  rw [convert, if_neg (by omega), if_pos hs, if_pos hd, codeWidth, if_pos hs, Nat.mod_eq_of_lt source, Fmt.decode_finite (Nat.zero_lt_of_lt (fmtOf_exponent src)) neg hc, roundIn,
    sat_roundTo_toX (fmtOf_exponent dst) rm neg _ (randBits_lt ..) hc' same, BitVec.toNat_ofNat, Nat.mod_eq_of_lt (result.trans_le word)]

/-- A floating element survives UNPK and PACK. -/
theorem packElem_unpackElem_float {code v : Nat} (low : 1 ≤ code) (high : code < 8) (hv : v < 2 ^ codeWidth code) {neg : Bool} {d : Dy} (hd : (fmtOf code).decode v = .num neg d)
    (mode : Dbl) (pc : Pc) (rm : RMode) (lane elem : Nat) : packElem mode pc rm lane elem code (unpackElem code v) % 2 ^ codeWidth code = v := by
  have width : codeWidth code = (fmtOf code).width := if_pos high
  rw [width] at hv ⊢
  have he := fmtOf_exponent code
  obtain ⟨c, hc, rfl, rfl⟩ := Fmt.finite_of_decode (Nat.zero_lt_of_lt he) hv hd
  obtain ⟨c', hc', same⟩ := exists_value_fp32 high hc
  have unpacked : (unpackElem code ((fmtOf code).signBit neg + c)).toNat = (fmtOf 0).signBit neg + c' := by
    rw [unpackElem, if_pos high, hd, sat_roundTo_toX (fmtOf_exponent 0) .rne neg 0 (by omega) hc' same, BitVec.toNat_ofNat]
    exact Nat.mod_eq_of_lt (Fmt.encoding_lt neg hc')
  rw [packElem, if_pos high, unpacked, convert_same_value high (by omega) (by omega) hc' hc same.symm, Nat.mod_eq_of_lt hv]

/-- The part of O16 about values. -/
theorem conversionLaws : Statements.ConversionLaws := by
  intro mode pc rm lane elem
  refine ⟨fun code x hc hx number => ?same, fun code rand n neg e low high hr hn => ⟨toInt_mag low high rm neg n e hr, rfl, toInt_inf low high rm rand neg⟩,
    fun dst src x hd hd' hs hs' => ?integers, fun code v hc hv number => ?packed⟩
  case same =>
    have width : codeWidth code = (fmtOf code).width := if_pos hc
    have word := Nat.pow_le_pow_right Nat.two_pos (width_le code)
    rw [convert, if_pos ⟨hc, rfl⟩, width, Nat.mod_eq_of_lt hx]
    cases value : (fmtOf code).decode x with
    | nan => exact absurd value number
    | inf | num => exact Nat.mod_eq_of_lt (hx.trans_le word)
  case integers =>
    intro value r v
    rw [show r = w32 v by rw [show r = _ from convert_integers hd hs hs' mode pc rm lane elem x, clampInt_eq hd hd', fromInt_eq hs hs']]
    exact w32_limited hd hd' _
  case packed =>
    rcases hc with ⟨low, high⟩ | ⟨low, high⟩
    · obtain ⟨neg, d, hd⟩ := number high
      exact packElem_unpackElem_float low high hv hd mode pc rm lane elem
    · exact packElem_unpackElem_integer low high hv mode pc rm lane elem

/-- Settles O16: the conversions complete with their elements, and what they do to values. -/
theorem conversions : Obligations.Conversions := ⟨conversionResults, conversionLaws⟩

end Sys2Proof.Machine
end

section
/-! Proofs about MODE and the function tables (O17). -/

namespace Sys2Proof.Machine
open Sys2Proof Sys2Proof.Safety

/-- An instruction that raises a fault in its own course enters the handler. -/
theorem traps_of_raise {n : Instr} {o : Op} {e : Enc} {s : State} {t : Trap} (h : Issues o e s) (hn : exec n s = .next (s.raise (s.issue o e) t)) : Traps n o e s t := by
  intro hm
  rw [hn, raise_enters (show (s.strand (s.issue o e).w).ahead = none from h.normal) (show MayTrap s (s.issue o e).w from hm)]
  rfl

section
variable {e : Enc} {s : State}

/-- FTBL evaluates the bound bank, or raises ILLEGAL_OPERAND where it holds no table (R126). -/
theorem ftbl_course (h : Active .ftbl e s) : let i := s.issue .ftbl e; let b := s.boundBank s.cur.core s.cur.slot
    (b.loaded = true → exec (.ftbl e) s = .next (((s.writeD i fun l => b.evalWord i.st.sp.mode i.pc l 0 (i.opnd s .a l)).stepped i (modeRm i.st.sp.mode)).advance i)) ∧
    (b.loaded = false → Traps (.ftbl e) .ftbl e s (Trap.of .illegalOperand (s.comb s.cur.core s.cur.slot).bank)) :=
  ⟨fun loaded => completes_of (n := .ftbl e) h rfl rfl (if_pos loaded), fun empty => traps_of h rfl (if_neg (Bool.eq_false_iff.mp empty))⟩

section
variable (h : Active .tload e s)
include h

theorem tload_inRegion (inside : (s.issue .tload e).st.region.isSome = true) : Traps (.tload e) .tload e s (Trap.of .illegalOperand 0xFFFFFFFF) :=
  traps_of_raise h.toIssues (congrArg next ((strandOnly_clear h.toClear).trans ((if_neg h.active).trans (if_pos inside))))

/-- The turn of a TLOAD outside every region (R128, R130): refused for the current bank, standing in the queue, or run. -/
theorem tload_turn (closed : (s.issue .tload e).st.region = none) : let i := s.issue .tload e; let queue := s.bankQueue s.cur.core; let n := e.b.toNat
    exec (.tload e) s = .next (
      if queue.isEmpty && (s.core s.cur.core).curBank == n then s.raise i (Trap.of .illegalOperand n)
      else if !queue.isEmpty || s.bankBound s.cur.core n then s.bankStand i (.tload n (i.uA s).toNat)
      else Sum.elim (s.raise i) (fun t => t.advance i) (s.tloadRun s.cur n (i.uA s).toNat)) := by
  have region : ¬ (s.issue .tload e).st.region.isSome = true := by simp [closed]
  refine congrArg next ((strandOnly_clear h.toClear).trans ((if_neg h.active).trans ((if_neg region).trans ?_)))
  refine congrArg (ite _ _) (congrArg (ite _ _) ?_)
  show _ = Sum.elim _ _ (s.tloadRun (s.issue .tload e).w e.b.toNat _)
  cases s.tloadRun (s.issue .tload e).w e.b.toNat ((s.issue .tload e).uA s).toNat with
  | inl t => rfl
  | inr t => rfl

end

/-- TFLIP selects the bank, or stands in the queue while another operation waits (R129, R130). -/
theorem tflip_course (h : Active .tflip e s) : let i := s.issue .tflip e
    (s.bankQueue s.cur.core = [] → exec (.tflip e) s = .next ((s.onCore s.cur.core fun k => { k with curBank := e.b.toNat }).advance i)) ∧
    (s.bankQueue s.cur.core ≠ [] → exec (.tflip e) s = .next (s.bankStand i (.tflip e.b.toNat))) := by
  refine ⟨fun first => ?first, fun queue => ?queue⟩
  case first =>
    have turn : ¬ ((s.issue .tflip e).act ≠ 0 ∧ ¬ (s.bankQueue s.cur.core).isEmpty = true) := by simp [first]
    exact congrArg next ((strandOnly_clear h.toClear).trans ((if_neg turn).trans (effect_done h.active rfl rfl)))
  case queue =>
    have waits : (s.issue .tflip e).act ≠ 0 ∧ ¬ (s.bankQueue s.cur.core).isEmpty = true := ⟨h.active, by simp [queue]⟩
    exact congrArg next ((strandOnly_clear h.toClear).trans (if_pos waits))

end

/-- Settles O17: MODEGET and MODESET, FTBL, and TLOAD and TFLIP in their turn. -/
theorem modeAndTables : Obligations.ModeAndTables := by
  intro e s
  refine ⟨fun h => ?modeget, fun h => ⟨fun fits => ?modeset, fun t refused => ?modesetRefused⟩, ftbl_course, fun h => ?tload, tflip_course⟩
  case modeget => exact sets_of h rfl rfl rfl rfl
  case modeset => exact changes_of h rfl rfl fits rfl
  case modesetRefused => exact traps_of h rfl refused
  case tload =>
    refine ⟨tload_inRegion h, fun closed first current => ?current, fun closed waits => ?stands, fun closed first other free => ?runs⟩
    case current => exact traps_of_raise h.toIssues ((tload_turn h closed).trans (by simp [first, current]))
    case stands =>
      rw [tload_turn h closed]
      rcases waits with queue | ⟨other, bound⟩
      · simp [queue]
      · simp [other, bound]
    case runs =>
      have turn := tload_turn h closed
      simp only [first, free, List.isEmpty_nil, beq_eq_false_iff_ne.mpr other, Bool.and_false, Bool.not_true, Bool.or_self, Bool.false_eq_true, if_false] at turn
      exact ⟨fun t loads => turn.trans (by rw [loads]; rfl), fun t fault => traps_of_raise h.toIssues (turn.trans (by rw [fault]; rfl))⟩

end Sys2Proof.Machine
end

section
/-! Proofs about what atomics compute (O36). -/

namespace Sys2Proof.Machine
open Sys2Proof Sys2Proof.Safety

/-- An integer that fits `n + 1` bits is read back from its residue (R106). -/
theorem sx_emod {a : Int} (n : Nat) (low : -(2 ^ n : Int) ≤ a) (high : a ≤ 2 ^ n - 1) : sx (a % 2 ^ (n + 1)).toNat (n + 1) = a := by
  have residue : (a % 2 ^ (n + 1)).toNat = (BitVec.ofInt (n + 1) a).toNat := by rw [BitVec.toNat_ofInt, Nat.cast_pow, Nat.cast_ofNat]
  rw [residue, sx_toNat _ n.succ_pos, BitVec.toInt_ofInt_eq_self n.succ_pos low (Int.le_sub_one_iff.mp high)]

theorem toNat_emod_two_pow_lt (a : Int) (n : Nat) : (a % 2 ^ n).toNat < 2 ^ n := by
  have below := Int.emod_lt_of_pos a (show (0 : Int) < 2 ^ n by positivity)
  exact (Int.toNat_lt' (Nat.two_pow_pos n)).mpr (by exact_mod_cast below)

/-- Every result of an integer atomic fits its width (R237, R238). -/
theorem applyInt_lt (op : AtomOp) {n o x new : Nat} (ho : o < 2 ^ (8 * n)) (hx : x < 2 ^ (8 * n)) (hnew : new < 2 ^ (8 * n)) : applyInt op n o x new < 2 ^ (8 * n) := by
  have pos : 0 < 2 ^ (8 * n) := Nat.two_pow_pos _
  cases op with
  | add => exact Nat.mod_lt _ pos
  | and => exact Nat.and_lt_two_pow _ hx
  | or => exact Nat.or_lt_two_pow ho hx
  | xor => exact Nat.xor_lt_two_pow ho hx
  | xchg => exact hx
  | minu => exact (Nat.min_le_left o x).trans_lt ho
  | maxu => exact Nat.max_lt.mpr ⟨ho, hx⟩
  | min | max | cas => unfold applyInt; dsimp only; split <;> assumption
  | incw => unfold applyInt; dsimp only; split; exacts [pos, Nat.mod_lt _ pos]
  | decw => unfold applyInt; dsimp only; split; exacts [hx, by omega]

/-- INCW never leaves the range: it adds one only below its limit (R237). -/
theorem applyInt_incw {n o x new : Nat} (hx : x < 2 ^ (8 * n)) : applyInt .incw n o x new = if o ≥ x then 0 else o + 1 := by
  unfold applyInt
  dsimp only
  split
  · rfl
  · exact Nat.mod_eq_of_lt (by omega)

theorem sx_applyInt_min (n o x new : Nat) : sx (applyInt .min n o x new) (8 * n) = min (sx o (8 * n)) (sx x (8 * n)) := by
  unfold applyInt
  simp only [decide_eq_true_eq, apply_ite (sx · (8 * n))]
  omega

theorem sx_applyInt_max (n o x new : Nat) : sx (applyInt .max n o x new) (8 * n) = max (sx o (8 * n)) (sx x (8 * n)) := by
  unfold applyInt
  simp only [decide_eq_true_eq, apply_ite (sx · (8 * n))]
  omega

/-- The line after a finite word whose sum stays in range: the flags stand, and ACC holds the residue of the sum (R107). -/
theorem sumAdd_finite {line : Nat} {x : Word} {neg : Bool} {d : Dy} {a : Int} (hx : (fmtOf 0).decode x.toNat = .num neg d)
    (ha : sumAcc line + d.s * 2 ^ (d.e + 149).toNat = a) (high : a ≤ 2 ^ 507 - 1) (low : -(2 ^ 507 : Int) ≤ a) :
    sumAdd line x = (a % 2 ^ 508).toNat + 2 ^ 508 * (line / 2 ^ 508) := by
  simp only [sumAdd, hx, ha, decide_eq_false (not_lt.mpr low), decide_eq_false (not_lt.mpr high), Bool.or_self, Bool.false_eq_true, if_false]
  rw [Nat.add_comm, Nat.mul_comm]

/-- Settles O36: integer atomics by their operation, two lanes one after the other, and the exact sum. -/
theorem atomicValues : Obligations.AtomicValues := by
  refine ⟨?operations, ?lanes, ?sum⟩
  case operations =>
    intro wide o x new n m ho hx hnew
    exact ⟨rfl, rfl, rfl, rfl, rfl, rfl, rfl, rfl, sx_applyInt_min .., sx_applyInt_max .., applyInt_incw hx, rfl, fun op => applyInt_lt op ho hx hnew⟩
  case lanes => exact fun op wide pc v p q => rfl
  case sum =>
    intro line x neg d hline hx a high low
    obtain ⟨flags, acc⟩ := (Nat.div_mod_unique (Nat.two_pow_pos 508)).mpr ⟨(sumAdd_finite hx rfl high low).symm, toNat_emod_two_pow_lt a 508⟩
    exact ⟨by rw [sumAcc, acc, sx_emod 507 low high], flags⟩

end Sys2Proof.Machine
end

section
/-! The state after reset (O6). -/

namespace Sys2Proof.Machine
open Sys2Proof Sys2Proof.Safety

/-- Every core is in its reset state: none is listed. -/
@[simp] theorem State.core_reset (c : Nat) : State.reset.core c = {} := rfl

/-- No table of the module lists an entry at reset, so memory and its tables are in their canonical form. -/
theorem wellKept_reset : WellKept State.reset := ⟨State.reset_wf, rfl, rfl⟩

/-- Settles O6: every table is empty at reset and reads as its default, and the registers of the management space pack the fields' defaults. -/
theorem resetState : Obligations.ResetState := by
  refine ⟨fun c n => ?combs, fun c => ?core, fun n => ?notify, fun q => ?queues, fun q => ?drones, fun v => ?routes, fun n => ?windows, ?accord⟩
  case combs => rw [State.comb?, State.core_reset, Tab.get]
  case core =>
    rw [State.core_reset]
    exact ⟨rfl, fun b => rfl, rfl, fun k => rfl, fun z => rfl, fun e => rfl⟩
  case notify => exact ⟨rfl, rfl⟩
  case queues | drones | routes | windows => rfl
  case accord => exact ⟨rfl, rfl, by decide, by decide, by decide, rfl, rfl, rfl, rfl, wellKept_reset⟩

end Sys2Proof.Machine
end

section
/-! Proofs about what comes before a strand's next issue (O35). -/

namespace Sys2Proof.Machine
open Sys2Proof Sys2Proof.Safety

/-! Trap entry from a wait (R414, R415). -/

section
variable (st : Strand) (cause : Nat) (tval : Dbl) (tpc : Pc) (group : Mask) (seq : Bool)

@[simp] theorem Strand.enterTrap_wait : (st.enterTrap cause tval tpc group seq).sched.wait = none := by simp only [Strand.enterTrap]
@[simp] theorem Strand.enterTrap_async : (st.enterTrap cause tval tpc group seq).sched.async = st.sched.async := by simp only [Strand.enterTrap, Strand.move, Strand.loseResv]

end

/-- A change of a core that keeps its combs keeps every strand. -/
theorem State.strand_onCore (s : State) {c : Nat} {f : Core → Core} (h : (f (s.core c)).combs = (s.core c).combs) (w : Sid) : (s.onCore c f).strand w = s.strand w := by
  have combs : ((s.onCore c f).core w.core).combs = (s.core w.core).combs := by
    by_cases same : c = w.core
    · rw [← same, State.core_onCore, h]
    · rw [State.core_onCore_ne s f same]
  rw [State.strand, State.comb, State.comb?, combs]
  rfl

section
variable {s : State} {w : Sid}

/-! The events that only wait for their condition (R128, R159, R201). -/

theorem fairnessBurst_begins (stands : s.stands w = true) (due : (s.strand w).burstDue s.clock.cycle = true) :
    exec (.fairnessBurst w) s = .next (s.onStrand w fun st => { st with sched := { st.sched with burst := some { held := st.group, pc := st.issuePc, left := 256 } } }) :=
  congrArg next (if_pos (Bool.and_eq_true_iff.mpr ⟨stands, due⟩))

theorem burstEnd_ends (stands : s.stands w = true) (passed : (s.strand w).burstOver = true) :
    exec (.burstEnd w) s = .next (s.onStrand w fun st => { st with sched := { st.sched with burst := none, fc := 0 } }) :=
  congrArg next (if_pos (Bool.and_eq_true_iff.mpr ⟨stands, passed⟩))

/-- Run-ahead that has ended rolls back and sends the pages that it found. -/
theorem runAheadEnd_rolls {a : RunAhead} (ahead : (s.strand w).ahead = some a) (ended : a.ended = true) :
    exec (.runAheadEnd w) s = .next ((s.onStrand w Strand.rollback).sendBatch w a.batch) := by
  have stops : (s.strand w).aheadOver = true := by simp [Strand.aheadOver, ahead, ended]
  refine congrArg next ((if_pos stops).trans ?_)
  rw [State.endAhead, ahead]

/-- The first TLOAD of a core's queue loads a bank that is not the current one and moves on (R128). -/
theorem tloadProceed_loads {n off : Nat} {t : State} (head : s.bankHead w.core = some w) (waits : (s.strand w).sched.wait = some (.tload n off))
    (other : (s.core w.core).curBank ≠ n) (loads : s.tloadRun w n off = .inr t) :
    exec (.tloadProceed w.core) s = .next (t.onStrand w fun st => st.passWait t.clock.cycle) := by
  show execTloadProceed w.core s = _
  simp only [execTloadProceed, head, waits, if_neg other, loads]
  rfl

/-- A TFLIP there selects its bank (R129). -/
theorem tloadProceed_flips {n : Nat} (head : s.bankHead w.core = some w) (waits : (s.strand w).sched.wait = some (.tflip n)) :
    exec (.tloadProceed w.core) s = .next ((s.onCore w.core fun k => { k with curBank := n }).onStrand w fun st => st.passWait s.clock.cycle) := by
  show execTloadProceed w.core s = _
  simp only [execTloadProceed, head, waits]
  rfl

/-! Delivery of an asynchronous fault (R415). -/

/-- The strand with the delivered fault off its list, and its wait abandoned. -/
def Strand.abandonWait (st : Strand) (f : AsyncFault) : Strand := { st with sched := { st.sched with async := st.sched.async.erase f, wait := none } }

/-- The state in which delivery takes the trap: the strand's wait is abandoned, in the queue of its core's sequencer too. -/
def State.abandonWait (s : State) (w : Sid) (f : AsyncFault) : State :=
  (s.onStrand w fun st => st.abandonWait f).onCore w.core fun k =>
    { k with matrix := { k.matrix with waiters := k.matrix.waiters.filter fun x => !(x.slot == w.slot && x.strand == w.strand) } }

theorem State.live_of_mayDeliver (may : s.mayDeliver w = true) : (s.strand w).live ≠ 0 := fun none => by simp [State.mayDeliver, none] at may

theorem State.strand_abandonWait (f : AsyncFault) (live : (s.strand w).live ≠ 0) : (s.abandonWait w f).strand w = (s.strand w).abandonWait f :=
  (State.strand_onCore _ rfl w).trans (State.strand_onStrand _ (State.resident_of_live live))

/-- Trap entry of a strand whose handler is not active (R414). -/
theorem State.takeTrap_enters (cause : Nat) (tval : Dbl) (tpc : Pc) (group : Mask) (seq : Bool) (idle : (s.strand w).act = false) :
    s.takeTrap w cause tval tpc group seq = s.onStrand w fun st => st.enterTrap cause tval tpc group seq := by
  rw [State.takeTrap, idle]
  exact if_neg Bool.false_ne_true

/-- Delivery makes the strand enter its handler at the issue PC and group that it had before. -/
theorem asyncFaultDelivery_enters {f : AsyncFault} (may : s.mayDeliver w = true) (first : (s.strand w).nextAsync = some f) (idle : (s.strand w).act = false) :
    exec (.asyncFaultDelivery w) s =
      .next ((s.abandonWait w f).onStrand w fun st => st.enterTrap f.cause f.tval (s.strand w).issuePc (s.strand w).group f.seq) := by
  have strand := State.strand_abandonWait f (State.live_of_mayDeliver may)
  have entry : ((s.abandonWait w f).strand w).act = false := by rw [strand]; exact idle
  have taken : exec (.asyncFaultDelivery w) s =
      .next ((s.abandonWait w f).takeTrap w f.cause f.tval ((s.abandonWait w f).strand w).issuePc ((s.abandonWait w f).strand w).group f.seq) := by
    show execAsyncFaultDelivery w s = _
    simp only [execAsyncFaultDelivery, may, first]
    rfl
  rw [taken, State.takeTrap_enters _ _ _ _ _ entry, strand]
  rfl

/-- The strand after delivery. -/
theorem strand_delivered {f : AsyncFault} (may : s.mayDeliver w = true) (first : (s.strand w).nextAsync = some f) (idle : (s.strand w).act = false) :
    Becomes (.asyncFaultDelivery w) s fun t =>
      t.strand w = ((s.strand w).abandonWait f).enterTrap f.cause f.tval (s.strand w).issuePc (s.strand w).group f.seq := by
  have live := State.live_of_mayDeliver may
  have strand := State.strand_abandonWait f live
  have resident : ((s.abandonWait w f).comb? w.core w.slot).isSome = true := State.resident_of_live (by rw [strand]; exact live)
  exact ⟨_, asyncFaultDelivery_enters may first idle, (State.strand_onStrand _ resident).trans (by rw [strand])⟩

end

/-- Settles O35: each event by its condition, and delivery by trap entry from the strand's abandoned wait. -/
theorem strandSteps : Obligations.StrandSteps := by
  intro s w
  refine ⟨fairnessBurst_begins, burstEnd_ends, fun a => runAheadEnd_rolls, fun n off t => tloadProceed_loads, fun n => tloadProceed_flips,
    fun f may first idle => ?_⟩
  obtain ⟨t, delivers, strand⟩ := strand_delivered may first idle
  refine ⟨t, delivers, ?_⟩
  beta_reduce
  rw [strand]
  refine ⟨Strand.enterTrap_tcause .., Strand.enterTrap_tval .., Strand.enterTrap_tpc .., Strand.enterTrap_tmask .., Strand.enterTrap_priv ..,
    Strand.enterTrap_wait .., Strand.enterTrap_async .., Strand.enterTrap_regs .., fun l hl live => ⟨?pc, ?frame⟩⟩
  case pc => exact (Strand.enterTrap_pc _ _ _ _ _ _ hl).trans (if_pos live)
  case frame => exact (Strand.enterTrap_frame _ _ _ _ _ _ hl).trans (congrArg some (if_pos live))

end Sys2Proof.Machine
end

section
/-! Proofs about the cross-lane instructions: exchanges, votes, reductions, scans and matches (O18), and the tiles and active lanes that they keep to (O19). -/

namespace Sys2Proof.Machine
open Sys2Proof Sys2Proof.Safety

/-! Exchanges and votes (R135, R136, R140 to R143). -/

/-- An exchange writes each active lane's source value, and with .vm which source lanes are live. -/
theorem exchange_completes {n : Instr} {o : Op} {e : Enc} {s : State} (h : Active o e s) (hn : exec n s = exchange o e s) (hr : o.endsRegion e = false) :
    let i := s.issue o e; let value := fun l => i.src s (i.sourceLane s l)
    let written := if e.tf = 31 then s.onStrand s.cur fun st => st.putV (i.st.sp.wb + e.d.toNat) i.act value else s.writeD i value
    exec n s = .next ((if e.qbit 0 then written.onStrand s.cur fun st => st.putK e.c.toNat i.act (Mask.of fun l => i.st.live.getLsbD (i.sourceLane s l)) else written).advance i) :=
  completes_of h hn hr rfl

theorem Enc.sub_toNat_eq_three {e : Enc} : e.sub.toNat = 3 ↔ e.sub = 3 := BitVec.toNat_inj (y := 3)

/-- The part of O18 about SHUF, PERM, BCAST and VOTE. -/
theorem exchangeAndVoteResults : Statements.ExchangeAndVoteResults := by
  intro e s exchanged
  refine ⟨fun h => ?shuf, fun h => ?perm, fun h => ?bcast, fun h => ?vote⟩
  case shuf | perm | bcast => exact exchange_completes h rfl rfl
  case vote =>
    refine ⟨fun uniform ballot => ?ballot, fun uniform decision => ?decision, fun mask => ?tiles⟩
    case ballot => exact sets_of h rfl rfl rfl ((if_pos uniform).trans (congrArg _ (if_pos (Enc.sub_toNat_eq_three.mpr ballot))))
    case decision => exact sets_of h rfl rfl rfl ((if_pos uniform).trans (congrArg _ (if_neg (mt Enc.sub_toNat_eq_three.mp decision))))
    case tiles =>
      have varying : (s.issue .vote e).dClass ≠ .s := by rw [mask]; decide
      refine results_of h rfl rfl rfl ((if_neg varying).trans (congrArg (s.writeD _) (funext fun l => ?_)))
      simp only [Enc.sub_toNat_eq_three, inTile]

/-! Reductions, scans and matches (R144 to R147). -/

/-- The active lanes of a lane's tile with the lane's value are those of one filter. -/
theorem inTile_filter (n l : Nat) (m : Mask) (same : Nat → Bool) :
    (inTile n l m).filter same = (Mask.lanes m).filter fun j => tileBase n j == tileBase n l && same j := by
  simp only [inTile, List.filter_filter, Bool.and_comm]

/-- An instruction completes with any result of the same values. -/
theorem results_congr {n : Instr} {o : Op} {e : Enc} {s : State} {f g : Issue → Nat → Word} (h : Results n o e s f)
    (values : ∀ l, f (s.issue o e) l = g (s.issue o e) l) : Results n o e s g := h.trans (by rw [funext values])

section
variable {e : Enc} {s : State}

/-- REDU writes one reduction of the strand to a uniform destination, and otherwise to each lane that of its tile (R146). -/
theorem redu_course (h : Active .redu e s) : let i := s.issue .redu e; let n := tileSize i.st.sp.part
    exec (.redu e) s = .next (((if i.dClass = .s then s.writeS s.cur e.d.toNat (i.reduce s 0 32)
      else s.writeD i fun l => i.reduce s (tileBase n l) n).steppedSum i).advance i) :=
  completes_of (n := .redu e) h rfl rfl rfl

/-- SCAN combines the lanes of the tile up to the lane, with it or without (R146). -/
theorem scan_course (h : Active .scan e s) : let i := s.issue .scan e; let n := tileSize i.st.sp.part
    exec (.scan e) s = .next (((s.writeD i fun l =>
      i.prefix_ e.sub.toNat (i.leaf s) (tileBase n l) (if e.qbit 0 then l % n else l % n + 1) l).steppedSum i).advance i) := by
  have lanes (n l : Nat) : (l % n + if e.qbit 0 then 0 else 1) = if e.qbit 0 then l % n else l % n + 1 := by split <;> rfl
  have done := completes_of (n := .scan e) h rfl rfl rfl
  simp only [lanes] at done
  exact done

/-- What MATCH writes in a lane, of the lanes that it finds (R147). -/
def matched (mask : Bool) (sub : BitVec 8) (lane : Nat) (found : List Nat) : Word :=
  if mask then (if (if sub = 0 then decide (found.length > 1) else found.head? == some lane) then 1 else 0)
  else if sub = 0 then Mask.of fun j => found.contains j else BitVec.ofNat 32 (found.headD 0)

/-- MATCH finds the active lanes of the tile with the lane's value (R147). -/
theorem matchLanes_course (h : Active .matchLanes e s) : let n := tileSize (s.issue .matchLanes e).st.sp.part
    Results (.matchLanes e) .matchLanes e s fun i l => matched (decide (i.dClass = .k)) e.sub l
      ((Mask.lanes i.act).filter fun j => tileBase n j == tileBase n l && i.opnd s .a j == i.opnd s .a l) := by
  intro n
  refine results_of h rfl rfl rfl (congrArg (s.writeD _) (funext fun l => ?_))
  simp only [matched, inTile_filter, decide_eq_true_eq]
  rfl

end

/-- The part of O18 about REDU, SCAN and MATCH. -/
theorem reductionResults : Statements.ReductionResults := by
  intro e s
  refine ⟨fun h => ⟨fun uniform => ?strand, fun varying => ?tile⟩, scan_course, fun h => ?same⟩
  case strand => exact (redu_course h).trans (by rw [if_pos uniform])
  case tile => exact (redu_course h).trans (by rw [if_neg (by rw [varying]; decide)])
  case same =>
    intro i n same
    have found := matchLanes_course h
    refine ⟨fun varying all => ?all, fun varying lowest => ?lowest, fun mask several => ?several, fun mask first => ?first⟩
    case all => exact results_congr found fun l => by simp [matched, varying, all, same, i, n]
    case lowest => exact results_congr found fun l => by simp [matched, varying, lowest, same, i, n]
    case several => exact results_congr found fun l => by simp [matched, mask, several, same, i, n]
    case first => exact results_congr found fun l => by simp [matched, mask, first, same, i, n]

/-- Settles O18: each instruction completes with what its lanes give it. -/
theorem crossLaneResults : Obligations.CrossLaneResults := ⟨exchangeAndVoteResults, reductionResults⟩

/-! Tiles (R131, R132). -/

theorem tileSize_dvd (part : Word) : tileSize part ∣ 32 := by
  unfold tileSize
  split <;> decide

theorem tileSize_pos (part : Word) : 0 < tileSize part := Nat.pos_of_dvd_of_pos (tileSize_dvd part) (by decide)

section
variable {n l r : Nat}

theorem tileBase_eq (n l : Nat) : tileBase n l = n * (l / n) := (Nat.mul_div_self_eq_mod_sub_self ..).symm

/-- The place of a lane in its tile. -/
theorem tileBase_add_mod (hr : r < n) : (tileBase n l + r) % n = r := by
  rw [tileBase_eq, Nat.mul_add_mod, Nat.mod_eq_of_lt hr]

/-- A lane that lies in a tile has the tile's base. -/
theorem tileBase_add (hr : r < n) : tileBase n (tileBase n l + r) = tileBase n l := by
  rw [tileBase, tileBase_add_mod hr, Nat.add_sub_cancel]

/-- A tile of lanes below 32 ends there. -/
theorem tileBase_add_lt (hn : n ∣ 32) (hl : l < 32) (hr : r < n) : tileBase n l + r < 32 := by
  obtain ⟨k, hk⟩ := hn
  have tile : l / n < k := Nat.div_lt_of_lt_mul (hk ▸ hl)
  calc tileBase n l + r < n * (l / n) + n := by rw [tileBase_eq]; omega
    _ = n * (l / n + 1) := (Nat.mul_succ ..).symm
    _ ≤ n * k := Nat.mul_le_mul_left n tile
    _ = 32 := hk.symm

end

/-! Source lanes (R140 to R142). -/

section
variable {e : Enc} {s : State} {o : Op}

/-- The place in the lane's tile that SHUF reads (R140): up, down, or by exclusive or. -/
theorem sourceLane_shuf (e : Enc) (s : State) (l : Nat) : let i := s.issue .shuf e; let n := tileSize i.st.sp.part; let b := (i.opB s).toNat
    i.sourceLane s l = tileBase n l + if e.sub = 0 then (l % n + b) % n else if e.sub = 1 then (l % n + (n - b % n)) % n else (l % n ^^^ b) % n := by
  intro i n b
  rw [apply_ite (tileBase n l + ·), apply_ite (tileBase n l + ·)]
  rfl

/-- The source lane is a place in the lane's tile (R140 to R142). -/
theorem sourceLane_inTile (ho : o = .shuf ∨ o = .perm ∨ o = .bcast) (varying : ¬ (o = .bcast ∧ (s.issue o e).dClass = .s)) (l : Nat) :
    let i := s.issue o e; let n := tileSize i.st.sp.part; ∃ r < n, i.sourceLane s l = tileBase n l + r := by
  intro i n
  have within (x : Nat) : x % n < n := Nat.mod_lt x (tileSize_pos _)
  rcases ho with rfl | rfl | rfl
  case inl =>
    refine ⟨_, ?_, sourceLane_shuf e s l⟩
    split_ifs <;> exact within _
  case inr.inl => exact ⟨_, within _, rfl⟩
  case inr.inr => exact ⟨_, within _, if_neg fun uniform => varying ⟨rfl, uniform⟩⟩

/-- SHUF up reads the place that lies the amount above the lane's (R140). -/
theorem sourceLane_up (e : Enc) (s : State) (l : Nat) (up : e.sub = 0) : let i := s.issue .shuf e; let n := tileSize i.st.sp.part
    i.sourceLane s l % n = (l % n + (i.opB s).toNat) % n := by
  intro i n
  rw [sourceLane_shuf, if_pos up, tileBase_add_mod (Nat.mod_lt _ (tileSize_pos _))]

/-- SHUF down reads the place from which the amount leads back to the lane's (R140). -/
theorem sourceLane_down (e : Enc) (s : State) (l : Nat) (down : e.sub = 1) : let i := s.issue .shuf e; let n := tileSize i.st.sp.part
    (i.sourceLane s l + (i.opB s).toNat) % n = l % n := by
  intro i n
  have notUp : e.sub ≠ 0 := by rw [down]; decide
  have back : n - (i.opB s).toNat % n + (i.opB s).toNat % n = n := Nat.sub_add_cancel (Nat.mod_lt _ (tileSize_pos _)).le
  calc (i.sourceLane s l + (i.opB s).toNat) % n
      = (l % n + (n - (i.opB s).toNat % n) + (i.opB s).toNat % n) % n := by
        rw [Nat.add_mod, sourceLane_shuf, if_neg notUp, if_pos down, tileBase_add_mod (Nat.mod_lt _ (tileSize_pos _)), ← Nat.add_mod, Nat.add_mod_mod]
    _ = l % n := by rw [Nat.add_assoc, back, Nat.add_mod_right, Nat.mod_mod]

end

/-- The part of O19 about source lanes. -/
theorem sourceLanesStayInTile : Statements.SourceLanesStayInTile := by
  intro e s o l hl ho varying i n
  obtain ⟨r, hr, source⟩ := sourceLane_inTile ho varying l
  refine ⟨?tile, ?lane, fun shuf up => ?up, fun shuf down => ?down⟩
  case tile => exact (congrArg (tileBase n) source).trans (tileBase_add hr)
  case lane => exact source ▸ tileBase_add_lt (tileSize_dvd _) hl hr
  case up => subst shuf; exact sourceLane_up e s l up
  case down => subst shuf; exact sourceLane_down e s l down

/-! Reductions of the active lanes (R144). -/

/-- Where the stand-in is neutral, a combination of leaves is that of the active lanes alone. -/
theorem Issue.prefix_activeLanes {i : Issue} {sub : Nat} (s : State) (base m lane : Nat) (hs : i.e.sub.toNat = sub) (notSum : sub ≠ 8)
    (neutral : ∀ x, combine sub x (standIn sub) = x) :
    i.prefix_ sub (i.leaf s) base m lane =
      (((List.range m).map (base + ·)).filter fun l => i.act.getLsbD l).foldl (fun x l => combine sub x (i.opnd s .a l)) (standIn sub) := by
  have leaf (x : Word) (l : Nat) : combine sub x (i.leaf s l) = if i.act.getLsbD l then combine sub x (i.opnd s .a l) else x := by
    rw [Issue.leaf, hs, apply_ite (combine sub x), neutral]
  simp only [Issue.prefix_, if_neg notSum, leaf, List.foldl_filter, List.foldl_map]

/-- The part of O19 about reductions. -/
theorem reductionIgnoresInactiveLanes : Statements.ReductionIgnoresInactiveLanes := by
  intro e s base m lane i A acc
  have active {sub : Nat} (hs : e.sub.toNat = sub) := i.prefix_activeLanes s base m lane hs
  refine ⟨fun add => ?add, fun and => ?and, fun or => ?or, fun xor => ?xor⟩
  case add => exact active (congrArg BitVec.toNat add) (by decide) fun x => BitVec.add_zero x
  case and => exact active (congrArg BitVec.toNat and) (by decide) fun x => BitVec.and_allOnes
  case or => exact active (congrArg BitVec.toNat or) (by decide) fun x => BitVec.or_zero
  case xor => exact active (congrArg BitVec.toNat xor) (by decide) fun x => BitVec.xor_zero

/-- Settles O19: a source lane is a place in the lane's tile, and the stand-in of an inactive lane changes no combination. -/
theorem crossLaneIsolation : Obligations.CrossLaneIsolation := ⟨sourceLanesStayInTile, reductionIgnoresInactiveLanes⟩

end Sys2Proof.Machine
end

section
/-! Proofs about branches, jumps, calls and returns (O20). -/

namespace Sys2Proof.Machine
open Sys2Proof Sys2Proof.Safety

/-- An instruction that has changed registers at most and then moves its group. -/
theorem moves_of_moveTo {n : Instr} {o : Op} {e : Enc} {s t : State} {f : Nat → Pc} (kept : OnlyRegs s t s.cur) (cur : t.cur = s.cur)
    (hn : exec n s = .next (t.moveTo (s.issue o e) f)) : Moves n o e s f (t.strand s.cur).regs := by
  have resident : (t.comb? (s.issue o e).w.core (s.issue o e).w.slot).isSome = true := kept.resident
  obtain ⟨r, m, strand⟩ := kept.strand
  refine ⟨_, hn, (State.moveTo_cur ..).trans cur, (State.moveTo_memory ..).trans kept.memory, State.moveTo_regs f resident, ?live, fun l hl => ?pc⟩
  case live =>
    refine (congrArg Strand.live (State.strand_moveTo f resident)).trans ?_
    rw [Strand.markAhead_live, Strand.account_live, Strand.move_live, show t.strand (s.issue o e).w = _ from strand]
  case pc =>
    refine (State.moveTo_pc f resident hl).trans ?_
    rw [show t.strand (s.issue o e).w = _ from strand]
    rfl

section
variable {n : Instr} {o : Op} {e : Enc} {s : State}

/-- An instruction that only moves its group. -/
theorem moves_of_clear {f : Nat → Pc} (h : Clear o e s) (hn : exec n s = .next (s.moveTo (s.issue o e) f)) : Moves n o e s f (s.strand s.cur).regs :=
  moves_of_moveTo (onlyRegs_refl (i := s.issue o e) (State.resident_of_may h.may)) rfl hn

/-! Register targets (R151). -/

section
variable {i : Issue} {v : Nat → Word}

theorem targetTrap_aligned (h : ∀ l < 32, i.act.getLsbD l → (v l).toNat % 4 = 0) : i.targetTrap v = none := by
  have aligned : (Mask.lanes i.act).find? (fun l => (v l).toNat % 4 != 0) = none := by
    rw [List.find?_eq_none]
    intro l hl
    obtain ⟨lane, active⟩ := Mask.mem_lanes.mp hl
    simp [h l lane active]
  rw [Issue.targetTrap, aligned]

/-- The lowest active lane whose target is misaligned gives the fault. -/
theorem targetTrap_lowest {l : Nat} (hl : l < 32) (active : i.act.getLsbD l) (odd : (v l).toNat % 4 ≠ 0)
    (lower : ∀ j < l, i.act.getLsbD j → (v j).toNat % 4 = 0) : i.targetTrap v = some { cause := .misaligned, tval := (regTarget i.pc (v l)).setWidth 64 } := by
  have lowest : (Mask.lanes i.act).find? (fun l => (v l).toNat % 4 != 0) = some l := by
    rw [Mask.lanes, List.find?_filter, List.find?_range_eq_some]
    refine ⟨by simp [active, odd], List.mem_range.mpr hl, fun j hj => ?_⟩
    rw [Bool.not_eq_true', decide_eq_false_iff_not]
    rintro ⟨active, odd⟩
    simp [lower j hj active] at odd
  rw [Issue.targetTrap, lowest]

end

/-! Jumps with and without a link (R154 to R156). -/

theorem jump_moves {t : Nat → Pc} (h : Clear o e s) (hn : exec n s = .next (s.jump (s.issue o e) false t)) :
    Moves n o e s (fun l => if (s.issue o e).act.getLsbD l then t l else (s.issue o e).next) (s.strand s.cur).regs :=
  moves_of_clear h hn

/-- A call writes its return address into the active lanes of the link (R155). -/
theorem call_moves {t : Nat → Pc} (h : Active o e s) (hn : exec n s = .next (s.jump (s.issue o e) true t)) :
    Moves n o e s (fun l => if (s.issue o e).act.getLsbD l then t l else (s.issue o e).next)
      ((s.strand s.cur).putV ((s.strand s.cur).sp.wb + e.c.toNat) (s.issue o e).act fun _ => (s.issue o e).next.setWidth 32).regs := by
  have resident := State.resident_of_may h.may
  have linked : (true && (s.issue o e).act != 0) = true := by simpa using h.active
  rw [State.jump, if_pos linked] at hn
  have moves := moves_of_moveTo (onlyRegs_onStrand resident (Strand.putV_only ..)) (State.onStrand_cur ..) hn
  rwa [State.strand_onStrand _ resident] at moves

section
variable {link varying : Bool} (hn : exec n s = .next (s.jumpReg (s.issue o e) link varying))
include hn

theorem exec_jumpReg_aligned (aligned : ∀ l < 32, (s.issue o e).act.getLsbD l → ((s.issue o e).targetReg s varying l).toNat % 4 = 0) :
    exec n s = .next (s.jump (s.issue o e) link fun l => regTarget (s.issue o e).pc ((s.issue o e).targetReg s varying l)) := by
  rw [hn, State.jumpReg, targetTrap_aligned aligned]

/-- A misaligned register target raises MISALIGNED (R151). -/
theorem jumpReg_traps {l : Nat} (h : Issues o e s) (hl : l < 32) (active : (s.issue o e).act.getLsbD l) (odd : ((s.issue o e).targetReg s varying l).toNat % 4 ≠ 0)
    (lower : ∀ j < l, (s.issue o e).act.getLsbD j → ((s.issue o e).targetReg s varying j).toNat % 4 = 0) :
    Traps n o e s { cause := .misaligned, tval := (regTarget (s.issue o e).pc ((s.issue o e).targetReg s varying l)).setWidth 64 } := by
  refine traps_of_raise h ?_
  rw [hn, State.jumpReg, targetTrap_lowest hl active odd lower]

end

end

/-- The part of O20 about branches. -/
theorem branchesMoveLanes : Statements.BranchesMoveLanes := by
  intro e s regs off21 off14
  refine ⟨fun h => ?br, fun h => ?brd, fun h => ?bru, fun h => ?jmp⟩
  case br => exact moves_of_clear h (congrArg next (strandOnly_clear h))
  case brd => exact moves_of_clear h (congrArg next (strandOnly_clear h))
  case bru =>
    intro i v
    have moves := moves_of_clear (n := .bru e) h (congrArg next ((if_neg h.strand).trans (runStrand_clear h)))
    simp only [bruTaken_iff] at moves
    exact moves
  case jmp => exact moves_of_clear h (congrArg next ((if_neg h.strand).trans (runStrand_clear h)))

/-- The part of O20 about register targets, calls and returns. -/
theorem callsAndReturnsMoveLanes : Statements.CallsAndReturnsMoveLanes := by
  intro e s regs off21 nextOf linked value target aligned refused
  refine ⟨fun h ok => ?jmpi, fun h l => ?jmpiRefused, fun h => ?call, fun h ok => ?calli, fun h l => ?calliRefused, fun h ok => ?ret, fun h l => ?retRefused⟩
  case jmpi => exact jump_moves h (exec_jumpReg_aligned (congrArg next (strandOnly_clear h)) ok)
  case jmpiRefused => exact jumpReg_traps (n := .jmpi e) (congrArg next (strandOnly_clear h)) h.toIssues
  case call => exact call_moves h (congrArg next ((if_neg h.strand).trans (runStrand_clear h.toClear)))
  case calli => exact call_moves h (exec_jumpReg_aligned (congrArg next (strandOnly_clear h.toClear)) ok)
  case calliRefused => exact jumpReg_traps (n := .calli e) (congrArg next (strandOnly_clear h)) h.toIssues
  case ret => exact jump_moves h (exec_jumpReg_aligned (congrArg next ((if_neg h.strand).trans (runStrand_clear h))) ok)
  case retRefused => exact jumpReg_traps (n := .ret e) (congrArg next ((if_neg h.strand).trans (runStrand_clear h))) h.toIssues

/-- Settles O20: a branch moves its group, and a call writes its link before. -/
theorem branchesAndCalls : Obligations.BranchesAndCalls := ⟨branchesMoveLanes, callsAndReturnsMoveLanes⟩

end Sys2Proof.Machine
end

section
/-! Proofs about NOP, IDEM, EXIT, YIELD and HALT (O21). -/

namespace Sys2Proof

section
variable {α : Type} [DecidableEq α] {d : α} {f : Nat → α → α}

theorem Tab.mapVals_cons (k : Nat) (v : α) (t : Tab α) :
    Tab.mapVals d f ((k, v) :: t) = if f k v = d then Tab.mapVals d f t else (k, f k v) :: Tab.mapVals d f t := by
  rw [Tab.mapVals, List.map_cons, List.filter_cons]
  by_cases h : f k v = d <;> simp [h, Tab.mapVals]

/-- The first entry of a key stays the first where neither it nor what it becomes is the default. -/
theorem Tab.get_mapVals {i : Nat} : ∀ {t : Tab α}, Tab.get d t i ≠ d → f i (Tab.get d t i) ≠ d → Tab.get d (Tab.mapVals d f t) i = f i (Tab.get d t i)
  | [], h, _ => absurd rfl h
  | (k, v) :: t, h, hf => by
    rw [Tab.mapVals_cons]
    by_cases key : k = i
    · subst key
      rw [Tab.get, if_pos rfl] at hf ⊢
      rw [if_neg hf, Tab.get, if_pos rfl]
    · rw [Tab.get, if_neg key] at h hf ⊢
      have ih := Tab.get_mapVals h hf
      split
      · exact ih
      · rw [Tab.get, if_neg key, ih]

/-- Putting an entry changes no test of the others. -/
theorem Tab.all_put {p : Nat × α → Bool} (t : Tab α) (i : Nat) (v : α) (hp : ∀ v, p (i, v) = true) : (Tab.put d t i v).all p = t.all p := by
  have del : ∀ t : Tab α, (Tab.del t i).all p = t.all p := fun t => by
    induction t with
    | nil => rfl
    | cons x t ih =>
      rw [Tab.del]
      split
      · rename_i key
        rw [ih, List.all_cons, show x = (i, x.2) from Prod.ext key rfl, hp, Bool.true_and]
      · rw [List.all_cons, List.all_cons, ih]
  have ins : ∀ t : Tab α, (Tab.ins i v t).all p = t.all p := fun t => by
    induction t with
    | nil => simp [Tab.ins, hp]
    | cons x t ih =>
      rw [Tab.ins]
      split
      · rw [List.all_cons, hp, Bool.true_and]
      · rw [List.all_cons, List.all_cons, ih]
  rw [Tab.put]
  split
  · exact del t
  · rw [ins, del]

/-- Whatever the table lists, an entry of the changed one is the default or an image. -/
theorem Tab.get_mapVals_cases (i : Nat) : ∀ t : Tab α, Tab.get d (Tab.mapVals d f t) i = d ∨ ∃ v, Tab.get d (Tab.mapVals d f t) i = f i v
  | [] => .inl rfl
  | (k, v) :: t => by
    have ih := Tab.get_mapVals_cases i t
    rw [Tab.mapVals_cons]
    split
    · exact ih
    · by_cases key : k = i
      · subst key
        exact .inr ⟨v, if_pos rfl⟩
      · rw [Tab.get, if_neg key]
        exact ih

end

end Sys2Proof

namespace Sys2Proof.Machine
open Sys2Proof Sys2Proof.Safety

/-- As `completes_of`, for an instruction that ends an open region first (R163). -/
theorem completes_closing {n : Instr} {o : Op} {e : Enc} {s : State} {check : Issue → State → Option Trap} {f : Issue → State → State} (h : Active o e s)
    (hn : exec n s = next (strandOnly o e s (effect check f))) (hr : o.endsRegion e = true) (hc : check (s.issue o e) s = none) :
    exec n s = .next ((f (s.issue o e) (s.onStrand s.cur Strand.closeRegion)).advance (s.issue o e)) := by
  rw [hn, strandOnly_clear h.toClear, effect_ends h.active hc hr]
  rfl

/-! The operands of an instruction after changes of its strand that keep the registers, and of its comb that keep the words. -/

/-- Every uniform field reads as before. -/
structure SameFields (s t : State) (w : Sid) : Prop where
  regs : (t.strand w).regs = (s.strand w).regs
  words : SameWords (s.comb w.core w.slot) (t.comb w.core w.slot)
  cycle : t.clock.cycle = s.clock.cycle

section
variable {s t : State} {w : Sid}

theorem SameFields.readS (h : SameFields s t w) (n : Nat) : t.readS w n = s.readS w n := by
  simp only [State.readS, Comb.readWord, h.regs, h.words.1, h.words.2, h.cycle]

theorem SameFields.opB {i : Issue} (h : SameFields s t i.w) : i.opB t = i.opB s := by
  simp only [Issue.opB, h.readS]

end

section
variable {s t : State} {i : Issue}

theorem State.resident_advance (h : (s.comb? i.w.core i.w.slot).isSome = true) : ((s.advance i).comb? i.w.core i.w.slot).isSome = true :=
  State.resident_onStrand _ h

/-- Moving on changes neither the region nor the live mask nor the registers. -/
theorem State.strand_advance (h : (s.comb? i.w.core i.w.slot).isSome = true) : let u := (s.advance i).strand i.w
    u.region = (s.strand i.w).region ∧ u.live = (s.strand i.w).live ∧ u.regs = (s.strand i.w).regs := by
  rw [State.advance, State.strand_moveTo _ h]
  simp

end

/-- Only a running comb issues. -/
theorem State.not_mayIssue_of_phase {s : State} {w : Sid} (h : (s.comb w.core w.slot).phase ≠ .running) : s.mayIssue w = false := by
  simp [State.mayIssue, h]

theorem State.live_of_may {s : State} {w : Sid} (h : s.mayIssue w = true) : (s.strand w).live ≠ 0 := fun none => by simp [State.mayIssue, Strand.runnable, none] at h

section
variable {e : Enc} {s : State}

/-! IDEM (R161). -/

theorem idem_opens (h : Active .idem e s) : ∃ t, exec (.idem e) s = .next t ∧ (t.strand s.cur).region = some (s.issue .idem e).newRegion := by
  have resident := State.resident_onStrand Strand.closeRegion (State.resident_of_may h.may)
  refine ⟨_, completes_closing h rfl rfl rfl, ?_⟩
  refine (State.strand_advance (i := s.issue .idem e) (State.resident_onStrand _ resident)).1.trans ?_
  exact congrArg Strand.region (State.strand_onStrand _ resident)

/-- The mask registers that IDEM names among its live-ins. -/
theorem mem_newRegion_k (i : Issue) (n : Nat) : n ∈ i.newRegion.k ↔ 1 ≤ n ∧ n ≤ 7 ∧ bit i.e.w2.toNat (10 + n) = true := by
  have named : n ∈ [1, 2, 3, 4, 5, 6, 7] ↔ 1 ≤ n ∧ n ≤ 7 := by
    simp only [List.mem_cons, List.not_mem_nil, or_false]
    omega
  rw [Issue.newRegion, List.mem_filter, named, and_assoc]

/-! EXIT (R169). -/

theorem Strand.exitLanes_fields (st : Strand) (m : Mask) :
    (st.exitLanes m).live = st.live &&& ~~~m ∧ (st.exitLanes m).region = st.region ∧ (st.exitLanes m).regs = st.regs := ⟨rfl, rfl, rfl⟩

/-- Whether EXIT waits depends on the other strands of the comb alone. -/
theorem State.exitWaits_closeRegion (s : State) (w : Sid) : (s.onStrand w Strand.closeRegion).exitWaits w = s.exitWaits w := by
  have stream : (s.onStrand w Strand.closeRegion).stream? w.core = s.stream? w.core := congrArg Matrix.stream (State.onComb_matrix ..)
  have others : ((s.onStrand w Strand.closeRegion).comb w.core w.slot).strands.all (fun x => x.1 == w.strand || x.2.live == 0) =
      (s.comb w.core w.slot).strands.all fun x => x.1 == w.strand || x.2.live == 0 := by
    cases comb : s.comb? w.core w.slot with
    | none => rw [State.onStrand, State.onComb, comb]
    | some k =>
      rw [State.onStrand, State.comb_onComb _ (by rw [comb]; rfl)]
      exact Tab.all_put _ _ _ fun v => by simp
  rw [State.exitWaits, stream, others]
  rfl

theorem exec_exit (h : Active .exit e s) : exec (.exit e) s =
    .next (let i := s.issue .exit e; let t := s.onStrand s.cur Strand.closeRegion
      if i.act = (s.strand s.cur).live ∧ s.exitWaits s.cur = true then t else (t.advance i).onStrand s.cur fun st => st.exitLanes i.act) := by
  refine congrArg next ((if_neg h.strand).trans ((runStrand_clear h.toClear).trans ((if_neg h.active).trans ?_)))
  rw [← State.exitWaits_closeRegion]
  rfl

/-- EXIT with lanes left, or with no stream to wait for. -/
theorem exit_leaves (h : Active .exit e s) (leaves : ¬ ((s.issue .exit e).act = (s.strand s.cur).live ∧ s.exitWaits s.cur = true)) :
    Becomes (.exit e) s fun t => (t.strand s.cur).live = (s.strand s.cur).live &&& ~~~(s.issue .exit e).act ∧ (t.strand s.cur).region = none ∧
      (t.strand s.cur).regs = (s.strand s.cur).regs := by
  have resident := State.resident_of_may h.may
  have closed := State.strand_onStrand Strand.closeRegion resident
  obtain ⟨region, live, regs⟩ := State.strand_advance (i := s.issue .exit e) (State.resident_onStrand Strand.closeRegion resident)
  have exited := State.strand_onStrand (fun st => st.exitLanes (s.issue .exit e).act) (State.resident_advance (i := s.issue .exit e) (State.resident_onStrand Strand.closeRegion resident))
  obtain ⟨live', region', regs'⟩ := Strand.exitLanes_fields (((s.onStrand s.cur Strand.closeRegion).advance (s.issue .exit e)).strand s.cur) (s.issue .exit e).act
  refine ⟨_, (exec_exit h).trans (congrArg next (if_neg leaves)), ?live, ?region, ?regs⟩
  case live => exact (congrArg Strand.live exited).trans (live'.trans (congrArg (· &&& _) (live.trans ((congrArg Strand.live closed).trans rfl))))
  case region => exact (congrArg Strand.region exited).trans (region'.trans (region.trans (congrArg Strand.region closed)))
  case regs => exact (congrArg Strand.regs exited).trans (regs'.trans (regs.trans ((congrArg Strand.regs closed).trans rfl)))

/-- EXIT of the last live strand while a stream of the comb runs. -/
theorem exit_stands (h : Active .exit e s) (stands : (s.issue .exit e).act = (s.strand s.cur).live ∧ s.exitWaits s.cur = true) :
    Becomes (.exit e) s fun t => (t.strand s.cur).live = (s.strand s.cur).live ∧ (t.strand s.cur).pcs = (s.strand s.cur).pcs ∧ (t.strand s.cur).region = none := by
  have closed := State.strand_onStrand Strand.closeRegion (State.resident_of_may h.may)
  exact ⟨_, (exec_exit h).trans (congrArg next (if_pos stands)), (congrArg Strand.live closed).trans rfl, (congrArg Strand.pcs closed).trans rfl, congrArg Strand.region closed⟩

/-! YIELD (R170). -/

section
variable (h : Clear .yield e s)
include h

theorem yield_pauses (converged : (s.strand s.cur).converged = true) :
    Becomes (.yield e) s fun t => (t.strand s.cur).sched.pause = s.clock.cycle + 9 ∧ (t.strand s.cur).regs = (s.strand s.cur).regs := by
  have resident := State.resident_of_may h.may
  have strand := State.strand_onStrand (fun st => { st with sched := { st.sched with pause := (s.advance (s.issue .yield e)).clock.cycle + 9 } })
    (State.resident_advance (i := s.issue .yield e) resident)
  refine ⟨_, congrArg next ((strandOnly_clear h).trans (if_pos converged)), ?pause, ?regs⟩
  case pause => exact (congrArg (fun st => st.sched.pause) strand).trans (by rw [State.advance_clock])
  case regs => exact (congrArg Strand.regs strand).trans (State.strand_advance (i := s.issue .yield e) resident).2.2

/-- A diverged strand whose reservation condition allows it begins a burst, and otherwise only moves on. -/
theorem exec_yield_diverged (diverged : (s.strand s.cur).converged = false) : exec (.yield e) s =
    .next (let i := s.issue .yield e
      if (s.strand s.cur).burstFree s.clock.cycle then (s.advance i).onStrand s.cur fun st => { st with sched := { st.sched with burst := some { held := i.group, pc := i.next, left := 256 } } }
      else s.advance i) := by
  refine congrArg next ((strandOnly_clear h).trans ((if_neg (Bool.eq_false_iff.mp diverged)).trans ?_))
  rw [State.advance_clock]
  rfl

theorem yield_bursts (diverged : (s.strand s.cur).converged = false) (free : (s.strand s.cur).burstFree s.clock.cycle = true) : let i := s.issue .yield e
    Becomes (.yield e) s fun t => (t.strand s.cur).sched.burst = some { held := i.group, pc := i.next, left := 256 } ∧ (t.strand s.cur).regs = (s.strand s.cur).regs := by
  intro i
  have resident := State.resident_of_may h.may
  have strand := State.strand_onStrand (fun st => { st with sched := { st.sched with burst := some { held := i.group, pc := i.next, left := 256 } } })
    (State.resident_advance (i := s.issue .yield e) resident)
  exact ⟨_, (exec_yield_diverged h diverged).trans (congrArg next (if_pos free)), congrArg (fun st => st.sched.burst) strand,
    (congrArg Strand.regs strand).trans (State.strand_advance (i := i) resident).2.2⟩

end

end

/-- The part of O21 about NOP, IDEM, EXIT and YIELD. -/
theorem regionsExitAndYield : Statements.RegionsExitAndYield := by
  intro e s st cycle
  refine ⟨fun h => ?nop, fun h => ?idem, fun h => ⟨exit_leaves h, exit_stands h⟩, fun h => ⟨yield_pauses h, yield_bursts h, fun diverged held => ?moves⟩⟩
  case nop => exact congrArg next ((if_neg h.strand).trans ((runStrand_clear h.toClear).trans (effect_done h.active rfl rfl)))
  case idem =>
    obtain ⟨t, runs, region⟩ := idem_opens h
    exact ⟨t, _, runs, region, rfl, rfl, rfl, rfl, rfl, rfl, rfl, rfl, mem_newRegion_k (s.issue .idem e)⟩
  case moves => exact (exec_yield_diverged h diverged).trans (congrArg next (if_neg (Bool.eq_false_iff.mp held)))

/-! HALT (R419, R452). -/

/-- A strand as HALT leaves it: its region is discarded, and nothing stops it but its comb. -/
def Strand.halt (st : Strand) : Strand := { st with region := none, ahead := none, sched := { st.sched with stopped := false, burst := none } }

/-- A comb as HALT leaves it. -/
def Comb.halt (k : Comb) : Comb := { k with phase := .halting, strands := Tab.mapVals {} (fun _ st => st.halt) k.strands }

theorem Comb.halt_region (k : Comb) (j : Nat) : (Tab.get {} k.halt.strands j : Strand).region = none := by
  rcases Tab.get_mapVals_cases (d := ({} : Strand)) (f := fun _ st => st.halt) j k.strands with absent | ⟨v, halted⟩
  · exact congrArg Strand.region absent
  · exact congrArg Strand.region halted

/-- No live strand is lost. -/
theorem Comb.halt_live {k : Comb} {j : Nat} (live : (Tab.get {} k.strands j : Strand).live ≠ 0) : Tab.get {} k.halt.strands j = (Tab.get {} k.strands j : Strand).halt :=
  Tab.get_mapVals (d := ({} : Strand)) (f := fun _ st => st.halt) (fun absent => live (congrArg Strand.live absent)) fun absent => live (congrArg Strand.live absent)

section
variable {e : Enc} {s : State}

/-- HALT reads its code as it stood. -/
theorem sameFields_halt (may : s.mayIssue s.cur = true) : SameFields s (s.onComb s.cur.core s.cur.slot Comb.halt) s.cur := by
  have comb := State.comb_onComb Comb.halt (State.resident_of_may may)
  refine ⟨?regs, by rw [comb]; exact ⟨rfl, rfl⟩, by rw [State.onComb_clock]⟩
  case regs => rw [State.strand, comb, Comb.halt_live (State.live_of_may may)]; rfl

/-- The entry that HALT puts into the halt log (R480). -/
def haltCode (s : State) (e : Enc) : List Nat :=
  haltEntry ((s.issue .halt e).opB s).toNat (s.issue .halt e).pc.toNat 0 (s.tenantOf s.cur.core s.cur.slot) s.cur.core s.cur.slot s.cur.strand 2 s.clock.gt

theorem exec_halt (h : Active .halt e s) :
    exec (.halt e) s = .next (((s.onComb s.cur.core s.cur.slot Comb.halt).dropStops s.cur.core s.cur.slot).logHalt (haltCode s e)) := by
  have code : (s.issue .halt e).opB (s.onComb s.cur.core s.cur.slot Comb.halt) = (s.issue .halt e).opB s := (sameFields_halt h.may).opB (i := s.issue .halt e)
  have tenant : (s.onComb s.cur.core s.cur.slot Comb.halt).tenantOf s.cur.core s.cur.slot = s.tenantOf s.cur.core s.cur.slot :=
    (congrArg Comb.tenant (State.comb_onComb Comb.halt (State.resident_of_may h.may))).trans rfl
  rw [haltCode, ← code, ← tenant, ← State.onComb_clock s s.cur.core s.cur.slot Comb.halt]
  exact congrArg next ((strandOnly_clear h.toClear).trans (if_neg h.active))

end

/-- An entry of the halt log goes to its tail (R452). -/
theorem State.haltLog_logHalt (s : State) (l : List Nat) : Tab.get [] (s.logHalt l).mgmt.haltLog (s.mgmt.hlogTail % 256) = l :=
  Tab.get_put_same [] s.mgmt.haltLog (s.mgmt.hlogTail % 256) l

/-- The part of O21 about HALT. -/
theorem haltEndsComb : Statements.HaltEndsComb := by
  intro e s h w i
  have comb : (s.onComb w.core w.slot Comb.halt).comb w.core w.slot = (s.comb w.core w.slot).halt := State.comb_onComb Comb.halt (State.resident_of_may h.may)
  have tail : ((s.onComb w.core w.slot Comb.halt).dropStops w.core w.slot).mgmt.hlogTail = s.mgmt.hlogTail := by
    show (s.onComb w.core w.slot Comb.halt).mgmt.hlogTail = _
    rw [State.onComb_mgmt]
  have phase : ((s.onComb w.core w.slot Comb.halt).comb w.core w.slot).phase = .halting := congrArg Comb.phase comb
  refine ⟨_, exec_halt h, phase, State.onComb_memory .., fun j => ⟨?region, ?stops, fun live => ?regs⟩, ?msix, congrArg (· + 1) tail, ?log⟩
  case region => exact (congrArg (fun k => (Tab.get {} k.strands j : Strand).region) comb).trans (Comb.halt_region _ j)
  case stops => exact State.not_mayIssue_of_phase (w := { w with strand := j }) fun running => absurd (phase.symm.trans running) (by decide)
  case regs => exact (congrArg (fun k => (Tab.get {} k.strands j : Strand).regs) comb).trans (congrArg Strand.regs (Comb.halt_live live))
  case msix => exact congrArg (fun x => 0 :: x.msix) (State.onComb_host s w.core w.slot Comb.halt)
  case log => exact tail ▸ State.haltLog_logHalt _ _

/-- Settles O21: each instruction by its own course. -/
theorem regionsExitAndHalt : Obligations.RegionsExitAndHalt := ⟨regionsExitAndYield, haltEndsComb⟩

end Sys2Proof.Machine
end

section
/-! Proofs about trap entry through TRAP, BRK and SYSC, and about the double fault (O22). -/

namespace Sys2Proof.Machine
open Sys2Proof Sys2Proof.Safety

theorem Cause.code_lt (c : Cause) : c.code < 256 := by cases c <;> decide

section
variable {n : Instr} {s : State} {cause : Nat} {tval : Dbl} {tpc : Pc} {group : Mask}

/-- TCAUSE at the entry of an instruction's trap (R413, R414). -/
theorem tcauseWord_entry (priv : Bool) (hc : cause < 256) : tcauseWord true priv false cause = BitVec.ofNat 32 (0x800 + (if priv then 0x400 else 0) + cause) := by
  rw [tcauseWord, Nat.mod_eq_of_lt hc]
  cases priv <;> rfl

/-- What O22 says of an instruction that enters the handler, field by field (R414). -/
def EntersHandler (n : Instr) (s : State) (cause : Nat) (tval : Dbl) (tpc : Pc) (group : Mask) : Prop :=
  let st := s.strand s.cur
  Becomes n s fun t => t.memory = s.memory ∧ let u := t.strand s.cur
    (∀ l < 32, st.live.getLsbD l → u.pc l = st.trap.tvec.setWidth 57 ∧ u.trap.frame[l]? = some (st.pc l)) ∧
    (∀ l < 32, st.live.getLsbD l = false → u.pc l = st.pc l ∧ u.trap.frame[l]? = st.trap.frame[l]?) ∧
    u.trap.tmask = group ∧ u.trap.tpc = tpc.setWidth 64 ∧ u.trap.tval = tval ∧
    u.trap.tcause = BitVec.ofNat 32 (0x800 + (if st.trap.priv then 0x400 else 0) + cause) ∧ u.trap.priv = true ∧
    u.trap.tvec = st.trap.tvec ∧ u.trap.tscr0 = st.trap.tscr0 ∧ u.trap.tscr1 = st.trap.tscr1 ∧
    u.live = st.live ∧ u.regs = st.regs ∧ u.region = none ∧ u.sched.burst = none ∧ u.sched.fc = 0 ∧ u.flight.resv = []

theorem entersHandler_of (may : s.mayIssue s.cur = true) (hc : cause < 256)
    (hn : exec n s = .next (s.onStrand s.cur fun st => st.enterTrap cause tval tpc group false)) : EntersHandler n s cause tval tpc group := by
  have strand := State.strand_onStrand (fun st => st.enterTrap cause tval tpc group false) (State.resident_of_may may)
  refine ⟨_, hn, State.onStrand_memory .., ?_⟩
  rw [strand]
  refine ⟨fun l hl live => ⟨?livePc, ?liveFrame⟩, fun l hl dead => ⟨?deadPc, ?deadFrame⟩, Strand.enterTrap_tmask .., Strand.enterTrap_tpc .., Strand.enterTrap_tval ..,
    (Strand.enterTrap_tcause ..).trans (tcauseWord_entry _ hc), Strand.enterTrap_priv .., Strand.enterTrap_tvec .., Strand.enterTrap_tscr0 .., Strand.enterTrap_tscr1 ..,
    Strand.enterTrap_live .., Strand.enterTrap_regs .., Strand.enterTrap_region .., Strand.enterTrap_burst .., Strand.enterTrap_fc .., Strand.enterTrap_resv ..⟩
  case livePc => exact (Strand.enterTrap_pc _ _ _ _ _ _ hl).trans (if_pos live)
  case liveFrame => exact (Strand.enterTrap_frame _ _ _ _ _ _ hl).trans (congrArg some (if_pos live))
  case deadPc => exact (Strand.enterTrap_pc _ _ _ _ _ _ hl).trans (if_neg (Bool.eq_false_iff.mp dead))
  case deadFrame =>
    exact (Strand.enterTrap_frame _ _ _ _ _ _ hl).trans ((congrArg some (if_neg (Bool.eq_false_iff.mp dead))).trans (Vector.getElem?_eq_getElem hl).symm)

end

section
variable {e : Enc} {s : State}

/-- TRAP raises its fault with its operand (R171). -/
theorem exec_trap (h : Active .trap e s) : exec (.trap e) s = .next (s.raise (s.issue .trap e) { cause := .trap, tval := zx64 ((s.issue .trap e).opB s) }) :=
  congrArg next ((strandOnly_clear h.toClear).trans (effect_trap h.active rfl))

/-- BRK raises its fault where no debugger is attached (R171). -/
theorem exec_brk_unattached (h : Active .brk e s) (unattached : s.mgmt.dbgAtt = false) :
    exec (.brk e) s = .next (s.raise (s.issue .brk e) { cause := .brk, tval := zx64 ((s.issue .brk e).opB s) }) :=
  congrArg next ((strandOnly_clear h.toClear).trans ((if_neg h.active).trans (if_pos (by rw [unattached]; rfl))))

/-- SYSC enters the handler at the next instruction, with its active lanes (R418). -/
theorem exec_sysc (h : Active .sysc e s) (may : MayTrap s s.cur) : exec (.sysc e) s =
    .next (s.onStrand s.cur fun st => st.enterTrap 0x32 (zx64 ((s.issue .sysc e).opB s)) (s.issue .sysc e).next (s.issue .sysc e).act false) :=
  congrArg next ((strandOnly_clear h.toClear).trans ((if_neg h.active).trans ((if_pos may.entry).trans (State.takeTrap_enters (w := s.cur) _ _ _ _ _ may.act))))

end

/-- The part of O22 about trap entry. -/
theorem entryOfATrap : Statements.EntryOfATrap := by
  intro e s st enters may
  have code {n : Instr} {o : Op} {cause : Cause} {tval : Dbl} (h : Issues o e s) (traps : Traps n o e s { cause := cause, tval := tval }) :
      EntersHandler n s cause.code tval (s.issue o e).pc (s.issue o e).group := entersHandler_of h.may cause.code_lt (traps may)
  refine ⟨fun h => ?trap, fun h unattached => ?brk, fun h => ?sysc⟩
  case trap => exact code h.toIssues (traps_of_raise (n := .trap e) h.toIssues (exec_trap h))
  case brk => exact code h.toIssues (traps_of_raise (n := .brk e) h.toIssues (exec_brk_unattached h unattached))
  case sysc => exact entersHandler_of (n := .sysc e) h.may (by decide) (exec_sysc h may)

/-- The entry that a double fault puts into the halt log (R416, R480). -/
def doubleFault (s : State) (i : Issue) (t : Trap) : List Nat :=
  haltEntry t.cause.code i.pc.toNat t.tval.toNat (s.tenantOf i.w.core i.w.slot) i.w.core i.w.slot i.w.strand 1 s.clock.gt

/-- A fault while the handler is active ends the strand (R416). -/
theorem raise_ends {s : State} {i : Issue} {t : Trap} (resident : (s.comb? i.w.core i.w.slot).isSome = true) (normal : (s.strand i.w).ahead = none)
    (entry : (s.strand i.w).entryFree = true) (active : (s.strand i.w).act = true) :
    s.raise i t = ((s.onStrand i.w Strand.exitAll).logHalt (doubleFault s i t)).count 10 1 := by
  have tenant : (s.onStrand i.w Strand.exitAll).tenantOf i.w.core i.w.slot = s.tenantOf i.w.core i.w.slot := by
    rw [State.tenantOf, State.onStrand, State.comb_onComb _ resident]
    rfl
  rw [State.raise, normal, State.takeTrap, doubleFault, ← tenant, ← State.onStrand_clock s i.w Strand.exitAll]
  simp [entry, active]

/-- The part of O22 about the double fault. -/
theorem doubleFaultEndsStrand : Statements.DoubleFaultEndsStrand := by
  intro e s h st i entry active
  have resident := State.resident_of_may h.may
  have ends := raise_ends (i := i) (t := { cause := .trap, tval := zx64 (i.opB s) }) resident h.normal entry active
  have strand : (s.onStrand s.cur Strand.exitAll).strand s.cur = st.exitAll := State.strand_onStrand _ resident
  have tail : (s.onStrand s.cur Strand.exitAll).mgmt.hlogTail = s.mgmt.hlogTail := by rw [State.onStrand_mgmt]
  have operand : (zx64 (i.opB s)).toNat = (i.opB s).toNat := BitVec.toNat_setWidth_of_le (by decide)
  refine ⟨_, (exec_trap h).trans (congrArg next ends), congrArg Strand.live strand, (congrArg Strand.trap strand).trans rfl, (congrArg Strand.regs strand).trans rfl,
    State.onStrand_memory .., congrArg (fun x : HostIf => 0 :: x.msix) (State.onStrand_host s s.cur Strand.exitAll), congrArg (· + 1) tail, ?log⟩
  case log =>
    rw [← operand]
    exact tail ▸ State.haltLog_logHalt _ _

/-- Settles O22: the three instructions by the rules of trap entry, and the double fault by what a fault does while the handler is active. -/
theorem trapEntry : Obligations.TrapEntry := ⟨entryOfATrap, doubleFaultEndsStrand⟩

end Sys2Proof.Machine
end

section
/-! What leaves a strand where it stands, with its registers and what it reads: accesses that reach their homes, requests at a port, drains, and lines written back. -/

namespace Sys2Proof.Machine
open Sys2Proof Sys2Proof.Safety

/-! Changes that touch no comb. -/

/-- The combs of every core, the work unit, memory and the clock are those that they were. -/
structure KeepsCombs (s t : State) : Prop where
  combs : ∀ c, (t.core c).combs = (s.core c).combs
  sched : t.sched = s.sched
  memory : t.memory = s.memory
  clock : t.clock = s.clock

theorem KeepsCombs.refl (s : State) : KeepsCombs s s := ⟨fun _ => rfl, rfl, rfl, rfl⟩

section
variable {s t u : State}

theorem KeepsCombs.trans (h : KeepsCombs s t) (h' : KeepsCombs t u) : KeepsCombs s u :=
  ⟨fun c => (h'.combs c).trans (h.combs c), h'.sched.trans h.sched, h'.memory.trans h.memory, h'.clock.trans h.clock⟩

theorem KeepsCombs.onCore (h : KeepsCombs s t) (c : Nat) {f : Core → Core} (hf : ∀ k, (f k).combs = k.combs) : KeepsCombs s (t.onCore c f) := by
  refine h.trans ⟨fun d => ?_, rfl, rfl, rfl⟩
  by_cases same : c = d
  · rw [← same, State.core_onCore, hf]
  · rw [State.core_onCore_ne t f same]

theorem KeepsCombs.comb? (h : KeepsCombs s t) (c n : Nat) : t.comb? c n = s.comb? c n := congrArg (Tab.get none · n) (h.combs c)

theorem KeepsCombs.comb (h : KeepsCombs s t) (c n : Nat) : t.comb c n = s.comb c n := by rw [State.comb, h.comb?]; rfl

theorem KeepsCombs.strand (h : KeepsCombs s t) (w : Sid) : t.strand w = s.strand w := by rw [State.strand, h.comb]; rfl

theorem KeepsCombs.spend (h : KeepsCombs s t) (c : Nat) (x : BitVec 16) (r : PortReq) (n : Nat) : KeepsCombs s (t.spend c x r n).2 := by
  unfold State.spend
  extract_lets shares k q b
  split
  · exact h
  · dsimp only
    exact h.onCore c fun _ => rfl

theorem KeepsCombs.onTarget (h : KeepsCombs s t) (v : Nat) (f : FabTarget → FabTarget) : KeepsCombs s (t.onTarget v f) := h.trans ⟨fun _ => rfl, rfl, rfl, rfl⟩

theorem KeepsCombs.transmit (h : KeepsCombs s t) (v : Nat) (p : FabRequest) : KeepsCombs s (t.transmit v p) := by
  unfold State.transmit
  split
  · exact h.trans ⟨fun _ => rfl, rfl, rfl, rfl⟩
  · exact h.trans ⟨fun _ => rfl, rfl, rfl, rfl⟩

theorem KeepsCombs.joinPorts : ∀ (l before : List FabOut) {t : State}, KeepsCombs s t → KeepsCombs s (t.joinPorts before l)
  | [], _, _, h => h
  | o :: l, before, t, h => by
    refine KeepsCombs.joinPorts l _ ?_
    dsimp only
    split
    · split
      · exact h.onCore _ fun _ => rfl
      · exact h
    · exact h

theorem KeepsCombs.pumpOne (h : KeepsCombs s t) (v : Nat) : KeepsCombs s (t.pumpOne v) := by
  unfold State.pumpOne
  extract_lets target sent joined pays
  have hj : KeepsCombs s joined := by
    unfold joined
    split
    · exact KeepsCombs.joinPorts _ _ h
    · exact h
  split
  · exact hj
  split
  · exact hj
  extract_lets pay t1 out gt base p out1
  have hpay : KeepsCombs s pay.2 := by
    unfold pay
    split
    · exact hj.spend ..
    · exact hj
  split
  · exact hpay.onTarget ..
  · exact (hpay.onTarget ..).transmit ..

theorem KeepsCombs.pumpN (v : Nat) : ∀ (n : Nat) {t : State}, KeepsCombs s t → KeepsCombs s (t.pumpN v n)
  | 0, _, h => h
  | n + 1, _, h => KeepsCombs.pumpN v n (h.pumpOne v)

/-- An entry of the write-combining buffer that begins to drain leaves its core, by the drains or the fabric (R196). -/
theorem KeepsCombs.drainEntry (h : KeepsCombs s t) (core id : Nat) : KeepsCombs s (t.drainEntry core id) := by
  unfold State.drainEntry
  split
  · exact h
  · have taken := h.onCore core (f := fun k => { k with wcb := k.wcb.erase ‹_› }) fun _ => rfl
    dsimp only
    split
    · exact KeepsCombs.pumpN _ _ (taken.onTarget ..)
    · exact taken.onCore core fun _ => rfl

theorem KeepsCombs.drainWhere (h : KeepsCombs s t) (w : Sid) (p : WcbEntry → Bool) : KeepsCombs s (t.drainWhere w p) := by
  have drains : ∀ (l : List WcbEntry) {t : State}, KeepsCombs s t → KeepsCombs s (l.foldl (fun t e => t.drainEntry w.core e.id) t) := fun l => by
    induction l with
    | nil => exact fun h => h
    | cons e l ih => exact fun h => ih (h.drainEntry ..)
  exact drains _ h

end

/-! Accesses that reach the homes of lines (R190, R193). -/

/-- The state with these owners, leases, eviction buffers and translations held. -/
def State.recalled (s : State) (owned : Tab Bool) (grants : Tab Nat) (evictions : List Eviction) (tlb : Tlb) : State :=
  { s with memory := { s.memory with owned := owned, grants := grants, evictions := evictions }, tlb := tlb }

section
variable (s : State)

theorem State.recall_recalled (line : Nat) : ∃ o g v, s.recall line = s.recalled o g v s.tlb := by
  unfold State.recall State.takeEvicted
  split
  · exact ⟨_, _, _, rfl⟩
  · split
    · exact ⟨_, _, _, rfl⟩
    · exact ⟨_, _, _, rfl⟩

theorem State.walked_recalled (u : Nat) (t : BitVec 16) (va : Nat) : ∃ o g v, s.walked u t va = s.recalled o g v s.tlb := by
  have recalls : ∀ (l : List Nat) (s : State), ∃ o g v, l.foldl State.recall s = s.recalled o g v s.tlb := fun l => by
    induction l with
    | nil => exact fun s => ⟨_, _, _, rfl⟩
    | cons line l ih =>
      intro s
      obtain ⟨o, g, v, first⟩ := s.recall_recalled line
      obtain ⟨o', g', v', rest⟩ := ih (s.recall line)
      exact ⟨o', g', v', rest.trans (by rw [first]; rfl)⟩
  exact recalls _ s

theorem State.remember_recalled (u : Nat) (t : BitVec 16) (va : Nat) : ∃ o g v b, s.remember u t va = s.recalled o g v b := by
  obtain ⟨o, g, v, walked⟩ := s.walked_recalled u t va
  unfold State.remember
  rw [walked]
  split
  · exact ⟨_, _, _, _, rfl⟩
  · exact ⟨_, _, _, _, rfl⟩

/-- The translations of one access. -/
theorem State.rememberAll_recalled (w : Sid) (x : Nat × Nat) : ∃ o g v b, s.rememberAll w .global [x] = s.recalled o g v b := s.remember_recalled ..

end

/-- Whether an access to a device line waits at its home depends on none of these. -/
theorem State.homeWaits_recalled {s : State} {line : Nat} (device : isHost line = false) (o : Tab Bool) (g : Tab Nat) (v : List Eviction) (b : Tlb) :
    (s.recalled o g v b).homeWaits line = s.homeWaits line := by
  rw [State.homeWaits, State.homeWaits, State.homeReady, State.homeReady, device]
  rfl

/-! A strand that stands. -/

/-- The strand has its live lanes, its PCs, its registers and its comb's words and tenant, and no queue, notify register or byte of memory has changed. -/
structure Unmoved (s t : State) (w : Sid) : Prop where
  live : (t.strand w).live = (s.strand w).live
  pcs : (t.strand w).pcs = (s.strand w).pcs
  regs : (t.strand w).regs = (s.strand w).regs
  words : SameWords (s.comb w.core w.slot) (t.comb w.core w.slot)
  tenant : t.tenantOf w.core w.slot = s.tenantOf w.core w.slot
  clock : t.clock = s.clock
  queues : t.sched.queues = s.sched.queues
  notify : t.sched.notify = s.sched.notify
  mem : t.memory.mem = s.memory.mem

section
variable {s t u : State} {w : Sid}

theorem Unmoved.trans (h : Unmoved s t w) (h' : Unmoved t u w) : Unmoved s u w where
  live := h'.live.trans h.live
  pcs := h'.pcs.trans h.pcs
  regs := h'.regs.trans h.regs
  words := h.words.trans h'.words
  tenant := h'.tenant.trans h.tenant
  clock := h'.clock.trans h.clock
  queues := h'.queues.trans h.queues
  notify := h'.notify.trans h.notify
  mem := h'.mem.trans h.mem

theorem Unmoved.resident (h : Unmoved s t w) (live : (s.strand w).live ≠ 0) : (t.comb? w.core w.slot).isSome = true :=
  State.resident_of_live (by rw [h.live]; exact live)

theorem Unmoved.fields (h : Unmoved s t w) : SameFields s t w := ⟨h.regs, h.words, congrArg (·.cycle) h.clock⟩

/-- Where neither cores, clock, work unit nor bytes have changed. -/
theorem Unmoved.of_cores (cores : t.cores = s.cores := by rfl) (clock : t.clock = s.clock := by rfl) (sched : t.sched = s.sched := by rfl)
    (mem : t.memory.mem = s.memory.mem := by rfl) : Unmoved s t w := by
  have comb : t.comb w.core w.slot = s.comb w.core w.slot := by rw [State.comb, State.comb?, State.core, cores]; rfl
  have strand : t.strand w = s.strand w := by rw [State.strand, comb]; rfl
  exact ⟨by rw [strand], by rw [strand], by rw [strand], by rw [comb]; exact ⟨rfl, rfl⟩, congrArg Comb.tenant comb, clock, by rw [sched], by rw [sched], mem⟩

theorem KeepsCombs.unmoved (h : KeepsCombs s t) : Unmoved s t w := by
  have comb := h.comb w.core w.slot
  have strand := h.strand w
  exact ⟨by rw [strand], by rw [strand], by rw [strand], by rw [comb]; exact ⟨rfl, rfl⟩, congrArg Comb.tenant comb, h.clock, by rw [h.sched], by rw [h.sched], by rw [h.memory]⟩

theorem Unmoved.onStrand (resident : (s.comb? w.core w.slot).isSome = true) {f : Strand → Strand} (live : (f (s.strand w)).live = (s.strand w).live := by rfl)
    (pcs : (f (s.strand w)).pcs = (s.strand w).pcs := by rfl) (regs : (f (s.strand w)).regs = (s.strand w).regs := by rfl) : Unmoved s (s.onStrand w f) w := by
  have strand := State.strand_onStrand f resident
  refine ⟨by rw [strand]; exact live, by rw [strand]; exact pcs, by rw [strand]; exact regs, State.words_onStrand f resident, ?tenant, State.onStrand_clock .., ?queues, ?notify, ?mem⟩
  case tenant => rw [State.tenantOf, State.onStrand, State.comb_onComb _ resident]; rfl
  case queues => rw [State.onStrand_sched]
  case notify => rw [State.onStrand_sched]
  case mem => rw [State.onStrand_memory]

/-! A line written back (R349). -/

/-- The cores of a state, with every comb changed by `f`: a resident comb stays in its slot. -/
theorem State.comb?_mapCombs {f : Comb → Comb} {F : Nat → Core → Core} {c n : Nat} {k : Comb} (hF : ∀ c x, (F c x).combs = Tab.mapVals none (fun _ y => y.map f) x.combs)
    (h : s.comb? c n = some k) : Tab.get none (Tab.get {} (Tab.mapVals {} F s.cores) c).combs n = some (f k) := by
  have listed : Tab.get none (s.core c).combs n = some k := h
  have combs : Tab.get none (F c (s.core c)).combs n = some (f k) := by
    rw [hF, Tab.get_mapVals, listed]
    · rfl
    · rw [listed]; exact Option.some_ne_none _
    · rw [listed]; exact Option.some_ne_none _
  rw [Tab.get_mapVals]
  · exact combs
  · intro none
    rw [State.core, none] at listed
    exact absurd listed (by simp [Tab.get])
  · intro none
    rw [State.core, none] at combs
    exact absurd combs (by simp [Tab.get])

/-- The terms of an access change nothing of a strand but what it has in flight. -/
theorem Strand.foldl_termOf {α : Type} (id : α → Nat) (now : Terms) : ∀ (l : List α) (st : Strand), ∃ fl, l.foldl (fun (st : Strand) a => st.termOf (id a) now) st = { st with flight := fl }
  | [], st => ⟨st.flight, rfl⟩
  | a :: l, st => by
    obtain ⟨fl, rest⟩ := Strand.foldl_termOf id now l (st.termOf (id a) now)
    exact ⟨fl, rest⟩

theorem State.lineCleaned_comb? {c n : Nat} {k : Comb} (line : Nat) (h : s.comb? c n = some k) :
    ∃ g : Strand → Strand, (∀ st, ∃ fl, g st = { st with flight := fl }) ∧
      ∃ reqs, (s.lineCleaned line).comb? c n = some { k with strands := Tab.mapVals {} (fun _ st => g st) k.strands, reqs := reqs } := by
  generalize cleaned : s.lineCleaned line = t
  unfold State.lineCleaned at cleaned
  extract_lets gt clean now strand req comb drain cell swarm at cleaned
  subst cleaned
  refine ⟨strand, fun st => ?_, k.reqs.map req, ?_⟩
  · exact Strand.foldl_termOf (fun a : Atomic => a.id) now _ _
  · rw [State.comb?, State.core]
    dsimp only [clean]
    exact State.comb?_mapCombs (s := s) (f := comb) (fun _ _ => rfl) h

theorem Unmoved.lineCleaned (live : (s.strand w).live ≠ 0) (line : Nat) : Unmoved s (s.lineCleaned line) w := by
  obtain ⟨k, comb⟩ := Option.isSome_iff_exists.mp (State.resident_of_live live)
  obtain ⟨g, flight, reqs, comb'⟩ := State.lineCleaned_comb? line comb
  have before : s.comb w.core w.slot = k := by rw [State.comb, comb]; rfl
  have after : (s.lineCleaned line).comb w.core w.slot = { k with strands := Tab.mapVals {} (fun _ st => g st) k.strands, reqs := reqs } := by rw [State.comb, comb']; rfl
  obtain ⟨fl, changed⟩ := flight (s.strand w)
  have strand : (s.lineCleaned line).strand w = { s.strand w with flight := fl } := by
    have listed : Tab.get {} k.strands w.strand = s.strand w := by rw [State.strand, before]
    rw [State.strand, after, Tab.get_mapVals, listed, changed]
    · exact fun none => live (by rw [← listed, none])
    · rw [listed, changed]
      exact fun none => live (congrArg Strand.live none)
  exact ⟨by rw [strand], by rw [strand], by rw [strand], by rw [before, after]; exact ⟨rfl, rfl⟩, by rw [State.tenantOf, State.tenantOf, before, after], rfl, rfl, rfl, rfl⟩

/-! Lines read at their homes (R193, log entry 95). -/

theorem Unmoved.displaceL2 (live : (s.strand w).live ≠ 0) (line : Nat) : Unmoved s (s.displaceL2 line) w := by
  unfold State.displaceL2
  split
  · refine .of_cores (mem := ?_)
    show (if _ then s.memory.evict line else s.memory).mem = _
    split <;> rfl
  · refine Unmoved.trans (t := if _ then s else s.lineCleaned line) ?_ .of_cores
    split
    · exact .of_cores
    · exact .lineCleaned live line

theorem Unmoved.atHome (live : (s.strand w).live ≠ 0) (line : Nat) : Unmoved s (s.atHome line) w := by
  obtain ⟨o, g, v, recalled⟩ := s.recall_recalled line
  have first : Unmoved s (s.recall line) w := by rw [recalled]; exact .of_cores
  refine first.trans ?_
  have live : ((s.recall line).strand w).live ≠ 0 := by rw [first.live]; exact live
  unfold State.atHome State.fillL2
  split
  · exact .of_cores
  · have room : Unmoved (s.recall line) ((s.recall line).roomL2 line) w := by
      unfold State.roomL2
      dsimp only
      split
      · exact .of_cores
      · split
        · exact .displaceL2 live _
        · exact .of_cores
    dsimp only
    split
    · exact room.trans .of_cores
    · exact room

/-- The tokens of an instruction that stands, spent at its port (R368). -/
theorem Unmoved.payIssue (live : (s.strand w).live ≠ 0) (lines : List Nat) : Unmoved s (s.payIssue w lines).2 w := by
  unfold State.payIssue
  extract_lets owed p
  have paid : KeepsCombs s p.2 := (KeepsCombs.refl s).spend ..
  split
  · exact .of_cores
  · dsimp only
    refine paid.unmoved.trans ?_
    exact .onStrand (paid.unmoved.resident live)

/-- Tokens spent change of a core its port and the strand that spends them. -/
theorem State.core_payIssue (s : State) (w : Sid) (lines : List Nat) :
    ∃ shares combs, (s.payIssue w lines).2.core w.core = { s.core w.core with shares := shares, combs := combs } := by
  have spent (r : PortReq) (n : Nat) : ∃ shares, (s.spend w.core (s.tenantOf w.core w.slot) r n).2.core w.core = { s.core w.core with shares := shares } := by
    unfold State.spend
    extract_lets shares k q b
    split
    · exact ⟨_, rfl⟩
    · exact ⟨_, State.core_onCore ..⟩
  unfold State.payIssue
  extract_lets owed p
  split
  · exact ⟨_, _, rfl⟩
  · obtain ⟨shares, port⟩ := spent (.issue w) owed.length
    obtain ⟨combs, strand⟩ := p.2.core_onComb w.core w.slot _ w.core
    exact ⟨shares, combs, strand.trans (by rw [port])⟩

/-- What a strand reads of its own buffered bytes does not depend on the tokens that it has spent. -/
theorem State.ownRead_payIssue (s : State) (live : (s.strand w).live ≠ 0) (lines : List Nat) (va pa n : Nat) :
    (s.payIssue w lines).2.ownRead w va pa n = s.ownRead w va pa n := by
  obtain ⟨shares, combs, core⟩ := s.core_payIssue w lines
  have own (a : Nat) : (s.payIssue w lines).2.ownByte w a = s.ownByte w a := by rw [State.ownByte, core]; rfl
  simp only [State.ownRead, own, (Unmoved.payIssue live lines).mem]

end

end Sys2Proof.Machine
end

section
/-! Proofs about the enqueuing instructions, WAIT, DONE and CELLRD at issue (O43). -/

namespace Sys2Proof.Machine
open Sys2Proof Sys2Proof.Safety

/-! Standing until the terms have passed (R328). -/

section
variable {s : State} {w : Sid} (sc : Scope) (reg : Nat)

/-- A token begun drains entries of the strand and joins what the strand has in flight (R208). -/
theorem State.strand_beginToken (resident : (s.comb? w.core w.slot).isSome = true) : ∃ fl, (s.beginToken w sc reg).strand w = { s.strand w with flight := fl } := by
  have drains := (KeepsCombs.refl s).drainWhere w fun e => sc == .system || !e.fabric
  rw [State.beginToken, State.strand_onStrand _ (by rw [drains.comb?]; exact resident), drains.strand]
  exact ⟨_, rfl⟩

theorem Unmoved.beginToken (resident : (s.comb? w.core w.slot).isSome = true) : Unmoved s (s.beginToken w sc reg) w := by
  have drains := (KeepsCombs.refl s).drainWhere w fun e => sc == .system || !e.fabric
  unfold State.beginToken
  refine drains.unmoved.trans ?_
  exact .onStrand (by rw [drains.comb?]; exact resident)

end

section
variable {s : State} {i : Issue} (job : Job) (dest : Nat)

/-- The strand closes its region, begins its token and waits. -/
theorem State.strand_holdJob (live : (s.strand i.w).live ≠ 0) : ∃ fl, (s.holdJob i job dest).strand i.w =
    { s.strand i.w with region := none, flight := fl, sched := { (s.strand i.w).sched with wait := some (.terms job dest), waitLen := i.e.bytes, paid := [], owes := 0 } } := by
  have resident := State.resident_of_live live
  have closed := State.strand_onStrand Strand.closeRegion resident
  obtain ⟨fl, begun⟩ := State.strand_beginToken .device 64 (State.resident_onStrand Strand.closeRegion resident)
  rw [State.holdJob, State.strand_onStrand _ (State.resident_of_live (by rw [begun, closed]; exact live)), begun, closed]
  exact ⟨fl, rfl⟩

theorem Unmoved.holdJob (live : (s.strand i.w).live ≠ 0) : Unmoved s (s.holdJob i job dest) i.w := by
  have resident := State.resident_of_live live
  have closes : Unmoved s (s.onStrand i.w Strand.closeRegion) i.w := .onStrand resident
  have begins := closes.trans (.beginToken .device 64 (State.resident_onStrand Strand.closeRegion resident))
  unfold State.holdJob
  refine begins.trans ?_
  exact .onStrand (begins.resident live)

end

/-- The instruction stands and waits, its region closed, with nothing enqueued, no register written and memory unchanged. -/
def StandsAt (n : Instr) (e : Enc) (s : State) (x : Wait) : Prop := let w := s.cur; let st := s.strand w
  Becomes n s fun t => (t.strand w).sched.wait = some x ∧ (t.strand w).sched.waitLen = e.bytes ∧ (t.strand w).region = none ∧
    (t.strand w).pcs = st.pcs ∧ (t.strand w).regs = st.regs ∧ t.sched.queues = s.sched.queues ∧ t.sched.notify = s.sched.notify ∧ t.memory.mem = s.memory.mem

/-- The checks have left the strand where it stood, and the instruction holds its job. -/
theorem standsAt_of_holdJob {n : Instr} {o : Op} {e : Enc} {s u : State} {job : Job} {dest : Nat} (live : (s.strand s.cur).live ≠ 0) (checked : Unmoved s u s.cur)
    (hn : exec n s = .next (u.holdJob (s.issue o e) job dest)) : StandsAt n e s (.terms job dest) := by
  have live' : (u.strand s.cur).live ≠ 0 := by rw [checked.live]; exact live
  obtain ⟨fl, strand⟩ := State.strand_holdJob (i := s.issue o e) job dest live'
  have holds : Unmoved u (u.holdJob (s.issue o e) job dest) s.cur := .holdJob (i := s.issue o e) job dest live'
  have stands := checked.trans holds
  generalize u.holdJob (s.issue o e) job dest = t at hn strand stands
  have strand : t.strand s.cur = _ := strand
  refine ⟨t, hn, ?_, ?_, ?_, stands.pcs, stands.regs, stands.queues, stands.notify, stands.mem⟩
  · rw [strand]
  · rw [strand]; rfl
  · rw [strand]

/-! The checks of a record, of a swarm descriptor and of a notify register (R327, R331). -/

theorem isHost_lineOf {pa : Nat} (h : isDevice pa = true) : isHost (lineOf pa) = false := by
  have low : pa < 2 ^ 46 := of_decide_eq_true h
  rw [isHost, lineOf, Bool.and_eq_false_iff]
  exact .inl (decide_eq_false (by omega))

/-- The state in which a record's check ends: its translation is held, its token spent, and its line read at its home. -/
def State.recordRead (s : State) (w : Sid) (va pa : Nat) : State := ((s.rememberAll w .global [(32, va)]).payIssue w [lineOf pa]).2.atHome (lineOf pa)

section
variable {s : State} {i : Issue} {va pa : Nat}

theorem Unmoved.rememberAll (w : Sid) (x : Nat × Nat) : Unmoved s (s.rememberAll w .global [x]) w := by
  obtain ⟨o, g, v, b, recalled⟩ := s.rememberAll_recalled w x
  rw [recalled]
  exact .of_cores

theorem Unmoved.recordRead {w : Sid} (live : (s.strand w).live ≠ 0) (va pa : Nat) : Unmoved s (s.recordRead w va pa) w := by
  have translated : Unmoved s _ w := .rememberAll w (32, va)
  have live₁ : ((s.rememberAll w .global [(32, va)]).strand w).live ≠ 0 := by rw [translated.live]; exact live
  have paid := translated.trans (.payIssue live₁ [lineOf pa])
  exact paid.trans (.atHome (by rw [paid.live]; exact live) _)

/-- Whether a device line waits at its home does not depend on translations. -/
theorem State.homeWaits_rememberAll {w : Sid} {x : Nat × Nat} (device : isDevice pa = true) : (s.rememberAll w .global [x]).homeWaits (lineOf pa) = s.homeWaits (lineOf pa) := by
  obtain ⟨o, g, v, b, recalled⟩ := s.rememberAll_recalled w x
  rw [recalled, State.homeWaits_recalled (isHost_lineOf device)]

theorem State.ownRead_rememberAll {w : Sid} {x : Nat × Nat} (va pa n : Nat) : (s.rememberAll w .global [x]).ownRead w va pa n = s.ownRead w va pa n := by
  obtain ⟨o, g, v, b, recalled⟩ := s.rememberAll_recalled w x
  rw [recalled]
  rfl

/-- A record that passes is handed on. -/
theorem checkRecord_passes (live : (s.strand i.w).live ≠ 0) (act : Nat → Nat → State → State) (h : HasRecord s i va pa) :
    ∃ r, s.checkRecord i va act = act pa r (s.recordRead i.w va pa) := by
  have translated : Unmoved s _ i.w := .rememberAll i.w (32, va)
  have live₁ : ((s.rememberAll i.w .global [(32, va)]).strand i.w).live ≠ 0 := by rw [translated.live]; exact live
  have ready : (s.rememberAll i.w .global [(32, va)]).homeWaits (lineOf pa) = false := (State.homeWaits_rememberAll h.device).trans h.ready
  have valid : recordBad (((s.rememberAll i.w .global [(32, va)]).payIssue i.w [lineOf pa]).2.ownRead i.w va pa 64) = none := by
    rw [State.ownRead_payIssue _ live₁, State.ownRead_rememberAll]
    exact h.valid
  refine ⟨((s.rememberAll i.w .global [(32, va)]).payIssue i.w [lineOf pa]).2.ownRead i.w va pa 64, ?_⟩
  rw [State.checkRecord, access_reaches _ h.reaches]
  dsimp only
  rw [h.device, ready, h.token, valid]
  rfl

/-- A swarm descriptor that passes is handed on, its line's token spent. -/
theorem checkSwarm_passes {r : State} (hr : r = s.rememberAll i.w .global [(32, va)]) (live : (r.strand i.w).live ≠ 0) (act : Nat → State → State)
    (reaches : Reaches s i .global [(32, va)] { size := 16, acc := .write, use := .write, more := noMore } [{ lane := 32, addr := va, pa := pa }])
    (readable : ∃ x, r.translate i.w.core (r.tenantOf i.w.core i.w.slot) i.st.trap.priv .read va = .ok x) (device : isDevice pa = true) (ready : r.homeWaits (lineOf pa) = false)
    (token : (r.payIssue i.w [lineOf pa]).1 = true) (low : bits (r.ownRead i.w va pa 16) 63 42 = 0) (high : bits (r.ownRead i.w va pa 16) 127 64 = 0) :
    s.checkSwarm i va act = act pa (r.payIssue i.w [lineOf pa]).2 := by
  obtain ⟨x, translates⟩ := readable
  rw [State.checkSwarm, access_reaches _ reaches, ← hr]
  dsimp only
  rw [translates, device, ready, token, State.ownRead_payIssue _ live, low, high]
  rfl

end

section
variable {s t : State} {w : Sid} {v : Word}

theorem notifyTrap_bound (h : v.toNat ≤ 255 ∧ (s.notifyOf v.toNat).bound = some (s.tenantOf w.core w.slot)) : s.notifyTrap w v = none :=
  if_neg fun bad => bad.elim (fun high => by omega) fun other => other h.2

theorem notifyTrap_unbound (h : ¬ (v.toNat ≤ 255 ∧ (s.notifyOf v.toNat).bound = some (s.tenantOf w.core w.slot))) :
    s.notifyTrap w v = some { cause := .illegalOperand, tval := zx64 v } :=
  if_pos ((Classical.not_and_iff_not_or_not.mp h).imp_left fun high => by omega)

theorem Unmoved.notifyTrap (h : Unmoved s t w) (v : Word) : t.notifyTrap w v = s.notifyTrap w v := by
  rw [State.notifyTrap, State.notifyTrap, State.notifyOf, State.notifyOf, h.notify, h.tenant]

end

/-! DONE (R336). -/

section
variable {s : State} {w : Sid}

@[simp] theorem State.markDone_memory (s : State) (w : Sid) : (s.markDone w).memory = s.memory := by
  unfold State.markDone
  dsimp only
  split
  · rfl
  · exact State.onStrand_memory ..

/-- DONE marks the strand of a swarm's cell, once, with a token for the accesses before. -/
theorem State.strand_markDone (resident : (s.comb? w.core w.slot).isSome = true) : ∃ l, (s.markDone w).strand w = { s.strand w with
      sched := { (s.strand w).sched with done := (s.strand w).sched.done || (s.comb w.core w.slot).swarm.isSome }
      flight := { (s.strand w).flight with tokens := (s.strand w).flight.tokens ++ l } } ∧
    ((s.strand w).sched.done = false → (s.comb w.core w.slot).swarm.isSome = true → ∃ x ∈ l, x.reg = 66) := by
  unfold State.markDone
  extract_lets k sc ids
  by_cases marked : (s.strand w).sched.done = true ∨ k.swarm = none
  · rw [if_pos (by simpa using marked)]
    refine ⟨[], ?same, fun fresh swarm => ?fresh⟩
    case same =>
      have done : ((s.strand w).sched.done || k.swarm.isSome) = (s.strand w).sched.done := by
        obtain done | none := marked
        · rw [done]; rfl
        · rw [none]; exact Bool.or_false _
      rw [done, List.append_nil]
    case fresh =>
      obtain done | none := marked
      · exact absurd done (by rw [fresh]; decide)
      · exact absurd swarm (by rw [none]; decide)
  · have swarm : k.swarm.isSome = true := Option.isSome_iff_ne_none.mpr fun none => marked (.inr none)
    rw [if_neg (by simpa using marked), State.strand_onStrand _ resident, swarm, Bool.or_true]
    exact ⟨[_], rfl, fun _ _ => ⟨_, List.mem_singleton_self _, rfl⟩⟩

end

/-! Each instruction at issue. -/

section
variable {e : Enc} {s : State} {n : Instr} {o : Op} {va pa : Nat}

/-- An instruction whose record passes, and that holds its job then, stands. -/
theorem standsAt_of_record {job : Job} {dest : Nat} {act : Nat → Nat → State → State} (h : Active o e s) (record : HasRecord s (s.issue o e) va pa)
    (hn : exec n s = .next (s.checkRecord (s.issue o e) va act)) (holds : ∀ r, act pa r (s.recordRead s.cur va pa) = (s.recordRead s.cur va pa).holdJob (s.issue o e) job dest) :
    StandsAt n e s (.terms job dest) := by
  have live := State.live_of_may h.may
  obtain ⟨r, passes⟩ := checkRecord_passes (i := s.issue o e) live act record
  exact standsAt_of_holdJob live (.recordRead live va pa) (hn.trans (congrArg next (passes.trans (holds r))))

theorem spawn_stands (h : Active .spawn e s) (record : HasRecord s (s.issue .spawn e) ((s.issue .spawn e).pairA s) pa) :
    StandsAt (.spawn e) e s (.terms (.spawn ((s.issue .spawn e).pairA s) pa) e.d.toNat) :=
  standsAt_of_record h record (congrArg next (strandOnly_clear h.toClear)) fun _ => rfl

theorem exec_spawnn (h : Clear .spawnn e s) : exec (.spawnn e) s = .next (let i := s.issue .spawnn e; let va := i.pairA s; let n := (i.opB s).toNat; let dva := (s.readPair s.cur e.c.toNat).toNat
    if n = 0 then s.raise i (Trap.of .illegalOperand 0) else s.checkRecord i va fun pa _ s => s.checkSwarm i dva fun dpa s => s.holdJob i (.spawnn va pa n dva dpa) e.d.toNat) :=
  congrArg next (strandOnly_clear h)

theorem exec_join (h : Clear .join e s) : exec (.join e) s = .next (let i := s.issue .join e; let va := if e.sub = 1 then i.pairA s else (s.comb s.cur.core s.cur.slot).parent
    if e.sub = 0 ∧ va = 0 then s.raise i (Trap.of .illegalOperand 0) else s.checkRecord i va fun pa _ s => s.holdJob i (.join va pa) e.d.toNat) :=
  congrArg next (strandOnly_clear h)

theorem park_stands (h : Active .park e s) (record : HasRecord s (s.issue .park e) ((s.issue .park e).pairA s) pa) (bound : s.notifyTrap s.cur ((s.issue .park e).opB s) = none) :
    StandsAt (.park e) e s (.terms (.park ((s.issue .park e).pairA s) pa ((s.issue .park e).opB s).toNat ((s.issue .park e).uC s)) e.d.toNat) := by
  have read : Unmoved s _ s.cur := .recordRead (State.live_of_may h.may) ((s.issue .park e).pairA s) pa
  have opB : (s.issue .park e).opB _ = (s.issue .park e).opB s := read.fields.opB
  have uC : (s.issue .park e).uC _ = (s.issue .park e).uC s := read.fields.readS _
  refine standsAt_of_record h record (congrArg next (strandOnly_clear h.toClear)) fun r => ?_
  rw [opB, uC, show (s.issue .park e).w = s.cur from rfl, read.notifyTrap, bound]

theorem exec_notify (h : Clear .notify e s) : exec (.notify e) s = .next (let i := s.issue .notify e
    match s.notifyTrap s.cur (i.opB s) with
    | some t => s.raise i t
    | none => s.holdJob i (.notify (i.opB s).toNat (e.sub == 1)) e.d.toNat) :=
  (congrArg next (strandOnly_clear h)).trans rfl

/-- The strand stands at its instruction of `n` bytes and waits there. -/
def Strand.standAt (x : Wait) (n : Nat) (st : Strand) : Strand := { st with sched := { st.sched with wait := some x, waitLen := n } }

theorem exec_wait (h : Active .wait e s) : exec (.wait e) s = .next (let i := s.issue .wait e
    match s.notifyTrap s.cur (i.opB s) with
    | some t => s.raise i t
    | none => (s.onStrand s.cur Strand.closeRegion).onStrand s.cur (Strand.standAt (.notify (i.opB s).toNat (i.uC s) (i.uA s) e.d.toNat) e.bytes)) :=
  (congrArg next ((strandOnly_clear h.toClear).trans (if_neg h.active))).trans rfl

/-- WAIT at a register of the tenant stands there. -/
theorem wait_stands (h : Active .wait e s) (bound : s.notifyTrap s.cur ((s.issue .wait e).opB s) = none) :
    StandsAt (.wait e) e s (.notify ((s.issue .wait e).opB s).toNat ((s.issue .wait e).uC s) ((s.issue .wait e).uA s) e.d.toNat) := by
  have resident := State.resident_of_may h.may
  have closed := State.resident_onStrand Strand.closeRegion resident
  have hn := exec_wait h
  dsimp only at hn
  rw [bound] at hn
  have stood (x : Wait) : ((s.onStrand s.cur Strand.closeRegion).onStrand s.cur (Strand.standAt x e.bytes)).strand s.cur = (s.strand s.cur).closeRegion.standAt x e.bytes := by
    rw [State.strand_onStrand _ closed, State.strand_onStrand _ resident]
  have stands (x : Wait) : Unmoved s ((s.onStrand s.cur Strand.closeRegion).onStrand s.cur (Strand.standAt x e.bytes)) s.cur :=
    (Unmoved.onStrand (f := Strand.closeRegion) resident).trans (.onStrand closed)
  refine ⟨_, hn, congrArg (fun st : Strand => st.sched.wait) (stood _), congrArg (fun st : Strand => st.sched.waitLen) (stood _), congrArg Strand.region (stood _), (stands _).pcs,
    (stands _).regs, (stands _).queues, (stands _).notify, (stands _).mem⟩

/-- SPAWNN past the checks of its record and of its swarm descriptor. -/
theorem spawnn_stands {dpa : Nat} (h : Active .spawnn e s) (cells : ((s.issue .spawnn e).opB s).toNat ≠ 0) (record : HasRecord s (s.issue .spawnn e) ((s.issue .spawnn e).pairA s) pa)
    {u r : State} (hu : u = s.recordRead s.cur ((s.issue .spawnn e).pairA s) pa) (hr : r = u.rememberAll s.cur .global [(32, (s.readPair s.cur e.c.toNat).toNat)])
    (reaches : Reaches u (s.issue .spawnn e) .global [(32, (s.readPair s.cur e.c.toNat).toNat)] { size := 16, acc := .write, use := .write, more := noMore }
      [{ lane := 32, addr := (s.readPair s.cur e.c.toNat).toNat, pa := dpa }])
    (readable : ∃ x, r.translate s.cur.core (s.tenantOf s.cur.core s.cur.slot) (s.strand s.cur).trap.priv .read (s.readPair s.cur e.c.toNat).toNat = .ok x) (device : isDevice dpa = true)
    (ready : r.homeWaits (lineOf dpa) = false) (token : (r.payIssue s.cur [lineOf dpa]).1 = true) (low : bits (r.ownRead s.cur (s.readPair s.cur e.c.toNat).toNat dpa 16) 63 42 = 0)
    (high : bits (r.ownRead s.cur (s.readPair s.cur e.c.toNat).toNat dpa 16) 127 64 = 0) :
    StandsAt (.spawnn e) e s (.terms (.spawnn ((s.issue .spawnn e).pairA s) pa ((s.issue .spawnn e).opB s).toNat (s.readPair s.cur e.c.toNat).toNat dpa) e.d.toNat) := by
  have live := State.live_of_may h.may
  have read : Unmoved s u s.cur := by rw [hu]; exact .recordRead live _ pa
  have translated : Unmoved u r s.cur := by rw [hr]; exact .rememberAll ..
  have live' : (r.strand s.cur).live ≠ 0 := by rw [(read.trans translated).live]; exact live
  rw [← (read.trans translated).tenant] at readable
  have paid := (read.trans translated).trans (.payIssue live' [lineOf dpa])
  have passes (act : Nat → State → State) := checkSwarm_passes (i := s.issue .spawnn e) hr live' act reaches readable device ready token low high
  obtain ⟨x, checked⟩ := checkRecord_passes (i := s.issue .spawnn e) live _ record
  subst hu
  have hn : exec (.spawnn e) s = .next ((r.payIssue s.cur [lineOf dpa]).2.holdJob (s.issue .spawnn e) _ e.d.toNat) :=
    (exec_spawnn h.toClear).trans (congrArg next ((if_neg cells).trans (checked.trans (passes _))))
  exact standsAt_of_holdJob live paid hn

/-- Moving on changes neither whether a strand has executed DONE nor what it has in flight. -/
theorem State.flight_advance {i : Issue} (h : (s.comb? i.w.core i.w.slot).isSome = true) :
    ((s.advance i).strand i.w).sched.done = (s.strand i.w).sched.done ∧ ((s.advance i).strand i.w).flight = (s.strand i.w).flight := by
  obtain ⟨a, marked⟩ := (((s.strand i.w).move i.group fun _ => i.next).account i.st s.clock.cycle).markAhead_cases s i
  rw [State.advance, State.strand_moveTo _ h, marked]
  simp [Strand.account]

/-- DONE (R336). -/
theorem done_marks (h : Active .done e s) : Becomes (.done e) s fun t => (t.strand s.cur).regs = (s.strand s.cur).regs ∧ (t.strand s.cur).region = none ∧
    (t.strand s.cur).sched.done = ((s.strand s.cur).sched.done || (s.comb s.cur.core s.cur.slot).swarm.isSome) ∧ t.memory = s.memory ∧
    ((s.strand s.cur).sched.done = false → (s.comb s.cur.core s.cur.slot).swarm.isSome = true → ∃ x ∈ (t.strand s.cur).flight.tokens, x.reg = 66) := by
  have resident := State.resident_of_may h.may
  have closed := State.strand_onStrand Strand.closeRegion resident
  have resident₁ := State.resident_onStrand Strand.closeRegion resident
  obtain ⟨l, marked, token⟩ := State.strand_markDone resident₁
  have swarm : ((s.onStrand s.cur Strand.closeRegion).comb s.cur.core s.cur.slot).swarm = (s.comb s.cur.core s.cur.slot).swarm := by
    rw [State.onStrand, State.comb_onComb _ resident]
  rw [closed, swarm] at marked token
  have resident₂ : (((s.onStrand s.cur Strand.closeRegion).markDone s.cur).comb? s.cur.core s.cur.slot).isSome = true :=
    State.resident_of_live (by rw [marked]; exact State.live_of_may h.may)
  obtain ⟨region, -, regs⟩ := State.strand_advance (i := s.issue .done e) resident₂
  obtain ⟨done, flight⟩ := State.flight_advance (i := s.issue .done e) resident₂
  rw [show (s.issue .done e).w = s.cur from rfl, marked] at region regs done flight
  refine ⟨_, completes_closing h rfl rfl rfl, regs, region, done, ?memory, fun fresh swarm => ?token⟩
  case memory => rw [State.advance_memory, State.markDone_memory, State.onStrand_memory]
  case token =>
    obtain ⟨x, listed, reg⟩ := token fresh swarm
    exact ⟨x, (congrArg (x ∈ ·.tokens) flight).mpr (List.mem_append_right _ listed), reg⟩

theorem cellrd_reads (h : Active .cellrd e s) : Sets (.cellrd e) .cellrd e s fun _ => s.cellItem s.cur e.sub.toNat := sets_of h rfl rfl rfl rfl

end

/-- Settles O43: each enqueuing instruction past its checks leaves its strand where it stood, and begins to wait for its terms. -/
theorem workIsHeld : Obligations.WorkIsHeld := by
  intro e s pa w st k stands bound d
  refine ⟨fun h record => spawn_stands h record, fun h => ⟨fun none => ?spawnnNone, fun dpa cells record reaches readable device ready token low high => ?spawnn⟩,
    fun h => ⟨fun sub none => ?joinNone, fun named record => ?join⟩, fun h record bound => park_stands h record (notifyTrap_bound bound),
    fun h => ⟨fun bound => ?notify, fun unbound => ?notifyTraps⟩, fun h => ⟨fun bound => wait_stands h (notifyTrap_bound bound), fun unbound => ?waitTraps⟩, done_marks, cellrd_reads⟩
  case spawnnNone => exact traps_of_raise h.toIssues ((exec_spawnn h.toClear).trans (congrArg next (if_pos none)))
  case spawnn =>
    obtain ⟨t, hn, wait, -, rest⟩ := spawnn_stands h cells record rfl rfl reaches readable device ready token low high
    exact ⟨t, hn, wait, rest⟩
  case joinNone => exact traps_of_raise h.toIssues ((exec_join h.toClear).trans (congrArg next (if_pos ⟨sub, none⟩)))
  case join => exact standsAt_of_record h record ((exec_join h.toClear).trans (congrArg next (if_neg named))) fun _ => rfl
  case notify =>
    have hn := exec_notify h.toClear
    dsimp only at hn
    rw [notifyTrap_bound bound] at hn
    exact standsAt_of_holdJob (State.live_of_may h.may) .of_cores hn
  case notifyTraps =>
    have hn := exec_notify h.toClear
    dsimp only at hn
    rw [notifyTrap_unbound unbound] at hn
    exact traps_of_raise h.toIssues hn
  case waitTraps =>
    have hn := exec_wait h
    dsimp only at hn
    rw [notifyTrap_unbound unbound] at hn
    exact traps_of_raise h.toIssues hn

end Sys2Proof.Machine
end

section
/-! The refutation of O45: a launch that the fill of the record's line moves to another slot, in a state whose core lists an empty slot before a comb of the same slot. -/

namespace Sys2Proof.Machine
open Sys2Proof

/-- The fill of a line into a full slice of dirty lines, whose pages are not resident, writes one of them back (R348). -/
theorem State.fillL2_writes_back {s : State} {line : Nat} (device : isDevice line = true) (absent : s.inL2 line = false)
    (full : (s.sliceLines (homeDie line) (homeSlice line)).length = l2Lines)
    (gives : ∀ a ∈ s.sliceLines (homeDie line) (homeSlice line), s.mayDisplace a = true ∧ isHost a = false ∧ (s.page a).resident = false ∧ s.isDirty a = true ∧ s.isOwned a = false) :
    ∃ v, (s.fillL2 line).cores = (s.lineCleaned v).cores := by
  have all : (s.sliceLines (homeDie line) (homeSlice line)).filter s.mayDisplace = s.sliceLines (homeDie line) (homeSlice line) :=
    List.filter_eq_self.mpr fun a listed => (gives a listed).1
  obtain ⟨v, listed, gone⟩ := displaced_mem (l := s.sliceLines (homeDie line) (homeSlice line)) (by rw [full]; decide) s.clock.turn
  obtain ⟨-, host, away, dirty, owned⟩ := gives v listed
  have room : (s.roomL2 line).cores = (s.lineCleaned v).cores := by
    rw [State.roomL2, all, gone, if_neg (by simp [absent, full])]
    dsimp only
    rw [State.displaceL2, host, away, dirty, owned]
    rfl
  refine ⟨v, ?_⟩
  rw [State.fillL2, if_neg (by simp [device, absent]), ← room]
  dsimp only
  split <;> rfl

/-- A launch leaves an occupied slot as it is (R324). -/
theorem State.comb?_launch {s : State} {c n qn l : Nat} {e : QEntry} {k : Comb} (occupied : s.comb? c n = some k) : (s.launch c qn l e).comb? c n = some k := by
  unfold State.launch
  extract_lets q core
  split
  · exact occupied
  · next frames base slot placed =>
    have free : Tab.get none (s.core c).combs slot = none := by
      unfold Core.place at placed
      split at placed
      · next found =>
        obtain ⟨-, -, rfl⟩ := placed
        exact Option.isNone_iff_eq_none.mp (List.find?_some (p := fun n => (Tab.get none core.combs n).isNone) found)
      · exact absurd placed (Option.some_ne_none _).symm
    have other : slot ≠ n := fun same => Option.some_ne_none k (by rw [← occupied, ← same]; exact free)
    have listed : Tab.get none (s.core c).combs n = some k := occupied
    extract_lets _ x t
    show Tab.get none (x.core c).combs n = some k
    rw [show x.core c = _ from State.core_onCore s c _, Tab.get_put_ne _ _ _ other]
    exact listed

/-- The head that a die picks, whose record can be read, is launched on the core with the most room (R322 to R325). -/
theorem exec_cellDispatch {s : State} {die qn l c : Nat} {e : QEntry} (pick : s.pickHead die = some (qn, l, e)) (ready : s.agentReady (lineOf e.cell.pa) = true)
    (room : s.roomiest (s.takers die (s.queue qn) e) = some c) : exec (.cellDispatch die) s = .next ((s.atHome (lineOf e.cell.pa)).launch c qn l e) := by
  rw [show exec (.cellDispatch die) s = execCellDispatch die s from rfl, execCellDispatch, pick]
  dsimp only
  rw [ready, room]
  rfl

/-! The counterexample. -/

/-- An empty slot 0 listed, as no table in the canonical form lists it, and behind it a comb of the same slot. -/
def listedEmpty : Tab (Option Comb) := [(0, none), (0, some {})]

/-- The one entry of queue 0: its record's line is of the slice that `crowded` fills. -/
def movedEntry : QEntry := { cell := { va := 0x104000, pa := 0x10000, queue := 0, prio := 1, index := 3, shape := {} }, next := 3, last := 4, swarm := none }

/-- The full slice of `crowded`, with an entry for core 1, whose slot 0 appears to be free. -/
def misplacing : State :=
  { crowded {} with
    cores := [(1, { combs := listedEmpty, slice := some { entry := 0, tenant := 0, length := 0, start := 0 } })]
    sched := { queues := [(0, { en := true, dies := 3, logcap := 4, levels := [(1, [movedEntry])] })] } }

theorem movedEntry_line : lineOf movedEntry.cell.pa = 0x10000 := by decide

theorem misplacing_pickHead : misplacing.pickHead 0 = some (0, 1, movedEntry) := by decide +kernel

theorem misplacing_roomiest : misplacing.roomiest (misplacing.takers 0 (misplacing.queue 0) movedEntry) = some 1 := by decide +kernel

theorem misplacing_place : ∃ frames base, (misplacing.core 1).place movedEntry.cell.shape = some (frames, base, 0) := ⟨[0], 0, by decide +kernel⟩

theorem misplacing_agentReady : misplacing.agentReady (lineOf movedEntry.cell.pa) = true := by
  have waits : misplacing.homeWaits 0x10000 = false := crowded_homeWaits {}
  have served : misplacing.served 0x10000 = true := by decide +kernel
  rw [movedEntry_line, State.agentReady, waits, served]
  rfl

theorem misplacing_sliceLines : misplacing.sliceLines (homeDie 0x10000) (homeSlice 0x10000) = fullSlice.map (64 * ·) := crowded_sliceLines {}

/-- Every line of the full slice may leave it, and is dirty, with its page not resident. -/
theorem misplacing_gives {x : Nat} (h : x ∈ fullSlice) : misplacing.mayDisplace (64 * x) = true ∧ isHost (64 * x) = false ∧ (misplacing.page (64 * x)).resident = false ∧
    misplacing.isDirty (64 * x) = true ∧ misplacing.isOwned (64 * x) = false := by
  obtain ⟨n, hn, page⟩ := page_of_fullSlice h
  have host : isHost (64 * x) = false := by simp [isHost]; omega
  have away : (misplacing.page (64 * x)).resident = false := by
    obtain ⟨first, second, code⟩ : 64 * x / 65536 ≠ 0 ∧ 64 * x / 65536 ≠ 1 ∧ 64 * x / 65536 ≠ 16 := by omega
    simp [State.page, misplacing, crowded, State.withFetchWord, Tab.get, first.symm, second.symm, code.symm]
  have dirty : misplacing.isDirty (64 * x) = true := by
    simp [State.isDirty, misplacing, crowded, Tab.get_listing, show lineNo (64 * x) = x by unfold lineNo; omega, h]
  have may := (crowded_displaceL2 {} h).1
  rw [State.mayDisplace, host] at may
  refine ⟨?_, host, away, dirty, rfl⟩
  rw [State.mayDisplace, host]
  exact may

/-- The fill of the record's line writes a line of the full slice back. -/
theorem misplacing_fillL2 : ∃ v, (misplacing.fillL2 0x10000).cores = (misplacing.lineCleaned v).cores := by
  refine State.fillL2_writes_back (by decide) (crowded_inL2 {}) (by rw [misplacing_sliceLines, List.length_map, length_fullSlice]) fun a listed => ?_
  rw [misplacing_sliceLines] at listed
  obtain ⟨x, hx, rfl⟩ := List.mem_map.mp listed
  exact misplacing_gives hx

/-- A write-back leaves the empty entry of slot 0 out, so that the comb behind it comes to light. -/
theorem misplacing_lineCleaned (v : Nat) : ∃ k, (misplacing.lineCleaned v).comb? 1 0 = some k ∧ k.record = 0 := ⟨_, rfl, rfl⟩

theorem misplacing_dispatch : exec (.cellDispatch 0) misplacing = .next ((misplacing.atHome 0x10000).launch 1 0 1 movedEntry) := by
  rw [exec_cellDispatch misplacing_pickHead misplacing_agentReady misplacing_roomiest, movedEntry_line]

/-- After the dispatch slot 0 holds the comb that was hidden there. -/
theorem misplacing_keeps : ∃ k, ((misplacing.atHome 0x10000).launch 1 0 1 movedEntry).comb? 1 0 = some k ∧ k.record = 0 := by
  obtain ⟨v, cores⟩ := misplacing_fillL2
  obtain ⟨k, shown, record⟩ := misplacing_lineCleaned v
  refine ⟨k, State.comb?_launch ?_, record⟩
  rw [← shown, State.comb?, State.comb?, State.core, State.core, ← cores]
  rfl

/-- Refutes O45: the clause about dispatch claims of every state that the comb is launched into the slot that its core would give before the record is read. In a state whose core lists slot 0 as
empty before a comb of slot 0, which the model's tables exclude and the statement does not, the read of the record fills a full slice of the home L2, a line is written back, the empty entry is left
out, and the comb goes to slot 1. -/
theorem not_combsLaunchAndRetire : ¬ Obligations.CombsLaunchAndRetire := by
  intro h
  obtain ⟨-, -, -, dispatch, -⟩ := h
  obtain ⟨frames, base, place⟩ := misplacing_place
  obtain ⟨t, dispatched, -, -, x, launched, record, -⟩ := dispatch misplacing 0 0 1 1 movedEntry frames base 0 misplacing_pickHead misplacing_agentReady misplacing_roomiest place rfl rfl
  obtain ⟨k, kept, hidden⟩ := misplacing_keeps
  rw [misplacing_dispatch] at dispatched
  cases dispatched
  rw [kept] at launched
  cases launched
  rw [hidden] at record
  exact absurd record (by decide)

end Sys2Proof.Machine
end

section
/-! What the memory instructions share at issue: changes of one strand one after the other, the lanes that access, and what the checks of R183 lead to (R183 to R185). -/

namespace Sys2Proof

theorem Tab.del_del {α : Type} (i : Nat) : ∀ t : Tab α, Tab.del (Tab.del t i) i = Tab.del t i
  | [] => rfl
  | (k, v) :: t => by
    by_cases h : k = i
    · simp [Tab.del, h, Tab.del_del i t]
    · simp [Tab.del, h, Tab.del_del i t]

theorem Tab.del_ins {α : Type} (i : Nat) (v : α) : ∀ t : Tab α, Tab.del (Tab.ins i v t) i = Tab.del t i
  | [] => by simp [Tab.ins, Tab.del]
  | (k, w) :: t => by
    by_cases h : i < k
    · simp [Tab.ins, h, Tab.del]
    · by_cases same : k = i
      · simp [Tab.ins, same, Tab.del, Tab.del_ins i v t]
      · simp [Tab.ins, h, same, Tab.del, Tab.del_ins i v t]

/-- Of two writes of one key the second stands. -/
theorem Tab.put_put {α : Type} [DecidableEq α] (d : α) (t : Tab α) (i : Nat) (u v : α) : Tab.put d (Tab.put d t i u) i v = Tab.put d t i v := by
  have gone : Tab.del (Tab.put d t i u) i = Tab.del t i := by
    unfold Tab.put
    split
    · exact Tab.del_del i t
    · rw [Tab.del_ins, Tab.del_del]
  rw [Tab.put, gone, Tab.put]

end Sys2Proof

namespace Sys2Proof.Machine
open Sys2Proof Sys2Proof.Safety

/-- Two changes of one strand are one change. -/
theorem State.onStrand_onStrand (s : State) (w : Sid) (f g : Strand → Strand) : (s.onStrand w f).onStrand w g = s.onStrand w fun st => g (f st) := by
  cases resident : s.comb? w.core w.slot with
  | none => simp [State.onStrand, State.onComb, resident]
  | some k =>
    simp only [State.onStrand, State.onComb, resident, State.comb?_setComb]
    simp [State.setComb, State.onCore, State.setCore, State.core, Tab.put_put]

/-- Two changes that agree on the strand as it is come to the same. -/
theorem State.onStrand_congr {s : State} {w : Sid} {f g : Strand → Strand} (h : f (s.strand w) = g (s.strand w)) : s.onStrand w f = s.onStrand w g := by
  unfold State.onStrand State.onComb
  cases resident : s.comb? w.core w.slot with
  | none => rfl
  | some k =>
    have comb : s.comb w.core w.slot = k := by rw [State.comb, resident]; rfl
    rw [State.strand, comb] at h
    dsimp only
    rw [h]

/-- Every lane of a load that runs outside run-ahead is loaded: its issuing lanes move on, and nothing is marked invalid. -/
theorem State.passLoad_all (s : State) (i : Issue) : s.passLoad i [] = s.advance i := by
  have none_lost : laneMask [] &&& i.act = 0 := by
    rw [show laneMask [] = 0#32 by decide, BitVec.zero_and]
    rfl
  have unmarked : ∀ (rs : List Reg) (m : Marks), rs.foldl (fun m r => m.mark r 0) m = m := fun rs m =>
    List.foldl_fixed' (f := fun m r => Marks.mark m r 0) (fun _ => if_pos rfl) rs
  have same : ∀ st : Strand, st.markInvalid (i.o.writes i.e i.st.sp.wb) 0 = st := fun st => by
    simp only [Strand.markInvalid, unmarked, Option.map_id_fun', id]
  rw [State.passLoad, none_lost]
  simp only [same]
  rw [State.advance, State.moveTo, State.onStrand_onStrand]

/-- The table walks of accesses change owners, leases granted, eviction buffers and translations held, and nothing else (R190, R193). -/
theorem State.rememberAll_held (s : State) (w : Sid) (sp : Space) (l : List (Nat × Nat)) : ∃ o g v b, s.rememberAll w sp l = s.recalled o g v b := by
  have walks : ∀ (l : List (Nat × Nat)) (s : State), ∃ o g v b, l.foldl (fun s x => s.remember w.core (s.tenantOf w.core w.slot) x.2) s = s.recalled o g v b := fun l => by
    induction l with
    | nil => exact fun s => ⟨_, _, _, _, rfl⟩
    | cons x l ih =>
      intro s
      obtain ⟨o, g, v, b, first⟩ := s.remember_recalled w.core (s.tenantOf w.core w.slot) x.2
      obtain ⟨o', g', v', b', rest⟩ := ih (s.remember w.core (s.tenantOf w.core w.slot) x.2)
      exact ⟨o', g', v', b', rest.trans (by rw [first]; rfl)⟩
  unfold State.rememberAll
  split
  · exact walks l s
  · exact ⟨_, _, _, _, rfl⟩

section
variable (s : State) (w : Sid) (sp : Space) (l : List (Nat × Nat))

theorem State.strand_rememberAll (x : Sid) : (s.rememberAll w sp l).strand x = s.strand x := by
  obtain ⟨o, g, v, b, held⟩ := s.rememberAll_held w sp l
  rw [held]; rfl

theorem State.clock_rememberAll : (s.rememberAll w sp l).clock = s.clock := by
  obtain ⟨o, g, v, b, held⟩ := s.rememberAll_held w sp l
  rw [held]; rfl

theorem State.ownByte_rememberAll (x : Sid) (va : Nat) : (s.rememberAll w sp l).ownByte x va = s.ownByte x va := by
  obtain ⟨o, g, v, b, held⟩ := s.rememberAll_held w sp l
  rw [held]; rfl

end

/-- What a strand's own stores hold for its loads does not depend on any strand. -/
theorem State.ownByte_onStrand (s : State) (w x : Sid) (f : Strand → Strand) (va : Nat) : (s.onStrand w f).ownByte x va = s.ownByte x va := by
  obtain ⟨combs, changed⟩ := s.core_onComb w.core w.slot (fun c => { c with strands := Tab.put {} c.strands w.strand (f (Tab.get {} c.strands w.strand)) }) x.core
  rw [State.ownByte, State.onStrand, changed]; rfl

section
variable {s : State} {o : Op} {e : Enc}

/-- Outside run-ahead no source is invalid: every active lane accesses (R201). -/
theorem clean_normal (normal : (s.strand s.cur).ahead = none) : (s.issue o e).clean s = (s.issue o e).act := by
  have untainted : (s.issue o e).taint s = 0 := by
    rw [Issue.taint, show (s.issue o e).st.ahead = none from normal]
  rw [Issue.clean, untainted, show ~~~(0 : Mask) = BitVec.allOnes 32 by decide, BitVec.and_allOnes]

/-- What a load does once its accesses have passed their checks (R184, R198, R384). -/
def State.loadSpots (i : Issue) (spots : List Spot) (bad : List Nat) (s : State) : State :=
  let parts := s.partsOf i (spaceOf i.e) spots
  match spaceOf i.e with
  | .lm | .peer => (s.loadLm i (spaceOf i.e) parts).passLoad i bad
  | .global => s.loadGlobal i .l1 false parts bad
  | .fabric => s.loadFabric i parts

/-- What a store does once its accesses have passed their checks (R184, R196, R201). -/
def State.storeSpots (i : Issue) (spots : List Spot) (_ : List Nat) (s : State) : State :=
  if (s.strand i.w).ahead.isSome then s.advance i else (s.storeAll i (spaceOf i.e) spots).advance i

/-- A load with an active lane comes to its accesses (R183). -/
theorem State.load_active {i : Issue} (active : i.act ≠ 0) : s.load i = s.access i (spaceOf i.e) (i.targets s true) (loadNeed i) (State.loadSpots i) :=
  if_neg active

/-- A store with an active lane comes to its accesses (R183). -/
theorem State.store_active {i : Issue} (active : i.act ≠ 0) : s.store i = s.access i (spaceOf i.e) (i.targets s true) (storeNeed i) (State.storeSpots i) :=
  if_neg active

theorem exec_ld (h : Active .ld e s) :
    exec (.ld e) s = .next (s.access (s.issue .ld e) (spaceOf e) ((s.issue .ld e).targets s true) (loadNeed (s.issue .ld e)) (State.loadSpots (s.issue .ld e))) := by
  rw [show exec (.ld e) s = next (strandOnly .ld e s fun i s => s.load i) from rfl, strandOnly_clear h.toClear, State.load_active h.active]; rfl

theorem exec_ldg (h : Active .ldg e s) :
    exec (.ldg e) s = .next (s.access (s.issue .ldg e) (spaceOf e) ((s.issue .ldg e).targets s true) (loadNeed (s.issue .ldg e)) (State.loadSpots (s.issue .ldg e))) := by
  rw [show exec (.ldg e) s = next (strandOnly .ldg e s fun i s => s.load i) from rfl, strandOnly_clear h.toClear, State.load_active h.active]; rfl

theorem exec_st (h : Active .st e s) :
    exec (.st e) s = .next (s.access (s.issue .st e) (spaceOf e) ((s.issue .st e).targets s true) (storeNeed (s.issue .st e)) (State.storeSpots (s.issue .st e))) := by
  rw [show exec (.st e) s = next (strandOnly .st e s fun i s => s.store i) from rfl, strandOnly_clear h.toClear, State.store_active h.active]; rfl

theorem exec_sts (h : Active .sts e s) :
    exec (.sts e) s = .next (s.access (s.issue .sts e) (spaceOf e) ((s.issue .sts e).targets s true) (storeNeed (s.issue .sts e)) (State.storeSpots (s.issue .sts e))) := by
  rw [show exec (.sts e) s = next (strandOnly .sts e s fun i s => s.store i) from rfl, strandOnly_clear h.toClear, State.store_active h.active]; rfl

end

end Sys2Proof.Machine
end

section
/-! Proofs about the faults of addresses (O29). -/

namespace Sys2Proof.Machine
open Sys2Proof Sys2Proof.Safety

/-- The instruction enters the handler with this cause and an address as TVAL, and changes no byte of memory, none of its core's LM, and no register (R183, R414). -/
def RaisesAt (n : Instr) (s : State) (a cause : Nat) : Prop :=
  ∃ t, exec n s = .next t ∧ t.memory = s.memory ∧ (t.core s.cur.core).lm = (s.core s.cur.core).lm ∧ (t.strand s.cur).regs = (s.strand s.cur).regs ∧
    (t.strand s.cur).trap.tval = BitVec.ofNat 64 a ∧ (t.strand s.cur).trap.tcause.toNat % 256 = cause

/-- TCAUSE holds the code of its cause (R413). -/
theorem tcauseWord_code (act priv seq : Bool) {cause : Nat} (h : cause < 256) : (tcauseWord act priv seq cause).toNat % 256 = cause := by
  have bounded : ∀ b : Bool, b2n b = 0 ∨ b2n b = 1 := by decide
  have h1 := bounded act
  have h2 := bounded priv
  have h3 := bounded seq
  rw [tcauseWord, BitVec.toNat_ofNat]
  omega

section
variable {s : State} {o : Op} {e : Enc} {n : Instr}

/-- A fault of an address, raised where the strand may enter its handler. -/
theorem raisesAt_of_raise {c : Cause} {a : Nat} (issues : Issues o e s) (may : MayTrap s s.cur) (raised : exec n s = .next (s.raise (s.issue o e) (Trap.of c a))) :
    RaisesAt n s a c.code := by
  have entered := raise_enters (i := s.issue o e) (t := Trap.of c a) issues.normal may
  have strand := State.strand_onStrand (fun st => st.enterTrap c.code (BitVec.ofNat 64 a) (s.issue o e).pc (s.issue o e).group false) (State.resident_of_may issues.may)
  refine ⟨_, raised.trans (congrArg _ entered), State.onStrand_memory .., State.onComb_lm .., ?_⟩
  show (State.strand (s.onStrand s.cur _) s.cur).regs = _ ∧ (State.strand (s.onStrand s.cur _) s.cur).trap.tval = _ ∧ (State.strand (s.onStrand s.cur _) s.cur).trap.tcause.toNat % 256 = _
  rw [show (Trap.of c a).cause = c from rfl, show (Trap.of c a).tval = BitVec.ofNat 64 a from rfl, strand]
  refine ⟨Strand.enterTrap_regs .., Strand.enterTrap_tval .., ?_⟩
  rw [Strand.enterTrap_tcause]
  exact tcauseWord_code _ _ _ (Cause.code_lt c)

/-- The third check: an access to LM that meets a range lock raises RANGE_CONFLICT (R264, R265). -/
theorem access_locked {i : Issue} {l : List (Nat × Nat)} {d : Need} {t : Trap} (perform : List Spot → List Nat → State → State) (aligned : alignTrap d.size l = none)
    (ranged : s.rangeTrap i.w .lm d.size l = none) (more : ∀ spots, d.more spots = none)
    (locked : s.lockTrap i.w .lm d.use d.size (l.map fun x => { lane := x.1, addr := x.2, pa := s.lmPhys i.w.core i.w.slot x.2 }) = some t) :
    s.access i .lm l d perform = s.raise i t := by
  have located : s.locateAll i.w i.st.trap.priv .lm d.acc l = (l.map fun x => ({ lane := x.1, addr := x.2, pa := s.lmPhys i.w.core i.w.slot x.2 } : Spot)).map Located.ok := by
    rw [State.locateAll, List.map_map]; rfl
  have held : s.rememberAll i.w .lm l = s := rfl
  unfold State.access
  simp only [aligned, ranged, located, spotsOf_ok, faultsOf_ok, protectOf_ok, held, more, locked]
  simp

theorem alignTrap_none {size : Nat} {l : List (Nat × Nat)} (h : ∀ y ∈ l, y.2 % size = 0) : alignTrap size l = none := by
  rw [alignTrap, List.find?_eq_none.mpr fun y listed => by simp [h y listed]]; rfl

theorem rangeTrap_none {w : Sid} {sp : Space} {size : Nat} {l : List (Nat × Nat)} (h : ∀ y ∈ l, s.addressOk w sp y.2 size = true) : s.rangeTrap w sp size l = none := by
  rw [State.rangeTrap, List.find?_eq_none.mpr fun y listed => by simp [h y listed]]; rfl

/-- Whether an access to LM meets a range that a copy locks: its destination, or, for a store, its source or its barrier too (R265). -/
def State.lmLocked (s : State) (store : Bool) (n : Nat) (a : Nat) : Bool :=
  let p := s.lmPhys s.cur.core s.cur.slot a
  let covers := fun (r : Range) => r.space == 0 && meets p n r.lo r.hi
  (s.core s.cur.core).locks.any fun k => (k.dst.any covers) || store && (k.src.any covers || k.bar.any fun b => meets p n b (b + 8))

/-- The rows of R265 for loads and stores of LM: a range meets the destination of a copy, or, for a store, its source or its barrier too. -/
theorem LockEntry.conflicts_lm (k : LockEntry) (store : Bool) (p n : Nat) (t : BitVec 16) :
    let covers := fun (r : Range) => r.space == 0 && meets p n r.lo r.hi
    k.conflicts (if store then .write else .read) 0 p n t = (k.dst.any covers || store && (k.src.any covers || k.bar.any fun b => meets p n b (b + 8))) := by
  obtain ⟨id, slot, tenant, src, dst, bar⟩ := k
  cases store with
  | false => cases dst <;> simp [LockEntry.conflicts]
  | true => cases src <;> cases dst <;> cases bar <;> simp [LockEntry.conflicts, Bool.or_comm, Bool.or_assoc]

theorem conflictAt_lm (store : Bool) (n a : Nat) : s.conflictAt s.cur .lm (if store then .write else .read) a n = s.lmLocked store n a := by
  unfold State.conflictAt State.lockConflict State.lmLocked
  exact congrArg (List.any _) (funext fun k => k.conflicts_lm store _ n _)

/-- The faults of an instruction whose course is an access to the space that it names, in the order of R183. -/
theorem addressFaults_of {x : Nat × Nat} {d : Need} {perform : List Spot → List Nat → State → State} (store : Bool) (issues : Issues o e s) (may : MayTrap s s.cur)
    (hn : exec n s = .next (s.access (s.issue o e) (spaceOf e) ((s.issue o e).targets s true) d perform)) (hmore : d.more = noMore) (huse : d.use = if store then .write else .read) :
    let l := (s.issue o e).targets s true
    (l.find? (fun y => y.2 % d.size != 0) = some x → RaisesAt n s x.2 0x08) ∧
    ((∀ y ∈ l, y.2 % d.size = 0) → l.find? (fun y => !s.addressOk s.cur (spaceOf e) y.2 d.size) = some x → RaisesAt n s x.2 0x0A) ∧
    ((∀ y ∈ l, y.2 % d.size = 0) → (∀ y ∈ l, s.addressOk s.cur (spaceOf e) y.2 d.size = true) → spaceOf e = .lm →
      l.find? (fun y => s.lmLocked store d.size y.2) = some x → RaisesAt n s x.2 0x10) := by
  intro l
  refine ⟨fun first => ?misaligned, fun aligned first => ?outside, fun aligned ranged lm first => ?locked⟩
  case misaligned =>
    have found : alignTrap d.size l = some (Trap.of .misaligned x.2) := by rw [alignTrap, first]; rfl
    exact raisesAt_of_raise (c := .misaligned) issues may (hn.trans (congrArg _ (access_misaligned _ found)))
  case outside =>
    have found : s.rangeTrap s.cur (spaceOf e) d.size l = some (Trap.of .pageProtect x.2) := by rw [State.rangeTrap, first]; rfl
    exact raisesAt_of_raise (c := .pageProtect) issues may (hn.trans (congrArg _ (access_range _ (alignTrap_none aligned) found)))
  case locked =>
    rw [lm] at hn ranged
    have found : s.lockTrap s.cur .lm d.use d.size (l.map fun y => { lane := y.1, addr := y.2, pa := s.lmPhys s.cur.core s.cur.slot y.2 }) = some (Trap.of .rangeConflict x.2) := by
      simp only [State.lockTrap, huse, conflictAt_lm, List.find?_map, Function.comp_def, first]
      rfl
    exact raisesAt_of_raise (c := .rangeConflict) issues may (hn.trans (congrArg _ (access_locked _ (alignTrap_none aligned) (rangeTrap_none ranged) (fun _ => by rw [hmore]; rfl) found)))

end

/-- Settles O29: each fault of an address is found by its own check of R183, and raised in a strand that may enter its handler, which the entry leaves its registers and memory its bytes. -/
theorem addressFaults : Obligations.AddressFaults := by
  unfold Obligations.AddressFaults
  intro e s x may
  refine ⟨fun h => ?ld, fun h => ?ldg, fun h => ?st, fun h => ?sts⟩
  case ld => exact addressFaults_of false h.toIssues may (exec_ld h) rfl rfl
  case ldg => exact addressFaults_of false h.toIssues may (exec_ldg h) rfl rfl
  case st => exact addressFaults_of true h.toIssues may (exec_st h) rfl rfl
  case sts => exact addressFaults_of true h.toIssues may (exec_sts h) rfl rfl

end Sys2Proof.Machine
end

section
/-! Proofs about loads at issue (O27). -/

namespace Sys2Proof.Machine
open Sys2Proof Sys2Proof.Safety

/-- Two folds over a state come to the same where their steps agree on every state with a property that they keep. -/
theorem foldl_congr_kept {α : Type} {P : State → Prop} {f g : State → α → State} (kept : ∀ s x, P s → P (f s x)) (agree : ∀ s x, P s → f s x = g s x) :
    ∀ (l : List α) (s : State), P s → l.foldl f s = l.foldl g s
  | [], _, _ => rfl
  | x :: l, s, h => by rw [List.foldl_cons, List.foldl_cons, ← agree s x h]; exact foldl_congr_kept kept agree l _ (kept s x h)

section
variable (s : State) (w : Sid) (scalar : Bool) (cycle : Nat) (p : LoadPart) (v : Word) (poison : Bool)

theorem State.fillPart_cur : (s.fillPart w scalar cycle p v poison).cur = s.cur := by
  unfold State.fillPart
  extract_lets mark
  split
  · split
    · exact State.onStrand_cur ..
    · split
      · rfl
      · exact State.onComb_cur ..
  · exact State.onStrand_cur ..

theorem State.fillPart_clock : (s.fillPart w scalar cycle p v poison).clock = s.clock := by
  unfold State.fillPart
  extract_lets mark
  split
  · split
    · exact State.onStrand_clock ..
    · split
      · rfl
      · exact State.onComb_clock ..
  · exact State.onStrand_clock ..

end

/-- The fills of a load of LM as the strand at the focus makes them, each of the bytes at its place in the core that `core` names. -/
def State.fillFromLm (scalar : Bool) (core : State → LoadPart → Nat) (s : State) (p : LoadPart) : State :=
  s.fillPart s.cur scalar s.clock.cycle p (extLoad p.sub (s.lmRead (core s p) p.pa p.size)) (s.lmMarked (core s p) p.pa p.size)

/-- Fills keep the focus and the clock. -/
theorem State.foldl_fillFromLm_kept (scalar : Bool) (core : State → LoadPart → Nat) (parts : List LoadPart) (s : State) :
    (parts.foldl (State.fillFromLm scalar core) s).cur = s.cur ∧ (parts.foldl (State.fillFromLm scalar core) s).clock = s.clock :=
  List.foldlRecOn parts _ (motive := fun t : State => t.cur = s.cur ∧ t.clock = s.clock) ⟨rfl, rfl⟩ fun _ kept _ _ =>
    ⟨(State.fillPart_cur ..).trans kept.1, (State.fillPart_clock ..).trans kept.2⟩

/-- A load of LM or peer LM, with the terms that its space gives (R189, R204, R206). -/
theorem State.loadLm_eq {s : State} {i : Issue} {sp : Space} {core : State → LoadPart → Nat} (parts : List LoadPart) (here : i.w = s.cur)
    (place : ∀ t p, t.cur = s.cur → core t p = if sp = .lm then i.w.core else (peerPlace i.w.core p.va).1) :
    s.loadLm i sp parts = (parts.foldl (State.fillFromLm (once i.e) core) s).onStrand s.cur fun st =>
      st.addTerms { device := s.clock.gt, comb := if sp = .lm then s.clock.gt else 0, system := s.clock.gt } := by
  have same := foldl_congr_kept (P := fun t => t.cur = s.cur) (f := State.fillFromLm (once i.e) core) (g := fun s p =>
      let core := if sp = .lm then i.w.core else (peerPlace i.w.core p.va).1
      s.fillPart i.w (once i.e) s.clock.cycle p (extLoad p.sub (s.lmRead core p.pa p.size)) (s.lmMarked core p.pa p.size))
    (fun t p kept => (State.fillPart_cur ..).trans kept) (fun t p kept => by rw [State.fillFromLm, place t p kept, here, kept]) parts s rfl
  rw [State.loadLm, ← same, (State.foldl_fillFromLm_kept (once i.e) core parts s).2, here]

/-- A load of LM or peer LM completes at once (R174 to R177, R189). -/
theorem load_atOnce {n : Instr} {o : Op} {e : Enc} {s : State} {spots : List Spot} {sp : Space} {core : State → LoadPart → Nat}
    (hn : exec n s = .next (s.access (s.issue o e) (spaceOf e) ((s.issue o e).targets s true) (loadNeed (s.issue o e)) (State.loadSpots (s.issue o e))))
    (space : spaceOf e = sp) (near : sp = .lm ∨ sp = .peer) (place : ∀ t p, t.cur = s.cur → core t p = if sp = .lm then s.cur.core else (peerPlace s.cur.core p.va).1)
    (reaches : Reaches s (s.issue o e) sp ((s.issue o e).targets s true) (loadNeed (s.issue o e)) spots) :
    exec n s = .next ((((s.partsOf (s.issue o e) sp spots).foldl (State.fillFromLm (once e) core) s).onStrand s.cur fun st =>
      st.addTerms { device := s.clock.gt, comb := if sp = .lm then s.clock.gt else 0, system := s.clock.gt }).advance (s.issue o e)) := by
  have held : s.rememberAll (s.issue o e).w sp ((s.issue o e).targets s true) = s := by
    obtain rfl | rfl := near
    · rfl
    · rfl
  have filled : State.loadSpots (s.issue o e) spots [] s = (s.loadLm (s.issue o e) sp (s.partsOf (s.issue o e) sp spots)).passLoad (s.issue o e) [] := by
    rw [State.loadSpots, show spaceOf (s.issue o e).e = sp from space]
    obtain rfl | rfl := near
    · rfl
    · rfl
  rw [hn, space, access_reaches _ reaches, held, filled, State.passLoad_all, State.loadLm_eq (core := core) _ rfl place]
  rfl

theorem localLoads : Statements.LocalLoads := by
  intro e s spots lm
  have place : ∀ (t : State) (p : LoadPart), t.cur = s.cur → t.cur.core = if Space.lm = .lm then s.cur.core else (peerPlace s.cur.core p.va).1 := fun t p kept => by rw [kept]; rfl
  exact ⟨fun h reaches => load_atOnce (exec_ld h) lm (.inl rfl) place reaches, fun h reaches => load_atOnce (exec_ldg h) lm (.inl rfl) place reaches⟩

theorem peerLoads : Statements.PeerLoads := by
  intro e s spots peer
  have place : ∀ (t : State) (p : LoadPart), t.cur = s.cur → 72 * dieOf t.cur.core + bits p.va 25 19 = if Space.peer = .lm then s.cur.core else (peerPlace s.cur.core p.va).1 :=
    fun t p kept => by rw [kept]; rfl
  exact ⟨fun h reaches => load_atOnce (exec_ld h) peer (.inr rfl) place reaches, fun h reaches => load_atOnce (exec_ldg h) peer (.inr rfl) place reaches⟩

/-! Loads of global memory (R198). -/

section
variable {s : State} {i : Issue} {via : LoadVia} {reserve : Bool} {parts : List LoadPart}

/-- A load with its parts, to be entered among the accesses in flight. -/
def newLoad (i : Issue) (cycle : Nat) (via : LoadVia) (parts : List LoadPart) (keys : List Nat) (reserve : Bool) (st : Strand) : Load :=
  { id := st.flight.nextId, cycle := cycle, scalar := once i.e, via := via, parts := parts, sectors := keys.map fun k => (k, none),
    lease := st.sp.lease, discard := false, reserve := if reserve then parts.map fun p => (p.lane, p.lane) else [], failed := [] }

/-- A load outside run-ahead whose sectors fit in the 64 joins the accesses in flight whole (R198). -/
theorem State.loadGlobal_joins (normal : (s.strand i.w).ahead = none) (some : (parts.map fun p => p.pa / 32).dedup ≠ []) (room : Room i.st (parts.map fun p => p.pa / 32).dedup.length) :
    s.loadGlobal i via reserve parts [] = (s.onStrand i.w fun st =>
      { st with flight := { st.flight with nextId := st.flight.nextId + 1, loads := st.flight.loads ++ [newLoad i s.clock.cycle via parts (parts.map fun p => p.pa / 32).dedup reserve st] } }).advance i := by
  have fits : ¬ i.st.oc + (parts.map fun p => sectorOf p.pa).dedup.length > 64 := Nat.not_lt.mpr room
  have all : parts.filter (fun p => (parts.map fun p => sectorOf p.pa).dedup.contains (sectorOf p.pa)) = parts :=
    List.filter_eq_self.mpr fun p listed => by
      rw [List.contains_iff_mem, List.mem_dedup]
      exact List.mem_map_of_mem listed
  have nonempty : (parts.map fun p => sectorOf p.pa).dedup.isEmpty = false := by
    rw [List.isEmpty_eq_false_iff]; exact some
  unfold State.loadGlobal
  rw [normal]
  dsimp only
  rw [if_neg fits]
  simp only [Option.isSome_none, Bool.false_and, List.filter_false, List.contains_nil, Bool.not_false, List.filter_true, all, List.map_nil, List.append_nil, Bool.and_true]
  rw [State.passLoad_all]
  simp only [State.pushLoad, nonempty, List.isEmpty_nil, if_true]
  rfl

/-- The parts of a load depend on the state by the bytes that the strand's own stores still hold only (R189). -/
theorem State.partsOf_congr {t : State} (own : ∀ va, t.ownByte i.w va = s.ownByte i.w va) (sp : Space) (spots : List Spot) : t.partsOf i sp spots = s.partsOf i sp spots := by
  unfold State.partsOf
  simp only [own]

/-- An instruction whose course is a load of global memory from the state `u`, which the statement's state `s'` follows, joins the accesses in flight. -/
theorem joins_of {n : Instr} {u s' : State} {spots : List Spot} (hn : exec n s = .next (u.loadGlobal i via reserve (u.partsOf i .global spots) []))
    (normal : (u.strand i.w).ahead = none) (clock : u.clock = s.clock) (same : ∀ f, s'.onStrand i.w f = u.onStrand i.w f) (own : ∀ va, s'.ownByte i.w va = u.ownByte i.w va) :
    let parts := s'.partsOf i .global spots
    let secs := (parts.map fun p => p.pa / 32).dedup
    secs ≠ [] → Room i.st secs.length → exec n s = .next ((s'.onStrand i.w fun st =>
      { st with flight := { st.flight with nextId := st.flight.nextId + 1, loads := st.flight.loads ++ [newLoad i s.clock.cycle via parts secs reserve st] } }).advance i) := by
  intro parts secs some room
  have here : parts = u.partsOf i .global spots := State.partsOf_congr own .global spots
  rw [hn, State.loadGlobal_joins normal (by rw [← here]; exact some) (by rw [← here]; exact room), same, clock, ← here]

end

section
variable {s : State} {e : Enc} {spots : List Spot}

theorem exec_ldc (h : Active .ldc e s) : let i := s.issue .ldc e
    exec (.ldc e) s = .next (s.access i .global ((i.slots i.act).map fun l => (l, i.constAddr s l)) { size := 4, acc := .read, use := .read, more := noMore } fun spots bad s =>
      s.loadGlobal i .constant false (s.partsOf i .global spots) bad) := by
  intro i
  rw [show exec (.ldc e) s = execLdc e s from rfl, execLdc, strandOnly_clear h.toClear, if_neg h.active, clean_normal h.normal]
  rfl

theorem exec_lres (h : Active .lres e s) : let i := s.issue .lres e
    exec (.lres e) s = .next (s.access i .global (i.targets s true) { size := 4, acc := .read, use := .read, more := noMore } fun spots bad s =>
      let s := if (s.strand i.w).ahead.isSome then s else s.onStrand i.w fun st => st.dropResv (spots.map fun x => x.lane)
      s.loadGlobal i .home true (s.partsOf i .global spots) bad) := by
  intro i
  rw [show exec (.lres e) s = execLres e s from rfl, execLres, strandOnly_clear h.toClear, if_neg h.active]
  rfl

/-- LD and LDG of global memory. -/
theorem load_global {n : Instr} {o : Op}
    (hn : exec n s = .next (s.access (s.issue o e) (spaceOf e) ((s.issue o e).targets s true) (loadNeed (s.issue o e)) (State.loadSpots (s.issue o e)))) (global : spaceOf e = .global)
    (reaches : Reaches s (s.issue o e) .global ((s.issue o e).targets s true) (loadNeed (s.issue o e)) spots) :
    let u := s.rememberAll s.cur .global ((s.issue o e).targets s true)
    exec n s = .next (u.loadGlobal (s.issue o e) .l1 false (u.partsOf (s.issue o e) .global spots) []) := by
  intro u
  rw [hn, global, access_reaches _ reaches]
  show Host.Outcome.next (State.loadSpots (s.issue o e) spots [] u) = _
  rw [State.loadSpots, show spaceOf (s.issue o e).e = .global from global]

theorem globalLoads : Statements.GlobalLoads := by
  intro e s spots w joins
  have ahead : ∀ {o : Op} (_ : Active o e s) (l : List (Nat × Nat)), ((s.rememberAll w .global l).strand w).ahead = none := fun h l => by
    rw [State.strand_rememberAll]; exact h.normal
  have fused : ∀ (l : List (Nat × Nat)) f, ((s.rememberAll w .global l).onStrand w id).onStrand w f = (s.rememberAll w .global l).onStrand w f := fun l f => State.onStrand_onStrand ..
  refine ⟨fun h global reaches => ?ld, fun h global reaches => ?ldg, fun h reaches => ?ldc, fun h reaches => ?lres⟩
  case ld => exact joins_of (load_global (exec_ld h) global reaches) (ahead h _) (State.clock_rememberAll ..) (fused _) (State.ownByte_onStrand _ w w id)
  case ldg => exact joins_of (load_global (exec_ldg h) global reaches) (ahead h _) (State.clock_rememberAll ..) (fused _) (State.ownByte_onStrand _ w w id)
  case ldc =>
    have hn := exec_ldc h
    dsimp only at hn
    rw [access_reaches _ reaches] at hn
    exact joins_of hn (ahead h _) (State.clock_rememberAll ..) (fused _) (State.ownByte_onStrand _ w w id)
  case lres =>
    have hn := exec_lres h
    dsimp only at hn
    rw [access_reaches _ reaches, show ((s.rememberAll (s.issue .lres e).w .global _).strand (s.issue .lres e).w).ahead = none from ahead h _] at hn
    simp only [Option.isSome_none, Bool.false_eq_true, if_false] at hn
    have resident : ((s.rememberAll w .global ((s.issue .lres e).targets s true)).comb? w.core w.slot).isSome = true :=
      State.resident_of_live (by rw [State.strand_rememberAll]; exact State.live_of_may h.may)
    refine joins_of hn ?_ ((State.onStrand_clock ..).trans (State.clock_rememberAll ..)) (fun _ => rfl) fun _ => rfl
    exact (congrArg Strand.ahead (State.strand_onStrand _ resident)).trans (ahead h _)

/-- LD and LDG of fabric memory send one read for each line, and stand (R384, R386). -/
theorem load_fabric {n : Instr} {o : Op}
    (hn : exec n s = .next (s.access (s.issue o e) (spaceOf e) ((s.issue o e).targets s true) (loadNeed (s.issue o e)) (State.loadSpots (s.issue o e)))) (fabric : spaceOf e = .fabric)
    (reaches : Reaches s (s.issue o e) .fabric ((s.issue o e).targets s true) (loadNeed (s.issue o e)) spots) :
    let i := s.issue o e; let w := s.cur
    let parts := s.partsOf i .fabric spots
    let lines := (parts.map fun p => lineOf p.va).dedup; let secs := (parts.map fun p => p.va / 32).dedup
    let drained := s.drainWhere w fun x => x.fabric && lines.contains x.va
    let id := (drained.strand w).flight.nextId
    Room (s.strand w) secs.length → exec n s = .next (lines.foldl (fun s a => s.fabRequest (.load w id a) 1 (s.tenantOf w.core w.slot) (fabDev a) (fabWin a) (fabOff a) .read)
      ((drained.pushLoad i .fabric parts secs false).onStrand w fun st => { st with sched := { st.sched with wait := some (.fabric id), waitLen := e.bytes, parked := true } })) := by
  intro i w parts lines secs drained id room
  have held : s.rememberAll i.w .fabric (i.targets s true) = s := rfl
  rw [hn, fabric, access_reaches _ reaches, held, State.loadSpots, show spaceOf (s.issue o e).e = .fabric from fabric]
  show Host.Outcome.next (s.loadFabric i parts) = _
  have fits : ¬ i.st.oc + (parts.map fun p => sectorOf p.va).dedup.length > 64 := Nat.not_lt.mpr room
  rw [State.loadFabric, if_neg fits]
  rfl

theorem fabricLoads : Statements.FabricLoads := by
  intro e s spots fabric w
  exact ⟨fun h reaches => load_fabric (exec_ld h) fabric reaches, fun h reaches => load_fabric (exec_ldg h) fabric reaches⟩

end

/-- Settles O27: each load passes the checks of R183 and then takes the course of its space. -/
theorem loads : Obligations.Loads := ⟨localLoads, peerLoads, globalLoads, fabricLoads⟩

end Sys2Proof.Machine
end

section
/-! Proofs about PREF, and about MXLD and MXST of a block of LM (O30). -/

namespace Sys2Proof.Machine
open Sys2Proof Sys2Proof.Safety

/-! PREF (R187). -/

/-- How far a PREF brings its lines, by SUB (R187). -/
theorem prefetchVia (sub : BitVec 8) : (match sub.toNat with | 0 => LoadVia.l1 | 1 => .l2 | _ => .hbm) = if sub = 0 then .l1 else if sub = 1 then .l2 else .hbm := by
  split
  · next zero => rw [if_pos (BitVec.eq_of_toNat_eq zero)]
  · next one =>
    have first : sub = 1 := BitVec.eq_of_toNat_eq one
    rw [first]; rfl
  · next zero one => rw [if_neg fun same => zero (by rw [same]; rfl), if_neg fun same => one (by rw [same]; rfl)]

/-- It stops at L1 for .l1 only. -/
theorem prefetchVia_l1 (sub : BitVec 8) : (if sub = 0 then LoadVia.l1 else if sub = 1 then .l2 else .hbm) = .l1 ↔ sub = 0 := by
  split
  · simp [*]
  · next later => exact iff_of_false (by split <;> exact LoadVia.noConfusion) later

section
variable {e : Enc} {s : State}

/-- The line that a PREF asks for at an address, where it translates (R187). -/
def State.prefetched (s : State) (i : Issue) (x : Nat × Nat) : Option Nat :=
  match s.translate i.w.core (s.tenantOf i.w.core i.w.slot) i.st.trap.priv .read x.2 with | .ok pa => some (lineOf pa) | .error _ => none

theorem exec_pref (h : Active .pref e s) : let i := s.issue .pref e
    let targets := (i.slots (i.prefLanes s)).map fun l => (l, i.addr s true l)
    let lines := (targets.filterMap (s.prefetched i)).dedup
    let r := s.rememberAll s.cur .global (targets.filter fun x => x.2 < 2 ^ 57)
    let stands := fun x : Nat × Nat => s.translate s.cur.core (s.tenantOf s.cur.core s.cur.slot) i.st.trap.priv .read x.2 = .error .waits
    ((∃ x ∈ targets, stands x) → exec (.pref e) s = .next r) ∧
    ((∀ x ∈ targets, ¬ stands x) → exec (.pref e) s = .next ((r.pushLoad i (if e.sub = 0 then .l1 else if e.sub = 1 then .l2 else .hbm) []
      (if e.sub = 0 then lines.flatMap sectorsOf else lines.map fun l => l / 32) false).advance i)) := by
  intro i targets lines r stands
  have waits : ((targets.map fun x => s.translate i.w.core (s.tenantOf i.w.core i.w.slot) i.st.trap.priv .read x.2).any fun x => match x with | .error .waits => true | _ => false) = true ↔
      ∃ x ∈ targets, stands x := by
    rw [List.any_map, List.any_eq_true]
    refine exists_congr fun x => and_congr_right fun _ => ?_
    dsimp only [Function.comp]
    constructor
    · intro found
      split at found
      · next same => exact same
      · exact absurd found Bool.false_ne_true
    · intro same
      rw [show s.translate i.w.core (s.tenantOf i.w.core i.w.slot) i.st.trap.priv .read x.2 = _ from same]
  have found : (targets.map fun x => s.translate i.w.core (s.tenantOf i.w.core i.w.slot) i.st.trap.priv .read x.2).filterMap
      (fun x => match x with | .ok pa => some (lineOf pa) | .error _ => none) = targets.filterMap (s.prefetched i) := by
    rw [List.filterMap_map]; rfl
  let asked := fun (via : LoadVia) (l : List Nat) => (r.pushLoad i via [] (if via = .l1 then l.dedup.flatMap sectorsOf else l.dedup.map fun l => l / 32) false).advance i
  rw [show exec (.pref e) s = execPref e s from rfl, execPref, strandOnly_clear h.toClear, if_neg h.active]
  refine ⟨fun some => ?stands, fun none => ?asks⟩
  case stands => exact congrArg next (if_pos (waits.mpr some))
  case asks =>
    refine (congrArg next (if_neg fun some => ?_)).trans ?_
    · obtain ⟨x, listed, waiting⟩ := waits.mp some
      exact none x listed waiting
    · refine (congrArg₂ (fun via l => next (asked via l)) (prefetchVia e.sub) found).trans ?_
      simp only [asked, prefetchVia_l1]
      rfl

theorem prefetches : Statements.Prefetches := by
  intro e s h w i t targets lines r stands
  obtain ⟨waits, asks⟩ := exec_pref h
  refine ⟨waits, fun free => (asks free).trans ?_⟩
  by_cases near : e.sub = 0
  · simp only [near, if_true]; rfl
  · simp only [near, if_false]; rfl

end

/-! MX blocks of LM (R186). -/

/-- MXLD and MXST of a block of LM that passes its checks are performed at issue (R183, R186). -/
theorem State.mx_lm {s : State} {i : Issue} {load : Bool} {use : LockUse} (huse : use = if load then .read else .write) (active : i.act ≠ 0) (normal : i.st.ahead = none) (lm : spaceOf i.e = .lm)
    (aligned : (i.mxAddrs s).1 % 8 = 0) (inLine : (i.mxAddrs s).1 % 64 + mxBytes i.e.sub.toNat ≤ 64)
    (block : s.inWindow i.w.core i.w.slot (i.mxAddrs s).1 (mxBytes i.e.sub.toNat) = true) (scale : s.inWindow i.w.core i.w.slot (i.mxAddrs s).2 1 = true)
    (blockFree : s.lockConflict i.w.core use 0 (s.lmPhys i.w.core i.w.slot (i.mxAddrs s).1) (mxBytes i.e.sub.toNat) (s.tenantOf i.w.core i.w.slot) = false)
    (scaleFree : s.lockConflict i.w.core use 0 (s.lmPhys i.w.core i.w.slot (i.mxAddrs s).2) 1 (s.tenantOf i.w.core i.w.slot) = false) :
    s.mx i load = (s.mxLm i load (i.w.core, s.lmPhys i.w.core i.w.slot (i.mxAddrs s).1) (i.w.core, s.lmPhys i.w.core i.w.slot (i.mxAddrs s).2)).advance i := by
  generalize ha : i.mxAddrs s = a at *
  have align : mxAlign i.e.sub.toNat a.1 = none := if_neg (by omega)
  have range : (s.rangeTrap i.w .lm (mxBytes i.e.sub.toNat) [(0, a.1)]).or (s.rangeTrap i.w .lm 1 [(32, a.2)]) = none := by
    have b : s.addressOk i.w .lm a.1 (mxBytes i.e.sub.toNat) = true := block
    have c : s.addressOk i.w .lm a.2 1 = true := scale
    simp [State.rangeTrap, b, c]
  have located : ∀ acc, s.locateAll i.w i.st.trap.priv .lm acc [(0, a.1), (32, a.2)] =
      [({ lane := 0, addr := a.1, pa := s.lmPhys i.w.core i.w.slot a.1 } : Spot), { lane := 32, addr := a.2, pa := s.lmPhys i.w.core i.w.slot a.2 }].map Located.ok := fun _ => rfl
  have locks : (s.lockTrap i.w .lm use (mxBytes i.e.sub.toNat) [{ lane := 0, addr := a.1, pa := s.lmPhys i.w.core i.w.slot a.1 }]).or
      (s.lockTrap i.w .lm use 1 [{ lane := 32, addr := a.2, pa := s.lmPhys i.w.core i.w.slot a.2 }]) = none := by
    have b : s.conflictAt i.w .lm use a.1 (mxBytes i.e.sub.toNat) = false := blockFree
    have c : s.conflictAt i.w .lm use a.2 1 = false := scaleFree
    simp [State.lockTrap, b, c]
  have held : s.rememberAll i.w .lm [(0, a.1), (32, a.2)] = s := rfl
  rw [huse] at locks
  unfold State.mx
  rw [if_neg active]
  simp only [ha, lm, normal, align, range, located, spotsOf_ok, faultsOf_ok, protectOf_ok, held, List.take_succ_cons, List.take_zero, List.drop_succ_cons, List.drop_zero, locks]
  simp

section
variable {e : Enc} {s : State}

theorem exec_mxld (h : Active .mxld e s) : exec (.mxld e) s = .next (s.mx (s.issue .mxld e) true) := by
  rw [show exec (.mxld e) s = next (strandOnly .mxld e s fun i s => s.mx i true) from rfl, strandOnly_clear h.toClear]; rfl

theorem exec_mxst (h : Active .mxst e s) : exec (.mxst e) s = .next (s.mx (s.issue .mxst e) false) := by
  rw [show exec (.mxst e) s = next (strandOnly .mxst e s fun i s => s.mx i false) from rfl, strandOnly_clear h.toClear]; rfl

end

theorem mxBlocks : Statements.MxBlocks := by
  intro e s lm w sub n phys ok terms
  refine ⟨fun h passes => ?load, fun h passes => ?store⟩
  case load =>
    obtain ⟨aligned, inLine, block, scale, blockFree, scaleFree⟩ := passes
    rw [exec_mxld h, State.mx_lm (i := s.issue .mxld e) (load := true) rfl h.active h.normal lm aligned inLine block scale blockFree scaleFree]
    rw [State.mxLm, show spaceOf (s.issue .mxld e).e = .lm from lm]
    rfl
  case store =>
    obtain ⟨aligned, inLine, block, scale, blockFree, scaleFree⟩ := passes
    rw [exec_mxst h, State.mx_lm (i := s.issue .mxst e) (load := false) rfl h.active h.normal lm aligned inLine block scale blockFree scaleFree]
    rw [State.mxLm, show spaceOf (s.issue .mxst e).e = .lm from lm]
    rfl

/-- Settles O30: PREF by whether a table walk waits and by SUB, the MX blocks by their checks, all of which pass. -/
theorem prefetchesAndBlocks : Obligations.PrefetchesAndBlocks := ⟨prefetches, mxBlocks⟩

end Sys2Proof.Machine
end

section
/-! The refutations of O33 and O34. -/

namespace Sys2Proof.Machine
open Sys2Proof Sys2Proof.Safety

/-- A load of the home, at an address of neither device nor host memory, with its token spent. -/
def aloneLoad : Load where
  id := 0
  cycle := 0
  scalar := false
  via := .home
  parts := [{ lane := 0, va := 0, pa := 2 ^ 47, size := 4, sub := 0, reg := 0, own := [] }]
  sectors := [(2 ^ 42, none)]
  lease := 4
  discard := false
  reserve := []
  failed := []
  paid := [2 ^ 47]

/-- A prefetch with the number of that load, which the numbering of accesses excludes. -/
def alikeLoad : Load := { aloneLoad with parts := [] }

/-- The strand that has issued them. -/
def firstStrand : Sid := { core := 0, slot := 0, strand := 0 }

/-- The module with these two loads in flight. -/
def twoAlike : State := { State.reset with cores := [(0, { combs := [(0, some { strands := [(0, { live := 1, flight := { nextId := 1, loads := [aloneLoad, alikeLoad] } })] })] })] }

/-- A load that its home performs, without a reservation to take: what changes in the strand, load by load of this number (R204). -/
theorem exec_loadPerform {s t : State} {w : Sid} {id sec : Nat} {l : Load} {v : BitVec 256 × Bool} (found : (s.strand w).load? id = some l) (may : s.mayPerform w id sec = true)
    (unreserved : l.reserve = []) (parts : l.parts ≠ []) (l2 : l.via ≠ .l2) (hbm : l.via ≠ .hbm) (paid : s.payLine w id (lineOf (32 * sec)) = (true, s))
    (remote : s.bindLocal w.core l.lease sec l.via = none) (bound : s.bindSector w.core l.lease sec l.via (!l.counted.contains (sec / 2)) = (some v, t)) :
    exec (.loadPerform w id sec) s = .next (t.onStrand w fun st => (st.onLoad id fun x => { x with
      sectors := x.sectors.map fun y => if y.1 = sec then (sec, some (v.1.toNat, v.2)) else y
      counted := (sec / 2) :: x.counted
      bound := if x.parts.isEmpty then x.bound else (sec, t.clock.gt) :: x.bound
      parts := x.parts.map fun p => if p.pa / 32 = sec then p.keepOwn (t.core w.core).unapplied else p }).termOf id (Terms.all t.clock.gt)) := by
  have some_part : l.parts.isEmpty = false := List.isEmpty_eq_false_iff.mpr parts
  rw [show exec (.loadPerform w id sec) s = execLoadPerform w id sec s from rfl, execLoadPerform, may, found]
  simp only [Bool.not_true, Bool.false_eq_true, if_false, paid, l2, hbm, decide_false, Bool.or_self, some_part, Bool.not_false, remote, Option.isNone_none, Bool.and_self, Bool.true_and, bound,
    unreserved, List.find?_nil, if_true]
  rw [List.foldl_fixed, ite_self]
  rfl

/-! The counterexample. -/

theorem twoAlike_bindLocal (len : Nat) : twoAlike.bindLocal 0 len (2 ^ 42) .home = none := by
  have no_copy : ∀ b : Bool, (if b = true then liveCopy [] (2 ^ 42) 0 else none) = none := fun b => ite_self _
  unfold State.bindLocal
  simp only [show twoAlike.clock.gt = 0 from rfl, no_copy]
  rfl

/-- The home performs the first load without waiting, and nothing of the module changes by it. -/
theorem twoAlike_bindSector (len : Nat) (count : Bool) : twoAlike.bindSector 0 len (2 ^ 42) .home count = (some (0, false), twoAlike) := by
  have ready : twoAlike.homeWaits (lineOf (32 * 2 ^ 42)) = false := by decide +kernel
  have read : twoAlike.readHome 0 len (2 ^ 42) .home count = ((0, false), twoAlike) := by
    cases count with
    | false => rfl
    | true => rfl
  rw [State.bindSector, twoAlike_bindLocal]
  dsimp only
  rw [ready, read]
  rfl

/-- Refutes O33: the clause about a load performed says that the sector enters the list of bound sectors of every load with its number. In a state in which a prefetch has the number of the load, which
the numbering of accesses excludes and the statement does not, the prefetch's list stays as it is. -/
theorem not_accessesComplete : ¬ Obligations.AccessesComplete := by
  rintro ⟨loads, -⟩
  have first : (twoAlike.strand firstStrand).load? 0 = some aloneLoad := rfl
  have paid : twoAlike.payLine firstStrand 0 (lineOf (32 * 2 ^ 42)) = (true, twoAlike) := rfl
  have may : twoAlike.mayPerform firstStrand 0 (2 ^ 42) = true := by decide +kernel
  obtain ⟨-, performs, -⟩ := loads twoAlike firstStrand 0 (2 ^ 42) _ first
  have stated := performs (0, false) twoAlike may rfl (List.cons_ne_nil _ _) LoadVia.noConfusion LoadVia.noConfusion (by rw [paid]) (by rw [paid]; exact twoAlike_bindSector 4 _)
  rw [exec_loadPerform first may rfl (List.cons_ne_nil _ _) LoadVia.noConfusion LoadVia.noConfusion paid (twoAlike_bindLocal 4) (twoAlike_bindSector 4 _)] at stated
  have same := congrArg (fun s : State => (s.strand firstStrand).flight.loads.map fun l => l.bound.length) (Host.Outcome.next.inj stated)
  dsimp only at same
  rw [State.strand_onStrand _ rfl, State.strand_onStrand _ rfl] at same
  exact absurd same (by decide +kernel)

end Sys2Proof.Machine
end

section
/-! The refutation of O34: two sibling regions of no line, which the statement does not exclude. -/

namespace Sys2Proof.Machine
open Sys2Proof

/-- A region of no line at address 0, with one sharer; a region of the directory has at least one line (R194). -/
def emptyRegion (sharer : Nat) : DirRegion := { base := 0, lines := 0, sharers := [sharer], stale := 0 }

/-- A directory of two of them, 16 us after their last update. -/
def twoEmpty : State := { State.reset with clock := { gt := 16000 }, memory := { directory := [emptyRegion 0, emptyRegion 1] } }

/-- The first region is its own sibling: it merges with itself, and the second one stays. -/
theorem twoEmpty_merge : exec (.directoryMerge 0) twoEmpty = .next (twoEmpty.onMem fun m => { m with directory := [emptyRegion 0, emptyRegion 1] }) := rfl

/-- Refutes O34: the clause about the directory says that two sibling halves that are all of the directory leave one region. Two regions of no line at address 0 meet its premises, but the first is then
its own sibling, is merged with itself, and leaves two regions. -/
theorem not_homesServe : ¬ Obligations.HomesServe := by
  intro h
  obtain ⟨-, -, -, merges, -⟩ := h twoEmpty
  obtain ⟨t, merged, r, alone, -⟩ := merges (emptyRegion 0) (emptyRegion 1) rfl (by decide) (by decide) rfl (by decide) (by decide) rfl
  rw [show (emptyRegion 0).base = 0 from rfl, twoEmpty_merge] at merged
  cases merged
  exact List.cons_ne_nil _ _ (List.cons.inj alone).2

end Sys2Proof.Machine
end

section
/-! The refutation of O28: a store of so many words, which no encoding gives, that it goes from the aperture of one core to that of the next. -/

namespace Sys2Proof.Machine
open Sys2Proof Sys2Proof.Safety

/-! Writes of LM. -/

/-- A byte of LM after a write. -/
theorem State.byte_lmWrite (s : State) (c a n v d b : Nat) :
    Mem.byte ((s.lmWrite c a n v).core d).lm b = if c = d ∧ a ≤ b ∧ b < a + n then BitVec.ofNat 8 (v / 256 ^ (b - a)) else Mem.byte (s.core d).lm b := by
  by_cases same : c = d
  · subst same
    rw [State.lmWrite, State.core_onCore]
    by_cases inside : a ≤ b ∧ b < a + n
    · obtain ⟨k, rfl⟩ : ∃ k, b = a + k := ⟨b - a, by omega⟩
      rw [if_pos ⟨rfl, inside⟩, Mem.byte_write_in _ _ _ _ _ (by omega), Nat.add_sub_cancel_left]
    · rw [if_neg fun h => inside h.2, Mem.byte_write_out _ _ _ _ _ (by omega)]
  · rw [State.lmWrite, State.core_onCore_ne _ _ same, if_neg fun h => same h.1]

/-- A write of LM touches no comb. -/
theorem KeepsCombs.lmWrite {s t : State} (h : KeepsCombs s t) (c a n v : Nat) : KeepsCombs s (t.lmWrite c a n v) := h.onCore c fun _ => rfl

section
variable {i : Issue} {s : State} {lane va pa n k : Nat}

/-- The words of one lane stored to peer LM, the first `m` of them (R177, R184). -/
def State.storeWords (s : State) (i : Issue) (lane va pa n k m : Nat) : State :=
  (List.range m).foldl (fun s j => s.storeSpot i.w .peer (va + 4 * j) (pa + 4 * j) n (i.storeWord s lane j).toNat k) s

theorem State.storeWords_succ (m : Nat) : s.storeWords i lane va pa n k (m + 1) =
    let t := s.storeWords i lane va pa n k m
    t.lmWrite (peerPlace i.w.core (va + 4 * m)).1 (pa + 4 * m) n (i.storeWord t lane m).toNat := by
  rw [State.storeWords, List.range_succ, List.foldl_append]; rfl

theorem State.storeWords_combs (m : Nat) : KeepsCombs s (s.storeWords i lane va pa n k m) := by
  induction m with
  | zero => exact KeepsCombs.refl s
  | succ m ih => rw [State.storeWords_succ]; exact ih.lmWrite ..

/-- The word that a lane stores does not change with LM. -/
theorem storeWord_combs {t : State} (h : KeepsCombs s t) (j : Nat) : i.storeWord t lane j = i.storeWord s lane j := by
  unfold Issue.storeWord State.readReg
  simp only [h.strand, h.comb, h.clock]

/-- The first byte of a whole word stored to peer LM, once it is stored. -/
theorem State.storeWords_byte {j m : Nat} (stored : j < m) :
    Mem.byte ((s.storeWords i lane va pa 4 k m).core (peerPlace i.w.core (va + 4 * j)).1).lm (pa + 4 * j) = (i.storeWord s lane j).setWidth 8 := by
  induction m with
  | zero => exact absurd stored (Nat.not_lt_zero _)
  | succ m ih =>
    rw [State.storeWords_succ]
    dsimp only
    rw [State.byte_lmWrite]
    by_cases last : j = m
    · subst last
      rw [if_pos ⟨rfl, by omega, by omega⟩, storeWord_combs (State.storeWords_combs _), Nat.sub_self]
      simp [BitVec.ofNat_toNat]
    · rw [if_neg (by omega), ih (by omega)]

/-- The strand once its stores have their number (R196). -/
def State.numberStores (s : State) (i : Issue) : State :=
  s.onStrand i.w fun st => { st with flight := { st.flight with nextId := i.st.flight.nextId + 1 } }

/-- The LM of every core after the stores of one lane to peer LM (R184). -/
theorem State.storeSpots_lm {x : Spot} (bad : List Nat) (peer : spaceOf i.e = .peer) (normal : (s.strand i.w).ahead = none) (d : Nat) :
    ((State.storeSpots i [x] bad s).core d).lm = (((s.numberStores i).storeWords i x.lane x.addr x.pa i.partSize i.st.flight.nextId i.words).core d).lm := by
  rw [State.storeSpots, if_neg (by simp [normal]), peer]
  exact (State.onComb_lm ..).trans (State.onComb_lm ..)

end

/-! The counterexample. -/

/-- The strand that stores, of a core of die 0. -/
def storingStrand : Sid := { core := 2, slot := 0, strand := 0 }

/-- STS of peer LM in the uniform form, with the literal 0 for the offset and SUB 17: 2^18 words, 1 MiB. -/
def wideStore : Enc := { len := .two, i := true, b := 0, a := 0, d := 0, sub := 17, ls := 0, qb := 2, tf := 0, g := 0, c := 0, w2 := 0 }

/-- Core 0 with a window of 1 MiB, and the strand that stores, with 1 in the word that lies 512 KiB after the first. -/
def wideWindow : State :=
  { State.reset with
    cur := storingStrand
    cores := [(0, { combs := [(0, some { shape := { lmb := 2 ^ 20 } })] }), (2, { combs := [(0, some { words := [(2 ^ 17 - 64, 1)], strands := [(0, { live := 1 })] })] })] }

theorem wideStore_targets : (wideWindow.issue .sts wideStore).targets wideWindow true = [(32, 0)] := by decide +kernel

/-- A uniform field names a uniform register or a comb word (R27). -/
theorem regOf_uniform_ne (wb n k : Nat) : regOf .s wb n ≠ Reg.v k := by
  unfold regOf
  dsimp only
  split
  · exact Reg.noConfusion
  · exact Reg.noConfusion

theorem not_varying_of_uniform {o : Op} {e : Enc} {f : Fld} (wb k : Nat) (uniform : classOf e.tf.toNat f = .s) : Reg.v k ∉ o.regsOf e wb f := by
  have group : ∀ n count, Reg.v k ∉ fieldRegs .s wb n count := fun n count listed => by
    obtain ⟨j, -, same⟩ := List.mem_map.mp listed
    exact regOf_uniform_ne wb _ k same
  have one : ∀ n, Reg.v k ∉ [regOf .s wb n] := fun n listed => regOf_uniform_ne wb n k (List.mem_singleton.mp listed).symm
  unfold Op.regsOf
  rw [uniform]
  dsimp only
  split
  · exact List.not_mem_nil
  · cases f with
    | d => exact group _ _
    | a => exact one _
    | b => exact group _ _
    | c =>
      dsimp only
      split
      · exact group _ _
      · exact one _

theorem wideStore_reads : named .sts wideStore wideWindow = Op.regsOf .sts wideStore 0 .a ++ Op.regsOf .sts wideStore 0 .b ++ Op.regsOf .sts wideStore 0 .c ++ Op.regsOf .sts wideStore 0 .d := by
  have reads : Op.reads .sts wideStore 0 = Op.regsOf .sts wideStore 0 .a ++ Op.regsOf .sts wideStore 0 .b ++ Op.regsOf .sts wideStore 0 .c ++ Op.regsOf .sts wideStore 0 .d ++ [] := rfl
  have writes : Op.writes .sts wideStore 0 = [] := rfl
  have names : Op.names .sts wideStore 0 = [] := rfl
  rw [named, show (wideWindow.strand wideWindow.cur).sp.wb = 0 from rfl, reads, writes, names]
  simp only [List.append_nil]

theorem wideStore_inWindow : InWindow .sts wideStore wideWindow := by
  refine ⟨fun privileged => absurd privileged (by decide), fun k listed => absurd listed ?_⟩
  rw [wideStore_reads]
  simp only [List.mem_append, not_or]
  exact ⟨⟨⟨not_varying_of_uniform 0 k rfl, not_varying_of_uniform 0 k rfl⟩, not_varying_of_uniform 0 k rfl⟩, not_varying_of_uniform 0 k rfl⟩

/-- No register of the strand that stores holds a mark. -/
theorem wideStore_unmarked : (wideWindow.issue .sts wideStore).poisonTrap wideWindow = none := by
  have clean : ∀ r, (wideWindow.issue .sts wideStore).poisonOf wideWindow r = 0 := fun r => by cases r <;> rfl
  have unmarked : ∀ r, (wideWindow.issue .sts wideStore).markedLanes wideWindow ((wideWindow.issue .sts wideStore).poisonOf wideWindow r) r = 0 := fun r => by
    rw [clean, Issue.markedLanes]
    exact BitVec.zero_and
  unfold Issue.poisonTrap
  rw [if_neg (by decide), List.find?_eq_none.mpr fun r _ => by simp [unmarked r]]

theorem wideStore_active : Active .sts wideStore wideWindow where
  strand := by decide
  may := by decide +kernel
  free := by
    have none_pending : (wideWindow.issue .sts wideStore).st.pendingRegs ++
        (wideWindow.comb (wideWindow.issue .sts wideStore).w.core (wideWindow.issue .sts wideStore).w.slot).pendingWords wideWindow.clock.cycle = [] := by decide +kernel
    rw [Issue.blocked, none_pending]
    exact List.any_eq_false.mpr fun r _ => Bool.false_ne_true
  normal := rfl
  checks := by
    have inside := wideStore_inWindow
    rw [firstTrap_permitted inside.1, windowTrap_inWindow inside, partialTrap_whole ⟨inside, .inr (.inr (by decide +kernel))⟩, clobberTrap_outside rfl, wideStore_unmarked]
    rfl
  active := by decide +kernel

/-- The one access passes every check of R183. -/
theorem wideStore_reaches : Reaches wideWindow (wideWindow.issue .sts wideStore) .peer ((wideWindow.issue .sts wideStore).targets wideWindow true) (storeNeed (wideWindow.issue .sts wideStore))
    [{ lane := 32, addr := 0, pa := 0 }] := by
  rw [wideStore_targets]
  exact ⟨by decide +kernel, by decide +kernel, by decide +kernel, rfl, by decide +kernel, Space.noConfusion⟩

/-- The word that lies 512 KiB after the first holds 1. -/
theorem wideStore_word : (wideWindow.issue .sts wideStore).storeWord (wideWindow.numberStores (wideWindow.issue .sts wideStore)) 32 (2 ^ 17) = 1 := by decide +kernel

/-- Word 2^17 goes to core 1, whose aperture begins 512 KiB after that of core 0 (R177). -/
theorem wideStore_written :
    Mem.byte (((wideWindow.numberStores (wideWindow.issue .sts wideStore)).storeWords (wideWindow.issue .sts wideStore) 32 0 0 4 0 (2 ^ 18)).core 1).lm (2 ^ 19) = 1#8 := by
  have core : (peerPlace (wideWindow.issue .sts wideStore).w.core (0 + 4 * 2 ^ 17)).1 = 1 := by decide
  have place : 0 + 4 * 2 ^ 17 = 2 ^ 19 := by decide
  have written := State.storeWords_byte (i := wideWindow.issue .sts wideStore) (s := wideWindow.numberStores (wideWindow.issue .sts wideStore))
    (lane := 32) (va := 0) (pa := 0) (k := 0) (show 2 ^ 17 < 2 ^ 18 by decide)
  rw [core, wideStore_word, place] at written
  exact written

/-- Refutes O28: the clause about peer LM says that only the core that a lane's address names is written. An STS with SUB 17, which no encoding gives and the statement does not exclude, stores 1 MiB from the aperture of core 0 on, so that its word 2^17 goes to core 1. -/
theorem not_stores : ¬ Obligations.Stores := by
  rintro ⟨-, -, peer, -⟩
  have stored := exec_sts wideStore_active
  rw [show spaceOf wideStore = .peer from rfl, access_reaches _ wideStore_reaches] at stored
  obtain ⟨-, framed⟩ := peer wideStore wideWindow _ _ rfl
  obtain ⟨bytes, -⟩ := framed wideStore_active wideStore_reaches stored
  have kept := bytes 1 (2 ^ 19) (by decide +kernel)
  rw [show (wideWindow.rememberAll _ .peer _) = wideWindow from if_neg Space.noConfusion, State.storeSpots_lm [] rfl rfl] at kept
  exact absurd (wideStore_written.symm.trans kept) (by decide +kernel)

end Sys2Proof.Machine
end

section
/-! Proofs about fences, tokens and the barriers of a comb (O31). -/

namespace Sys2Proof.Machine
open Sys2Proof Sys2Proof.Safety

/-! Tokens (R208). -/

section
variable {s : State} {w : Sid}

/-- A token whose accesses are all acknowledged is written to its register, and is pending no more (R208). -/
theorem State.writeToken_done {reg : Nat} {k : PendingToken} (found : (s.strand w).flight.tokens.find? (fun t => t.reg == reg) = some k) (register : reg < 64)
    (done : s.tokenDone k = true) :
    s.writeToken w reg = s.onStrand w fun st => let st := st.putS reg (BitVec.ofNat 32 k.term)
      { st with flight := { st.flight with tokens := st.flight.tokens.filter fun x => x.reg != reg } } := by
  simp [State.writeToken, found, done, register]

/-- The entries that a fence covers drain, and its token joins those of the strand (R208). -/
theorem State.tokens_beginToken (sc : Scope) (reg : Nat) (resident : (s.comb? w.core w.slot).isSome = true) :
    let drained := s.drainWhere w fun x => sc == .system || !x.fabric
    ((s.beginToken w sc reg).strand w).flight.tokens = (s.strand w).flight.tokens ++
      [{ reg := reg, scope := sc, ids := drained.covered w sc, lines := if sc = .system then (s.strand w).flight.lines else [],
         term := max s.clock.gt ((s.strand w).flight.terms.of sc) }] := by
  intro drained
  have drains : KeepsCombs s drained := (KeepsCombs.refl s).drainWhere w _
  rw [State.beginToken, State.strand_onStrand _ (by rw [drains.comb?]; exact resident), drains.strand, drains.clock]

theorem State.begun_listed (sc : Scope) (reg : Nat) (resident : (s.comb? w.core w.slot).isSome = true) :
    ∃ k ∈ ((s.beginToken w sc reg).strand w).flight.tokens, k.reg = reg ∧ k.scope = sc ∧ s.clock.gt ≤ k.term := by
  rw [State.tokens_beginToken sc reg resident]
  exact ⟨_, List.mem_append_right _ (List.mem_singleton_self _), rfl, rfl, Nat.le_max_left ..⟩

/-- Where no token of its register was pending, the token begun is the one found for it. -/
theorem State.find_begun (sc : Scope) (reg : Nat) (resident : (s.comb? w.core w.slot).isSome = true) (new : ∀ t ∈ (s.strand w).flight.tokens, t.reg ≠ reg) :
    let drained := s.drainWhere w fun x => sc == .system || !x.fabric
    ((s.beginToken w sc reg).strand w).flight.tokens.find? (fun t => t.reg == reg) =
      some { reg := reg, scope := sc, ids := drained.covered w sc, lines := if sc = .system then (s.strand w).flight.lines else [],
             term := max s.clock.gt ((s.strand w).flight.terms.of sc) } := by
  intro drained
  have old : (s.strand w).flight.tokens.find? (fun t => t.reg == reg) = none := List.find?_eq_none.mpr fun t ht => by simpa using new t ht
  rw [State.tokens_beginToken sc reg resident, List.find?_append, old]
  simp [drained]

theorem State.resident_beginToken (sc : Scope) (reg : Nat) (resident : (s.comb? w.core w.slot).isSome = true) :
    ((s.beginToken w sc reg).comb? w.core w.slot).isSome = true := by
  have drains := (KeepsCombs.refl s).drainWhere w fun x => sc == .system || !x.fabric
  rw [State.beginToken]
  exact State.resident_onStrand _ (by rw [drains.comb?]; exact resident)

/-- A token with nothing to wait for is written as it begins: the later of GT and the latest term of its scope (R208). -/
theorem State.writeToken_begun {sc : Scope} {reg : Nat} (resident : (s.comb? w.core w.slot).isSome = true) (new : ∀ t ∈ (s.strand w).flight.tokens, t.reg ≠ reg)
    (register : reg < 64) (acknowledged : (s.drainWhere w fun x => sc == .system || !x.fabric).covered w sc = []) (clean : sc = .system → (s.strand w).flight.lines = []) :
    Tab.get 0 (((s.beginToken w sc reg).writeToken w reg).strand w).regs.s reg = BitVec.ofNat 32 (max s.clock.gt ((s.strand w).flight.terms.of sc)) ∧
      (((s.beginToken w sc reg).writeToken w reg).comb? w.core w.slot).isSome = true := by
  have begun := State.resident_beginToken sc reg resident
  have lines : (if sc = .system then (s.strand w).flight.lines else []) = [] := by
    split
    · exact clean ‹_›
    · rfl
  have done : ∀ term, (s.beginToken w sc reg).tokenDone { reg := reg, scope := sc, ids := [], lines := [], term := term } = true := fun _ => rfl
  have found := State.find_begun sc reg resident new
  dsimp only at found
  rw [acknowledged, lines] at found
  rw [State.writeToken_done found register (done _), State.strand_onStrand _ begun]
  exact ⟨Tab.get_put_same .., State.resident_onStrand _ begun⟩

end

/-! FENCE (R206 to R208). -/

section
variable {e : Enc} {s : State}

/-- The pending tokens of a strand that are to be written to a register. -/
def Strand.fences (st : Strand) : Nat := (st.flight.tokens.filter fun t => t.reg < 64).length

theorem fence_issues (h : Active .fence e s) (room : (s.strand s.cur).fences < 4) :
    exec (.fence e) s = .next ((((s.onStrand s.cur Strand.closeRegion).beginToken s.cur (scopeOf e.sub) e.d.toNat).writeToken s.cur e.d.toNat).advance (s.issue .fence e)) := by
  rw [show exec (.fence e) s = execFence e s from rfl, execFence, strandOnly_clear h.toClear, if_neg fun full => absurd room (Nat.not_lt.mpr full.2),
    effect_ends h.active rfl rfl]
  rfl

theorem fence_waits (h : Active .fence e s) (full : 4 ≤ (s.strand s.cur).fences) : exec (.fence e) s = .next s := by
  rw [show exec (.fence e) s = execFence e s from rfl, execFence, strandOnly_clear h.toClear, if_pos ⟨h.active, full⟩]
  rfl

/-- With nothing left to wait for the token is written as the fence issues. -/
theorem fence_writes (h : Active .fence e s) (room : (s.strand s.cur).fences < 4) (register : e.d.toNat < 64) :
    let sc := scopeOf e.sub; let d := (s.onStrand s.cur Strand.closeRegion).drainWhere s.cur fun x => sc == .system || !x.fabric
    d.covered s.cur sc = [] → (sc = .system → (d.strand s.cur).flight.lines = []) → (∀ t ∈ (d.strand s.cur).flight.tokens, t.reg ≠ e.d.toNat) →
    Becomes (.fence e) s fun t => Tab.get 0 (t.strand s.cur).regs.s e.d.toNat = BitVec.ofNat 32 (max s.clock.gt ((d.strand s.cur).flight.terms.of sc)) := by
  intro sc d acknowledged clean other
  have closed : ((s.onStrand s.cur Strand.closeRegion).comb? s.cur.core s.cur.slot).isSome = true := State.resident_onStrand _ (State.resident_of_may h.may)
  have drained : d.strand s.cur = (s.onStrand s.cur Strand.closeRegion).strand s.cur := ((KeepsCombs.refl _).drainWhere ..).strand _
  rw [drained] at clean other ⊢
  obtain ⟨written, resident⟩ := State.writeToken_begun closed other register acknowledged clean
  obtain ⟨-, -, regs⟩ := State.strand_advance (i := s.issue .fence e) resident
  refine ⟨_, fence_issues h room, ?_⟩
  rw [State.onStrand_clock] at written
  rw [← written]
  exact congrArg (fun r : Regs => Tab.get 0 r.s e.d.toNat) regs

end

/-! FWAIT and FTEST (R209, R210). -/

section
variable {e : Enc} {s : State}

theorem exec_fwait (h : Clear .fwait e s) : exec (.fwait e) s = .next (if s.tokenPassed s.cur e.a.toNat then s.advance (s.issue .fwait e)
    else s.onStrand s.cur fun st => { st with sched := { st.sched with wait := some (.fwait e.a.toNat), waitLen := e.bytes } }) :=
  congrArg next (strandOnly_clear h)

theorem fwaitWake_passes {w : Sid} {r : Nat} (waits : (s.strand w).sched.wait = some (.fwait r)) (passed : s.tokenPassed w r = true) :
    exec (.fwaitWake w) s = .next (s.onStrand w fun st => st.passWait s.clock.cycle) := by
  rw [show exec (.fwaitWake w) s = execFwaitWake w s from rfl, execFwaitWake, waits]
  dsimp only
  rw [if_pos passed]
  rfl

theorem exec_ftest (h : Active .ftest e s) : Sets (.ftest e) .ftest e s fun _ => if s.tokenPassed s.cur e.a.toNat then 1 else 0 := by
  rw [Sets, show exec (.ftest e) s = execFtest e s from rfl, execFtest, strandOnly_clear h.toClear, effect_done h.active rfl rfl]
  rfl

end

/-! BARC (R212). -/

section
variable {e : Enc} {s : State}

theorem barc_stands (h : Active .barc e s) : let w := s.cur; let st := s.strand w
    Becomes (.barc e) s fun t => (t.strand w).sched.wait = some (.barc e.b.toNat (e.sub == 1)) ∧ (t.strand w).pcs = st.pcs ∧ (t.strand w).regs = st.regs ∧
      (t.strand w).region = none ∧ ∃ k ∈ (t.strand w).flight.tokens, k.reg = 64 ∧ k.scope = scopeOf e.sub ∧ s.clock.gt ≤ k.term := by
  intro w st
  have resident := State.resident_of_may h.may
  have closed := State.strand_onStrand Strand.closeRegion resident
  have resident' := State.resident_onStrand Strand.closeRegion resident
  obtain ⟨fl, begun⟩ := State.strand_beginToken (scopeOf e.sub) 64 resident'
  obtain ⟨k, listed, reg, scope, later⟩ := State.begun_listed (scopeOf e.sub) 64 resident'
  rw [State.onStrand_clock] at later
  refine ⟨_, congrArg next ((strandOnly_clear h.toClear).trans (if_neg h.active)), ?_⟩
  dsimp only
  rw [show (s.issue .barc e).w = w from rfl, State.strand_onStrand _ (State.resident_beginToken (scopeOf e.sub) 64 resident')]
  refine ⟨rfl, ?_, ?_, ?_, k, listed, reg, scope, later⟩
  · rw [begun, closed]; rfl
  · rw [begun, closed]; rfl
  · rw [begun, closed]; rfl

theorem barcRelease_releases {core slot n : Nat} (ready : s.barcReady core slot n = true) : exec (.barcRelease core slot n) s =
    .next ((s.participants core slot).foldl (fun s w => s.onStrand w fun st => let st := st.passWait s.clock.cycle
      { st with flight := { st.flight with tokens := st.flight.tokens.filter fun t => t.reg != 64 } }) s) :=
  congrArg next (if_pos ready)

end

/-- Settles O31: a fence begins its token and writes it where nothing is left to wait for, and FWAIT, FTEST and the barrier by what has passed and who has arrived. -/
theorem fencesAndBarriers : Obligations.FencesAndBarriers := by
  intro e s w st
  refine ⟨fun h => ⟨fence_issues h, fence_waits h, fence_writes h⟩, fun w reg k found register ids clean => ?_, fun h => ?_,
    fun w r waits unpended passed => fwaitWake_passes waits ?_, exec_ftest, barc_stands, fun _ _ _ => barcRelease_releases⟩
  · have done : s.tokenDone k = true := by
      rw [State.tokenDone, ids]
      simpa using clean
    exact congrArg next (State.writeToken_done found register done)
  · have course := exec_fwait h
    exact ⟨fun yes => course.trans (by rw [if_pos (show s.tokenPassed s.cur e.a.toNat = true from yes)]),
      fun no => course.trans (by rw [if_neg (by rw [show s.tokenPassed s.cur e.a.toNat = false from no]; exact Bool.false_ne_true)])⟩
  · rw [State.tokenPassed, unpended, passed]
    rfl

end Sys2Proof.Machine
end

section
/-! What an access at its home leaves of the strands: what each has in flight, and how many reservations there are (R193, R214, log entry 95). -/

namespace Sys2Proof

/-! Sums over tables. -/

section
variable {α : Type} {d : α} {g h : α → Nat}

/-- The sum of `g` over the entries of a table. -/
def Tab.total (g : α → Nat) (t : Tab α) : Nat := (t.map fun x => g x.2).sum

theorem Tab.total_cons (k : Nat) (v : α) (t : Tab α) : Tab.total g ((k, v) :: t) = g v + Tab.total g t := by simp [Tab.total]

theorem Tab.total_ins (i : Nat) (v : α) : ∀ t : Tab α, Tab.total g (Tab.ins i v t) = g v + Tab.total g t
  | [] => by simp [Tab.ins, Tab.total]
  | (k, x) :: t => by
    rw [Tab.ins]
    split
    · exact Tab.total_cons ..
    · rw [Tab.total_cons, Tab.total_ins i v t, Tab.total_cons]
      omega

/-- An entry gone takes its share of the sum with it. -/
theorem Tab.total_del (zero : g d = 0) (i : Nat) : ∀ t : Tab α, Tab.total g (Tab.del t i) + g (Tab.get d t i) ≤ Tab.total g t
  | [] => by simp [Tab.del, Tab.total, Tab.get, zero]
  | (k, x) :: t => by
    have rest := Tab.total_del zero i t
    rw [Tab.del, Tab.get, Tab.total_cons]
    split
    · omega
    · rw [Tab.total_cons]
      omega

theorem Tab.get_le_total (zero : g d = 0) (t : Tab α) (i : Nat) : g (Tab.get d t i) ≤ Tab.total g t :=
  (Nat.le_add_left ..).trans (Tab.total_del zero i t)

theorem Tab.any_get {p : Nat × α → Bool} (i : Nat) : ∀ t : Tab α, p (i, Tab.get d t i) = true → t.any p = true ∨ p (i, d) = true
  | [], h => .inr h
  | (k, v) :: t, h => by
    rw [Tab.get] at h
    rw [List.any_cons, Bool.or_eq_true]
    split at h
    · rename_i key
      exact .inl (.inl (key ▸ h))
    · exact (Tab.any_get i t h).imp_left .inr

variable [DecidableEq α]

theorem Tab.total_put (zero : g d = 0) (t : Tab α) (i : Nat) (v : α) : Tab.total g (Tab.put d t i v) + g (Tab.get d t i) ≤ Tab.total g t + g v := by
  have gone := Tab.total_del zero i t
  rw [Tab.put]
  split
  · rename_i default
    rw [default, zero]
    exact gone
  · rw [Tab.total_ins]
    omega

theorem Tab.total_mapVals {f : Nat → α → α} (less : ∀ i v, g (f i v) ≤ h v) : ∀ t : Tab α, Tab.total g (Tab.mapVals d f t) ≤ Tab.total h t
  | [] => Nat.le_refl _
  | (k, v) :: t => by
    have rest := Tab.total_mapVals less t
    have first := less k v
    rw [Tab.mapVals_cons, Tab.total_cons]
    split
    · omega
    · rw [Tab.total_cons]
      omega

/-- Where an entry of a table that has been put to one satisfies a test, an entry of the table or the one put does. -/
theorem Tab.any_put {p : Nat × α → Bool} {t : Tab α} {i : Nat} {v : α} (found : (Tab.put d t i v).any p = true) : t.any p = true ∨ p (i, v) = true := by
  have del : ∀ t : Tab α, (Tab.del t i).any p = true → t.any p = true := fun t => by
    induction t with
    | nil => exact id
    | cons x t ih =>
      rw [Tab.del, List.any_cons]
      split
      · exact fun h => by simp [ih h]
      · rw [List.any_cons, Bool.or_eq_true, Bool.or_eq_true]
        exact Or.imp_right ih
  have ins : ∀ t : Tab α, (Tab.ins i v t).any p = true → t.any p = true ∨ p (i, v) = true := fun t => by
    induction t with
    | nil => simp [Tab.ins]
    | cons x t ih =>
      rw [Tab.ins]
      split
      · simp only [List.any_cons, Bool.or_eq_true]
        exact Or.symm
      · simp only [List.any_cons, Bool.or_eq_true]
        rintro (first | later)
        · exact .inl (.inl first)
        · exact (ih later).imp_left .inr
  rw [Tab.put] at found
  split at found
  · exact .inl (del t found)
  · exact (ins _ found).imp_left (del t)

end

end Sys2Proof

namespace Sys2Proof.Machine
open Sys2Proof Sys2Proof.Safety

/-! Sums over the strands that a state lists. -/

/-- The sum of `g` over the strands of a comb. -/
def Comb.total (g : Strand → Nat) (k : Comb) : Nat := Tab.total g k.strands

/-- The sum of `g` over the strands of a slot of a core. -/
def slotTotal (g : Strand → Nat) : Option Comb → Nat
  | some k => k.total g
  | none => 0

/-- The sum of `g` over the strands of the combs of a core. -/
def Core.total (g : Strand → Nat) (k : Core) : Nat := Tab.total (slotTotal g) k.combs

theorem Core.total_default (g : Strand → Nat) : Core.total g {} = 0 := rfl
theorem slotTotal_none (g : Strand → Nat) : slotTotal g none = 0 := rfl

/-- The sum of `g` over the strands that a state lists. -/
def State.total (s : State) (g : Strand → Nat) : Nat := Tab.total (Core.total g) s.cores

/-- The share of a reservation's place in the number of those that `p` admits. -/
def resvShare (p : Resv → Bool) : Option Resv → Nat
  | some r => b2n (p r)
  | none => 0

/-- How many of a strand's reservations `p` admits. -/
def Strand.held (p : Resv → Bool) (st : Strand) : Nat := Tab.total (resvShare p) st.flight.resv

section
variable {s t : State} {g : Strand → Nat}

theorem State.total_onCore (s : State) (g : Strand → Nat) (c : Nat) (f : Core → Core) :
    (s.onCore c f).total g + (s.core c).total g ≤ s.total g + (f (s.core c)).total g := Tab.total_put (Core.total_default g) ..

theorem State.total_setComb {c n : Nat} {k : Comb} (resident : s.comb? c n = some k) (k' : Comb) : (s.setComb c n k').total g + k.total g ≤ s.total g + k'.total g := by
  have core : (s.setComb c n k').total g + (s.core c).total g ≤ s.total g + Tab.total (slotTotal g) (Tab.put none (s.core c).combs n (some k')) := s.total_onCore ..
  have slot : Tab.total (slotTotal g) (Tab.put none (s.core c).combs n (some k')) + slotTotal g (s.comb? c n) ≤ (s.core c).total g + slotTotal g (some k') := Tab.total_put (slotTotal_none g) ..
  rw [resident, slotTotal, slotTotal] at slot
  omega

/-- A change of one strand changes the sum by that strand's share. -/
theorem State.total_onStrand (zero : g {} = 0) (w : Sid) (f : Strand → Strand) :
    (s.onStrand w f).total g + g (s.strand w) ≤ s.total g + g (f (s.strand w)) := by
  unfold State.onStrand State.onComb
  split
  · rename_i k resident
    have strand : s.strand w = Tab.get {} k.strands w.strand := by rw [State.strand, State.comb, resident]; rfl
    have comb : Comb.total g { k with strands := Tab.put {} k.strands w.strand (f (s.strand w)) } + g (Tab.get {} k.strands w.strand) ≤ k.total g + g (f (s.strand w)) := Tab.total_put zero ..
    have state := State.total_setComb (g := g) resident { k with strands := Tab.put {} k.strands w.strand (f (s.strand w)) }
    rw [← strand] at comb
    dsimp only
    rw [← strand]
    omega
  · rename_i absent
    have strand : s.strand w = {} := by rw [State.strand, State.comb, absent]; rfl
    rw [strand, zero]
    exact Nat.le_add_right ..

theorem State.le_total (zero : g {} = 0) (w : Sid) : g (s.strand w) ≤ s.total g := by
  have core : (s.core w.core).total g ≤ s.total g := Tab.get_le_total (Core.total_default g) ..
  have slot : slotTotal g (s.comb? w.core w.slot) ≤ (s.core w.core).total g := Tab.get_le_total (slotTotal_none g) ..
  refine Nat.le_trans ?_ (slot.trans core)
  unfold State.strand State.comb
  cases s.comb? w.core w.slot with
  | none => exact Nat.le_of_eq zero
  | some k => exact Tab.get_le_total zero ..

end

/-! Every strand changed. -/

/-- The strands that `s` lists have been changed by `g` in `t`, and those left as the default strand have gone. -/
structure MapsStrands (s t : State) (g : Strand → Strand) : Prop where
  cores : ∃ F comb, t.cores = Tab.mapVals {} F s.cores ∧ (∀ c k, (F c k).combs = Tab.mapVals none (fun _ x => x.map comb) k.combs) ∧
    ∀ x : Comb, (comb x).strands = Tab.mapVals {} (fun _ st => g st) x.strands

section
variable {s t : State} {g : Strand → Strand} {w : Sid}

theorem State.mapStrands_maps (s : State) (f : Strand → Strand) : MapsStrands s (s.mapStrands f) f :=
  ⟨fun _ k => k.mapStrands f, fun x => { x with strands := Tab.mapVals {} (fun _ st => f st) x.strands }, rfl, fun _ _ => rfl, fun _ => rfl⟩

theorem MapsStrands.strand (h : MapsStrands s t g) (there : s.strand w ≠ {}) (stays : g (s.strand w) ≠ {}) : t.strand w = g (s.strand w) := by
  obtain ⟨F, comb, cores, combs, strands⟩ := h.cores
  cases resident : s.comb? w.core w.slot with
  | none => exact absurd (by rw [State.strand, State.comb, resident]; rfl) there
  | some k =>
    have listed : Tab.get {} k.strands w.strand = s.strand w := by rw [State.strand, State.comb, resident]; rfl
    have mapped : t.comb? w.core w.slot = some (comb k) := by
      rw [State.comb?, State.core, cores]
      exact State.comb?_mapCombs combs resident
    rw [State.strand, State.comb, mapped, Option.getD_some, strands, Tab.get_mapVals, listed]
    · rwa [listed]
    · rwa [listed]

theorem MapsStrands.total_le (h : MapsStrands s t g) {a b : Strand → Nat} (less : ∀ st, a (g st) ≤ b st) : t.total a ≤ s.total b := by
  obtain ⟨F, comb, cores, combs, strands⟩ := h.cores
  rw [State.total, cores]
  refine Tab.total_mapVals (fun c k => ?_) _
  rw [Core.total, combs]
  refine Tab.total_mapVals (fun _ x => ?_) _
  cases x with
  | none => exact Nat.le_refl _
  | some x =>
    rw [Option.map_some, slotTotal, Comb.total, strands]
    exact Tab.total_mapVals (fun _ => less) _

end

/-! What a strand has in flight. -/

/-- An atomic but for the lines that its fences still wait for. -/
def Atomic.unlined (a : Atomic) : Atomic := { a with lines := [] }

/-- The loads of a strand, its reservations, and its atomics but for the lines that its fences wait for. -/
def Strand.inFlight (st : Strand) : List Load × Tab (Option Resv) × List Atomic := (st.flight.loads, st.flight.resv, st.flight.atomics.map Atomic.unlined)

section
variable {a b : Strand}

theorem Strand.loads_of_inFlight (h : b.inFlight = a.inFlight) : b.flight.loads = a.flight.loads := congrArg Prod.fst h

theorem Strand.resv_of_inFlight (h : b.inFlight = a.inFlight) : b.flight.resv = a.flight.resv := congrArg (fun x => x.2.1) h

theorem Strand.load?_of_inFlight (h : b.inFlight = a.inFlight) (id : Nat) : b.load? id = a.load? id := by rw [Strand.load?, Strand.loads_of_inFlight h]; rfl

/-- The atomic of a number, but for the lines that its fences wait for, is told by what is in flight. -/
theorem Strand.unlined_atomic? (st : Strand) (id : Nat) : (st.atomic? id).map Atomic.unlined = st.inFlight.2.2.find? fun x => x.id == id := by
  rw [Strand.inFlight, List.find?_map]; rfl

theorem Strand.atomic?_of_inFlight (h : b.inFlight.2.2 = a.inFlight.2.2) {id : Nat} {x : Atomic} (found : a.atomic? id = some x) :
    ∃ y, b.atomic? id = some y ∧ y.unlined = x.unlined := by
  have same := b.unlined_atomic? id
  rw [h, ← a.unlined_atomic?, found] at same
  exact Option.map_eq_some_iff.mp same

/-- Terms learnt are not of what is in flight. -/
theorem Strand.inFlight_termOf (st : Strand) (id : Nat) (x : Terms) : (st.termOf id x).inFlight = st.inFlight := rfl

theorem Strand.inFlight_terms {α : Type} (id : α → Nat) (now : Terms) : ∀ (l : List α) (st : Strand), (l.foldl (fun (st : Strand) x => st.termOf (id x) now) st).inFlight = st.inFlight
  | [], _ => rfl
  | x :: l, st => (Strand.inFlight_terms id now l (st.termOf (id x) now)).trans rfl

theorem Strand.held_of_inFlight (h : b.inFlight = a.inFlight) (p : Resv → Bool) : b.held p = a.held p := by rw [Strand.held, Strand.resv_of_inFlight h]; rfl

end

/-- A strand with something in flight belongs to a resident comb. -/
theorem State.resident_of_inFlight {s : State} {w : Sid} (h : (s.strand w).inFlight ≠ ({} : Strand).inFlight) : (s.comb? w.core w.slot).isSome = true := by
  cases resident : s.comb? w.core w.slot with
  | some k => rfl
  | none => exact absurd (by rw [State.strand, State.comb, resident]; rfl) h

/-- A line written back changes no strand but for the terms and lines that its fences wait for (R349). -/
theorem State.lineCleaned_maps (s : State) (line : Nat) : ∃ g, MapsStrands s (s.lineCleaned line) g ∧ ∀ st, (g st).inFlight = st.inFlight := by
  unfold State.lineCleaned
  extract_lets gt clean now strand req comb drain cell swarm
  refine ⟨strand, ⟨fun _ k => { k.mapCombs comb with drains := k.drains.map drain }, comb, rfl, fun _ _ => rfl, fun _ => rfl⟩, fun st => ?_⟩
  refine (Strand.inFlight_terms (fun x : Atomic => x.id) now _ _).trans ?_
  simp [Strand.inFlight, Function.comp_def, Atomic.unlined]

/-! What an access leaves of the strands. -/

/-- The clock has not moved, what the strand has in flight is what it was, and of every kind of reservation there are no more. -/
structure Beside (s t : State) (w : Sid) : Prop where
  clock : t.clock = s.clock
  flight : (s.strand w).inFlight ≠ ({} : Strand).inFlight → (t.strand w).inFlight = (s.strand w).inFlight
  held : ∀ p, t.total (Strand.held p) ≤ s.total (Strand.held p)

section
variable {s t u : State} {w : Sid}

theorem Beside.refl (s : State) (w : Sid) : Beside s s w := ⟨rfl, fun _ => rfl, fun _ => Nat.le_refl _⟩

theorem Beside.trans (h : Beside s t w) (h' : Beside t u w) : Beside s u w where
  clock := h'.clock.trans h.clock
  flight busy := (h'.flight (by rwa [h.flight busy])).trans (h.flight busy)
  held p := (h'.held p).trans (h.held p)

/-- Where neither cores nor clock have changed. -/
theorem Beside.of_cores (w : Sid) (cores : t.cores = s.cores := by rfl) (clock : t.clock = s.clock := by rfl) : Beside s t w where
  clock := clock
  flight _ := by rw [State.strand, State.comb, State.comb?, State.core, cores]; rfl
  held _ := by rw [State.total, cores]; exact Nat.le_refl _

theorem Beside.onCore (w : Sid) (c : Nat) {f : Core → Core} (combs : ∀ k, (f k).combs = k.combs := by exact fun _ => rfl) : Beside s (s.onCore c f) w where
  clock := rfl
  flight _ := by rw [State.strand_onCore s (combs _)]
  held p := by
    have total := s.total_onCore (Strand.held p) c f
    rw [show (f (s.core c)).total (Strand.held p) = (s.core c).total (Strand.held p) by rw [Core.total, combs]; rfl] at total
    omega

theorem Beside.lineCleaned (w : Sid) (line : Nat) : Beside s (s.lineCleaned line) w := by
  obtain ⟨g, maps, same⟩ := s.lineCleaned_maps line
  refine ⟨rfl, fun busy => ?_, fun p => maps.total_le fun st => Nat.le_of_eq (Strand.held_of_inFlight (same st) p)⟩
  rw [maps.strand (fun default => busy (by rw [default])) (fun default => busy (by rw [← same, default])), same]

/-- Where cores have changed but for their combs, a resident comb stays in its slot. -/
theorem State.comb?_mapCores {F : Nat → Core → Core} {c n : Nat} {k : Comb} (combs : ∀ c x, (F c x).combs = x.combs) (resident : s.comb? c n = some k) :
    Tab.get none (Tab.get {} (Tab.mapVals {} F s.cores) c).combs n = some k := by
  have listed : Tab.get none (s.core c).combs n = some k := resident
  have mapped : Tab.get none (F c (s.core c)).combs n = some k := by rw [combs]; exact listed
  have busy : ∀ x : Core, Tab.get none x.combs n = some k → x ≠ {} := fun x h default => by simp [default, Tab.get] at h
  rw [Tab.get_mapVals (busy _ listed) (busy _ mapped)]
  exact mapped

theorem Beside.mapCores (w : Sid) {F : Nat → Core → Core} (combs : ∀ c x, (F c x).combs = x.combs) (cores : t.cores = Tab.mapVals {} F s.cores) (clock : t.clock = s.clock) :
    Beside s t w where
  clock := clock
  flight busy := by
    obtain ⟨k, resident⟩ := Option.isSome_iff_exists.mp (State.resident_of_inFlight busy)
    have stays : t.comb? w.core w.slot = some k := by
      rw [State.comb?, State.core, cores]
      exact State.comb?_mapCores combs resident
    rw [State.strand, State.comb, stays, State.strand, State.comb, resident]
  held p := by
    rw [State.total, cores]
    exact Tab.total_mapVals (fun c k => by rw [Core.total, combs]; exact Nat.le_refl _) _

theorem Beside.onL1s (w : Sid) (die : Nat) (f : Tab (Option Copy) → Tab (Option Copy)) : Beside s (s.onL1s die f) w :=
  .mapCores w (F := fun c k => if dieOf c = die then { k with l1 := f k.l1, constant := f k.constant } else k) (fun c k => by split <;> rfl) rfl rfl

/-! Lines that come to their homes. -/

theorem Beside.displaceL2 (w : Sid) (line : Nat) : Beside s (s.displaceL2 line) w := by
  unfold State.displaceL2
  split
  · exact .of_cores w
  · dsimp only
    split
    · exact .of_cores w
    · exact (Beside.lineCleaned w line).trans (.of_cores w)

theorem Beside.roomL2 (w : Sid) (line : Nat) : Beside s (s.roomL2 line) w := by
  unfold State.roomL2
  dsimp only
  split
  · exact .refl s w
  · split
    · exact .displaceL2 w _
    · exact .refl s w

theorem Beside.fillL2 (w : Sid) (line : Nat) : Beside s (s.fillL2 line) w := by
  unfold State.fillL2
  split
  · exact .refl s w
  · dsimp only
    split
    · exact (Beside.roomL2 w line).trans (.of_cores w)
    · exact .roomL2 w line

theorem Beside.holdHost (w : Sid) (line how : Nat) : Beside s (s.holdHost line how) w := by
  unfold State.holdHost
  split
  · exact (Beside.roomL2 w line).trans (.of_cores w)
  · exact .refl s w

theorem Beside.recall (w : Sid) (line : Nat) : Beside s (s.recall line) w := by
  obtain ⟨o, g, v, recalled⟩ := s.recall_recalled line
  rw [recalled]
  exact .of_cores w

theorem Beside.countAccess (w : Sid) (line : Nat) : Beside s (s.countAccess line) w := by
  unfold State.countAccess
  split
  · exact .of_cores w
  · exact .refl s w

theorem Beside.detectFailed (w : Sid) (line : Nat) : Beside s (s.detectFailed line) w := by
  have detects : ∀ x, Beside s (s.detect x) w := fun x => by
    unfold State.detect
    split
    · exact .refl s w
    · exact .of_cores w
  unfold State.detectFailed
  split
  · split
    · exact detects _
    · exact .refl s w
  · exact .refl s w

theorem Beside.forget (w : Sid) (core line : Nat) : Beside s (s.forget core line) w := by
  unfold State.forget
  split
  · exact .refl s w
  · exact (Beside.onCore w core (f := fun k => { k with l1 := dropLine k.l1 line, constant := dropLine k.constant line })).trans (.of_cores w)

end

/-! The bytes of memory at such an access. -/

section
variable (s : State)

theorem State.detectFailed_mem (line : Nat) : (s.detectFailed line).memory.mem = s.memory.mem := by
  have detects : ∀ x, (s.detect x).memory.mem = s.memory.mem := fun x => by
    unfold State.detect
    split
    · rfl
    · rfl
  unfold State.detectFailed
  split
  · split
    · exact detects _
    · rfl
  · rfl

theorem State.forget_mem (core line : Nat) : (s.forget core line).memory.mem = s.memory.mem := by
  unfold State.forget
  split
  · rfl
  · rfl

end
end Sys2Proof.Machine
end

section
/-! Proofs about snoops and back-invalidations (O32). -/

namespace Sys2Proof

theorem Mem.read_lt (m : Mem) : ∀ n a : Nat, Mem.read m a n < 2 ^ (8 * n)
  | 0, _ => Nat.one_pos
  | n + 1, a => by
    have rest := Mem.read_lt m n (a + 1)
    have first := (Mem.byte m a).isLt
    rw [Mem.read, Nat.mul_succ, Nat.pow_add]
    omega

end Sys2Proof

namespace Sys2Proof.Machine
open Sys2Proof Sys2Proof.Safety

theorem Mem.toNat_ofNat_read (m : Sys2Proof.Mem) (a n : Nat) : (BitVec.ofNat (8 * n) (Mem.read m a n)).toNat = Mem.read m a n :=
  (BitVec.toNat_ofNat ..).trans (Nat.mod_eq_of_lt (Mem.read_lt m n a))

/-- The bits of a line are the number that its bytes make. -/
theorem Mem.line_toNat (m : Sys2Proof.Mem) (line : Nat) : (Mem.line m line).toNat = Mem.read m line 64 := Mem.toNat_ofNat_read m line 64

/-! Reservations on a line (R214). -/

section
variable {s : State} {line : Nat}

/-- Whether a reservation is on a line. -/
def Resv.on (line : Nat) (r : Resv) : Bool := lineOf r.pa == line

/-- Where no strand that the state lists holds one, there is none. -/
theorem State.unreserved_of_total (zero : s.total (Strand.held (Resv.on line)) = 0) :
    ∀ w k r, Tab.get none (s.strand w).flight.resv k = some r → lineOf r.pa ≠ line := by
  intro w k r reserved
  have listed : resvShare (Resv.on line) (some r) ≤ (s.strand w).held (Resv.on line) := reserved ▸ Tab.get_le_total (d := none) rfl _ _
  have share : resvShare (Resv.on line) (some r) = 0 := Nat.le_zero.mp (zero ▸ listed.trans (State.le_total rfl w))
  rintro on
  simp [resvShare, Resv.on, on, b2n] at share

/-- A line's reservations lost, no strand holds one on it. -/
theorem State.total_clearResv (s : State) (line : Nat) : (s.clearResv line).total (Strand.held (Resv.on line)) = 0 := by
  have cleared : ∀ st : Strand, (st.clearResv line).held (Resv.on line) = 0 := fun st => by
    refine List.sum_eq_zero fun n listed => ?_
    obtain ⟨⟨k, y⟩, kept, rfl⟩ := List.mem_map.mp listed
    have apart := (List.mem_filter.mp kept).2
    cases y with
    | none => rfl
    | some r =>
      have apart : Resv.on line r = false := by simpa [Resv.on] using apart
      rw [resvShare, apart]
      rfl
  have nothing : s.total (fun _ => 0) = 0 := by
    have zero {α : Type} (t : Tab α) : Tab.total (fun _ => 0) t = 0 := by simp [Tab.total]
    have slots : slotTotal (fun _ => 0) = fun _ => 0 := funext fun x => by cases x with
      | none => rfl
      | some k => exact zero k.strands
    have cores : Core.total (fun _ => 0) = fun _ => 0 := funext fun k => by rw [Core.total, slots, zero]
    rw [State.total, cores, zero]
  exact Nat.le_zero.mp (nothing ▸ (s.mapStrands_maps fun st => st.clearResv line).total_le fun st => Nat.le_of_eq (cleared st))

end

/-! What the host stores to its lines (R225, R474). -/

/-- The host's store changes memory's bytes and the strands that hold reservations. -/
theorem State.hostStore_eq (s : State) (line : Nat) (mask : Dbl) (data : LineBits) : ∃ cores, s.hostStore line mask data =
    { s with cores := cores, memory := { s.memory with mem := Mem.writeMasked s.memory.mem line mask.toNat data.toNat 64 } } := by
  unfold State.hostStore
  split
  · exact ⟨_, rfl⟩
  · exact ⟨_, rfl⟩

/-- It writes the bytes of its mask and no other. -/
theorem State.hostStore_byte (s : State) (line : Nat) (mask : Dbl) (data : LineBits) (a : Nat) :
    Mem.byte (s.hostStore line mask data).memory.mem a =
      if line ≤ a ∧ a < line + 64 ∧ mask.getLsbD (a - line) = true then data.extractLsb' (8 * (a - line)) 8 else Mem.byte s.memory.mem a := by
  obtain ⟨cores, stored⟩ := s.hostStore_eq line mask data
  have byte : BitVec.ofNat 8 (data.toNat / 256 ^ (a - line)) = data.extractLsb' (8 * (a - line)) 8 := by
    rw [BitVec.extractLsb', Nat.shiftRight_eq_div_pow, Nat.pow_mul]
  rw [stored, Mem.byte_writeMasked, byte]
  rfl

theorem State.hostStore_byte_out (s : State) (line : Nat) (mask : Dbl) (data : LineBits) {a : Nat} (out : a < line ∨ line + 64 ≤ a) :
    Mem.byte (s.hostStore line mask data).memory.mem a = Mem.byte s.memory.mem a := by
  rw [State.hostStore_byte, if_neg (by omega)]

/-! A line withdrawn (R214, R225, R365). -/

section
variable {s : State} {line : Nat}

theorem State.recall_gives_up (s : State) (line : Nat) : (s.recall line).isOwned line = false := by
  unfold State.recall State.takeEvicted
  split
  · exact Tab.get_del_same ..
  · rename_i other
    split
    · exact Bool.eq_false_iff.mpr other
    · exact Bool.eq_false_iff.mpr other

/-- A line withdrawn has no owner and no reservation, and its snoop waits for the leases granted to the other die. -/
theorem withdraw_takes (s : State) (line : Nat) (mask : Dbl) (data : LineBits) : let t := s.withdraw line mask data
    (∃ x ∈ t.memory.snoops, x.line = line ∧ x.expiry = Tab.get 0 t.memory.grants (lineNo line) ∧ x.mask = mask ∧ x.data = data) ∧ t.isOwned line = false ∧
      t.memory.mem = s.memory.mem ∧ ∀ w k r, Tab.get none (t.strand w).flight.resv k = some r → lineOf r.pa ≠ line := by
  intro t
  have held := (Beside.onL1s (s := (s.recall line).clearResv line) { core := 0, slot := 0, strand := 0 } (homeDie line) fun t => dropLine t line).held (Resv.on line)
  rw [State.total_clearResv] at held
  refine ⟨⟨_, List.mem_append_right _ (List.mem_singleton_self _), rfl, rfl, rfl, rfl⟩, s.recall_gives_up line, State.recall_mem s line, ?_⟩
  exact State.unreserved_of_total (s := t) (Nat.le_zero.mp held)

/-- The host takes a line that the J40 holds: it is recalled (R225). -/
theorem hostSnoop_withdraws {take : HostTake} (host : isHost take.line = true) (aligned : take.line % 64 = 0) (free : s.snoopable take.line = true)
    (holds : Tab.get 0 s.memory.hostLines (lineNo take.line) ≠ 0) : exec (.hostSnoop take) s = .next (s.withdraw take.line take.mask take.data) := by
  rw [show exec (.hostSnoop take) s = execHostSnoop take s from rfl, execHostSnoop]
  simp [host, aligned, free, holds, next]

/-- The host stores at once to a line that the J40 does not hold (R225). -/
theorem hostSnoop_stores {take : HostTake} (host : isHost take.line = true) (aligned : take.line % 64 = 0) (free : s.snoopable take.line = true)
    (absent : Tab.get 0 s.memory.hostLines (lineNo take.line) = 0) : exec (.hostSnoop take) s = .next (s.hostStore take.line take.mask take.data) := by
  rw [show exec (.hostSnoop take) s = execHostSnoop take s from rfl, execHostSnoop]
  simp [host, aligned, free, absent, next]

theorem hostStore_takes {mask : Dbl} (data : LineBits) (stores : mask ≠ 0) :
    ∀ w k r, Tab.get none ((s.hostStore line mask data).strand w).flight.resv k = some r → lineOf r.pa ≠ line := by
  refine State.unreserved_of_total ?_
  rw [State.hostStore, if_neg stores]
  exact State.total_clearResv s line

theorem backInvalidate_withdraws {k : Nat} {l : Lease} (extent : s.extent? line = some (k, l)) (shared : l.kind = .shared) (device : isDevice line = true)
    (aligned : line % 64 = 0) (free : s.snoopable line = true) : exec (.backInvalidate line) s = .next (s.withdraw line 0 0) := by
  rw [show exec (.backInvalidate line) s = execBackInvalidate line s from rfl, execBackInvalidate, extent]
  simp [shared, device, aligned, free, next]

/-! The answer to a snoop (R225, R365). -/

/-- The state with a line given up: no snoop of it is being answered, and neither its home L2 nor the host's lines hold it. -/
def State.givenUp (s : State) (line : Nat) : State := s.onMem fun m => { m with
  snoops := m.snoops.filter fun x => x.line != line
  hostLines := Tab.del m.hostLines (lineNo line)
  l2 := Tab.del m.l2 (lineNo line) }

/-- A line given up stays so where its home stores to it. -/
theorem givenUp_stored {u : State} (given : u.memory = (s.givenUp line).memory) (mask : Dbl) (data : LineBits) : let t := u.hostStore line mask data
    (∀ y ∈ t.memory.snoops, y.line ≠ line) ∧ Tab.get 0 t.memory.hostLines (lineNo line) = 0 := by
  obtain ⟨cores, stored⟩ := u.hostStore_eq line mask data
  dsimp only
  rw [stored, given]
  exact ⟨fun y listed => by simpa using (List.mem_filter.mp listed).2, Tab.get_del_same ..⟩

/-- The host's answer, with the line's data. -/
def State.hostAnswered (s : State) (line : Nat) : State :=
  { s with host := { s.host with answers := s.host.answers ++ [{ pa := line, data := Mem.read s.memory.mem line 64, poison := s.linePoison line }] } }

/-- The home of a pool line that its owner has taken: the line holds what the owner has left, and is fetched again where its page is resident (R365, log entry 20). -/
def State.poolLine (s : State) (line : Nat) : State :=
  let u := s.hostStore line (BitVec.allOnes 64) (Config.outside s.clock.turn)
  if isDevice line && (u.page line).resident then u.onPage line fun p => { p with fetching := p.fetching ++ [line] } else u

theorem exec_snoopResponse {x : Snoop} (due : s.memory.snoops.find? (fun x => x.line == line && decide (x.expiry ≤ s.clock.gt)) = some x) :
    exec (.snoopResponse line) s = .next (if isHost line then ((s.givenUp line).hostAnswered line).hostStore line x.mask x.data else (s.givenUp line).poolLine line) := by
  have answer : execSnoopResponse line s = .next (if isHost line then ({ s.givenUp line with host := { s.host with answers := s.host.answers ++
      [{ pa := line, data := (Mem.line s.memory.mem line).toNat, poison := s.linePoison line }] } } : State).hostStore line x.mask x.data else (s.givenUp line).poolLine line) :=
    congrArg next (by rw [due]; rfl)
  rw [Mem.line_toNat] at answer
  exact answer

theorem snoopResponse_answers {x : Snoop} (due : s.memory.snoops.find? (fun x => x.line == line && decide (x.expiry ≤ s.clock.gt)) = some x) :
    Becomes (.snoopResponse line) s fun t => (∀ y ∈ t.memory.snoops, y.line ≠ line) ∧ Tab.get 0 t.memory.hostLines (lineNo line) = 0 ∧
      (isHost line = true → (∀ a, Mem.byte t.memory.mem a =
          if line ≤ a ∧ a < line + 64 ∧ x.mask.getLsbD (a - line) = true then x.data.extractLsb' (8 * (a - line)) 8 else Mem.byte s.memory.mem a) ∧
        t.host.answers = s.host.answers ++ [{ pa := line, data := Mem.read s.memory.mem line 64, poison := s.linePoison line }]) ∧
      ∀ a, a < line ∨ line + 64 ≤ a → Mem.byte t.memory.mem a = Mem.byte s.memory.mem a := by
  refine ⟨_, exec_snoopResponse due, ?_⟩
  split
  · obtain ⟨unsnooped, absent⟩ := givenUp_stored (u := (s.givenUp line).hostAnswered line) rfl x.mask x.data
    refine ⟨unsnooped, absent, fun _ => ⟨State.hostStore_byte _ line x.mask x.data, ?_⟩, fun a => State.hostStore_byte_out _ line x.mask x.data⟩
    obtain ⟨cores, stored⟩ := ((s.givenUp line).hostAnswered line).hostStore_eq line x.mask x.data
    rw [stored]
    rfl
  · rename_i pool
    obtain ⟨unsnooped, absent⟩ := givenUp_stored (u := s.givenUp line) rfl (BitVec.allOnes 64) (Config.outside s.clock.turn)
    have bytes := fun a => State.hostStore_byte_out (s.givenUp line) line (BitVec.allOnes 64) (Config.outside s.clock.turn) (a := a)
    unfold State.poolLine
    dsimp only
    split
    · exact ⟨unsnooped, absent, fun host => absurd host pool, bytes⟩
    · exact ⟨unsnooped, absent, fun host => absurd host pool, bytes⟩

theorem snoopResponse_waits (leased : ∀ x ∈ s.memory.snoops, x.line = line → s.clock.gt < x.expiry) : exec (.snoopResponse line) s = .next s := by
  have none_due : s.memory.snoops.find? (fun x => x.line == line && decide (x.expiry ≤ s.clock.gt)) = none :=
    List.find?_eq_none.mpr fun x listed => by simpa using leased x listed
  exact congrArg next (by rw [none_due])

end

theorem snoops : Statements.Snoops := by
  intro s line stored
  exact ⟨fun mask data host aligned free holds => ⟨_, hostSnoop_withdraws (take := { line := line, mask := mask, data := data }) host aligned free holds, withdraw_takes s line mask data⟩,
    fun mask data host aligned free absent => ⟨_, hostSnoop_stores (take := { line := line, mask := mask, data := data }) host aligned free absent, s.hostStore_byte line mask data, hostStore_takes data⟩,
    fun _ _ => backInvalidate_withdraws, fun _ => snoopResponse_answers, snoopResponse_waits⟩

end Sys2Proof.Machine
end

section
/-! Proofs about reservations and conditional stores (O32). -/

namespace Sys2Proof

/-- A table without a key reads as the default there. -/
theorem Tab.get_absent {α : Type} {d : α} {i : Nat} : ∀ {t : Tab α}, (∀ x ∈ t, x.1 ≠ i) → Tab.get d t i = d
  | [], _ => rfl
  | x :: _, h => (if_neg (h x List.mem_cons_self)).trans (Tab.get_absent fun y listed => h y (List.mem_cons_of_mem x listed))

end Sys2Proof

namespace Sys2Proof.Machine
open Sys2Proof Sys2Proof.Safety

/-! The loads and atomics of a strand (R198, R232). -/

section
variable {st : Strand} {id : Nat}

/-- The first entry of a number, where every entry of the number has been changed. -/
theorem find?_map_of_id {α : Type} {num : α → Nat} {f : α → α} (keeps : ∀ x, num (f x) = num x) {l : List α} {x : α} (found : l.find? (fun x => num x == id) = some x) :
    (l.map fun x => if num x = id then f x else x).find? (fun x => num x == id) = some (f x) := by
  have same : ((fun x => num x == id) ∘ fun x => if num x = id then f x else x) = fun x => num x == id := funext fun x => by
    rw [Function.comp]
    split
    · rw [keeps]
    · rfl
  rw [List.find?_map, same, found, Option.map_some, if_pos (by simpa using List.find?_some found)]

theorem Strand.load?_onLoad {f : Load → Load} {l : Load} (found : st.load? id = some l) (keeps : ∀ l, (f l).id = l.id := by exact fun _ => rfl) :
    (st.onLoad id f).load? id = some (f l) := find?_map_of_id keeps found

theorem Strand.atomic?_onAtomic {f : Atomic → Atomic} {a : Atomic} (found : st.atomic? id = some a) (keeps : ∀ a, (f a).id = a.id := by exact fun _ => rfl) :
    (st.onAtomic id f).atomic? id = some (f a) := find?_map_of_id keeps found

theorem Strand.busy_of_load {l : Load} (found : st.load? id = some l) : st.inFlight ≠ ({} : Strand).inFlight := fun default => by
  rw [Strand.load?, Strand.loads_of_inFlight default] at found
  exact nomatch found

theorem Strand.atomics_of_atomic {a : Atomic} (found : st.atomic? id = some a) : st.inFlight.2.2 ≠ [] := fun none => by
  have listed := st.unlined_atomic? id
  rw [none, found] at listed
  exact nomatch listed

theorem Strand.busy_of_atomics (busy : st.inFlight.2.2 ≠ []) : st.inFlight ≠ ({} : Strand).inFlight := fun default => busy (by rw [default]; rfl)

theorem Strand.busy_of_atomic {a : Atomic} (found : st.atomic? id = some a) : st.inFlight ≠ ({} : Strand).inFlight :=
  Strand.busy_of_atomics (Strand.atomics_of_atomic found)

end

/-! What a change of a strand leaves at the homes. -/

/-- A change of a strand changes the cores only, and puts for one of them one with the same copies, so that no line is shared that was not. -/
theorem State.onStrand_cores (s : State) (w : Sid) (f : Strand → Strand) : ∃ cores, s.onStrand w f = { s with cores := cores } ∧
    ∀ die line, (s.onStrand w f).sharedOn die line = true → s.sharedOn die line = true := by
  unfold State.onStrand State.onComb
  split
  · refine ⟨_, rfl, fun die line shared => ?_⟩
    have unlisted (k : Core) (empty : k.l1 = []) (empty' : k.constant = []) : ((dieOf w.core == die) && ((liveCopy k.l1 (line / 32) s.clock.gt).isSome ||
        (liveCopy k.l1 (line / 32 + 1) s.clock.gt).isSome || (liveCopy k.constant (line / 32) s.clock.gt).isSome || (liveCopy k.constant (line / 32 + 1) s.clock.gt).isSome)) = false := by
      rw [empty, empty']
      exact Bool.and_false _
    refine (Tab.any_put shared).elim id fun put => (Tab.any_get w.core s.cores put).resolve_right ?_
    exact Bool.not_eq_true _ ▸ unlisted {} rfl rfl
  · exact ⟨_, rfl, fun _ _ => id⟩

/-- A line that is not awaited at its home is not awaited after a change of a strand (R248, R225, R347). -/
theorem State.homeWaits_onStrand {s : State} {w : Sid} {f : Strand → Strand} {line : Nat} (ready : s.homeWaits line = false) : (s.onStrand w f).homeWaits line = false := by
  obtain ⟨cores, changed, shared⟩ := s.onStrand_cores w f
  rw [changed] at shared ⊢
  have leased (a : Nat) (h : ({ s with cores := cores } : State).leased a = true) : s.leased a = true := by
    rw [State.leased, Bool.or_eq_true, Bool.or_eq_true] at h ⊢
    exact h.imp_left (Or.imp (shared 0 a) (shared 1 a))
  have displace (a : Nat) (h : s.mayDisplace a = true) : ({ s with cores := cores } : State).mayDisplace a = true := by
    rw [State.mayDisplace] at h ⊢
    split at h
    · rename_i host
      rw [if_pos host]
      rw [Bool.not_eq_true'] at h ⊢
      exact Bool.eq_false_iff.mpr fun still => by rw [leased a still] at h; exact Bool.noConfusion h
    · rename_i device
      rw [if_neg device]
      exact h
  have room (h : s.hasRoomL2 line = true) : ({ s with cores := cores } : State).hasRoomL2 line = true := by
    simp only [State.hasRoomL2, Bool.or_eq_true, List.any_eq_true] at h ⊢
    exact h.imp_right fun ⟨a, held, may⟩ => ⟨a, held, displace a may⟩
  have homeReady (h : s.homeReady line = true) : ({ s with cores := cores } : State).homeReady line = true := by
    rw [State.homeReady] at h ⊢
    split at h
    · rename_i host
      rw [if_pos host]
      exact room h
    · rename_i device
      rw [if_neg device]
      exact h
  simp only [State.homeWaits, Bool.or_eq_false_iff, Bool.not_eq_false'] at ready ⊢
  refine ⟨ready.1, ?_⟩
  rw [Bool.or_eq_true] at *
  exact ready.2.imp_left homeReady

/-! The token of a line of a load (R368). -/

/-- Where shares are not enforced a load has its token at once, and nothing else of the strand or of the homes changes. -/
theorem State.payLine_unthrottled {s : State} {w : Sid} {id : Nat} {l : Load} (line : Nat) (found : (s.strand w).load? id = some l) (free : (s.core w.core).shares.en = false) :
    ∃ t, s.payLine w id line = (true, t) ∧ t.memory = s.memory ∧ t.clock = s.clock ∧ (∀ p, t.total (Strand.held p) ≤ s.total (Strand.held p)) ∧
      (∀ a, s.homeWaits a = false → t.homeWaits a = false) ∧ ∃ l', (t.strand w).load? id = some l' ∧ l'.sectors = l.sectors := by
  unfold State.payLine
  rw [found]
  dsimp only
  split
  · exact ⟨s, rfl, rfl, rfl, fun _ => Nat.le_refl _, fun _ h => h, l, found, rfl⟩
  · have unthrottled : s.spend w.core (s.tenantOf w.core w.slot) (.load w id line) 1 = (1, s) := by
      rw [State.spend, free]
      rfl
    have resident := State.resident_of_inFlight (Strand.busy_of_load found)
    rw [unthrottled]
    refine ⟨_, rfl, State.onStrand_memory .., State.onStrand_clock .., fun p => ?_, fun a => State.homeWaits_onStrand, { l with paid := line :: l.paid }, ?_, rfl⟩
    · have total := State.total_onStrand (s := s) (g := Strand.held p) rfl w fun st => st.onLoad id fun l => { l with paid := line :: l.paid }
      exact Nat.le_of_add_le_add_right total
    · rw [State.strand_onStrand _ resident]
      exact Strand.load?_onLoad found

/-! A load that its home performs for an LRES (R213). -/

theorem State.bindLocal_home (s : State) (core len sec : Nat) : s.bindLocal core len sec .home = none := by
  have uncached : ∀ b : Bool, (if b = true then liveCopy [] sec s.clock.gt else none) = none := fun b => ite_self _
  unfold State.bindLocal
  simp [uncached]

/-- The home's own read recalls the line and counts, and changes no byte and no strand's accesses. -/
theorem State.readHome_home (s : State) (w : Sid) (core len sec : Nat) (count : Bool) : ∃ t poison,
    s.readHome core len sec .home count = ((Mem.sector s.memory.mem sec, poison), t) ∧ Beside s t w ∧ t.memory.mem = s.memory.mem := by
  generalize read : s.readHome core len sec .home count = r
  unfold State.readHome at read
  extract_lets line die reached counted v c at read
  subst read
  have recalls : Beside s reached w := .recall w line
  have counts : Beside reached (if count then reached.countAccess line else reached) w := by
    split
    · exact .countAccess w line
    · exact .refl reached w
  have mem : counted.memory.mem = s.memory.mem := by
    simp only [counted, State.detectFailed_mem, State.holdHost_mem, State.fillL2_mem]
    split
    · rw [State.countAccess_mem]
      exact s.recall_mem line
    · exact s.recall_mem line
  refine ⟨counted.forget core line, (counted.homeSector sec).2, ?_, ?_, ?_⟩
  · rw [← mem]; rfl
  · exact recalls.trans (counts.trans ((Beside.fillL2 w line).trans ((Beside.holdHost w line _).trans ((Beside.detectFailed w line).trans (.forget w core line)))))
  · rw [State.forget_mem, mem]

/-- The sector's value and its home's answer. -/
theorem State.bindSector_home {s : State} {sec : Nat} (ready : s.homeWaits (lineOf (32 * sec)) = false) (w : Sid) (core len : Nat) (count : Bool) : ∃ t poison,
    s.bindSector core len sec .home count = (some (Mem.sector s.memory.mem sec, poison), t) ∧ Beside s t w ∧ t.memory.mem = s.memory.mem := by
  obtain ⟨t, poison, read, beside, mem⟩ := s.readHome_home w core len sec count
  refine ⟨t, poison, ?_, beside, mem⟩
  rw [State.bindSector, State.bindLocal_home]
  dsimp only
  rw [ready, read]
  rfl

/-- The length of a list that every listed strand adds to. -/
theorem length_listed {β : Type} {g : Strand → Nat} {slot : Nat × Option Comb → List β} (slots : ∀ k, (slot k).length = slotTotal g k.2) (s : State) :
    (s.cores.flatMap fun c => c.2.combs.flatMap slot).length = s.total g := by
  rw [List.length_flatMap]
  refine congrArg List.sum (List.map_congr_left fun c _ => ?_)
  rw [List.length_flatMap]
  exact congrArg List.sum (List.map_congr_left fun k _ => slots k)

theorem length_strands {β : Type} {g : Strand → Nat} {f : Strand → List β} (strands : ∀ st, (f st).length = g st) (k : Comb) :
    (k.strands.flatMap fun x => f x.2).length = k.total g := by
  rw [List.length_flatMap]
  exact congrArg List.sum (List.map_congr_left fun x _ => strands x.2)

/-- Whether a reservation is held by the home slice of a byte. -/
def Resv.beside (pa : Nat) (r : Resv) : Bool := homeDie r.pa == homeDie pa && homeSlice r.pa == homeSlice pa

theorem length_filterMap_resv {β : Type} {p : Resv → Bool} {f : Nat × Option Resv → Option β} (place : ∀ y, (f y).toList.length = resvShare p y.2) :
    ∀ l : Tab (Option Resv), (l.filterMap f).length = Tab.total (resvShare p) l
  | [] => rfl
  | y :: l => by
    have rest := length_filterMap_resv place l
    have first := place y
    rw [List.filterMap_cons, Tab.total_cons, ← rest, ← first]
    cases f y with
    | none => exact (Nat.zero_add _).symm
    | some x => exact Nat.add_comm ..

/-- The reservations of a slice, counted. -/
theorem length_sliceResvs (s : State) (pa : Nat) : (sliceResvs s pa).length = s.total (Strand.held (Resv.beside pa)) := by
  refine length_listed (fun k => ?_) s
  obtain ⟨n, k⟩ := k
  cases k with
  | none => rfl
  | some k =>
    refine length_strands (f := fun st => (st.flight.resv.filterMap fun y => y.2).filter (Resv.beside pa)) (fun st => ?_) k
    rw [List.filter_filterMap]
    refine length_filterMap_resv (fun y => ?_) st.flight.resv
    obtain ⟨n, r⟩ := y
    cases r with
    | none => rfl
    | some r => cases here : Resv.beside pa r <;> simp [resvShare, here, b2n, Option.filter]

/-- The strand with a reservation put in one of its places. -/
def Strand.grant (st : Strand) (slot : Nat) (r : Resv) : Strand := { st with flight := { st.flight with resv := Tab.put none st.flight.resv slot (some r) } }

theorem Strand.held_grant (st : Strand) (slot : Nat) (r : Resv) (p : Resv → Bool) : (st.grant slot r).held p ≤ st.held p + 1 := by
  have put := Tab.total_put (d := none) (g := resvShare p) rfl st.flight.resv slot (some r)
  have one : resvShare p (some r) ≤ 1 := by
    rw [resvShare, b2n]
    split <;> decide
  exact (Nat.le_add_right ..).trans (put.trans (Nat.add_le_add_left one _))

/-- A reservation granted in a slice with room joins those that the strand holds, and none goes (R213, R214). -/
theorem State.reserve_joins {s : State} {w : Sid} (slot va : Nat) {pa : Nat} (resident : (s.comb? w.core w.slot).isSome = true)
    (room : s.total (Strand.held (Resv.beside pa)) < 512) : let t := s.reserve w slot va pa
    t.memory.mem = s.memory.mem ∧ (t.strand w).flight.loads = (s.strand w).flight.loads ∧
      ∃ r, Tab.get none (t.strand w).flight.resv slot = some r ∧ r.addr = va ∧ r.pa = pa ∧ r.gt = s.clock.gt := by
  generalize reserved : s.reserve w slot va pa = t
  unfold State.reserve at reserved
  extract_lets n r u here held at reserved
  have count : held.length = u.total (Strand.held (Resv.beside pa)) := by
    refine length_listed (fun k => ?_) u
    obtain ⟨n, k⟩ := k
    cases k with
    | none => rfl
    | some k =>
      refine length_strands (fun st => length_filterMap_resv (fun y => ?_) st.flight.resv) k
      obtain ⟨n, r⟩ := y
      cases r with
      | none => rfl
      | some x =>
        dsimp only
        cases near : here x with
        | false => simp [resvShare, b2n, show Resv.beside pa x = false from near]
        | true => simp [resvShare, b2n, show Resv.beside pa x = true from near]
  have granted : u.total (Strand.held (Resv.beside pa)) ≤ s.total (Strand.held (Resv.beside pa)) + 1 := by
    have total := s.total_onStrand (g := Strand.held (Resv.beside pa)) rfl w fun st => st.grant slot r
    have one := (s.strand w).held_grant slot r (Resv.beside pa)
    have same : u.total (Strand.held (Resv.beside pa)) = (s.onStrand w fun st => st.grant slot r).total (Strand.held (Resv.beside pa)) := rfl
    omega
  rw [if_pos (by omega)] at reserved
  have strand : t.strand w = (s.strand w).grant slot r := by rw [← reserved]; exact State.strand_onStrand _ resident
  refine ⟨?_, by rw [strand]; rfl, r, by rw [strand]; exact Tab.get_put_same none (s.strand w).flight.resv slot (some r), rfl, rfl, rfl⟩
  have bytes : (s.onStrand w fun st => st.grant slot r).memory.mem = s.memory.mem := by rw [State.onStrand_memory]
  rw [← reserved]
  exact bytes

/-! A load that an LRES has asked for (R204, R213). -/

/-- What the home's answer leaves of the load: the sector bound, and counted where it counts. -/
def Load.performed (l : Load) (sec : Nat) (v : BitVec 256 × Bool) (home : Bool) (gt : Nat) (live : List Nat) : Load := { l with
  sectors := l.sectors.map fun x => if x.1 = sec then (sec, some (v.1.toNat, v.2)) else x
  counted := if home then (sec / 2) :: l.counted else l.counted
  bound := if l.parts.isEmpty then l.bound else (sec, gt) :: l.bound
  parts := l.parts.map fun p => if sectorOf p.pa = sec then p.keepOwn live else p }

section
variable {s : State} {w : Sid} {id sec : Nat} {l : Load} {p : LoadPart} {k : Nat}

/-- A lane's load of an LRES that its home performs: its sector is bound, and the lane's reservation granted (R213). -/
theorem exec_loadPerform_reserving {u t : State} {v : BitVec 256 × Bool} (found : (s.strand w).load? id = some l) (may : s.mayPerform w id sec = true) (via : l.via = .home)
    (kept : l.discard = false) (parts : l.parts = [p]) (here : p.pa / 32 = sec) (reserve : l.reserve = [(p.lane, k)]) (paid : s.payLine w id (lineOf (32 * sec)) = (true, u))
    (bound : u.bindSector w.core l.lease sec .home (!l.counted.contains (sec / 2)) = (some v, t)) :
    exec (.loadPerform w id sec) s = .next ((t.onStrand w fun st => (st.onLoad id fun x => x.performed sec v true t.clock.gt (t.core w.core).unapplied).termOf id (Terms.all t.clock.gt)).reserve
      w k p.va p.pa) := by
  have in_sector : sectorOf p.pa = sec := here
  rw [show exec (.loadPerform w id sec) s = execLoadPerform w id sec s from rfl, execLoadPerform, may, found]
  simp only [Bool.not_true, Bool.false_eq_true, if_false, paid, via, reduceCtorEq, decide_false, Bool.or_self, parts, List.isEmpty_cons, Bool.not_false, State.bindLocal_home,
    Option.isNone_none, Bool.and_self, Bool.true_and, bound, kept, if_true, List.filter_cons, in_sector, beq_self_eq_true, List.filter_nil, List.foldl_cons, List.foldl_nil, reserve,
    List.find?_cons]
  rfl

/-- A load that may be performed for a sector lists it. -/
theorem sector_of_mayPerform (found : (s.strand w).load? id = some l) (may : s.mayPerform w id sec = true) : ∃ x ∈ l.sectors, x.1 = sec := by
  simp only [State.mayPerform, found, Bool.and_eq_true] at may
  obtain ⟨⟨-, awaited⟩, -⟩ := may
  obtain ⟨x, listed, here⟩ := List.any_eq_true.mp awaited
  exact ⟨x, listed, by simpa using (Bool.and_eq_true_iff.mp here).1⟩

/-- An LRES reserves (R213, R214). -/
theorem loadPerform_reserves (found : (s.strand w).load? id = some l) (may : s.mayPerform w id sec = true) (via : l.via = .home) (kept : l.discard = false) (parts : l.parts = [p])
    (here : p.pa / 32 = sec) (reserve : l.reserve = [(p.lane, k)]) (free : (s.core w.core).shares.en = false) (ready : s.homeWaits (lineOf (32 * sec)) = false)
    (room : (sliceResvs s p.pa).length < 512) : Becomes (.loadPerform w id sec) s fun t =>
      t.memory.mem = s.memory.mem ∧ (∃ r, Tab.get none (t.strand w).flight.resv k = some r ∧ r.addr = p.va ∧ r.pa = p.pa ∧ r.gt = s.clock.gt) ∧
      ∃ l', (t.strand w).load? id = some l' ∧ ∃ poison, (sec, some ((Mem.sector s.memory.mem sec).toNat, poison)) ∈ l'.sectors := by
  obtain ⟨u, paid, memory, clock, fewer, still, l₁, found₁, sectors⟩ := State.payLine_unthrottled (lineOf (32 * sec)) found free
  obtain ⟨t, poison, bound, beside, mem⟩ := State.bindSector_home (still _ ready) w w.core l.lease (!l.counted.contains (sec / 2))
  have exec := exec_loadPerform_reserving found may via kept parts here reserve paid bound
  have flight := beside.flight (Strand.busy_of_load found₁)
  have found₂ : (t.strand w).load? id = some l₁ := by rw [Strand.load?_of_inFlight flight, found₁]
  have resident := State.resident_of_inFlight (Strand.busy_of_load found₂)
  generalize bind : (fun st : Strand => (st.onLoad id fun x => x.performed sec (Mem.sector u.memory.mem sec, poison) true t.clock.gt (t.core w.core).unapplied).termOf id (Terms.all t.clock.gt)) = f at exec
  have strand : (t.onStrand w f).strand w = f (t.strand w) := State.strand_onStrand f resident
  have less : (t.onStrand w f).total (Strand.held (Resv.beside p.pa)) < 512 := by
    have bound_total := t.total_onStrand (g := Strand.held (Resv.beside p.pa)) rfl w f
    have same : (f (t.strand w)).held (Resv.beside p.pa) = (t.strand w).held (Resv.beside p.pa) := by rw [← bind]; rfl
    have home := beside.held (Resv.beside p.pa)
    have pay := fewer (Resv.beside p.pa)
    rw [length_sliceResvs] at room
    omega
  obtain ⟨mem', loads, r, granted, addr, pa, gt⟩ := State.reserve_joins k p.va (State.resident_onStrand f resident) less
  refine ⟨_, exec, ?_, ⟨r, granted, addr, pa, ?_⟩, l₁.performed sec (Mem.sector u.memory.mem sec, poison) true t.clock.gt (t.core w.core).unapplied, ?_, poison, ?_⟩
  · rw [mem', State.onStrand_memory, mem, memory]
  · rw [gt, State.onStrand_clock, beside.clock, clock]
  · rw [Strand.load?, loads, strand, ← bind]
    exact Strand.load?_onLoad found₂
  · obtain ⟨x, listed, here⟩ := sector_of_mayPerform found may
    exact List.mem_map.mpr ⟨x, sectors ▸ listed, by rw [if_pos here, memory]⟩

end

/-! The end of a reservation (R214). -/

section
variable {s : State} {w : Sid} {k : Nat} {r : Resv}

theorem reservationExpiry_ends (held : Tab.get none (s.strand w).flight.resv k = some r) (ended : r.gt + 2000 ≤ s.clock.gt) :
    exec (.reservationExpiry w k) s = .next (s.onStrand w fun st => st.dropResv [k]) :=
  congrArg next (by rw [held]; exact if_pos ended)

theorem reservationExpiry_waits (held : Tab.get none (s.strand w).flight.resv k = some r) (lasts : s.clock.gt < r.gt + 2000) : exec (.reservationExpiry w k) s = .next s :=
  congrArg next (by rw [held]; exact if_neg (Nat.not_le.mpr lasts))

end

/-! SCND at issue (R215). -/

/-- What SCND does once its accesses have passed their checks: its strand's entries that hold one of its bytes drain, and its request takes up the reservations of its lanes. -/
def State.scndSpots (i : Issue) (spots : List Spot) (_ : List Nat) (s : State) : State :=
  let r := (s.onStrand i.w Strand.closeRegion).drainWhere i.w fun x => !x.fabric && spots.any fun y => x.hits y.addr 4
  (r.onStrand i.w fun st => let id := st.flight.nextId; let st := st.takeResv id (spots.map fun x => x.lane)
    { st with flight := { st.flight with nextId := id + 1, atomics := st.flight.atomics ++
      [{ id := id, kind := .scnd, scalar := once i.e, fabric := false,
         parts := spots.map fun x => { lane := x.lane, va := x.addr, pa := x.pa, data := zx64 (i.opnd r .b (x.lane % 32)), new := 0 },
         active := i.act, done := [], failed := [], lost := [], poison := [], dest := some i.e.d.toNat, pc := i.pc, lines := [] }] } }).advance i

theorem exec_scnd {e : Enc} {s : State} (h : Active .scnd e s) : let i := s.issue .scnd e
    exec (.scnd e) s = .next (s.access i .global (i.targets s false) { size := 4, acc := .write, use := .write, more := noMore } (State.scndSpots i)) :=
  congrArg next ((strandOnly_clear h.toClear).trans (if_neg h.active))

/-! A conditional store at its home (R214, R215). -/

section
variable {s : State} {w : Sid} {id : Nat} {a : Atomic} {p : AtomPart}

/-- Where shares are not enforced an atomic has its tokens at once. -/
theorem State.payAtomic_unthrottled (lines : List Nat) (found : (s.strand w).atomic? a.id = some a) (free : (s.core w.core).shares.en = false) :
    ∃ t, s.payAtomic w a lines = (true, t) ∧ t.memory = s.memory ∧ t.clock = s.clock ∧ (t.strand w).flight.resv = (s.strand w).flight.resv ∧
      ∃ a', (t.strand w).atomic? a.id = some a' ∧ a'.done = a.done ∧ a'.parts = a.parts := by
  unfold State.payAtomic
  extract_lets owed paid
  split
  · exact ⟨s, rfl, rfl, rfl, rfl, a, found, rfl, rfl⟩
  · have unthrottled : paid = (owed.length, s) := by
      unfold paid
      rw [State.spend, free]
      rfl
    have resident := State.resident_of_inFlight (Strand.busy_of_atomic found)
    rw [unthrottled]
    refine ⟨_, by rw [beq_self_eq_true], State.onStrand_memory .., State.onStrand_clock .., ?_, { a with paid := a.paid ++ owed.take owed.length }, ?_, rfl, rfl⟩
    · rw [State.strand_onStrand _ resident]
      rfl
    · rw [State.strand_onStrand _ resident]
      exact Strand.atomic?_onAtomic found

/-- What is in flight without its reservations on a line depends on what is in flight alone. -/
theorem Strand.inFlight_clearResv {x y : Strand} (line : Nat) (h : y.inFlight = x.inFlight) : (y.clearResv line).inFlight = (x.clearResv line).inFlight := by
  have loads : y.flight.loads = x.flight.loads := Strand.loads_of_inFlight h
  have resv : (y.clearResv line).flight.resv = (x.clearResv line).flight.resv := by
    simp only [Strand.clearResv, Strand.clearResvs, Strand.resv_of_inFlight h]
  exact Prod.ext loads (Prod.ext resv (congrArg (fun z => z.2.2) h))

/-- A store applied where its line is held changes no strand but for the reservations on the line (R214). -/
theorem State.applyLine_flight (line : Nat) (mask : Dbl) (data : LineBits) (busy : (s.strand w).inFlight.2.2 ≠ []) :
    ((s.applyLine line mask data).strand w).inFlight = ((s.strand w).clearResv line).inFlight := by
  generalize applied : s.applyLine line mask data = t
  unfold State.applyLine at applied
  extract_lets n mine die gt old through holds filled stored cleared at applied
  have fills : Beside s filled w := by
    unfold filled
    split
    · exact .refl s w
    · exact .fillL2 w line
  have before : Beside s (stored.onL1s die fun t => updateCopies t line gt mask data) w := fills.trans ((Beside.of_cores w).trans (.onL1s w die _))
  have kept := before.flight (Strand.busy_of_atomics busy)
  have there {st : Strand} (h : st.inFlight.2.2 ≠ []) : st ≠ {} := fun default => h (by rw [default]; rfl)
  have busy' : ((stored.onL1s die fun t => updateCopies t line gt mask data).strand w).inFlight.2.2 ≠ [] := by rwa [kept]
  have clears := (State.mapStrands_maps (stored.onL1s die fun t => updateCopies t line gt mask data) fun st => st.clearResv line).strand (w := w) (there busy') (there busy')
  have after : Beside ((stored.onL1s die fun t => updateCopies t line gt mask data).clearResv line) t w := by
    rw [← applied]
    split
    · exact (Beside.holdHost w line 2).trans (.lineCleaned w line)
    · exact .holdHost w line 2
  rw [after.flight (Strand.busy_of_atomics (by rw [State.clearResv, clears]; exact busy')), State.clearResv, clears]
  exact Strand.inFlight_clearResv line kept

/-- The lane's reservation goes, and its word is written where it is held (R215). -/
def State.condStore (s : State) (w : Sid) (id : Nat) (p : AtomPart) : State :=
  let t := s.onStrand w fun st => st.dropResv [takenPlace id p.lane]
  if s.reserved w id p then t.homeWrite p.pa 4 p.data.toNat else t

theorem State.condStore_mem (s : State) (w : Sid) (id : Nat) (aligned : p.pa % 4 = 0) : let t := s.condStore w id p
    (s.reserved w id p = true → Mem.read t.memory.mem p.pa 4 = p.data.toNat % 2 ^ 32) ∧ (s.reserved w id p = false → t.memory.mem = s.memory.mem) ∧
      ∀ b, b < p.pa ∨ p.pa + 4 ≤ b → Mem.byte t.memory.mem b = Mem.byte s.memory.mem b := by
  have in_line : p.pa % 64 + 4 ≤ 64 := by omega
  have bytes := fun b => State.homeWrite_byte (s := s.onStrand w fun st => st.dropResv [takenPlace id p.lane]) (v := p.data.toNat) in_line b
  simp only [State.onStrand_memory] at bytes
  intro t
  unfold t State.condStore
  dsimp only
  cases s.reserved w id p with
  | true =>
    refine ⟨fun _ => Mem.read_of_bytes _ 4 _ _ fun k hk => ?_, Bool.noConfusion, fun b out => ?_⟩
    · rw [if_pos rfl, bytes, if_pos (by omega), Nat.add_sub_cancel_left]
    · rw [if_pos rfl, bytes, if_neg (by omega)]
  | false => exact ⟨Bool.noConfusion, fun _ => by rw [if_neg Bool.false_ne_true, State.onStrand_memory], fun b _ => by rw [if_neg Bool.false_ne_true, State.onStrand_memory]⟩

/-- The strand keeps its atomics, and holds no reservation in the place any more. -/
theorem State.condStore_flight (id : Nat) (busy : (s.strand w).inFlight.2.2 ≠ []) : let t := s.condStore w id p
    (t.strand w).inFlight.2.2 = (s.strand w).inFlight.2.2 ∧ ∀ x ∈ (t.strand w).flight.resv, x.1 ≠ takenPlace id p.lane := by
  have dropped := State.strand_onStrand (fun st => st.dropResv [takenPlace id p.lane]) (State.resident_of_inFlight (Strand.busy_of_atomics busy))
  have gone : ∀ x ∈ ((s.strand w).dropResv [takenPlace id p.lane]).flight.resv, x.1 ≠ takenPlace id p.lane := fun x listed => by
    simpa using (List.mem_filter.mp listed).2
  intro t
  unfold t State.condStore
  dsimp only
  split
  · have written := State.applyLine_flight (s := s.onStrand w fun st => st.dropResv [takenPlace id p.lane]) (w := w) (lineOf p.pa) (lineWrite p.pa 4 p.data.toNat).1
      (lineWrite p.pa 4 p.data.toNat).2 (by rw [dropped]; exact busy)
    rw [dropped] at written
    refine ⟨congrArg (fun z => z.2.2) written, fun x listed => gone x ?_⟩
    rw [State.homeWrite, Strand.resv_of_inFlight written] at listed
    exact (List.mem_filter.mp listed).1
  · rw [dropped]
    exact ⟨rfl, gone⟩

/-- The core forgets its copies of the line, and the strand has its atomics still, without the reservation. -/
theorem State.condStore_forget {id' : Nat} (id core line : Nat) (found : (s.strand w).atomic? id' = some a) : let t := (s.condStore w id p).forget core line
    Tab.get none (t.strand w).flight.resv (takenPlace id p.lane) = none ∧ ∃ a', (t.strand w).atomic? id' = some a' ∧ a'.unlined = a.unlined := by
  intro t
  obtain ⟨atomics, gone⟩ := State.condStore_flight (p := p) id (Strand.atomics_of_atomic found)
  obtain ⟨a₁, found₁, same₁⟩ := Strand.atomic?_of_inFlight atomics found
  have forgets := (Beside.forget (s := s.condStore w id p) w core line).flight (Strand.busy_of_atomic found₁)
  obtain ⟨a₂, found₂, same₂⟩ := Strand.atomic?_of_inFlight (congrArg (fun x => x.2.2) forgets) found₁
  exact ⟨by rw [Strand.resv_of_inFlight forgets]; exact Tab.get_absent gone, a₂, found₂, same₂.trans same₁⟩

/-- The home's part in an atomic's action: the line recalled, counted and held (R193, R350). -/
def State.atomicHome (s : State) (line die : Nat) : State := (((s.reachHome line die true).countAccess line).fillL2 line).holdHost line 2

theorem Beside.atomicHome (s : State) (w : Sid) (line die : Nat) : Beside s (s.atomicHome line die) w :=
  (Beside.recall w line).trans ((Beside.countAccess w line).trans ((Beside.fillL2 w line).trans (.holdHost w line 2)))

theorem State.atomicHome_mem (s : State) (line die : Nat) : (s.atomicHome line die).memory.mem = s.memory.mem := by
  rw [State.atomicHome, State.holdHost_mem, State.fillL2_mem, State.countAccess_mem]
  exact s.recall_mem line

/-- What an atomic does whose one group that may act is one lane (R232). -/
theorem exec_atomicExecute_lane {u : State} (found : (s.strand w).atomic? id = some a) (ready : s.readyGroups w id = [[p]]) (paid : s.payAtomic w a [lineOf p.pa] = (true, u)) :
    let r := (u.atomicHome (lineOf p.pa) (dieOf w.core)).actGroup w a [p]
    ∃ f terms, (∀ x : Atomic, (f x).id = x.id ∧ (f x).parts = (x.parts.filter fun q => q.lane != p.lane) ∧ (f x).done = x.done ++ r.got) ∧
      exec (.atomicExecute w id) s = .next ((r.s.forget w.core (lineOf p.pa)).onStrand w fun st => (st.onAtomic id f).termOf id terms) := by
  intro r
  have lines : groupLines [p] = [lineOf p.pa] := rfl
  have others (x : Atomic) : (x.parts.filter fun q => !([p].any fun y => y.lane == q.lane)) = x.parts.filter fun q => q.lane != p.lane := by
    congr 1
    funext q
    simp [bne, eq_comm]
  rw [show exec (.atomicExecute w id) s = execAtomicExecute w id s from rfl, execAtomicExecute, found]
  have first : [[p]][Config.choose s.clock.turn [[p]].length % max 1 [[p]].length]? = some [p] := by
    rw [show max 1 [[p]].length = 1 from rfl, Nat.mod_one]
    rfl
  dsimp only
  rw [ready, first]
  dsimp only
  rw [lines, paid]
  refine ⟨_, _, fun x => ⟨?number, ?parts, ?results⟩, rfl⟩
  case number => rfl
  case parts => exact others x
  case results => rfl

/-- An SCND writes a lane's word exactly where the lane's reservation is held for its address, and its reservation goes (R214, R215). -/
theorem atomicExecute_conditional (found : (s.strand w).atomic? id = some a) (kind : a.kind = .scnd) (ready : s.readyGroups w id = [[p]])
    (free : (s.core w.core).shares.en = false) (aligned : p.pa % 4 = 0) : Becomes (.atomicExecute w id) s fun t =>
      (s.reserved w id p = true → Mem.read t.memory.mem p.pa 4 = p.data.toNat % 2 ^ 32) ∧ (s.reserved w id p = false → t.memory.mem = s.memory.mem) ∧
      (∀ b, b < p.pa ∨ p.pa + 4 ≤ b → Mem.byte t.memory.mem b = Mem.byte s.memory.mem b) ∧
      Tab.get none (t.strand w).flight.resv (takenPlace id p.lane) = none ∧
      ∃ a', (t.strand w).atomic? id = some a' ∧ a'.done = a.done ++ [(p.lane, if s.reserved w id p then 1 else 0)] ∧ a'.parts = a.parts.filter fun q => q.lane != p.lane := by
  have number : a.id = id := by simpa using List.find?_some found
  subst number
  obtain ⟨u, paid, memory, clock, resv, a₁, found₁, done₁, parts₁⟩ := State.payAtomic_unthrottled [lineOf p.pa] found free
  obtain ⟨f, terms, changes, exec⟩ := exec_atomicExecute_lane found ready paid
  have home := Beside.atomicHome u w (lineOf p.pa) (dieOf w.core)
  have home_mem := u.atomicHome_mem (lineOf p.pa) (dieOf w.core)
  generalize u.atomicHome (lineOf p.pa) (dieOf w.core) = v at *
  have acts : v.actGroup w a [p] = { s := v.condStore w a.id p, got := [(p.lane, if v.reserved w a.id p then 1 else 0)], lost := [], poison := [], wrote := v.reserved w a.id p } := by
    rw [State.actGroup, kind]
    rfl
  have flight := home.flight (Strand.busy_of_atomic found₁)
  have same : v.reserved w a.id p = s.reserved w a.id p := by
    rw [State.reserved, State.reserved, Strand.resv_of_inFlight flight, resv, home.clock, clock]
  rw [acts, same] at changes
  rw [acts] at exec
  obtain ⟨a₂, found₂, same₂⟩ := Strand.atomic?_of_inFlight (congrArg (fun x => x.2.2) flight) found₁
  obtain ⟨gone, a₃, found₃, same₃⟩ := State.condStore_forget (p := p) a.id w.core (lineOf p.pa) found₂
  have bytes := v.condStore_mem w a.id aligned
  dsimp only at bytes gone found₃
  rw [same, home_mem, memory, ← State.forget_mem _ w.core (lineOf p.pa)] at bytes
  generalize (v.condStore w a.id p).forget w.core (lineOf p.pa) = t at *
  have done : a₃.done = a.done := (congrArg Atomic.done (same₃.trans same₂)).trans done₁
  have parts : a₃.parts = a.parts := (congrArg Atomic.parts (same₃.trans same₂)).trans parts₁
  have strand := State.strand_onStrand (fun st => (st.onAtomic a.id f).termOf a.id terms) (State.resident_of_inFlight (Strand.busy_of_atomic found₃))
  rw [← State.onStrand_memory t w fun st => (st.onAtomic a.id f).termOf a.id terms] at bytes
  obtain ⟨held, lost, frame⟩ := bytes
  refine ⟨_, exec, held, lost, frame, ?_, f a₃, ?_, ?_, ?_⟩
  · rw [strand]
    exact gone
  · rw [strand]
    exact Strand.atomic?_onAtomic found₃ fun x => (changes x).1
  · rw [(changes a₃).2.2, done]
  · rw [(changes a₃).2.1, parts]

end

/-! The result of an SCND (R215, R234). -/

section
variable {s : State} {w : Sid} {id : Nat} {a : Atomic} {d : Nat}

theorem Strand.passWait_regs (st : Strand) (cycle : Nat) : (st.passWait cycle).regs = st.regs := by simp only [Strand.passWait, Strand.account, Strand.move]

theorem Strand.passWait_flight (st : Strand) (cycle : Nat) : (st.passWait cycle).flight = st.flight := by simp only [Strand.passWait, Strand.account, Strand.move]

/-- A finished SCND: its result mask written, and its request gone. -/
def Strand.conditional (st : Strand) (a : Atomic) (d : Nat) (dirty : List Nat) : Strand :=
  let st := st.putK d a.active (Mask.of fun l => a.done.any fun x => (x.1 == l || a.scalar) && x.2 == 1)
  (({ st with flight := { st.flight with atomics := st.flight.atomics.filter fun b => b.id != a.id } } : Strand).acknowledge a.id dirty).unpark

theorem State.finishAtomic_conditional (kind : a.kind = .scnd) (dest : a.dest = some d) :
    ∃ dirty, (s.writeAtomic w a).finishAtomic w a = s.onStrand w fun st => st.conditional a d dirty := by
  have written : s.writeAtomic w a = s.onStrand w fun st => st.putK d a.active (Mask.of fun l => a.done.any fun x => (x.1 == l || a.scalar) && x.2 == 1) := by
    rw [State.writeAtomic, kind, dest]
  refine ⟨a.lines.flatMap (s.writeAtomic w a).dirtyLine, ?_⟩
  rw [State.finishAtomic]
  dsimp only
  generalize a.lines.flatMap (s.writeAtomic w a).dirtyLine = dirty
  rw [written]
  exact State.onStrand_onStrand ..

/-- The strand of a finished SCND goes on, past its instruction where it stands at it. -/
theorem exec_atomicResponse_conditional (found : (s.strand w).atomic? id = some a) (kind : a.kind = .scnd) (decided : a.parts = []) (whole : a.lost = []) (clean : a.poison = [])
    (near : a.fabric = false) (dest : a.dest = some d) :
    ∃ (dirty : List Nat) (g : Strand → Strand), (∀ st : Strand, (g st).regs = st.regs ∧ (g st).flight = st.flight) ∧
      exec (.atomicResponse w id) s = .next (s.onStrand w fun st => g (st.conditional a d dirty)) := by
  obtain ⟨dirty, finished⟩ := State.finishAtomic_conditional (s := s) (w := w) kind dest
  have untrapped : a.traps = none := by simp [Atomic.traps, near, kind, clean]
  rw [show exec (.atomicResponse w id) s = execAtomicResponse w id s from rfl, execAtomicResponse, found]
  simp only [State.mayAnswerAtomic, found, decided, whole, List.isEmpty_nil, Bool.not_true, Bool.false_eq_true, if_false, untrapped, finished]
  split
  · refine ⟨dirty, fun st => st.passWait s.clock.cycle, fun st => ⟨st.passWait_regs _, st.passWait_flight _⟩, ?_⟩
    rw [State.onStrand_clock, State.onStrand_onStrand]
    rfl
  · exact ⟨dirty, fun st => st, fun st => ⟨rfl, rfl⟩, rfl⟩

/-- The result mask of an SCND tells which of its active lanes wrote, and its other bits stay (R44, R215). -/
theorem Strand.conditional_bit (st : Strand) (a : Atomic) (dirty : List Nat) {l : Nat} (hl : l < 32) (named : d ≠ 0) :
    (Tab.get 0 (st.conditional a d dirty).regs.k d).getLsbD l =
      if a.active.getLsbD l then a.done.any fun x => (x.1 == l || a.scalar) && x.2 == 1 else (Tab.get 0 st.regs.k d).getLsbD l := by
  have bit := Strand.putK_bit st d a.active (Mask.of fun l => a.done.any fun x => (x.1 == l || a.scalar) && x.2 == 1) d hl
  simp only [Strand.mask, Mask.getLsbD_of, decide_eq_true hl, Bool.true_and, ne_eq, named, not_false_eq_true, true_and] at bit
  exact bit

/-- An SCND decided for every lane writes its result mask and is in flight no more (R215). -/
theorem atomicResponse_conditional (found : (s.strand w).atomic? id = some a) (kind : a.kind = .scnd) (decided : a.parts = []) (whole : a.lost = []) (clean : a.poison = [])
    (near : a.fabric = false) (dest : a.dest = some d) (named : d ≠ 0) : Becomes (.atomicResponse w id) s fun t =>
      (t.strand w).atomic? id = none ∧ t.memory = s.memory ∧ ∀ l < 32, (Tab.get 0 (t.strand w).regs.k d).getLsbD l =
        if a.active.getLsbD l then a.done.any fun x => (x.1 == l || a.scalar) && x.2 == 1 else (Tab.get 0 (s.strand w).regs.k d).getLsbD l := by
  have number : a.id = id := by simpa using List.find?_some found
  obtain ⟨dirty, g, keeps, exec⟩ := exec_atomicResponse_conditional found kind decided whole clean near dest
  have strand := State.strand_onStrand (fun st => g (st.conditional a d dirty)) (State.resident_of_inFlight (Strand.busy_of_atomic found))
  obtain ⟨regs, flight⟩ := keeps ((s.strand w).conditional a d dirty)
  refine ⟨_, exec, ?_, State.onStrand_memory .., fun l hl => ?_⟩
  · rw [strand, Strand.atomic?, flight]
    refine List.find?_eq_none.mpr fun b listed => ?_
    have other := (List.mem_filter.mp listed).2
    simpa [number] using other
  · rw [strand, regs]
    exact Strand.conditional_bit _ a dirty hl named

end

theorem reservations : Statements.Reservations := by
  intro s w
  refine ⟨fun id sec l p k found may via kept parts here reserve free ready room => loadPerform_reserves found may via kept parts here reserve free ready room,
    fun k r held => ⟨reservationExpiry_ends held, reservationExpiry_waits held⟩, fun e spots focus h reaches => ?_,
    fun id a p found kind _ ready free aligned => atomicExecute_conditional found kind ready free aligned,
    fun id a d found kind decided whole clean near dest named => atomicResponse_conditional found kind decided whole clean near dest named⟩
  subst focus
  exact (exec_scnd h).trans (congrArg Host.Outcome.next (access_reaches _ reaches))

/-- Settles O32: a reservation is granted, kept and lost at the home of its line, and a snoop takes the line with the reservations on it. -/
theorem reservationsAndSnoops : Obligations.ReservationsAndSnoops := ⟨reservations, snoops⟩

end Sys2Proof.Machine
end

section
/-! Proofs about TRET, and about a trap and its return (O23). -/

namespace Sys2Proof.Machine
open Sys2Proof Sys2Proof.Safety

/-- A lane of the issuing group stands at the issue PC. -/
theorem Strand.pc_of_group {st : Strand} {l : Nat} (issues : st.group.getLsbD l = true) : st.pc l = st.issuePc := by
  simp only [Strand.group, Strand.at, Mask.getLsbD_of, Bool.and_eq_true, beq_iff_eq] at issues
  exact issues.2.2

/-- TCAUSE keeps the privilege before the entry (R413). -/
theorem tcauseWord_priv (priv seq : Bool) (cause : Nat) : (tcauseWord true priv seq cause).getLsbD 10 = priv := by
  have low := Nat.mod_lt cause (show 0 < 256 by decide)
  rw [tcauseWord, BitVec.getLsbD_ofNat, Nat.testBit_eq_decide_div_mod_eq]
  cases priv <;> cases seq <;> simp [b2n] <;> omega

/-- The return clears TCAUSE.ACT (R417). -/
theorem Strand.trapReturn_act (st : Strand) : st.trapReturn.act = false := by
  rw [Strand.act, Strand.trapReturn_tcause, BitVec.getLsbD_and]
  exact (congrArg _ (by decide : (~~~(0x800 : Word)).getLsbD 11 = false)).trans (Bool.and_false _)

/-- A TPC that TRET does not take (R417). -/
def badReturn (p : Dbl) : Prop := bits p.toNat 63 57 ≠ 0 ∨ bits p.toNat 1 0 ≠ 0

section
variable {e : Enc} {s : State}

theorem exec_tret (h : Clear .tret e s) (legal : ¬ badReturn (s.strand s.cur).trap.tpc) :
    exec (.tret e) s = .next (s.onStrand s.cur fun st => st.trapReturn.account (s.strand s.cur) s.clock.cycle) :=
  congrArg next ((strandOnly_clear h).trans (if_neg legal))

theorem exec_tret_bad (h : Clear .tret e s) (bad : badReturn (s.strand s.cur).trap.tpc) :
    exec (.tret e) s = .next (s.raise (s.issue .tret e) { cause := .illegalOperand, tval := (s.strand s.cur).trap.tpc }) :=
  congrArg next ((strandOnly_clear h).trans (if_pos bad))

end

/-- The part of O23 about TRET. -/
theorem returnFromATrap : Statements.ReturnFromATrap := by
  intro e s h st tr bad
  refine ⟨fun legal => ⟨_, exec_tret h legal, State.onStrand_memory .., ?_⟩, fun illegal => traps_of_raise (n := .tret e) h.toIssues (exec_tret_bad h illegal)⟩
  have pc (l : Nat) (hl : l < 32) : (st.trapReturn.account st s.clock.cycle).pc l =
      if st.live.getLsbD l then (if tr.tmask.getLsbD l then tr.tpc.setWidth 57 else tr.frame[l]) else st.pc l := by
    rw [← Strand.trapReturn_pc st hl]
    unfold Strand.pc
    rw [Strand.account_pcs]
  rw [State.strand_onStrand _ (State.resident_of_may h.may)]
  refine ⟨fun l hl live => ?lives, fun l hl dead => (pc l hl).trans (if_neg (Bool.eq_false_iff.mp dead)), ?_, ?_, ?_, ?_, ?_⟩
  case lives => rw [pc l hl, if_pos live, Vector.getElem?_eq_getElem hl, apply_ite some]
  · exact (congrArg TrapRegs.priv (Strand.account_trap ..)).trans (Strand.trapReturn_priv _)
  · exact (congrArg TrapRegs.tcause (Strand.account_trap ..)).trans (Strand.trapReturn_tcause _)
  · exact (Strand.account_regs ..).trans (Strand.trapReturn_regs _)
  · exact (Strand.account_live ..).trans (Strand.trapReturn_live _)
  · exact (Strand.account_region ..).trans (Strand.trapReturn_region _)

/-- The part of O23 about a trap and its return: TMASK and the frame hold every PC. -/
theorem trapThenReturn : Statements.TrapThenReturn := by
  intro st cause tval u
  refine ⟨fun l hl live => ?pc, ?priv, Strand.trapReturn_act _, ?_, ?_⟩
  case pc =>
    have frame := Strand.enterTrap_frame st cause tval st.issuePc st.group false hl
    rw [Vector.getElem?_eq_getElem hl, if_pos live, Option.some.injEq] at frame
    rw [Strand.trapReturn_pc _ hl, Strand.enterTrap_live, if_pos live, Strand.enterTrap_tmask, Strand.enterTrap_tpc, frame, BitVec.setWidth_setWidth_of_le _ (by decide), BitVec.setWidth_eq]
    split
    · rename_i issues; exact (Strand.pc_of_group issues).symm
    · rfl
  case priv => exact (Strand.trapReturn_priv _).trans ((congrArg (·.getLsbD 10) (Strand.enterTrap_tcause ..)).trans (tcauseWord_priv ..))
  · exact (Strand.trapReturn_regs _).trans (Strand.enterTrap_regs ..)
  · exact (Strand.trapReturn_live _).trans (Strand.enterTrap_live ..)

/-- Settles O23: TRET by what the return leaves in a strand, and its undoing of trap entry by the frame, TMASK and TPPRIV. -/
theorem trapReturn : Obligations.TrapReturn := ⟨returnFromATrap, trapThenReturn⟩

end Sys2Proof.Machine
end

section
/-! Proofs about context images: CTXSV, CTXLD and the registers that an image holds (O26). -/

namespace Sys2Proof

/-- A table filled key by key: what a step writes at its key is read there. -/
theorem Tab.get_foldl_range {α : Type} {d : α} {step : Tab α → Nat → Tab α} {f : Nat → α} {q : Nat → Prop} [DecidablePred q]
    (writes : ∀ t k j, Tab.get d (step t k) j = if k = j ∧ q k then f j else Tab.get d t j) :
    ∀ n j, Tab.get d ((List.range n).foldl step []) j = if j < n ∧ q j then f j else d
  | 0, j => by simp [Tab.get]
  | n + 1, j => by
    rw [List.range_succ, List.foldl_append, List.foldl_cons, List.foldl_nil, writes, Tab.get_foldl_range writes n j]
    by_cases last : n = j
    · subst last; simp
    · simp only [last, false_and, if_false, show (j < n + 1) = (j < n) by ext; omega]

end Sys2Proof

namespace Sys2Proof.Machine
open Sys2Proof Sys2Proof.Safety

/-! The words of an image (R423). -/

section
variable {st : Strand} {k : Nat}

theorem Strand.imageWord_s (h : k < 64) : st.imageWord (160 + k) = Tab.get 0 st.regs.s k := by
  unfold Strand.imageWord
  dsimp only
  rw [if_neg (by omega), if_neg (by omega), if_neg (by omega), if_pos (by omega), Nat.add_sub_cancel_left]

theorem Strand.imageWord_a (h : k < 32) : (st.imageWord (224 + 2 * k), st.imageWord (225 + 2 * k)) = Tab.get (0, 0) st.regs.a k := by
  have at_ (odd : Nat) (bit : odd < 2) : st.imageWord (224 + odd + 2 * k) = if odd = 1 then (Tab.get (0, 0) st.regs.a k).2 else (Tab.get (0, 0) st.regs.a k).1 := by
    have register : (224 + odd + 2 * k - 224) / 2 = k := by omega
    have parity : (224 + odd + 2 * k) % 2 = odd := by omega
    unfold Strand.imageWord
    dsimp only
    rw [if_neg (by omega), if_neg (by omega), if_neg (by omega), if_neg (by omega), if_pos (by omega), register, parity]
    simp
  exact congrArg₂ Prod.mk (at_ 0 (by decide)) (at_ 1 (by decide))

theorem Strand.imageWord_k (first : 1 ≤ k) (h : k < 8) : st.imageWord (288 + k) = Tab.get 0 st.regs.k k := by
  unfold Strand.imageWord
  dsimp only
  rw [if_neg (by omega), if_neg (by omega), if_neg (by omega), if_neg (by omega), if_neg (by omega), if_pos (by omega), Nat.add_sub_cancel_left, Strand.mask, if_neg (by omega)]

theorem Strand.imageWord_v {l : Nat} (h : k < st.sp.n) (hl : l < 32) : st.imageWord (304 + 32 * k + l) = (Tab.get (Lanes.all 0) st.regs.v k).at l := by
  have register : (304 + 32 * k + l - 304) / 32 = k := by omega
  have lane : (304 + 32 * k + l - 304) % 32 = l := by omega
  unfold Strand.imageWord
  dsimp only
  rw [if_neg (by omega), if_neg (by omega), if_neg (by omega), if_neg (by omega), if_neg (by omega), if_neg (by omega), if_neg (by omega), if_neg (by omega), if_neg (by omega), if_neg (by omega),
    if_pos (by omega), register, lane]

/-- The image of a strand, as words. -/
def Strand.wholeImage (st : Strand) : Image := { word := (List.range (304 + 33 * st.sp.n)).map st.imageWord, bad := [] }

theorem Strand.wholeImage_at (h : k < 304 + 33 * st.sp.n) : st.wholeImage.at k = st.imageWord k := by
  simp only [Strand.wholeImage, Image.at, List.getD_eq_getElem?_getD, List.getElem?_map, List.getElem?_range h, Option.map_some, Option.getD_some]

end

/-! The registers of an image (R425). -/

section
variable (m : Image) {n k : Nat}

theorem Image.regs_s (h : k < 64) : Tab.get 0 (m.regs n).s k = m.at (160 + k) := by
  show Tab.get 0 ((List.range 64).foldl (fun t k => Tab.put 0 t k (m.at (160 + k))) []) k = _
  rw [Tab.get_foldl_range (f := fun j => m.at (160 + j)) (q := fun _ => True), if_pos ⟨h, trivial⟩]
  intro t k j
  rw [Tab.get_put]
  by_cases same : k = j <;> simp [same]

theorem Image.regs_a (h : k < 32) : Tab.get (0, 0) (m.regs n).a k = (m.at (224 + 2 * k), m.at (225 + 2 * k)) := by
  show Tab.get (0, 0) ((List.range 32).foldl (fun t k => Tab.put (0, 0) t k (m.at (224 + 2 * k), m.at (225 + 2 * k))) []) k = _
  rw [Tab.get_foldl_range (f := fun j => (m.at (224 + 2 * j), m.at (225 + 2 * j))) (q := fun _ => True), if_pos ⟨h, trivial⟩]
  intro t k j
  rw [Tab.get_put]
  by_cases same : k = j <;> simp [same]

theorem Image.regs_k (first : 1 ≤ k) (h : k < 8) : Tab.get 0 (m.regs n).k k = m.at (288 + k) := by
  show Tab.get 0 ((List.range 8).foldl (fun t k => if k = 0 then t else Tab.put 0 t k (m.at (288 + k))) []) k = _
  rw [Tab.get_foldl_range (f := fun j => m.at (288 + j)) (q := fun j => j ≠ 0), if_pos ⟨h, by omega⟩]
  intro t k j
  by_cases zero : k = 0
  · rw [if_pos zero, if_neg fun same => same.2 (same.1 ▸ zero)]
  · rw [if_neg zero, Tab.get_put]
    by_cases same : k = j
    · rw [if_pos same, if_pos ⟨same, same ▸ zero⟩, same]
    · rw [if_neg same, if_neg fun both => same both.1]

theorem Image.regs_v (h : k < n) : Tab.get (Lanes.all 0) (m.regs n).v k = Lanes.of fun l => m.at (304 + 32 * k + l) := by
  show Tab.get (Lanes.all 0) ((List.range n).foldl (fun t r => Tab.put (Lanes.all 0) t r (Lanes.of fun l => m.at (304 + 32 * r + l))) []) k = _
  rw [Tab.get_foldl_range (f := fun j => Lanes.of fun l => m.at (304 + 32 * j + l)) (q := fun _ => True), if_pos ⟨h, trivial⟩]
  intro t k j
  rw [Tab.get_put]
  by_cases same : k = j <;> simp [same]

end

/-- The part of O26 about what an image holds: register by register, the words of the image are loaded. -/
theorem contextImageHoldsRegisters : Statements.ContextImageHoldsRegisters := fun st =>
  ⟨fun _ hk => (Image.regs_s _ hk).trans ((Strand.wholeImage_at (by omega)).trans (Strand.imageWord_s hk)),
    fun _ hk => (Image.regs_a _ hk).trans ((congrArg₂ Prod.mk (Strand.wholeImage_at (by omega)) (Strand.wholeImage_at (by omega))).trans (Strand.imageWord_a hk)),
    fun _ first hk => (Image.regs_k _ first hk).trans ((Strand.wholeImage_at (by omega)).trans (Strand.imageWord_k first hk)),
    fun k hk l hl => (congrArg (fun v : Lanes => v.at l) (Image.regs_v _ hk)).trans
      ((Lanes.at_of _ hl).trans ((Strand.wholeImage_at (k := 304 + 32 * k + l) (by omega)).trans (Strand.imageWord_v hk hl)))⟩

/-! CTXSV and CTXLD (R424, R425). -/

/-- Tokens spent change of their strand only what it has paid and what it owes (R368). -/
theorem State.strand_payIssue {s : State} {w : Sid} (live : (s.strand w).live ≠ 0) (lines : List Nat) :
    ∃ paid owes, (s.payIssue w lines).2.strand w = { s.strand w with sched := { (s.strand w).sched with paid := paid, owes := owes } } := by
  unfold State.payIssue
  extract_lets owed p
  have spent : KeepsCombs s p.2 := (KeepsCombs.refl s).spend ..
  have strand := spent.strand w
  split
  · exact ⟨_, _, rfl⟩
  · exact ⟨_, _, (State.strand_onStrand _ (State.resident_of_live (by rw [strand]; exact live))).trans (by rw [strand])⟩

/-- Where shares are not enforced, tokens cost nothing (R367). -/
theorem State.spend_free {s : State} {core : Nat} (free : (s.core core).shares.en = false) (t : BitVec 16) (r : PortReq) (n : Nat) : s.spend core t r n = (n, s) :=
  if_pos (by rw [free]; rfl)

theorem State.payIssue_free {s : State} {w : Sid} (free : (s.core w.core).shares.en = false) (lines : List Nat) : (s.payIssue w lines).1 = true := by
  unfold State.payIssue
  extract_lets owed p
  split
  · rfl
  · exact beq_iff_eq.mpr (congrArg Prod.fst (State.spend_free free ..))

/-- The translations of accesses leave the cores as they are (R190). -/
theorem State.cores_rememberAll (s : State) (w : Sid) (sp : Space) (l : List (Nat × Nat)) : (s.rememberAll w sp l).cores = s.cores := by
  obtain ⟨o, g, v, b, held⟩ := s.rememberAll_held w sp l
  rw [held]
  rfl

theorem imageTrap_misaligned {a : Nat} (h : a % 64 ≠ 0) : imageTrap a = some (Trap.of .misaligned a) := if_pos h
theorem imageTrap_aligned {a : Nat} (h : a % 64 = 0) : imageTrap a = none := if_neg (not_not_intro h)

section
variable {e : Enc} {s : State} {spots : List Spot}

/-- The need of an image (R424, R425). -/
def imageNeed (acc : Access) (use : LockUse) : Need := { size := 32, acc := acc, use := use, more := noMore }

theorem exec_ctxsv_misaligned (h : Active .ctxsv e s) {a : Nat} (ha : (s.issue .ctxsv e).pairA s = a) (mis : a % 64 ≠ 0) :
    exec (.ctxsv e) s = .next (s.raise (s.issue .ctxsv e) (Trap.of .misaligned a)) := by
  refine congrArg next ((strandOnly_clear h.toClear).trans ((if_neg h.active).trans ?_))
  rw [ha, imageTrap_misaligned mis]

theorem exec_ctxld_misaligned (h : Active .ctxld e s) {a : Nat} (ha : (s.issue .ctxld e).pairA s = a) (mis : a % 64 ≠ 0) :
    exec (.ctxld e) s = .next (s.raise (s.issue .ctxld e) (Trap.of .misaligned a)) := by
  refine congrArg next ((strandOnly_clear h.toClear).trans ((if_neg h.active).trans ?_))
  rw [ha, imageTrap_misaligned mis]

/-- The stores of an image, once the checks of R183 have passed (R424). -/
def imageStores (i : Issue) (spots : List Spot) (s : State) : State :=
  if (s.strand i.w).ahead.isSome then s.advance i
  else (spots.foldl (fun s x => s.storeSpot i.w .global x.addr x.pa 32 (i.st.imageSector x.lane) i.st.flight.nextId)
    (s.onStrand i.w fun st => let st := st.closeRegion.loseResv; { st with flight := { st.flight with nextId := i.st.flight.nextId + 1 } })).advance i

/-- The read of an image, once the checks of R183 have passed (R425). -/
def imageLoads (i : Issue) (spots : List Spot) (s : State) : State :=
  if (s.strand i.w).ahead.isSome then s.advance i
  else
    let lines := (spots.map fun x => lineOf x.pa).dedup
    let waits := lines.filter s.homeWaits
    if !waits.isEmpty then waits.foldl State.fetchLine s
    else
      let pay := s.payIssue i.w lines
      if !pay.1 then pay.2 else
      let s := pay.2
      let m := s.readImage (spots.map fun x => (x.addr, x.pa)) fun va pa => s.ownRead i.w va pa 32
      match m.firstBad i.st with
      | some k => s.raise i (Trap.of .illegalOperand k)
      | none => ((lines.foldl (fun s l => ((s.atHome l).countAccess l).forget i.w.core l) s).onStrand i.w fun st => st.loadImage m).advance i

theorem exec_ctxsv (h : Active .ctxsv e s) {a : Nat} (ha : (s.issue .ctxsv e).pairA s = a) (aligned : a % 64 = 0) (free : (s.strand s.cur).entryFree = true)
    (idle : (s.strand s.cur).imagePending = false) : exec (.ctxsv e) s =
      .next (s.access (s.issue .ctxsv e) .global (imageTargets (s.strand s.cur).sp.n a) (imageNeed .write .write) fun spots _ => imageStores (s.issue .ctxsv e) spots) := by
  refine congrArg next ((strandOnly_clear h.toClear).trans ((if_neg h.active).trans ?_))
  have proceeds : ¬ (!(s.issue .ctxsv e).st.entryFree || (s.issue .ctxsv e).st.imagePending) = true := by
    rw [show (s.issue .ctxsv e).st = s.strand s.cur from rfl, free, idle]; exact Bool.false_ne_true
  rw [ha, imageTrap_aligned aligned]
  exact if_neg proceeds

theorem exec_ctxld (h : Active .ctxld e s) {a : Nat} (ha : (s.issue .ctxld e).pairA s = a) (aligned : a % 64 = 0) (idle : (s.strand s.cur).imagePending = false) :
    exec (.ctxld e) s =
      .next (s.access (s.issue .ctxld e) .global (imageTargets (s.strand s.cur).sp.n a) (imageNeed .read .read) fun spots _ => imageLoads (s.issue .ctxld e) spots) := by
  refine congrArg next ((strandOnly_clear h.toClear).trans ((if_neg h.active).trans ?_))
  have proceeds : ¬ (s.issue .ctxld e).st.imagePending = true := by rw [show (s.issue .ctxld e).st = s.strand s.cur from rfl, idle]; exact Bool.false_ne_true
  rw [ha, imageTrap_aligned aligned]
  exact if_neg proceeds

/-- Outside run-ahead an image whose lines are at hand, with their tokens spent, is checked and loaded. -/
theorem imageLoads_ready {i : Issue} {lines : List Nat} (hl : (spots.map fun x => lineOf x.pa).dedup = lines) (normal : (s.strand i.w).ahead.isSome = false)
    (ready : ∀ l ∈ lines, s.homeWaits l = false) (spent : (s.payIssue i.w lines).1 = true) : let p := s.payIssue i.w lines
    let m := p.2.readImage (spots.map fun x => (x.addr, x.pa)) fun va pa => p.2.ownRead i.w va pa 32
    imageLoads i spots s = match m.firstBad i.st with
      | some k => p.2.raise i (Trap.of .illegalOperand k)
      | none => ((lines.foldl (fun s l => ((s.atHome l).countAccess l).forget i.w.core l) p.2).onStrand i.w fun st => st.loadImage m).advance i := by
  subst hl
  have none_waits : ((spots.map fun x => lineOf x.pa).dedup.filter s.homeWaits).isEmpty = true := by
    rw [List.isEmpty_iff, List.filter_eq_nil_iff]
    intro l listed
    rw [ready l listed]
    exact Bool.false_ne_true
  simp only [imageLoads, normal, none_waits, spent]
  rfl

end

/-- The part of O26 about CTXSV and CTXLD. -/
theorem contextSaveAndLoad : Statements.ContextSaveAndLoad := by
  intro e s spots w st a
  have normal {o : Op} (h : Active o e s) (l : List (Nat × Nat)) : ((s.rememberAll w .global l).strand w).ahead.isSome = false := by
    rw [State.strand_rememberAll, h.normal]; rfl
  refine ⟨fun h aligned free idle => ?saves, fun h aligned idle => ?loads, fun h mis => ?savesNot, fun h mis => ?loadsNot⟩
  case savesNot => exact traps_of_raise (n := .ctxsv e) h.toIssues (exec_ctxsv_misaligned h rfl mis)
  case loadsNot => exact traps_of_raise (n := .ctxld e) h.toIssues (exec_ctxld_misaligned h rfl mis)
  case saves =>
    intro i reaches
    refine (exec_ctxsv h rfl aligned free idle).trans (congrArg next ((access_reaches _ reaches).trans ?_))
    refine (if_neg (Bool.eq_false_iff.mp (normal h _))).trans ?_
    refine congrArg (fun u : State => (spots.foldl (fun s x => s.storeSpot w .global x.addr x.pa 32 (st.imageSector x.lane) st.flight.nextId) u).advance i)
      (State.onStrand_congr ?_)
    rw [State.strand_rememberAll]
    rfl
  case loads =>
    intro i r lines p m
    have live : (r.strand w).live ≠ 0 := by rw [State.strand_rememberAll]; exact State.live_of_may h.may
    refine ⟨fun free => State.payIssue_free (by rw [State.core, State.cores_rememberAll]; exact free) lines, fun reaches ready spent => ?_⟩
    have hn : exec (.ctxld e) s = .next (match m.firstBad st with
        | some k => p.2.raise i (Trap.of .illegalOperand k)
        | none => ((lines.foldl (fun s l => ((s.atHome l).countAccess l).forget w.core l) p.2).onStrand w fun st => st.loadImage m).advance i) :=
      (exec_ctxld h rfl aligned idle).trans (congrArg next ((access_reaches _ reaches).trans (imageLoads_ready rfl (normal h _) ready spent)))
    refine ⟨fun good => by rw [hn, good], fun k bad may => ?_⟩
    obtain ⟨paid, owes, strand⟩ := State.strand_payIssue live lines
    rw [State.strand_rememberAll] at strand
    rw [hn, bad]
    refine congrArg next (raise_enters ?_ ⟨?_, ?_⟩)
    · exact (congrArg Strand.ahead strand).trans h.normal
    · exact (congrArg Strand.entryFree strand).trans may.entry
    · exact (congrArg Strand.act strand).trans may.act

/-- Settles O26: the two instructions by their checks, one after the other, and the image register by register. -/
theorem contextImages : Obligations.ContextImages := ⟨contextSaveAndLoad, contextImageHoldsRegisters⟩

end Sys2Proof.Machine
end

section
/-! The refutation of O37: an atomic that acts at its home, in a state that lists an empty core before a core of the same number. -/

namespace Sys2Proof.Machine
open Sys2Proof Sys2Proof.Safety

/-- An XCLR in flight of one lane, at an address of neither device nor host memory. -/
def aloneClear : Atomic where
  id := 0
  kind := .xclr
  scalar := false
  fabric := false
  parts := [{ lane := 0, va := 0, pa := 2 ^ 47, data := 0, new := 0 }]
  active := 1
  done := []
  failed := []
  lost := []
  poison := []
  dest := none
  pc := 0
  lines := []
  paid := [2 ^ 47]

/-- The module with this request in flight in core 0; core 1 is listed twice, first empty and then with a byte of LM, which the canonical form of a table excludes. -/
def emptyThenFilled : State := { State.reset with cores :=
  [(0, { combs := [(0, some { strands := [(0, { live := 1, flight := { nextId := 1, atomics := [aloneClear] } })] })] }), (1, {}), (1, { lm := [(0, 1)] })] }

/-- A group of an atomic as it acts at the homes of its lines, with its tokens spent (R232). -/
def State.actAtHomes (s : State) (w : Sid) (id : Nat) (a : Atomic) (g : List AtomPart) : State :=
  let lines := groupLines g
  let s := lines.foldl (fun s l => (((s.reachHome l (dieOf w.core) true).countAccess l).fillL2 l).holdHost l 2) s
  let r := s.actGroup w a g
  let s := lines.foldl (fun s l => s.forget w.core l) r.s
  let terms := lines.foldl (fun t l => t.max (if r.wrote then s.writeTerms w.core l else Terms.all s.clock.gt)) (Terms.all 0)
  s.onStrand w fun st =>
    (st.onAtomic id fun a => { a with
      parts := a.parts.filter fun p => !g.any fun q => q.lane == p.lane
      done := a.done ++ r.got
      lost := a.lost ++ r.lost
      poison := a.poison ++ r.poison
      acted := s.clock.gt
      lines := if r.wrote then a.lines ++ lines else a.lines }).termOf id terms

/-- The only group that may act does so, where its tokens are spent. -/
theorem exec_atomicExecute_only {s : State} {w : Sid} {id : Nat} {a : Atomic} {g : List AtomPart} (found : (s.strand w).atomic? id = some a)
    (only : s.readyGroups w id = [g]) (paid : s.payAtomic w a (groupLines g) = (true, s)) : exec (.atomicExecute w id) s = .next (s.actAtHomes w id a g) := by
  show next (match (s.strand w).atomic? id with | none => s | some a => _) = _
  simp only [found, only, List.length_singleton, Nat.max_self, Nat.mod_one, List.getElem?_cons_zero, paid]
  rfl

theorem emptyThenFilled_execute : exec (.atomicExecute firstStrand 0) emptyThenFilled = .next (emptyThenFilled.actAtHomes firstStrand 0 aloneClear aloneClear.parts) :=
  exec_atomicExecute_only rfl (by decide +kernel) rfl

/-- Refutes O37: the clause about atomics in flight says that acting at the homes changes no LM. In a state that lists an empty core before another of the same number, which the canonical form of a table
excludes and the statement does not, the search for reservations on the line leaves the empty entry out, and the LM of the other comes to light. -/
theorem not_atomics : ¬ Obligations.Atomics := by
  rintro ⟨-, -, complete⟩
  obtain ⟨frame, -⟩ := complete emptyThenFilled firstStrand 0 aloneClear rfl
  obtain ⟨-, lm, -⟩ := frame _ (fun _ kind => AtomKind.noConfusion kind) emptyThenFilled_execute
  exact absurd (lm 1) (by decide +kernel)

end Sys2Proof.Machine
end

section
/-! Windows of LM and the requests of a comb, and the settlement of O40. -/

namespace Sys2Proof.Machine
open Sys2Proof Sys2Proof.Safety

/-! Combs where a core is changed. -/

theorem State.comb?_onCore (s : State) {c : Nat} {f : Core → Core} (keeps : (f (s.core c)).combs = (s.core c).combs) (d n : Nat) : (s.onCore c f).comb? d n = s.comb? d n := by
  by_cases same : c = d
  · rw [← same, State.comb?, State.core_onCore, keeps]
    rfl
  · rw [State.comb?, State.core_onCore_ne s f same]
    rfl

theorem State.comb_onCore (s : State) {c : Nat} {f : Core → Core} (keeps : (f (s.core c)).combs = (s.core c).combs) (d n : Nat) : (s.onCore c f).comb d n = s.comb d n := by
  rw [State.comb, State.comb?_onCore s keeps]
  rfl

/-- A field that a change of a comb keeps, of that comb or another. -/
theorem State.comb_onComb_field {α : Type} (g : Comb → α) (s : State) (c n : Nat) {f : Comb → Comb} (keeps : ∀ k, g (f k) = g k) (d m : Nat) : g ((s.onComb c n f).comb d m) = g (s.comb d m) := by
  by_cases same : c = d ∧ n = m
  · obtain ⟨rfl, rfl⟩ := same
    rw [State.comb, State.comb?_onComb_map, State.comb]
    cases s.comb? c n with
    | none => rfl
    | some k => exact keeps k
  · rw [State.comb, State.comb?_onComb_ne s f (by omega)]
    rfl

/-- The locks of a core after a change of a comb. -/
theorem State.locks_onComb (s : State) (c n : Nat) (f : Comb → Comb) (d : Nat) : ((s.onComb c n f).core d).locks = (s.core d).locks := by
  obtain ⟨l, h⟩ := s.core_onComb c n f d
  rw [h]

/-! Windows of LM (R176). -/

@[simp] theorem State.comb?_winWrite (s : State) (c n off k v d m : Nat) : (s.winWrite c n off k v).comb? d m = s.comb? d m := State.comb?_onCore s (by rfl) d m
@[simp] theorem State.comb_winWrite (s : State) (c n off k v d m : Nat) : (s.winWrite c n off k v).comb d m = s.comb d m := State.comb_onCore s (by rfl) d m
@[simp] theorem State.memory_winWrite (s : State) (c n off k v : Nat) : (s.winWrite c n off k v).memory = s.memory := rfl
@[simp] theorem State.clock_winWrite (s : State) (c n off k v : Nat) : (s.winWrite c n off k v).clock = s.clock := rfl

theorem State.lm_winWrite (s : State) (c n off k v : Nat) : ((s.winWrite c n off k v).core c).lm = Mem.write (s.core c).lm (s.lmPhys c n off) k v := by
  rw [State.winWrite, State.lmWrite, State.core_onCore]

theorem State.locks_winWrite (s : State) (c n off k v : Nat) : ((s.winWrite c n off k v).core c).locks = (s.core c).locks := by
  rw [State.winWrite, State.lmWrite, State.core_onCore]

/-- A word of a window as the LM and the base of the window give it. -/
theorem State.winRead_congr {s t : State} {c n : Nat} (lm : (t.core c).lm = (s.core c).lm) (base : (t.comb c n).base = (s.comb c n).base) (off k : Nat) :
    t.winRead c n off k = s.winRead c n off k := by
  rw [State.winRead, State.lmRead, State.lmPhys, lm, base]
  rfl

/-- A word written into a window reads back. -/
theorem State.winRead_winWrite (s : State) (c n off k v : Nat) : (s.winWrite c n off k v).winRead c n off k = v % 2 ^ (8 * k) := by
  rw [State.winRead, State.lmRead, State.lm_winWrite, State.lmPhys, State.lmPhys, State.comb_winWrite, Nat.pow_mul]
  exact Mem.read_write _ _ _ _

/-- A change of a comb that keeps its window's base keeps what the window reads. -/
theorem State.winRead_onComb (s : State) {c n : Nat} {f : Comb → Comb} (keeps : ∀ k, (f k).base = k.base) (off k : Nat) :
    (s.onComb c n f).winRead c n off k = s.winRead c n off k :=
  State.winRead_congr (State.onComb_lm ..) (State.comb_onComb_field Comb.base s c n keeps c n) off k

/-! Requests of a comb. -/

/-- The search by number for a request after a change of the one of that number. -/
theorem find?_id_map {f : Request → Request} (keeps : ∀ q, (f q).id = q.id) (id : Nat) :
    ∀ l : List Request, (l.map fun q => if q.id = id then f q else q).find? (fun q => q.id == id) = (l.find? fun q => q.id == id).map f
  | [] => rfl
  | q :: l => by
    by_cases this : q.id = id
    · simp [this, keeps]
    · simp [this, find?_id_map keeps id l]

/-- A request that is found belongs to a resident comb. -/
theorem State.resident_of_req {s : State} {c n id : Nat} {q : Request} (found : s.req? c n id = some q) : (s.comb? c n).isSome = true := by
  cases held : s.comb? c n with
  | some k => rfl
  | none =>
    rw [State.req?, State.comb, held] at found
    exact absurd found nofun

theorem State.id_of_req {s : State} {c n id : Nat} {q : Request} (found : s.req? c n id = some q) : q.id = id := by
  have := List.find?_some found
  simpa using this

/-- A request after its own change. -/
theorem State.req?_onReq {s : State} {c n id : Nat} {f : Request → Request} {q : Request} (found : s.req? c n id = some q) (keeps : ∀ q, (f q).id = q.id) :
    (s.onReq c n id f).req? c n id = some (f q) := by
  rw [State.req?, State.onReq, State.comb_onComb _ (State.resident_of_req found)]
  show (List.map _ _).find? _ = _
  rw [find?_id_map keeps]
  show (s.req? c n id).map f = _
  rw [found]
  rfl

theorem State.memory_onReq (s : State) (c n id : Nat) (f : Request → Request) : (s.onReq c n id f).memory = s.memory := State.onComb_memory ..
theorem State.lm_onReq (s : State) (c n id : Nat) (f : Request → Request) (d : Nat) : ((s.onReq c n id f).core d).lm = (s.core d).lm := State.onComb_lm ..
theorem State.winRead_onReq (s : State) (c n id : Nat) (f : Request → Request) (off k : Nat) : (s.onReq c n id f).winRead c n off k = s.winRead c n off k := by
  rw [State.onReq, State.winRead_onComb]
  exact fun _ => rfl

/-- A request of a comb is found where the comb is the same. -/
theorem State.req?_congr {s t : State} {c n : Nat} (comb : t.comb c n = s.comb c n) (id : Nat) : t.req? c n id = s.req? c n id := by
  rw [State.req?, comb]
  rfl

/-! Poison marks of LM. -/

/-- Marking bytes of LM as poisoned changes no byte, no comb and nothing outside the core. -/
structure OnlyMarks (s t : State) : Prop where
  memory : t.memory = s.memory
  lm : ∀ d, (t.core d).lm = (s.core d).lm
  comb : ∀ d n, t.comb d n = s.comb d n

theorem State.onlyMarks_lmMark (s : State) (c a n : Nat) : OnlyMarks s (s.lmMark c a n) where
  memory := rfl
  lm d := by
    by_cases same : c = d
    · rw [← same, State.lmMark, State.core_onCore]
    · rw [State.lmMark, State.core_onCore_ne s _ same]
  comb := State.comb_onCore s (by rfl)

theorem OnlyMarks.trans {s t u : State} (h : OnlyMarks s t) (g : OnlyMarks t u) : OnlyMarks s u where
  memory := g.memory.trans h.memory
  lm d := (g.lm d).trans (h.lm d)
  comb d n := (g.comb d n).trans (h.comb d n)

theorem State.onlyMarks_lmMarkMask (s : State) (c a n mask : Nat) : OnlyMarks s (s.lmMarkMask c a n mask) := by
  refine List.foldlRecOn (motive := OnlyMarks s) (List.range n) _ ⟨rfl, fun _ => rfl, fun _ _ => rfl⟩ fun t kept k _ => ?_
  split
  · exact kept.trans (t.onlyMarks_lmMark c (a + k) 1)
  · exact kept

/-! One step of a copy (R251, R259). -/

section
variable {s : State} {core slot id : Nat} {q : Request}

/-- COPY_CHUNK of a request whose tag needs no check and for which one step falls due takes that step. -/
theorem exec_copyChunk {a b c : Nat} (found : s.req? core slot id = some q) (work : q.work s.clock.gt = (a, b, c, false)) (one : a + b + c = 1) :
    exec (.copyChunk core slot id) s = .next (if 0 < a then (match q.reads[0]? with | some c => s.readChunk core slot q c | none => s)
      else if 0 < a + b then (match q.writes[0]? with | some x => s.writeChunk core slot q x | none => s)
      else match (q.counts.filter fun c => c.due s.clock.gt)[0]? with | some c => s.takeCount core slot q c | none => s) := by
  show next (match s.req? core slot id with | none => s | some q => _) = _
  rw [found]
  dsimp only
  rw [work]
  simp only [one, Nat.max_self, Nat.mod_one, Nat.zero_sub]
  rfl

theorem Request.reads_nil (left : q.left = []) : q.reads = [] := by
  simp [Request.reads, left]

theorem Request.writes_nil (staged : q.staged = []) : q.writes = [] := by
  simp [Request.writes, staged]

theorem Request.costs_lm {src : Bool} (space : q.space src = .lm) : q.costs src = false := by
  simp [Request.costs, space]

theorem Request.reads_single {c : Chunk} (running : q.state = .running) (space : q.sspc = 0) (left : q.left = [c]) : q.reads = [c] := by
  have free : q.costs true = false := Request.costs_lm (by simp [Request.space, space, spaceCode])
  simp [Request.reads, running, left, free]

theorem Request.writes_single {x : Staged} (running : q.state = .running) (checked : q.checked = true) (space : q.dspc = 0) (staged : q.staged = [x]) : q.writes = [x] := by
  have free : q.costs false = false := Request.costs_lm (by simp [Request.space, space, spaceCode])
  simp [Request.writes, running, checked, staged, free]

/-- A chunk of LM is read. -/
theorem copyChunk_reads (found : s.req? core slot id = some q) (running : q.state = .running) (checked : q.checked = true) {c : Chunk} (space : q.sspc = 0)
    (left : q.left = [c]) (staged : q.staged = []) (counts : q.counts = []) : Becomes (.copyChunk core slot id) s fun t => t.memory = s.memory ∧ (t.core core).lm = (s.core core).lm ∧
      ∃ q', t.req? core slot id = some q' ∧ q'.left = [] ∧ ∃ p, q'.staged = [{ chunk := c, data := s.winRead core slot c.src c.len, poison := p }] := by
  have work : q.work s.clock.gt = (1, 0, 0, false) := by
    simp [Request.work, Request.reads_single running space left, Request.writes_nil staged, counts, checked]
  have read : exec (.copyChunk core slot id) s = .next (s.readChunk core slot q c) := by
    rw [exec_copyChunk found work rfl, Request.reads_single running space left]
    rfl
  have local_ : s.readChunk core slot q c = s.stage core slot q c (s.winRead core slot c.src c.len) (s.lmPoisonMask core (s.lmPhys core slot c.src) c.len) := by
    rw [State.readChunk, show q.space true = .lm by simp [Request.space, space, spaceCode]]
    rfl
  rw [local_, State.stage, State.id_of_req found] at read
  refine ⟨_, read, State.memory_onReq .., State.lm_onReq .., _, State.req?_onReq found fun _ => rfl, ?_, s.lmPoisonMask core (s.lmPhys core slot c.src) c.len, ?_⟩
  · simp [left]
  · simp only [staged, List.nil_append]

/-- A staged chunk is written to LM. -/
theorem copyChunk_writes (found : s.req? core slot id = some q) (running : q.state = .running) (checked : q.checked = true) {x : Staged} (space : q.dspc = 0)
    (left : q.left = []) (staged : q.staged = [x]) (counts : q.counts = []) : Becomes (.copyChunk core slot id) s fun t => t.memory = s.memory ∧
      t.winRead core slot x.chunk.dst x.chunk.len = x.data % 2 ^ (8 * x.chunk.len) ∧
      (let p := s.lmPhys core slot x.chunk.dst; ∀ a, a < p ∨ p + x.chunk.len ≤ a → Mem.byte (t.core core).lm a = Mem.byte (s.core core).lm a) ∧
      ∃ q', t.req? core slot id = some q' ∧ q'.staged = [] ∧ q'.counts = [{ len := x.chunk.len, at_ := s.clock.gt, line := none }] := by
  have work : q.work s.clock.gt = (0, 1, 0, false) := by
    simp [Request.work, Request.reads_nil left, Request.writes_single running checked space staged, counts, checked]
  have write : exec (.copyChunk core slot id) s = .next (s.writeChunk core slot q x) := by
    rw [exec_copyChunk found work rfl, Request.writes_single running checked space staged]
    rfl
  have marks := (s.winWrite core slot x.chunk.dst x.chunk.len x.data).onlyMarks_lmMarkMask core (s.lmPhys core slot x.chunk.dst) x.chunk.len x.poison
  have local_ : s.writeChunk core slot q x =
      ((s.winWrite core slot x.chunk.dst x.chunk.len x.data).lmMarkMask core (s.lmPhys core slot x.chunk.dst) x.chunk.len x.poison).written core slot q x s.clock.gt none := by
    rw [State.writeChunk, show q.space false = .lm by simp [Request.space, space, spaceCode]]
    rfl
  rw [local_, State.written, State.id_of_req found] at write
  have same : _ = s.req? core slot id := (State.req?_congr (marks.comb core slot) id).trans (State.req?_congr (State.comb_winWrite ..) id)
  refine ⟨_, write, (State.memory_onReq ..).trans marks.memory, ?_, fun a out => ?_, _, State.req?_onReq (same.trans found) fun _ => rfl, ?_, ?_⟩
  · rw [State.winRead_onReq, State.winRead_congr (marks.lm core) (by rw [marks.comb]), State.winRead_winWrite]
  · rw [State.lm_onReq, marks.lm, State.lm_winWrite, Mem.byte_write_out _ _ _ _ _ out]
  · simp [staged]
  · simp [counts]

/-- The last count ends the request (R266). -/
theorem copyChunk_ends (found : s.req? core slot id = some q) (running : q.state = .running) (checked : q.checked = true) (flying : q.flying = []) {c : Counting}
    (left : q.left = []) (staged : q.staged = []) (counts : q.counts = [c]) (line : c.line = none) (due : c.at_ ≤ s.clock.gt) :
    exec (.copyChunk core slot id) s = .next (s.endReq core slot q 0x04 0 c.len false) := by
  have now : q.counts.filter (fun c => c.due s.clock.gt) = [c] := by simp [counts, Counting.due, line, due]
  have work : q.work s.clock.gt = (0, 0, 1, false) := by
    simp [Request.work, Request.reads_nil left, Request.writes_nil staged, now, checked]
  have last : s.takeCount core slot q c = s.endReq core slot q 0x04 0 c.len false := by
    simp [State.takeCount, Request.allWritten, running, left, flying, staged, checked, counts]
  rw [exec_copyChunk found work rfl, now, ← last]
  rfl

end

/-- A request of a KICK without a barrier that ends (R266): its locks go, STATUS is written, and it leaves its comb's queue. -/
theorem State.endReq_copied {s : State} {core slot : Nat} {q : Request} {off : Nat} (kind : q.kind = .kick off) (bar : q.bar = none) (flying : q.flying = [])
    (resident : (s.comb? core slot).isSome = true) : let t := s.endReq core slot q 0x04 0 0 false
    t.winRead core slot (off + 60) 4 = 4 ∧ (∀ l ∈ (t.core core).locks, l.id ≠ q.id) ∧ t.req? core slot q.id = none ∧ t.memory = s.memory := by
  intro t
  have ends : t = ((s.onCore core fun k => { k with locks := k.locks.filter fun e => e.id != q.id }).winWrite core slot (off + 60) 4 4).onComb core slot
      fun k => { k with reqs := k.reqs.filter fun x => x.id != q.id } := by
    simp only [t, State.endReq, State.writeStatus, State.engineCount, kind, bar, flying, List.isEmpty_nil, if_true]
    rfl
  rw [ends]
  refine ⟨?_, fun l mem => ?_, ?_, ?_⟩
  · rw [State.winRead_onComb, State.winRead_winWrite]
    · rfl
    · exact fun _ => rfl
  · rw [State.locks_onComb, State.locks_winWrite, State.core_onCore] at mem
    simpa using (List.mem_filter.mp mem).2
  · rw [State.req?, State.comb_onComb _ (by rw [State.comb?_winWrite, State.comb?_onCore s (by rfl)]; exact resident)]
    exact List.find?_eq_none.mpr fun x mem => by simpa using (List.mem_filter.mp mem).2
  · rw [State.onComb_memory, State.memory_winWrite, State.onCore_memory]

/-! The chunks of a row (R251). -/

/-- A chunk of a row: within the row on both sides, and within one line on each. -/
def ChunkOf (row src dst len : Nat) (c : Chunk) : Prop :=
  c.row = row ∧ 1 ≤ c.len ∧ src ≤ c.src ∧ c.src + c.len ≤ src + len ∧ c.dst = dst + (c.src - src) ∧ c.src % 64 + c.len ≤ 64 ∧ c.dst % 64 + c.len ≤ 64

/-- With enough steps, the chunks from byte `p` on cover the rest of the row. -/
theorem rowChunks_cover (row src dst len : Nat) : ∀ n p, len ≤ p + n →
    ((rowChunks row src dst len p n).map fun c => c.len).sum = len - p ∧ ∀ c ∈ rowChunks row src dst len p n, ChunkOf row src dst len c
  | 0, p, enough => by simp [rowChunks]; omega
  | n + 1, p, enough => by
    rw [rowChunks]
    split
    · next past => simp; omega
    · next inside =>
      obtain ⟨sum, all⟩ := rowChunks_cover row src dst len n (p + min (min (64 - (src + p) % 64) (64 - (dst + p) % 64)) (len - p)) (by omega)
      refine ⟨?_, fun c mem => ?_⟩
      · simp only [List.map_cons, List.sum_cons, sum]
        omega
      · rcases List.mem_cons.mp mem with rfl | mem
        · refine ⟨rfl, ?_, ?_, ?_, ?_, ?_, ?_⟩ <;> dsimp only <;> omega
        · exact all c mem

/-- Settles O40: one step of a copy is due in each case, so COPY_CHUNK takes it; the chunks of a row by induction on the bytes that are left. -/
theorem copiesMoveBytes : Obligations.CopiesMoveBytes := by
  refine ⟨fun s core slot id q found running checked flying => ⟨fun c space left staged counts => ?_, fun x space left staged counts => ?_, fun c left staged counts line due => ?_⟩,
    fun s core slot q off kind bar flying resident => State.endReq_copied kind bar flying resident, fun row src dst len => ?_⟩
  · exact copyChunk_reads found running checked space left staged counts
  · exact copyChunk_writes found running checked space left staged counts
  · exact copyChunk_ends found running checked flying left staged counts line due
  · exact rowChunks_cover row src dst len len 0 (by omega)

end Sys2Proof.Machine
end

section
/-! Copy requests as they register and start: the settlement of O39. -/

namespace Sys2Proof.Machine
open Sys2Proof Sys2Proof.Safety

/-! A core after a change of a comb or of a strand. -/

theorem State.kicks_onComb (s : State) (c n : Nat) (f : Comb → Comb) (d : Nat) : ((s.onComb c n f).core d).kicks = (s.core d).kicks := by
  obtain ⟨l, h⟩ := s.core_onComb c n f d
  rw [h]

theorem State.kicks_onStrand (s : State) (w : Sid) (f : Strand → Strand) (d : Nat) : ((s.onStrand w f).core d).kicks = (s.core d).kicks := State.kicks_onComb ..

theorem State.lm_onStrand (s : State) (w : Sid) (f : Strand → Strand) (d : Nat) : ((s.onStrand w f).core d).lm = (s.core d).lm := State.onComb_lm ..

theorem State.nextReq_onComb (s : State) (c n : Nat) (f : Comb → Comb) (d : Nat) : ((s.onComb c n f).core d).nextReq = (s.core d).nextReq := by
  obtain ⟨l, h⟩ := s.core_onComb c n f d
  rw [h]

/-! KICK (R255). -/

section
variable {e : Enc} {s : State}

theorem exec_kick (clear : Clear .kick e s) : exec (.kick e) s = next (
    let i := s.issue .kick e
    let n := (i.opB s).toNat
    let reqs := s.kickReqs i
    match (firstOf [(n < 1 || n > 16, Trap.of .illegalOperand n)]).or (s.blockTrap i.w (i.uA s).toNat (64 * n)) with
    | some t => s.raise i t
    | none =>
      if (reqs.any fun x => x.2.2.dec) && (s.descriptor (s.tenantOf i.w.core i.w.slot)).isNone then s
      else match reqs.findSome? fun x => s.reqTrap i.w x.1 x.2.1 x.2.2 with
        | some t => s.raise i t
        | none => s.submit i (reqs.map fun x => x.2.2)) :=
  congrArg next (strandOnly_clear clear)

/-- The requests that a KICK of 1 to 16 objects names, each with its object and its offset. -/
theorem State.kickReqs_objects (s : State) (i : Issue) (few : (i.opB s).toNat ≤ 16) : (s.kickReqs i).length = (i.opB s).toNat ∧
    ∀ k < (i.opB s).toNat, ∃ x, (s.kickReqs i)[k]? = some x ∧ x.2.1 = (i.uA s).toNat + 64 * k ∧ x.1 = s.winRead i.w.core i.w.slot ((i.uA s).toNat + 64 * k) 64 := by
  refine ⟨?_, fun k below => ?_⟩
  · rw [State.kickReqs, List.length_map, List.length_range, Nat.min_eq_right few]
  · rw [State.kickReqs, List.getElem?_map, List.getElem?_range (by omega)]
    exact ⟨_, rfl, rfl, rfl⟩

/-- A KICK whose objects pass every check submits its requests. -/
theorem exec_kick_submits (clear : Clear .kick e s) (count : 1 ≤ ((s.issue .kick e).opB s).toNat ∧ ((s.issue .kick e).opB s).toNat ≤ 16)
    (block : s.blockTrap s.cur ((s.issue .kick e).uA s).toNat (64 * ((s.issue .kick e).opB s).toNat) = none)
    (keys : ∀ x ∈ s.kickReqs (s.issue .kick e), x.2.2.dec = true → (s.descriptor (s.tenantOf s.cur.core s.cur.slot)).isSome = true)
    (formed : (s.kickReqs (s.issue .kick e)).findSome? (fun x => s.reqTrap s.cur x.1 x.2.1 x.2.2) = none) :
    exec (.kick e) s = .next (s.submit (s.issue .kick e) ((s.kickReqs (s.issue .kick e)).map fun x => x.2.2)) := by
  have counted : firstOf [(decide (((s.issue .kick e).opB s).toNat < 1) || decide (((s.issue .kick e).opB s).toNat > 16), Trap.of .illegalOperand ((s.issue .kick e).opB s).toNat)] = none := by
    simp [firstOf]
    omega
  have checks : (firstOf [(decide (((s.issue .kick e).opB s).toNat < 1) || decide (((s.issue .kick e).opB s).toNat > 16), Trap.of .illegalOperand ((s.issue .kick e).opB s).toNat)]).or
      (s.blockTrap (s.issue .kick e).w ((s.issue .kick e).uA s).toNat (64 * ((s.issue .kick e).opB s).toNat)) = none := by
    rw [counted]
    exact block
  have readable : ((s.kickReqs (s.issue .kick e)).any (fun x => x.2.2.dec) && (s.descriptor (s.tenantOf (s.issue .kick e).w.core (s.issue .kick e).w.slot)).isNone) = false := by
    rw [Bool.and_eq_false_iff, Option.isNone_eq_false_iff]
    by_cases any : (s.kickReqs (s.issue .kick e)).any (fun x => x.2.2.dec) = true
    · obtain ⟨x, mem, dec⟩ := List.any_eq_true.mp any
      exact .inr (keys x mem dec)
    · exact .inl (by simpa using any)
  have formed' : (s.kickReqs (s.issue .kick e)).findSome? (fun x => s.reqTrap (s.issue .kick e).w x.1 x.2.1 x.2.2) = none := formed
  rw [exec_kick clear]
  simp only [checks, readable, formed', Bool.false_eq_true, if_false]
  rfl

/-- A KICK of none or of more than 16 objects raises ILLEGAL_OPERAND with the count. -/
theorem kick_count (clear : Clear .kick e s) (count : ¬ (1 ≤ ((s.issue .kick e).opB s).toNat ∧ ((s.issue .kick e).opB s).toNat ≤ 16)) :
    Traps (.kick e) .kick e s (Trap.of .illegalOperand ((s.issue .kick e).opB s).toNat) := by
  have bad : (decide (((s.issue .kick e).opB s).toNat < 1) || decide (((s.issue .kick e).opB s).toNat > 16)) = true := by
    simp only [Bool.or_eq_true, decide_eq_true_eq]
    omega
  refine traps_of_raise clear.toIssues ((exec_kick clear).trans ?_)
  simp only [firstOf, List.find?_cons, bad, Option.map_some]
  rfl

end

/-! Submission and registration (R255). -/

/-- Requests register where no KICK waits and the table has room. -/
theorem State.submit_registers {s : State} {i : Issue} {l : List Request} (first : (s.core i.w.core).kicks = []) (room : (s.onStrand i.w Strand.closeRegion).mayRegister i.w.core l.length = true) :
    s.submit i l = ((s.onStrand i.w Strand.closeRegion).register i.w.core i.w.slot l).advance i := by
  rw [State.submit, State.kicks_onStrand, first, room]
  rfl

/-- Requests that may not register wait with their strand. -/
theorem State.submit_waits {s : State} {i : Issue} {l : List Request} (resident : (s.comb? i.w.core i.w.slot).isSome = true)
    (full : ¬ ((s.core i.w.core).kicks = [] ∧ (s.onStrand i.w Strand.closeRegion).mayRegister i.w.core l.length = true)) : let t := s.submit i l
    t.memory = s.memory ∧ (t.core i.w.core).lm = (s.core i.w.core).lm ∧ (t.core i.w.core).kicks = (s.core i.w.core).kicks ++ [{ slot := i.w.slot, strand := i.w.strand, reqs := l }] ∧
      (t.strand i.w).sched.wait = some .kick ∧ (t.strand i.w).pcs = (s.strand i.w).pcs ∧ (t.strand i.w).regs = (s.strand i.w).regs := by
  intro t
  have waits : t = ((s.onStrand i.w Strand.closeRegion).onCore i.w.core fun k => { k with kicks := k.kicks ++ [{ slot := i.w.slot, strand := i.w.strand, reqs := l }] }).onStrand i.w
      fun st => { st with sched := { st.sched with wait := some .kick, waitLen := i.e.bytes } } := by
    simp only [t, State.submit, State.kicks_onStrand]
    rw [if_neg]
    simpa [List.isEmpty_iff] using full
  have closed := State.resident_onStrand Strand.closeRegion resident
  have strand : ((s.onStrand i.w Strand.closeRegion).onCore i.w.core fun k => { k with kicks := k.kicks ++ [{ slot := i.w.slot, strand := i.w.strand, reqs := l }] }).strand i.w =
      (s.strand i.w).closeRegion := by
    rw [State.strand_onCore, State.strand_onStrand _ resident]
    rfl
  have stands := State.strand_onStrand (s := (s.onStrand i.w Strand.closeRegion).onCore i.w.core fun k => { k with kicks := k.kicks ++ [{ slot := i.w.slot, strand := i.w.strand, reqs := l }] })
    (fun st => { st with sched := { st.sched with wait := some .kick, waitLen := i.e.bytes } }) (by rw [State.comb?_onCore _ (by rfl)]; exact closed)
  rw [waits]
  refine ⟨by simp, ?_, ?_, ?_, ?_, ?_⟩
  · rw [State.lm_onStrand, State.core_onCore, State.lm_onStrand]
  · rw [State.kicks_onStrand, State.core_onCore, State.kicks_onStrand]
  · rw [stands]
  · rw [stands, strand]
    rfl
  · rw [stands, strand]
    rfl

/-- One request registered: its lock, its number, STATE 0x01, and its place in the queue. -/
theorem State.register_single {s : State} {core slot : Nat} {q : Request} {off : Nat} (resident : (s.comb? core slot).isSome = true) (kind : q.kind = .kick off) : let t := s.register core slot [q]
    (t.core core).locks.length = (s.core core).locks.length + 1 ∧ t.winRead core slot (off + 60) 4 = 1 ∧ (t.core core).nextReq = (s.core core).nextReq + 1 ∧
    (t.comb core slot).reqs = (s.comb core slot).reqs ++ [{ q with id := (s.core core).nextReq }] ∧ t.memory = s.memory := by
  intro t
  let numbered := s.onCore core fun k => { k with nextReq := k.nextReq + 1 }
  let locked := numbered.lockReq core slot { q with id := (s.core core).nextReq }
  have lock : (locked.core core).locks.length = (s.core core).locks.length + 1 ∧ (locked.core core).nextReq = (s.core core).nextReq + 1 ∧ (∀ n, locked.comb? core n = s.comb? core n) := by
    refine ⟨?_, ?_, fun n => ?_⟩
    · simp only [locked, numbered, State.lockReq, State.core_onCore, List.length_append, List.length_singleton]
    · simp only [locked, numbered, State.lockReq, State.core_onCore]
    · simp only [locked, State.lockReq]
      rw [State.comb?_onCore _ (by rfl), State.comb?_onCore _ (by rfl)]
  have registers : t = (locked.winWrite core slot (off + 60) 4 1).onComb core slot fun k => { k with reqs := k.reqs ++ [{ q with id := (s.core core).nextReq }] } := by
    simp only [t, State.register, List.foldl_cons, List.foldl_nil, State.writeStatus, kind]
    rfl
  obtain ⟨length, number, combs⟩ := lock
  rw [registers]
  refine ⟨?_, ?_, ?_, ?_, ?_⟩
  · rw [State.locks_onComb, State.locks_winWrite, length]
  · rw [State.winRead_onComb, State.winRead_winWrite]
    · rfl
    · exact fun _ => rfl
  · rw [State.nextReq_onComb, State.winWrite, State.lmWrite, State.core_onCore, number]
  · rw [State.comb_onComb _ (by rw [State.comb?_winWrite, combs]; exact resident), State.comb_winWrite, State.comb, combs]
    rfl
  · rw [State.onComb_memory]
    rfl

/-- The oldest waiting KICK registers once the table has room (R255). -/
theorem exec_kickRegister {s : State} {core : Nat} {x : KickWait} {l : List KickWait} (first : (s.core core).kicks = x :: l) (room : s.mayRegister core x.reqs.length = true) :
    exec (.kickRegister core) s =
      .next (((s.onCore core fun k => { k with kicks := l }).register core x.slot x.reqs).onStrand { core := core, slot := x.slot, strand := x.strand } fun st => st.passWait s.clock.cycle) := by
  show next _ = _
  simp only [first, room, if_true]
  rfl

/-! The head of a queue (R256, R269). -/

section
variable {s : State} {core slot off : Nat} {k : Comb} {q : Request}

/-- COPY_REQUEST_START samples the head of a running comb's queue. -/
theorem exec_copyRequestStart (held : s.comb? core slot = some k) (runs : k.phase = .running) (head : k.headReq = some q) (queued : q.state = .queued) :
    exec (.copyRequestStart core slot) s = .next (s.sampleHead core slot q) := by
  have may : s.mayStart core slot = true := by
    simp [State.mayStart, held, runs, head, queued]
  have comb : s.comb core slot = k := by rw [State.comb, held]; rfl
  show next _ = _
  simp only [may, comb, head]
  rfl

/-- The head of a queue is one of its requests. -/
theorem Comb.headReq_mem (head : k.headReq = some q) : q ∈ k.reqs := List.mem_of_find?_eq_some head

/-- A request of a KICK changed, and its STATUS written. -/
theorem State.onReq_status (held : s.comb? core slot = some k) (mem : q ∈ k.reqs) (kind : q.kind = .kick off) (f : Request → Request) (code : Nat) (small : code < 256) :
    let t := (s.onReq core slot q.id f).writeStatus core slot q code 0
    t.winRead core slot (off + 60) 4 = code ∧ t.memory = s.memory ∧ f q ∈ (t.comb core slot).reqs := by
  intro t
  have writes : t = (s.onReq core slot q.id f).winWrite core slot (off + 60) 4 code := by
    simp only [t, State.writeStatus, kind, Nat.zero_mul, Nat.zero_add]
  rw [writes]
  refine ⟨?_, State.memory_onReq .., ?_⟩
  · rw [State.winRead_winWrite]
    omega
  · rw [State.comb_winWrite, State.onReq, State.comb_onComb _ (by rw [held]; rfl), State.comb, held]
    exact List.mem_map.mpr ⟨q, mem, if_pos rfl⟩

end

/-- Settles O39: the checks of a KICK and of a queue's head select the branch of the model, whose effect the lemmas above state. -/
theorem copyRequestsStart : Obligations.CopyRequestsStart := by
  refine ⟨fun e s clear => ?_, fun s core x l first room => exec_kickRegister first room, fun s core slot q off resident kind => State.register_single resident kind,
    fun s core slot k q off held runs head queued kind => ⟨fun free => ?_, fun g guarded off => ?_, fun g guarded unresolved => ?_⟩⟩
  · refine ⟨fun count block keys formed => ?_, fun count => kick_count clear count⟩
    have submits := exec_kick_submits clear count block keys formed
    obtain ⟨length, objects⟩ := s.kickReqs_objects (s.issue .kick e) count.2
    refine ⟨⟨length, objects⟩, fun first room => ?_, fun full => ⟨_, submits, ?_⟩⟩
    · rw [submits]
      exact congrArg next (State.submit_registers first (by rw [List.length_map, length]; exact room))
    · exact State.submit_waits (i := s.issue .kick e) (State.resident_of_may clear.may) (by rw [List.length_map, length]; exact full)
  · have starts : s.sampleHead core slot q = s.startReq core slot q := by
      cases guarded : q.guard with
      | none => simp only [State.sampleHead, guarded]
      | some g => simp only [State.sampleHead, guarded, State.comb, held, Option.getD_some, free g guarded]
    obtain ⟨status, memory, mem⟩ := State.onReq_status held (Comb.headReq_mem head) kind (fun q => { q with state := .running, left := q.chunks, uncounted := q.total }) 3 (by omega)
    exact ⟨_, (exec_copyRequestStart held runs head queued).trans (congrArg next starts), status, memory, _, mem, rfl, rfl, rfl⟩
  · rw [exec_copyRequestStart held runs head queued]
    simp only [State.sampleHead, guarded, State.comb, held, Option.getD_some, off]
    rfl
  · have holds : s.sampleHead core slot q = (s.onReq core slot q.id fun q => { q with state := .held }).writeStatus core slot q 0x02 0 := by
      simp [State.sampleHead, guarded, State.comb, held, unresolved, queued]
    obtain ⟨status, memory, mem⟩ := State.onReq_status held (Comb.headReq_mem head) kind (fun q => { q with state := .held }) 2 (by omega)
    exact ⟨_, (exec_copyRequestStart held runs head queued).trans (congrArg next holds), status, memory, _, mem, rfl, rfl⟩

end Sys2Proof.Machine
end

section
/-! Byte barriers, guard slots, range-lock queries and QSUB: the settlement of O41. -/

namespace Sys2Proof.Machine
open Sys2Proof Sys2Proof.Safety

/-! Update of a barrier (R258). -/

/-- The barrier's word with PEND and ARR replaced (R258). -/
def barrierSet (b p arr : Nat) : Nat := setBits (setBits b 23 0 p) 38 32 arr

/-- The barrier's word with ARR cleared and PH turned (R258). -/
def barrierTurn (v : Nat) : Nat := setBits (setBits v 38 32 0) 39 39 (if bit v 39 then 0 else 1)

theorem testBit_bits (x hi lo k : Nat) : (bits x hi lo).testBit k = (decide (k < hi + 1 - lo) && x.testBit (lo + k)) := by
  rw [bits, Nat.testBit_mod_two_pow, Nat.testBit_div_two_pow, Nat.add_comm k]

/-- A field written is read back. -/
theorem bits_setBits (x lo v : Nat) {w : Nat} (hw : 0 < w) : bits (setBits x (lo + w - 1) lo v) (lo + w - 1) lo = v % 2 ^ w := by
  refine Nat.eq_of_testBit_eq fun k => ?_
  rw [testBit_bits, testBit_setBits x lo v _ hw, Nat.testBit_mod_two_pow, show lo + w - 1 + 1 - lo = w by omega, Nat.add_sub_cancel_left]
  by_cases inside : k < w
  · rw [if_pos (by omega)]
  · simp [inside]

/-- A field below or above the one written stays. -/
theorem bits_setBits_apart (x lo v : Nat) {w hi' lo' : Nat} (hw : 0 < w) (apart : hi' < lo ∨ lo + w ≤ lo') :
    bits (setBits x (lo + w - 1) lo v) hi' lo' = bits x hi' lo' := by
  refine Nat.eq_of_testBit_eq fun k => ?_
  rw [testBit_bits, testBit_bits, testBit_setBits x lo v _ hw]
  by_cases inside : k < hi' + 1 - lo'
  · rw [if_neg (by omega)]
  · simp [inside]

theorem bits_low (x hi : Nat) : bits x hi 0 = x % 2 ^ (hi + 1) := by
  rw [bits, pow_zero, Nat.div_one, Nat.sub_zero]

theorem bit_eq_bits (x n : Nat) : bit x n = decide (bits x n n = 1) := by
  rw [bit, bits, Nat.add_sub_cancel_left, pow_one]

theorem barrierSet_fields {b p arr : Nat} (pend : p < 2 ^ 24) (count : arr < 128) : let v := barrierSet b p arr
    v % 2 ^ 24 = p ∧ bits v 30 24 = bits b 30 24 ∧ bits v 38 32 = arr ∧ bit v 39 = bit b 39 ∧ bits v 63 40 = bits b 63 40 := by
  have apart {hi lo : Nat} (h : 24 ≤ lo) (h' : hi < 32 ∨ 39 ≤ lo) : bits (barrierSet b p arr) hi lo = bits b hi lo :=
    (bits_setBits_apart _ 32 arr (w := 7) (by decide) h').trans (bits_setBits_apart b 0 p (w := 24) (by decide) (.inr h))
  refine ⟨?_, apart (by decide) (by decide), ?_, ?_, apart (by decide) (by decide)⟩
  · rw [← bits_low]
    exact (bits_setBits_apart _ 32 arr (w := 7) (by decide) (by decide)).trans ((bits_setBits b 0 p (w := 24) (by decide)).trans (Nat.mod_eq_of_lt pend))
  · exact (bits_setBits _ 32 arr (w := 7) (by decide)).trans (Nat.mod_eq_of_lt count)
  · rw [bit_eq_bits, bit_eq_bits, apart (by decide) (by decide)]

theorem barrierTurn_fields (v : Nat) : let t := barrierTurn v
    t % 2 ^ 24 = v % 2 ^ 24 ∧ bits t 30 24 = bits v 30 24 ∧ bits t 38 32 = 0 ∧ bit t 39 = !bit v 39 ∧ bits t 63 40 = bits v 63 40 := by
  have turned {hi lo : Nat} (h : hi < 39 ∨ 40 ≤ lo) : bits (barrierTurn v) hi lo = bits (setBits v 38 32 0) hi lo :=
    bits_setBits_apart _ 39 _ (w := 1) (by decide) h
  have cleared {hi lo : Nat} (h : hi < 32 ∨ 39 ≤ lo) : bits (setBits v 38 32 0) hi lo = bits v hi lo := bits_setBits_apart v 32 0 (w := 7) (by decide) h
  refine ⟨?_, (turned (by decide)).trans (cleared (by decide)), (turned (by decide)).trans (bits_setBits v 32 0 (w := 7) (by decide)), ?_,
    (turned (by decide)).trans (cleared (by decide))⟩
  · rw [← bits_low, ← bits_low, turned (by decide), cleared (by decide)]
  · have flipped : bits (barrierTurn v) 39 39 = (if bit v 39 then 0 else 1) % 2 ^ 1 := bits_setBits _ 39 _ (w := 1) (by decide)
    rw [bit_eq_bits, flipped]
    cases bit v 39 <;> rfl

/-- A word sign-extends by its low bits. -/
theorem sx_mod (x n : Nat) : sx (x % 2 ^ n) n = sx x n := by
  simp only [sx, Nat.mod_mod]

/-- Update of R258, where its range test passes. -/
theorem bbUpdate_within {b arrive : Nat} {add : Int} (within : ¬ (sx b 24 + add < -(2 ^ 23) ∨ sx b 24 + add > 2 ^ 23 - 1 ∨ bits b 38 32 + arrive > bits b 30 24)) :
    let v := barrierSet b ((sx b 24 + add) % 2 ^ 24).toNat (bits b 38 32 + arrive)
    bbUpdate b add arrive = some (if bits b 38 32 + arrive = bits v 30 24 ∧ sx b 24 + add = 0 then barrierTurn v else v) := by
  intro v
  simp only [bbUpdate, if_neg within]
  rw [← apply_ite some]
  rfl

theorem bbUpdate_updated {b arrive : Nat} {add : Int} (within : ¬ (sx b 24 + add < -(2 ^ 23) ∨ sx b 24 + add > 2 ^ 23 - 1 ∨ bits b 38 32 + arrive > bits b 30 24)) :
    ∃ b', bbUpdate b add arrive = some b' ∧ Updated b b' add arrive := by
  refine ⟨_, bbUpdate_within within, ?_⟩
  rw [not_or, not_or, not_lt, not_lt, not_lt] at within
  obtain ⟨floor, top, fits⟩ := within
  have exp : bits b 30 24 < 128 := Nat.mod_lt _ (by norm_num)
  obtain ⟨low, same, arrived, ph, rest⟩ := barrierSet_fields (b := b) (p := ((sx b 24 + add) % 2 ^ 24).toNat) (arr := bits b 38 32 + arrive) (by omega) (by omega)
  have pend : sx (((sx b 24 + add) % 2 ^ 24).toNat) 24 = sx b 24 + add := sx_emod 23 floor (by omega)
  generalize barrierSet b ((sx b 24 + add) % 2 ^ 24).toNat (bits b 38 32 + arrive) = v at low same arrived ph rest
  obtain ⟨low', same', clear, turned, rest'⟩ := barrierTurn_fields v
  by_cases turn : bits b 38 32 + arrive = bits b 30 24 ∧ sx b 24 + add = 0
  · rw [same, if_pos turn]
    simp only [Updated, if_pos turn, decide_eq_true turn, Bool.bne_true]
    exact ⟨by rw [← sx_mod, low', low, pend], clear, same'.trans same, by rw [turned, ph], rest'.trans rest⟩
  · rw [same, if_neg turn]
    simp only [Updated, if_neg turn, decide_eq_false turn, Bool.bne_false]
    exact ⟨by rw [← sx_mod, low, pend], arrived, same, ph, rest⟩

/-! Operands and windows after the region is closed. -/

theorem Issue.opB_closeRegion {s : State} {i : Issue} (resident : (s.comb? i.w.core i.w.slot).isSome = true) : i.opB (s.onStrand i.w Strand.closeRegion) = i.opB s := by
  simp only [Issue.opB, State.readS_closeRegion resident]

theorem Issue.uA_closeRegion {s : State} {i : Issue} (resident : (s.comb? i.w.core i.w.slot).isSome = true) : i.uA (s.onStrand i.w Strand.closeRegion) = i.uA s :=
  State.readS_closeRegion resident _

theorem State.winRead_onStrand (s : State) (w : Sid) (f : Strand → Strand) (c n off k : Nat) : (s.onStrand w f).winRead c n off k = s.winRead c n off k :=
  State.winRead_congr (State.lm_onStrand ..) (by rw [State.onStrand, State.comb_onComb_field Comb.base]; exact fun _ => rfl) off k

/-! The barrier instructions in a strand (R260 to R263). -/

section
variable {e : Enc} {s : State}

section
variable {o : Op} (clear : Clear o e s) (free : s.bbCheck o s.cur ((s.issue o e).uA s).toNat ((s.issue o e).opB s) = none)
include clear free

/-- BBINIT and BBADD in a strand store the barrier's new value. -/
theorem bbWrite_stores {b : Nat} (value : s.bbValue o e.sub s.cur ((s.issue o e).uA s).toNat ((s.issue o e).opB s) = .ok b) :
    bbWrite o e s = ((s.onStrand s.cur Strand.closeRegion).winWrite s.cur.core s.cur.slot ((s.issue o e).uA s).toNat 8 b).advance (s.issue o e) := by
  have free' : s.bbCheck o (s.issue o e).w ((s.issue o e).uA s).toNat ((s.issue o e).opB s) = none := free
  have value' : s.bbValue o e.sub (s.issue o e).w ((s.issue o e).uA s).toNat ((s.issue o e).opB s) = .ok b := value
  rw [bbWrite, if_neg clear.strand, runStrand_clear clear]
  simp only [free', value']
  rfl

theorem bbWrite_raises {t : Trap} (value : s.bbValue o e.sub s.cur ((s.issue o e).uA s).toNat ((s.issue o e).opB s) = .error t) : bbWrite o e s = s.raise (s.issue o e) t := by
  have free' : s.bbCheck o (s.issue o e).w ((s.issue o e).uA s).toNat ((s.issue o e).opB s) = none := free
  have value' : s.bbValue o e.sub (s.issue o e).w ((s.issue o e).uA s).toNat ((s.issue o e).opB s) = .error t := value
  rw [bbWrite, if_neg clear.strand, runStrand_clear clear]
  simp only [free', value']

end

theorem bbValue_overflow {s : State} {sub : BitVec 8} {w : Sid} {off : Nat} {v : Word}
    (update : bbUpdate (s.winRead w.core w.slot off 8) v.toNat (if sub = 1 then 0 else 1) = none) :
    s.bbValue .bbadd sub w off v = .error (Trap.of .barrierOverflow (s.winRead w.core w.slot off 8)) := by
  simp only [State.bbValue, update]

theorem exec_bbinit (clear : Clear .bbinit e s) (free : s.bbCheck .bbinit s.cur ((s.issue .bbinit e).uA s).toNat ((s.issue .bbinit e).opB s) = none) :
    exec (.bbinit e) s = .next (((s.onStrand s.cur Strand.closeRegion).winWrite s.cur.core s.cur.slot ((s.issue .bbinit e).uA s).toNat 8
      (((s.issue .bbinit e).opB s).toNat * 2 ^ 24)).advance (s.issue .bbinit e)) :=
  congrArg next (bbWrite_stores clear free rfl)

theorem exec_bbwait (clear : Clear .bbwait e s) (free : s.bbCheck .bbwait s.cur ((s.issue .bbwait e).uA s).toNat ((s.issue .bbwait e).opB s) = none) :
    exec (.bbwait e) s = .next (if bit (s.winRead s.cur.core s.cur.slot ((s.issue .bbwait e).uA s).toNat 8) 39 = ((s.issue .bbwait e).opB s).getLsbD 0 then s.advance (s.issue .bbwait e)
      else s.onStrand s.cur fun st => { st with sched := { st.sched with wait := some (.bbwait ((s.issue .bbwait e).uA s).toNat (((s.issue .bbwait e).opB s).getLsbD 0)), waitLen := e.bytes } }) := by
  have free' : s.bbCheck .bbwait (s.issue .bbwait e).w ((s.issue .bbwait e).uA s).toNat ((s.issue .bbwait e).opB s) = none := free
  refine congrArg next ((if_neg clear.strand).trans ((runStrand_clear clear).trans ?_))
  dsimp only
  rw [free']
  simp only [beq_iff_eq]
  rfl

theorem exec_bbtest (active : Active .bbtest e s) (free : s.bbCheck .bbtest s.cur ((s.issue .bbtest e).uA s).toNat ((s.issue .bbtest e).opB s) = none) :
    Sets (.bbtest e) .bbtest e s fun i => bbStatus (s.winRead s.cur.core s.cur.slot ((s.issue .bbtest e).uA s).toNat 8) (i.opB s) :=
  congrArg next ((if_neg active.strand).trans ((runStrand_clear active.toClear).trans (effect_done active.active free rfl)))

theorem exec_gset (active : Active .gset e s) : exec (.gset e) s = .next (((s.onStrand s.cur Strand.closeRegion).setGuard s.cur.core s.cur.slot e.d.toNat
    (if e.sub = 1 then 0 else if (s.issue .gset e).opB s = 0 then 2 else 1)).advance (s.issue .gset e)) := by
  refine congrArg next ((if_neg active.strand).trans ((runStrand_clear active.toClear).trans ((effect_ends active.active rfl rfl).trans ?_)))
  rw [Issue.opB_closeRegion (i := s.issue .gset e) (State.resident_of_may active.may)]
  rfl

theorem rlq_results (active : Active .rlq e s) : Results (.rlq e) .rlq e s fun i l => if e.sub = 2 then BitVec.ofNat 32 (32 - (s.core s.cur.core).locks.length)
    else if s.addressOk s.cur (spaceOf e) (i.addr s true l) 1 = true ∧ s.conflictAt s.cur (spaceOf e) (if e.sub = 0 then .write else .read) (i.addr s true l) 1 = true then 1 else 0 := by
  refine results_of active rfl rfl rfl ?_
  by_cases count : e.sub = 2
  · simp only [count, if_true]
    rfl
  · simp only [count, if_false, Bool.and_eq_true]
    rfl

/-- A strand whose QSUB hands its entry on (R271). -/
def qsubbed (i : Issue) (s : State) (st : Strand) : Strand :=
  { st with flight := { st.flight with nextId := st.flight.nextId + 1, qsubs := st.flight.qsubs ++
      [{ id := st.flight.nextId, reg := i.e.d.toNat, queue := (i.opB s).toNat, entry := BitVec.ofNat 512 (s.lmObject i.w (i.uA s).toNat) }] } }

/-- QSUB hands its entry on (R271). -/
theorem qsub_hands (active : Active .qsub e s) (number : ((s.issue .qsub e).opB s).toNat ≤ 255) (block : s.blockTrap s.cur ((s.issue .qsub e).uA s).toNat 64 = none)
    (reserved : bits (s.winRead s.cur.core s.cur.slot ((s.issue .qsub e).uA s).toNat 8) 14 8 = 0)
    (cell : bit (s.winRead s.cur.core s.cur.slot ((s.issue .qsub e).uA s).toNat 8) 15 = true →
      s.inWindow s.cur.core s.cur.slot (8 * bits (s.winRead s.cur.core s.cur.slot ((s.issue .qsub e).uA s).toNat 8) 31 16) 8 = true) :
    Becomes (.qsub e) s fun t => t.memory = s.memory ∧ (t.strand s.cur).regs = (s.strand s.cur).regs ∧ ∃ q, (t.strand s.cur).flight.qsubs = (s.strand s.cur).flight.qsubs ++ [q] ∧
      q.reg = e.d.toNat ∧ q.queue = ((s.issue .qsub e).opB s).toNat ∧ q.entry = BitVec.ofNat 512 (s.winRead s.cur.core s.cur.slot ((s.issue .qsub e).uA s).toNat 64) := by
  have resident := State.resident_of_may active.may
  have closed := State.resident_onStrand Strand.closeRegion resident
  have block' : s.blockTrap (s.issue .qsub e).w ((s.issue .qsub e).uA s).toNat 64 = none := block
  have reserved' : bits (s.winRead (s.issue .qsub e).w.core (s.issue .qsub e).w.slot ((s.issue .qsub e).uA s).toNat 8) 14 8 = 0 := reserved
  have cell' : (bit (s.winRead (s.issue .qsub e).w.core (s.issue .qsub e).w.slot ((s.issue .qsub e).uA s).toNat 8) 15 &&
      !s.inWindow (s.issue .qsub e).w.core (s.issue .qsub e).w.slot (8 * bits (s.winRead (s.issue .qsub e).w.core (s.issue .qsub e).w.slot ((s.issue .qsub e).uA s).toNat 8) 31 16) 8) = false := by
    rw [Bool.and_eq_false_imp, Bool.not_eq_false']
    exact cell
  refine ⟨_, completes_closing active rfl rfl ?_, ?_⟩
  · simp [firstOf, Nat.not_lt.mpr number, block', reserved', cell']
  · have same : (s.onStrand s.cur Strand.closeRegion).lmObject s.cur ((s.issue .qsub e).uA s).toNat = s.winRead s.cur.core s.cur.slot ((s.issue .qsub e).uA s).toNat 64 :=
      State.winRead_onStrand ..
    have handed := State.resident_onStrand (qsubbed (s.issue .qsub e) (s.onStrand s.cur Strand.closeRegion)) closed
    have after := (State.strand_onStrand (qsubbed (s.issue .qsub e) (s.onStrand s.cur Strand.closeRegion)) closed).trans (congrArg _ (State.strand_onStrand Strand.closeRegion resident))
    refine ⟨by simp [State.advance, State.moveTo], ?_, _, (congrArg Flight.qsubs ((State.flight_advance (i := s.issue .qsub e) handed).2.trans (congrArg Strand.flight after))).trans rfl, rfl,
      congrArg BitVec.toNat (Issue.opB_closeRegion (i := s.issue .qsub e) resident), congrArg (BitVec.ofNat 512) ?_⟩
    · exact (State.strand_advance (i := s.issue .qsub e) handed).2.2.trans ((congrArg Strand.regs after).trans rfl)
    · exact (congrArg (fun v : Word => State.lmObject _ _ v.toNat) (Issue.uA_closeRegion (i := s.issue .qsub e) resident)).trans same

end

/-! The answer to a QSUB (R271, R448). -/

/-- The flags by which a queue serves an entry of a tenant. -/
theorem DroneQueue.serves_iff (q : DroneQueue) (t : BitVec 16) : q.serves t = true ↔ q.en = true ∧ q.orphan = false ∧ q.svc ≤ 2 ∧ q.tenant = t := by
  simp only [DroneQueue.serves, Bool.and_eq_true, Bool.not_eq_true', decide_eq_true_eq, beq_iff_eq, and_assoc]

/-- The state in which the queue has taken a strand's entry (R271): its next number, the entry in its place, and what the comb waits for. -/
def State.takeEntry (s : State) (w : Sid) (q : Qsub) : State :=
  let d := s.drone q.queue
  let s := s.onDrone q.queue fun d => { d with seq := (d.seq + 1) % 2 ^ 31, open_ := d.open_ ++ [{ seq := d.seq, entry := q.entry, tenant := s.tenantOf w.core w.slot, core := w.core, slot := w.slot }] }
  if q.entry.getLsbD 15 then s.onComb w.core w.slot fun k => { k with qsubs := k.qsubs ++ [(q.queue, d.seq)] } else s

/-- A strand that its QSUB is answered: the value in its register, and the entry no longer outstanding. -/
def Strand.answerQsub (st : Strand) (q : Qsub) (reg : Nat) (v : Word) (gt : Nat) : Strand :=
  (({ st.putS reg v with flight := { st.flight with qsubs := st.flight.qsubs.filter fun x => x.id != q.id } }).termOf q.id { device := 0, comb := 0, system := gt }).acknowledge q.id []

theorem exec_droneQsubResponse {s : State} {w : Sid} {reg : Nat} {q : Qsub} (found : (s.strand w).flight.qsubs.find? (fun x => x.reg == reg) = some q) :
    exec (.droneQsubResponse w reg) s = .next (
      let d := s.drone q.queue
      let ok := d.serves (s.tenantOf w.core w.slot)
      let full := decide (d.open_.length ≥ 2 ^ d.logcap)
      let v : Word := if !ok then 0x80000002 else if full then 0x80000001 else BitVec.ofNat 32 d.seq
      let t := if ok && !full then s.takeEntry w q else s
      t.onStrand w fun st => st.answerQsub q reg v t.clock.gt) := by
  show next (match (s.strand w).flight.qsubs.find? (fun q => q.reg == reg) with | none => s | some q => _) = _
  rw [found]
  rfl

theorem State.strand_takeEntry (s : State) (w : Sid) (q : Qsub) (x : Sid) : (s.takeEntry w q).strand x = s.strand x := by
  rw [State.takeEntry]
  split
  · exact State.strand_onComb _ _ _ _ _ fun _ => rfl
  · rfl

theorem State.memory_takeEntry (s : State) (w : Sid) (q : Qsub) : (s.takeEntry w q).memory = s.memory := by
  rw [State.takeEntry]
  split
  · exact State.onComb_memory ..
  · rfl

theorem State.resident_takeEntry {s : State} {w : Sid} (q : Qsub) (resident : (s.comb? w.core w.slot).isSome = true) : ((s.takeEntry w q).comb? w.core w.slot).isSome = true := by
  rw [State.takeEntry]
  split
  · exact State.resident_onComb _ resident
  · exact resident

theorem State.drone_takeEntry (s : State) (w : Sid) (q : Qsub) : let d := (s.takeEntry w q).drone q.queue
    d.seq = ((s.drone q.queue).seq + 1) % 2 ^ 31 ∧ d.open_.length = (s.drone q.queue).open_.length + 1 := by
  have service : (s.takeEntry w q).service = (s.onDrone q.queue fun d => { d with seq := (d.seq + 1) % 2 ^ 31, open_ := d.open_ ++ [{ seq := d.seq, entry := q.entry, tenant := s.tenantOf w.core w.slot, core := w.core, slot := w.slot }] }).service := by
    rw [State.takeEntry]
    split
    · exact State.onComb_service ..
    · rfl
  intro d
  have put : d = _ := (congrArg (fun x : Service => (Tab.get {} x.drones q.queue : DroneQueue)) service).trans (Tab.get_put_same _ _ _ _)
  rw [put]
  exact ⟨rfl, List.length_append.trans (congrArg _ List.length_singleton)⟩

/-- A QSUB is answered (R271). -/
theorem qsub_answered {s : State} {w : Sid} {q : Qsub} (found : (s.strand w).flight.qsubs.find? (fun x => x.reg == q.reg) = some q) : let d := s.drone q.queue
    let ok := d.en = true ∧ d.orphan = false ∧ d.svc ≤ 2 ∧ d.tenant = s.tenantOf w.core w.slot
    Becomes (.droneQsubResponse w q.reg) s fun t => t.memory = s.memory ∧
      Tab.get 0 (t.strand w).regs.s q.reg = (if ¬ ok then 0x80000002 else if 2 ^ d.logcap ≤ d.open_.length then 0x80000001 else BitVec.ofNat 32 d.seq) ∧
      (ok → d.open_.length < 2 ^ d.logcap → (t.drone q.queue).seq = (d.seq + 1) % 2 ^ 31 ∧ (t.drone q.queue).open_.length = d.open_.length + 1) ∧
      (¬ ok → t.service = s.service) := by
  intro d ok
  have resident : (s.comb? w.core w.slot).isSome = true := by
    cases held : s.comb? w.core w.slot with
    | some k => rfl
    | none =>
      rw [State.strand, State.comb, held] at found
      exact absurd found nofun
  have serves : d.serves (s.tenantOf w.core w.slot) = decide ok := by
    rw [Bool.eq_iff_iff, decide_eq_true_eq]
    exact DroneQueue.serves_iff ..
  have written (t : State) (v : Word) (here : (t.comb? w.core w.slot).isSome = true) : Tab.get 0 ((t.onStrand w fun st => st.answerQsub q q.reg v t.clock.gt).strand w).regs.s q.reg = v := by
    rw [State.strand_onStrand _ here]
    exact Tab.get_put_same ..
  refine ⟨_, exec_droneQsubResponse found, ?_⟩
  by_cases served : ok
  · by_cases room : d.open_.length < 2 ^ d.logcap
    · have full : decide (d.open_.length ≥ 2 ^ d.logcap) = false := decide_eq_false (by omega)
      obtain ⟨seq, length⟩ := s.drone_takeEntry w q
      simp only [show s.drone q.queue = d from rfl, serves, served, full, decide_true, Bool.not_true, Bool.not_false, Bool.and_self, Bool.false_eq_true, if_false, if_true, not_true_eq_false,
        if_neg (Nat.not_le.mpr room)]
      refine ⟨?_, written _ _ (State.resident_takeEntry q resident), fun _ _ => ?_, False.elim⟩
      · rw [State.onStrand_memory, State.memory_takeEntry]
      · rw [State.drone, State.onStrand_service]
        exact ⟨seq, length⟩
    · have full : decide (d.open_.length ≥ 2 ^ d.logcap) = true := decide_eq_true (by omega)
      simp only [show s.drone q.queue = d from rfl, serves, served, full, decide_true, Bool.not_true, Bool.and_false, Bool.false_eq_true, if_false, if_true, not_true_eq_false,
        if_pos (Nat.not_lt.mp room)]
      exact ⟨State.onStrand_memory .., written _ _ resident, fun _ less => absurd less room, False.elim⟩
  · simp only [show s.drone q.queue = d from rfl, serves, served, decide_false, Bool.not_false, Bool.false_and, Bool.false_eq_true, if_false, if_true, not_false_eq_true]
    exact ⟨State.onStrand_memory .., written _ _ resident, fun taken => taken.elim, fun _ => State.onStrand_service ..⟩

/-- A wait at a barrier without OVF ends in its phase and goes on otherwise (R262). -/
theorem exec_bbwaitWake {s : State} {w : Sid} {off : Nat} {v : Bool} (strand : w.strand ≠ seqIndex) (waits : (s.strand w).sched.wait = some (.bbwait off v))
    (ovf : bit (s.winRead w.core w.slot off 8) 63 = false) :
    exec (.bbwaitWake w) s = .next (if bit (s.winRead w.core w.slot off 8) 39 = v then s.onStrand w fun st => st.passWait s.clock.cycle else s) := by
  refine congrArg next ((if_neg strand).trans ?_)
  rw [waits]
  by_cases reached : bit (s.winRead w.core w.slot off 8) 39 = v <;> simp [State.bbReached, State.bbPhase, ovf, reached]

/-- Settles O41: Update by the fields of the barrier's word; each instruction by its course once its checks have passed; the answer to a QSUB by whether the queue serves the entry and has room. -/
theorem barriersGuardsAndQueues : Obligations.BarriersGuardsAndQueues := by
  refine ⟨fun b add arrive wide => ⟨fun out => if_pos out, bbUpdate_updated⟩, fun e s strand => ⟨?init, fun clear free => ⟨?add, ?beyond⟩, fun clear free => ⟨?pass, ?stand⟩, ?test, ?guard, ?query, ?submit⟩,
    fun s w off v strand waits ovf => ⟨?wakes, ?waits⟩, fun s w q found _ => qsub_answered found⟩
  case init => exact exec_bbinit
  case add => exact fun b update => congrArg next (bbWrite_stores clear free (bbValue_add update))
  case beyond => exact fun update => traps_of_raise clear.toIssues (congrArg next (bbWrite_raises clear free (bbValue_overflow update)))
  case pass => exact fun reached => (exec_bbwait clear free).trans (congrArg next (if_pos reached))
  case stand => exact fun reached => (exec_bbwait clear free).trans (congrArg next (if_neg reached))
  case test => exact fun active free => (exec_bbtest active free).trans (congrArg (fun v => next ((s.writeS s.cur e.d.toNat v).advance (s.issue .bbtest e))) (bbStatus_eq _ _))
  case guard => exact exec_gset
  case query => exact rlq_results
  case submit => exact fun active number block reserved cell => qsub_hands active number block reserved cell
  case wakes => exact fun reached => (exec_bbwaitWake strand waits ovf).trans (congrArg next (if_pos reached))
  case waits => exact fun reached => (exec_bbwaitWake strand waits ovf).trans (congrArg next (if_neg reached))

end Sys2Proof.Machine
end

section
/-! What a strand that goes on after a fault park leaves of its core (R200, R355). -/

namespace Sys2Proof.Machine
open Sys2Proof Sys2Proof.Safety

/-- A sequencer is as it was, but for the strands that wait for it. -/
def Matrix.Same (m n : Matrix) : Prop := ∃ l, n = { m with waiters := l }

theorem Matrix.Same.refl (m : Matrix) : m.Same m := ⟨m.waiters, rfl⟩

theorem Matrix.Same.trans {m n o : Matrix} (h : m.Same n) (g : n.Same o) : m.Same o := by
  obtain ⟨l, rfl⟩ := h
  obtain ⟨l', rfl⟩ := g
  exact ⟨l', rfl⟩

/-- Only the strand `w` has changed, and of its core what it waits in; its registers and its fault park are as before, and an FC of 0 stays 0. -/
structure Visits (s t : State) (w : Sid) : Prop where
  memory : t.memory = s.memory
  saved : ∀ c, (t.core c).saved = (s.core c).saved
  engine : ∀ c, (s.core c).matrix.Same (t.core c).matrix
  combs : ∀ c n, ∃ l, t.comb? c n = (s.comb? c n).map fun k => { k with strands := l }
  others : ∀ x, x ≠ w → t.strand x = s.strand x
  regs : (t.strand w).regs = (s.strand w).regs
  fparked : (t.strand w).sched.fparked = (s.strand w).sched.fparked
  fc : (s.strand w).sched.fc = 0 → (t.strand w).sched.fc = 0

section
variable {s t u : State} {w : Sid}

theorem Visits.trans (h : Visits s t w) (g : Visits t u w) : Visits s u w where
  memory := g.memory.trans h.memory
  saved c := (g.saved c).trans (h.saved c)
  engine c := (h.engine c).trans (g.engine c)
  combs c n := by
    obtain ⟨l, at_⟩ := h.combs c n
    obtain ⟨m, there⟩ := g.combs c n
    exact ⟨m, by rw [there, at_, Option.map_map]; rfl⟩
  others x away := (g.others x away).trans (h.others x away)
  regs := g.regs.trans h.regs
  fparked := g.fparked.trans h.fparked
  fc zero := g.fc (h.fc zero)

/-- Where the cores are the same. -/
theorem Visits.of_cores (cores : t.cores = s.cores) (memory : t.memory = s.memory) : Visits s t w := by
  have strand (x : Sid) : t.strand x = s.strand x := by
    rw [State.strand, State.comb, State.comb?, State.core, cores]
    rfl
  refine ⟨memory, fun c => ?_, fun c => ?_, fun c n => ?_, fun x _ => strand x, ?_, ?_, ?_⟩
  · rw [State.core, cores]
    rfl
  · rw [State.core, State.core, cores]
    exact .refl _
  · have same : t.comb? c n = s.comb? c n := by
      rw [State.comb?, State.core, cores]
      rfl
    cases held : s.comb? c n with
    | none => exact ⟨[], by rw [same, held]; rfl⟩
    | some k => exact ⟨k.strands, by rw [same, held]; rfl⟩
  · rw [strand]
  · rw [strand]
  · rw [strand]
    exact id

theorem Visits.refl (s : State) (w : Sid) : Visits s s w := .of_cores rfl rfl

theorem State.saved_onComb (s : State) (c n : Nat) (f : Comb → Comb) (d : Nat) : ((s.onComb c n f).core d).saved = (s.core d).saved := by
  obtain ⟨l, h⟩ := s.core_onComb c n f d
  rw [h]

/-- A change of the strand that keeps its registers, its fault park and an FC of 0. -/
theorem Visits.onStrand (f : Strand → Strand) (keeps : ∀ st, (f st).regs = st.regs ∧ (f st).sched.fparked = st.sched.fparked ∧ (st.sched.fc = 0 → (f st).sched.fc = 0)) :
    Visits s (s.onStrand w f) w := by
  have here : (s.comb? w.core w.slot).isSome = true ∨ (s.onStrand w f).strand w = s.strand w := by
    cases held : s.comb? w.core w.slot with
    | some k => exact .inl rfl
    | none => exact .inr (by rw [State.onStrand, State.onComb, held])
  refine ⟨State.onStrand_memory .., fun c => State.saved_onComb .., fun c => ?_, fun c n => ?_, fun x away => State.strand_onStrand_ne s f away, ?_, ?_, ?_⟩
  · rw [State.onStrand, State.onComb_matrix]
    exact .refl _
  · by_cases same : w.core = c ∧ w.slot = n
    · obtain ⟨rfl, rfl⟩ := same
      rw [State.onStrand, State.comb?_onComb_map]
      cases s.comb? w.core w.slot with
      | none => exact ⟨[], rfl⟩
      | some k => exact ⟨_, rfl⟩
    · rw [State.onStrand, State.comb?_onComb_ne s _ (by omega)]
      cases s.comb? c n with
      | none => exact ⟨[], rfl⟩
      | some k => exact ⟨k.strands, rfl⟩
  · rcases here with resident | same
    · rw [State.strand_onStrand f resident, (keeps _).1]
    · rw [same]
  · rcases here with resident | same
    · rw [State.strand_onStrand f resident, (keeps _).2.1]
    · rw [same]
  · rcases here with resident | same
    · rw [State.strand_onStrand f resident]
      exact (keeps _).2.2
    · rw [same]
      exact id

/-- A change of a core that keeps its combs and the saved ones. -/
theorem Visits.onCore (c : Nat) (f : Core → Core) (combs : ∀ k, (f k).combs = k.combs) (saved : ∀ k, (f k).saved = k.saved)
    (engine : ∀ k : Core, k.matrix.Same (f k).matrix) : Visits s (s.onCore c f) w := by
  refine ⟨rfl, fun d => ?_, fun d => ?_, fun d n => ?_, fun x _ => State.strand_onCore s (combs _) x, ?_, ?_, ?_⟩
  · by_cases same : c = d
    · rw [← same, State.core_onCore, saved]
    · rw [State.core_onCore_ne s f same]
  · by_cases same : c = d
    · rw [← same, State.core_onCore]
      exact engine _
    · rw [State.core_onCore_ne s f same]
      exact .refl _
  · rw [State.comb?_onCore s (combs _)]
    cases s.comb? d n with
    | none => exact ⟨[], rfl⟩
    | some k => exact ⟨k.strands, rfl⟩
  · rw [State.strand_onCore s (combs _)]
  · rw [State.strand_onCore s (combs _)]
  · rw [State.strand_onCore s (combs _)]
    exact id

/-! Fault entry. -/

@[simp] theorem Strand.enterTrap_fparked (st : Strand) (cause : Nat) (tval : Dbl) (tpc : Pc) (group : Mask) (seq : Bool) :
    (st.enterTrap cause tval tpc group seq).sched.fparked = st.sched.fparked := by simp only [Strand.enterTrap, Strand.move, Strand.loseResv]

theorem Visits.takeTrap (cause : Nat) (tval : Dbl) (tpc : Pc) (group : Mask) (seq : Bool) : Visits s (s.takeTrap w cause tval tpc group seq) w := by
  unfold State.takeTrap
  split
  · exact (Visits.onStrand Strand.exitAll fun _ => ⟨rfl, rfl, id⟩).trans (.of_cores rfl (by rfl))
  · refine Visits.onStrand (fun st => st.enterTrap cause tval tpc group seq) fun st => ?_
    exact ⟨Strand.enterTrap_regs .., Strand.enterTrap_fparked .., fun _ => Strand.enterTrap_fc ..⟩

theorem Visits.enterPending : Visits s (s.enterPending w) w := by
  unfold State.enterPending
  dsimp only
  split
  · split
    · refine Visits.trans (Visits.onStrand _ ?_) (Visits.takeTrap ..)
      exact fun _ => ⟨rfl, rfl, id⟩
    · exact .refl s w
  · exact .refl s w

theorem Visits.dropWait : Visits s (s.dropWait w) w := by
  unfold State.dropWait
  refine Visits.trans (Visits.onStrand _ ?_) (Visits.onCore _ _ ?_ ?_ ?_)
  · exact fun _ => ⟨rfl, rfl, id⟩
  · exact fun _ => rfl
  · exact fun _ => rfl
  · exact fun _ => ⟨_, rfl⟩

theorem Visits.holdTrap (p : PendTrap) : Visits s (s.holdTrap w p) w := by
  have given : Visits s (if s.standsOn w then s else s.dropWait w) w := by
    split
    · exact .refl s w
    · exact .dropWait
  unfold State.holdTrap
  refine (given.trans (Visits.onStrand _ ?_)).trans .enterPending
  exact fun _ => ⟨rfl, rfl, id⟩

end

/-! The strands of a fault-parked comb go on (R200). -/

/-- A strand is told the outcome of its batch (R355). -/
def State.tellOutcome (s : State) (w : Sid) : State :=
  match (s.strand w).sched.outcome with
  | none => s
  | some (o, va) =>
    let s := s.onStrand w fun st => { st with sched := { st.sched with outcome := none } }
    let st := s.strand w
    s.holdTrap w { order := st.flight.nextId, cause := o, tval := BitVec.ofNat 64 va, tpc := st.resumePc, group := st.at st.live st.resumePc }

/-- A comb that is fault-parked no longer: its batches are forgotten, and its strands go on with FC 0. -/
def Comb.unpark (k : Comb) : Comb :=
  { k with batches := [], strands := Tab.mapVals {} (fun _ st => { st with sched := { st.sched with fparked := false, fc := 0 } }) k.strands }

theorem State.resumeParked_eq (s : State) (core slot : Nat) : s.resumeParked core slot =
    (Tab.keys ((s.onComb core slot Comb.unpark).comb core slot).strands).foldl (fun s x => s.tellOutcome { core := core, slot := slot, strand := x }) (s.onComb core slot Comb.unpark) := rfl

theorem State.tellOutcome_visits (s : State) (w : Sid) : Visits s (s.tellOutcome w) w := by
  unfold State.tellOutcome
  split
  · exact .refl s w
  · refine Visits.trans (Visits.onStrand _ ?_) (Visits.holdTrap _)
    exact fun _ => ⟨rfl, rfl, id⟩

/-- Where no batch of a strand has an outcome there is nothing to tell. -/
theorem State.tellOutcome_none {s : State} {w : Sid} (none : (s.strand w).sched.outcome = none) : s.tellOutcome w = s := by
  rw [State.tellOutcome, none]

section
variable {s : State} {core slot : Nat} {k : Comb}

/-- A live strand of a comb that is unparked. -/
theorem State.strand_unpark (held : s.comb? core slot = some k) {j : Nat} (live : (s.strand { core := core, slot := slot, strand := j }).live ≠ 0) :
    (s.onComb core slot Comb.unpark).strand { core := core, slot := slot, strand := j } =
      { s.strand { core := core, slot := slot, strand := j } with sched := { (s.strand { core := core, slot := slot, strand := j }).sched with fparked := false, fc := 0 } } := by
  have strand : s.strand { core := core, slot := slot, strand := j } = Tab.get {} k.strands j := by rw [State.strand, State.comb, held]; rfl
  rw [strand] at live ⊢
  rw [State.strand, State.comb, State.comb?_onComb _ held]
  exact Tab.get_mapVals (f := fun _ (st : Strand) => { st with sched := { st.sched with fparked := false, fc := 0 } }) (fun default => live (congrArg Strand.live default)) (fun default => live (congrArg Strand.live default))

/-- The comb and everything beside its strands after its fault park ends. -/
theorem State.resumeParked_comb (held : s.comb? core slot = some k) : let t := s.resumeParked core slot
    t.memory = s.memory ∧ (∀ c, (t.core c).saved = (s.core c).saved) ∧ ∃ l, t.comb? core slot = some { k with batches := [], strands := l } := by
  intro t
  have all : t.memory = (s.onComb core slot Comb.unpark).memory ∧ (∀ c, (t.core c).saved = ((s.onComb core slot Comb.unpark).core c).saved) ∧
      ∃ l, t.comb? core slot = ((s.onComb core slot Comb.unpark).comb? core slot).map fun k => { k with strands := l } := by
    rw [show t = _ from State.resumeParked_eq s core slot]
    refine List.foldlRecOn (motive := fun t : State => t.memory = (s.onComb core slot Comb.unpark).memory ∧ (∀ c, (t.core c).saved = ((s.onComb core slot Comb.unpark).core c).saved) ∧
      ∃ l, t.comb? core slot = ((s.onComb core slot Comb.unpark).comb? core slot).map fun k => { k with strands := l }) _ _ ⟨rfl, fun _ => rfl, ?_⟩ fun t kept j _ => ?_
    · rw [State.comb?_onComb _ held]
      exact ⟨k.unpark.strands, rfl⟩
    · obtain ⟨memory, saved, l, comb⟩ := kept
      have visits := t.tellOutcome_visits { core := core, slot := slot, strand := j }
      obtain ⟨m, there⟩ := visits.combs core slot
      exact ⟨visits.memory.trans memory, fun c => (visits.saved c).trans (saved c), m, by rw [there, comb, Option.map_map]; rfl⟩
  obtain ⟨memory, saved, l, comb⟩ := all
  refine ⟨memory.trans (State.onComb_memory ..), fun c => (saved c).trans (State.saved_onComb ..), l, ?_⟩
  rw [comb, State.comb?_onComb _ held]
  rfl

/-- The end of a fault park changes no sequencer but in who waits for it. -/
theorem State.resumeParked_engine (s : State) (core slot c : Nat) : (s.core c).matrix.Same ((s.resumeParked core slot).core c).matrix := by
  rw [State.resumeParked_eq]
  refine List.foldlRecOn (motive := fun t : State => (s.core c).matrix.Same (t.core c).matrix) _ _ ?_ fun t kept j _ => ?_
  · rw [State.onComb_matrix]
    exact .refl _
  · exact kept.trans ((t.tellOutcome_visits { core := core, slot := slot, strand := j }).engine c)

/-- A live strand after its fault park: it is parked no longer, FC is 0, and its registers are as before. -/
theorem State.resumeParked_live (held : s.comb? core slot = some k) {j : Nat} (live : (s.strand { core := core, slot := slot, strand := j }).live ≠ 0) :
    let u := (s.resumeParked core slot).strand { core := core, slot := slot, strand := j }
    u.sched.fparked = false ∧ u.sched.fc = 0 ∧ u.regs = (s.strand { core := core, slot := slot, strand := j }).regs := by
  rw [State.resumeParked_eq]
  refine List.foldlRecOn (motive := fun t : State => let u := t.strand { core := core, slot := slot, strand := j }
    u.sched.fparked = false ∧ u.sched.fc = 0 ∧ u.regs = (s.strand { core := core, slot := slot, strand := j }).regs) _ _ ?_ fun t kept x _ => ?_
  · rw [State.strand_unpark held live]
    exact ⟨rfl, rfl, rfl⟩
  · have visits := t.tellOutcome_visits { core := core, slot := slot, strand := x }
    by_cases same : j = x
    · subst same
      exact ⟨visits.fparked.trans kept.1, visits.fc kept.2.1, visits.regs.trans kept.2.2⟩
    · rw [visits.others _ fun h => same (congrArg Sid.strand h)]
      exact kept

/-- A live strand whose batch has no outcome goes on as it was. -/
theorem State.resumeParked_free (held : s.comb? core slot = some k) {j : Nat} (live : (s.strand { core := core, slot := slot, strand := j }).live ≠ 0)
    (free : (s.strand { core := core, slot := slot, strand := j }).sched.outcome = none) : (s.resumeParked core slot).strand { core := core, slot := slot, strand := j } =
      { s.strand { core := core, slot := slot, strand := j } with sched := { (s.strand { core := core, slot := slot, strand := j }).sched with fparked := false, fc := 0 } } := by
  rw [State.resumeParked_eq]
  refine List.foldlRecOn (motive := fun t : State => t.strand { core := core, slot := slot, strand := j } =
    { s.strand { core := core, slot := slot, strand := j } with sched := { (s.strand { core := core, slot := slot, strand := j }).sched with fparked := false, fc := 0 } }) _ _
    (State.strand_unpark held live) fun t kept x _ => ?_
  by_cases same : j = x
  · subst same
    rw [State.tellOutcome_none (by rw [kept]; exact free)]
    exact kept
  · rw [(t.tellOutcome_visits { core := core, slot := slot, strand := x }).others _ fun h => same (congrArg Sid.strand h)]
    exact kept

end

end Sys2Proof.Machine
end

section
/-! Time slices, pre-emption, and the images of combs: the settlement of O46. -/

namespace Sys2Proof.Machine
open Sys2Proof Sys2Proof.Safety

/-! Tables. -/

section
variable {α : Type} {d : α}

theorem Tab.mem_of_get : ∀ {t : Tab α} {i : Nat}, Tab.get d t i ≠ d → (i, Tab.get d t i) ∈ t
  | [], _, listed => absurd rfl listed
  | (k, v) :: t, i, listed => by
    rw [Tab.get] at listed ⊢
    by_cases key : k = i
    · rw [if_pos key, key]
      exact List.mem_cons_self
    · rw [if_neg key] at listed ⊢
      exact List.mem_cons_of_mem _ (Tab.mem_of_get listed)

theorem Tab.mem_of_mem_del {i : Nat} {x : Nat × α} : ∀ {t : Tab α}, x ∈ Tab.del t i → x ∈ t ∧ x.1 ≠ i
  | [], mem => absurd mem List.not_mem_nil
  | (k, v) :: t, mem => by
    rw [Tab.del] at mem
    split at mem
    · exact ⟨List.mem_cons_of_mem _ (Tab.mem_of_mem_del mem).1, (Tab.mem_of_mem_del mem).2⟩
    · next other =>
      rcases List.mem_cons.mp mem with rfl | mem
      · exact ⟨List.mem_cons_self, other⟩
      · exact ⟨List.mem_cons_of_mem _ (Tab.mem_of_mem_del mem).1, (Tab.mem_of_mem_del mem).2⟩

theorem Tab.mem_of_mem_ins {i : Nat} {v : α} {x : Nat × α} : ∀ {t : Tab α}, x ∈ Tab.ins i v t → x = (i, v) ∨ x ∈ t
  | [], mem => .inl (List.mem_singleton.mp mem)
  | (k, w) :: t, mem => by
    rw [Tab.ins] at mem
    split at mem
    · exact List.mem_cons.mp mem
    · rcases List.mem_cons.mp mem with rfl | mem
      · exact .inr List.mem_cons_self
      · exact (Tab.mem_of_mem_ins mem).imp_right (List.mem_cons_of_mem _)

variable [DecidableEq α]

/-- What a table lists after a write: the new entry, or an old one under another key. -/
theorem Tab.mem_of_mem_put {i : Nat} {v : α} {x : Nat × α} {t : Tab α} (mem : x ∈ Tab.put d t i v) : x = (i, v) ∨ x ∈ t ∧ x.1 ≠ i := by
  rw [Tab.put] at mem
  split at mem
  · exact .inr (Tab.mem_of_mem_del mem)
  · exact (Tab.mem_of_mem_ins mem).imp_right Tab.mem_of_mem_del

/-- An entry of a table of options whose every entry is changed. -/
theorem Tab.get_mapVals_some {f : Nat → α → α} {t : Tab (Option α)} {i : Nat} {x : α} (held : Tab.get none t i = some x) :
    Tab.get none (Tab.mapVals none (fun n y => y.map (f n)) t) i = some (f i x) := by
  rw [Tab.get_mapVals]
  · rw [held]
    rfl
  · rw [held]
    exact Option.some_ne_none x
  · rw [held]
    exact Option.some_ne_none _

end

/-! Slices (R338 to R340). -/

section
variable {s : State} {core : Nat}

theorem State.core_openSlice (s : State) (core e : Nat) : (s.openSlice core e).core core = { s.core core with
    slice := some { entry := e, tenant := (Tab.get {} (s.core core).slices e : SliceEntry).tenant, start := s.clock.cycle,
                    length := (let n := (Tab.get {} (s.core core).slices e : SliceEntry).length; if 1 ≤ n ∧ n ≤ 4095 then 4096 else n) } } := State.core_onCore ..

theorem State.comb?_closeSlice (s : State) (core c n : Nat) : (s.closeSlice core).comb? c n = s.comb? c n := State.comb?_onCore s (by rfl) c n

theorem sliceBegin_opens {e : Nat} (idle : (s.core core).slice = none) (quiet : (s.core core).saving = false) (next_ : s.nextBegin core = some e) :
    exec (.sliceBegin core) s = .next (s.openSlice core e) := by
  have open_ : s.sliceDone core = false := by rw [State.sliceDone, idle]
  have begins : s.mayBegin core = true := by simp [State.mayBegin, idle, quiet, next_]
  refine congrArg next ?_
  simp [begins, open_, quiet, next_]

theorem sliceBegin_closes (done : s.sliceDone core = true) :
    exec (.sliceBegin core) s = .next (if ((s.closeSlice core).core core).saving then s.closeSlice core
      else match (s.closeSlice core).nextBegin core with | some e => (s.closeSlice core).openSlice core e | none => s.closeSlice core) := by
  have begins : s.mayBegin core = true := by simp [State.mayBegin, done]
  refine congrArg next ?_
  simp only [begins, done]
  rfl

/-! Pre-emption (R298, R341). -/

/-- A comb as a pre-emption that cuts some of a core's leaves it. -/
def State.cutOne (s : State) (c : Nat) (cut : Nat → Bool) (slot : Nat) (k : Comb) : Comb :=
  if cut slot then { k with phase := .preempting, cutPending := false, strands := Tab.mapVals {} (fun j st => st.preempt (s.directRuns { core := c, slot := slot, strand := j })) k.strands } else k

theorem State.comb?_preemptCombs {c slot : Nat} {k : Comb} (cut : Nat → Bool) (held : s.comb? c slot = some k) :
    ∃ l, (s.preemptCombs c cut).comb? c slot = some (if cut slot then { k with phase := .preempting, cutPending := false, strands := l } else k) := by
  refine ⟨Tab.mapVals {} (fun j st => st.preempt (s.directRuns { core := c, slot := slot, strand := j })) k.strands, ?_⟩
  rw [State.comb?, State.preemptCombs, State.core_onCore]
  exact Tab.get_mapVals_some (f := s.cutOne c cut) held

/-- Pre-emption of the combs of a tenant on a core: what it leaves alone, and what becomes of each running comb. -/
theorem State.preemptAll_stops (s : State) (core : Nat) (tenant : BitVec 16) : let t := s.preemptAll core tenant
    (t.core core).slice = (s.core core).slice ∧ t.memory = s.memory ∧ (t.core core).lm = (s.core core).lm ∧
    ∀ slot c, s.comb? core slot = some c → c.tenant = tenant → c.phase = .running → ∃ c', t.comb? core slot = some c' ∧
      (s.streamPaired core slot = false → c'.phase = .preempting ∧ ∀ j, t.mayIssue { core := core, slot := slot, strand := j } = false) ∧
      (s.streamPaired core slot = true → c'.phase = .running ∧ c'.cutPending = true ∧ c'.strands = c.strands) := by
  intro t
  refine ⟨?_, rfl, ?_, fun slot c held own runs => ?_⟩
  · simp only [t, State.preemptAll, State.preemptCombs, State.core_onCore, Core.leaveQueues]
  · simp only [t, State.preemptAll, State.preemptCombs, State.core_onCore, Core.leaveQueues]
  · let mine : Nat → Bool := fun slot => match s.comb? core slot with | some k => k.tenant == tenant && k.phase != .halting && k.phase != .draining | none => false
    have here : mine slot = true := by simp [mine, held, own, runs]
    have marked : (s.onCore core fun k => { k with combs := Tab.mapVals none (fun n x => x.map fun (y : Comb) => if mine n && s.streamPaired core n then { y with cutPending := true } else y) k.combs }).comb? core slot =
        some (if mine slot && s.streamPaired core slot then { c with cutPending := true } else c) := by
      rw [State.comb?, State.core_onCore]
      exact Tab.get_mapVals_some (f := fun n (y : Comb) => if mine n && s.streamPaired core n then { y with cutPending := true } else y) held
    obtain ⟨l, after⟩ := State.comb?_preemptCombs (fun n => mine n && !s.streamPaired core n) marked
    refine ⟨_, after, fun alone => ?_, fun paired => ?_⟩
    · have stopped : (if mine slot && !s.streamPaired core slot then { (if mine slot && s.streamPaired core slot then { c with cutPending := true } else c) with phase := .preempting, cutPending := false, strands := l }
          else (if mine slot && s.streamPaired core slot then { c with cutPending := true } else c)) = { c with phase := .preempting, cutPending := false, strands := l } := by
        simp [here, alone]
      refine ⟨by rw [stopped], fun j => State.not_mayIssue_of_phase ?_⟩
      have comb : t.comb core slot = { c with phase := .preempting, cutPending := false, strands := l } := by
        rw [State.comb, show t.comb? core slot = _ from after, stopped]
        rfl
      rw [comb]
      exact nofun
    · simp [here, paired, runs]

/-- The pre-emption of a comb that waited for its paired stream (R298). -/
theorem State.cutComb_cuts {slot : Nat} {c : Comb} (held : s.comb? core slot = some c) (pending : c.cutPending = true) (runs : c.phase = .running) (alone : s.streamPaired core slot = false) :
    ∃ c', (s.cutComb core slot).comb? core slot = some c' ∧ c'.phase = .preempting ∧ c'.cutPending = false := by
  have due : s.cutDue core slot = true := by simp [State.cutDue, held, pending, runs, alone]
  obtain ⟨l, after⟩ := State.comb?_preemptCombs (fun n => n == slot) held
  rw [beq_self_eq_true, if_pos rfl] at after
  exact ⟨_, by rw [State.cutComb, due]; exact after, rfl, rfl⟩

/-- The slice of a core ended, and the combs of its tenant pre-empted. -/
theorem State.close_preempts (s : State) (core : Nat) (tenant : BitVec 16) : let t := (s.closeSlice core).preemptAll core tenant
    (t.core core).slice = none ∧ t.memory = s.memory ∧ (t.core core).lm = (s.core core).lm ∧
    ∀ slot c, s.comb? core slot = some c → c.tenant = tenant → c.phase = .running → ∃ c', t.comb? core slot = some c' ∧
      (s.streamPaired core slot = false → c'.phase = .preempting ∧ ∀ j, t.mayIssue { core := core, slot := slot, strand := j } = false) ∧
      (s.streamPaired core slot = true → c'.phase = .running ∧ c'.cutPending = true ∧ c'.strands = c.strands) := by
  intro t
  obtain ⟨slice, memory, lm, combs⟩ := (s.closeSlice core).preemptAll_stops core tenant
  have stream : ∀ slot, (s.closeSlice core).streamPaired core slot = s.streamPaired core slot := fun slot => by
    have same : (s.closeSlice core).stream? core = s.stream? core := by rw [State.stream?, State.closeSlice, State.core_onCore]; rfl
    rw [State.streamPaired, same]
    rfl
  refine ⟨slice.trans ?_, memory, lm.trans ?_, fun slot c held own runs => ?_⟩
  · rw [State.closeSlice, State.core_onCore]
  · rw [State.closeSlice, State.core_onCore]
  · obtain ⟨c', after, rest⟩ := combs slot c ((s.comb?_closeSlice core core slot).trans held) own runs
    rw [stream] at rest
    exact ⟨c', after, rest⟩

/-- SLICE_EXPIRY takes the branch of the entry that the rotation takes (R340). -/
theorem exec_sliceExpiry {x : Slice} (slice : (s.core core).slice = some x) (passed : s.slicePassed core = true) :
    exec (.sliceExpiry core) s = .next (match s.nextSlice core (some x.entry) with
      | some e => if (Tab.get {} (s.core core).slices e : SliceEntry).tenant = x.tenant then (s.closeSlice core).openSlice core e else (s.closeSlice core).preemptAll core x.tenant
      | none => (s.closeSlice core).preemptAll core x.tenant) := by
  refine congrArg next ?_
  simp only [slice, passed]
  rfl

/-! Images of strands and of the stream (R298, R341). -/

/-- A strand saved without an open region keeps its whole context. -/
theorem Strand.image_context {st : Strand} (outside : st.region = none) :
    st.image.regs = st.regs ∧ st.image.pcs = st.pcs ∧ st.image.live = st.live ∧ st.image.sp = st.sp ∧ st.image.trap = st.trap := by
  simp only [Strand.image, show st.loseResv.region = none from outside]
  exact ⟨rfl, rfl, rfl, rfl, rfl⟩

/-- The strands of a comb saved. -/
theorem Comb.mem_images {l : Tab Strand} {j : Nat} {st : Strand} (mem : (j, st) ∈ l) (outside : st.region = none) :
    ∃ u, (j, u) ∈ l.map (fun y => (y.1, y.2.image)) ∧ u.regs = st.regs ∧ u.pcs = st.pcs ∧ u.live = st.live ∧ u.sp = st.sp ∧ u.trap = st.trap :=
  ⟨st.image, List.mem_map.mpr ⟨(j, st), mem, rfl⟩, Strand.image_context outside⟩

/-- Saving a stream changes the matrix sequencer of its core and nothing else. -/
theorem State.saveStream_only (s : State) (core slot : Nat) : ∃ m, s.saveStream core slot = s.onCore core (fun c => { c with matrix := m }) ∨ s.saveStream core slot = s := by
  unfold State.saveStream
  split
  · split
    · exact ⟨_, .inl rfl⟩
    · exact ⟨{}, .inr rfl⟩
  · exact ⟨{}, .inr rfl⟩

/-- What saving a stream leaves alone. -/
theorem State.saveStream_keeps (s : State) (core slot : Nat) : let t := s.saveStream core slot
    t.memory = s.memory ∧ (t.core core).lm = (s.core core).lm ∧ (t.core core).saved = (s.core core).saved ∧ (t.core core).combs = (s.core core).combs ∧ ∀ n, t.comb? core n = s.comb? core n := by
  intro t
  obtain ⟨m, saves | same⟩ := s.saveStream_only core slot
  · rw [show t = _ from saves]
    exact ⟨rfl, by rw [State.core_onCore], by rw [State.core_onCore], by rw [State.core_onCore], State.comb?_onCore s (by rfl) core⟩
  · rw [show t = s from same]
    exact ⟨rfl, rfl, rfl, rfl, fun _ => rfl⟩

/-- No stream of the comb runs once it is saved. -/
theorem State.streams_saveStream (s : State) (core slot : Nat) : (s.saveStream core slot).streams core slot = false := by
  unfold State.saveStream
  split
  · next x runs =>
    split
    · rw [State.streams, State.stream?, State.core_onCore]
    · next other =>
      rw [State.streams, State.stream?, runs]
      exact beq_eq_false_iff_ne.mpr other
  · next idle => rw [State.streams, State.stream?, idle]

/-- The image of the stream of a comb that gives up the sequencer. -/
theorem State.held_saveStream {slot : Nat} {x : Stream} (runs : s.stream? core = some x) (own : x.slot = slot) :
    ∃ r ∈ ((s.saveStream core slot).core core).matrix.held, r.slot = slot ∧ r.stream = x.image ∧ r.acc = (s.core core).matrix.acc := by
  have runs : (s.core core).matrix.stream = some x := runs
  refine ⟨{ slot := slot, stream := x.image, acc := (s.core core).matrix.acc, intTag := (s.core core).matrix.intTag }, ?_, rfl, rfl, rfl⟩
  simp only [State.saveStream, runs, if_pos own, State.core_onCore]
  exact List.mem_append_right _ List.mem_cons_self

/-! A comb gives up its strands, or its slot (R341, R342, R470). -/

theorem State.drainComb_eq {slot : Nat} (may : s.mayDrain core slot = true) : s.drainComb core slot =
    ((s.dropStops core slot).saveStream core slot).onComb core slot fun k => { k with phase := .draining, strands := k.strands.map fun y => (y.1, y.2.image) } := by
  rw [State.drainComb, if_pos may]

section
variable {slot : Nat} {c : Comb} (held : s.comb? core slot = some c)
include held

/-- A core saves no comb once its one pre-empted comb is drained. -/
theorem State.saving_drained (may : s.mayDrain core slot = true)
    (rest : ∀ n c', (n, some c') ∈ (s.core core).combs → c'.cutPending = false ∧ (n ≠ slot → c'.phase ≠ .preempting)) : ((s.drainComb core slot).core core).saving = false := by
  obtain ⟨-, -, -, same, at_⟩ := (s.dropStops core slot).saveStream_keeps core slot
  have combs : ((s.drainComb core slot).core core).combs =
      Tab.put none (s.core core).combs slot (some { c with phase := .draining, strands := c.strands.map fun y => (y.1, y.2.image) }) := by
    rw [State.drainComb_eq may, State.onComb, (at_ slot).trans held]
    dsimp only
    rw [State.setComb, State.core_onCore]
    dsimp only
    rw [same]
    rfl
  rw [Core.saving, combs, List.any_eq_false]
  rintro ⟨n, x⟩ mem
  have listed : (slot, some c) ∈ (s.core core).combs := by
    have := Tab.mem_of_get (d := none) (t := (s.core core).combs) (i := slot) (by rw [show Tab.get none (s.core core).combs slot = some c from held]; exact Option.some_ne_none c)
    rwa [show Tab.get none (s.core core).combs slot = some c from held] at this
  rcases Tab.mem_of_mem_put mem with eq | ⟨old, other⟩
  · rw [Prod.mk.injEq] at eq
    rw [eq.2]
    simp [(rest slot c listed).1]
  · cases x with
    | none => exact Bool.false_ne_true
    | some c' =>
      obtain ⟨uncut, phase⟩ := rest n c' old
      simp [uncut, phase other]

theorem State.drainComb_drains (may : s.mayDrain core slot = true) : let t := s.drainComb core slot
    t.memory = s.memory ∧ (t.core core).lm = (s.core core).lm ∧ t.streams core slot = false ∧
    (∃ c', t.comb? core slot = some c' ∧ c'.phase = .draining ∧ c'.base = c.base ∧ c'.tenant = c.tenant ∧ c'.reqs = c.reqs ∧ c'.words = c.words ∧
      ∀ j st, (j, st) ∈ c.strands → st.region = none → ∃ u, (j, u) ∈ c'.strands ∧ u.regs = st.regs ∧ u.pcs = st.pcs ∧ u.live = st.live ∧ u.sp = st.sp ∧ u.trap = st.trap) ∧
    (∀ x, s.stream? core = some x → x.slot = slot → ∃ r ∈ (t.core core).matrix.held, r.slot = slot ∧ r.stream = x.image ∧ r.acc = (s.core core).matrix.acc) := by
  intro t
  obtain ⟨memory, lm, -, -, combs⟩ := (s.dropStops core slot).saveStream_keeps core slot
  rw [show t = _ from State.drainComb_eq may]
  refine ⟨(State.onComb_memory ..).trans memory, (State.onComb_lm ..).trans lm, ?_, ⟨_, State.comb?_onComb _ ((combs slot).trans held), rfl, rfl, rfl, rfl, rfl, fun j st mem outside => Comb.mem_images mem outside⟩,
    fun x runs own => ?_⟩
  · have stream : State.stream? (((s.dropStops core slot).saveStream core slot).onComb core slot fun k => { k with phase := .draining, strands := k.strands.map fun y => (y.1, y.2.image) }) core =
        ((s.dropStops core slot).saveStream core slot).stream? core := congrArg Matrix.stream (State.onComb_matrix ..)
    rw [State.streams, stream]
    exact (s.dropStops core slot).streams_saveStream core slot
  · rw [State.onComb_matrix]
    exact State.held_saveStream (s := s.dropStops core slot) runs own

/-- The image of a comb written (R341, R342). -/
theorem combImageComplete_saves (ready : s.imageReady core slot = true) : Becomes (.combImageComplete core slot) s fun t => t.comb? core slot = none ∧
    t.memory = s.memory ∧ ∃ x, (t.core core).saved = (s.core core).saved ++ [x] ∧ x.slot = slot ∧ x.comb.tenant = c.tenant ∧ x.comb.reqs = c.reqs ∧ x.comb.words = c.words ∧
      ∀ j st, (j, st) ∈ c.strands → st.region = none → ∃ u, (j, u) ∈ x.comb.strands ∧ u.regs = st.regs ∧ u.pcs = st.pcs ∧ u.live = st.live ∧ u.sp = st.sp ∧ u.trap = st.trap := by
  obtain ⟨memory, -, saved, -, combs⟩ := s.saveStream_keeps core slot
  refine ⟨s.saveComb core slot, congrArg next (if_pos ready), ?_⟩
  unfold State.saveComb
  simp only [(combs slot).trans held]
  refine ⟨?_, memory, ?_⟩
  · rw [State.comb?, State.core_onCore]
    dsimp only
    exact Tab.get_put_same none _ _ _
  · rw [State.core_onCore]
    exact ⟨_, congrArg (· ++ _) saved, rfl, rfl, rfl, rfl, fun j st mem outside => Comb.mem_images mem outside⟩

end

/-! A saved comb comes back (R342). -/

/-- A strand that differs in its frame alone. -/
def Strand.Framed (st u : Strand) : Prop := ∃ f, u = { st with frame := f }

/-- The strands of a table, each given a frame. -/
theorem Tab.get_framed {p : Nat × Strand → Nat × Strand} (frames : ∀ y, (p y).1 = y.1 ∧ y.2.Framed (p y).2) (j : Nat) :
    ∀ t : Tab Strand, (Tab.get {} t j : Strand).Framed (Tab.get {} (t.map p) j)
  | [] => ⟨_, rfl⟩
  | y :: t => by
    obtain ⟨key, framed⟩ := frames y
    rw [List.map_cons, show p y = (y.1, (p y).2) from Prod.ext key rfl, Tab.get, show y = (y.1, y.2) from rfl, Tab.get]
    split
    · exact framed
    · exact Tab.get_framed frames j t

/-- Resumed strands, each in the frame that placement gives it (R342, log entry 122). -/
def placedStrands (l : Tab Strand) (frames : List Nat) : Tab Strand :=
  let live := l.filter fun y => !y.2.sched.retired
  l.map fun y => match (live.map fun z => z.1).findIdx? fun j => j == y.1 with
    | some n => (y.1, { y.2 with frame := frames.getD n 0 })
    | none => y

theorem placedStrands_framed (l : Tab Strand) (frames : List Nat) (j : Nat) : (Tab.get {} l j : Strand).Framed (Tab.get {} (placedStrands l frames) j) := by
  refine Tab.get_framed (fun y => ?_) j l
  dsimp only
  split
  · exact ⟨rfl, _, rfl⟩
  · exact ⟨rfl, _, rfl⟩

/-- The comb of an image as it comes back, its strands in the frames given. -/
def Saved.resumed (x : Saved) (frames : List Nat) : Comb := { x.comb with phase := .resuming, strands := placedStrands x.comb.strands frames }

/-- The state in which a comb without requests and without a stream is back in its slot, and begins to run. -/
def State.placeComb (s : State) (core slot : Nat) (x : Saved) (c : Comb) : State :=
  s.onCore core fun k =>
    let k := k.clearLm c.base c.shape.window
    { k with
      lm := Mem.writeCells k.lm (x.lm.map fun y => (c.base + y.1, y.2))
      lmPoison := x.poison.foldl (fun t w => Tab.put false t (c.base / 4 + w) true) k.lmPoison
      combs := Tab.put none k.combs slot (some c)
      saved := k.saved.erase x
      matrix := { k.matrix with restores := k.matrix.restores ++ [] } }

section
variable {slot : Nat} {x : Saved}

theorem State.comb?_placeComb (c : Comb) : (s.placeComb core slot x c).comb? core slot = some c := by
  rw [State.comb?, State.placeComb, State.core_onCore]
  dsimp only
  exact Tab.get_put_same none _ _ _

/-- A comb without requests, in a core whose sequencer restores nothing, runs at once. -/
theorem State.resumeRuns_placed {c : Comb} (reqs : c.reqs = []) (restores : (s.core core).matrix.restores = []) :
    (s.placeComb core slot x c).resumeRuns core slot = ((s.placeComb core slot x c).onComb core slot fun k => { k with phase := .running }).resumeParked core slot := by
  have comb : (s.placeComb core slot x c).comb core slot = c := by rw [State.comb, State.comb?_placeComb]; rfl
  have free : (s.placeComb core slot x c).stillResuming core slot = false := by
    have none : ((s.placeComb core slot x c).core core).matrix.restores = [] := by
      rw [State.placeComb, State.core_onCore]
      dsimp only [Core.clearLm]
      rw [restores, List.append_nil]
    rw [State.stillResuming, comb, reqs, none]
    rfl
  rw [State.resumeRuns, free]
  rfl

/-- A comb without requests registers none (R274). -/
theorem State.reregister_none {c : Comb} (here : s.comb? core slot = some c) (reqs : c.reqs = []) : s.reregister core slot = s := by
  rw [State.reregister, State.comb, here]
  dsimp only [Option.getD_some]
  rw [reqs]
  rfl

/-- The frames of the strands of a saved comb (R342, log entry 122). -/
def State.resumeFrames (s : State) (core : Nat) (x : Saved) : List Nat :=
  (placeStrands (s.core core).frames x.comb.shape.nregs (x.comb.strands.filter fun y => !y.2.sched.retired).length).getD []

theorem State.resumeComb_places (slotted : (s.core core).slotFor x = some slot) (reqs : x.comb.reqs = []) (stream : x.stream = none) (restores : (s.core core).matrix.restores = [])
    (open_ : s.descriptor x.comb.tenant = none ∨ ∃ d, s.descriptor x.comb.tenant = some d ∧ descConf d = false) :
    s.resumeComb core x = ((s.placeComb core slot x (x.resumed (s.resumeFrames core x))).onComb core slot fun k => { k with phase := .running }).resumeParked core slot := by
  let t := s.placeComb core slot x (x.resumed (s.resumeFrames core x))
  have registered : (if (x.resumed (s.resumeFrames core x)).reqs.length ≤ t.freeLocks core then t.reregister core slot else t) = t := by
    rw [State.reregister_none (s := t) (State.comb?_placeComb _) (by exact reqs), ite_self]
  have runs := congrArg (fun t => State.resumeRuns t core slot) registered
  rw [← State.resumeRuns_placed (by exact reqs) restores]
  rcases open_ with none | ⟨d, some, plain⟩
  · simp only [State.resumeComb, slotted, stream, none]
    exact runs
  · simp only [State.resumeComb, slotted, stream, some, plain]
    exact runs

/-- COMB_RESUME of a comb without requests, stream and batches (R342). -/
theorem combResume_returns (idle : s.resumable core = none) (next_ : s.nextSaved core = some x) (slotted : (s.core core).slotFor x = some slot) (reqs : x.comb.reqs = []) (stream : x.stream = none)
    (restores : (s.core core).matrix.restores = []) (open_ : s.descriptor x.comb.tenant = none ∨ ∃ d, s.descriptor x.comb.tenant = some d ∧ descConf d = false) :
    Becomes (.combResume core) s fun t => t.memory = s.memory ∧ (t.core core).saved = (s.core core).saved.erase x ∧
      ∃ c, t.comb? core slot = some c ∧ c.phase = .running ∧ c.base = x.comb.base ∧ c.tenant = x.comb.tenant ∧ c.words = x.comb.words ∧
        ∀ j, let st : Strand := Tab.get {} x.comb.strands j; st.live ≠ 0 → st.sched.outcome = none →
          let u := t.strand { core := core, slot := slot, strand := j }; u.regs = st.regs ∧ u.live = st.live ∧ u.pcs = st.pcs ∧ u.trap = st.trap := by
  have places := State.resumeComb_places slotted reqs stream restores open_
  have placed : ((s.placeComb core slot x (x.resumed (s.resumeFrames core x))).onComb core slot fun k => { k with phase := .running }).comb? core slot = some { x.resumed (s.resumeFrames core x) with phase := .running } :=
    State.comb?_onComb _ (State.comb?_placeComb _)
  obtain ⟨memory, saved, l, comb⟩ := State.resumeParked_comb placed
  refine ⟨s.resumeComb core x, ?_, ?_⟩
  · refine congrArg next ?_
    rw [idle, next_]
  · rw [places]
    refine ⟨memory.trans (State.onComb_memory ..), (saved core).trans ((State.saved_onComb ..).trans ?_), _, comb, rfl, rfl, rfl, rfl, fun j live free => ?_⟩
    · rw [State.placeComb, State.core_onCore]
      rfl
    · obtain ⟨f, framed⟩ := placedStrands_framed x.comb.strands (s.resumeFrames core x) j
      have strand : ((s.placeComb core slot x (x.resumed (s.resumeFrames core x))).onComb core slot fun k => { k with phase := .running }).strand { core := core, slot := slot, strand := j } =
          { (Tab.get {} x.comb.strands j : Strand) with frame := f } := by
        rw [State.strand, State.comb, placed]
        exact framed
      rw [State.resumeParked_free placed (by rw [strand]; exact live) (by rw [strand]; exact free), strand]
      exact ⟨rfl, rfl, rfl, rfl⟩

end

end

/-- Settles O46: the entry that the rotation takes, the state of the stream and the pending requests select the branch of each step; what a branch changes of its core the lemmas above state. -/
theorem slicesSaveAndResume : Obligations.SlicesSaveAndResume := by
  intro s core k stopped
  refine ⟨fun e idle quiet next_ => ⟨_, sliceBegin_opens idle quiet next_, ?begins⟩, fun done => sliceBegin_closes done, fun slot c held pending runs alone => State.cutComb_cuts held pending runs alone,
    fun x slice passed => ⟨fun last => ⟨_, ?ends, s.close_preempts core x.tenant⟩, fun e next_ other => ⟨_, ?turns, s.close_preempts core x.tenant⟩, fun e next_ same => ⟨(s.closeSlice core).openSlice core e, ?goesOn, ?again⟩⟩,
    fun x slice normal => ⟨_, ?command, s.close_preempts core x.tenant⟩, fun slot c held may => ?drain, fun slot c held ready => combImageComplete_saves held ready,
    fun x slot idle next_ slotted reqs stream _ restores open_ => combResume_returns idle next_ slotted reqs stream restores open_⟩
  case begins =>
    exact ⟨_, congrArg Core.slice (s.core_openSlice core e), rfl, rfl, rfl, rfl⟩
  case ends => rw [exec_sliceExpiry slice passed, last]
  case turns => rw [exec_sliceExpiry slice passed, next_]; exact congrArg next (if_neg other)
  case goesOn => rw [exec_sliceExpiry slice passed, next_]; exact congrArg next (if_pos same)
  case again =>
    have slices : ((s.closeSlice core).core core).slices = k.slices := by rw [State.closeSlice, State.core_onCore]
    have combs : ((s.closeSlice core).core core).combs = k.combs := by rw [State.closeSlice, State.core_onCore]
    have opened := (s.closeSlice core).core_openSlice core e
    exact ⟨rfl, (congrArg Core.combs opened).trans combs, _, congrArg Core.slice opened, rfl, (congrArg (fun l => (Tab.get {} l e : SliceEntry).tenant) slices).trans same, rfl⟩
  case command =>
    refine congrArg next ?_
    rw [State.fromHost, normal, State.endSlice, show (s.core core).slice = some x from slice]
    rfl
  case drain =>
    obtain ⟨memory, lm, streams, comb, stream⟩ := State.drainComb_drains held may
    exact ⟨memory, lm, streams, comb, stream, fun rest => State.saving_drained held may rest⟩

end Sys2Proof.Machine
end

section
/-! Matrix instructions at issue, in a stream and in a strand: the settlement of O48. -/

namespace Sys2Proof.Machine
open Sys2Proof Sys2Proof.Safety

/-! In a stream (R284, R300). -/

section
variable {o : Op} {e : Enc} {s : State} {x : Stream}

/-- The command that an instruction of a stream enters into the queue. -/
def State.streamCmd (s : State) (o : Op) (e : Enc) (x : Stream) : Cmd :=
  { op := o, enc := e, pc := x.pc.toNat, vals := cmdVals o e (s.seqS s.cur.core x) (s.seqOpnd s.cur.core x o e .b) x.mode }

/-- A command with room in the queue of eight enters it. -/
theorem queueCmd_enters (active : StreamActive o e s x) (room : x.queue.length + (if x.running.isSome then 1 else 0) < 8) :
    (queueCmd o e s).memory = s.memory ∧ ((queueCmd o e s).core s.cur.core).combs = (s.core s.cur.core).combs ∧
      ∃ y, (queueCmd o e s).stream? s.cur.core = some y ∧ y.pc = x.pc + BitVec.ofNat 57 e.bytes ∧ y.s = x.s ∧ y.queue = x.queue ++ [s.streamCmd o e x] := by
  have enters : queueCmd o e s = (s.onStream s.cur.core fun x' => { x' with
      queue := x'.queue ++ [s.streamCmd o e x], mode := if (o == .mdrain || o == .mepi) && modeRm x.mode == .rs then stepMode x'.mode else x'.mode }).seqAdvance s.cur.core e := by
    rw [queueCmd, runStream_active active, if_neg (Nat.not_le.mpr room)]
    rfl
  have added := onlyStream_onStream (f := fun x' => { x' with
    queue := x'.queue ++ [s.streamCmd o e x], mode := if (o == .mdrain || o == .mepi) && modeRm x.mode == .rs then stepMode x'.mode else x'.mode }) active.runs
  have only := added.trans (onlyStream_onStream (f := fun y => { y with pc := y.pc + BitVec.ofNat 57 e.bytes }) added.stream)
  rw [enters]
  exact ⟨only.memory, only.combs, _, only.stream, rfl, rfl, rfl⟩

/-- With eight commands in the queue a command waits. -/
theorem queueCmd_full (active : StreamActive o e s x) (full : 8 ≤ x.queue.length + (if x.running.isSome then 1 else 0)) : queueCmd o e s = s := by
  rw [queueCmd, runStream_active active, if_pos full]

end

/-- Commands are queued as the course of a stream instruction says. -/
def Queues (n : Instr) (o : Op) (e : Enc) (s : State) : Prop :=
  ∀ x, StreamActive o e s x → let inside := x.queue.length + (if x.running.isSome then 1 else 0)
    (inside < 8 → Becomes n s fun t => t.memory = s.memory ∧ (t.core s.cur.core).combs = (s.core s.cur.core).combs ∧ ∃ y, t.stream? s.cur.core = some y ∧ y.pc = x.pc + BitVec.ofNat 57 e.bytes ∧
      y.s = x.s ∧ y.queue = x.queue ++ [s.streamCmd o e x]) ∧
    (8 ≤ inside → exec n s = .next s)

theorem queues_of_stream {n : Instr} {o : Op} {e : Enc} {s : State} (hn : exec n s = next (streamCommand o e s)) : Queues n o e s := fun x active => by
  rw [streamCommand, if_pos active.stream] at hn
  exact ⟨fun room => ⟨_, hn, queueCmd_enters active room⟩, fun full => hn.trans (congrArg next (queueCmd_full active full))⟩

theorem queues_of_direct {n : Instr} {o : Op} {e : Enc} {s : State} (hn : exec n s = next (directCommand o e s)) : Queues n o e s := fun x active => by
  rw [directCommand, if_pos active.stream] at hn
  exact ⟨fun room => ⟨_, hn, queueCmd_enters active room⟩, fun full => hn.trans (congrArg next (queueCmd_full active full))⟩

/-! In a strand (R278, R301). -/

section
variable {n : Instr} {o : Op} {e : Enc} {s : State}

/-- A matrix instruction that only streams may issue raises ILLEGAL_OPERAND in a strand. -/
theorem streamCommand_refused (hn : exec n s = next (streamCommand o e s)) (active : Active o e s) : Traps n o e s (Trap.of .illegalOperand 0) := by
  refine traps_of_raise active.toIssues (hn.trans (congrArg next ?_))
  rw [streamCommand, if_neg active.strand, runStrand_clear active.toClear, effect_trap active.active rfl]

theorem mem_insertBy {α : Type} (le : α → α → Bool) (x y : α) : ∀ l : List α, y ∈ insertBy le x l ↔ y = x ∨ y ∈ l
  | [] => by simp [insertBy]
  | z :: l => by
    rw [insertBy]
    split
    · exact List.mem_cons
    · rw [List.mem_cons, mem_insertBy le x y l, List.mem_cons, or_left_comm]

theorem mem_sortBy {α : Type} (le : α → α → Bool) (y : α) : ∀ l : List α, y ∈ sortBy le l ↔ y ∈ l
  | [] => Iff.rfl
  | z :: l => by
    rw [show sortBy le (z :: l) = insertBy le z (sortBy le l) from rfl, mem_insertBy, mem_sortBy le y l, List.mem_cons]

theorem State.matrix_onStrand (s : State) (w : Sid) (f : Strand → Strand) (d : Nat) : ((s.onStrand w f).core d).matrix = (s.core d).matrix := State.onComb_matrix ..

/-- A strand that waits for the sequencer: what has changed of it, and its place among the waiters. -/
theorem State.waitSequencer_stands {i : Issue} {c : Cmd} (resident : (s.comb? i.w.core i.w.slot).isSome = true) : let t := s.waitSequencer i c
    t.memory = s.memory ∧ (t.strand i.w).sched.wait = some .sequencer ∧ (t.strand i.w).region = none ∧ (t.strand i.w).pcs = (s.strand i.w).pcs ∧ (t.strand i.w).regs = (s.strand i.w).regs ∧
      { slot := i.w.slot, strand := i.w.strand, frame := i.st.frame, cycle := s.clock.cycle, cmd := c } ∈ (t.core i.w.core).matrix.waiters := by
  let x : SeqWaiter := { slot := i.w.slot, strand := i.w.strand, frame := i.st.frame, cycle := s.clock.cycle, cmd := c }
  let r := (s.onStrand i.w Strand.closeRegion).onMatrix i.w.core fun m => { m with waiters := sortBy SeqWaiter.before (m.waiters ++ [x]) }
  have waits : s.waitSequencer i c = r.onStrand i.w fun st => { st with sched := { st.sched with wait := some .sequencer, waitLen := i.e.bytes } } := by
    simp only [State.waitSequencer, State.onStrand_clock]
    rfl
  have closed : r.strand i.w = (s.strand i.w).closeRegion := (State.strand_onCore _ (by rfl) _).trans (State.strand_onStrand _ resident)
  have stands : (r.onStrand i.w fun st => { st with sched := { st.sched with wait := some .sequencer, waitLen := i.e.bytes } }).strand i.w =
      { (s.strand i.w).closeRegion with sched := { (s.strand i.w).closeRegion.sched with wait := some .sequencer, waitLen := i.e.bytes } } := by
    have comb : r.comb? i.w.core i.w.slot = (s.onStrand i.w Strand.closeRegion).comb? i.w.core i.w.slot := State.comb?_onCore _ (by rfl) _ _
    rw [State.strand_onStrand _ (by rw [comb]; exact State.resident_onStrand _ resident), closed]
  rw [waits]
  refine ⟨(State.onStrand_memory ..).trans (State.onStrand_memory ..), ?_, ?_, ?_, ?_, ?_⟩
  · rw [stands]
  · rw [stands]; rfl
  · rw [stands]; rfl
  · rw [stands]; rfl
  · have waiters : (r.core i.w.core).matrix.waiters = sortBy SeqWaiter.before (((s.onStrand i.w Strand.closeRegion).core i.w.core).matrix.waiters ++ [x]) :=
      congrArg (fun k : Core => k.matrix.waiters) (State.core_onCore ..)
    rw [State.matrix_onStrand, waiters]
    exact (mem_sortBy _ _ _).mpr (List.mem_append_right _ List.mem_cons_self)

/-- A direct command waits for the sequencer, or raises ILLEGAL_OPERAND where it is guarded (R301). -/
theorem directCommand_strand (hn : exec n s = next (directCommand o e s)) (active : Active o e s) :
    (e.qbit 3 = false → exec n s = next (s.waitSequencer (s.issue o e) { op := o, enc := e, pc := (s.issue o e).pc.toNat, vals := cmdVals o e (s.readS s.cur) ((s.issue o e).opB s) (s.strand s.cur).sp.mode })) ∧
    (e.qbit 3 = true → Traps n o e s (Trap.of .illegalOperand 0)) := by
  rw [directCommand, if_neg active.strand, runStrand_clear active.toClear, if_neg active.active] at hn
  refine ⟨fun free => ?_, fun guarded => traps_of_raise active.toIssues ?_⟩
  · rw [hn, free]
    rfl
  · rw [hn, guarded]
    rfl

/-- MRUN waits for the sequencer with its target, or raises MISALIGNED (R278). -/
theorem mrunTo_strand {target : Issue → State → Pc} (hn : exec n s = next (mrunTo o e s target)) (active : Active o e s) :
    ((target (s.issue o e) s).toNat % 64 = 0 → exec n s = next (s.waitSequencer (s.issue o e) { op := o, enc := e, pc := (s.issue o e).pc.toNat, vals := [(target (s.issue o e) s).toNat] })) ∧
    ((target (s.issue o e) s).toNat % 64 ≠ 0 → Traps n o e s (Trap.of .misaligned (target (s.issue o e) s).toNat)) := by
  rw [mrunTo, if_neg active.strand, runStrand_clear active.toClear] at hn
  refine ⟨fun aligned => hn.trans (congrArg next ?_), fun askew => traps_of_raise active.toIssues (hn.trans (congrArg next ?_))⟩
  · exact (if_neg active.active).trans (if_neg (not_not.mpr aligned))
  · exact (if_neg active.active).trans (if_pos askew)

end

/-! MSYNC in a strand (R316). -/

section
variable {e : Enc} {s : State}

theorem State.streams_onStrand (s : State) (w : Sid) (f : Strand → Strand) (c n : Nat) : (s.onStrand w f).streams c n = s.streams c n := by
  have stream : (s.onStrand w f).stream? c = s.stream? c := congrArg Matrix.stream (State.matrix_onStrand ..)
  rw [State.streams, stream]
  rfl

theorem State.ending_onStrand_keeps (s : State) (w : Sid) (f : Strand → Strand) (c n : Nat) : ((s.onStrand w f).comb c n).ending = (s.comb c n).ending := by
  rw [State.onStrand, State.comb_onComb_field Comb.ending]
  exact fun _ => rfl

theorem State.streamStatus_onStrand (s : State) (w : Sid) (f : Strand → Strand) (c n sub : Nat) : (s.onStrand w f).streamStatus c n sub = s.streamStatus c n sub := by
  simp only [State.streamStatus, State.streams_onStrand, State.ending_onStrand_keeps]

theorem exec_msync (active : Active .msync e s) : exec (.msync e) s = .next (if e.sub = 0 ∧ s.streams s.cur.core s.cur.slot = true then s.onStrand s.cur Strand.closeRegion
    else ((s.onStrand s.cur Strand.closeRegion).writeS s.cur e.d.toNat (s.streamStatus s.cur.core s.cur.slot e.sub.toNat)).advance (s.issue .msync e)) := by
  refine congrArg next ((if_neg active.strand).trans ((runStrand_clear active.toClear).trans ((if_neg active.active).trans ?_)))
  simp only [State.streams_onStrand, State.streamStatus_onStrand]
  rfl

/-- The status word of SUB 0 and 1. -/
theorem State.streamStatus_word (s : State) (c n : Nat) {sub : Nat} (low : sub = 0 ∨ sub = 1) : let status := match (s.comb c n).ending with | some x => x.cause | none => 0
    s.streamStatus c n sub = BitVec.ofNat 32 ((if s.streams c n then 2 ^ 31 else 0) + (if status ≠ 0 then 2 ^ 30 else 0) + (if (s.comb c n).ending = none then 2 ^ 29 else 0) + status) := by
  intro status
  have times (b : Bool) (m : Nat) : b2n b * m = if b then m else 0 := by cases b <;> simp [b2n]
  have word : s.streamStatus c n sub = BitVec.ofNat 32 (b2n (s.streams c n) * 2 ^ 31 + b2n (status != 0) * 2 ^ 30 + b2n (s.comb c n).ending.isNone * 2 ^ 29 + status) := by
    rcases low with rfl | rfl <;> rfl
  rw [word, times, times, times]
  simp only [bne_iff_ne, Option.isNone_iff_eq_none]

/-- The halves of a faulted end state, of SUB 2 and 3. -/
theorem State.streamStatus_half (s : State) (c n : Nat) {sub : BitVec 8} (high : sub = 2 ∨ sub = 3) : s.streamStatus c n sub.toNat = match (s.comb c n).ending with
    | some x => if x.cause = 0 then 0 else if sub = 2 then BitVec.ofNat 32 x.pc else x.tval.setWidth 32
    | none => 0 := by
  rcases high with rfl | rfl
  · show BitVec.ofNat 32 (match (s.comb c n).ending with | some x => if x.cause = 0 then 0 else x.pc | none => 0) = _
    cases (s.comb c n).ending with
    | none => rfl
    | some x =>
      dsimp only
      split <;> rfl
  · show BitVec.ofNat 32 (match (s.comb c n).ending with | some x => if x.cause = 0 then 0 else x.tval.toNat | none => 0) = _
    cases (s.comb c n).ending with
    | none => rfl
    | some x =>
      dsimp only
      split
      · rfl
      · exact BitVec.eq_of_toNat_eq (by simp)

end

/-- Settles O48: each instruction is a command of a stream, a direct command or an MRUN, whose courses the lemmas above state; MSYNC by its SUB. -/
theorem matrixInstructionsIssue : Obligations.MatrixInstructionsIssue := by
  intro e s w c st queued refused stands direct runs k status
  have direct_of {n : Instr} {o : Op} (hn : exec n s = next (directCommand o e s)) : direct n o := fun active =>
    ⟨fun free => ⟨_, (directCommand_strand hn active).1 free, State.waitSequencer_stands (i := s.issue o e) (State.resident_of_may active.may)⟩, (directCommand_strand hn active).2⟩
  have runs_of {n : Instr} {o : Op} {target : Issue → State → Pc} (hn : exec n s = next (mrunTo o e s target)) : runs n o (target (s.issue o e) s) := fun active =>
    ⟨fun aligned => ⟨_, (mrunTo_strand hn active).1 aligned, State.waitSequencer_stands (i := s.issue o e) (State.resident_of_may active.may)⟩, (mrunTo_strand hn active).2⟩
  refine ⟨queues_of_stream rfl, queues_of_stream rfl, queues_of_stream rfl, queues_of_stream rfl, queues_of_stream rfl, queues_of_direct rfl,
    queues_of_direct rfl, queues_of_direct rfl, queues_of_stream rfl, queues_of_stream rfl, queues_of_stream rfl,
    streamCommand_refused rfl, streamCommand_refused rfl, streamCommand_refused rfl, streamCommand_refused rfl, streamCommand_refused rfl, streamCommand_refused rfl,
    streamCommand_refused rfl, streamCommand_refused rfl, direct_of rfl, direct_of rfl, direct_of rfl, runs_of (target := fun i _ => target21 e i.pc) rfl,
    runs_of (target := fun i s => regTarget i.pc (i.uA s)) rfl, fun active => ⟨fun sub running => ?_, fun sub free => ?_, fun sub => ?_⟩⟩
  · exact (exec_msync active).trans (congrArg next (if_pos ⟨sub, running⟩))
  · rw [exec_msync active, if_neg free, State.streamStatus_word s _ _ (sub.imp (congrArg BitVec.toNat) (congrArg BitVec.toNat))] <;> rfl
  · have free : ¬ (e.sub = 0 ∧ s.streams s.cur.core s.cur.slot = true) := fun ⟨zero, _⟩ => by simp [zero] at sub
    rw [exec_msync active, if_neg free, State.streamStatus_half s _ _ sub] <;> rfl

end Sys2Proof.Machine
end

section
/-! FGET, FPUT, FMSG and FSYNC: the settlement of O52. -/

namespace Sys2Proof.Machine
open Sys2Proof Sys2Proof.Safety

theorem firstOf_cons (b : Bool) (t : Trap) (l : List (Bool × Trap)) : firstOf ((b, t) :: l) = if b then some t else firstOf l := by
  cases b <;> rfl

/-! FGET and FPUT (R388). -/

section
variable {s : State} {i : Issue}

/-- The checks of FGET and FPUT, one after the other. -/
theorem Issue.fabTrap_eq (i : Issue) (s : State) : let n := (i.opB s).toNat; let bar := (i.uD s).toNat; let lm := (i.uA s).toNat; let fab := (s.readPair i.w i.e.c.toNat).toNat
    i.fabTrap s = if n < 1 || n > 2 ^ 23 - 1 then some (Trap.of .illegalOperand n) else if bar % 8 != 0 then some (Trap.of .misaligned bar)
      else if !s.inWindow i.w.core i.w.slot bar 8 then some (Trap.of .pageProtect bar)
      else if !s.inWindow i.w.core i.w.slot lm n then some (Trap.of .pageProtect (max lm (s.comb i.w.core i.w.slot).shape.window))
      else if fabDev fab > 992 || fab / 2 ^ 48 != (fab + n - 1) / 2 ^ 48 then some (Trap.of .pageProtect fab)
      else if !s.reachable (fabDev fab) then some (Trap.of .fabricUnreachable fab) else none := by
  intro n bar lm fab
  simp only [Issue.fabTrap, firstOf_cons]
  rfl

end

section
variable {n : Instr} {o : Op} {e : Enc} {s : State} (hn : exec n s = next (strandOnly o e s fun i s => s.fabCopy i)) (clear : Clear o e s)
include hn clear

theorem fabCopy_traps {t : Trap} (trap : (s.issue o e).fabTrap s = some t) : Traps n o e s t := by
  refine traps_of_raise clear.toIssues (hn.trans (congrArg next ?_))
  rw [strandOnly_clear clear, State.fabCopy, trap]

theorem fabCopy_submits (free : (s.issue o e).fabTrap s = none) : exec n s = next (s.submit (s.issue o e) [(s.issue o e).fabReq s]) := by
  rw [hn, strandOnly_clear clear, State.fabCopy, free]

/-- The checks of FGET and FPUT in their order, and the request that they submit. -/
theorem fabCopy_course : let w := s.cur; let i := s.issue o e; let len := (i.opB s).toNat; let bar := (i.uD s).toNat; let lm := (i.uA s).toNat; let fab := (s.readPair w e.c.toNat).toNat
    let r := s.onStrand w Strand.closeRegion
    (¬ (1 ≤ len ∧ len < 2 ^ 23) → Traps n o e s (Trap.of .illegalOperand len)) ∧
    (1 ≤ len → len < 2 ^ 23 → bar % 8 ≠ 0 → Traps n o e s (Trap.of .misaligned bar)) ∧
    (1 ≤ len → len < 2 ^ 23 → bar % 8 = 0 → s.inWindow w.core w.slot bar 8 = false → Traps n o e s (Trap.of .pageProtect bar)) ∧
    (1 ≤ len → len < 2 ^ 23 → bar % 8 = 0 → s.inWindow w.core w.slot bar 8 = true → s.inWindow w.core w.slot lm len = false →
      Traps n o e s (Trap.of .pageProtect (max lm (s.comb w.core w.slot).shape.window))) ∧
    (1 ≤ len → len < 2 ^ 23 → bar % 8 = 0 → s.inWindow w.core w.slot bar 8 = true → s.inWindow w.core w.slot lm len = true →
      (992 < fabDev fab ∨ fab / 2 ^ 48 ≠ (fab + len - 1) / 2 ^ 48 → Traps n o e s (Trap.of .pageProtect fab)) ∧
      (fabDev fab ≤ 992 → fab / 2 ^ 48 = (fab + len - 1) / 2 ^ 48 →
        (s.reachable (fabDev fab) = false → Traps n o e s (Trap.of .fabricUnreachable fab)) ∧
        (s.reachable (fabDev fab) = true →
          ((s.core w.core).kicks = [] → r.mayRegister w.core 1 = true → exec n s = .next ((r.register w.core w.slot [i.fabReq s]).advance i)) ∧
          (¬ ((s.core w.core).kicks = [] ∧ r.mayRegister w.core 1 = true) → Becomes n s fun t => t.memory = s.memory ∧ (t.core w.core).lm = (s.core w.core).lm ∧
            (t.core w.core).kicks = (s.core w.core).kicks ++ [{ slot := w.slot, strand := w.strand, reqs := [i.fabReq s] }] ∧ (t.strand w).pcs = (s.strand w).pcs)))) := by
  intro w i len bar lm fab r
  have eq : i.fabTrap s = if len < 1 || len > 2 ^ 23 - 1 then some (Trap.of .illegalOperand len) else if bar % 8 != 0 then some (Trap.of .misaligned bar)
      else if !s.inWindow w.core w.slot bar 8 then some (Trap.of .pageProtect bar)
      else if !s.inWindow w.core w.slot lm len then some (Trap.of .pageProtect (max lm (s.comb w.core w.slot).shape.window))
      else if fabDev fab > 992 || fab / 2 ^ 48 != (fab + len - 1) / 2 ^ 48 then some (Trap.of .pageProtect fab)
      else if !s.reachable (fabDev fab) then some (Trap.of .fabricUnreachable fab) else none := i.fabTrap_eq s
  have length (low : 1 ≤ len) (high : len < 2 ^ 23) : ¬ (len < 1 || len > 2 ^ 23 - 1) = true := by
    simp only [Bool.or_eq_true, decide_eq_true_eq]
    omega
  refine ⟨fun bad => ?_, fun low high askew => ?_, fun low high aligned outside => ?_, fun low high aligned inside outside => ?_, fun low high aligned inside held => ⟨fun bad => ?_, fun device window => ⟨fun cut => ?_, fun linked => ?_⟩⟩⟩
  · refine fabCopy_traps hn clear (eq.trans (if_pos ?_))
    simp only [Bool.or_eq_true, decide_eq_true_eq]
    omega
  · refine fabCopy_traps hn clear ?_
    rw [eq, if_neg (length low high), if_pos (bne_iff_ne.mpr askew)]
  · refine fabCopy_traps hn clear ?_
    rw [eq, if_neg (length low high), if_neg (by simp [aligned]), if_pos (by simp [outside])]
  · refine fabCopy_traps hn clear ?_
    rw [eq, if_neg (length low high), if_neg (by simp [aligned]), if_neg (by simp [inside]), if_pos (by simp [outside])]
  · refine fabCopy_traps hn clear ?_
    rw [eq, if_neg (length low high), if_neg (by simp [aligned]), if_neg (by simp [inside]), if_neg (by simp [held]), if_pos (by simpa using bad)]
  · refine fabCopy_traps hn clear ?_
    rw [eq, if_neg (length low high), if_neg (by simp [aligned]), if_neg (by simp [inside]), if_neg (by simp [held]), if_neg (by simpa using ⟨device, window⟩), if_pos (by simp [cut])]
  · have free : i.fabTrap s = none := by
      rw [eq, if_neg (length low high), if_neg (by simp [aligned]), if_neg (by simp [inside]), if_neg (by simp [held]), if_neg (by simpa using ⟨device, window⟩), if_neg (by simp [linked])]
    have submits := fabCopy_submits hn clear free
    refine ⟨fun first room => submits.trans (congrArg next (State.submit_registers (i := i) first room)), fun full => ⟨_, submits, ?_⟩⟩
    obtain ⟨memory, lm, kicks, -, pcs, -⟩ := State.submit_waits (i := i) (l := [i.fabReq s]) (State.resident_of_may clear.may) full
    exact ⟨memory, lm, kicks, pcs⟩

end

/-! A request to a target to which nothing is outstanding (R380). -/

section
variable {s : State} {v : Nat}

theorem State.target_onTarget (s : State) (v : Nat) (f : FabTarget → FabTarget) : (s.onTarget v f).target v = f (s.target v) := Tab.get_put_same ..

theorem State.target_transmit (s : State) (v : Nat) (p : FabRequest) (u : Nat) : (s.transmit v p).target u = s.target u := by
  unfold State.transmit
  split <;> rfl

/-- A request without tokens to spend that is alone at its target is sent at once, with the next number. -/
theorem State.pumpOne_alone {o : FabOut} (alone : (s.target v).out = [o]) (fresh : o.first = none) (free : o.cost = 0) : let t := (s.pumpOne v).target v
    t.out = [{ o with packet := { o.packet with seq := (s.target v).nextSeq, kind := s.sendKind o }, first := some s.clock.gt, last := s.clock.gt }] ∧
      t.nextSeq = ((s.target v).nextSeq + 1) % 2 ^ 32 := by
  have payer : o.payer = none := if_pos free
  have sent : ([o].filter fun o => o.first.isSome).length = 0 := by simp [fresh]
  have joined : s.joinPorts [] [o] = s := by
    rw [State.joinPorts, payer]
    rfl
  have goes : s.pumpOne v = (s.onTarget v fun t => { t with
      out := [{ o with packet := { o.packet with seq := (s.target v).nextSeq, kind := s.sendKind o }, first := some s.clock.gt, last := s.clock.gt }]
      nextSeq := (t.nextSeq + 1) % 2 ^ 32, heard := s.clock.gt }).transmit v { o.packet with seq := (s.target v).nextSeq, kind := s.sendKind o } := by
    unfold State.pumpOne
    simp only [alone, sent, joined]
    simp [nextOut, fresh, payer, free, updateAt]
  intro t
  rw [show t = _ from congrArg (fun u : State => u.target v) goes, State.target_transmit, State.target_onTarget]
  exact ⟨rfl, rfl⟩

end

/-! FMSG (R389). -/

section
variable {e : Enc} {s : State}

/-- The checks of FMSG, one after the other. -/
def Issue.msgTrap (i : Issue) (s : State) : Option Trap :=
  let n := (i.opB s).toNat
  let dev := (i.uC s).toNat
  let off := (i.uA s).toNat
  ((firstOf [(n > 255, Trap.of .illegalOperand n), (dev > 992, Trap.of .pageProtect dev)]).or (s.blockTrap i.w off 64)).or
    (firstOf [(bits (s.winRead i.w.core i.w.slot off 8) 31 8 != 0, Trap.of .illegalOperand off), (!s.reachable dev, Trap.of .fabricUnreachable dev)])

theorem Issue.msgTrap_eq (i : Issue) (s : State) : let n := (i.opB s).toNat; let dev := (i.uC s).toNat; let off := (i.uA s).toNat
    i.msgTrap s = if n > 255 then some (Trap.of .illegalOperand n) else if dev > 992 then some (Trap.of .pageProtect dev)
      else match s.blockTrap i.w off 64 with
        | some t => some t
        | none => if bits (s.winRead i.w.core i.w.slot off 8) 31 8 != 0 then some (Trap.of .illegalOperand off) else if !s.reachable dev then some (Trap.of .fabricUnreachable dev) else none := by
  intro n dev off
  simp only [Issue.msgTrap, firstOf_cons, decide_eq_true_eq]
  split
  · rfl
  · split
    · rfl
    · cases s.blockTrap i.w off 64 <;> rfl

/-- The request that FMSG submits, with its destination `d` pending. -/
def State.sendMessage (s : State) (i : Issue) (d : Nat) : State :=
  (s.onStrand i.w fun st => { st with flight := { st.flight with msgs := st.flight.msgs ++ [d] } }).fabRequest (.message i.w d) 0 (s.tenantOf i.w.core i.w.slot) (i.uC s).toNat 0 0
    (.message (i.opB s).toNat (BitVec.ofNat 512 (s.lmObject i.w (i.uA s).toNat)))

theorem fmsg_traps (active : Active .fmsg e s) {t : Trap} (trap : (s.issue .fmsg e).msgTrap s = some t) : Traps (.fmsg e) .fmsg e s t :=
  traps_of_raise active.toIssues (congrArg next ((strandOnly_clear active.toClear).trans (effect_trap active.active trap)))

theorem exec_fmsg (active : Active .fmsg e s) (free : (s.issue .fmsg e).msgTrap s = none) :
    exec (.fmsg e) s = .next (((s.onStrand s.cur Strand.closeRegion).sendMessage (s.issue .fmsg e) e.d.toNat).advance (s.issue .fmsg e)) :=
  completes_closing (check := Issue.msgTrap) (f := fun i s => s.sendMessage i e.d.toNat) active rfl rfl free

theorem State.tenantOf_onStrand (s : State) (w : Sid) (f : Strand → Strand) (c n : Nat) : (s.onStrand w f).tenantOf c n = s.tenantOf c n := by
  unfold State.tenantOf State.onStrand
  refine State.comb_onComb_field Comb.tenant s _ _ ?_ c n
  exact fun _ => rfl

theorem Issue.uC_closeRegion {i : Issue} (resident : (s.comb? i.w.core i.w.slot).isSome = true) : i.uC (s.onStrand i.w Strand.closeRegion) = i.uC s :=
  State.readS_closeRegion resident _

/-- A message to a target to which nothing is outstanding goes at once. -/
theorem fmsg_sends (active : Active .fmsg e s) (free : (s.issue .fmsg e).msgTrap s = none) : let w := s.cur; let i := s.issue .fmsg e; let n := (i.opB s).toNat; let dev := (i.uC s).toNat; let off := (i.uA s).toNat
    (s.target dev).out = [] → Becomes (.fmsg e) s fun t => t.memory = s.memory ∧ (t.strand w).flight.msgs = (s.strand w).flight.msgs ++ [e.d.toNat] ∧
      (t.target dev).nextSeq = ((s.target dev).nextSeq + 1) % 2 ^ 32 ∧
      ∃ o, (t.target dev).out = [o] ∧ o.use = .message w e.d.toNat ∧ o.first = some s.clock.gt ∧ o.packet.src = self ∧ o.packet.tenant = s.tenantOf w.core w.slot ∧
        o.packet.seq = (s.target dev).nextSeq ∧ o.packet.kind = .message n (BitVec.ofNat 512 (s.lmObject w off)) := by
  intro w i n dev off idle
  have resident := State.resident_of_may active.may
  have closed := State.resident_onStrand Strand.closeRegion resident
  let msg := fun st : Strand => { st with flight := { st.flight with msgs := st.flight.msgs ++ [e.d.toNat] } }
  let o : FabOut := { use := .message w e.d.toNat, cost := 0, first := none, last := 0,
                      packet := { src := self, tenant := s.tenantOf w.core w.slot, seq := 0, win := 0, off := 0, kind := .message n (BitVec.ofNat 512 (s.lmObject w off)) } }
  let q := ((s.onStrand w Strand.closeRegion).onStrand w msg).onTarget dev fun t => { t with out := t.out ++ [o] }
  have queue : (q.target dev).out = [o] ∧ (q.target dev).nextSeq = (s.target dev).nextSeq ∧ q.clock = s.clock := by
    have same : ((s.onStrand w Strand.closeRegion).onStrand w msg).target dev = s.target dev := by
      rw [State.target, State.onStrand_fabric, State.onStrand_fabric]
      rfl
    rw [State.target_onTarget, same]
    refine ⟨by rw [idle]; rfl, rfl, (State.onStrand_clock ..).trans (State.onStrand_clock ..)⟩
  obtain ⟨alone, seq, clock⟩ := queue
  have object : (s.onStrand w Strand.closeRegion).lmObject w off = s.lmObject w off := State.winRead_onStrand ..
  have sends : (s.onStrand w Strand.closeRegion).sendMessage i e.d.toNat = q.pumpOne dev := by
    have operands : i.opB (s.onStrand w Strand.closeRegion) = i.opB s ∧ i.uA (s.onStrand w Strand.closeRegion) = i.uA s ∧ i.uC (s.onStrand w Strand.closeRegion) = i.uC s :=
      ⟨Issue.opB_closeRegion (i := i) resident, Issue.uA_closeRegion (i := i) resident, Issue.uC_closeRegion (i := i) resident⟩
    obtain ⟨opB, uA, uC⟩ := operands
    have entry : (s.onStrand w Strand.closeRegion).lmObject i.w (i.uA (s.onStrand w Strand.closeRegion)).toNat = s.lmObject w off := by
      rw [uA]
      exact object
    have tenant : (s.onStrand w Strand.closeRegion).tenantOf i.w.core i.w.slot = s.tenantOf w.core w.slot := State.tenantOf_onStrand ..
    unfold State.sendMessage State.fabRequest
    rw [entry, opB, uC, tenant]
    show q.pumpN dev (q.target dev).out.length = _
    rw [alone]
    rfl
  have memory : q.memory = s.memory := (State.onStrand_memory (s.onStrand w Strand.closeRegion) w msg).trans (State.onStrand_memory s w Strand.closeRegion)
  have kept : KeepsCombs q (q.pumpOne dev) := (KeepsCombs.refl q).pumpOne dev
  have strand : (q.pumpOne dev).strand w = msg (s.strand w).closeRegion := by
    rw [kept.strand, show q.strand w = ((s.onStrand w Strand.closeRegion).onStrand w msg).strand w from rfl, State.strand_onStrand _ closed, State.strand_onStrand _ resident]
  have here : ((q.pumpOne dev).comb? w.core w.slot).isSome = true := by
    rw [kept.comb?]
    exact State.resident_onStrand msg closed
  have flight : (((q.pumpOne dev).advance i).strand w).flight = (msg (s.strand w).closeRegion).flight := (State.flight_advance (i := i) here).2.trans (congrArg Strand.flight strand)
  obtain ⟨out, next_⟩ := State.pumpOne_alone alone rfl rfl
  refine ⟨_, (exec_fmsg active free).trans (congrArg (fun t : State => next (t.advance i)) sends), ?_, ?_, ?_, ?_⟩
  · exact (State.advance_memory _ _).trans (kept.memory.trans memory)
  · exact congrArg Flight.msgs flight
  · rw [State.target, State.advance, State.moveTo, State.onStrand_fabric]
    exact next_.trans (by rw [seq])
  · rw [State.target, State.advance, State.moveTo, State.onStrand_fabric]
    refine ⟨_, out, rfl, by rw [clock], rfl, rfl, seq, rfl⟩

end

/-! FSYNC (R390). -/

section
variable {e : Enc} {s : State}

/-- FSYNC of a half of the first error's address, or with nothing outstanding. -/
theorem exec_fsync (active : Active .fsync e s) (free : (e.sub = 1 ∨ e.sub = 2) ∨ s.fabBusy s.cur = false) : let r := (s.strand s.cur).ferr
    let half := fun (n : Nat) => BitVec.ofNat 32 (if r.valid then r.addr / n else 0)
    let t := s.writeS s.cur e.d.toNat (if e.sub = 1 then half 1 else if e.sub = 2 then half (2 ^ 32) else r.status)
    exec (.fsync e) s = .next ((if e.sub = 3 then t.onStrand s.cur fun st => { st with ferr := {} } else t).advance (s.issue .fsync e)) := by
  intro r half t
  have goes : ¬ ((s.issue .fsync e).act ≠ 0 ∧ ¬ (e.sub = 1 ∨ e.sub = 2) ∧ s.fabBusy s.cur = true) := by
    rintro ⟨-, other, busy⟩
    rcases free with half | idle
    · exact other half
    · exact Bool.false_ne_true (idle.symm.trans busy)
  exact congrArg next ((strandOnly_clear active.toClear).trans ((if_neg goes).trans (effect_done active.active rfl rfl)))

theorem fsync_stands (active : Active .fsync e s) (low : e.sub ≠ 1) (high : e.sub ≠ 2) (busy : s.fabBusy s.cur = true) : exec (.fsync e) s = .next s :=
  congrArg next ((strandOnly_clear active.toClear).trans (if_pos ⟨active.active, fun half => half.elim low high, busy⟩))

theorem FabErr.status_eq (r : FabErr) : r.status = BitVec.ofNat 32 (if r.valid then 2 ^ 31 + r.count * 2 ^ 16 + r.cause else 0) := by
  rw [FabErr.status]
  split <;> rfl

end

/-- Settles O52: the checks of each instruction select its trap; a request to a target to which nothing is outstanding is sent at once. -/
theorem fabricInstructions : Obligations.FabricInstructions := by
  refine ⟨fun get e s clear => ?copy, fun e s active => ⟨fun number => ?number, fun low device => ?device, fun low device block reserved => ⟨fun cut => ?cut, fun linked => ?sends⟩⟩,
    fun e s active => ⟨fun low => ?lower, fun high => ?upper, fun low high busy => fsync_stands active low high busy, fun status idle => ?status, fun clear idle => ?clear⟩⟩
  case copy =>
    have course := fabCopy_course (n := if get then Instr.fget e else Instr.fput e) (by cases get <;> rfl) clear
    obtain ⟨length, bar, barOut, lmOut, rest⟩ := course
    refine ⟨length, bar, barOut, lmOut, fun low high aligned inside held => ⟨(rest low high aligned inside held).1, fun device window => ⟨((rest low high aligned inside held).2 device window).1, fun linked => ?_⟩⟩⟩
    obtain ⟨registers, waits⟩ := ((rest low high aligned inside held).2 device window).2 linked
    refine ⟨(s.issue (if get then Op.fget else Op.fput) e).fabReq s, ?_, rfl, rfl, ?_, ?_, registers, waits⟩
    · cases get <;> rfl
    · simp only [Request.total, Issue.fabReq, Nat.mul_one]
    · cases get
      · exact ⟨rfl, rfl, rfl, rfl⟩
      · exact ⟨rfl, rfl, rfl, rfl⟩
  case number => exact fmsg_traps active (by rw [Issue.msgTrap_eq]; exact if_pos number)
  case device => exact fmsg_traps active (by rw [Issue.msgTrap_eq, if_neg (by simpa using low)]; exact if_pos device)
  case cut =>
    refine fmsg_traps active ?_
    rw [Issue.msgTrap_eq, if_neg (by simpa using low), if_neg (by simpa using device)]
    simp only [show s.blockTrap (s.issue .fmsg e).w _ 64 = none from block]
    rw [if_neg (bne_eq_false_iff_eq.mpr reserved ▸ Bool.false_ne_true), if_pos (by simpa using cut)]
  case sends =>
    refine fmsg_sends active ?_
    rw [Issue.msgTrap_eq, if_neg (by simpa using low), if_neg (by simpa using device)]
    simp only [show s.blockTrap (s.issue .fmsg e).w _ 64 = none from block]
    rw [if_neg (bne_eq_false_iff_eq.mpr reserved ▸ Bool.false_ne_true), if_neg (by simpa using linked)]
  case lower =>
    refine (exec_fsync active (.inl (.inl low))).trans ?_
    rw [if_neg (by simp [low]), if_pos low]
  case upper =>
    refine (exec_fsync active (.inl (.inr high))).trans ?_
    rw [if_neg (by simp [high]), if_neg (by simp [high]), if_pos high]
  case status =>
    refine (exec_fsync active (.inr idle)).trans ?_
    rw [if_neg (by simp [status]), if_neg (by simp [status]), if_neg (by simp [status]), FabErr.status_eq]
  case clear =>
    rw [exec_fsync active (.inr idle), if_pos clear, if_neg (by simp [clear]), if_neg (by simp [clear]), FabErr.status_eq]

end Sys2Proof.Machine
end

section
/-! Limits, notices, trips, the ceiling and the membership of the accord: the settlements of O55 and O56. -/

namespace Sys2Proof.Machine
open Sys2Proof Sys2Proof.Safety

/-! Entries of a table (R392). -/

theorem Accord.entry_head {a : Accord} {m : Member} {l : List Member} (table : a.table = m :: l) : a.entry m.dev = some m := by
  simp [Accord.entry, table]

theorem Accord.entry_second {a : Accord} {me m : Member} {l : List Member} (table : a.table = me :: m :: l) (other : me.dev ≠ m.dev) :
    a.entry m.dev = some m := by
  simp [Accord.entry, table, other]

/-- The entry of a device after it was changed by a function that keeps its device. -/
theorem Accord.entry_onEntry (a : Accord) (dev : Nat) {f : Member → Member} (keeps : ∀ m, (f m).dev = m.dev) :
    (a.onEntry dev f).entry dev = (a.entry dev).map f := by
  unfold Accord.entry Accord.onEntry
  induction a.table with
  | nil => rfl
  | cons m l ih =>
    by_cases own : m.dev = dev
    · simp [own, keeps]
    · simpa [own] using ih

theorem applyNotice_dev (n : Notice) (t : Nat) (m : Member) : (applyNotice n t m).dev = m.dev := by
  unfold applyNotice
  split
  · rfl
  split
  · rfl
  split <;> rfl

/-- A late notice in force leaves its sender nothing pending (R398). -/
theorem applyNotice_late {n : Notice} (late : n.late = true) (stays : n.leave = false) (bare : n.arrival = none) (t : Nat) (m : Member) :
    applyNotice n t m = { m with seq := n.seq, limit := n.limit, pending := none } := by
  simp [applyNotice, late, stays, bare]

/-! The ceiling (R392, R393, R398, R404). -/

theorem lower_le (x : Nat) (y : Option Nat) : lower x y ≤ x := by
  cases y with
  | none => exact Nat.le_refl x
  | some y => exact Nat.min_le_left x y

theorem lower_le_some (x y : Nat) : lower x (some y) ≤ y := Nat.min_le_right x y

/-- The ceiling of a table is no higher than the limit of an entry in it. -/
theorem tableCeil_le {l : List Member} {m : Member} {t : Nat} (mem : m ∈ l) (stays : inTable m t = true) (d : Nat) :
    (tableCeil l t).getD d ≤ limitAt m t := by
  unfold tableCeil
  have listed : limitAt m t ∈ (l.filter fun m => inTable m t).map fun m => limitAt m t :=
    List.mem_map_of_mem (List.mem_filter.2 ⟨mem, stays⟩)
  exact List.min?_getD_le_of_mem listed

theorem Accord.groupCeil_le {a : Accord} {m : Member} {t : Nat} (mem : m ∈ a.table) (stays : inTable m t = true) : a.groupCeil t ≤ limitAt m t :=
  (lower_le _ _).trans (tableCeil_le mem stays _)

theorem Accord.ceilAt_le_groupCeil {a : Accord} {t : Nat} (follows : a.follows = true) (stays : a.leftAt t = false) : a.ceilAt t ≤ a.groupCeil t := by
  unfold Accord.ceilAt
  rw [follows, stays]
  exact lower_le _ _

theorem Accord.ceilAt_le_limit {a : Accord} {t : Nat} (own : a.follows = false ∨ a.leftAt t = true) : a.ceilAt t ≤ a.limit := by
  have alone : (a.follows && !a.leftAt t) = false := by
    obtain h | h := own
    · rw [h, Bool.false_and]
    · rw [h, Bool.not_true, Bool.and_false]
  unfold Accord.ceilAt
  rw [alone]
  exact (lower_le _ _).trans (lower_le _ _)

/-- A clamp that no notice has raised holds the ceiling down (R398). -/
theorem Accord.ceilAt_le_clamp {a : Accord} {t c : Nat} (clamp : a.clamp = some c) (held : a.raised t = false) : a.ceilAt t ≤ c := by
  unfold Accord.ceilAt
  rw [held, clamp]
  exact lower_le_some _ _

theorem Accord.raised_of_other {a : Accord} (other : a.state ≠ .member) (t : Nat) : a.raised t = false := by
  unfold Accord.raised
  split
  · simp [other]
  · rfl

/-- Nothing pending of this device raises its limit. -/
theorem Accord.raised_of_idle {a : Accord} (idle : ∀ m, a.entry self = some m → m.pending = none) (t : Nat) : a.raised t = false := by
  unfold Accord.raised
  split
  · next m c own _ => simp [idle m own]
  · rfl

/-! LIMIT (R395, R396, R397, R400). -/

theorem limitOk_iff {n : Nat} : limitOk n = true ↔ n % 25 = 0 ∧ 800 ≤ n ∧ n ≤ 2200 := by
  simp [limitOk, and_assoc]

/-- A joiner to which nothing is forwarded. -/
theorem State.broadcast_alone {s : State} (none : s.accord.forwards = []) (n : Notice) : s.broadcast n = s.post [.notice n] := by
  simp [State.broadcast, State.forwarded, none]

theorem limitNotice_illegal {s : State} {limit : Nat} (bad : ¬ (limit % 25 = 0 ∧ 800 ≤ limit ∧ limit ≤ 2200)) : exec (.limitNotice limit) s = .next s := by
  have refused : limitOk limit = false := Bool.eq_false_iff.2 (mt limitOk_iff.1 bad)
  change next (s.fromHost fun s => s.writeLimit limit) = _
  simp [State.fromHost, State.writeLimit, refused, next]

section
variable {s : State} {limit : Nat} (active : s.mgmt.recovery = false) (legal : limitOk limit = true)
include active legal

theorem limitNotice_alone (free : s.accord.state ≠ .member) (joined : s.accord.state ≠ .isolated) :
    exec (.limitNotice limit) s = .next { s with accord := { s.accord with limit := limit, clamp := s.accord.clamp.filter fun c => decide (limit ≤ c) } } := by
  change next (s.fromHost fun s => s.writeLimit limit) = _
  rw [State.fromHost_running _ active]
  simp only [State.writeLimit, legal, free, joined, State.onAccord, next, Bool.not_true, Bool.false_eq_true, if_false]
  cases s.accord.clamp with
  | none => rfl
  | some c => by_cases low : c < limit <;> simp [Option.filter, low, Nat.not_le.2, Nat.le_of_not_lt]

theorem limitNotice_isolated (isolated : s.accord.state = .isolated) : exec (.limitNotice limit) s =
    .next { s with accord := { s.accord with limit := limit, cap := some (match s.accord.cap with | some c => min limit c | none => limit) } } := by
  change next (s.fromHost fun s => s.writeLimit limit) = _
  rw [State.fromHost_running _ active]
  simp only [State.writeLimit, legal, isolated, State.onAccord, next, Bool.not_true, Bool.false_eq_true, if_false, reduceCtorEq, if_true]
  rfl

theorem limitNotice_member {m : Member} (member : s.accord.state = .member) (table : s.accord.table = [m]) (own : m.dev = self) (alone : s.accord.forwards = []) :
    Becomes (.limitNotice limit) s fun t => let eff := s.clock.gt + s.accord.lead * 1000
      t.accord.table = [{ m with pending := some (limit, eff), seq := s.accord.seq + 1 }] ∧ t.accord.limit = limit ∧ t.accord.seq = s.accord.seq + 1 ∧
      t.fabric.outbox = s.fabric.outbox ++ [.notice { dev := self, seq := s.accord.seq + 1, limit := limit, eff := eff, late := false, leave := false, arrival := none }] := by
  refine ⟨s.fromHost fun s => s.writeLimit limit, rfl, ?_⟩
  rw [State.fromHost_running _ active]
  simp only [State.writeLimit, legal, member, Bool.not_true, Bool.false_eq_true, if_false, if_true]
  rw [State.broadcast_alone (by simpa [State.onAccord, Accord.onEntry] using alone)]
  simp [State.onAccord, State.post, Accord.onEntry, Accord.nextNotice, table, own]

end

/-! Notices and limits that take effect (R394, R396, R397, R398). -/

/-- A notice of another member that is later than the last one is in force in its entry. -/
theorem noticeReceive_table {s : State} {n : Notice} {m : Member} (en : s.accord.en = true) (member : s.accord.state = .member) (foreign : n.dev ≠ self)
    (table : s.accord.table = [m]) (sender : m.dev = n.dev) (later : m.seq < n.seq) (bare : n.arrival = none) :
    Becomes (.noticeReceive n) s fun t => t.memory = s.memory ∧ t.accord.table = [applyNotice n s.clock.gt m] := by
  have found : s.accord.entry n.dev = some m := sender ▸ Accord.entry_head table
  have follows : s.accord.follows = true := by simp [Accord.follows, member]
  refine ⟨_, rfl, ?_⟩
  simp only [en, follows, foreign, found, Nat.not_le.2 later, Bool.not_true, Bool.or_self, Bool.false_or, beq_iff_eq, if_false]
  split
  · simp [State.onAccord, State.post, Accord.onEntry, Accord.arrive, bare, table, sender]
  · simp [State.onAccord, State.post, Accord.onEntry, Accord.arrive, bare, table, sender]

theorem noticeReceive_old {s : State} {n : Notice} {m : Member} (table : s.accord.table = [m]) (sender : m.dev = n.dev) (old : n.seq ≤ m.seq) : exec (.noticeReceive n) s = .next s := by
  have found : s.accord.entry n.dev = some m := sender ▸ Accord.entry_head table
  change execNoticeReceive n s = _
  unfold execNoticeReceive
  simp only [found, old, if_true, ite_self, next]

theorem limitApply_table {s : State} {m : Member} {limit eff : Nat} (table : s.accord.table = [m]) (pending : m.pending = some (limit, eff))
    (stays : s.removalDue m.dev = false) : Becomes .limitApply s fun t =>
    t.accord.table = (if eff ≤ s.clock.gt then [{ m with limit := limit, pending := none }] else [m]) ∧ t.memory = s.memory := by
  have due : s.applyNow m = decide (eff ≤ s.clock.gt) := by simp [State.applyNow, pending, stays]
  refine ⟨_, rfl, ?_, rfl⟩
  simp only [State.onAccord, table, List.map_cons, List.map_nil, due]
  by_cases now : eff ≤ s.clock.gt
  · simp [now, limitAt, pending]
  · simp [now]

/-! Trips (R398, R402). -/

/-- The state of a device that has clamped its clock to its trip limit. -/
def State.clamped (s : State) : State := (s.onAccord fun a => { a with clamp := some (lower a.trip a.clamp) }).count 14 1

theorem lower_trip_le (a : Accord) : lower a.trip a.clamp ≤ a.trip := lower_le _ _

theorem emergencyTrip_ceil (s : State) : Becomes .emergencyTrip s fun t => t.memory = s.memory ∧ t.accord.ceilAt s.clock.gt ≤ s.accord.trip ∧
    (s.accord.state ≠ .member → s.accord.state ≠ .joining → t.accord.table = s.accord.table ∧ t.fabric = s.fabric) ∧
    (s.accord.state = .joining → t.accord.lateTrip = some s.clock.gt ∧ t.fabric = s.fabric) ∧
    (s.accord.state = .member → s.accord.forwards = [] → t.accord.seq = s.accord.seq + 1 ∧
      t.fabric.outbox = s.fabric.outbox ++ [.notice { dev := self, seq := s.accord.seq + 1, limit := s.accord.trip, eff := s.clock.gt, late := true, leave := false, arrival := none }]) := by
  have held {a : Accord} (clamp : a.clamp = some (lower s.accord.trip s.accord.clamp)) (h : a.raised s.clock.gt = false) : a.ceilAt s.clock.gt ≤ s.accord.trip :=
    (Accord.ceilAt_le_clamp clamp h).trans (lower_trip_le _)
  cases state : s.accord.state with
  | member =>
    refine ⟨s.clamped.lateNotice s.clock.gt, ?_, rfl, held rfl (Accord.raised_of_idle (fun m own => ?_) _), fun h => absurd rfl h, nofun, fun _ alone => ⟨rfl, ?_⟩⟩
    · change next (match s.accord.state with | .member => _ | .joining => _ | _ => _) = _
      rw [state]; rfl
    · have own' := (Accord.entry_onEntry s.clamped.accord self (applyNotice_dev _ _)).symm.trans own
      obtain ⟨m', _, rfl⟩ := Option.map_eq_some_iff.1 own'
      rw [applyNotice_late rfl rfl rfl]
    · unfold State.lateNotice
      rw [State.broadcast_alone (by simpa [State.onAccord, Accord.onEntry, State.clamped] using alone)]
      rfl
  | joining =>
    refine ⟨s.clamped.onAccord fun a => { a with lateTrip := some s.clock.gt }, ?_, rfl, held rfl (Accord.raised_of_other ?_ _), fun _ h => absurd rfl h, fun _ => ⟨rfl, rfl⟩, nofun⟩
    · change next (match s.accord.state with | .member => _ | .joining => _ | _ => _) = _
      rw [state]; rfl
    · change s.accord.state ≠ _
      rw [state]; nofun
  | solo =>
    refine ⟨s.clamped, ?_, rfl, held rfl (Accord.raised_of_other ?_ _), fun _ _ => ⟨rfl, rfl⟩, nofun, nofun⟩
    · change next (match s.accord.state with | .member => _ | .joining => _ | _ => _) = _
      rw [state]; rfl
    · change s.accord.state ≠ _
      rw [state]; nofun
  | isolated =>
    refine ⟨s.clamped, ?_, rfl, held rfl (Accord.raised_of_other ?_ _), fun _ _ => ⟨rfl, rfl⟩, nofun, nofun⟩
    · change next (match s.accord.state with | .member => _ | .joining => _ | _ => _) = _
      rw [state]; rfl
    · change s.accord.state ≠ _
      rw [state]; nofun

/-! O55. -/

/-- Settles O55: the writes of LIMIT and the notices by the state and the entry, the trip by the clamp that nothing pending raises, and the ceiling as the least of limits. -/
theorem limitsAndCeiling : Obligations.LimitsAndCeiling := by
  unfold Obligations.LimitsAndCeiling
  refine ⟨fun s limit active => ⟨limitNotice_illegal, fun h₁ h₂ h₃ => ?_⟩, fun s n m en member foreign table sender => ⟨noticeReceive_old table sender, ?_⟩,
    fun _ _ _ _ => limitApply_table, emergencyTrip_ceil, fun a t => ⟨fun follows stays m mem left => ?_, fun c => Accord.ceilAt_le_clamp, Accord.ceilAt_le_limit⟩⟩
  · have legal := limitOk_iff.2 ⟨h₁, h₂, h₃⟩
    exact ⟨limitNotice_alone active legal, limitNotice_isolated active legal, fun m => limitNotice_member active legal⟩
  · intro later bare
    obtain ⟨t, ht, hmem, htable⟩ := noticeReceive_table en member foreign table sender later bare
    refine ⟨t, ht, hmem, fun leave => ?_, fun stays late => ?_, fun stays onTime future => ?_⟩
    · rw [htable]; simp [applyNotice, bare, leave]
    · rw [htable]; simp [applyNotice, bare, stays, late]
    · rw [htable]; simp [applyNotice, bare, stays, onTime, Nat.not_le.2 future]
  · have listed : inTable m t = true := by
      unfold inTable
      split
      · next e h => exact decide_eq_true (left e h)
      · rfl
    have bound := (Accord.ceilAt_le_groupCeil follows stays).trans (Accord.groupCeil_le mem listed)
    refine ⟨fun l e pending now => ?_, fun idle => ?_⟩
    · simpa [limitAt, pending, now] using bound
    · unfold limitAt at bound
      split at bound
      · next l e pending => rwa [if_neg (Nat.not_le.2 (idle l e pending))] at bound
      · exact bound

end Sys2Proof.Machine
end

section
/-! Heartbeats, removal, isolation, joining and leaving in the accord: the settlement of O56. -/

namespace Sys2Proof.Machine
open Sys2Proof Sys2Proof.Safety

/-! The device alone in its table (R399, R400, R403). -/

section
variable {s : State} {m : Member} (table : s.accord.table = [m]) (own : m.dev = self) (member : s.accord.state = .member)
include table own member

theorem heartbeatSend_due (due : s.accord.beat + 64000 ≤ s.clock.gt) : Becomes .heartbeatSend s fun t =>
    t.fabric.outbox = s.fabric.outbox ++ [.heartbeat { dev := self, seq := s.accord.seq, stamp := s.clock.gt, limit := limitAt m s.clock.gt, pending := m.pending }] ∧
      s.clock.gt < t.accord.beat + 64000 ∧ t.accord.table = [{ m with stamp := s.clock.gt }] := by
  have found : s.accord.entry self = some m := own ▸ Accord.entry_head table
  have now : s.beatDue = true := by simp [State.beatDue, member, due]
  refine ⟨_, rfl, ?_⟩
  simp only [now, found]
  refine ⟨rfl, ?_, ?_⟩
  · change s.clock.gt < s.accord.beat + (s.clock.gt - s.accord.beat) / 64000 * 64000 + 64000
    omega
  · simp [State.post, State.onAccord, Accord.onEntry, table, own]

omit table own member in
theorem heartbeatSend_early (early : s.clock.gt < s.accord.beat + 64000) : exec .heartbeatSend s = .next s := by
  have rest : s.beatDue = false := by simp [State.beatDue, early]
  change next _ = _
  simp [rest, next]

omit table own member in
/-- What isolation leaves (R400). -/
theorem State.isolate_accord (s : State) : s.isolate.accord.state = .isolated ∧ s.isolate.accord.table = [] ∧
    s.isolate.accord.cap = some (min (s.accord.groupCeil s.clock.gt) s.accord.limit) := ⟨rfl, rfl, rfl⟩

omit table own in
theorem accordIsolation_due (due : s.accord.heard + 256000 ≤ s.clock.gt) : exec .accordIsolation s = .next s.isolate := by
  change next _ = _
  simp [State.isolationDue, member, due, next]

omit table own member in
theorem accordIsolation_early (early : s.clock.gt < s.accord.heard + 256000) : exec .accordIsolation s = .next s := by
  change next _ = _
  simp [State.isolationDue, early, next]

omit table own in
theorem removedMessage_member (sender : Nat) : exec (.removedMessage sender) s = .next s.isolate := by
  change next _ = _
  simp [member, next]

theorem accordLeave_member (active : s.mgmt.recovery = false) (alone : s.accord.forwards = []) : Becomes .accordLeave s fun t => let eff := s.clock.gt + s.accord.lead * 1000
    t.accord.table = [{ m with seq := s.accord.seq + 1, pending := none, leaving := some eff }] ∧
    t.fabric.outbox = s.fabric.outbox ++ [.notice { dev := self, seq := s.accord.seq + 1, limit := s.accord.limit, eff := eff, late := false, leave := true, arrival := none }] := by
  refine ⟨s.fromHost State.beginLeave, rfl, ?_⟩
  rw [State.fromHost_running _ active]
  simp only [State.beginLeave, member, ne_eq, not_true, if_false]
  rw [State.broadcast_alone (by simpa [State.onAccord, Accord.onEntry] using alone)]
  simp [State.onAccord, State.post, Accord.onEntry, Accord.nextNotice, applyNotice, table, own]

omit member in
theorem leaveEffective_own {e : Nat} (leaving : m.leaving = some e) (past : e ≤ s.clock.gt) :
    Becomes (.leaveEffective self) s fun t => t.accord.state = .solo ∧ t.accord.table = [] := by
  have found : s.accord.entry self = some m := own ▸ Accord.entry_head table
  have due : s.leaveDue self = true := by simp [State.leaveDue, State.removalDue, found, inTable, leaving, past]
  refine ⟨_, rfl, ?_⟩
  simp [due, State.onAccord]

end

/-! Another member (R399, R403). -/

section
variable {s : State} {me m : Member} (member : s.accord.state = .member) (table : s.accord.table = [me, m]) (own : me.dev = self) (other : m.dev ≠ self)
include member table own other

theorem heartbeatReceive_member {h : Heartbeat} (en : s.accord.en = true) (sender : h.dev = m.dev) :
    Becomes (.heartbeatReceive h) s fun t => t.accord.heard = s.clock.gt ∧ t.memory = s.memory ∧
      t.accord.table = [me, if m.seq < h.seq then { m with stamp := max m.stamp h.stamp, seq := h.seq, limit := h.limit, pending := h.pending } else { m with stamp := max m.stamp h.stamp }] := by
  have apart : me.dev ≠ m.dev := own ▸ other.symm
  have found : s.accord.entry h.dev = some m := sender ▸ Accord.entry_second table apart
  have follows : s.accord.follows = true := by simp [Accord.follows, member]
  have foreign : h.dev ≠ self := sender ▸ other
  refine ⟨_, rfl, ?_⟩
  simp only [en, follows, foreign, found, Bool.not_true, Bool.or_self, Bool.false_or, beq_iff_eq, if_false]
  simp [State.onAccord, Accord.onEntry, table, sender, apart]

theorem removalDue_iff : s.removalDue m.dev = true ↔ m.stamp + 256000 ≤ s.clock.gt ∧ inTable m (m.stamp + 256000) = true := by
  have found : s.accord.entry m.dev = some m := Accord.entry_second table (own ▸ other.symm)
  have follows : s.accord.follows = true := by simp [Accord.follows, member]
  have foreign : (m.dev != self) = true := bne_iff_ne.2 other
  rw [State.removalDue, found, follows, foreign, Bool.true_and, Bool.true_and, Bool.and_eq_true, decide_eq_true_iff, removedAt]

omit member in
theorem drop_second : (s.accord.drop m.dev).table = [me] := by
  simp [Accord.drop, table, own, other.symm]

theorem memberRemoval_due (silent : m.stamp + 256000 ≤ s.clock.gt) (stays : ∀ e, m.leaving = some e → m.stamp + 256000 < e) :
    Becomes (.memberRemoval m.dev) s fun t => t.accord.table = [me] ∧
      (let at_ := m.stamp + 256000; t.accord.rises = s.accord.rises ++ [(at_ + 50000, match m.pending with | some (l, e) => if e < at_ then l else m.limit | none => m.limit)]) := by
  have found : s.accord.entry m.dev = some m := Accord.entry_second table (own ▸ other.symm)
  have listed : inTable m (m.stamp + 256000) = true := by
    unfold inTable
    split
    · next e h => exact decide_eq_true (stays e h)
    · rfl
  have due := (removalDue_iff member table own other).2 ⟨silent, listed⟩
  refine ⟨_, rfl, ?_⟩
  simp only [due, found]
  exact ⟨drop_second table own other, rfl⟩

theorem memberRemoval_early (heard : s.clock.gt < m.stamp + 256000) : exec (.memberRemoval m.dev) s = .next s := by
  have rest : s.removalDue m.dev = false := Bool.eq_false_iff.2 fun h => absurd ((removalDue_iff member table own other).1 h).1 (Nat.not_le.2 heard)
  change next _ = _
  simp [rest, next]

theorem leaveEffective_other {e : Nat} (leaving : m.leaving = some e) (past : e ≤ s.clock.gt) (first : s.clock.gt < m.stamp + 256000 ∨ e ≤ m.stamp + 256000) :
    Becomes (.leaveEffective m.dev) s fun t => t.accord.table = [me] ∧ t.accord.state = .member := by
  have found : s.accord.entry m.dev = some m := Accord.entry_second table (own ▸ other.symm)
  have stays : s.removalDue m.dev = false := by
    refine Bool.eq_false_iff.2 fun h => ?_
    obtain ⟨silent, listed⟩ := (removalDue_iff member table own other).1 h
    have later : m.stamp + 256000 < e := by simpa [inTable, leaving] using listed
    omega
  have due : s.leaveDue m.dev = true := by simp [State.leaveDue, stays, found, inTable, leaving, past]
  refine ⟨_, rfl, ?_⟩
  simp only [due, other, Bool.not_true, Bool.false_eq_true, if_false]
  exact ⟨drop_second table own other, member⟩

end

/-! Joining (R401, R402). -/

theorem accordJoin_asks {s : State} {sponsor : Nat} (active : s.mgmt.recovery = false) (range : sponsor ≤ 992) (en : s.accord.en = true)
    (free : s.accord.state = .solo ∨ s.accord.state = .isolated) : Becomes (.accordJoin sponsor) s fun t =>
    t.accord.state = .joining ∧ t.accord.joining = some { sponsor := sponsor, back := s.accord.state, limit := s.accord.limit, since := s.clock.gt, adopt := none } ∧
    t.fabric.outbox = s.fabric.outbox ++ [.joinRequest sponsor s.accord.group s.accord.limit] := by
  have may : (s.accord.state == .solo || s.accord.state == .isolated) = true := by simpa using free
  refine ⟨s.fromHost fun s => s.beginJoin sponsor, rfl, ?_⟩
  rw [State.fromHost_running _ active]
  simp [State.beginJoin, en, may, Nat.not_lt.2 range, State.onAccord, State.post]

theorem Accord.sponsors_iff {a : Accord} {group : Nat} : a.sponsors group = true ↔ a.en = true ∧ a.group = group ∧ (a.state = .member ∨ a.state = .solo) := by
  simp [Accord.sponsors, and_assoc]

/-- The join answered by the device `s`, which is a member, with adoption time `at_` (R401). -/
def State.sponsored (s : State) (dev limit at_ : Nat) : State :=
  let n := { s.accord.nextNotice limit at_ with arrival := some dev }
  let s := s.post [.snapshot dev { members := s.accord.table, rises := s.accord.rises.filter fun x => decide (s.clock.gt < x.1) } at_]
  let s := s.onAccord fun a => { (a.onEntry self fun m => { m with seq := n.seq }).arrive n with seq := n.seq }
  let s := s.broadcast n
  s.onAccord fun a => { a with forwards := (a.forwards.filter fun x => decide (s.clock.gt < x.2)) ++ [(dev, at_)] }

/-- The adoption time that the device gives a joiner (R401). -/
def State.adoptAt (s : State) : Nat := s.clock.gt + 50000 + Config.adopt s.clock.turn

theorem State.le_adoptAt (s : State) : s.clock.gt + 50000 ≤ s.adoptAt := Nat.le_add_right _ _

section
variable {s : State} {dev group limit : Nat}

theorem joinRequestReceive_refused (no : ¬ (s.accord.en = true ∧ s.accord.group = group ∧ (s.accord.state = .member ∨ s.accord.state = .solo))) :
    exec (.joinRequestReceive dev group limit) s = .next { s with fabric := { s.fabric with outbox := s.fabric.outbox ++ [.refuse dev] } } := by
  have refuses : s.accord.sponsors group = false := Bool.eq_false_iff.2 fun h => no (Accord.sponsors_iff.1 h)
  change next _ = _
  simp [refuses, State.post, next]

variable (foreign : dev ≠ self)
include foreign

theorem joinRequestReceive_sponsored (yes : s.accord.sponsors group = true) :
    exec (.joinRequestReceive dev group limit) s = .next (s.found.sponsored dev limit s.found.adoptAt) := by
  change next _ = _
  rw [yes, if_neg (by simpa using foreign)]
  rfl

/-- The table of the sponsor after the arrival notice. -/
theorem State.sponsored_table (s : State) (limit at_ : Nat) : (s.sponsored dev limit at_).accord.table =
    ((s.accord.onEntry self fun m => { m with seq := s.accord.seq + 1 }).drop dev).table ++ [arrivalEntry dev limit at_] := by
  simp [State.sponsored, State.broadcast, State.onAccord, State.post, Accord.arrive, foreign, Accord.nextNotice, Accord.drop]

theorem State.sponsored_forwards (limit at_ : Nat) (alone : s.accord.forwards = []) : (s.sponsored dev limit at_).accord.forwards = [(dev, at_)] := by
  simp [State.sponsored, State.broadcast, State.onAccord, State.post, Accord.arrive, foreign, Accord.onEntry, Accord.drop, alone]

theorem State.sponsored_outbox (limit at_ : Nat) (alone : s.accord.forwards = []) : (s.sponsored dev limit at_).fabric.outbox =
    s.fabric.outbox ++ [.snapshot dev { members := s.accord.table, rises := s.accord.rises.filter fun x => decide (s.clock.gt < x.1) } at_,
      .notice { dev := self, seq := s.accord.seq + 1, limit := limit, eff := at_, late := false, leave := false, arrival := some dev }] := by
  simp [State.sponsored, State.broadcast, State.forwarded, State.onAccord, State.post, Accord.arrive, foreign, Accord.onEntry, Accord.drop, alone, Accord.nextNotice]

theorem joinRequestReceive_member (en : s.accord.en = true) (same : s.accord.group = group) (member : s.accord.state = .member) (alone : s.accord.forwards = []) :
    Becomes (.joinRequestReceive dev group limit) s fun t =>
      ∃ adopt, s.clock.gt + 50000 ≤ adopt ∧ t.accord.seq = s.accord.seq + 1 ∧ t.accord.forwards = [(dev, adopt)] ∧
        (∃ m ∈ t.accord.table, m.dev = dev ∧ m.pending = some (limit, adopt) ∧ m.leaving = none) ∧
        t.fabric.outbox = s.fabric.outbox ++ [.snapshot dev { members := s.accord.table, rises := s.accord.rises.filter fun x => decide (s.clock.gt < x.1) } adopt,
          .notice { dev := self, seq := s.accord.seq + 1, limit := limit, eff := adopt, late := false, leave := false, arrival := some dev }] := by
  have found : s.found = s := by simp [State.found, member]
  refine ⟨_, joinRequestReceive_sponsored foreign (Accord.sponsors_iff.2 ⟨en, same, .inl member⟩), s.adoptAt, s.le_adoptAt, ?_⟩
  rw [found]
  refine ⟨rfl, State.sponsored_forwards foreign _ _ alone, ⟨arrivalEntry dev limit s.adoptAt, ?_, rfl, rfl, rfl⟩, State.sponsored_outbox foreign _ _ alone⟩
  rw [State.sponsored_table foreign]
  exact List.mem_append_right _ (List.mem_singleton_self _)

theorem joinRequestReceive_solo (en : s.accord.en = true) (same : s.accord.group = group) (solo : s.accord.state = .solo) :
    Becomes (.joinRequestReceive dev group limit) s fun t => t.accord.state = .member ∧ t.accord.table.length = 2 ∧
      (∃ m ∈ t.accord.table, m.dev = self ∧ m.limit = s.accord.ceilAt s.clock.gt ∧ m.pending = none) ∧
      ∃ m ∈ t.accord.table, m.dev = dev ∧ ∃ adopt, s.clock.gt + 50000 ≤ adopt ∧ m.pending = some (limit, adopt) := by
  have single : s.found.accord.table = [{ dev := self, limit := s.accord.ceilAt s.clock.gt, pending := none, leaving := none, seq := s.accord.seq, stamp := s.clock.gt }] := by
    simp [State.found, solo, State.onAccord]
  have state : s.found.accord.state = .member := by simp [State.found, solo, State.onAccord]
  have clock : s.found.clock = s.clock := by
    unfold State.found
    split <;> rfl
  have table : (s.found.sponsored dev limit s.found.adoptAt).accord.table =
      [{ dev := self, limit := s.accord.ceilAt s.clock.gt, pending := none, leaving := none, seq := s.found.accord.seq + 1, stamp := s.clock.gt }, arrivalEntry dev limit s.found.adoptAt] := by
    rw [State.sponsored_table foreign]
    simp [Accord.drop, Accord.onEntry, single, foreign.symm]
  refine ⟨_, joinRequestReceive_sponsored foreign (Accord.sponsors_iff.2 ⟨en, same, .inr solo⟩), ?_, ?_, ?_, ?_⟩
  · simpa [State.sponsored, State.broadcast, State.onAccord, State.post, Accord.arrive, foreign, Accord.onEntry, Accord.drop] using state
  · rw [table]; rfl
  · exact ⟨_, by rw [table]; exact List.mem_cons_self, rfl, rfl, rfl⟩
  · exact ⟨arrivalEntry dev limit s.found.adoptAt, by rw [table]; simp, rfl, s.found.adoptAt, clock ▸ s.found.le_adoptAt, rfl⟩

end

section
variable {s : State} {j : Joining} (joining : s.accord.state = .joining) (join : s.accord.joining = some j)
include joining join

theorem snapshotReceive_waiting (waits : j.adopt = none) (l : Snapshot) (adopt : Nat) :
    Becomes (.snapshotReceive l adopt) s fun t => t.accord.joining = some { j with adopt := some adopt } ∧ t.accord.rises = l.rises ∧
      ∃ m, t.accord.table = l.members.filter (fun x => x.dev != self) ++ [m] ∧ m.dev = self ∧ m.pending = some (j.limit, adopt) := by
  refine ⟨_, rfl, ?_⟩
  simp only [joining, join, waits, Option.isSome_none, Bool.false_eq_true, if_false]
  exact ⟨rfl, rfl, _, rfl, rfl, rfl⟩

theorem waitsTable_iff : s.accord.waitsTable = true ↔ j.adopt = none := by
  simp [Accord.waitsTable, joining, join]

omit joining in
theorem State.failJoin_joining (err : Nat) : let t := s.failJoin err
    t.accord.state = j.back ∧ t.accord.err = err ∧ t.accord.joining = none ∧ t.accord.table = s.accord.table := by
  simp [State.failJoin, join, State.onAccord]

theorem joinTimeout_late (waits : j.adopt = none) (late : j.since + 1000000 ≤ s.clock.gt) : exec .joinTimeout s = .next (s.failJoin 1) := by
  have due : s.joinLate = true := by simp [State.joinLate, (waitsTable_iff joining join).2 waits, join, late]
  change next _ = _
  simp [due, next]

omit joining in
theorem joinTimeout_early (early : s.clock.gt < j.since + 1000000) : exec .joinTimeout s = .next s := by
  have rest : s.joinLate = false := by simp [State.joinLate, join, early]
  change next _ = _
  simp [rest, next]

theorem sponsorRefusal_waiting (waits : j.adopt = none) : exec .sponsorRefusal s = .next (s.failJoin 2) := by
  change next _ = _
  simp [(waitsTable_iff joining join).2 waits, next]

theorem adoptDue_eq {adopt : Nat} (adopted : j.adopt = some adopt) : s.adoptDue = decide (adopt ≤ s.clock.gt) := by
  simp [State.adoptDue, joining, join, adopted]

theorem adoption_early {adopt : Nat} (adopted : j.adopt = some adopt) (early : s.clock.gt < adopt) : exec .adoption s = .next s := by
  change next _ = _
  simp [adoptDue_eq joining join adopted, early, next]

theorem adoption_due {adopt : Nat} (adopted : j.adopt = some adopt) (due : adopt ≤ s.clock.gt) :
    Becomes .adoption s fun t => t.accord.state = .member ∧ t.accord.joining = none ∧ t.accord.cap = none ∧
      (∀ g, s.accord.lateTrip = some g → t.accord.seq = s.accord.seq + 1) := by
  refine ⟨_, rfl, ?_⟩
  simp only [adoptDue_eq joining join adopted, due, decide_true, Bool.not_true, Bool.false_eq_true, if_false]
  cases trip : s.accord.lateTrip with
  | none => exact ⟨rfl, rfl, rfl, nofun⟩
  | some g => exact ⟨rfl, rfl, rfl, fun _ _ => rfl⟩

end

/-! ACCCTL (R395, R400). -/

theorem bit_toNat {n : Nat} (v : BitVec n) (i : Nat) : bit v.toNat i = v.getLsbD i := by
  simp [bit, BitVec.getLsbD, Nat.testBit_eq_decide_div_mod_eq]

section
variable {s : State} {value : Dbl} (active : s.mgmt.recovery = false)
include active

theorem accctlEnWrite_set (on : value.getLsbD 63 = true) : let v := value.toNat; let lead := bits v 9 0
    Becomes (.accctlEnWrite value) s fun t => t.accord.en = true ∧ t.accord.state = s.accord.state ∧ t.accord.table = s.accord.table ∧
      (s.accord.en = true → t.accord = s.accord) ∧
      (s.accord.en = false → t.accord.group = bits v 47 32 ∧ t.accord.lead = if 50 ≤ lead ∧ lead ≤ 1000 then lead else s.accord.lead) := by
  refine ⟨s.fromHost fun s => s.writeAccctl value, rfl, ?_⟩
  rw [State.fromHost_running _ active]
  simp only [State.writeAccctl, State.onAccord, bit_toNat, on, if_true]
  cases en : s.accord.en with
  | true => exact ⟨trivial, rfl, rfl, fun _ => by rw [if_pos rfl, ← en], nofun⟩
  | false => exact ⟨trivial, rfl, rfl, nofun, fun _ => ⟨rfl, rfl⟩⟩

theorem accctlEnWrite_clear (off : value.getLsbD 63 = false) :
    Becomes (.accctlEnWrite value) s fun t => t.accord.en = false ∧ t.accord.state = .solo ∧ t.accord.table = [] ∧ t.accord.joining = none := by
  refine ⟨s.fromHost fun s => s.writeAccctl value, rfl, ?_⟩
  rw [State.fromHost_running _ active]
  simp only [State.writeAccctl, State.onAccord, bit_toNat, off, Bool.false_eq_true, if_false]
  exact ⟨trivial, trivial, trivial, trivial⟩

end

/-! O56. -/

/-- Settles O56: heartbeats and removals by the entries of the table, joining by the answers of the sponsor and the times of the joiner. -/
theorem accordMembership : Obligations.AccordMembership := by
  unfold Obligations.AccordMembership
  refine ⟨fun s m table own member => ⟨heartbeatSend_due table own member, heartbeatSend_early, fun due => ⟨_, accordIsolation_due member due, s.isolate_accord⟩,
      accordIsolation_early, fun sender => ⟨_, removedMessage_member member sender, s.isolate_accord⟩, accordLeave_member table own member,
      fun e => leaveEffective_own table own⟩,
    fun s me m h en member table own other => ⟨heartbeatReceive_member member table own other en, memberRemoval_due member table own other,
      memberRemoval_early member table own other, fun e => leaveEffective_other member table own other⟩,
    fun s sponsor => accordJoin_asks,
    fun s dev group limit foreign => ⟨joinRequestReceive_refused, joinRequestReceive_member foreign, joinRequestReceive_solo foreign⟩,
    fun s j joining join => ⟨fun waits => ⟨snapshotReceive_waiting joining join waits, fun late => ⟨_, joinTimeout_late joining join waits late, State.failJoin_joining join 1⟩,
        joinTimeout_early join, ⟨_, sponsorRefusal_waiting joining join waits, State.failJoin_joining join 2⟩⟩,
      fun adopt adopted => ⟨adoption_early joining join adopted, adoption_due joining join adopted⟩⟩,
    fun s value active => ⟨accctlEnWrite_set active, accctlEnWrite_clear active⟩⟩

end Sys2Proof.Machine
end

section
/-! Fabric requests at their source, and the links: the settlement of O54. -/

namespace Sys2Proof.Machine
open Sys2Proof Sys2Proof.Safety

/-! Requests that are all sent already (R380). -/

theorem nextOut_sent (pays : FabOut → Bool) {l : List FabOut} (sent : ∀ o ∈ l, o.first.isSome = true) (before : List FabOut) : nextOut pays before l = none := by
  induction l generalizing before with
  | nil => rfl
  | cons o l ih =>
    have gone : o.first.isNone = false := by simpa using sent o List.mem_cons_self
    rw [nextOut, gone, Bool.false_and, Bool.false_and, if_neg Bool.false_ne_true]
    exact ih (fun x h => sent x (List.mem_cons_of_mem _ h)) _

theorem State.joinPorts_sent (s : State) {l : List FabOut} (sent : ∀ o ∈ l, o.first.isSome = true) (before : List FabOut) : s.joinPorts before l = s := by
  induction l generalizing before with
  | nil => rfl
  | cons o l ih =>
    have gone : o.first.isNone = false := by simpa using sent o List.mem_cons_self
    rw [State.joinPorts, gone]
    cases o.payer with
    | none => exact ih (fun x h => sent x (List.mem_cons_of_mem _ h)) _
    | some c => exact ih (fun x h => sent x (List.mem_cons_of_mem _ h)) _

/-- Nothing to send, nothing is sent. -/
theorem State.pump_sent {s : State} {v : Nat} (sent : ∀ o ∈ (s.target v).out, o.first.isSome = true) : s.pump v = s := by
  have one : s.pumpOne v = s := by
    unfold State.pumpOne
    simp only [State.joinPorts_sent s sent, nextOut_sent _ sent, ite_self]
  unfold State.pump
  induction (s.target v).out.length with
  | zero => rfl
  | succ n ih => rw [State.pumpN, one, ih]

theorem State.pump_empty {s : State} {v : Nat} (empty : (s.target v).out = []) : s.pump v = s :=
  State.pump_sent (by simp [empty])

/-! One request outstanding (R380, R383, R384). -/

theorem State.target_onStrand (s : State) (v : Nat) (w : Sid) (f : Strand → Strand) : (s.onStrand w f).target v = s.target v := by
  rw [State.target, State.onStrand_fabric]
  rfl

section
variable {s : State} {v : Nat} {o : FabOut} {w : Sid} {f : Strand → Strand}

theorem FabTarget.find_single {t : FabTarget} (single : t.out = [o]) (sent : o.first.isSome = true) : t.find o.packet.seq = some o := by
  simp [FabTarget.find, FabTarget.sent, single, sent]

theorem State.dropOut_single (single : (s.target v).out = [o]) : ((s.dropOut v o).target v).out = [] := by
  rw [State.dropOut, State.target_onTarget, single, List.erase_cons_head]

/-- The strand of a request whose end changes that strand only. -/
theorem State.dropOut_onStrand (single : (s.target v).out = [o]) (live : (s.strand w).live ≠ 0) : let t := (s.dropOut v o).onStrand w f
    (t.target v).out = [] ∧ t.memory = s.memory ∧ t.strand w = f (s.strand w) :=
  ⟨by rw [State.target_onStrand, State.dropOut_single single], State.onStrand_memory ..,
    State.strand_onStrand f (State.resident_of_live (s := s.dropOut v o) live)⟩

theorem State.noteEpoch_same {e : Nat} (same : (s.target v).epoch = some e) : s.noteEpoch v e = s.onTarget v fun t => { t with epoch := some e } := by
  simp [State.noteEpoch, same]

section
variable {resp : FabResponse} (single : (s.target v).out = [o]) (sent : o.first.isSome = true) (target : resp.target = v) (number : resp.seq = o.packet.seq)
  (epoch : (s.target v).epoch = some resp.epoch) (empty : s.fabric.acks = [])
include single sent target number epoch empty

/-- The final response of a request that ends by a change of its strand. -/
theorem fabricResponseArrival_final (final : resp.answer ≠ .retry) (fits : fabFits o.packet.kind resp.answer = true)
    (acts : ∀ u : State, u.clock = s.clock → u.answerOut v o resp.answer = u.onStrand w f) (live : (s.strand w).live ≠ 0) :
    Becomes (.fabricResponseArrival resp) s fun t => (t.target v).out = [] ∧ t.memory = s.memory ∧ t.strand w = f (s.strand w) := by
  subst target
  let v := resp.target
  let heard := s.onTarget v fun t => { t with heard := s.clock.gt }
  have kept : heard.target v = { s.target v with heard := s.clock.gt } := State.target_onTarget ..
  have one : (heard.target v).out = [o] := by rw [kept]; exact single
  have responds : heard.respond resp = (heard.dropOut v o).onStrand w f := by
    rw [State.respond, number, FabTarget.find_single one sent, ← acts (heard.dropOut v o) rfl]
    simp only [final, fits, if_false, if_true]
    rfl
  obtain ⟨out, memory, strand⟩ := State.dropOut_onStrand (f := f) one (w := w) live
  have same : (((heard.dropOut v o).onStrand w f).target v).epoch = some resp.epoch := by
    rw [State.target_onStrand, State.dropOut, State.target_onTarget, kept]
    exact epoch
  refine ⟨_, rfl, ?_⟩
  simp only [empty, List.find?_nil]
  rw [responds, State.noteEpoch_same same, State.pump_empty (by rw [State.target_onTarget]; exact out)]
  exact ⟨by rw [State.target_onTarget]; exact out, memory, strand⟩

theorem fabricResponseArrival_retry (retry : resp.answer = .retry) :
    Becomes (.fabricResponseArrival resp) s fun t => (t.target v).out = [{ o with last := s.clock.gt }] ∧ t.memory = s.memory := by
  subst target
  let v := resp.target
  let heard := s.onTarget v fun t => { t with heard := s.clock.gt }
  have kept : heard.target v = { s.target v with heard := s.clock.gt } := State.target_onTarget ..
  have one : (heard.target v).out = [o] := by rw [kept]; exact single
  let waits := heard.onTarget v fun t => { t with out := t.out.map fun x => if x = o then { x with last := s.clock.gt } else x }
  have responds : heard.respond resp = waits := by
    rw [State.respond, number, FabTarget.find_single one sent]
    simp only [retry, if_true]
    rfl
  have out : (waits.target v).out = [{ o with last := s.clock.gt }] := by
    rw [State.target_onTarget, one]
    simp
  have same : (waits.target v).epoch = some resp.epoch := by
    rw [State.target_onTarget, kept]
    exact epoch
  have noted : ((waits.onTarget v fun t => { t with epoch := some resp.epoch }).target v).out = [{ o with last := s.clock.gt }] := by
    rw [State.target_onTarget]
    exact out
  refine ⟨_, rfl, ?_⟩
  simp only [empty, List.find?_nil]
  rw [responds, State.noteEpoch_same same, State.pump_sent (fun x h => by rw [noted, List.mem_singleton] at h; rw [h]; exact sent)]
  exact ⟨noted, rfl⟩

end

/-! Resends, timeouts and silence (R375, R382). -/

section
variable {first : Nat} (single : (s.target v).out = [o]) (sent : o.first = some first)
include single sent

theorem resendDue_eq : s.resendDue v o.packet.seq = decide (o.last + 2000 ≤ s.clock.gt) := by
  rw [State.resendDue, FabTarget.find_single single (by rw [sent]; rfl)]

theorem fabricResend_due (due : o.last + 2000 ≤ s.clock.gt) :
    exec (.fabricResend v o.packet.seq) s = .next ((s.onTarget v fun t => { t with out := [{ o with last := s.clock.gt }] }).transmit v o.packet) := by
  change next _ = _
  rw [FabTarget.find_single single (by rw [sent]; rfl), resendDue_eq single sent]
  simp [due, next, State.onTarget, single]

theorem fabricResend_early (early : s.clock.gt < o.last + 2000) : exec (.fabricResend v o.packet.seq) s = .next s := by
  change next _ = _
  rw [FabTarget.find_single single (by rw [sent]; rfl), resendDue_eq single sent]
  simp [early, next]

omit single sent in
/-- A store's request that fails: the strand's record takes the cause and the address (R385). -/
theorem State.failOut_store {id : Nat} (use : o.use = .store w id) (u : State) (c : Nat) : u.failOut v o c =
    u.onStrand w fun st => { st.acknowledge id [] with ferr := st.ferr.enter c (fabAddr o.packet v) } := by
  rw [State.failOut, use]

omit single sent in
theorem FabErr.enter_empty {r : FabErr} (fresh : r.valid = false) (c a : Nat) : r.enter c a = { valid := true, count := 1, cause := c, addr := a } := by
  simp [FabErr.enter, fresh]

theorem fabricTimeout_due {id : Nat} (use : o.use = .store w id) (live : (s.strand w).live ≠ 0) (fresh : (s.strand w).ferr.valid = false) (due : first + 1024000 ≤ s.clock.gt) :
    Becomes (.fabricTimeout v o.packet.seq) s fun t => (t.target v).out = [] ∧
      (t.strand w).ferr = { valid := true, count := 1, cause := Cause.fabricTimeout.code, addr := fabAddr o.packet v } ∧ t.memory = s.memory := by
  have found := FabTarget.find_single single (by rw [sent]; rfl)
  have late : s.timeoutDue v o.packet.seq = true := by rw [State.timeoutDue, found]; simp [sent, due]
  refine ⟨_, rfl, ?_⟩
  simp only [found, late, if_true]
  rw [State.failOut_store use]
  obtain ⟨out, memory, strand⟩ := State.dropOut_onStrand (f := fun st => { st.acknowledge id [] with ferr := st.ferr.enter Cause.fabricTimeout.code (fabAddr o.packet v) }) single live
  rw [State.pump_empty out]
  exact ⟨out, by rw [strand]; exact FabErr.enter_empty fresh _ _, memory⟩

end

end

/-! Extents that fail with their lender (R346, R364). -/

/-- Memory, the fabric and the error record of a strand stand in `t` as in `s`. -/
structure KeepsRecord (s t : State) (w : Sid) : Prop where
  memory : t.memory = s.memory
  fabric : t.fabric = s.fabric
  strand : (s.strand w).live ≠ 0 → (t.strand w).live = (s.strand w).live ∧ (t.strand w).ferr = (s.strand w).ferr

namespace KeepsRecord
variable {s t u : State} {w : Sid}

theorem refl (s : State) (w : Sid) : KeepsRecord s s w := ⟨rfl, rfl, fun _ => ⟨rfl, rfl⟩⟩

theorem trans (h : KeepsRecord s t w) (h' : KeepsRecord t u w) : KeepsRecord s u w :=
  ⟨h'.memory.trans h.memory, h'.fabric.trans h.fabric, fun live => by
    obtain ⟨live', record⟩ := h.strand live
    obtain ⟨live'', record'⟩ := h'.strand (live' ▸ live)
    exact ⟨live''.trans live', record'.trans record⟩⟩

theorem loseLease (s : State) (l : Sys2Proof.Lease) (w : Sid) : KeepsRecord s (s.loseLease l) w := by
  refine ⟨rfl, rfl, fun live => ?_⟩
  have present {st : Strand} (h : st.live ≠ 0) : st ≠ {} := fun default => h (by rw [default])
  have strand := (State.mapStrands_maps s fun st => st.clearResvs (Lease.has l)).strand (present live) (present (st := (s.strand w).clearResvs (Lease.has l)) live)
  rw [State.loseLease, State.clearResvs, strand]
  exact ⟨rfl, rfl⟩

theorem failExtent (s : State) (borrowed : Bool) (node idx : Nat) (w : Sid) : KeepsRecord s (s.failExtent borrowed node idx) w := by
  unfold State.failExtent
  split
  · next l _ =>
    split
    · have lost := loseLease s l w
      exact ⟨lost.memory, lost.fabric, lost.strand⟩
    · exact refl s w
  · exact refl s w

theorem failNode (s : State) (borrowed : Bool) (node : Nat) (w : Sid) : KeepsRecord s (s.failNode borrowed node) w := by
  have folded : ∀ (l : List Nat) (s : State), KeepsRecord s (l.foldl (fun s i => s.failExtent borrowed node i) s) w := by
    intro l
    induction l with
    | nil => exact fun s => refl s w
    | cons i l ih => exact fun s => (failExtent s borrowed node i w).trans (ih _)
  have all := folded (Tab.keys s.tiers.leases) s
  unfold State.failNode
  extract_lets t
  split
  · exact all
  · exact ⟨all.memory, all.fabric, all.strand⟩

end KeepsRecord

theorem State.failAll_single {s : State} {v : Nat} {o : FabOut} (single : (s.target v).out = [o]) (sent : o.first.isSome = true) :
    s.failAll v = (s.dropOut v o).failOut v o Cause.fabricUnreachable.code := by
  simp [State.failAll, FabTarget.sent, single, sent]

theorem fabricUnreachable_silent {s : State} {v : Nat} {o : FabOut} {w : Sid} {first id : Nat} (single : (s.target v).out = [o]) (sent : o.first = some first)
    (use : o.use = .store w id) (live : (s.strand w).live ≠ 0) (fresh : (s.strand w).ferr.valid = false) (other : v ≠ self)
    (quiet : (s.target v).heard + 256000 ≤ s.clock.gt) (settled : s.outrun true v = false) :
    Becomes (.fabricUnreachable v) s fun t => (t.target v).out = [] ∧
      (t.strand w).ferr = { valid := true, count := 1, cause := Cause.fabricUnreachable.code, addr := fabAddr o.packet v } ∧ t.memory = s.memory := by
  have gone : o.first.isSome = true := by rw [sent]; rfl
  have silent : s.silent v = true := by simp [State.silent, FabTarget.sent, single, gone, other, quiet]
  let f : Strand → Strand := fun st => { st.acknowledge id [] with ferr := st.ferr.enter Cause.fabricUnreachable.code (fabAddr o.packet v) }
  have fails : s.failAll v = (s.dropOut v o).onStrand w f := by
    rw [State.failAll_single single gone, State.failOut_store use]
  obtain ⟨out, memory, strand⟩ := State.dropOut_onStrand (f := f) single live
  have kept := KeepsRecord.failNode ((s.dropOut v o).onStrand w f) true v w
  have out' : ((((s.dropOut v o).onStrand w f).failNode true v).target v).out = [] := by
    rw [State.target, kept.fabric]
    exact out
  refine ⟨_, rfl, ?_⟩
  simp only [silent, settled, Bool.not_false, Bool.and_self, if_true]
  rw [fails, State.pump_empty out']
  obtain ⟨_, record⟩ := kept.strand (by rw [strand]; exact live)
  exact ⟨out', by rw [record, strand]; exact FabErr.enter_empty fresh _ _, kept.memory.trans memory⟩

/-! Links and transit (R371, R374, R375). -/

theorem State.portUp_of_down {s t : State} {p : Nat} (same : t.fabric.down.contains p = s.fabric.down.contains p) : t.portUp p = s.portUp p := by
  rw [State.portUp, State.portUp, same]

theorem linkDown_port {s : State} {port : Nat} (range : port < 32) :
    Becomes (.linkDown port) s fun t => t.portUp port = false ∧ (∀ p, p ≠ port → t.portUp p = s.portUp p) ∧ t.memory = s.memory ∧ t.cores = s.cores := by
  refine ⟨_, rfl, ?_⟩
  by_cases up : s.portUp port = true
  · simp only [range, up, and_self, if_true]
    exact ⟨by simp [State.portUp], fun p other => State.portUp_of_down (by simp [other]), trivial⟩
  · rw [if_neg fun h => up h.2]
    exact ⟨by simpa using up, fun _ _ => rfl, rfl, rfl⟩

theorem linkUp_port {s : State} {port : Nat} (wired : (neighbourAt self port).isSome = true) :
    Becomes (.linkUp port) s fun t => t.portUp port = true ∧ (∀ p, p ≠ port → t.portUp p = s.portUp p) ∧ t.memory = s.memory ∧ t.cores = s.cores := by
  refine ⟨_, rfl, ?_⟩
  simp only [wired, if_true]
  exact ⟨by simp [State.portUp, wired], fun p other => State.portUp_of_down (by simp [other]), trivial, trivial⟩

theorem linkUp_dark {s : State} {port : Nat} (dark : neighbourAt self port = none) : s.portUp port = false ∧ exec (.linkUp port) s = .next s := by
  refine ⟨by simp [State.portUp, dark], ?_⟩
  change next _ = _
  simp [dark, next]

/-! O54. -/

/-- Settles O54: the response of a request ends it by a change of its strand alone, the resends and failures come at their times, and a lost lender changes no byte and no error record. -/
theorem fabricRequestsEnd : Obligations.FabricRequestsEnd := by
  unfold Obligations.FabricRequestsEnd
  refine ⟨fun s v o resp single sent target number epoch empty => ⟨fun w reg m entry r use kind answer live msgs => ?_, fun w id line d p use kind answer live => ?_,
      fun w id m d p use kind live => ⟨fun answer => ?_, fun answer => ?_⟩, fabricResponseArrival_retry single sent target number epoch empty⟩,
    fun s v o first single sent => ⟨fabricResend_due single sent, fabricResend_early single sent, fun w id use live fresh =>
      ⟨fabricTimeout_due single sent use live fresh, fabricUnreachable_silent single sent use live fresh⟩⟩,
    fun s port => ⟨linkDown_port, linkUp_port, linkUp_dark⟩, fun s p dst hop other low high => ?_, fun s req dst hop => ⟨rfl, fun i => ?_⟩⟩
  · obtain ⟨t, ht, out, memory, strand⟩ := fabricResponseArrival_final single sent target number epoch empty
      (f := fun st => let st := st.putS reg r; { st with flight := { st.flight with msgs := st.flight.msgs.erase reg } }) (by rw [answer]; nofun) (by rw [kind, answer]; rfl)
      (fun u _ => by simp only [answer, State.answerOut, use]) live
    exact ⟨t, ht, out, by rw [strand]; simp [Strand.putS, msgs], fun _ => by rw [strand]; exact Tab.get_put_same .., memory⟩
  · obtain ⟨t, ht, out, memory, strand⟩ := fabricResponseArrival_final single sent target number epoch empty
      (f := fun st => st.onLoad id fun l => { l with sectors := l.sectors.map fun x => if lineOf (32 * x.1) = line then (x.1, some (d.toNat, p)) else x })
      (by rw [answer]; nofun) (by rw [kind, answer]; rfl) (fun u _ => by simp only [answer, State.answerOut, use]) live
    refine ⟨t, ht, out, memory, fun l listed named => ?_⟩
    rw [strand]
    exact List.mem_map.2 ⟨l, listed, if_pos named⟩
  · obtain ⟨t, ht, out, memory, strand⟩ := fabricResponseArrival_final single sent target number epoch empty
      (f := fun st => { st.acknowledge id [] with ferr := st.ferr.enter Cause.pageProtect.code (fabAddr o.packet v) })
      (by rw [answer]; nofun) (by rw [kind, answer]; rfl) (fun u _ => by simp only [answer, State.answerOut, State.failOut_store use]) live
    exact ⟨t, ht, out, memory, by rw [strand]; rfl⟩
  · obtain ⟨t, ht, out, memory, strand⟩ := fabricResponseArrival_final single sent target number epoch empty
      (f := fun st => (st.termOf id { device := 0, comb := 0, system := s.clock.gt }).acknowledge id [])
      (by rw [answer]; nofun) (by rw [kind, answer]; rfl) (fun u same => by simp only [answer, State.answerOut, use, same]) live
    exact ⟨t, ht, out, memory, by rw [strand]; simp [Strand.acknowledge], by rw [strand]; rfl⟩
  · change next _ = _
    simp [other, low, high, next]
  · change (if i = self ∨ minHops req.src i ≤ hop then s.portOf dst none else s.portOf dst (some i)) = _
    split <;> rfl

end Sys2Proof.Machine
end

section
/-! Fabric requests at their target, and messages: the settlement of O53. -/

namespace Sys2Proof.Machine
open Sys2Proof Sys2Proof.Safety

/-! Lines read at their homes (R193, log entry 95). -/

/-- The clock, the fabric, the host, the services, the tiers and the queues and notify registers of the work unit stand in `t` as in `s`, and every comb is resident with its tenant. -/
structure SameUnits (s t : State) : Prop where
  clock : t.clock = s.clock := by rfl
  fabric : t.fabric = s.fabric := by rfl
  host : t.host = s.host := by rfl
  service : t.service = s.service := by rfl
  tiers : t.tiers = s.tiers := by rfl
  queues : t.sched.queues = s.sched.queues := by rfl
  notify : t.sched.notify = s.sched.notify := by rfl
  combs : ∀ {c n k}, s.comb? c n = some k → ∃ k', t.comb? c n = some k' ∧ k'.tenant = k.tenant := by exact fun h => ⟨_, h, rfl⟩

/-- So do the bytes and the poison of memory. -/
structure SameHome (s t : State) : Prop extends SameUnits s t where
  mem : t.memory.mem = s.memory.mem := by rfl
  poison : t.memory.poison = s.memory.poison := by rfl

theorem SameUnits.trans {s t u : State} (h : SameUnits s t) (h' : SameUnits t u) : SameUnits s u :=
  ⟨h'.clock.trans h.clock, h'.fabric.trans h.fabric, h'.host.trans h.host, h'.service.trans h.service, h'.tiers.trans h.tiers, h'.queues.trans h.queues, h'.notify.trans h.notify,
    fun resident => by
      obtain ⟨k, first, tenant⟩ := h.combs resident
      obtain ⟨k', second, tenant'⟩ := h'.combs first
      exact ⟨k', second, tenant'.trans tenant⟩⟩

namespace SameHome
variable {s t u : State}

theorem refl (s : State) : SameHome s s := {}

theorem trans (h : SameHome s t) (h' : SameHome t u) : SameHome s u :=
  ⟨h.toSameUnits.trans h'.toSameUnits, h'.mem.trans h.mem, h'.poison.trans h.poison⟩

theorem recallLine (s : State) (line : Nat) : SameHome s (s.recall line) := by
  obtain ⟨o, g, v, recalled⟩ := s.recall_recalled line
  rw [recalled]
  exact {}

theorem remember (s : State) (u : Nat) (t : BitVec 16) (va : Nat) : SameHome s (s.remember u t va) := by
  obtain ⟨o, g, v, b, recalled⟩ := s.remember_recalled u t va
  rw [recalled]
  exact {}

theorem lineCleaned (s : State) (line : Nat) : SameHome s (s.lineCleaned line) where
  combs resident := by
    obtain ⟨g, _, reqs, stays⟩ := State.lineCleaned_comb? line resident
    exact ⟨_, stays, rfl⟩

theorem displaceL2 (s : State) (line : Nat) : SameHome s (s.displaceL2 line) := by
  unfold State.displaceL2
  split
  · refine ⟨{}, ?_, ?_⟩
    · change (if _ then s.memory.evict line else s.memory).mem = _
      split <;> rfl
    · change (if _ then s.memory.evict line else s.memory).poison = _
      split <;> rfl
  · extract_lets cleaned
    have first : SameHome s cleaned := by
      unfold cleaned
      split
      · exact refl s
      · exact .lineCleaned s line
    exact first.trans {}

theorem roomL2 (s : State) (line : Nat) : SameHome s (s.roomL2 line) := by
  unfold State.roomL2
  dsimp only
  split
  · exact refl s
  split
  · exact .displaceL2 s _
  · exact refl s

theorem fillL2 (s : State) (line : Nat) : SameHome s (s.fillL2 line) := by
  unfold State.fillL2
  split
  · exact refl s
  dsimp only
  split
  · exact (roomL2 s line).trans {}
  · exact roomL2 s line

theorem holdHost (s : State) (line how : Nat) : SameHome s (s.holdHost line how) := by
  unfold State.holdHost
  split
  · exact (roomL2 s line).trans {}
  · exact refl s

theorem atHome (s : State) (line : Nat) : SameHome s (s.atHome line) := (recallLine s line).trans (fillL2 _ line)

theorem countAccess (s : State) (line : Nat) : SameHome s (s.countAccess line) := by
  unfold State.countAccess
  split
  · exact {}
  · exact refl s

end SameHome

/-- A change of every strand leaves the combs where they are. -/
theorem SameUnits.mapStrands (s : State) (f : Strand → Strand) : SameUnits s (s.mapStrands f) where
  combs resident := ⟨_, State.comb?_mapCombs (F := fun _ k => k.mapStrands f) (f := fun k => { k with strands := Tab.mapVals {} (fun _ st => f st) k.strands }) (fun _ _ => rfl) resident, rfl⟩

theorem SameUnits.onL1s (s : State) (die : Nat) (f : Tab (Option Copy) → Tab (Option Copy)) : SameUnits s (s.onL1s die f) where
  combs resident := ⟨_, State.comb?_mapCores (F := fun c k => if dieOf c = die then { k with l1 := f k.l1, constant := f k.constant } else k) (fun c k => by split <;> rfl) resident, rfl⟩

/-- A store at a home leaves them but for the bytes and the poison. -/
theorem SameUnits.applyLine (s : State) (line : Nat) (mask : Dbl) (data : LineBits) : SameUnits s (s.applyLine line mask data) := by
  generalize applied : s.applyLine line mask data = t
  unfold State.applyLine at applied
  extract_lets n mine die gt old through holds filled stored held at applied
  have fills : SameHome s filled := by
    unfold filled
    split
    · exact .refl s
    · exact .fillL2 s line
  have holds : SameHome ((stored.onL1s die fun t => updateCopies t line gt mask data).clearResv line) held := .holdHost ..
  have stores : SameUnits filled ((stored.onL1s die fun t => updateCopies t line gt mask data).clearResv line) :=
    (SameUnits.trans (t := stored) {} (.onL1s ..)).trans (.mapStrands ..)
  have ends : SameUnits held t := by
    rw [← applied]
    split
    · exact (SameHome.lineCleaned ..).toSameUnits
    · exact {}
  exact ((fills.toSameUnits.trans stores).trans holds.toSameUnits).trans ends

theorem SameUnits.homeStore (s : State) (pa n v : Nat) : SameUnits s (s.homeStore pa n v) :=
  (SameHome.atHome s _).toSameUnits.trans (.applyLine ..)

/-- It writes the bytes of its mask and no other. -/
theorem State.applyLine_byte (s : State) (line : Nat) (mask : Dbl) (data : LineBits) (a : Nat) :
    Mem.byte (s.applyLine line mask data).memory.mem a =
      if line ≤ a ∧ a < line + 64 ∧ mask.getLsbD (a - line) = true then data.extractLsb' (8 * (a - line)) 8 else Mem.byte s.memory.mem a := by
  have byte : BitVec.ofNat 8 (data.toNat / 256 ^ (a - line)) = data.extractLsb' (8 * (a - line)) 8 := by
    rw [BitVec.extractLsb', Nat.shiftRight_eq_div_pow, Nat.pow_mul]
  rw [State.applyLine_mem, Mem.byte_writeMasked, byte]
  rfl

/-! Answers (R379, R381, R383). -/

/-- A request of the fabric answered by `a`, which leaves at `when_`. -/
def Answers (t s : State) (req : FabRequest) (a : FabAnswer) (when_ : Nat) : Prop :=
  let r : FabResponse := { target := self, seq := req.seq, epoch := s.fabric.epoch, answer := a }
  if req.src = self then t.fabric.acks = s.fabric.acks ++ [(when_, r)] else ∃ port via, t.fabric.outbox = s.fabric.outbox ++ [.packet req.src port (.response r via) when_]

section
variable {s u : State} {req : FabRequest}

theorem State.sendResponse_answers (s : State) (req : FabRequest) (a : FabAnswer) (when_ : Nat) : Answers (s.sendResponse req.src req.seq a when_) s req a when_ := by
  unfold Answers State.sendResponse
  by_cases own : req.src = self
  · simp only [own, if_true]
  · simp only [own, if_false]
    exact ⟨_, _, rfl⟩

theorem State.sendResponse_memory (s : State) (src seq : Nat) (a : FabAnswer) (when_ : Nat) : (s.sendResponse src seq a when_).memory = s.memory := by
  unfold State.sendResponse
  dsimp only
  split <;> rfl

theorem State.keepAnswer_memory (s : State) (req : FabRequest) (a : FabAnswer) : (s.keepAnswer req a).memory = s.memory := by
  unfold State.keepAnswer
  split <;> rfl

/-- The answer that the request is given once it has been executed in `u`. -/
theorem State.answered (same : u.fabric = s.fabric) (a : FabAnswer) (when_ : Nat) :
    Answers ((u.keepAnswer req a).sendResponse req.src req.seq a when_) s req a when_ ∧
      ((u.keepAnswer req a).sendResponse req.src req.seq a when_).memory = u.memory := by
  have kept : (u.keepAnswer req a).fabric.acks = s.fabric.acks ∧ (u.keepAnswer req a).fabric.outbox = s.fabric.outbox ∧ (u.keepAnswer req a).fabric.epoch = s.fabric.epoch := by
    unfold State.keepAnswer
    split <;> exact ⟨(congrArg Fabric.acks same :), (congrArg Fabric.outbox same :), (congrArg Fabric.epoch same :)⟩
  obtain ⟨acks, outbox, epoch⟩ := kept
  have answers := State.sendResponse_answers (u.keepAnswer req a) req a when_
  refine ⟨?_, (State.sendResponse_memory ..).trans (State.keepAnswer_memory ..)⟩
  unfold Answers at answers ⊢
  rwa [acks, outbox, epoch] at answers

/-- A request executed for the first time. -/
theorem exec_fabricRequestArrival {a : FabAnswer} {when_ : Nat} (fresh : (s.source req.src).tooOld req.seq = false) (new : (s.source req.src).saved req = none)
    (runs : s.execRequest req = .answer a when_ u) : exec (.fabricRequestArrival req) s = .next ((u.keepAnswer req a).sendResponse req.src req.seq a when_) := by
  change next (if _ then s else _) = _
  rw [fresh, if_neg Bool.false_ne_true, new, runs]
  rfl

theorem fabricRequestArrival_old (old : (s.source req.src).tooOld req.seq = true) : exec (.fabricRequestArrival req) s = .next s := by
  change next (if _ then s else _) = _
  rw [old, if_pos rfl]
  rfl

/-- Numbers below H (R381). -/
theorem FabSource.tooOld_below {h k : Nat} (below : k < h) (range : h < 2 ^ 31) : ({ high := some h } : FabSource).tooOld k = decide (255 < h - k) := by
  have up : (k + 2 ^ 32 - h) % 2 ^ 32 = 2 ^ 32 - (h - k) := by rw [Nat.mod_eq_of_lt (by omega)]; omega
  have down : (h + 2 ^ 32 - k) % 2 ^ 32 = h - k := by rw [show h + 2 ^ 32 - k = h - k + 2 ^ 32 by omega, Nat.add_mod_right, Nat.mod_eq_of_lt (by omega)]
  have above : ({ high := some h } : FabSource).above k = false := by
    simp only [FabSource.above, up]
    exact decide_eq_false (by omega)
  simp only [FabSource.tooOld, above, down, Bool.not_false, Bool.true_and]

theorem fabricRequestArrival_again {a : FabAnswer} (fresh : (s.source req.src).tooOld req.seq = false) (kind : req.kind ≠ .read)
    (found : (s.source req.src).done.find? (fun x => x.1 == req.seq) = some (req.seq, a)) :
    Becomes (.fabricRequestArrival req) s fun t => t.memory = s.memory ∧ Answers t s req a (s.answerTime req) := by
  have saved : (s.source req.src).saved req = some a := by
    unfold FabSource.saved
    split
    · next h => exact absurd h kind
    · rw [found]; rfl
  refine ⟨s.sendResponse req.src req.seq a (s.answerTime req), ?_, State.sendResponse_memory .., State.sendResponse_answers ..⟩
  change next (if _ then s else _) = _
  rw [fresh, if_neg Bool.false_ne_true, saved]
  rfl

/-- What the target does with a request of memory (R378). -/
def State.execMemory (s : State) (p : FabRequest) : Served :=
  if !(s.window p.win).admits p then .answer .refusal s.clock.gt s
  else match s.agentPa (s.window p.win).tenant (fabAccess p.kind) ((s.window p.win).vbase * 65536 + p.off) with
    | .refused => .answer .refusal s.clock.gt s
    | .waits => .waits s
    | .queued c pa => .answer .retry s.clock.gt (s.windowFault (s.window p.win).tenant
        { va := (s.window p.win).vbase * 65536 + p.off, pa := pa, cause := c, acc := s.accCode (fabAccess p.kind) c pa, origin := 4 })
    | .ok pa =>
      if !isDevice pa then .answer .refusal s.clock.gt s
      else if s.homeWaits (lineOf pa) then .waits (s.fetchLine (lineOf pa))
      else (s.remember (agentTlb 0) (s.window p.win).tenant ((s.window p.win).vbase * 65536 + p.off)).performAt p pa

/-- Every request but a message is one of memory. -/
theorem State.execRequest_memory {s : State} {req : FabRequest} (kind : ∀ n d, req.kind ≠ .message n d) : s.execRequest req = s.execMemory req := by
  unfold State.execRequest State.execMemory
  cases h : req.kind with
  | message n d => exact absurd h (kind n d)
  | _ => rfl

theorem fabricRequestArrival_refused (fresh : (s.source req.src).tooOld req.seq = false) (kind : ∀ n d, req.kind ≠ .message n d)
    (new : (s.source req.src).saved req = none) (outside : (s.window req.win).admits req = false) :
    Becomes (.fabricRequestArrival req) s fun t => t.memory = s.memory ∧ Answers t s req .refusal s.clock.gt := by
  have runs : s.execRequest req = .answer .refusal s.clock.gt s := by
    rw [State.execRequest_memory kind, State.execMemory, if_pos (by simp [outside])]
  obtain ⟨answers, memory⟩ := State.answered (req := req) (rfl : s.fabric = s.fabric) .refusal s.clock.gt
  exact ⟨_, exec_fabricRequestArrival fresh new runs, memory, answers⟩

section
variable {pa : Nat} (fresh : (s.source req.src).tooOld req.seq = false) (admitted : (s.window req.win).admits req = true) (device : isDevice pa = true)
  (ready : s.homeWaits (lineOf pa) = false)
include fresh admitted device ready

/-- The state in which a request acts at its home slice. -/
def State.atTarget (s : State) (req : FabRequest) (pa : Nat) : State :=
  ((s.remember (agentTlb 0) (s.window req.win).tenant ((s.window req.win).vbase * 65536 + req.off)).atHome (lineOf pa)).countAccess (lineOf pa)

omit fresh admitted device ready in
theorem SameHome.atTarget (s : State) (req : FabRequest) (pa : Nat) : SameHome s (s.atTarget req pa) :=
  ((SameHome.remember ..).trans (.atHome ..)).trans (.countAccess ..)

omit fresh in
/-- A request of memory that the window admits reaches its home. -/
theorem State.execRequest_admitted (kind : ∀ n d, req.kind ≠ .message n d)
    (found : s.translate (agentTlb 0) (s.window req.win).tenant false (fabAccess req.kind) ((s.window req.win).vbase * 65536 + req.off) = .ok pa) :
    s.execRequest req = (s.remember (agentTlb 0) (s.window req.win).tenant ((s.window req.win).vbase * 65536 + req.off)).performAt req pa := by
  rw [State.execRequest_memory kind, State.execMemory, if_neg (by simp [admitted]), State.agentPa, found]
  change (if _ then _ else if _ then _ else _) = _
  rw [if_neg (by simp [device]), if_neg (by simp [ready])]

theorem fabricRequestArrival_read (kind : req.kind = .read)
    (found : s.translate (agentTlb 0) (s.window req.win).tenant false .read ((s.window req.win).vbase * 65536 + req.off) = .ok pa) :
    Becomes (.fabricRequestArrival req) s fun t => t.memory.mem = s.memory.mem ∧
      Answers t s req (.data (Mem.line s.memory.mem (lineOf pa)) (s.linePoison (lineOf pa))) s.clock.gt := by
  have home := SameHome.atTarget s req pa
  have runs : s.execRequest req = .answer (.data (Mem.line s.memory.mem (lineOf pa)) (s.linePoison (lineOf pa))) s.clock.gt (s.atTarget req pa) := by
    rw [State.execRequest_admitted admitted device ready (by simp [kind]) (by rw [kind]; exact found), State.performAt]
    simp only [kind]
    change Served.answer (.data (Mem.line (s.atTarget req pa).memory.mem (lineOf pa)) ((s.atTarget req pa).linePoison (lineOf pa))) _ (s.atTarget req pa) = _
    rw [State.linePoison, home.mem, home.poison, (SameHome.remember ..).clock]
    rfl
  obtain ⟨answers, memory⟩ := State.answered (req := req) home.fabric _ s.clock.gt
  exact ⟨_, exec_fabricRequestArrival fresh (by rw [FabSource.saved, kind]) runs, (congrArg Memory.mem memory).trans home.mem, answers⟩

theorem fabricRequestArrival_write {mask : Dbl} {data : LineBits} (kind : req.kind = .write mask data false)
    (found : s.translate (agentTlb 0) (s.window req.win).tenant false .write ((s.window req.win).vbase * 65536 + req.off) = .ok pa) (new : (s.source req.src).saved req = none) :
    Becomes (.fabricRequestArrival req) s fun t =>
      (∀ j, j < 64 → Mem.byte t.memory.mem (lineOf pa + j) = if mask.getLsbD j then data.extractLsb' (8 * j) 8 else Mem.byte s.memory.mem (lineOf pa + j)) ∧
      (∀ a, a < lineOf pa ∨ lineOf pa + 64 ≤ a → Mem.byte t.memory.mem a = Mem.byte s.memory.mem a) ∧
      ∃ when_, s.clock.gt < when_ ∧ Answers t s req .ack when_ := by
  have home := SameHome.atTarget s req pa
  let u := (s.atTarget req pa).applyLine (lineOf pa) mask data
  have stores : SameUnits (s.atTarget req pa) u := .applyLine ..
  have runs : s.execRequest req = .answer .ack (u.completion (lineOf pa) + 1) u := by
    rw [State.execRequest_admitted admitted device ready (by simp [kind]) (by rw [kind]; exact found), State.performAt]
    simp only [kind]
    rfl
  obtain ⟨answers, memory⟩ := State.answered (req := req) (stores.fabric.trans home.fabric) .ack (u.completion (lineOf pa) + 1)
  refine ⟨_, exec_fabricRequestArrival fresh new runs, fun j hj => ?_, fun a outside => ?_, _, ?_, answers⟩
  · rw [memory, State.applyLine_byte, home.mem, Nat.add_sub_cancel_left]
    by_cases set : mask.getLsbD j = true
    · rw [if_pos ⟨by omega, by omega, set⟩, if_pos set]
    · rw [if_neg (fun h => set h.2.2), if_neg set]
  · rw [memory, State.applyLine_byte, home.mem, if_neg (by omega)]
  · have late : s.clock.gt ≤ u.completion (lineOf pa) := by
      rw [State.completion, stores.clock, home.clock]
      exact Nat.le_max_left ..
    exact Nat.lt_succ_of_le late

end

end

/-! Messages (R450). -/

/-- A cell released changes no byte and no sequence number. -/
theorem State.release_keeps (s : State) (reg : Nat) (p : Parked) : (s.release reg p).memory = s.memory ∧ ((s.release reg p).notifyOf reg).seq = (s.notifyOf reg).seq := by
  unfold State.release
  split
  · refine ⟨rfl, ?_⟩
    have entered : (s.enterParked reg p).notifyOf reg = (s.onNotify reg fun n => { n with parked := n.parked.filter fun x => x.order != p.order }).notifyOf reg := rfl
    rw [entered, State.notifyOf_onNotify, if_pos rfl]
  · exact ⟨rfl, by rw [State.notifyOf_onNotify, if_pos rfl]⟩

theorem State.bump_keeps (s : State) (reg : Nat) : (s.bump reg).memory = s.memory ∧ ((s.bump reg).notifyOf reg).seq = (s.notifyOf reg).seq + 1 := by
  have released : ∀ (l : List Parked) (s : State), (l.foldl (fun s p => s.release reg p) s).memory = s.memory ∧
      ((l.foldl (fun s p => s.release reg p) s).notifyOf reg).seq = (s.notifyOf reg).seq := by
    intro l
    induction l with
    | nil => exact fun _ => ⟨rfl, rfl⟩
    | cons p l ih =>
      intro s
      obtain ⟨memory, seq⟩ := s.release_keeps reg p
      exact ⟨(ih _).1.trans memory, (ih _).2.trans seq⟩
  obtain ⟨memory, seq⟩ := released ((s.notifyOf reg).parked.filter fun p => !p.released) (s.onNotify reg fun n => { n with seq := n.seq + 1 })
  exact ⟨memory, seq.trans (by rw [State.notifyOf_onNotify, if_pos rfl])⟩

/-- A read depends on its own bytes only. -/
theorem Mem.read_congr {m m' : Sys2Proof.Mem} : ∀ {n a : Nat}, (∀ i < n, Mem.byte m' (a + i) = Mem.byte m (a + i)) → Mem.read m' a n = Mem.read m a n
  | 0, _, _ => rfl
  | n + 1, a, same => by
    have first : Mem.byte m' a = Mem.byte m a := same 0 (Nat.succ_pos n)
    have rest : Mem.read m' (a + 1) n = Mem.read m (a + 1) n := Mem.read_congr fun i hi => by
      simpa only [Nat.add_assoc, Nat.add_comm 1 i] using same (i + 1) (Nat.succ_lt_succ hi)
    rw [Mem.read, Mem.read, first, rest]

/-- A store leaves what is read elsewhere. -/
theorem State.read_homeStore_ne {s : State} {pa n v b k : Nat} (hn : pa % 64 + n ≤ 64) (apart : b + k ≤ pa ∨ pa + n ≤ b) :
    Mem.read (s.homeStore pa n v).memory.mem b k = Mem.read s.memory.mem b k := by
  refine Mem.read_congr fun i hi => ?_
  rw [State.homeStore_byte hn, if_neg (by omega)]

section
variable {s : State} {queue src : Nat} {tenant : BitVec 16} {entry : LineBits}

theorem placeMessage_refused (refused : (s.drone queue).refuses tenant = true) : s.placeMessage queue src tenant entry = .ok (0x80000002, s) := by
  unfold State.placeMessage
  simp only [refused, if_true]

theorem exec_fabricMessageReceive {r : Word × State} (placed : s.placeMessage queue src tenant entry = .ok r) :
    exec (.fabricMessageReceive queue src tenant entry) s = .next r.2 := by
  change next (match s.placeMessage queue src tenant entry with | .ok r => r.2 | .error s => s.again false) = _
  rw [placed]
  rfl

section
variable {ring : Nat} (taken : (s.drone queue).refuses tenant = false) (place : s.agentPa (s.drone queue).tenant .write (s.drone queue).base = .ok ring)
  (ready : s.homeWaits (lineOf ring) = false)
include taken place ready

/-- The state in which the head and the tail of a receive ring are read. -/
def State.atRing (s : State) (queue ring : Nat) : State :=
  (s.remember (agentTlb 0) (s.drone queue).tenant (s.drone queue).base).atHome (lineOf ring)

omit taken place ready in
theorem SameHome.atRing (s : State) (queue ring : Nat) : SameHome s (s.atRing queue ring) := (SameHome.remember ..).trans (.atHome ..)

theorem fabricMessageReceive_full (full : (Mem.read s.memory.mem (ring + 8) 8 + 2 ^ 64 - Mem.read s.memory.mem ring 8) % 2 ^ 64 = 2 ^ (s.drone queue).logcap) :
    Becomes (.fabricMessageReceive queue src tenant entry) s fun t => t.memory.mem = s.memory.mem := by
  have home := SameHome.atRing s queue ring
  have placed : s.placeMessage queue src tenant entry = .ok (0x80000001, s.atRing queue ring) := by
    unfold State.placeMessage
    have mem := home.mem
    unfold State.atRing at mem
    simp only [-Nat.reducePow, taken, place, ready, mem, full, Bool.false_eq_true, if_false, if_true]
    rfl
  exact ⟨_, exec_fabricMessageReceive placed, home.mem⟩

theorem fabricMessageReceive_placed {a b : Nat} (room : (Mem.read s.memory.mem (ring + 8) 8 + 2 ^ 64 - Mem.read s.memory.mem ring 8) % 2 ^ 64 ≠ 2 ^ (s.drone queue).logcap)
    (first : s.agentPa (s.drone queue).tenant .write ((s.drone queue).base + 64 + 128 * (Mem.read s.memory.mem (ring + 8) 8 % 2 ^ (s.drone queue).logcap)) = .ok a)
    (second : s.agentPa (s.drone queue).tenant .write ((s.drone queue).base + 64 + 128 * (Mem.read s.memory.mem (ring + 8) 8 % 2 ^ (s.drone queue).logcap) + 64) = .ok b)
    (readyA : (s.atRing queue ring).homeWaits (lineOf a) = false) (readyB : (s.atRing queue ring).homeWaits (lineOf b) = false)
    (alignedA : a % 64 = 0) (alignedB : b % 64 = 0) (aligned : ring % 64 = 0) (apart : a ≠ b) (apartA : a ≠ ring) (apartB : b ≠ ring) :
    Becomes (.fabricMessageReceive queue src tenant entry) s fun t =>
      Mem.read t.memory.mem a 64 = entry.toNat ∧ Mem.read t.memory.mem b 4 = src % 65536 + tenant.toNat * 65536 ∧
      Mem.read t.memory.mem (ring + 8) 8 = (Mem.read s.memory.mem (ring + 8) 8 + 1) % 2 ^ 64 ∧ Mem.read t.memory.mem ring 8 = Mem.read s.memory.mem ring 8 ∧
      (t.notifyOf (s.drone queue).nreg).seq = (s.notifyOf (s.drone queue).nreg).seq + 1 := by
  have home := SameHome.atRing s queue ring
  let tail := Mem.read s.memory.mem (ring + 8) 8
  let stored := ((s.atRing queue ring).homeStore a 64 entry.toNat).homeStore b 4 (src % 65536 + tenant.toNat * 65536)
  have placed : s.placeMessage queue src tenant entry = .ok (0, (stored.homeStore (ring + 8) 8 ((tail + 1) % 2 ^ 64)).bump (s.drone queue).nreg) := by
    unfold State.placeMessage
    have mem := home.mem
    unfold State.atRing at mem readyA readyB
    simp only [-Nat.reducePow, taken, place, ready, mem, room, first, second, readyA, readyB, Bool.or_self, Bool.false_eq_true, if_false]
    rfl
  have bound : src % 65536 + tenant.toNat * 65536 < 256 ^ 4 := by
    have := tenant.isLt
    omega
  have units : SameUnits s (stored.homeStore (ring + 8) 8 ((tail + 1) % 2 ^ 64)) :=
    ((home.toSameUnits.trans (.homeStore ..)).trans (.homeStore ..)).trans (.homeStore ..)
  obtain ⟨memory, seq⟩ := (stored.homeStore (ring + 8) 8 ((tail + 1) % 2 ^ 64)).bump_keeps (s.drone queue).nreg
  refine ⟨_, exec_fabricMessageReceive placed, ?_, ?_, ?_, ?_, ?_⟩
  · rw [memory, State.read_homeStore_ne (by omega) (by omega), State.read_homeStore_ne (by omega) (by omega), State.homeStore_read (by omega)]
    exact Nat.mod_eq_of_lt (entry.isLt.trans_eq (by rw [show (512 : Nat) = 8 * 64 from rfl, Nat.pow_mul]))
  · rw [memory, State.read_homeStore_ne (by omega) (by omega), State.homeStore_read (by omega)]
    exact Nat.mod_eq_of_lt bound
  · rw [memory, State.homeStore_read (by omega)]
    exact Nat.mod_eq_of_lt (Nat.mod_lt _ (by decide))
  · rw [memory, State.read_homeStore_ne (by omega) (by omega), State.read_homeStore_ne (by omega) (by omega),
      State.read_homeStore_ne (by omega) (by omega), home.mem]
  · rw [seq, State.notifyOf, units.notify]
    rfl

end

end

/-! O53. -/

/-- Settles O53: what is kept is answered, what the window does not admit refused, and the rest performed at its home; a message is stored in its ring by three stores of different lines. -/
theorem fabricRequestsServed : Obligations.FabricRequestsServed := by
  unfold Obligations.FabricRequestsServed
  refine ⟨fun s req => fabricRequestArrival_old, fun h k => FabSource.tooOld_below, fun s req fresh => ⟨fun a => fabricRequestArrival_again fresh, fabricRequestArrival_refused fresh,
      fun pa admitted device ready => ⟨fabricRequestArrival_read fresh admitted device ready, fun mask data => fabricRequestArrival_write fresh admitted device ready⟩⟩,
    fun s queue src tenant entry => ⟨fun refused => ⟨exec_fabricMessageReceive (placeMessage_refused refused), placeMessage_refused refused⟩,
      fun ring a b taken place ready => ⟨fabricMessageReceive_full taken place ready, fun room first second readyA readyB alignedA alignedB aligned apart apartA apartB => ?_⟩⟩⟩
  obtain ⟨t, ht, read, source, tail, head, _⟩ := fabricMessageReceive_placed taken place ready room first second readyA readyB alignedA alignedB aligned apart apartA apartB
  exact ⟨t, ht, read, source, tail, head⟩

end Sys2Proof.Machine
end

section
/-! Drone entries, messages and token buckets: the settlement of O42. -/

namespace Sys2Proof
open Sys2Proof

/-- A masked write of one byte. -/
theorem Mem.writeMasked_single : ∀ {n k : Nat} (m : Mem) (a v : Nat), k < n → Mem.writeMasked m a (2 ^ k) (v * 256 ^ k) n = Mem.setByte m (a + k) (BitVec.ofNat 8 v)
  | n + 1, 0, m, a, v, _ => by
    have none : ∀ (n : Nat) (m : Mem) (a v : Nat), Mem.writeMasked m a 0 v n = m := by
      intro n
      induction n with
      | zero => exact fun _ _ _ => rfl
      | succ n ih => exact fun m a v => ih m (a + 1) (v / 256)
    simp [Mem.writeMasked, none]
  | n + 1, k + 1, m, a, v, h => by
    have even : 2 ^ (k + 1) % 2 ≠ 1 := by omega
    rw [Mem.writeMasked, if_neg even, Nat.pow_succ, Nat.mul_div_cancel _ (by decide), Nat.pow_succ, ← Nat.mul_assoc, Nat.mul_div_cancel _ (by decide),
      Mem.writeMasked_single m (a + 1) v (Nat.lt_of_succ_lt_succ h), Nat.add_assoc, Nat.add_comm 1 k]

end Sys2Proof

namespace Sys2Proof.Machine
open Sys2Proof Sys2Proof.Safety

/-! Bytes written at homes. -/

/-- One byte written at a home. -/
theorem State.homeWrite_one (s : State) (a : Nat) (b : Byte) : (s.homeWrite a 1 b.toNat).memory.mem = Mem.setByte s.memory.mem a b := by
  have place : lineOf a + a % 64 = a := by unfold lineOf; omega
  have small : a % 64 < 64 := Nat.mod_lt _ (by decide)
  have mask : (lineWrite a 1 b.toNat).1.toNat = 2 ^ (a % 64) := by
    rw [lineWrite, BitVec.toNat_ofNat, pow_one, Nat.add_sub_cancel (n := 1) (m := 1), one_mul]
    exact Nat.mod_eq_of_lt (Nat.pow_lt_pow_right (by decide) small)
  have data : (lineWrite a 1 b.toNat).2.toNat = b.toNat * 256 ^ (a % 64) := by
    have width : b.toNat < 2 ^ (8 * 1) := b.isLt
    rw [lineWrite, BitVec.toNat_ofNat, Nat.mod_eq_of_lt width, Nat.pow_mul]
    refine Nat.mod_eq_of_lt ?_
    calc b.toNat * (2 ^ 8) ^ (a % 64) < 256 * 256 ^ (a % 64) := Nat.mul_lt_mul_of_pos_right width (Nat.pow_pos (by decide))
      _ = 256 ^ (a % 64 + 1) := (Nat.pow_succ' ..).symm
      _ ≤ 256 ^ 64 := Nat.pow_le_pow_right (by decide) small
      _ = 2 ^ 512 := (Nat.pow_mul 2 8 64).symm
  rw [State.homeWrite, State.applyLine_mem, mask, data, Mem.writeMasked_single _ _ _ small, place, BitVec.ofNat_toNat, BitVec.setWidth_eq]

theorem State.homeCells_mem : ∀ (l : List (Nat × Byte)) (s : State), (s.homeCells l).memory.mem = Mem.writeCells s.memory.mem l
  | [], _ => rfl
  | (a, b) :: l, s => by rw [State.homeCells, State.homeCells_mem l, State.homeWrite_one, Mem.writeCells]

theorem SameUnits.homeCells : ∀ (l : List (Nat × Byte)) (s : State), SameUnits s (s.homeCells l)
  | [], _ => {}
  | _ :: l, _ => (SameUnits.applyLine ..).trans (SameUnits.homeCells l _)

theorem SameHome.foldl {α : Type} {f : State → α → State} (one : ∀ s x, SameHome s (f s x)) : ∀ (l : List α) (s : State), SameHome s (l.foldl f s)
  | [], s => .refl s
  | x :: l, s => (one s x).trans (SameHome.foldl one l (f s x))

/-! Lines written back (R349). -/

/-- A dirty line written back. -/
def State.cleanLine (s : State) (l : Nat) : State := if s.isDirty l then s.lineCleaned l else s

theorem SameHome.cleanLine (s : State) (l : Nat) : SameHome s (s.cleanLine l) := by
  unfold State.cleanLine
  split
  · exact .lineCleaned s l
  · exact .refl s

theorem State.cleanLine_clean (s : State) (l x : Nat) : (s.cleanLine l).isDirty x = (s.isDirty x && lineNo l != lineNo x) := by
  by_cases same : lineNo l = lineNo x
  · have clean : (s.cleanLine l).isDirty x = false := by
      unfold State.cleanLine
      split
      · change (Tab.get none (Tab.del s.memory.dirty (lineNo l)) (lineNo x)).isSome = false
        rw [same, Tab.get_del_same]
        rfl
      · next dirty =>
        rw [State.isDirty, ← same]
        exact Bool.eq_false_iff.2 dirty
    rw [clean, bne_eq_false_iff_eq.2 same, Bool.and_false]
  · rw [bne_iff_ne.2 same, Bool.and_true]
    unfold State.cleanLine
    split
    · change (Tab.get none (Tab.del s.memory.dirty (lineNo l)) (lineNo x)).isSome = _
      rw [Tab.get_del_ne _ same]
      rfl
    · rfl

/-- Lines written back are clean. -/
theorem State.foldl_cleanLine {x : Nat} {l : List Nat} (s : State) (listed : s.isDirty x = true → x ∈ l) : (l.foldl State.cleanLine s).isDirty x = false := by
  induction l generalizing s with
  | nil => exact Bool.eq_false_iff.2 fun dirty => absurd (listed dirty) List.not_mem_nil
  | cons y l ih =>
    refine ih _ fun dirty => ?_
    rw [State.cleanLine_clean, Bool.and_eq_true, bne_iff_ne] at dirty
    exact (List.mem_cons.1 (listed dirty.1)).resolve_left fun same => dirty.2 (by rw [same])

/-! Entries completed (R438, R449). -/

section
variable {s : State} {queue seq : Nat} {status moved : Word} {x : DroneEntry} {cells : List (Nat × Byte)}

/-- The lines that bytes lie in. -/
def cellLines (cells : List (Nat × Byte)) : List Nat := (cells.map fun c => lineOf c.1).dedup

/-- The state once a completed entry's bytes are written and written back, and it has left its queue. -/
def State.completed (s : State) (queue seq : Nat) (cells : List (Nat × Byte)) : State :=
  ((cellLines cells).foldl State.cleanLine (((cellLines cells).foldl State.atHome s).homeCells cells)).onDrone queue
    fun q => { q with open_ := q.open_.filter fun y => y.seq != seq }

theorem droneEntryComplete_record (found : (s.drone queue).open_.find? (fun x => x.seq == seq) = some x) (bound : (s.drone queue).orphan = false)
    (formed : bits x.entry.toNat 511 320 = 0) (silent : x.entry.getLsbD 15 = false)
    (place : s.agentCells x.tenant (cellsOf (bits x.entry.toNat 319 256) 16 (bits x.entry.toNat 63 32 + status.toNat * 2 ^ 32 + moved.toNat * 2 ^ 64)) = some cells)
    (ready : ∀ l ∈ cellLines cells, s.agentReady l = true) (settled : ∀ l ∈ cellLines cells, ((cellLines cells).foldl State.atHome s).settled l = true) :
    exec (.droneEntryComplete queue seq status moved []) s = .next (let t := s.completed queue seq cells
      if (s.drone queue).ien then { t with host := { t.host with msix := (16 + queue) :: t.host.msix } } else t) := by
  have whole : x.malformed = false := by simp [DroneEntry.malformed, formed]
  have bar : bit x.entry.toNat 15 = false := by rw [bit_toNat, silent]
  have none : (cellLines cells).filter (fun l => !s.agentReady l) = [] := List.filter_eq_nil_iff.2 fun l h => by simp [ready l h]
  have all : ((cellLines cells).any fun l => !((cellLines cells).foldl State.atHome s).settled l) = false := List.any_eq_false.2 fun l h => by simp [settled l h]
  unfold cellLines at none all
  change execDroneEntryComplete queue seq status moved [] s = _
  unfold execDroneEntryComplete
  simp only [found, bound, whole, DroneEntry.record, List.filter_nil, ite_self, List.nil_append, Bool.false_eq_true, if_false, place, none, all, List.isEmpty_nil, Bool.not_true,
    State.droneCount, bar, Bool.not_false, if_true]
  rfl

end

/-! Buckets (R367, R369). -/

theorem writeMgmt_bwctl {s : State} {core : Nat} (v : Nat) (off : (s.core core).shares.en = false) (later : (s.core core).shares.filled < s.clock.cycle / 1024) :
    let h := ((s.writeMgmt (.bwctl core) v).core core).shares
    h.buckets = [] ∧ h.filled = s.clock.cycle / 1024 ∧ h.en = bit v 63 ∧ h.defw = bits v 7 0 ∧ h.bwt = (s.core core).shares.bwt := by
  intro h
  have written : h = { (s.core core).shares with buckets := [], filled := s.clock.cycle / 1024, en := bit v 63, defw := bits v 7 0 } := by
    have idle : (s.core core).shares.idlePeriod (s.clock.cycle / 1024) = { (s.core core).shares with buckets := [], filled := s.clock.cycle / 1024 } := by
      simp [Shares.idlePeriod, off, later]
    change ((s.onCore core _).core core).shares = _
    rw [State.core_onCore]
    dsimp only
    rw [idle]
  rw [written]
  exact ⟨rfl, rfl, rfl, rfl, rfl⟩

/-- Where nothing waits for a target and no comb is resident, nothing goes on. -/
theorem State.portsOn_idle {s : State} {core : Nat} (quiet : ∀ x ∈ s.fabric.targets, x.2.out = []) (empty : (s.core core).combs = []) : s.portsOn core = s := by
  have out (v : Nat) : (s.target v).out = [] := by
    by_cases default : s.target v = {}
    · rw [default]
    · exact quiet _ (Tab.mem_of_get default)
  have pumps : ∀ l : List Nat, l.foldl State.pump s = s := by
    intro l
    induction l with
    | nil => rfl
    | cons v l ih => rw [List.foldl_cons, State.pump_empty (out v), ih]
  unfold State.portsOn
  rw [pumps]
  simp only [empty, List.foldl_nil]

theorem bandwidthRefill_due {s : State} {core : Nat} (on : (s.core core).shares.en = true) (later : (s.core core).shares.filled < s.clock.cycle / 1024)
    (quiet : ∀ x ∈ s.fabric.targets, x.2.out = []) (empty : (s.core core).combs = []) :
    Becomes (.bandwidthRefill core) s fun t => (t.core core).shares.filled = s.clock.cycle / 1024 ∧ (t.core core).shares.buckets = (s.core core).shares.grants (s.activeBuckets core) := by
  have due : s.refillDue core = true := by simp [State.refillDue, on, later]
  refine ⟨_, rfl, ?_⟩
  simp only [due, Bool.not_true, Bool.false_eq_true, if_false]
  rw [State.portsOn_idle (by exact quiet) (by rw [State.core_onCore]; exact empty), State.core_onCore]
  exact ⟨rfl, rfl⟩

/-! O42. -/

/-- Settles O42: a completion is the bytes of its record written at homes and written back, a message the three stores of its ring, and the buckets by their period. -/
theorem droneEntriesAndTokens : Obligations.DroneEntriesAndTokens := by
  unfold Obligations.DroneEntriesAndTokens
  refine ⟨fun s queue seq status moved x cells found bound formed silent place ready settled => ?_,
    fun s queue src tenant entry ring a b taken place first second readyR readyA readyB aligned alignedA alignedB apartA apartB apart room => ?_,
    fun s core v => writeMgmt_bwctl v, fun s core => bandwidthRefill_due⟩
  · have home : SameHome s ((cellLines cells).foldl State.atHome s) := .foldl SameHome.atHome _ _
    have written := SameUnits.homeCells cells ((cellLines cells).foldl State.atHome s)
    have cleaned := SameHome.foldl SameHome.cleanLine (cellLines cells) (((cellLines cells).foldl State.atHome s).homeCells cells)
    have units := (home.toSameUnits.trans written).trans cleaned.toSameUnits
    have mem : (s.completed queue seq cells).memory.mem = Mem.writeCells s.memory.mem cells := by
      refine cleaned.mem.trans ?_
      rw [State.homeCells_mem, home.mem]
    have left : ((s.completed queue seq cells).drone queue).open_ = (s.drone queue).open_.filter (fun y => y.seq != seq) := by
      refine (congrArg DroneQueue.open_ (Tab.get_put_same ..)).trans ?_
      rw [State.drone, units.service]
      rfl
    have clean : ∀ c ∈ cells, (s.completed queue seq cells).isDirty (lineOf c.1) = false := fun c listed =>
      State.foldl_cleanLine _ fun _ => (List.mem_dedup.2 (List.mem_map_of_mem listed))
    refine ⟨_, droneEntryComplete_record found bound formed silent place ready settled, ?_⟩
    cases ien : (s.drone queue).ien with
    | true => exact ⟨mem, left, clean, congrArg (fun h : HostIf => (16 + queue) :: h.msix) units.host⟩
    | false => exact ⟨mem, left, clean, congrArg HostIf.msix units.host⟩
  · obtain ⟨t, ht, read, source, tail, _, seq⟩ := fabricMessageReceive_placed (s := s) (queue := queue) (src := src) (tenant := tenant) (entry := entry) (ring := ring) (a := a) (b := b) taken place readyR room first second readyA readyB alignedA alignedB aligned apart apartA.symm apartB.symm
    exact ⟨t, ht, read, source, tail, seq⟩

end Sys2Proof.Machine
end

section
/-! Management commands, the removal of cores, bring-up and the life counters: the settlement of O58. -/

namespace Sys2Proof.Machine
open Sys2Proof Sys2Proof.Safety

/-! SUMMARY (R443). -/

/-- Where an item of the summary may lie after the first two: in one line of the buffer. -/
def SummaryPlace (x : Nat × Nat × Nat) : Prop := 16 ≤ x.1 ∧ x.1 % 64 + x.2.1 ≤ 64 ∧ x.1 + x.2.1 ≤ 17536

/-- The items of the summary after the first two. -/
def State.summaryRest (s : State) : List (Nat × Nat × Nat) := s.summaryItems.drop 2

theorem State.summaryItems_eq (s : State) : s.summaryItems = (0, 8, 0x4A400001) :: (8, 8, s.clock.gt) :: s.summaryRest := rfl

theorem State.coreSummary_places (s : State) {c : Nat} (range : c < 144) : ∀ x ∈ s.coreSummary c, SummaryPlace x := by
  intro x listed
  unfold State.coreSummary at listed
  simp only [List.mem_append, List.mem_cons, List.mem_map, List.mem_range, List.not_mem_nil, or_false] at listed
  unfold SummaryPlace
  rcases listed with ((rfl | rfl) | ⟨n, hn, rfl⟩) | rfl | rfl <;> dsimp only <;> omega

theorem State.summaryRest_places (s : State) : ∀ x ∈ s.summaryRest, SummaryPlace x := by
  intro x listed
  unfold State.summaryRest State.summaryItems at listed
  simp only [List.append_assoc, List.cons_append, List.nil_append, List.drop_succ_cons, List.drop_zero, List.mem_cons, List.mem_append, List.mem_flatMap, List.mem_range] at listed
  rcases listed with head | head | head | head | ⟨q, hq, item⟩ | ⟨k, hk, item⟩ | ⟨c, hc, item⟩ | ⟨n, hn, item⟩ | ⟨d, hd, item⟩
  case inr.inr.inr.inr.inr.inr.inl => exact s.coreSummary_places hc x item
  all_goals unfold SummaryPlace
  case inl | inr.inl | inr.inr.inl | inr.inr.inr.inl => subst head; dsimp only; omega
  case inr.inr.inr.inr.inl =>
    simp only [List.mem_map, List.mem_range, List.not_mem_nil, or_false] at item
    rcases item with rfl | ⟨l, hl, rfl⟩ | rfl <;> dsimp only <;> omega
  case inr.inr.inr.inr.inr.inl =>
    split at item
    · simp only [List.mem_cons, List.not_mem_nil, or_false] at item
      rcases item with rfl | rfl | rfl <;> dsimp only <;> omega
    · simp only [List.mem_cons, List.not_mem_nil, or_false] at item
      rcases item with rfl | rfl <;> dsimp only <;> omega
  case inr.inr.inr.inr.inr.inr.inr.inl =>
    simp only [List.not_mem_nil, or_false] at item
    rcases item with rfl | rfl <;> dsimp only <;> omega
  case inr.inr.inr.inr.inr.inr.inr.inr =>
    simp only [List.not_mem_nil, or_false] at item
    rcases item with rfl | rfl | rfl <;> dsimp only <;> omega

/-- An item of the summary stored. -/
def State.storeItem (pa : Nat) (t : State) (x : Nat × Nat × Nat) : State := t.homeStore (pa + x.1) x.2.1 x.2.2

/-- The bytes outside the buffer's items stay. -/
theorem State.foldl_storeItem {pa : Nat} (aligned : pa % 65536 = 0) {l : List (Nat × Nat × Nat)} (places : ∀ x ∈ l, SummaryPlace x) (t : State) {a : Nat}
    (out : a < pa + 16 ∨ pa + 17536 ≤ a) : Mem.byte (l.foldl (State.storeItem pa) t).memory.mem a = Mem.byte t.memory.mem a := by
  induction l generalizing t with
  | nil => rfl
  | cons x l ih =>
    obtain ⟨low, line, high⟩ := places x List.mem_cons_self
    rw [List.foldl_cons, ih (fun y h => places y (List.mem_cons_of_mem _ h)), State.storeItem, State.homeStore_byte (by omega), if_neg (by omega)]

/-- Outside the other items of the buffer, memory holds the first two and what it held. -/
theorem State.foldl_summary {s : State} {pa a : Nat} (aligned : pa % 65536 = 0) (out : a < pa + 16 ∨ pa + 17536 ≤ a) :
    Mem.byte (s.summaryItems.foldl (State.storeItem pa) s).memory.mem a = Mem.byte ((s.homeStore pa 8 0x4A400001).homeStore (pa + 8) 8 s.clock.gt).memory.mem a := by
  rw [State.summaryItems_eq, List.foldl_cons, List.foldl_cons, State.foldl_storeItem aligned s.summaryRest_places _ out, State.storeItem, State.storeItem, Nat.add_zero]

/-- The state after the items of the summary are stored. -/
def State.summarized (s : State) : State :=
  let pa := s.mgmt.op0.toNat
  let t := s.summaryItems.foldl (fun t x => t.homeStore (pa + x.1) x.2.1 x.2.2) s
  let term := (s.summaryLines.map t.completion).foldl max 0
  ({ t with mgmt := { t.mgmt with cmdTerm := term } }).commandDone

theorem State.commandDone_keeps (t : State) (term : Nat) :
    let u := ({ t with mgmt := { t.mgmt with cmdTerm := term } } : State).commandDone
    u.mgmt.cmdDone = true ∧ u.memory = t.memory :=
  ⟨rfl, rfl⟩

theorem State.summarized_stores (s : State) :
    s.summarized.mgmt.cmdDone = true ∧ s.summarized.memory = (s.summaryItems.foldl (State.storeItem s.mgmt.op0.toNat) s).memory := by
  have item : (fun (t : State) (x : Nat × Nat × Nat) => t.homeStore (s.mgmt.op0.toNat + x.1) x.2.1 x.2.2) = State.storeItem s.mgmt.op0.toNat := rfl
  rw [State.summarized, item]
  exact State.commandDone_keeps _ _

theorem exec_summary {s : State} (runs : s.runs 1 = true) (waits : s.summaryLines.filter (fun l => !s.agentReady l) = []) : exec .summary s = .next s.summarized := by
  change execSummary s = _
  rw [execSummary, runs, waits]
  rfl

theorem summary_stores {s : State} (runs : s.runs 1 = true) (aligned : s.mgmt.op0.toNat % 65536 = 0) (ready : ∀ k < 274, s.agentReady (s.mgmt.op0.toNat + 64 * k) = true) :
    let pa := s.mgmt.op0.toNat
    Becomes .summary s fun t => t.mgmt.cmdDone = true ∧ Mem.read t.memory.mem pa 8 = 0x4A400001 ∧ Mem.read t.memory.mem (pa + 8) 8 = s.clock.gt % 2 ^ 64 ∧
      ∀ a, a < pa ∨ pa + 17536 ≤ a → Mem.byte t.memory.mem a = Mem.byte s.memory.mem a := by
  intro pa
  have waits : s.summaryLines.filter (fun l => !s.agentReady l) = [] := by
    refine List.filter_eq_nil_iff.2 fun l listed => ?_
    obtain ⟨k, hk, rfl⟩ := List.mem_map.1 listed
    simp [ready k (List.mem_range.1 hk)]
  have memory : Becomes .summary s fun t => t.mgmt.cmdDone = true ∧ t.memory = (s.summaryItems.foldl (State.storeItem pa) s).memory :=
    ⟨_, exec_summary runs waits, s.summarized_stores⟩
  obtain ⟨u, hu, done, memory⟩ := memory
  refine ⟨u, hu, done, ?_⟩
  rw [memory]
  refine ⟨?_, ?_, fun a out => ?_⟩
  · rw [Mem.read_congr fun i hi => State.foldl_summary (a := pa + i) aligned (by omega), State.read_homeStore_ne (by omega) (by omega), State.homeStore_read (by omega)]
    norm_num
  · rw [Mem.read_congr fun i hi => State.foldl_summary (a := pa + 8 + i) aligned (by omega), State.homeStore_read (by omega)]
    norm_num
  · rw [State.foldl_summary aligned (by omega), State.homeStore_byte (by omega), if_neg (by omega), State.homeStore_byte (by omega), if_neg (by omega)]

/-! INVAL, RESET and completion (R429, R442). -/

theorem inval_forgets {s : State} (runs : s.runs 2 = true) : let tenant := s.mgmt.op0.setWidth 16; let va := s.mgmt.op1.toNat
    Becomes .inval s fun t => t.mgmt.cmdDone = true ∧ t.memory = s.memory ∧
      (∀ x : TlbSlot, let e := x.entry; x ∈ t.tlb.entries ↔ x ∈ s.tlb.entries ∧ ¬ (e.tenant = tenant ∧ (va = 0 ∨ (e.va ≤ va ∧ va < e.va + e.size)))) ∧
      (va = 0 → Tab.get none t.tlb.descs tenant.toNat = none) ∧ (va ≠ 0 → t.tlb.descs = s.tlb.descs) := by
  intro tenant va
  refine ⟨_, rfl, ?_⟩
  simp only [runs, Bool.not_true, Bool.false_eq_true, if_false]
  refine ⟨rfl, rfl, fun x => ?_, fun all => ?_, fun one => if_neg one⟩
  · refine List.mem_filter.trans (and_congr_right fun _ => ?_)
    rw [Bool.not_eq_true', ← Bool.not_eq_true]
    simp only [Bool.and_eq_true, beq_iff_eq, Bool.or_eq_true, decide_eq_true_iff, tenant, va]
  · change Tab.get none (if va = 0 then _ else _) _ = none
    rw [if_pos all, Tab.get_del_same]

/-- What a filter of a table by its keys keeps. -/
theorem Tab.get_filter_key {α : Type} {p : Nat → Bool} (d : α) {i : Nat} (kept : p i = true) : ∀ t : Tab α, Tab.get d (t.filter fun x => p x.1) i = Tab.get d t i
  | [] => rfl
  | (j, x) :: t => by
    by_cases here : p j = true
    · simp only [List.filter_cons, here, if_true, Tab.get, Tab.get_filter_key d kept t]
    · have other : j ≠ i := fun same => here (same ▸ kept)
      simp only [List.filter_cons, here, if_false, Tab.get, Tab.get_filter_key d kept t, other, Bool.false_eq_true]

theorem reset_keeps {s : State} (runs : s.runs 4 = true) : Becomes .reset s fun t => t.clock.gt = s.clock.gt ∧ t.clock.cycle = 0 ∧ t.mgmt.removed = s.mgmt.removed ∧ t.cores = [] ∧
      t.mgmt.command = none ∧ t.mgmt.ready = false ∧ t.mgmt.dbgLock = s.mgmt.dbgLock ∧ t.fabric.epoch = s.fabric.epoch + 1 ∧
      t.host.msix = 0 :: s.host.msix ∧ ∀ a, isHost a = true → Mem.byte t.memory.mem a = Mem.byte s.memory.mem a := by
  refine ⟨_, rfl, ?_⟩
  rw [if_pos runs]
  exact ⟨rfl, rfl, rfl, rfl, rfl, rfl, rfl, rfl, rfl, fun a host => Tab.get_filter_key 0 host _⟩

theorem mgmtCommandComplete_done {s : State} (busy : s.mgmt.command.isSome = true) (done : s.mgmt.cmdDone = true) (settled : s.commandSettled = true) :
    Becomes .mgmtCommandComplete s fun t => t.mgmt.command = none ∧ t.mgmt.cmdErr = false ∧ t.host.msix = 0 :: s.host.msix ∧ t.memory = s.memory := by
  refine ⟨_, rfl, ?_⟩
  simp only [busy, done, settled, Bool.and_self, if_true]
  exact ⟨rfl, rfl, rfl, rfl⟩

theorem mgmtCommandComplete_waits {s : State} (waits : s.mgmt.cmdDone = false ∨ s.commandSettled = false) : exec .mgmtCommandComplete s = .next s := by
  have not : (s.mgmt.command.isSome && s.mgmt.cmdDone && s.commandSettled) = false := by
    obtain h | h := waits
    · rw [h, Bool.and_false, Bool.false_and]
    · rw [h, Bool.and_false]
  change next (if _ then _ else s) = _
  rw [not, if_neg Bool.false_ne_true]
  rfl

/-! Cores removed (R453). -/

/-- The cores, memory, the list of removed cores and what else a management command keeps stand in `t` as in `s`. -/
structure OnlyLogs (s t : State) : Prop where
  cores : t.cores = s.cores := by rfl
  memory : t.memory = s.memory := by rfl
  removed : t.mgmt.removed = s.mgmt.removed := by rfl

theorem OnlyLogs.foldl {α : Type} {f : State → α → State} (one : ∀ s x, OnlyLogs s (f s x)) : ∀ (l : List α) (s : State), OnlyLogs s (l.foldl f s)
  | [], _ => {}
  | x :: l, s => by
    have first := one s x
    have rest := OnlyLogs.foldl one l (f s x)
    exact ⟨rest.cores.trans first.cores, rest.memory.trans first.memory, rest.removed.trans first.removed⟩

/-- Core `c` is out of service in `t`, and its combs are gone. -/
def Gone (s t : State) (c : Nat) : Prop :=
  (t.core c).combs = [] ∧ (t.core c).saved = [] ∧ t.mgmt.removed = s.mgmt.removed ++ [c] ∧ t.mgmt.rplreq = true ∧ t.memory.mem = s.memory.mem ∧ ∀ k, k ≠ c → t.core k = s.core k

theorem State.removeCompute_gone (s : State) (c : Nat) : Gone s (s.removeCompute c) c := by
  generalize left : s.removeCompute c = t
  unfold State.removeCompute at left
  extract_lets k here saved log logged stopped emptied unlocked at left
  have logs : OnlyLogs s logged := .foldl (fun _ _ => {}) _ _
  have stops : OnlyLogs logged stopped := .foldl (fun _ _ => {}) _ _
  subst left
  have core : emptied.core c = { stopped.core c with combs := [], saved := [], ready := [], locks := [], kicks := [], matrix := {}, slice := none } := State.core_onCore ..
  refine ⟨congrArg Core.combs core, congrArg Core.saved core, ?_, rfl, ?_, fun k other => ?_⟩
  · exact congrArg (· ++ [c]) (stops.removed.trans logs.removed)
  · exact (congrArg Memory.mem (stops.memory.trans logs.memory) :)
  · change emptied.core k = _
    rw [State.core_onCore_ne _ _ other.symm, State.core, stops.cores, logs.cores]
    rfl

theorem State.removeCore_compute {s : State} {c : Nat} (range : c < 144) (serves : s.mgmt.removed.contains c = false) : s.removeCore c = s.removeCompute c := by
  rw [State.removeCore, if_pos range, serves, if_neg Bool.false_ne_true]

/-- The state in which the stages of a bring-up have been measured (R451). -/
def State.measured (s : State) (stages : List Bool) : State :=
  { s with sec := { s.sec with measured := min 8 (stages.takeWhile id).length }, mgmt := { s.mgmt with booting := false } }

/-- The device made ready. -/
def State.setReady (s : State) : State := { s with mgmt := { s.mgmt with ready := true } }

theorem State.bringUp_passes {s : State} {stages : List Bool} (fresh : s.mgmt.ready = false) (active : s.mgmt.recovery = false) (pass : false ∉ stages) (failed : List Nat) :
    s.bringUp stages failed = (failed.foldl State.removeCore (s.measured stages)).setReady :=
  (if_neg (by simp [fresh, active])).trans (if_neg (by simpa using pass))

theorem Gone.bringUp {s t : State} {stages : List Bool} {c : Nat} : Gone (s.measured stages) t c → Gone s t.setReady c
  | ⟨combs, saved, removed, asked, memory, others⟩ => ⟨combs, saved, removed, asked, memory, others⟩

section
variable {s : State} {c : Nat} (range : c < 144) (serves : s.mgmt.removed.contains c = false)
include range serves

theorem remove_gone (runs : s.runs 3 = true) (operand : s.mgmt.op0.toNat = c) : Becomes .remove s fun t => Gone s t c ∧ t.mgmt.cmdDone = true := by
  refine ⟨_, rfl, ?_⟩
  rw [if_pos runs, operand, State.removeCore_compute range serves]
  exact ⟨s.removeCompute_gone c, rfl⟩

theorem coreInternalError_gone : Becomes (.coreInternalError c) s fun t => Gone s t c ∧ 0 ∈ t.host.msix := by
  refine ⟨_, rfl, ?_⟩
  rw [if_pos (by omega), State.removeCore_compute range serves]
  exact ⟨s.removeCompute_gone c, List.mem_cons_self⟩

theorem bringUp_gone {stages : List Bool} (fresh : s.mgmt.ready = false) (active : s.mgmt.recovery = false) (pass : false ∉ stages) :
    Becomes (.bringUp stages [c]) s fun t => Gone s t c ∧ t.mgmt.ready = true := by
  refine ⟨_, congrArg next (State.bringUp_passes fresh active pass [c]), ?_⟩
  rw [List.foldl_cons, List.foldl_nil, State.removeCore_compute range (by exact serves)]
  exact ⟨(State.removeCompute_gone _ c).bringUp, rfl⟩

end

theorem bringUp_recovery {s : State} {stages : List Bool} {failed : List Nat} (fresh : s.mgmt.ready = false) (active : s.mgmt.recovery = false) (fails : false ∈ stages) :
    Becomes (.bringUp stages failed) s fun t => t.mgmt.recovery = true ∧ t.mgmt.ready = false ∧ t.cores = s.cores := by
  have stages' : stages.contains false = true := by simpa using fails
  refine ⟨_, rfl, ?_⟩
  unfold State.bringUp
  simp only [fresh, active, stages', Bool.or_self, Bool.false_eq_true, if_false, if_true]
  exact ⟨trivial, trivial, trivial⟩

/-! Life counters (R454). -/

theorem lifeCounterFlush_due {s : State} (due : s.life.flushed + 60000000000 ≤ s.clock.gt) : Becomes .lifeCounterFlush s fun t =>
    t.life.nvCounters = t.life.counters ∧ t.life.nvBins = s.life.bins ∧ t.life.flushed = s.clock.gt ∧
      Tab.get 0 t.life.counters 0 = Tab.get 0 s.life.counters 0 + (s.clock.gt / hour - s.life.flushed / hour) ∧ ∀ k, k ≠ 0 → Tab.get 0 t.life.counters k = Tab.get 0 s.life.counters k := by
  refine ⟨_, rfl, ?_⟩
  rw [State.flushDue, decide_eq_true due]
  exact ⟨rfl, rfl, rfl, Tab.get_put_same .., fun k other => Tab.get_put_ne _ _ _ other.symm⟩

theorem lifeCounterFlush_early {s : State} (early : s.clock.gt < s.life.flushed + 60000000000) : exec .lifeCounterFlush s = .next s := by
  have rest : s.flushDue = false := decide_eq_false (Nat.not_le.2 early)
  change next (if !s.flushDue then s else _) = _
  rw [rest]
  rfl

/-! O58. -/

/-- Settles O58: SUMMARY by the places of its items in the buffer, the removal of a core by what its log keeps, and the other commands by their definitions. -/
theorem commandsAndCare : Obligations.CommandsAndCare := by
  unfold Obligations.CommandsAndCare
  exact ⟨fun s => ⟨summary_stores, inval_forgets, reset_keeps, mgmtCommandComplete_done, mgmtCommandComplete_waits⟩,
    fun s c range serves => ⟨fun _ => remove_gone range serves, fun _ => coreInternalError_gone range serves, fun stages _ => bringUp_gone range serves⟩,
    fun s stages failed => bringUp_recovery,
    fun s => ⟨lifeCounterFlush_due, lifeCounterFlush_early, _, rfl, rfl, rfl, rfl, rfl, rfl⟩⟩

end Sys2Proof.Machine
end

section
/-! Confidential contexts, the security alarm and the application cores: the settlement of O59. -/

namespace Sys2Proof.Machine
open Sys2Proof Sys2Proof.Safety

/-! What a request's abortion leaves of the security state (R273). -/

theorem foldl_sec {α : Type} {f : State → α → State} (one : ∀ s x, (f s x).sec = s.sec) (l : List α) (s : State) : (l.foldl f s).sec = s.sec := by
  induction l generalizing s with
  | nil => rfl
  | cons x l ih => exact (ih _).trans (one s x)

theorem State.winWrite_sec (s : State) (core slot off n v : Nat) : (s.winWrite core slot off n v).sec = s.sec := rfl

theorem State.writeStatus_sec (s : State) (core slot : Nat) (q : Request) (code cause : Nat) : (s.writeStatus core slot q code cause).sec = s.sec := by
  unfold State.writeStatus
  split
  · exact State.winWrite_sec ..
  · rfl

theorem State.engineCount_sec (s : State) (core slot : Nat) (bar : Option Nat) (bytes : Nat) (err : Bool) : (s.engineCount core slot bar bytes err).sec = s.sec := by
  unfold State.engineCount
  split
  · rfl
  · exact State.winWrite_sec ..

theorem State.endReq_sec (s : State) (core slot : Nat) (q : Request) (code cause bytes : Nat) (err : Bool) : (s.endReq core slot q code cause bytes err).sec = s.sec := by
  unfold State.endReq
  extract_lets unlocked counted mine fabric dropped
  have counts : counted.sec = s.sec := (State.engineCount_sec ..).trans (State.writeStatus_sec ..)
  have drops : dropped.sec = counted.sec := by
    unfold dropped
    split <;> rfl
  exact (State.onComb_sec ..).trans (drops.trans counts)

theorem State.abort_sec (s : State) (core slot : Nat) (q : Request) (cause : Nat) (addr : Option Nat) : (s.abort core slot q cause addr).sec = s.sec := by
  unfold State.abort
  extract_lets ended
  have ends : ended.sec = s.sec := State.endReq_sec ..
  split
  · exact (State.onStrand_sec ..).trans ends
  · exact (State.onStrand_sec ..).trans ends
  · exact ends

theorem State.abortAll_sec (s : State) (core slot : Nat) : (s.abortAll core slot).sec = s.sec := by
  unfold State.abortAll State.abortKicks
  extract_lets mine waiting
  have kicks := foldl_sec (fun (s : State) (x : KickWait) => (State.onStrand_sec (x.reqs.foldl (fun s q => s.abort core slot { q with id := (s.core core).nextReq } Cause.confLost.code none) s)
    { core := core, slot := slot, strand := x.strand } fun st => st.passWait s.clock.cycle).trans (foldl_sec (fun s q => State.abort_sec ..) x.reqs s)) mine waiting
  exact kicks.trans (foldl_sec (fun s q => State.abort_sec ..) _ s)

/-! Contexts (R430, R431). -/

theorem State.context_onContext (s : State) (c : Nat) (f : Context → Context) : (s.onContext c f).context c = f (s.context c) := Tab.get_put_same ..

theorem State.context_onContext_ne (s : State) {c d : Nat} (f : Context → Context) (other : c ≠ d) : (s.onContext c f).context d = s.context d := Tab.get_put_ne _ _ _ other

/-- What a context has left once it is lost. -/
def Context.gone (x : Context) : Context := { x with keys := [], session := false, period := 0, lost := true }

/-- A context lost changes the contexts by its own entry, and nothing else of the security state. -/
theorem State.loseContext_sec (s : State) (c : Nat) : (s.loseContext c).sec = (s.onContext c Context.gone).sec := by
  unfold State.loseContext
  extract_lets hit t aborted keyless lost saved
  have aborts : aborted.sec = s.sec := foldl_sec (fun s x => State.abortAll_sec ..) hit s
  have keys : keyless.sec = (s.onContext c Context.gone).sec := by
    change { aborted.sec with contexts := Tab.put {} aborted.sec.contexts c (Context.gone (Tab.get {} aborted.sec.contexts c)) } = _
    rw [aborts]
    rfl
  exact (foldl_sec (fun s x => State.onComb_sec ..) hit keyless).trans keys

theorem State.context_loseContext (s : State) (c : Nat) : (s.loseContext c).context c = (s.context c).gone := by
  rw [State.context, State.loseContext_sec]
  exact s.context_onContext c _

theorem State.context_loseContext_ne (s : State) {c d : Nat} (other : c ≠ d) : (s.loseContext c).context d = s.context d := by
  rw [State.context, State.loseContext_sec]
  exact s.context_onContext_ne _ other

/-- A single resident comb of the context takes CONF_LOST (R431). -/
theorem State.comb_loseContext {s : State} {c core slot : Nat} {k : Core} {y : Comb} (cores : s.cores = [(core, k)]) (combs : k.combs = [(slot, some y)]) (kicks : k.kicks = [])
    (reqs : y.reqs = []) (bound : s.boundTo c y.tenant = true) : (s.loseContext c).comb core slot = y.confLost c := by
  have at_ : s.core core = k := by rw [State.core, cores]; simp [Tab.get]
  have resident : s.comb? core slot = some y := by rw [State.comb?, at_, combs]; simp [Tab.get]
  have comb : s.comb core slot = y := by rw [State.comb, resident]; rfl
  have kicks' : (s.core core).kicks = [] := by rw [at_, kicks]
  unfold State.loseContext
  extract_lets hit t aborted keyless lost saved
  have one : hit = [(core, slot)] := by simp [hit, cores, combs, bound]
  have aborts : aborted = s.onCore core fun k => { k with kicks := k.kicks.filter fun x => x.slot != slot } := by
    simp only [aborted, one, List.foldl_cons, List.foldl_nil, State.abortAll, State.abortKicks, comb, reqs, kicks', List.filter_nil]
  have resident' : keyless.comb? core slot = some y := by
    change aborted.comb? core slot = _
    rw [aborts, State.comb?, State.core_onCore]
    exact resident
  have lost' : lost.comb? core slot = some (y.confLost c) := by
    have there : (keyless.comb? core slot).isSome = true := by rw [resident']; rfl
    have changed : lost.comb core slot = y.confLost c := by
      simp only [lost, one, List.foldl_cons, List.foldl_nil]
      rw [State.comb_onComb _ there, State.comb, resident']
      rfl
    have still : (lost.comb? core slot).isSome = true := by
      simp only [lost, one, List.foldl_cons, List.foldl_nil]
      exact State.resident_onComb _ there
    obtain ⟨z, hz⟩ := Option.isSome_iff_exists.1 still
    rw [State.comb, hz] at changed
    rw [hz, ← changed]
    rfl
  rw [State.comb, State.comb?]
  exact congrArg (Option.getD · {}) (State.comb?_mapCores (F := fun _ k => { k with saved := k.saved.map saved }) (fun _ _ => rfl) lost')

section
variable {s : State} {c : Nat} (range : c < 64)
include range

theorem keySlotLoad_session {slot : Nat} {key : BitVec 256} (place : slot < 16) : Becomes (.keySlotLoad c slot key) s fun t =>
      ((s.context c).session = true → Tab.get none (t.context c).keys slot = some key ∧ ∀ k, k ≠ slot → Tab.get none (t.context c).keys k = Tab.get none (s.context c).keys k) ∧
      ((s.context c).session = false → t = s) := by
  refine ⟨_, rfl, fun session => ?_, fun none => ?_⟩
  · rw [if_pos ⟨range, place, session⟩, State.context_onContext]
    exact ⟨Tab.get_put_same none (s.context c).keys slot (some key), fun k other => Tab.get_put_ne none (s.context c).keys (some key) other.symm⟩
  · rw [if_neg fun h => by simp [none] at h]

theorem tdispRequest_eq (req : TdispReq) : exec (.tdispRequest c req) s = next (match req, (s.context c).state with
    | .lock, .configUnlocked => s.onContext c fun y => { y with state := .configLocked, lost := false }
    | .start, .configLocked => s.onContext c fun y => { y with state := .run }
    | .stop, _ => (if (s.context c).state = .run then s.loseContext c else s).onContext c fun y => { y with state := .configUnlocked }
    | .error, _ => (if (s.context c).state = .run then s.loseContext c else s).onContext c fun y => { y with state := .error }
    | _, _ => s) := by
  change next (if c ≥ 64 then s else _) = _
  exact congrArg next (if_neg (Nat.not_le.2 range))

theorem tdispRequest_lock (unlocked : (s.context c).state = .configUnlocked) :
    Becomes (.tdispRequest c .lock) s fun t => t.context c = { s.context c with state := .configLocked, lost := false } := by
  refine ⟨_, tdispRequest_eq range _, ?_⟩
  simp only [unlocked]
  exact State.context_onContext ..

theorem tdispRequest_start (locked : (s.context c).state = .configLocked) :
    Becomes (.tdispRequest c .start) s fun t => t.context c = { s.context c with state := .run } := by
  refine ⟨_, tdispRequest_eq range _, ?_⟩
  simp only [locked]
  exact State.context_onContext ..

theorem tdispRequest_lock_ignored (other : (s.context c).state ≠ .configUnlocked) : exec (.tdispRequest c .lock) s = .next s := by
  rw [tdispRequest_eq range]
  split
  · next h => exact absurd h other
  all_goals simp_all [next]

theorem tdispRequest_start_ignored (other : (s.context c).state ≠ .configLocked) : exec (.tdispRequest c .start) s = .next s := by
  rw [tdispRequest_eq range]
  split
  case h_2 h => exact absurd h other
  all_goals simp_all [next]

omit range in
/-- A context that is lost and put into a state. -/
theorem State.context_lost (s : State) (c : Nat) (n : TdispState) : ((s.loseContext c).onContext c fun y => { y with state := n }).context c =
    { s.context c with state := n, keys := [], session := false, period := 0, lost := true } := by
  rw [State.context_onContext, State.context_loseContext]
  rfl

theorem context_leaves_run (runs : (s.context c).state = .run) :
    let lost := fun (t : State) (n : TdispState) => t.context c = { s.context c with state := n, keys := [], session := false, period := 0, lost := true }
    (Becomes (.tdispRequest c .stop) s fun t => lost t .configUnlocked) ∧ (Becomes (.tdispRequest c .error) s fun t => lost t .error) ∧
      (Becomes (.contextLoss c) s fun t => lost t .error) := by
  refine ⟨⟨_, tdispRequest_eq range _, ?_⟩, ⟨_, tdispRequest_eq range _, ?_⟩, _, rfl, ?_⟩
  · simp only [runs, if_true]
    exact State.context_lost ..
  · simp only [runs, if_true]
    exact State.context_lost ..
  · have holds : (s.context c).holds = true := by simp [Context.holds, runs]
    dsimp only
    rw [if_pos ⟨range, holds⟩, State.context_onContext, State.context_loseContext]
    simp only [Context.gone, runs, if_true]

theorem spdmRequest_eq (req : SpdmReq) : exec (.spdmRequest c req) s = next (match req with
    | .establish p => if s.sec.erased then s else s.onContext c fun y => { y with session := true, period := p, beat := s.clock.gt }
    | .heartbeat => if (s.context c).session then s.onContext c fun y => { y with beat := s.clock.gt } else s
    | .endSession => if (s.context c).session then s.loseContext c else s
    | .getMeasurements => if s.sec.erased then s else { s with sec := { s.sec with attested := Config.sign s.measurements :: s.sec.attested } }) := by
  change next (if c ≥ 64 then s else _) = _
  exact congrArg next (if_neg (Nat.not_le.2 range))

theorem session_ends (session : (s.context c).session = true) :
    let lost := fun (t : State) (n : TdispState) => t.context c = { s.context c with state := n, keys := [], session := false, period := 0, lost := true }
    (Becomes (.spdmRequest c .endSession) s fun t => lost t (s.context c).state) ∧
      ((s.context c).period ≠ 0 → (s.context c).beat + 2 * (s.context c).period ≤ s.clock.gt → Becomes (.spdmHeartbeatTimeout c) s fun t => lost t (s.context c).state) ∧
      (s.clock.gt < (s.context c).beat + 2 * (s.context c).period → exec (.spdmHeartbeatTimeout c) s = .next s) ∧
      (Becomes (.spdmRequest c .heartbeat) s fun t => t.context c = { s.context c with beat := s.clock.gt }) := by
  refine ⟨⟨_, spdmRequest_eq range _, ?_⟩, fun period late => ⟨_, rfl, ?_⟩, fun early => ?_, ⟨_, spdmRequest_eq range _, ?_⟩⟩
  · simp only [session, if_true]
    exact State.context_loseContext ..
  · have due : s.spdmLate c = true := by simp [State.spdmLate, session, period, late]
    rw [if_pos due]
    exact State.context_loseContext ..
  · have rest : s.spdmLate c = false := by simp [State.spdmLate, early]
    change next (if s.spdmLate c then _ else s) = _
    rw [rest]
    rfl
  · dsimp only
    rw [if_pos session]
    exact State.context_onContext ..

theorem spdmRequest_keyed (keyed : s.sec.erased = false) :
    (∀ p, Becomes (.spdmRequest c (.establish p)) s fun t => t.context c = { s.context c with session := true, period := p, beat := s.clock.gt }) ∧
      (Becomes (.spdmRequest c .getMeasurements) s fun t => t.sec.attested = Config.sign s.measurements :: s.sec.attested ∧ t.sec.contexts = s.sec.contexts) := by
  refine ⟨fun p => ⟨_, spdmRequest_eq range _, ?_⟩, _, spdmRequest_eq range _, ?_⟩
  · simp only [keyed, Bool.false_eq_true, if_false]
    exact State.context_onContext ..
  · simp only [keyed, Bool.false_eq_true, if_false]
    exact ⟨trivial, trivial⟩

theorem spdmRequest_erased (erased : s.sec.erased = true) :
    exec (.spdmRequest c .getMeasurements) s = .next s ∧ ∀ p, exec (.spdmRequest c (.establish p)) s = .next s := by
  refine ⟨?_, fun p => ?_⟩
  · rw [spdmRequest_eq range]
    simp only [erased, if_true, next]
  · rw [spdmRequest_eq range]
    simp only [erased, if_true, next]

end

/-! The alarm (R433). -/

/-- Every context of a list is lost, and nothing else of the security state changes. -/
theorem State.foldl_loseContext (l : List Nat) (s : State) : (∃ contexts, (l.foldl State.loseContext s).sec = { s.sec with contexts := contexts }) ∧
    ∀ c, (c ∈ l ∨ (s.context c).keys = [] ∧ (s.context c).session = false) → ((l.foldl State.loseContext s).context c).keys = [] ∧ ((l.foldl State.loseContext s).context c).session = false := by
  induction l generalizing s with
  | nil => exact ⟨⟨_, rfl⟩, fun c h => h.resolve_left List.not_mem_nil⟩
  | cons d l ih =>
    obtain ⟨⟨contexts, sec⟩, lost⟩ := ih (s.loseContext d)
    refine ⟨⟨contexts, sec.trans (by rw [State.loseContext_sec]; rfl)⟩, fun c h => lost c ?_⟩
    by_cases here : d = c
    · rw [← here, State.context_loseContext]
      exact .inr ⟨rfl, rfl⟩
    · rw [State.context_loseContext_ne s here]
      exact h.imp_left fun listed => (List.mem_cons.1 listed).resolve_left fun same => here same.symm

theorem State.alarm_raised (s : State) (a : Alarm) (act : Nat) (h : s.sec.action a = act) : let t := s.alarm a
    t.sec.status = s.sec.status ||| 2 ^ a.bit ∧
      (act = 0 → t.sec.contexts = s.sec.contexts ∧ t.cores = s.cores) ∧ (act = 1 ∨ act = 2 → ∀ c < 64, (t.context c).keys = [] ∧ (t.context c).session = false) ∧
      (act = 2 → t.sec.erased = true ∧ t.sec.stopAll = true) ∧ (act ≠ 2 → t.sec.erased = s.sec.erased ∧ t.sec.stopAll = s.sec.stopAll) := by
  let marked : State := ({ s with sec := { s.sec with status := s.sec.status ||| 2 ^ a.bit } }).count 9 1
  obtain ⟨⟨contexts, sec⟩, lost⟩ := State.foldl_loseContext (List.range 64) marked
  have all : ∀ c < 64, (marked.eraseKeys.context c).keys = [] ∧ (marked.eraseKeys.context c).session = false := fun c hc => lost c (.inl (List.mem_range.2 hc))
  have alarm : s.alarm a = (let u := if act = 1 ∨ act = 2 then marked.eraseKeys else marked
      if act = 2 then { u with sec := { u.sec with erased := true, stopAll := true } } else u) := by rw [State.alarm, h]
  have sec : marked.eraseKeys.sec = { marked.sec with contexts := contexts } := sec
  generalize marked.eraseKeys = erased at alarm sec all
  intro t
  by_cases two : act = 2
  · have becomes : t = { erased with sec := { erased.sec with erased := true, stopAll := true } } := by
      simp only [t, alarm, two, or_true, if_true]
    rw [becomes]
    exact ⟨congrArg Security.status sec, fun none => by omega, fun _ => all, fun _ => ⟨rfl, rfl⟩, fun other => absurd two other⟩
  by_cases one : act = 1
  · have becomes : t = erased := by
      simp only [t, alarm, one, true_or, if_true]
      rfl
    rw [becomes]
    exact ⟨congrArg Security.status sec, fun none => by omega, fun _ => all, fun h => absurd h two, fun _ => ⟨(congrArg Security.erased sec :), (congrArg Security.stopAll sec :)⟩⟩
  · have becomes : t = marked := by
      simp only [t, alarm, two, one, or_self, if_false]
    rw [becomes]
    exact ⟨rfl, fun _ => ⟨rfl, rfl⟩, fun h => absurd h (by omega), fun h => absurd h two, fun _ => ⟨rfl, rfl⟩⟩

/-! Application cores (R444, R446, R447). -/

theorem State.app_onApp (s : State) (a : Nat) (f : AppCore → AppCore) : (s.onApp a f).app a = f (s.app a) := Tab.get_put_same ..

/-- The core with the translation of an access that came with its fill held. -/
def AppCore.holding (x : AppCore) (how : AppUse) (page : Nat × Nat) : AppCore :=
  { x with held := if how.fill.isEmpty || x.held.contains page then x.held else page :: x.held }

section
variable {s : State} {app : Nat} (range : app < 16) (serves : s.mgmt.removedApps.contains app = false) (active : s.mgmt.recovery = false)
include range serves active

/-- A core in service. -/
theorem exec_sandboxAccess (access : SandAccess) (how : AppUse) (va pa : Nat) : exec (.sandboxAccess app access how va pa) s = next (match access with
    | .csrRead => if how.mode = .machine then s.appLoads app ((s.app app).csr pa) false else s.appFault app access 0
    | .csrWrite => if how.mode = .machine then s.onApp app fun x => x.setCsr pa how.value else s.appFault app access 0
    | _ =>
      if (how.mode == .user && (s.app app).sbx) ∧ (pa :: how.fill).any (fun p => !(s.app app).inWall p || (s.app app).marked p) then
        (s.onApp app fun x => { x with cause := 0x0E }).appFault app access va
      else if (how.mode == .user && (s.app app).sbx) ∧ how.fill.isEmpty ∧ ¬ (s.app app).held.contains (va / 4096, pa / 4096) then s
      else (s.onApp app fun x => x.holding how (va / 4096, pa / 4096)).appAccess app access va pa how.size how.value) := by
  change next (if app ≥ 16 ∨ s.mgmt.removedApps.contains app ∨ s.mgmt.recovery then s else _) = _
  have inService : ¬ (app ≥ 16 ∨ s.mgmt.removedApps.contains app = true ∨ s.mgmt.recovery = true) := by
    rw [serves, active]
    simpa using range
  rw [if_neg inService]
  rfl

omit range serves active in
/-- What lies outside the walls, or in weights. -/
theorem AppCore.outside_iff {x : AppCore} {l : List Nat} : (l.any fun p => !x.inWall p || x.marked p) = true ↔ ∃ p ∈ l, x.inWall p = false ∨ x.marked p = true := by
  simp [List.any_eq_true]

omit range serves active in
theorem State.app_appFault (s : State) (app : Nat) (access : SandAccess) (va : Nat) :
    (s.appFault app access va).app app = { s.app app with xcause := accessFault access, xval := va } := State.app_onApp ..

omit range serves active in
theorem State.app_appLoads (s : State) (app v : Nat) (bad : Bool) : (s.appLoads app v bad).app app = { s.app app with loaded := v, bad := bad } := State.app_onApp ..

section
variable {access : SandAccess} {how : AppUse} {va pa : Nat}

theorem sandboxAccess_walled (kind : access = .fetch ∨ access = .load ∨ access = .store) (walled : how.mode = .user ∧ (s.app app).sbx = true)
    (out : ∃ p ∈ pa :: how.fill, (s.app app).inWall p = false ∨ (s.app app).marked p = true) : Becomes (.sandboxAccess app access how va pa) s fun t =>
      t.app app = { s.app app with cause := 0x0E, xcause := if access = .fetch then 1 else if access = .load then 5 else 7, xval := va } ∧ t.memory = s.memory := by
  have user : (how.mode == .user && (s.app app).sbx) = true := by simpa using walled
  have violates := AppCore.outside_iff.2 out
  refine ⟨((s.onApp app fun x => { x with cause := 0x0E }).appFault app access va), (exec_sandboxAccess range serves active ..).trans ?_, ?_, rfl⟩
  · rcases kind with rfl | rfl | rfl <;> simp only [user, violates, and_self, if_true, next]
  · rw [State.app_appFault, State.app_onApp]
    rcases kind with rfl | rfl | rfl <;> rfl

theorem sandboxAccess_admitted (kind : access = .fetch ∨ access = .load ∨ access = .store)
    (inside : ¬ (how.mode = .user ∧ (s.app app).sbx = true) ∨ (¬ (∃ p ∈ pa :: how.fill, (s.app app).inWall p = false ∨ (s.app app).marked p = true) ∧ how.fill ≠ [])) :
    ∃ f : AppCore → AppCore, exec (.sandboxAccess app access how va pa) s = .next ((s.onApp app f).appAccess app access va pa how.size how.value) := by
  have admitted : ¬ ((how.mode == .user && (s.app app).sbx) = true ∧ ((pa :: how.fill).any fun p => !(s.app app).inWall p || (s.app app).marked p) = true) := by
    rintro ⟨user, violates⟩
    obtain free | ⟨within, _⟩ := inside
    · exact free (by simpa using user)
    · exact within (AppCore.outside_iff.1 violates)
  have translated : ¬ ((how.mode == .user && (s.app app).sbx) = true ∧ how.fill.isEmpty = true ∧ ¬ ((s.app app).held.contains (va / 4096, pa / 4096)) = true) := by
    rintro ⟨user, empty, _⟩
    obtain free | ⟨_, filled⟩ := inside
    · exact free (by simpa using user)
    · exact filled (List.isEmpty_iff.1 empty)
  refine ⟨fun x => x.holding how (va / 4096, pa / 4096), (exec_sandboxAccess range serves active ..).trans ?_⟩
  rcases kind with rfl | rfl | rfl <;> simp only [admitted, translated, if_false, next]

end

omit range serves active in
/-- An access to device memory. -/
theorem State.appAccess_device {access : SandAccess} {va pa size : Nat} {value : Dbl} (device : isDevice pa = true) (low : 1 ≤ size) (high : size ≤ 8) (line : pa % 64 + size ≤ 64) :
    s.appAccess app access va pa size value = s.appMemory app (access == .store) pa size value.toNat := by
  have region : pa / 2 ^ 48 = 0 := Nat.div_eq_of_lt ((of_decide_eq_true device).trans (by decide))
  unfold State.appAccess
  rw [if_neg (by omega), region]
  simp only [device, Bool.true_or, if_true]

omit range serves active in
/-- A load or fetch of device memory. -/
theorem State.appMemory_loads {pa size v : Nat} (f : AppCore → AppCore) (ready : s.agentReady (lineOf pa) = true) : let t := (s.onApp app f).appMemory app false pa size v
    (t.app app).loaded = Mem.read s.memory.mem pa size ∧ (t.app app).bad = s.linePoison (lineOf pa) ∧ t.memory.mem = s.memory.mem := by
  have home : SameHome (s.onApp app f) (((s.onApp app f).atHome (lineOf pa)).countAccess (lineOf pa)) := (SameHome.atHome ..).trans (.countAccess ..)
  have ready : (s.onApp app f).agentReady (lineOf pa) = true := ready
  intro t
  have loads : t = (((s.onApp app f).atHome (lineOf pa)).countAccess (lineOf pa)).appLoads app
      (Mem.read (((s.onApp app f).atHome (lineOf pa)).countAccess (lineOf pa)).memory.mem pa size) ((((s.onApp app f).atHome (lineOf pa)).countAccess (lineOf pa)).linePoison (lineOf pa)) := by
    simp only [t, State.appMemory, ready, Bool.not_true, Bool.false_eq_true, if_false]
  rw [loads, State.app_appLoads, home.mem, State.linePoison, home.poison]
  exact ⟨rfl, rfl, home.mem⟩

omit range serves active in
/-- A store to device memory. -/
theorem State.appMemory_stores {pa size v : Nat} (f : AppCore → AppCore) (ready : s.agentReady (lineOf pa) = true) (line : pa % 64 + size ≤ 64) :
    let t := (s.onApp app f).appMemory app true pa size v
    Mem.read t.memory.mem pa size = v % 2 ^ (8 * size) ∧ ∀ a, a < pa ∨ pa + size ≤ a → Mem.byte t.memory.mem a = Mem.byte s.memory.mem a := by
  have home : SameHome (s.onApp app f) (((s.onApp app f).atHome (lineOf pa)).countAccess (lineOf pa)) := (SameHome.atHome ..).trans (.countAccess ..)
  have ready : (s.onApp app f).agentReady (lineOf pa) = true := ready
  intro t
  have stores : t.memory = ((((s.onApp app f).atHome (lineOf pa)).countAccess (lineOf pa)).homeWrite pa size v).memory := by
    simp only [t, State.appMemory, ready, Bool.not_true, Bool.false_eq_true, if_false, if_true]
    rfl
  refine ⟨?_, fun a out => ?_⟩
  · rw [stores, Mem.read_of_bytes _ size pa v fun k hk => by rw [State.homeWrite_byte line, if_pos (by omega), Nat.add_sub_cancel_left], Nat.pow_mul]
  · rw [stores, State.homeWrite_byte line, if_neg (by omega), home.mem]
    rfl

theorem sandboxAccess_csrs {how : AppUse} {va pa : Nat} (machine : how.mode = .machine) :
    (Becomes (.sandboxAccess app .csrRead how va pa) s fun t => (t.app app).loaded = (s.app app).csr pa ∧ t.memory = s.memory) ∧
      (Becomes (.sandboxAccess app .csrWrite how va pa) s fun t => t.app app = (s.app app).setCsr pa how.value ∧ t.memory = s.memory) := by
  refine ⟨⟨_, exec_sandboxAccess range serves active .., ?_⟩, _, exec_sandboxAccess range serves active .., ?_⟩
  · simp only [machine, if_true]
    exact ⟨by rw [State.app_appLoads], rfl⟩
  · simp only [machine, if_true]
    exact ⟨State.app_onApp .., rfl⟩

theorem sandboxAccess_csr_denied {access : SandAccess} {how : AppUse} {va pa : Nat} (lower : how.mode ≠ .machine) (csr : access = .csrRead ∨ access = .csrWrite) :
    Becomes (.sandboxAccess app access how va pa) s fun t => t.app app = { s.app app with xcause := 2, xval := 0 } ∧ t.memory = s.memory := by
  refine ⟨s.appFault app access 0, (exec_sandboxAccess range serves active ..).trans ?_, ?_, rfl⟩
  · rcases csr with rfl | rfl <;> simp only [lower, if_false, next]
  · rw [State.app_appFault]
    rcases csr with rfl | rfl <;> rfl

end

/-- The bytes of a part of memory, as its agent numbers them. -/
theorem Mem.byte_shifted {b n k : Nat} (range : k < n) : ∀ m : Sys2Proof.Mem,
    Mem.byte ((m.filter fun x => decide (b ≤ x.1) && decide (x.1 < b + n)).map fun x => (x.1 - b, x.2)) k = Mem.byte m (b + k)
  | [] => rfl
  | (j, v) :: m => by
    have rest := Mem.byte_shifted (b := b) range m
    unfold Mem.byte at rest ⊢
    by_cases inside : b ≤ j ∧ j < b + n
    · have same : (j - b = k) ↔ (j = b + k) := by omega
      simp only [List.filter_cons, inside, decide_true, Bool.and_self, if_true, List.map_cons, Tab.get, same, rest]
    · have other : j ≠ b + k := by omega
      have outside : (decide (b ≤ j) && decide (j < b + n)) = false := by simpa using inside
      simp only [List.filter_cons, outside, Bool.false_eq_true, if_false, Tab.get, other, rest]

theorem sfenceVma_core {s : State} {app : Nat} (range : app < 16) : Becomes (.sfenceVma app) s fun t =>
    t.memory = s.memory ∧ (t.app app).held = [] ∧ ∀ k, k < 4194304 → Mem.byte (t.app app).weights k = Mem.byte s.memory.mem (s.service.wtbase + k) := by
  refine ⟨_, rfl, ?_⟩
  dsimp only
  rw [if_pos range, State.app_onApp]
  exact ⟨rfl, rfl, fun k hk => Mem.byte_shifted hk _⟩

/-! O59. -/

/-- Settles O59: contexts by their own entry, which alone a loss changes; the alarm by its action; an access of an application core by the walls, its region and its kind. -/
theorem contextsAndAlarm : Obligations.ContextsAndAlarm := by
  unfold Obligations.ContextsAndAlarm
  refine ⟨fun s c range => ⟨fun slot key => keySlotLoad_session range, tdispRequest_lock range, tdispRequest_start range, tdispRequest_lock_ignored range,
      tdispRequest_start_ignored range, ⟨context_leaves_run range, session_ends range⟩, spdmRequest_keyed range, spdmRequest_erased range,
      fun core slot k y => State.comb_loseContext⟩,
    fun s => ⟨⟨_, rfl, s.alarm_raised .tamper _ rfl⟩, _, rfl, s.alarm_raised .glitch _ rfl⟩,
    fun s app access mode fill va pa size value range serves active => ⟨sandboxAccess_walled (how := { mode := mode, fill := fill, size := size, value := value }) range serves active, fun inside device low high line ready => ⟨fun kind => ?_, fun kind => ?_⟩,
      sandboxAccess_csrs (how := { mode := mode, fill := fill, size := size, value := value }) range serves active,
      sandboxAccess_csr_denied (how := { mode := mode, fill := fill, size := size, value := value }) range serves active, sfenceVma_core range⟩⟩
  · obtain ⟨f, hf⟩ := sandboxAccess_admitted (how := { mode := mode, fill := fill, size := size, value := value }) (va := va) range serves active (kind.imp_right .inl) inside
    rw [State.appAccess_device device low high line] at hf
    have load : (access == .store) = false := by rcases kind with rfl | rfl <;> rfl
    rw [load] at hf
    exact ⟨_, hf, State.appMemory_loads f ready⟩
  · obtain ⟨f, hf⟩ := sandboxAccess_admitted (how := { mode := mode, fill := fill, size := size, value := value }) (va := va) range serves active (.inr (.inr kind)) inside
    have store : (access == .store) = true := by rw [kind]; rfl
    rw [State.appAccess_device device low high line, store] at hf
    exact ⟨_, hf, State.appMemory_stores f ready line⟩

end Sys2Proof.Machine
end

section
/-! The refutation of O60: a LOAD with a bad field shows another strand, in a state that lists a core twice. -/

namespace Sys2Proof.Machine
open Sys2Proof Sys2Proof.Safety

section
variable {s : State} {entry : Nat} {x : StopEntry} (active : s.mgmt.recovery = false) (unlocked : s.mgmt.dbgLock = false) (range : entry < 64)
  (stop : Tab.get none s.mgmt.stops entry = some x) (place : imagePlace s.mgmt.dbgArg (s.strand x.who).sp.n = true) (idle : (s.strand x.who).imagePending = false)
  (ready : ∀ l ∈ imageLines s.mgmt.dbgArg (s.strand x.who).sp.n, s.agentReady l = true)
include active unlocked range stop place idle ready

/-- A LOAD whose image can be read (R421). -/
theorem exec_dbgLoad : let pa := s.mgmt.dbgArg; let st := s.strand x.who
    exec (.dbgLoad entry) s = next (let s := (imageLines pa st.sp.n).foldl State.atHome s
      let m := s.readImage ((List.range (imageSize st.sp.n / 32)).map fun k => (pa + 32 * k, pa + 32 * k)) fun _ p => Mem.read s.memory.mem p 32
      match m.firstBad st with
      | some _ => s.dbgResult 4 entry true
      | none => (s.onStrand x.who fun st => st.loadImage m).dbgResult 4 entry false) := by
  have waits : (imageLines s.mgmt.dbgArg (s.strand x.who).sp.n).filter (fun l => !s.agentReady l) = [] :=
    List.filter_eq_nil_iff.2 fun l listed => by simp [ready l listed]
  intro pa st
  change next (s.fromHost fun s => s.dbgFetch entry) = _
  rw [State.fromHost_running _ active, State.dbgFetch, State.onStop, unlocked, Bool.false_and, if_neg Bool.false_ne_true, if_pos range, stop]
  simp only [place, waits, idle, Bool.not_true, Bool.false_eq_true, if_false, List.isEmpty_nil, Bool.or_self]
  rfl

/-- One that ends with ERR leaves the strands as the reading of its lines leaves them. -/
theorem dbgLoad_err {t : State} (loads : exec (.dbgLoad entry) s = .next t) (err : t.mgmt.dbgErr = true) (w : Sid) :
    t.strand w = ((imageLines s.mgmt.dbgArg (s.strand x.who).sp.n).foldl State.atHome s).strand w := by
  rw [exec_dbgLoad active unlocked range stop place idle ready] at loads
  obtain rfl := Host.Outcome.next.inj loads
  generalize (imageLines s.mgmt.dbgArg (s.strand x.who).sp.n).foldl State.atHome s = u at err ⊢
  dsimp only at err ⊢
  split
  · rfl
  · next bad =>
    rw [bad] at err
    exact absurd err Bool.false_ne_true

end

/-! The counterexample. -/

/-- Core 1 listed twice: an entry that holds the default, which no table in the canonical form has, and behind it one with a live strand whose s1 is 1. -/
def haltedCores : Tab Core := [(1, {}), (1, { combs := [(0, some { strands := [(0, { live := 1, regs := { s := [(1, 1)] } })] })] })]

/-- The full slice of `crowded`, with stop entry 0 naming the strand of core 1 and DBGARG in the page whose lines the slice holds. -/
def halted : State :=
  { crowded {} with
    cores := haltedCores
    mgmt := { (crowded {}).mgmt with
      dbgArg := 0x10000
      stops := [(0, some { who := hiddenStrand, tenant := 0, pc := 0, len := 4, code := 0, mask := 1 })] } }

theorem halted_strand : halted.strand hiddenStrand = {} := by decide +kernel

/-- The image in memory has a bad field. -/
theorem halted_firstBad : (halted.readImage ((List.range (imageSize (halted.strand hiddenStrand).sp.n / 32)).map fun k => (0x10000 + 32 * k, 0x10000 + 32 * k))
    fun _ p => Mem.read halted.memory.mem p 32).firstBad (halted.strand hiddenStrand) ≠ none := by decide +kernel

theorem halted_agentReady : ∀ l ∈ imageLines 0x10000 (halted.strand hiddenStrand).sp.n, halted.agentReady l = true := by
  intro l listed
  have size : ceilDiv (imageSize (halted.strand hiddenStrand).sp.n) 64 = 36 := by decide +kernel
  rw [imageLines, size] at listed
  obtain ⟨k, hk, rfl⟩ := List.mem_map.1 listed
  have hk := List.mem_range.1 hk
  have device : isDevice (0x10000 + 64 * k) = true := decide_eq_true (by omega)
  have host : isHost (0x10000 + 64 * k) = false := by simp [isHost]; omega
  have page : halted.page (0x10000 + 64 * k) = { resident := true } := by
    rw [State.page, show (0x10000 + 64 * k) / 65536 = 1 by omega]
    rfl
  have served : halted.served (0x10000 + 64 * k) = true := by
    simp [State.served, State.serve, State.extent?, device, halted, crowded, Lease.covers, State.withFetchWord, State.reset, show (0x10000 + 64 * k) / 2097152 < 262144 by omega]
  have home : halted.homeReady (0x10000 + 64 * k) = true := by
    rw [State.homeReady, host, device, page]
    exact Bool.or_true _
  rw [State.agentReady, served, State.homeWaits, home]
  rfl

/-- The fill of the first line of the image writes a line of the full slice back. -/
theorem halted_fillL2 : ∃ v, (halted.fillL2 0x10000).cores = (halted.lineCleaned v).cores := by
  refine State.fillL2_writes_back (by decide) (crowded_inL2 {}) (by rw [show halted.sliceLines _ _ = _ from crowded_sliceLines {}, List.length_map, length_fullSlice]) fun a listed => ?_
  rw [show halted.sliceLines _ _ = _ from crowded_sliceLines {}] at listed
  obtain ⟨x, hx, rfl⟩ := List.mem_map.mp listed
  exact misplacing_gives hx

/-- A write-back leaves the default entry of core 1 out, so that the strand of the second one comes to light. -/
theorem halted_lineCleaned (v : Nat) : ((halted.lineCleaned v).strand hiddenStrand).live = 1 ∧ ((halted.lineCleaned v).strand hiddenStrand).regs = { s := [(1, 1)] } := ⟨rfl, rfl⟩

/-- The strand after the lines of the image have been read at their homes. -/
theorem halted_atHome : (((imageLines 0x10000 (halted.strand hiddenStrand).sp.n).foldl State.atHome halted).strand hiddenStrand).regs = { s := [(1, 1)] } := by
  have lines : imageLines 0x10000 (halted.strand hiddenStrand).sp.n = 0x10000 :: ((List.range 35).map fun k => 0x10000 + 64 * (k + 1)) := by decide +kernel
  obtain ⟨v, cores⟩ := halted_fillL2
  obtain ⟨live, regs⟩ := halted_lineCleaned v
  have first : (halted.atHome 0x10000).strand hiddenStrand = (halted.lineCleaned v).strand hiddenStrand := by
    refine State.strand_congr ?_
    rw [State.core, State.core, ← cores]
    rfl
  have rest : ∀ (l : List Nat) (s : State), (s.strand hiddenStrand).live ≠ 0 → ((l.foldl State.atHome s).strand hiddenStrand).regs = (s.strand hiddenStrand).regs := by
    intro l
    induction l with
    | nil => exact fun _ _ => rfl
    | cons x l ih =>
      intro s live
      have kept := Unmoved.atHome live x
      exact (ih _ (by rw [kept.live]; exact live)).trans kept.regs
  rw [lines, List.foldl_cons, rest _ _ (by rw [first, live]; decide), first, regs]

/-- The stop entry of the counterexample. -/
def haltedEntry : StopEntry := { who := hiddenStrand, tenant := 0, pc := 0, len := 4, code := 0, mask := 1 }

/-- Refutes O60: the clause about LOAD claims of every state that a bad field leaves the registers of the strand that the stop entry names. In a state whose table of cores lists a default entry before
another one of the same core, which the model's tables exclude and the statement does not, the read of the image fills a full slice of the home L2, a line is written back, the default entry is left
out, and the strand of the other entry takes the place of the default strand. -/
theorem not_debugBlock : ¬ Obligations.DebugBlock := by
  intro h
  obtain ⟨-, commands, -⟩ := h
  obtain ⟨-, -, entries⟩ := commands halted 0 rfl rfl
  obtain ⟨-, -, -, images⟩ := entries haltedEntry rfl (by decide) rfl
  obtain ⟨-, bad, -⟩ := images (by decide +kernel) (by decide +kernel) halted_agentReady
  obtain ⟨t, loads, err, regs, -⟩ := bad halted_firstBad
  have shown := congrArg Strand.regs (dbgLoad_err (x := haltedEntry) rfl rfl (by decide) rfl (by decide +kernel) (by decide +kernel) halted_agentReady loads err hiddenStrand)
  have read : (t.strand hiddenStrand).regs = { s := [(1, 1)] } := shown.trans halted_atHome
  rw [show (t.strand hiddenStrand).regs = (halted.strand hiddenStrand).regs from regs, halted_strand] at read
  exact absurd (congrArg Regs.s read) (by decide)

end Sys2Proof.Machine
end

section
/-! The enqueuing instructions once their terms have passed: the settlement of O44. -/

namespace Sys2Proof.Machine
open Sys2Proof Sys2Proof.Safety

/-! The strand that waits. -/

/-- A strand that waits is of a resident comb. -/
theorem State.resident_of_wait {s : State} {w : Sid} {x : Wait} (wait : (s.strand w).sched.wait = some x) : (s.comb? w.core w.slot).isSome = true := by
  cases resident : s.comb? w.core w.slot with
  | some k => rfl
  | none =>
    have default : s.strand w = {} := by rw [State.strand, State.comb, resident]; rfl
    rw [default] at wait
    exact absurd wait (Option.some_ne_none x).symm

theorem Strand.passWait_wait (st : Strand) (cycle : Nat) : (st.passWait cycle).sched.wait = none := by simp only [Strand.passWait, Strand.account, Strand.move]

section
variable {s : State} {w : Sid} (resident : (s.comb? w.core w.slot).isSome = true)
include resident

/-- What a finished instruction leaves: its result, and no wait (R328). -/
theorem State.jobDone_ends (d : Nat) (v : Word) : ((s.jobDone w (some (d, v))).strand w).sched.wait = none ∧ Tab.get 0 ((s.jobDone w (some (d, v))).strand w).regs.s d = v := by
  rw [State.jobDone, State.strand_onStrand _ resident]
  refine ⟨Strand.passWait_wait .., ?_⟩
  rw [Strand.passWait_regs]
  exact Tab.get_put_same ..

theorem State.jobDone_wait (dest : Option (Nat × Word)) : ((s.jobDone w dest).strand w).sched.wait = none := by
  rw [State.jobDone, State.strand_onStrand _ resident]
  exact Strand.passWait_wait ..

end

theorem State.jobDone_memory (s : State) (w : Sid) (dest : Option (Nat × Word)) : (s.jobDone w dest).memory = s.memory := State.onStrand_memory ..

theorem State.jobDone_sched (s : State) (w : Sid) (dest : Option (Nat × Word)) : (s.jobDone w dest).sched = s.sched := State.onStrand_sched ..

/-! Levels (R321, R329). -/

section
variable {s : State} {t : BitVec 16} {c : Cell}

theorem State.admits_iff {q : Nat} : s.admits q t = true ↔ (s.queue q).en = true ∧ (s.queue q).tenant = t := by
  rw [State.admits, Bool.and_eq_true, beq_iff_eq]

theorem State.refusal_unbound (unbound : ¬ s.admits c.queue t = true) : s.refusal t c = some 0x80000002 := by
  rw [State.refusal, Bool.eq_false_iff.2 unbound]
  rfl

theorem State.refusal_full (bound : s.admits c.queue t = true) (full : ¬ ((s.queue c.queue).level c.prio).length < 2 ^ (s.queue c.queue).logcap) : s.refusal t c = some 0x80000001 := by
  rw [State.refusal, bound, State.hasRoom, decide_eq_false full]
  rfl

theorem State.refusal_none (bound : s.admits c.queue t = true) (room : ((s.queue c.queue).level c.prio).length < 2 ^ (s.queue c.queue).logcap) : s.refusal t c = none := by
  rw [State.refusal, bound, State.hasRoom, decide_eq_true room]
  rfl

theorem State.canEnqueue_fits (room : ((s.queue c.queue).level c.prio).length < 2 ^ (s.queue c.queue).logcap) (served : s.ringServed c.queue c.prio = true) : s.canEnqueue c = true := by
  rw [State.canEnqueue, State.hasRoom, decide_eq_true room, served]
  rfl

/-- An entry enqueued stands at the tail of its level. -/
theorem State.level_enqueue (s : State) (e : QEntry) : ((s.enqueue e).queue e.cell.queue).level e.cell.prio = (s.queue e.cell.queue).level e.cell.prio ++ [e] := by
  have queue : (s.enqueue e).queue e.cell.queue = (s.queue e.cell.queue).setLevel e.cell.prio ((s.queue e.cell.queue).level e.cell.prio ++ [e]) := Tab.get_put_same ..
  rw [queue, Queue.level, Queue.setLevel, Tab.get_put_same]

end

theorem State.queue_jobDone (s : State) (w : Sid) (dest : Option (Nat × Word)) (q : Nat) : (s.jobDone w dest).queue q = s.queue q := by
  rw [State.queue, State.jobDone_sched]
  rfl

/-! Stores for a strand (R331, R334). -/

theorem SameUnits.onStrand (s : State) (w : Sid) {f : Strand → Strand} : SameUnits s (s.onStrand w f) where
  clock := State.onStrand_clock ..
  fabric := State.onStrand_fabric ..
  host := State.onStrand_host ..
  service := State.onStrand_service ..
  tiers := State.onStrand_tiers ..
  queues := by rw [State.onStrand_sched]
  notify := by rw [State.onStrand_sched]
  combs {c n k} resident := by
    by_cases same : w.core = c ∧ w.slot = n
    · obtain ⟨rfl, rfl⟩ := same
      exact ⟨_, State.comb?_onComb _ resident, rfl⟩
    · exact ⟨k, (State.comb?_onComb_ne s _ (by omega)).trans resident, rfl⟩

theorem SameHome.forget (s : State) (core line : Nat) : SameHome s (s.forget core line) := by
  unfold State.forget
  split
  · exact .refl s
  · exact { combs := fun {c n k} resident => ⟨k, (State.comb?_onCore s (f := fun k => { k with l1 := dropLine k.l1 line, constant := dropLine k.constant line }) rfl c n).trans resident, rfl⟩ }

theorem State.storeFor_eq (s : State) (w : Sid) (pa n v : Nat) : ∃ f, s.storeFor w pa n v = ((s.homeWrite pa n v).forget w.core (lineOf pa)).onStrand w f := by
  unfold State.storeFor
  exact ⟨_, rfl⟩

theorem SameUnits.storeFor (s : State) (w : Sid) (pa n v : Nat) : SameUnits s (s.storeFor w pa n v) := by
  have written : SameUnits s (s.homeWrite pa n v) := .applyLine ..
  obtain ⟨f, eq⟩ := s.storeFor_eq w pa n v
  rw [eq]
  exact (written.trans (SameHome.forget _ w.core (lineOf pa)).toSameUnits).trans (.onStrand ..)

/-- Its bytes are those of a store at the home. -/
theorem State.storeFor_mem (s : State) (w : Sid) (pa n v : Nat) : (s.storeFor w pa n v).memory.mem = (s.homeWrite pa n v).memory.mem := by
  obtain ⟨f, eq⟩ := s.storeFor_eq w pa n v
  rw [eq, State.onStrand_memory]
  exact (SameHome.forget ..).mem

theorem State.read_storeFor {s : State} {w : Sid} {pa n v : Nat} (line : pa % 64 + n ≤ 64) : Mem.read (s.storeFor w pa n v).memory.mem pa n = v % 256 ^ n := by
  rw [State.storeFor_mem]
  exact Mem.read_of_bytes _ n pa v fun k hk => by rw [State.homeWrite_byte line, if_pos (by omega), Nat.add_sub_cancel_left]

section
variable {s t : State} (units : SameUnits s t)
include units

theorem SameUnits.resident {w : Sid} (h : (s.comb? w.core w.slot).isSome = true) : (t.comb? w.core w.slot).isSome = true := by
  obtain ⟨k, resident⟩ := Option.isSome_iff_exists.1 h
  obtain ⟨k', stays, _⟩ := units.combs resident
  rw [stays]
  rfl

theorem SameUnits.tenantOf {w : Sid} (h : (s.comb? w.core w.slot).isSome = true) : t.tenantOf w.core w.slot = s.tenantOf w.core w.slot := by
  obtain ⟨k, resident⟩ := Option.isSome_iff_exists.1 h
  obtain ⟨k', stays, tenant⟩ := units.combs resident
  rw [State.tenantOf, State.tenantOf, State.comb, State.comb, stays, resident]
  exact tenant

theorem SameUnits.queue (q : Nat) : t.queue q = s.queue q := by
  rw [State.queue, units.queues]
  rfl

theorem SameUnits.admits (q : Nat) (x : BitVec 16) : t.admits q x = s.admits q x := by
  rw [State.admits, State.admits, units.queue]

theorem SameUnits.served (pa : Nat) : t.served pa = s.served pa := by
  rw [State.served, State.served, State.serve, State.serve, State.extent?, State.extent?, units.tiers, units.clock]

theorem SameUnits.canEnqueue (c : Cell) : t.canEnqueue c = s.canEnqueue c := by
  rw [State.canEnqueue, State.canEnqueue, State.hasRoom, State.hasRoom, State.ringServed, State.ringServed]
  simp only [units.queue, units.served]

end

/-- NOTIFY touches no core. -/
theorem State.bump_cores (s : State) (reg : Nat) : (s.bump reg).cores = s.cores := by
  have released : ∀ (l : List Parked) (s : State), (l.foldl (fun s p => s.release reg p) s).cores = s.cores := by
    intro l
    induction l with
    | nil => exact fun _ => rfl
    | cons p l ih =>
      intro s
      refine (ih _).trans ?_
      change (s.release reg p).cores = _
      unfold State.release
      split <;> rfl
  exact released _ _

/-! Jobs (R328). -/

/-- What a job does once its terms have passed. -/
def State.actJob (s : State) (w : Sid) (dest : Nat) : Job → State
  | .spawn va pa => s.actSpawn w va pa dest
  | .spawnn va pa n dva dpa => s.actSpawnn w va pa n dva dpa dest
  | .join va pa => s.actJoin w va pa dest
  | .park va pa reg expected => s.actPark w va pa reg expected dest
  | .notify reg read => if read then s.jobDone w (some (dest, (s.notifyOf reg).seq)) else (s.bump reg).jobDone w none

section
variable {s : State} {w : Sid} {dest : Nat}

theorem deviceScopeTermReached_acts {job : Job} (wait : (s.strand w).sched.wait = some (.terms job dest)) (reached : s.termsReached w = true)
    (ready : ∀ l ∈ job.lines, s.homeWaits l = false) : exec (.deviceScopeTermReached w) s = .next (s.actJob w dest job) := by
  have lines : job.lines.any s.homeWaits = false := List.any_eq_false.2 fun l listed => by simp [ready l listed]
  change execDeviceScopeTermReached w s = _
  unfold execDeviceScopeTermReached
  simp only [wait, reached, lines, Bool.not_true, Bool.false_eq_true, if_false]
  cases job <;> rfl

/-- The swarm that SPAWNN makes (R331). -/
def State.newSwarm (s : State) (w : Sid) (n dva dpa : Nat) : Swarm :=
  let d := Mem.read s.memory.mem dpa 16
  { used := true, desc := dva, pa := dpa, n := n, sys := bit d 41, nen := bit d 40, nreg := bits d 39 32, tenant := s.tenantOf w.core w.slot }

section
variable (resident : (s.comb? w.core w.slot).isSome = true)
include resident

/-! SPAWN and SPAWNN (R330, R331). -/

theorem actSpawn_refused {va pa : Nat} {r : Word} (refused : s.refusal (s.tenantOf w.core w.slot) (recordCell va pa (s.recordAt pa)) = some r) : let t := s.actSpawn w va pa dest
    ((t.strand w).sched.wait = none ∧ Tab.get 0 (t.strand w).regs.s dest = r) ∧ t.sched = s.sched := by
  intro t
  have ends : t = s.jobDone w (some (dest, r)) := by simp only [t, State.actSpawn, refused]
  rw [ends]
  exact ⟨State.jobDone_ends resident dest r, State.jobDone_sched ..⟩

/-- A cell enqueued for the strand, which goes on with `v`. -/
theorem State.enqueue_jobDone (c : Cell) (v : Word) : let t := (s.enqueue (oneEntry c)).jobDone w (some (dest, v))
    ((t.strand w).sched.wait = none ∧ Tab.get 0 (t.strand w).regs.s dest = v) ∧
      (t.queue c.queue).level c.prio = (s.queue c.queue).level c.prio ++ [{ cell := c, next := c.index, last := c.index + 1, swarm := none }] ∧ t.memory = s.memory :=
  ⟨State.jobDone_ends (s := s.enqueue (oneEntry c)) resident dest v, by rw [State.queue_jobDone]; exact State.level_enqueue s (oneEntry c), State.jobDone_memory ..⟩

omit resident in
theorem actSpawn_enqueues {va pa : Nat} (taken : s.refusal (s.tenantOf w.core w.slot) (recordCell va pa (s.recordAt pa)) = none)
    (served : s.ringServed (recordCell va pa (s.recordAt pa)).queue (recordCell va pa (s.recordAt pa)).prio = true) :
    s.actSpawn w va pa dest = (s.enqueue (oneEntry (recordCell va pa (s.recordAt pa)))).jobDone w (some (dest, 0)) := by
  simp only [State.actSpawn, taken, served, if_true]

/-- An entry of a swarm enqueued for the strand, which goes on with `v`. -/
theorem State.swarm_jobDone (k : Nat) (x : Swarm) (e : QEntry) (v : Word) : let t := ((s.onSwarm k fun _ => x).enqueue e).jobDone w (some (dest, v))
    ((t.strand w).sched.wait = none ∧ Tab.get 0 (t.strand w).regs.s dest = v) ∧ t.memory = s.memory ∧ Tab.get {} t.sched.swarms k = x ∧
      (t.queue e.cell.queue).level e.cell.prio = (s.queue e.cell.queue).level e.cell.prio ++ [e] :=
  ⟨State.jobDone_ends (s := (s.onSwarm k fun _ => x).enqueue e) resident dest v, State.jobDone_memory .., by rw [State.jobDone_sched]; exact Tab.get_put_same ..,
    by rw [State.queue_jobDone]; exact State.level_enqueue (s.onSwarm k fun _ => x) e⟩

theorem actSpawnn_enqueues {va pa n dva dpa k : Nat} (taken : s.refusal (s.tenantOf w.core w.slot) (recordCell va pa (s.recordAt pa)) = none) (free : s.freeSwarm = some k)
    (served : s.ringServed (recordCell va pa (s.recordAt pa)).queue (recordCell va pa (s.recordAt pa)).prio = true) (aligned : dpa % 4 = 0) :
    let t := s.actSpawnn w va pa n dva dpa dest; let c := recordCell va pa (s.recordAt pa)
    ((t.strand w).sched.wait = none ∧ Tab.get 0 (t.strand w).regs.s dest = 0) ∧ Mem.read t.memory.mem dpa 4 = 0 ∧ (Tab.get {} t.sched.swarms k).n = n ∧ (Tab.get {} t.sched.swarms k).used = true ∧
      (t.queue c.queue).level c.prio = (s.queue c.queue).level c.prio ++ [{ cell := c, next := 0, last := n, swarm := some k }] := by
  intro t c
  let stored := (s.atHome (lineOf dpa)).storeFor w dpa 4 0
  have units : SameUnits s stored := (SameHome.atHome ..).toSameUnits.trans (.storeFor ..)
  let x := s.newSwarm w n dva dpa
  have becomes : t = ((stored.onSwarm k fun _ => x).enqueue { cell := c, next := 0, last := n, swarm := some k }).jobDone w (some (dest, 0)) := by
    simp only [t, State.actSpawnn, taken, free, served, Bool.not_true, Bool.false_eq_true, if_false]
    rfl
  obtain ⟨ends, memory, slot, tail⟩ := State.swarm_jobDone (dest := dest) (units.resident resident) k x { cell := c, next := 0, last := n, swarm := some k } 0
  rw [becomes]
  refine ⟨ends, ?_, congrArg Swarm.n slot, congrArg Swarm.used slot, ?_⟩
  · rw [memory]
    exact (State.read_storeFor (by omega)).trans (Nat.zero_mod _)
  · rw [tail, units.queue]

/-! JOIN (R334). -/

/-- The state in which JOIN reads its record. -/
def State.atRecord (s : State) (pa : Nat) : State := (s.atHome (lineOf pa)).countAccess (lineOf pa)

omit resident in
theorem SameHome.atRecord (s : State) (pa : Nat) : SameHome s (s.atRecord pa) := (SameHome.atHome ..).trans (.countAccess ..)

/-- What JOIN does for a record that names a cell `c` and whose count `o` is not 0. -/
def State.joinCounted (s : State) (w : Sid) (pa dest : Nat) (c : Cell) (o : Nat) : State :=
  if o = 1 ∧ !s.admits c.queue (s.tenantOf w.core w.slot) then s.jobDone w (some (dest, 0x80000002))
  else if o ≠ 1 then (s.storeFor w (pa + 16) 4 (o - 1)).jobDone w (some (dest, BitVec.ofNat 32 o)) else (s.storeFor w (pa + 16) 4 (o - 1)).enqueueOrWait w c dest 1

omit resident in
theorem actJoin_eq {va pa : Nat} (some_ : bits (Mem.read s.memory.mem pa 64) 159 128 ≠ 0) : s.actJoin w va pa dest =
    (s.atRecord pa).joinCounted w pa dest (recordCell va pa (Mem.read s.memory.mem pa 64)) (bits (Mem.read s.memory.mem pa 64) 159 128) := by
  have record : (s.atRecord pa).recordAt pa = Mem.read s.memory.mem pa 64 := congrArg (fun m => Mem.read m pa 64) (SameHome.atRecord s pa).mem
  rw [← record] at some_ ⊢
  exact if_neg some_

omit resident in
/-- The count in a record has 32 bits. -/
theorem count_lt (r : Nat) : bits r 159 128 < 2 ^ 32 := Nat.mod_lt _ (by decide)

theorem actJoin_counts {va pa : Nat} (aligned : pa % 64 = 0) (many : 2 ≤ bits (Mem.read s.memory.mem pa 64) 159 128) : let t := s.actJoin w va pa dest
    let o := bits (Mem.read s.memory.mem pa 64) 159 128
    ((t.strand w).sched.wait = none ∧ Tab.get 0 (t.strand w).regs.s dest = BitVec.ofNat 32 o) ∧ Mem.read t.memory.mem (pa + 16) 4 = o - 1 ∧ t.sched.queues = s.sched.queues := by
  intro t o
  let u := (s.atRecord pa).storeFor w (pa + 16) 4 (o - 1)
  have units : SameUnits s u := (SameHome.atRecord ..).toSameUnits.trans (.storeFor ..)
  have becomes : t = u.jobDone w (some (dest, BitVec.ofNat 32 o)) := by
    refine (actJoin_eq (by omega)).trans ?_
    rw [State.joinCounted, if_neg (fun h => by omega), if_pos (by omega)]
  have bound := count_lt (Mem.read s.memory.mem pa 64)
  rw [becomes]
  refine ⟨State.jobDone_ends (units.resident resident) _ _, ?_, by rw [State.jobDone_sched, units.queues]⟩
  rw [State.jobDone_memory, State.read_storeFor (by omega)]
  exact Nat.mod_eq_of_lt (by omega)

theorem actJoin_last {va pa : Nat} (aligned : pa % 64 = 0) (last : bits (Mem.read s.memory.mem pa 64) 159 128 = 1) : let t := s.actJoin w va pa dest
    let c := recordCell va pa (Mem.read s.memory.mem pa 64)
    s.admits c.queue (s.tenantOf w.core w.slot) = true → s.canEnqueue c = true →
    ((t.strand w).sched.wait = none ∧ Tab.get 0 (t.strand w).regs.s dest = 1) ∧ Mem.read t.memory.mem (pa + 16) 4 = 0 ∧
      (t.queue c.queue).level c.prio = (s.queue c.queue).level c.prio ++ [{ cell := c, next := c.index, last := c.index + 1, swarm := none }] := by
  intro t c bound fits
  let u := (s.atRecord pa).storeFor w (pa + 16) 4 0
  have home := SameHome.atRecord s pa
  have units : SameUnits s u := home.toSameUnits.trans (.storeFor ..)
  have becomes : t = (u.enqueue (oneEntry c)).jobDone w (some (dest, 1)) := by
    refine (actJoin_eq (by omega)).trans ?_
    rw [State.joinCounted, last, home.toSameUnits.tenantOf resident, home.toSameUnits.admits, if_neg (fun h => by simp [bound, c] at h), if_neg (by simp)]
    change u.enqueueOrWait w c dest 1 = _
    rw [State.enqueueOrWait, if_pos ((units.canEnqueue c).trans fits)]
  obtain ⟨ends, tail, memory⟩ := State.enqueue_jobDone (s := u) (dest := dest) (units.resident resident) c 1
  rw [becomes]
  refine ⟨ends, ?_, ?_⟩
  · rw [memory]
    exact (State.read_storeFor (by omega)).trans (Nat.zero_mod _)
  · rw [tail, units.queue]

theorem actJoin_refused {va pa : Nat} (last : bits (Mem.read s.memory.mem pa 64) 159 128 = 1)
    (unbound : ¬ s.admits (recordCell va pa (Mem.read s.memory.mem pa 64)).queue (s.tenantOf w.core w.slot) = true) : let t := s.actJoin w va pa dest
    ((t.strand w).sched.wait = none ∧ Tab.get 0 (t.strand w).regs.s dest = 0x80000002) ∧ t.memory.mem = s.memory.mem ∧ t.sched.queues = s.sched.queues := by
  intro t
  have home := SameHome.atRecord s pa
  have becomes : t = (s.atRecord pa).jobDone w (some (dest, 0x80000002)) := by
    refine (actJoin_eq (by omega)).trans ?_
    rw [State.joinCounted, last, home.toSameUnits.tenantOf resident, home.toSameUnits.admits, if_pos ⟨rfl, by simp [unbound]⟩]
  rw [becomes]
  exact ⟨State.jobDone_ends (home.toSameUnits.resident resident) _ _, by rw [State.jobDone_memory, home.mem], by rw [State.jobDone_sched, home.queues]⟩

/-! PARK and NOTIFY (R335). -/

theorem actPark_parks {va pa reg : Nat} {expected : Word} (bound : s.admits (recordCell va pa (s.recordAt pa)).queue (s.tenantOf w.core w.slot) = true)
    (same : (s.notifyOf reg).seq = expected) (room : s.parkCount < 4096) : let t := s.actPark w va pa reg expected dest
    ((t.strand w).sched.wait = none ∧ Tab.get 0 (t.strand w).regs.s dest = 0) ∧ t.memory = s.memory ∧
      ∃ p, (t.notifyOf reg).parked = (s.notifyOf reg).parked ++ [p] ∧ p.cell = recordCell va pa (s.recordAt pa) ∧ p.released = false := by
  intro t
  let p : Parked := { cell := recordCell va pa (s.recordAt pa), tenant := s.tenantOf w.core w.slot, released := false, order := s.sched.parkSeq }
  let parked := s.onNotify reg fun n => { n with parked := n.parked ++ [p] }
  let u : State := { parked with sched := { parked.sched with parkSeq := parked.sched.parkSeq + 1 } }
  have becomes : t = u.jobDone w (some (dest, 0)) := by
    simp only [t, State.actPark, bound, same, Nat.not_le.2 room, Bool.not_true, Bool.false_eq_true, if_false, ne_eq, not_true]
    rfl
  rw [becomes]
  refine ⟨State.jobDone_ends (s := u) resident dest 0, State.jobDone_memory .., p, ?_, rfl, rfl⟩
  rw [State.notifyOf, State.jobDone_sched]
  change (parked.notifyOf reg).parked = _
  rw [State.notifyOf_onNotify, if_pos rfl]

omit resident in
theorem actPark_enqueues {va pa reg : Nat} {expected : Word} (bound : s.admits (recordCell va pa (s.recordAt pa)).queue (s.tenantOf w.core w.slot) = true)
    (moved : (s.notifyOf reg).seq ≠ expected) (fits : s.canEnqueue (recordCell va pa (s.recordAt pa)) = true) :
    s.actPark w va pa reg expected dest = (s.enqueue (oneEntry (recordCell va pa (s.recordAt pa)))).jobDone w (some (dest, 1)) := by
  simp only [State.actPark, bound, moved, State.enqueueOrWait, fits, Bool.not_true, Bool.false_eq_true, if_false, ne_eq, not_false_eq_true, if_true]

end

theorem levelRoomEnqueue_strand {c : Cell} {v : Word} (wait : (s.strand w).sched.wait = some (.room c dest v)) (bound : s.admits c.queue (s.tenantOf w.core w.slot) = true)
    (fits : s.canEnqueue c = true) : exec (.levelRoomEnqueue (.strand w)) s = .next ((s.enqueue (oneEntry c)).jobDone w (some (dest, v))) := by
  have ready : s.roomReady (.strand w) = true := by simp only [State.roomReady, wait, bound, fits, Bool.and_self]
  change execLevelRoomEnqueue (.strand w) s = _
  unfold execLevelRoomEnqueue
  simp only [ready, wait, Bool.not_true, Bool.false_eq_true, if_false, next]

/-! WAIT (R420). -/

theorem waitWake_over {reg : Nat} {expected token : Word} (wait : (s.strand w).sched.wait = some (.notify reg expected token dest))
    (passed : (s.notifyOf reg).seq ≠ expected ∨ gtPassed s.clock.gt token = true) : Becomes (.waitWake w) s fun t =>
      ((t.strand w).sched.wait = none ∧ Tab.get 0 (t.strand w).regs.s dest = (s.notifyOf reg).seq) ∧ t.sched = s.sched ∧ t.memory = s.memory := by
  have done : s.waitOver w = true := by simpa [State.waitOver, wait] using passed
  refine ⟨s.onStrand w fun st => (st.putS dest (s.notifyOf reg).seq).passWait s.clock.cycle, ?_, ?_, State.onStrand_sched .., State.onStrand_memory ..⟩
  · change execWaitWake w s = _
    unfold execWaitWake
    simp only [wait, done, if_true, next]
  · rw [State.strand_onStrand _ (State.resident_of_wait wait)]
    refine ⟨Strand.passWait_wait .., ?_⟩
    rw [Strand.passWait_regs]
    exact Tab.get_put_same ..

theorem waitWake_stands {reg : Nat} {expected token : Word} (wait : (s.strand w).sched.wait = some (.notify reg expected token dest))
    (same : (s.notifyOf reg).seq = expected) (early : gtPassed s.clock.gt token = false) : exec (.waitWake w) s = .next s := by
  have waits : s.waitOver w = false := by simp [State.waitOver, wait, same, early]
  change execWaitWake w s = _
  unfold execWaitWake
  simp only [wait, waits, Bool.false_eq_true, if_false, next]

end

/-! O44. -/

/-- Settles O44: each job by its own event, whose accesses at the homes leave the queues, the tenants and the tiers as they were. -/
theorem workTakesEffect : Obligations.WorkTakesEffect := by
  unfold Obligations.WorkTakesEffect
  intro s w dest st tenant ends tail admitted room fits acts
  have acts_of {job : Job} {p : State → Prop} (h : (s.comb? w.core w.slot).isSome = true → p (s.actJob w dest job)) : acts job p := fun wait reached ready =>
    ⟨_, deviceScopeTermReached_acts wait reached ready, h (State.resident_of_wait wait)⟩
  have bound {c : Cell} (h : admitted c) : s.admits c.queue (s.tenantOf w.core w.slot) = true := State.admits_iff.2 h
  have unbound {c : Cell} (h : ¬ admitted c) : ¬ s.admits c.queue (s.tenantOf w.core w.slot) = true := fun yes => h (State.admits_iff.1 yes)
  refine ⟨fun va pa => ⟨fun no => acts_of fun resident => actSpawn_refused resident (State.refusal_unbound (unbound no)),
      fun yes full => acts_of fun resident => actSpawn_refused resident (State.refusal_full (bound yes) full), fun yes fit => acts_of fun resident => ?_⟩,
    fun va pa n dva dpa k yes fit free aligned => acts_of fun resident => actSpawnn_enqueues resident (State.refusal_none (bound yes) fit.1) free fit.2 aligned,
    fun va pa aligned => ⟨fun many => acts_of fun resident => actJoin_counts resident aligned many,
      fun one yes fit => acts_of fun resident => actJoin_last resident aligned one (bound yes) (State.canEnqueue_fits fit.1 fit.2),
      fun one no => acts_of fun resident => actJoin_refused resident one (unbound no)⟩,
    fun va pa reg expected yes => ⟨fun same few => acts_of fun resident => actPark_parks resident (bound yes) same few, fun moved fit => acts_of fun resident => ?_⟩,
    fun reg => ⟨acts_of fun resident => ⟨State.jobDone_ends resident dest _, State.jobDone_sched s w (some (dest, (s.notifyOf reg).seq))⟩, acts_of fun resident => ?_⟩,
    fun c v wait yes fit => ⟨_, levelRoomEnqueue_strand wait (bound yes) (State.canEnqueue_fits fit.1 fit.2), State.enqueue_jobDone (State.resident_of_wait wait) c v⟩,
    fun reg expected token wait => ⟨waitWake_over wait, waitWake_stands wait⟩⟩
  · have becomes : s.actJob w dest (.spawn va pa) = _ := actSpawn_enqueues (State.refusal_none (bound yes) fit.1) fit.2
    rw [becomes]
    exact State.enqueue_jobDone resident _ 0
  · have becomes : s.actJob w dest (.park va pa reg expected) = _ := actPark_enqueues (bound yes) moved (State.canEnqueue_fits fit.1 fit.2)
    rw [becomes]
    exact State.enqueue_jobDone resident _ 1
  · obtain ⟨memory, seq⟩ := s.bump_keeps reg
    have cores : (s.bump reg).comb? w.core w.slot = s.comb? w.core w.slot := by
      rw [State.comb?, State.core, s.bump_cores]
      rfl
    have becomes : s.actJob w dest (.notify reg false) = (s.bump reg).jobDone w none := rfl
    rw [becomes]
    refine ⟨State.jobDone_wait (by rw [cores]; exact resident) _, ?_, (State.jobDone_memory ..).trans memory⟩
    rw [State.notifyOf, State.jobDone_sched]
    exact seq

end Sys2Proof.Machine
end

section
/-! MCAS: the settlement of O38. -/

namespace Sys2Proof.Machine
open Sys2Proof Sys2Proof.Safety

theorem Strand.wait_of_mcas {st : Strand} {m : Mcas} (held : st.mcas? = some m) : st.sched.wait = some (.mcas m) := by
  unfold Strand.mcas? at held
  split at held
  · rename_i wait
    rw [wait, Option.some.inj held]
  · exact absurd held (Option.some_ne_none m).symm

/-! At issue (R244, R245). -/

section
variable {s : State} {e : Enc} {spots : List Spot}

/-- An MCAS whose checks pass begins its lock phase. -/
theorem exec_mcas_starts (h : Active .mcas e s) {i : Issue} (hi : s.issue .mcas e = i) {off : Nat} (hoff : (i.uA s).toNat = off) {wide : Bool} {raw : List (Nat × Nat × Nat)}
    (hwide : bit (s.winRead i.w.core i.w.slot off 8) 8 = wide) (hraw : s.mcasWords i.w off (bits (s.winRead i.w.core i.w.slot off 8) 3 0) wide = raw) {words : List McasWord}
    (hwords : (spots.zip raw).map (fun (p, r) => ({ va := p.addr, pa := p.pa, expected := r.2.1, new := r.2.2 } : McasWord)) = words)
    (block : s.mcasBlock i.w off = none) (addrs : (raw.mapIdx fun k x => mcasAddrTrap (mcasEntry off k) x.1 wide).findSome? id = none)
    (located : s.locateAll i.w i.st.trap.priv .global .atomic ((raw.map fun x => x.1).mapIdx fun k a => (k, bits a 56 0)) = spots.map Located.ok)
    (late : s.mcasLate i.w off wide (raw.map fun x => x.1) words = none) :
    exec (.mcas e) s = .next ((s.rememberAll i.w .global ((raw.map fun x => x.1).mapIdx fun k a => (k, bits a 56 0))).mcasStart i off wide words) := by
  have active : i.act ≠ 0 := hi ▸ h.active
  have served : (spots.map Located.ok).contains .waits = false := by simp
  change execMcas e s = _
  unfold execMcas
  rw [strandOnly_clear h.toClear]
  simp only [hi, if_neg active, hoff, hwide, hraw, block, addrs, located, protectOf_ok, served, faultsOf_ok, spotsOf_ok, hwords, late, List.isEmpty_nil, Bool.not_true, Bool.false_eq_true, if_false, next]

/-- The strand stands at it, and nothing is written. -/
theorem State.mcasStart_stands {s t : State} {i : Issue} (cores : t.cores = s.cores) (mem : t.memory.mem = s.memory.mem) (resident : (s.comb? i.w.core i.w.slot).isSome = true) (off : Nat) (wide : Bool)
    (words : List McasWord) : let u := t.mcasStart i off wide words
    u.memory.mem = s.memory.mem ∧ (u.strand i.w).regs = (s.strand i.w).regs ∧ (u.strand i.w).pcs = (s.strand i.w).pcs ∧
      (u.strand i.w).mcas? = some { block := off, wide := wide, dest := i.e.d.toNat, words := words, toLock := mcasLines words, locked := [], result := none } := by
  intro u
  have kept : KeepsCombs t (t.drainWhere i.w fun e => !e.fabric && (mcasLines words).contains e.pa) := (KeepsCombs.refl t).drainWhere ..
  have combs : ∀ c n, t.comb? c n = s.comb? c n := fun c n => by
    rw [State.comb?, State.core, cores]
    rfl
  have strand : t.strand i.w = s.strand i.w := by
    rw [State.strand, State.comb, combs]
    rfl
  have placed : u.strand i.w = _ := State.strand_onStrand _ (by rw [kept.comb?, combs]; exact resident)
  refine ⟨?_, ?_, ?_, ?_⟩
  · exact (congrArg Memory.mem ((State.onStrand_memory ..).trans kept.memory)).trans mem
  all_goals rw [placed, kept.strand, strand]
  rfl

end

/-! The lock phase (R246). -/

section
variable {s : State} {l : Nat}

theorem State.onPage_page (s : State) (pa : Nat) (f : Page → Page) : (s.onPage pa f).page pa = f (s.page pa) := Tab.get_put_same ..

theorem State.fillL2_pages (s : State) (line : Nat) : (s.fillL2 line).memory.pages = s.memory.pages := by
  have displaced : ∀ v, (s.displaceL2 v).memory.pages = s.memory.pages := fun v => by
    unfold State.displaceL2
    split
    · change (if _ then s.memory.evict v else s.memory).pages = _
      split <;> rfl
    · extract_lets cleaned
      have first : cleaned.memory.pages = s.memory.pages := by
        unfold cleaned
        split <;> rfl
      exact first
  have room : (s.roomL2 line).memory.pages = s.memory.pages := by
    unfold State.roomL2
    extract_lets held
    split
    · rfl
    split
    · exact displaced _
    · rfl
  unfold State.fillL2
  split
  · rfl
  · dsimp only
    split
    · exact room
    · exact room

theorem State.recall_pages (s : State) (line : Nat) : (s.recall line).memory.pages = s.memory.pages := by
  obtain ⟨o, g, v, recalled⟩ := s.recall_recalled line
  rw [recalled]
  rfl

/-- Each access to a resident page is counted (R350). -/
theorem State.countAccess_counts {α : Type} (device : isDevice l = true) (entries : List α) : ∀ s : State, (s.page l).resident = true → (s.page l).counter ≤ 255 →
    ((entries.foldl (fun s _ => s.countAccess l) s).page l).counter = min 255 ((s.page l).counter + entries.length) := by
  induction entries with
  | nil => exact fun s _ few => (Nat.min_eq_right few).symm
  | cons _ entries ih =>
    intro s resident few
    have counted : s.countAccess l = s.onPage l fun p => { p with counter := min 255 (p.counter + 1) } := if_pos (by rw [device, resident]; rfl)
    have page : (s.countAccess l).page l = { s.page l with counter := min 255 ((s.page l).counter + 1) } := by rw [counted, State.onPage_page]
    refine (ih _ (by rw [page]; exact resident) (by rw [page]; exact Nat.min_le_left ..)).trans ?_
    rw [page, List.length_cons]
    change min 255 (min 255 ((s.page l).counter + 1) + entries.length) = _
    omega

/-- The home of a line that an MCAS locks, after its accesses. -/
def State.mcasHome (s : State) (die l n : Nat) : State := ((List.range n).foldl (fun s _ => s.countAccess l) (s.reachHome l die true)).fillL2 l

theorem SameHome.mcasHome (s : State) (die l n : Nat) : SameHome s (s.mcasHome die l n) :=
  ((SameHome.recallLine s l).trans (SameHome.foldl (fun s _ => .countAccess s l) (List.range n) _)).trans (.fillL2 ..)

theorem State.mcasHome_counter (device : isDevice l = true) (resident : (s.page l).resident = true) (few : (s.page l).counter ≤ 255) (die n : Nat) :
    ((s.mcasHome die l n).page l).counter = min 255 ((s.page l).counter + n) := by
  have recalled : (s.reachHome l die true).page l = s.page l := by rw [State.page, show (s.reachHome l die true).memory.pages = _ from s.recall_pages l]; rfl
  have counted := State.countAccess_counts device (List.range n) (s.reachHome l die true) (by rw [recalled]; exact resident) (by rw [recalled]; exact few)
  rw [State.page, State.mcasHome, State.fillL2_pages]
  refine counted.trans ?_
  rw [recalled, List.length_range]

variable {w : Sid} {m : Mcas}

theorem mcasLockPhase_locks {k : Nat} {t : List Nat} (held : (s.strand w).mcas? = some m) (undecided : m.result = none) (more : m.toLock = l :: k :: t) (live : ∀ x ∈ m.locked ++ [l], s.failed x = false)
    (ready : s.homeWaits l = false) (drained : ∀ x ∈ mcasLines m.words, s.drained w m x = true) (free : (s.core w.core).shares.en = false) :
    Becomes (.mcasLockPhase w) s fun u => (u.strand w).mcas? = some { m with toLock := k :: t, paid := false, locked := m.locked ++ [l] } ∧ u.locked l = true ∧ u.memory.mem = s.memory.mem ∧
      (isDevice l = true → (s.page l).resident = true → (s.page l).counter ≤ 255 → (u.page l).counter = min 255 ((s.page l).counter + (m.words.filter fun x => lineOf x.pa == l).length)) := by
  let base := s.mcasHome (dieOf w.core) l (m.words.filter fun x => lineOf x.pa == l).length
  let locked := base.onMem fun y => { y with locks := y.locks ++ [{ line := l, owner := w, until_ := none }] }
  have home : SameHome s base := .mcasHome ..
  have resident : (locked.comb? w.core w.slot).isSome = true := home.toSameUnits.resident (State.resident_of_wait (Strand.wait_of_mcas held))
  have found : (m.locked ++ [l]).find? s.failed = none := List.find?_eq_none.2 fun x listed => by simp [live x listed]
  have all : (mcasLines m.words).all (s.drained w m) = true := List.all_eq_true.2 drained
  have pay : (if m.paid then (1, s) else s.spend w.core (s.tenantOf w.core w.slot) (.mcas w) 1) = (1, s) := by
    split
    · rfl
    · exact State.spend_free free ..
  refine ⟨locked.onStrand w fun st => ({ st with sched := { st.sched with wait := some (.mcas { m with toLock := k :: t, paid := false, locked := m.locked ++ [l] }) } } : Strand).unpark, ?_, ?_, ?_, ?_, ?_⟩
  · change execMcasLockPhase w s = _
    unfold execMcasLockPhase
    simp only [held, undecided, more, found, all, pay, ready, Bool.not_true, Bool.false_eq_true, if_false, List.isEmpty_cons, Nat.one_ne_zero]
    rfl
  · rw [State.strand_onStrand _ resident]
    rfl
  · rw [State.locked, State.onStrand_memory]
    exact List.any_eq_true.2 ⟨_, List.mem_append_right _ (List.mem_singleton.2 rfl), beq_self_eq_true l⟩
  · rw [State.onStrand_memory]
    exact home.mem
  · intro device held few
    rw [State.page, State.onStrand_memory]
    exact State.mcasHome_counter device held few ..

end

/-! The compare (R246, R247). -/

/-- The mask of the words that `differs` names. -/
def maskOf {α : Type} (differs : α → Bool) : List α → Nat
  | [] => 0
  | x :: l => 2 * maskOf differs l + (if differs x then 1 else 0)

section
variable {α : Type} {differs : α → Bool}

theorem maskOf_testBit : ∀ (l : List α) (k : Nat), (maskOf differs l).testBit k = (l[k]?).any differs
  | [], k => by simp [maskOf]
  | x :: l, 0 => by
    rw [maskOf, Nat.testBit_zero]
    cases h : differs x <;> simp [h]
  | x :: l, k + 1 => by
    have half : maskOf differs (x :: l) / 2 = maskOf differs l := by
      rw [maskOf]
      split <;> omega
    rw [Nat.testBit_succ, half, maskOf_testBit l k]
    rfl

theorem maskOf_eq_zero : ∀ {l : List α}, maskOf differs l = 0 ↔ ∀ x ∈ l, differs x = false
  | [] => by simp [maskOf]
  | x :: l => by
    rw [maskOf, List.forall_mem_cons, ← maskOf_eq_zero (l := l)]
    cases differs x <;> simp

end

/-- The compare of the words with what memory holds of them. -/
theorem maskOf_observed (words : List McasWord) (g : McasWord → Nat) : (words.zip (words.map g)).foldr (fun x v => 2 * v + (if x.2 = x.1.expected then 0 else 1)) 0 = maskOf (fun x => g x != x.expected) words := by
  induction words with
  | nil => rfl
  | cons x words ih =>
    rw [List.map_cons, List.zip_cons_cons, List.foldr_cons, ih, maskOf]
    by_cases same : g x = x.expected <;> simp [same]

section
variable {s : State} {w : Sid} {m : Mcas}

/-- Writes to the window of a comb leave memory, and every comb. -/
theorem State.winWrites_keep {α : Type} (c n k : Nat) (off v : α → Nat) : ∀ (l : List α) (s : State), (l.foldl (fun s x => s.winWrite c n (off x) k (v x)) s).memory = s.memory ∧
    ∀ d j, (l.foldl (fun s x => s.winWrite c n (off x) k (v x)) s).comb? d j = s.comb? d j
  | [], _ => ⟨rfl, fun _ _ => rfl⟩
  | x :: l, s => by
    obtain ⟨memory, combs⟩ := State.winWrites_keep c n k off v l (s.winWrite c n (off x) k (v x))
    exact ⟨memory, fun d j => (combs d j).trans (State.comb?_winWrite ..)⟩

/-- A result written to a strand that then goes on. -/
theorem State.putPass_ends (resident : (s.comb? w.core w.slot).isSome = true) (d : Nat) (v : Word) (cycle : Nat) {f : Strand → Strand} (same : ∀ st, (f st).regs = st.regs ∧ (f st).sched = st.sched) :
    let u := ((s.onStrand w fun st => st.putS d v).onStrand w fun st => st.passWait cycle).onStrand w f
    u.memory = s.memory ∧ (u.strand w).sched.wait = none ∧ Tab.get 0 (u.strand w).regs.s d = v := by
  intro u
  have put := State.resident_onStrand (fun st => st.putS d v) resident
  have strand : u.strand w = f (((s.strand w).putS d v).passWait cycle) := by
    rw [State.strand_onStrand _ (State.resident_onStrand _ put), State.strand_onStrand _ put, State.strand_onStrand _ resident]
  obtain ⟨regs, sched⟩ := same (((s.strand w).putS d v).passWait cycle)
  refine ⟨(State.onStrand_memory ..).trans ((State.onStrand_memory ..).trans (State.onStrand_memory ..)), ?_, ?_⟩
  · rw [strand, sched]
    exact Strand.passWait_wait ..
  · rw [strand, regs, Strand.passWait_regs]
    exact Tab.get_put_same ..

/-- Once decided the strand goes on with the mask in D (R247). -/
theorem State.mcasFinish_ends (resident : (s.comb? w.core w.slot).isSome = true) (obs : List Nat) (mask : Nat) {f : Strand → Strand} (same : ∀ st, (f st).regs = st.regs ∧ (f st).sched = st.sched) :
    let u := (s.mcasFinish w m obs mask).onStrand w f
    u.memory = s.memory ∧ (u.strand w).sched.wait = none ∧ Tab.get 0 (u.strand w).regs.s m.dest = BitVec.ofNat 32 mask := by
  obtain ⟨memory, combs⟩ := State.winWrites_keep w.core w.slot 8 (fun x : Nat × Nat => mcasEntry m.block x.1 + 8) (fun x => x.2) (obs.mapIdx fun k v => (k, v)) s
  unfold State.mcasFinish
  generalize (obs.mapIdx fun k v => (k, v)).foldl (fun s x => s.winWrite w.core w.slot (mcasEntry m.block x.1 + 8) 8 x.2) s = written at memory combs ⊢
  rw [← memory]
  exact State.putPass_ends (by rw [combs]; exact resident) m.dest _ _ same

theorem State.forget_memory (s : State) (core line : Nat) : (s.forget core line).memory.locks = s.memory.locks := by
  unfold State.forget
  split <;> rfl

/-- No lock is the strand's once it has released them. -/
theorem State.unlock_locks (s : State) (w : Sid) : ∀ l ∈ (s.unlock w).memory.locks, l.owner ≠ w := fun l listed => by
  have kept := (List.mem_filter.1 (show l ∈ s.memory.locks.filter fun l => l.owner != w from listed)).2
  exact bne_iff_ne.1 kept

theorem State.forgets_locks (core : Nat) : ∀ (lines : List Nat) (u : State), (lines.foldl (fun u l => u.forget core l) u).memory.locks = u.memory.locks
  | [], _ => rfl
  | _ :: lines, _ => (State.forgets_locks core lines _).trans (State.forget_memory ..)

theorem exec_mcasLockPhase_compares (held : (s.strand w).mcas? = some m) (undecided : m.result = none) (done : m.toLock = []) (live : ∀ x ∈ m.locked, s.failed x = false)
    (clean : ∀ x ∈ m.words, s.linePoison (lineOf x.pa) = false) : exec (.mcasLockPhase w) s = .next (s.mcasCompare w m) := by
  have found : m.locked.find? s.failed = none := List.find?_eq_none.2 fun x listed => by simp [live x listed]
  have poison : m.words.find? (fun x => s.linePoison (lineOf x.pa)) = none := List.find?_eq_none.2 fun x listed => by simp [clean x listed]
  change execMcasLockPhase w s = _
  unfold execMcasLockPhase
  simp only [held, undecided, done, found, State.mcasLocked, poison, next]

/-- What memory holds of a word that is compared. -/
def State.observed (s : State) (m : Mcas) (x : McasWord) : Nat := Mem.read s.memory.mem x.pa (if m.wide then 8 else 4)

/-- The mask of the words that memory holds otherwise than they were expected. -/
def State.mismatch (s : State) (m : Mcas) : Nat := maskOf (fun x => s.observed m x != x.expected) m.words

theorem mcasLockPhase_differs (held : (s.strand w).mcas? = some m) (undecided : m.result = none) (done : m.toLock = []) (live : ∀ x ∈ m.locked, s.failed x = false)
    (clean : ∀ x ∈ m.words, s.linePoison (lineOf x.pa) = false) (differs : ∃ x ∈ m.words, s.observed m x ≠ x.expected) : Becomes (.mcasLockPhase w) s fun u =>
      u.memory.mem = s.memory.mem ∧ (∀ l ∈ u.memory.locks, l.owner ≠ w) ∧ (u.strand w).sched.wait = none ∧
        ∀ k < m.words.length, k < 32 → (Tab.get 0 (u.strand w).regs.s m.dest).getLsbD k = decide (∃ x, m.words[k]? = some x ∧ s.observed m x ≠ x.expected) := by
  have some_ : s.mismatch m ≠ 0 := fun zero => by
    obtain ⟨x, listed, ne⟩ := differs
    exact ne (by simpa using maskOf_eq_zero.1 zero x listed)
  let free := (s.onStrand w Strand.closeRegion).unlock w
  let base := m.locked.foldl (fun s l => s.forget w.core l) free
  have home : SameHome free base := SameHome.foldl (fun s l => .forget s w.core l) m.locked free
  have resident : (base.comb? w.core w.slot).isSome = true := home.toSameUnits.resident (s := free) (State.resident_onStrand _ (State.resident_of_wait (Strand.wait_of_mcas held)))
  have compares : s.mcasCompare w m = (base.mcasFinish w m (m.words.map (s.observed m)) (s.mismatch m)).onStrand w fun st => st.addTerms (Terms.all s.clock.gt) := by
    unfold State.mcasCompare
    extract_lets n obs mask closed
    have masked : mask = s.mismatch m := maskOf_observed m.words (s.observed m)
    have clock : closed.clock = s.clock := State.onStrand_clock ..
    rw [masked, if_pos some_, clock]
    rfl
  obtain ⟨memory, wait, dest⟩ := State.mcasFinish_ends (m := m) resident (m.words.map (s.observed m)) (s.mismatch m) (f := fun st => st.addTerms (Terms.all s.clock.gt)) fun _ => ⟨rfl, rfl⟩
  refine ⟨_, exec_mcasLockPhase_compares held undecided done live clean, ?_⟩
  rw [compares]
  refine ⟨?_, ?_, wait, fun k _ small => ?_⟩
  · rw [memory]
    have closed : (s.onStrand w Strand.closeRegion).memory.mem = s.memory.mem := congrArg Memory.mem (State.onStrand_memory ..)
    exact home.mem.trans closed
  · have locks : base.memory.locks = free.memory.locks := State.forgets_locks ..
    rw [memory, locks]
    exact State.unlock_locks _ w
  · rw [dest, BitVec.getLsbD_ofNat, decide_eq_true small, Bool.true_and, State.mismatch, maskOf_testBit]
    cases m.words[k]? with
    | none => simp
    | some x => by_cases same : s.observed m x = x.expected <;> simp [same]

/-- T is no earlier than now, nor than the completion of any line locked. -/
theorem le_foldl_max {f : Nat → Nat} : ∀ (l : List Nat) (a : Nat), a ≤ l.foldl (fun t x => max t (f x)) a ∧ ∀ x ∈ l, f x ≤ l.foldl (fun t x => max t (f x)) a
  | [], a => ⟨le_rfl, nofun⟩
  | y :: l, a => by
    obtain ⟨start, each⟩ := le_foldl_max (f := f) l (max a (f y))
    exact ⟨(Nat.le_max_left ..).trans start, fun x listed => (List.mem_cons.1 listed).elim (fun here => by rw [here]; exact (Nat.le_max_right a (f y)).trans start) (each x)⟩

theorem mcasLockPhase_matches (held : (s.strand w).mcas? = some m) (undecided : m.result = none) (done : m.toLock = []) (live : ∀ x ∈ m.locked, s.failed x = false)
    (clean : ∀ x ∈ m.words, s.linePoison (lineOf x.pa) = false) (same : ∀ x ∈ m.words, s.observed m x = x.expected) : Becomes (.mcasLockPhase w) s fun u =>
      u.memory.mem = s.memory.mem ∧ ∃ obs t, (u.strand w).mcas? = some { m with result := some (obs, 0, t) } ∧ s.clock.gt ≤ t ∧ ∀ l ∈ m.locked, Tab.get 0 s.memory.grants (lineNo l) ≤ t := by
  have zero : s.mismatch m = 0 := maskOf_eq_zero.2 fun x listed => by simp [same x listed]
  let closed := s.onStrand w Strand.closeRegion
  let t := m.locked.foldl (fun t l => max t (closed.completion l)) closed.clock.gt
  have resident : (s.comb? w.core w.slot).isSome = true := State.resident_of_wait (Strand.wait_of_mcas held)
  obtain ⟨locks, compares⟩ : ∃ f : Memory → List LineLock, s.mcasCompare w m = (closed.onMem fun y => { y with locks := f y }).onStrand w fun st =>
      { st with sched := { st.sched with wait := some (.mcas { m with result := some (m.words.map (s.observed m), 0, t) }) } } := by
    unfold State.mcasCompare
    extract_lets n obs mask
    have masked : mask = 0 := (maskOf_observed m.words (s.observed m)).trans zero
    rw [masked, if_neg (not_not_intro rfl)]
    exact ⟨fun y => y.locks.map fun l => if l.owner = w then { l with until_ := some t } else l, rfl⟩
  obtain ⟨start, each⟩ := le_foldl_max (f := closed.completion) m.locked closed.clock.gt
  refine ⟨_, exec_mcasLockPhase_compares held undecided done live clean, ?_⟩
  rw [compares]
  refine ⟨?_, m.words.map (s.observed m), t, ?_, ?_, fun l listed => ?_⟩
  · rw [State.onStrand_memory]
    have same : closed.memory.mem = s.memory.mem := congrArg Memory.mem (State.onStrand_memory ..)
    exact same
  · rw [State.strand_onStrand _ (show ((closed.onMem fun y => { y with locks := locks y }).comb? w.core w.slot).isSome = true from State.resident_onStrand _ resident)]
    rfl
  · rw [← State.onStrand_clock s w Strand.closeRegion]
    exact start
  · have granted : Tab.get 0 closed.memory.grants (lineNo l) ≤ closed.completion l := Nat.le_max_right ..
    rw [State.onStrand_memory] at granted
    exact granted.trans (each l listed)

end

/-! The commit (R246). -/

/-- A word's new value applied at its home. -/
def State.commitWord (w : Sid) (n : Nat) (s : State) (x : McasWord) : State := (s.homeWrite x.pa n x.new).forget w.core (lineOf x.pa)

section
variable {w : Sid} {n : Nat}

theorem SameUnits.commitWords : ∀ (l : List McasWord) (s : State), SameUnits s (l.foldl (State.commitWord w n) s)
  | [], s => (SameHome.refl s).toSameUnits
  | x :: l, s => by
    have written : SameUnits s (s.homeWrite x.pa n x.new) := .applyLine ..
    exact (written.trans (SameHome.forget ..).toSameUnits).trans (SameUnits.commitWords l _)

theorem State.commitWord_byte {s : State} {x : McasWord} (line : x.pa % 64 + n ≤ 64) (b : Nat) : Mem.byte (State.commitWord w n s x).memory.mem b =
    if x.pa ≤ b ∧ b < x.pa + n then BitVec.ofNat 8 (x.new / 256 ^ (b - x.pa)) else Mem.byte s.memory.mem b := by
  rw [State.commitWord, (SameHome.forget ..).mem, State.homeWrite_byte line]

/-- No byte outside the words changes. -/
theorem State.commitWords_byte {b : Nat} : ∀ {l : List McasWord} {s : State}, (∀ x ∈ l, x.pa % 64 + n ≤ 64) → (∀ x ∈ l, b < x.pa ∨ x.pa + n ≤ b) →
    Mem.byte (l.foldl (State.commitWord w n) s).memory.mem b = Mem.byte s.memory.mem b
  | [], _, _, _ => rfl
  | x :: l, s, line, apart => by
    obtain ⟨lineX, lineL⟩ := List.forall_mem_cons.1 line
    obtain ⟨apartX, apartL⟩ := List.forall_mem_cons.1 apart
    exact (State.commitWords_byte lineL apartL).trans ((State.commitWord_byte lineX b).trans (if_neg (by omega)))

/-- Two aligned words are one or lie apart. -/
theorem aligned_apart {a b n : Nat} (ha : a % n = 0) (hb : b % n = 0) (ne : a ≠ b) : a + n ≤ b ∨ b + n ≤ a := by
  obtain ⟨i, rfl⟩ := Nat.dvd_of_mod_eq_zero ha
  obtain ⟨j, rfl⟩ := Nat.dvd_of_mod_eq_zero hb
  rcases Nat.lt_or_gt_of_ne (fun same : i = j => ne (same ▸ rfl)) with less | less
  · exact .inl ((Nat.mul_succ n i).symm.trans_le (Nat.mul_le_mul_left n less))
  · exact .inr ((Nat.mul_succ n j).symm.trans_le (Nat.mul_le_mul_left n less))

/-- Each word holds its new value, where words of one address agree. -/
theorem State.commitWords_read {x : McasWord} {l : List McasWord} (line : ∀ y ∈ l, y.pa % 64 + n ≤ 64) (aligned : ∀ y ∈ l, y.pa % n = 0) (agree : ∀ y ∈ l, ∀ z ∈ l, y.pa = z.pa → y.new = z.new)
    (listed : x ∈ l) (s : State) : Mem.read (l.foldl (State.commitWord w n) s).memory.mem x.pa n = x.new % 2 ^ (8 * n) := by
  induction l generalizing x s with
  | nil => exact absurd listed List.not_mem_nil
  | cons y l ih =>
    obtain ⟨lineY, lineL⟩ := List.forall_mem_cons.1 line
    obtain ⟨alignedY, alignedL⟩ := List.forall_mem_cons.1 aligned
    have agreeL : ∀ y ∈ l, ∀ z ∈ l, y.pa = z.pa → y.new = z.new := fun y hy z hz => agree y (List.mem_cons_of_mem _ hy) z (List.mem_cons_of_mem _ hz)
    rw [List.foldl_cons]
    by_cases again : ∃ z ∈ l, z.pa = x.pa
    · obtain ⟨z, later, same⟩ := again
      have value : z.new = x.new := agree z (List.mem_cons_of_mem _ later) x listed same
      rw [← same, ← value]
      exact ih lineL alignedL agreeL later _
    · have here : x = y := (List.mem_cons.1 listed).resolve_right fun later => again ⟨x, later, rfl⟩
      rw [here] at again ⊢
      rw [show 2 ^ (8 * n) = 256 ^ n by rw [Nat.pow_mul]]
      refine Mem.read_of_bytes _ n y.pa y.new fun k hk => ?_
      have apart : ∀ z ∈ l, y.pa + k < z.pa ∨ z.pa + n ≤ y.pa + k := fun z later => by
        have := aligned_apart alignedY (alignedL z later) fun same => again ⟨z, later, same.symm⟩
        omega
      rw [State.commitWords_byte lineL apart, State.commitWord_byte lineY, if_pos (by omega), Nat.add_sub_cancel_left]

/-- A strand whose MCAS has been committed at `t`, where these lines are still to be written back. -/
def Strand.committed (t : Nat) (lines : List Nat) (st : Strand) : Strand :=
  let st := st.addTerms (Terms.all t)
  { st with flight := { st.flight with lines := st.flight.lines ++ lines.filter fun l => !st.flight.lines.contains l } }

theorem mcasCommit_commits {s : State} {m : Mcas} {obs : List Nat} {mask t : Nat} (held : (s.strand w).mcas? = some m) (decided : m.result = some (obs, mask, t)) (due : t ≤ s.clock.gt)
    (hn : n = if m.wide then 8 else 4) (aligned : ∀ x ∈ m.words, x.pa % n = 0) (agree : ∀ x ∈ m.words, ∀ y ∈ m.words, x.pa = y.pa → x.new = y.new) : Becomes (.mcasCommit w) s fun u =>
      (∀ x ∈ m.words, Mem.read u.memory.mem x.pa n = x.new % 2 ^ (8 * n)) ∧ (∀ b, (∀ x ∈ m.words, b < x.pa ∨ x.pa + n ≤ b) → Mem.byte u.memory.mem b = Mem.byte s.memory.mem b) ∧
        (∀ l ∈ u.memory.locks, l.owner ≠ w) ∧ Tab.get 0 (u.strand w).regs.s m.dest = BitVec.ofNat 32 mask ∧ (u.strand w).sched.wait = none := by
  have size : n = 8 ∨ n = 4 := by
    rw [hn]
    cases m.wide <;> simp
  have line : ∀ x ∈ m.words, x.pa % 64 + n ≤ 64 := fun x listed => by
    have := aligned x listed
    rcases size with rfl | rfl <;> omega
  let base := m.words.foldl (State.commitWord w n) s
  have resident : ((base.unlock w).comb? w.core w.slot).isSome = true := (SameUnits.commitWords m.words s).resident (State.resident_of_wait (Strand.wait_of_mcas held))
  have ready : s.commitDue w = true := by simp only [State.commitDue, held, decided, due, decide_true]
  let f := Strand.committed t (m.locked.flatMap base.dirtyLine)
  have runs : exec (.mcasCommit w) s = .next (((base.unlock w).mcasFinish w m obs mask).onStrand w f) := by
    change execMcasCommit w s = _
    unfold execMcasCommit
    simp only [ready, held, decided, ← hn, Bool.not_true, Bool.false_eq_true, if_false]
    rfl
  obtain ⟨memory, wait, dest⟩ := State.mcasFinish_ends (m := m) resident obs mask (f := f) fun _ => ⟨rfl, rfl⟩
  have mem : (((base.unlock w).mcasFinish w m obs mask).onStrand w f).memory.mem = base.memory.mem := congrArg Memory.mem memory |>.trans rfl
  refine ⟨_, runs, fun x listed => ?_, fun b apart => ?_, ?_, dest, wait⟩
  · rw [mem]
    exact State.commitWords_read line aligned agree listed s
  · rw [mem]
    exact State.commitWords_byte line apart
  · rw [memory]
    exact State.unlock_locks _ w

end

/-! O38. -/

/-- Settles O38: each step of MCAS by its own lemma; a line is reached, counted and filled without any change of memory's bytes. -/
theorem multiWordCompareAndSwap : Obligations.MultiWordCompareAndSwap := by
  unfold Obligations.MultiWordCompareAndSwap
  refine ⟨fun e s spots active => ?issues, fun s w m held => ⟨fun l k t undecided more live ready drained free => mcasLockPhase_locks held undecided more live ready drained free,
    fun undecided done live clean => ⟨mcasLockPhase_differs held undecided done live clean, mcasLockPhase_matches held undecided done live clean⟩,
    fun obs mask t decided due => mcasCommit_commits held decided due rfl⟩⟩
  intro w i off header raw words block addrs located late
  obtain ⟨o, g, v, b, remembered⟩ := s.rememberAll_held i.w .global ((raw.map fun x => x.1).mapIdx fun k a => (k, bits a 56 0))
  have mem : (s.rememberAll i.w .global ((raw.map fun x => x.1).mapIdx fun k a => (k, bits a 56 0))).memory.mem = s.memory.mem := by
    rw [remembered]
    rfl
  have resident : (s.comb? i.w.core i.w.slot).isSome = true := State.resident_of_may active.may
  refine ⟨_, exec_mcas_starts active (i := i) (off := off) (wide := bit header 8) (raw := raw) (words := words) rfl rfl rfl rfl rfl block addrs located late, ?_⟩
  exact State.mcasStart_stands (i := i) (State.cores_rememberAll s i.w .global _) mem resident off (bit header 8) words

end Sys2Proof.Machine
end

section
/-! The lease table: the settlement of O50. -/

namespace Sys2Proof.Machine
open Sys2Proof Sys2Proof.Safety

/-! The entries and the bytes of extents. -/

/-- Entry `idx` of the lease table is `l`, and the other entries are those that they were. -/
def State.HasLease (s t : State) (idx : Nat) (l : Lease) : Prop := t.lease? idx = some l ∧ ∀ k, k ≠ idx → t.lease? k = s.lease? k

theorem State.setLease_has {s t : State} (tiers : t.tiers = s.tiers) (idx : Nat) (l : Lease) : s.HasLease (t.setLease idx l) idx l := by
  rw [State.HasLease, State.lease?, State.setLease]
  refine ⟨?_, fun k other => ?_⟩
  · change Tab.get none (Tab.put none t.tiers.leases idx (some l)) idx = _
    exact Tab.get_put_same ..
  · rw [State.lease?, State.lease?, ← tiers]
    change Tab.get none (Tab.put none t.tiers.leases idx (some l)) k = _
    exact Tab.get_put_ne _ _ _ other.symm

/-- The bytes outside an extent, and the tiers, are those that they were. -/
structure BesideExtent (l : Lease) (s t : State) : Prop where
  tiers : t.tiers = s.tiers := by rfl
  bytes : ∀ a, Lease.has l a = false → Mem.byte t.memory.mem a = Mem.byte s.memory.mem a := by exact fun _ _ => rfl

section
variable {l : Lease} {s t u : State}

theorem BesideExtent.trans (h : BesideExtent l s t) (h' : BesideExtent l t u) : BesideExtent l s u := ⟨h'.tiers.trans h.tiers, fun a out => (h'.bytes a out).trans (h.bytes a out)⟩

theorem Lease.has_iff {a : Nat} : Lease.has l a = true ↔ l.base * 2097152 ≤ a ∧ a < (l.base + l.size) * 2097152 := by
  rw [Lease.has, Bool.and_eq_true, decide_eq_true_iff, decide_eq_true_iff]
  rfl

theorem Lease.has_of_out {a : Nat} (out : a < l.base * 2097152 ∨ (l.base + l.size) * 2097152 ≤ a) : Lease.has l a = false :=
  Bool.eq_false_iff.2 fun has => by
    have := Lease.has_iff.1 has
    omega

/-- A line that starts in an extent lies in it. -/
theorem BesideExtent.discardLine {x : Nat × LineBits} {k : Nat} (line : x.1 = 64 * k) (has : Lease.has l x.1 = true) : BesideExtent l s (s.discardLine x) where
  bytes a out := by
    have inside := Lease.has_iff.1 has
    have outside : ¬ (l.base * 2097152 ≤ a ∧ a < (l.base + l.size) * 2097152) := fun h => Bool.eq_false_iff.1 out (Lease.has_iff.2 h)
    have written : (s.discardLine x).memory.mem = Mem.writeMasked s.memory.mem x.1 (2 ^ 64 - 1) x.2.toNat 64 := rfl
    rw [written, Mem.byte_writeMasked, if_neg (by omega)]

theorem BesideExtent.discards : ∀ {lines : List (Nat × LineBits)} {s : State}, (∀ x ∈ lines, Lease.has l x.1 = true ∧ ∃ k, x.1 = 64 * k) → BesideExtent l s (lines.foldl State.discardLine s)
  | [], _, _ => {}
  | x :: lines, s, mine => by
    obtain ⟨⟨has, k, line⟩, rest⟩ := List.forall_mem_cons.1 mine
    exact (BesideExtent.discardLine line has).trans (BesideExtent.discards rest)

theorem State.dirtyLines_inside (s : State) (l : Lease) : ∀ x ∈ s.dirtyLines l, Lease.has l x.1 = true ∧ ∃ k, x.1 = 64 * k := fun x listed => by
  obtain ⟨y, _, entry⟩ := List.mem_filterMap.1 listed
  split at entry
  · split at entry
    · next has =>
      obtain rfl := Option.some.inj entry
      exact ⟨has, y.1, rfl⟩
    · exact absurd entry (Option.some_ne_none x).symm
  · exact absurd entry (Option.some_ne_none x).symm

theorem BesideExtent.dropExtent (s : State) (l : Lease) : BesideExtent l s (s.dropExtent l) := by
  have discarded : BesideExtent l s ((s.dirtyLines l).foldl State.discardLine s) := .discards (s.dirtyLines_inside l)
  have recalled : ∀ (lines : List Nat) (s : State), BesideExtent l s (lines.foldl State.recall s) := fun lines s => by
    have home : SameHome s (lines.foldl State.recall s) := SameHome.foldl (fun s x => .recallLine s x) lines s
    exact ⟨home.tiers, fun a _ => by rw [home.mem]⟩
  have dropped : BesideExtent l ((s.dirtyLines l).foldl State.discardLine s) ((((s.dirtyLines l).foldl State.discardLine s).dropPages l).loseLease l) := (recalled _ _).trans {}
  exact discarded.trans dropped

end

/-! What backs an extent (R346). -/

/-- The cells of some addresses, written, hold there what all the cells hold. -/
theorem Mem.byte_writeCells_filter {mine : Nat → Bool} {a : Nat} (has : mine a = true) : ∀ (cells : List (Nat × Byte)) {m m' : Mem}, Mem.byte m a = Mem.byte m' a →
    Mem.byte (Mem.writeCells m (cells.filter fun x => mine x.1)) a = Mem.byte (Mem.writeCells m' cells) a
  | [], _, _, same => same
  | (b, v) :: cells, m, m', same => by
    by_cases here : mine b = true
    · rw [List.filter_cons_of_pos (by exact here), Mem.writeCells, Mem.writeCells]
      refine Mem.byte_writeCells_filter has cells ?_
      rw [Mem.byte_setByte, Mem.byte_setByte, same]
    · rw [List.filter_cons_of_neg (by exact here), Mem.writeCells]
      refine Mem.byte_writeCells_filter has cells ?_
      rw [Mem.byte_setByte, if_neg (fun this : b = a => here (this ▸ has)), same]

/-- No cell of other addresses changes a byte. -/
theorem Mem.byte_writeCells_out {mine : Nat → Bool} {a : Nat} (out : mine a = false) : ∀ (cells : List (Nat × Byte)) (m : Mem), Mem.byte (Mem.writeCells m (cells.filter fun x => mine x.1)) a = Mem.byte m a
  | [], _ => rfl
  | (b, v) :: cells, m => by
    by_cases here : mine b = true
    · rw [List.filter_cons_of_pos (by exact here), Mem.writeCells, Mem.byte_writeCells_out out cells, Mem.byte_setByte, if_neg (fun this => by rw [this, out] at here; exact absurd here Bool.false_ne_true)]
    · rw [List.filter_cons_of_neg (by exact here), Mem.byte_writeCells_out out cells]

/-- A table holds nothing at a key that is filtered out. -/
theorem Tab.get_filter_out {α : Type} {p : Nat → Bool} (d : α) {i : Nat} (out : p i = false) : ∀ t : Tab α, Tab.get d (t.filter fun x => p x.1) i = d
  | [] => rfl
  | (j, x) :: t => by
    by_cases here : p j = true
    · rw [List.filter_cons_of_pos (by exact here), Tab.get, if_neg (fun same => by rw [same, out] at here; exact absurd here Bool.false_ne_true)]
      exact Tab.get_filter_out d out t
    · rw [List.filter_cons_of_neg (by exact here)]
      exact Tab.get_filter_out d out t

section
variable {s : State} {l : Lease} {contents : List (Nat × Byte)}

theorem BesideExtent.fillExtent (keep : List Nat) : BesideExtent l s (s.fillExtent l keep contents) where
  bytes a out := by
    have mine : (Lease.has l a && !keep.contains (lineOf a)) = false := by rw [out]; rfl
    exact (Mem.byte_writeCells_out (mine := fun a => Lease.has l a && !keep.contains (lineOf a)) mine contents _).trans
      (Tab.get_filter_key (p := fun a => !(Lease.has l a && !keep.contains (lineOf a))) 0 (by rw [mine]; rfl) _)

theorem State.fillExtent_holds {a : Nat} (has : Lease.has l a = true) : Mem.byte (s.fillExtent l [] contents).memory.mem a = Mem.byte (Mem.writeCells [] contents) a := by
  have mine : (Lease.has l a && !([] : List Nat).contains (lineOf a)) = true := by rw [has]; rfl
  exact Mem.byte_writeCells_filter (mine := fun a => Lease.has l a && !([] : List Nat).contains (lineOf a)) mine contents
    (Tab.get_filter_out (p := fun a => !(Lease.has l a && !([] : List Nat).contains (lineOf a))) 0 (by rw [mine]; rfl) _)

end

/-! Without hint records (R360). -/

section
variable {s : State}

theorem State.kept_free (free : s.tiers.hints = []) (l : Lease) : s.kept l = false := by rw [State.kept, State.hinted, free]; rfl

theorem State.misplaced_free (free : s.tiers.hints = []) (l : Lease) : s.misplaced l = false := by
  simp only [State.misplaced, State.hinted, free, List.any_nil, Bool.and_false, Bool.or_self]

theorem State.renewsFirst_free (free : s.tiers.hints = []) (idx : Nat) (l : Lease) : s.renewsFirst idx l = false := by
  have none_ : ∀ l, s.kept l = false := State.kept_free free
  have absent : (s.tiers.leases.any fun x => match x.2 with
      | some y => x.1 != idx && y.state == .active && decide (y.expiry ≤ l.expiry) && s.kept y
      | none => false) = false := List.any_eq_false.2 fun x _ => by
    cases x.2 with
    | none => exact Bool.false_ne_true
    | some y => simp [none_]
  rw [State.renewsFirst, none_]
  exact absent

theorem State.placeHints_free (free : s.tiers.hints = []) : s.placeHints = s := by rw [State.placeHints, free]; rfl

end

/-- The resident lines of a remapped extent without dirty lines dropped (R346). -/
def State.dropClean (s : State) (l : Lease) : State := s.onMem fun m => { m with
  l2 := m.l2.filter fun x => !Lease.has l (64 * x.1) || ([] : List Nat).contains (64 * x.1)
  pages := Tab.mapVals {} (fun k p => if Lease.has l (65536 * k) && p.resident then remapPage [] k p else p) m.pages }

/-! The steps of an extent (R346, R364). -/

section
variable {s : State} {idx : Nat} {l : Lease} (held : s.lease? idx = some l)
include held

theorem leaseExpire_expires (active : l.state = .active) (due : l.expiry ≤ s.clock.gt) : Becomes (.leaseExpire idx) s fun t => s.HasLease t idx { l with state := .expired } ∧ t.memory = s.memory := by
  refine ⟨((s.loseLease l).setLease idx { l with state := .expired }).count 13 1, ?_, State.setLease_has (t := s.loseLease l) rfl idx _, rfl⟩
  change execLeaseExpire idx s = _
  unfold execLeaseExpire
  simp only [held, State.expireDue, active, due, beq_self_eq_true, decide_true, Bool.and_self, if_true, next]

theorem leaseExpire_early (early : s.clock.gt < l.expiry) : exec (.leaseExpire idx) s = .next s := by
  change execLeaseExpire idx s = _
  unfold execLeaseExpire
  simp only [held, State.expireDue, decide_eq_false (Nat.not_le.2 early), Bool.and_false, Bool.false_eq_true, if_false, next]

theorem revocationNotice_revokes {deadline : Nat} (active : l.state = .active) (early : s.clock.gt < l.expiry) (ahead : s.clock.gt + 1000000 ≤ deadline) :
    exec (.revocationNotice idx deadline) s = .next (s.setLease idx { l with state := .revoking, expiry := deadline }) := by
  change execRevocationNotice idx deadline s = _
  unfold execRevocationNotice
  simp only [held, active, early, ahead, beq_self_eq_true, decide_true, Bool.and_self, if_true, next]

theorem leaseRevokeDeadline_revokes (revoking : l.state = .revoking) (due : l.expiry ≤ s.clock.gt) : Becomes (.leaseRevokeDeadline idx) s fun t => s.HasLease t idx { l with state := .revoked } ∧
    ∀ a, a < l.base * 2097152 ∨ (l.base + l.size) * 2097152 ≤ a → Mem.byte t.memory.mem a = Mem.byte s.memory.mem a := by
  have dropped := BesideExtent.dropExtent s l
  refine ⟨(s.dropExtent l).setLease idx { l with state := .revoked }, ?_, State.setLease_has dropped.tiers idx _, fun a out => dropped.bytes a (Lease.has_of_out out)⟩
  change execLeaseRevokeDeadline idx s = _
  unfold execLeaseRevokeDeadline
  simp only [held, State.deadlineDue, revoking, due, beq_self_eq_true, decide_true, Bool.and_self, if_true, next]

theorem poolNodeLost_fails {borrowed : Bool} {node : Nat} (only : s.tiers.leases = [(idx, some l)]) (busy : l.state ≠ .free) (sound : l.state ≠ .failed) (kind : l.kind = .borrowed ↔ borrowed = true)
    (place : l.node = node) (settled : s.outrun borrowed node = false) : Becomes (.poolNodeLost borrowed node) s fun t => s.HasLease t idx { l with state := .failed } ∧ t.memory = s.memory := by
  let failed := ((s.loseLease l).setLease idx { l with state := .failed }).count 7 1
  have same : (l.kind == .borrowed) = borrowed := Bool.eq_iff_iff.2 (beq_iff_eq.trans kind)
  have there : (l.state != .free && l.state != .failed && (l.kind == .borrowed) == borrowed && l.node == node) = true := by
    rw [same, bne_iff_ne.2 busy, bne_iff_ne.2 sound, beq_self_eq_true, place, beq_self_eq_true]
    rfl
  have fails : s.failExtent borrowed node idx = failed := by
    rw [State.failExtent]
    simp only [held, there, if_true]
    rfl
  have keys : Tab.keys s.tiers.leases = [idx] := by rw [only]; rfl
  have changed : failed.tiers.leases ≠ s.tiers.leases := fun eq => by
    have entry : Tab.get none failed.tiers.leases idx = some { l with state := .failed } := (State.setLease_has (s := s) (t := s.loseLease l) rfl idx _).1
    rw [eq] at entry
    exact sound (congrArg Lease.state (Option.some.inj (held.symm.trans entry)))
  have becomes : s.failNode borrowed node = failed.interrupt := by
    unfold State.failNode
    rw [keys, List.foldl_cons, List.foldl_nil, fails, if_neg changed]
  refine ⟨failed.interrupt, ?_, State.setLease_has (t := s.loseLease l) rfl idx _, rfl⟩
  change execPoolNodeLost borrowed node s = _
  unfold execPoolNodeLost
  rw [settled, becomes]
  rfl

section
variable (free : s.tiers.hints = [])
include free

theorem leaseRenew_renews {expiry : Nat} (may : (l.state = .active ∧ l.expiry < expiry) ∨ l.state = .expired) : Becomes (.leaseRenew idx expiry) s fun t =>
    s.HasLease t idx { l with state := .active, expiry := expiry } ∧ t.memory = s.memory := by
  have allowed : ((l.state == .active && decide (l.expiry < expiry)) || l.state == .expired) = true := by simpa using may
  refine ⟨s.setLease idx { l with state := .active, expiry := expiry }, ?_, State.setLease_has rfl idx _, rfl⟩
  change execLeaseRenew idx expiry s = _
  unfold execLeaseRenew
  simp only [held, State.renewsFirst_free free, allowed, Bool.false_eq_true, if_false, if_true, next]
  exact congrArg Host.Outcome.next (State.placeHints_free free)

theorem leaseRemap_remaps {node boff expiry : Nat} {contents : List (Nat × Byte)} (failed : l.state = .failed) (fits : s.leaseFits idx { l with state := .active, node := node, boff := boff, expiry := expiry } = true)
    (clean : s.dirtyLines l = []) : Becomes (.leaseRemap idx node boff expiry contents) s fun t => s.HasLease t idx { l with state := .active, node := node, boff := boff, expiry := expiry } ∧
      ∀ a, Lease.has l a = false → Mem.byte t.memory.mem a = Mem.byte s.memory.mem a := by
  let filled := s.fillExtent l [] contents
  refine ⟨(filled.dropClean l).setLease idx { l with state := .active, node := node, boff := boff, expiry := expiry }, ?_, State.setLease_has (t := filled.dropClean l) rfl idx _,
    (BesideExtent.fillExtent (contents := contents) []).bytes⟩
  change execLeaseRemap idx node boff expiry contents s = _
  unfold execLeaseRemap
  simp only [held, failed, fits, clean, State.kept_free free, bne_self_eq_false, Bool.not_true, Bool.or_self, Bool.false_eq_true, if_false, false_and, List.map_nil, List.foldl_nil, next]
  exact congrArg Host.Outcome.next (State.placeHints_free free)

theorem leaseAcquire_acquires {x : Lease} {contents : List (Nat × Byte)} (unused : l.state = .free) (fits : s.leaseFits idx x = true) : Becomes (.leaseAcquire idx x contents) s fun t =>
    s.HasLease t idx { x with state := .active } ∧ (∀ a, Lease.has x a = true → Mem.byte t.memory.mem a = Mem.byte (Mem.writeCells [] contents) a) ∧
      ∀ a, Lease.has x a = false → Mem.byte t.memory.mem a = Mem.byte s.memory.mem a := by
  refine ⟨(s.fillExtent x [] contents).setLease idx { x with state := .active }, ?_, State.setLease_has (t := s.fillExtent x [] contents) rfl idx _, fun a => State.fillExtent_holds, (BesideExtent.fillExtent []).bytes⟩
  change execLeaseAcquire idx x contents s = _
  unfold execLeaseAcquire
  simp only [held, unused, fits, State.misplaced_free free, beq_self_eq_true, Bool.not_false, Bool.and_self, if_true, next]
  exact congrArg Host.Outcome.next (State.placeHints_free free)

theorem leaseRelease_frees (used : l.state ≠ .free) : Becomes (.leaseRelease idx) s fun t => s.HasLease t idx { l with state := .free } ∧
    ∀ a, Lease.has l a = false → Mem.byte t.memory.mem a = Mem.byte s.memory.mem a := by
  have dropped := BesideExtent.dropExtent s l
  have may : (l.state != .free && !s.kept l) = true := by
    rw [bne_iff_ne.2 used, State.kept_free free]
    rfl
  refine ⟨(s.dropExtent l).setLease idx { l with state := .free }, ?_, State.setLease_has dropped.tiers idx _, dropped.bytes⟩
  change execLeaseRelease idx s = _
  unfold execLeaseRelease
  simp only [held, may, if_true, next]

end
end

/-! O50. -/

/-- Settles O50: each step of the table by its own lemma; a dirty line that is discarded lies in its extent. -/
theorem leaseTableSteps : Obligations.LeaseTableSteps := by
  unfold Obligations.LeaseTableSteps
  intro s idx l held becomes
  exact ⟨leaseExpire_expires held, fun _ => leaseExpire_early held, fun deadline => revocationNotice_revokes held, leaseRevokeDeadline_revokes held, fun borrowed node => poolNodeLost_fails held,
    fun free => ⟨fun expiry => leaseRenew_renews held free, fun node boff expiry contents => leaseRemap_remaps held free, fun x contents => leaseAcquire_acquires held free, leaseRelease_frees held free⟩⟩

end Sys2Proof.Machine
end

section
/-! The pager, the counters and the hints: the settlement of O51. -/

namespace Sys2Proof.Machine
open Sys2Proof Sys2Proof.Safety

/-! Batches written and resolved (R353, R354). -/

section
variable {s : State} {die : Nat} {b : Batch} {x : BatchEntry}

/-- The search by number for a batch that has been written. -/
theorem find?_written (id : Nat) : ∀ l : List Batch, (l.map fun b => if b.id = id then { b with written := true } else b).find? (fun b => b.id == id) =
    (l.find? fun b => b.id == id).map fun b => { b with written := true }
  | [] => rfl
  | b :: l => by
    by_cases this : b.id = id
    · simp [this]
    · simp [this, find?_written id l]

theorem faultBatchWrite_stores {id : Nat} (found : s.batch? id = some b) (mine : b.die = die) (fresh : b.written = false) (one : b.entries = [x]) (en : (s.pager die).en = true)
    (room : (s.pager die).held + 1 ≤ 2 ^ (s.pager die).logn) (aligned : (s.pager die).entryPa (s.pager die).tail.toNat % 32 = 0)
    (ready : s.agentReady (lineOf ((s.pager die).entryPa (s.pager die).tail.toNat)) = true) (is : die ≤ 1) : Becomes (.faultBatchWrite die id) s fun t =>
      Mem.read t.memory.mem ((s.pager die).entryPa (s.pager die).tail.toNat) 32 = b.entryBits 0 x % 2 ^ 256 ∧ (t.pager die).tail = (s.pager die).tail + 1 ∧
      (∀ a, a < (s.pager die).entryPa (s.pager die).tail.toNat ∨ (s.pager die).entryPa (s.pager die).tail.toNat + 32 ≤ a → Mem.byte t.memory.mem a = Mem.byte s.memory.mem a) ∧
      ∃ b', t.batch? id = some b' ∧ b'.written = true := by
  generalize place : (s.pager die).entryPa (s.pager die).tail.toNat = pa at aligned ready ⊢
  let stored := s.homeStore pa 32 (b.entryBits 0 x)
  let counted := stored.onPager die fun p => { p with tail := p.tail + BitVec.ofNat 32 1 }
  let t : State := { counted with tiers := { counted.tiers with batches := counted.tiers.batches.map fun y => if y.id = id then { y with written := true } else y } }
  have units : SameUnits s stored := .homeStore ..
  have batches : counted.tiers.batches = s.tiers.batches := by
    have same : counted.tiers.batches = stored.tiers.batches := by
      rcases Nat.le_one_iff_eq_zero_or_eq_one.1 is with rfl | rfl <;> rfl
    rw [same, units.tiers]
  have pager : t.pager die = { s.pager die with tail := (s.pager die).tail + 1 } := by
    change counted.pager die = _
    rw [State.pager_onPager, State.pager, units.tiers]
    rfl
  have may : s.mayWriteBatch die id = true := by simp [State.mayWriteBatch, found, mine, fresh, Pager.fits, en, one, room]
  refine ⟨t, ?_, State.homeStore_read (by omega), by rw [pager], fun a out => ?_, { b with written := true }, ?_, rfl⟩
  · change execFaultBatchWrite die id s = _
    unfold execFaultBatchWrite
    simp only [found, may, one, List.mapIdx_cons, List.mapIdx_nil, Nat.add_zero, place, List.map_cons, List.map_nil, List.filter_cons, List.filter_nil, ready, Bool.not_true, Bool.false_eq_true, if_false,
      List.isEmpty_nil, List.foldl_cons, List.foldl_nil, List.length_cons, List.length_nil, Nat.zero_add, next]
    rfl
  · exact (State.homeStore_byte (by omega) a).trans (if_neg (by omega))
  · change (counted.tiers.batches.map fun y => if y.id = id then { y with written := true } else y).find? (fun y => y.id == id) = _
    rw [batches, find?_written, show s.tiers.batches.find? (fun y => y.id == id) = some b from found]
    rfl

/-- Without hint records no entry is a write to shared memory that a record covers (R360). -/
theorem State.sharedWrite_free (free : s.tiers.hints = []) (b : Batch) (x : BatchEntry) : s.sharedWrite b x = none := by
  have none_ : s.hintAt b.tenant x.va = none := by rw [State.hintAt, free]; rfl
  unfold State.sharedWrite
  split
  · split
    · exact none_
    · rfl
  · rfl

theorem State.mayResolve_free (free : s.tiers.hints = []) (b : Batch) (x : BatchEntry) (out : Nat) : s.mayResolve b x out = true := by
  rw [State.mayResolve, State.sharedWrite_free free]

theorem State.copyShared_free (free : s.tiers.hints = []) (only : s.tiers.batches = [b]) (one : b.entries = [x]) (key value : Dbl) : s.copyShared die key value = s := by
  unfold State.copyShared
  split
  · rfl
  · rw [only]
    simp only [List.foldl_cons, List.foldl_nil, one, State.sharedWrite_free free, ite_self]

theorem State.obeys_free (free : s.tiers.hints = []) (key value : Dbl) : s.obeys die key value = true := by
  simp [State.obeys, State.mayResolve_free free]

/-- What a write of FQRES1 does where no record hints and the one batch is a prefetch's (R354). -/
theorem fqres1Resolve_one {value : Dbl} (runs : s.mgmt.recovery = false) (only : s.tiers.batches = [b]) (one : b.entries = [x]) (free : s.tiers.hints = []) (prefetch : b.from_ = .prefetch) :
    ∃ p : Batch → Bool, Becomes (.fqres1Resolve die value) s fun t => t.tiers.batches = ([b.resolveBy die (s.pager die).key value].filter fun y => !y.resolved || p y) ∧ t.memory = s.memory := by
  let b' := b.resolveBy die (s.pager die).key value
  let u : State := { s with tiers := { s.tiers with batches := [b'] } }
  have from_ : b'.from_ = .prefetch := by
    unfold b' Batch.resolveBy
    split <;> exact prefetch
  have released : ∀ l : List Batch, (∀ y ∈ l, y = b') → l.foldl State.releaseBatch u = u := fun l => by
    induction l with
    | nil => exact fun _ => rfl
    | cons y l ih =>
      intro same
      obtain ⟨here, rest⟩ := List.forall_mem_cons.1 same
      have kept : u.releaseBatch y = u := by rw [here, State.releaseBatch, from_]
      rw [List.foldl_cons, kept]
      exact ih rest
  have done : ∀ y ∈ sortBy (fun (a b : Batch) => decide (a.slot ≤ b.slot)) (([(b, b')].filter fun x => !x.1.resolved && x.2.resolved).map fun x => x.2), y = b' := by
    rw [List.filter_cons, List.filter_nil]
    split
    · exact fun y listed => List.mem_singleton.1 listed
    · exact fun y listed => absurd listed List.not_mem_nil
  refine ⟨fun y => u.streamNeeds y.id, { u with tiers := { u.tiers with batches := [b'].filter fun y => !y.resolved || u.streamNeeds y.id } }, ?_, rfl, rfl⟩
  change next (s.fromHost fun s => s.resolve die value) = _
  rw [State.fromHost_running _ runs]
  have copied : s.copyShared die (s.pager die).key value = s := State.copyShared_free free only one ..
  have obeys : s.obeys die (s.pager die).key value = true := State.obeys_free free ..
  simp only [State.resolve, copied, obeys, Bool.not_true, Bool.false_eq_true, if_false, only, List.map_cons, List.map_nil]
  refine congrArg next ((State.placeHints_free (s := _) ?_).trans ?_)
  · rw [released _ done]
    exact free
  · rw [released _ done]

theorem Batch.resolveBy_matching {key value : Dbl} (mine : b.die = die) (written : b.written = true) (one : b.entries = [x]) (open_ : x.out = none) (keyed : bits value.toNat 17 16 = 0)
    (num : bits value.toNat 15 0 = b.num) : (b.resolveBy die key value).resolved = true := by
  have matching : b.matchesKey key value x = true := by simp [Batch.matchesKey, keyed, num]
  simp [Batch.resolveBy, mine, written, one, open_, matching, Batch.resolved]

theorem Batch.resolveBy_other {key value : Dbl} (one : b.entries = [x]) (keyed : bits value.toNat 17 16 = 0) (num : bits value.toNat 15 0 ≠ b.num) : b.resolveBy die key value = b := by
  have other : b.matchesKey key value x = false := by simp [Batch.matchesKey, keyed, Ne.symm num]
  unfold Batch.resolveBy
  split
  · rw [one]
    simp only [List.map_cons, List.map_nil, other, Bool.and_false, Bool.false_eq_true, if_false]
    rw [← one]
  · rfl

end

/-! The counters and lent frames (R350, R364). -/

section
variable {s t u : State} {die : Nat}

theorem counterHalving_halves (due : (s.pager die).halved + 2 ^ (s.pager die).dshift * 1000 ≤ s.clock.gt) : Becomes (.counterHalving die) s fun t => t.memory.mem = s.memory.mem ∧
    ∀ k, (s.page (65536 * k)).resident = true → (t.page (65536 * k)).resident = true ∧
      (t.page (65536 * k)).counter = if homeDie (65536 * k) = die then (s.page (65536 * k)).counter / 2 else (s.page (65536 * k)).counter := by
  let half := fun (k : Nat) (p : Page) => if homeDie (65536 * k) = die then { p with counter := p.counter / 2 } else p
  let halved := s.onMem fun m => { m with pages := Tab.mapVals {} half m.pages }
  have now : s.halvingDue die = true := decide_eq_true due
  refine ⟨halved.onPager die fun p => { p with halved := (p.halved / p.halving + 1) * p.halving }, ?_, rfl, fun k resident => ?_⟩
  · change execCounterHalving die s = _
    unfold execCounterHalving
    simp only [now, Bool.not_true, Bool.false_eq_true, if_false]
    rfl
  · have index : 65536 * k / 65536 = k := Nat.mul_div_cancel_left k (by decide)
    have stays : (half k (s.page (65536 * k))).resident = true := by
      unfold half
      split <;> exact resident
    have present {p : Page} (h : p.resident = true) : p ≠ {} := fun default => by
      rw [default] at h
      exact absurd h Bool.false_ne_true
    have page : halved.page (65536 * k) = half k (s.page (65536 * k)) := by
      rw [State.page, index] at resident stays
      rw [State.page, State.page, index]
      exact Tab.get_mapVals (present resident) (present stays)
    refine ⟨(congrArg Page.resident page).trans stays, (congrArg Page.counter page).trans ?_⟩
    unfold half
    split <;> rfl

/-- No entry of a table of the canonical form is the default. -/
theorem Tab.ne_of_mem {α : Type} [DecidableEq α] {d : α} {i : Nat} {x : α} : ∀ {t : Tab α}, Tab.wf d t = true → (i, x) ∈ t → x ≠ d
  | (k, v) :: t, wf, listed => by
    obtain ⟨ne, above⟩ := Tab.wf_cons.1 wf
    rcases List.mem_cons.1 listed with here | later
    · rw [(Prod.mk.inj here).2]
      exact ne
    · exact Tab.ne_of_mem (Tab.wf_iff.2 (Tab.above_mono (Nat.zero_le _) above)) later

/-- In a table of the canonical form a listed entry is the one that is found. -/
theorem Tab.get_of_mem {α : Type} [DecidableEq α] {d : α} {i : Nat} {x : α} : ∀ {t : Tab α}, Tab.wf d t = true → (i, x) ∈ t → Tab.get d t i = x
  | (k, v) :: t, wf, listed => by
    obtain ⟨_, above⟩ := Tab.wf_cons.1 wf
    rcases List.mem_cons.1 listed with here | later
    · obtain ⟨rfl, rfl⟩ := Prod.mk.inj here
      rw [Tab.get, if_pos rfl]
    · have tail : Tab.wf d t = true := Tab.wf_iff.2 (Tab.above_mono (Nat.zero_le _) above)
      have found := Tab.get_of_mem tail later
      rw [Tab.get]
      split
      · next same =>
        have absent : Tab.get d t i = d := Tab.get_of_above above (by omega)
        have present : x ≠ d := Tab.ne_of_mem tail later
        exact absurd (found.symm.trans absent) present
      · exact found

/-- The tiers, the bytes of memory and the pinned pages are those that they were, and the pages are listed in order. -/
structure KeepsPins (s t : State) : Prop where
  tiers : t.tiers = s.tiers
  mem : t.memory.mem = s.memory.mem
  wf : Tab.wf {} t.memory.pages = true
  pins : ∀ k, (s.page (65536 * k)).pin = true → t.page (65536 * k) = s.page (65536 * k)

theorem KeepsPins.trans (h : KeepsPins s t) (h' : KeepsPins t u) : KeepsPins s u where
  tiers := h'.tiers.trans h.tiers
  mem := h'.mem.trans h.mem
  wf := h'.wf
  pins k pinned := (h'.pins k (by rw [h.pins k pinned]; exact pinned)).trans (h.pins k pinned)

theorem State.cleanPage_keeps (s : State) (page : Nat) : (s.cleanPage page).tiers = s.tiers ∧ (s.cleanPage page).memory.mem = s.memory.mem ∧ (s.cleanPage page).memory.pages = s.memory.pages := by
  have cleaned : ∀ (l : List Nat) (s : State), (l.foldl State.lineCleaned s).tiers = s.tiers ∧ (l.foldl State.lineCleaned s).memory.mem = s.memory.mem ∧
      (l.foldl State.lineCleaned s).memory.pages = s.memory.pages := fun l => by
    induction l with
    | nil => exact fun _ => ⟨rfl, rfl, rfl⟩
    | cons x l ih => exact fun s => ih (s.lineCleaned x)
  exact cleaned _ _

/-- A page that is not pinned is evicted. -/
theorem KeepsPins.evictPage {v : Nat} (wf : Tab.wf {} s.memory.pages = true) (free : (s.page (65536 * v)).pin = false) : KeepsPins s (s.evictPage v) := by
  obtain ⟨tiers, mem, pages⟩ := s.cleanPage_keeps v
  refine ⟨tiers, mem, Tab.wf_put v _ (by rw [pages]; exact wf), fun k pinned => ?_⟩
  have index : 65536 * k / 65536 = k := Nat.mul_div_cancel_left k (by decide)
  have other : v ≠ k := fun same => by
    rw [same, pinned] at free
    exact absurd free.symm Bool.false_ne_true
  rw [State.page, State.page, index, ← pages]
  exact Tab.get_put_ne _ _ _ other

/-- A victim is one of the pages offered, and is not pinned (R348). -/
theorem State.victimIn_unpinned {l : List (Nat × Page)} {v : Nat} (chosen : s.victimIn l = some v) : ∃ p : Page, (v, p) ∈ l ∧ p.pin = false := by
  have least : ∀ (l : List (Nat × Page)) (b : Nat × Page), l.foldl (fun b y => if y.2.counter < b.2.counter ∨ (y.2.counter = b.2.counter ∧ y.2.order < b.2.order) then y else b) b ∈ b :: l := fun l => by
    induction l with
    | nil => exact fun b => List.mem_singleton_self b
    | cons y l ih =>
      intro b
      have listed := ih (if y.2.counter < b.2.counter ∨ (y.2.counter = b.2.counter ∧ y.2.order < b.2.order) then y else b)
      rcases List.mem_cons.1 listed with here | later
      · rw [List.foldl_cons, here]
        split
        · exact List.mem_cons_of_mem _ List.mem_cons_self
        · exact List.mem_cons_self
      · exact List.mem_cons_of_mem _ (List.mem_cons_of_mem _ later)
  unfold State.victimIn at chosen
  extract_lets ok at chosen
  generalize hok : ok = candidates at chosen
  split at chosen
  · exact absurd chosen (Option.some_ne_none v).symm
  · next x t =>
    obtain ⟨p, hp⟩ : ∃ p : Page, (v, p) ∈ ok := by
      rw [hok, ← Option.some.inj chosen]
      exact ⟨_, least t x⟩
    obtain ⟨offered, may⟩ := List.mem_filter.1 hp
    refine ⟨p, offered, ?_⟩
    simp only [Bool.and_eq_true, Bool.not_eq_true'] at may
    exact may.1.1

theorem KeepsPins.shrinkSets (wf : Tab.wf {} s.memory.pages = true) (die : Nat) : KeepsPins s (s.shrinkSets die) := by
  have one : ∀ (s : State) (k : Nat), Tab.wf {} s.memory.pages = true → KeepsPins s (if s.overfull k then (match s.victimIn ((k, s.page (65536 * k)) :: s.setPages k) with | some v => s.evictPage v | none => s) else s) := by
    intro s k wf
    have same : KeepsPins s s := ⟨rfl, rfl, wf, fun _ _ => rfl⟩
    split
    · split
      · next v chosen =>
        obtain ⟨p, offered, unpinned⟩ := State.victimIn_unpinned chosen
        have page : p = s.page (65536 * v) := by
          rcases List.mem_cons.1 offered with here | listed
          · obtain ⟨rfl, rfl⟩ := Prod.mk.inj here
            rfl
          · rw [State.page, Nat.mul_div_cancel_left v (by decide)]
            exact (Tab.get_of_mem wf (List.mem_of_mem_filter listed)).symm
        exact .evictPage wf (page ▸ unpinned)
      · exact same
    · exact same
  have all : ∀ (l : List Nat) (s : State), Tab.wf {} s.memory.pages = true → KeepsPins s (l.foldl (fun s k =>
      if s.overfull k then (match s.victimIn ((k, s.page (65536 * k)) :: s.setPages k) with | some v => s.evictPage v | none => s) else s) s) := fun l => by
    induction l with
    | nil => exact fun s wf => ⟨rfl, rfl, wf, fun _ _ => rfl⟩
    | cons k l ih => exact fun s wf => (one s k wf).trans (ih _ (one s k wf).wf)
  exact all _ _ wf

theorem hbmLend_lends {units : Nat} (is : die ≤ 1) (some_ : units ≠ 0) (wf : Tab.wf {} s.memory.pages = true) (within : (s.pager die).lent + units ≤ (s.pager die).lendmax.toNat)
    (fits : ∀ k ∈ Tab.keys ((s.onPager die fun p => { p with lent := (s.pager die).lent + units }).shrinkSets die).memory.pages,
      ((s.onPager die fun p => { p with lent := (s.pager die).lent + units }).shrinkSets die).overfull k = false) : Becomes (.hbmLend die (.lend units)) s fun t =>
        (t.pager die).lent = (s.pager die).lent + units ∧ t.memory.mem = s.memory.mem ∧ ∀ k, (s.page (65536 * k)).pin = true → t.page (65536 * k) = s.page (65536 * k) := by
  let lends := s.onPager die fun p => { p with lent := (s.pager die).lent + units }
  have same : (s.onPager die fun p => { p with lent := p.lent + units }) = lends := by
    rcases Nat.le_one_iff_eq_zero_or_eq_one.1 is with rfl | rfl <;> rfl
  have kept : KeepsPins lends (lends.shrinkSets die) := KeepsPins.shrinkSets (s := lends) wf die
  have room : (Tab.keys (lends.shrinkSets die).memory.pages).any (lends.shrinkSets die).overfull = false := List.any_eq_false.2 fun k listed => by simp [lends, fits k listed]
  refine ⟨lends.shrinkSets die, ?_, ?_, kept.mem, kept.pins⟩
  · change execHbmLend die (.lend units) s = _
    unfold execHbmLend
    dsimp only
    rw [if_neg (by omega), same, room]
    rfl
  · rw [State.pager, kept.tiers, ← State.pager, State.pager_onPager]

theorem hbmLend_reclaims {units notice : Nat} (is : die ≤ 1) (few : units ≤ (s.pager die).lent) (late : notice + 1000000 ≤ s.clock.gt) :
    exec (.hbmLend die (.reclaim units notice)) s = .next (s.onPager die fun p => { p with lent := (s.pager die).lent - units }) := by
  have same : (s.onPager die fun p => { p with lent := p.lent - units }) = s.onPager die fun p => { p with lent := (s.pager die).lent - units } := by
    rcases Nat.le_one_iff_eq_zero_or_eq_one.1 is with rfl | rfl <;> rfl
  change execHbmLend die (.reclaim units notice) s = _
  unfold execHbmLend
  dsimp only
  rw [if_pos ⟨is, few, late⟩, same]
  rfl

end

/-! THINT (R358 to R360). -/

/-- Nothing but page records differs. -/
def OnlyPages (s t : State) : Prop := ∃ pages : Tab Page, t = s.onMem fun m => { m with pages := pages }

section
variable {s t u : State}

theorem OnlyPages.refl (s : State) : OnlyPages s s := ⟨s.memory.pages, rfl⟩

theorem OnlyPages.trans (h : OnlyPages s t) (h' : OnlyPages t u) : OnlyPages s u := by
  obtain ⟨p, rfl⟩ := h
  obtain ⟨q, rfl⟩ := h'
  exact ⟨q, rfl⟩

theorem OnlyPages.foldl {α : Type} {f : State → α → State} (one : ∀ s x, OnlyPages s (f s x)) : ∀ (l : List α) (s : State), OnlyPages s (l.foldl f s)
  | [], s => .refl s
  | x :: l, s => (one s x).trans (OnlyPages.foldl one l (f s x))

theorem OnlyPages.onPage (s : State) (pa : Nat) (f : Page → Page) : OnlyPages s (s.onPage pa f) := ⟨_, rfl⟩

theorem OnlyPages.placePage (s : State) (tier pa : Nat) : OnlyPages s (s.placePage tier pa) := by
  unfold State.placePage
  split
  · split
    · exact .onPage ..
    · exact .refl s
  · exact .onPage ..
  · exact .refl s

theorem OnlyPages.placeHint (s : State) (h : Hint) : OnlyPages s (s.placeHint h) := .foldl (fun s pa => .placePage s h.tier pa) _ _

theorem OnlyPages.placeHints (s : State) : OnlyPages s s.placeHints := .foldl .placeHint _ _

theorem OnlyPages.unplaceHint (s : State) (h : Hint) : OnlyPages s (s.unplaceHint h) := by
  refine .foldl (fun s pa => ?_) _ _
  split
  · exact .onPage ..
  · exact .onPage ..
  · exact .refl s

end

/-- The record that THINT replaces or clears, ended where its result is 0 or 1 (log entry 104). -/
def State.endHint (s : State) (old : Option Hint) (result : Nat) : State :=
  match old with
  | some o => if result ≤ 1 then (s.unplaceHint o).placeHints else s
  | none => s

theorem OnlyPages.endHint (s : State) (old : Option Hint) (result : Nat) : OnlyPages s (s.endHint old result) := by
  unfold State.endHint
  split
  · split
    · exact (OnlyPages.unplaceHint ..).trans (.placeHints _)
    · exact .refl _
  · exact .refl _

theorem State.writeS_tiers (s : State) (w : Sid) (n : Nat) (v : Word) : (s.writeS w n v).tiers = s.tiers := by
  unfold State.writeS
  split
  · exact State.onStrand_tiers ..
  split
  · rfl
  · exact State.onComb_tiers ..

theorem State.writeS_memory (s : State) (w : Sid) (n : Nat) (v : Word) : (s.writeS w n v).memory = s.memory := by
  unfold State.writeS
  split
  · exact State.onStrand_memory ..
  split
  · rfl
  · exact State.onComb_memory ..

section
variable {s : State} {o : Op} {e : Enc}

/-- Outside run-ahead no source is invalid (R201). -/
theorem taint_normal (normal : (s.strand s.cur).ahead = none) : (s.issue o e).taint s = 0 := by
  rw [Issue.taint, show (s.issue o e).st.ahead = none from normal]

/-- THINT leaves the records that its result tells, and the result in D. -/
theorem thint_becomes (h : Active .thint e s) {d : List Nat} (known : s.descriptor (s.tenantOf s.cur.core s.cur.slot) = some d) (checks : thintTrap (s.issue .thint e) s = none) {r : Word × List Hint}
    (result : thintResult s.tiers.hints d (e.sub == 1) (parseHint (s.tenantOf s.cur.core s.cur.slot) (s.lmDescriptor s.cur ((s.issue .thint e).uA s).toNat)) = r) : Becomes (.thint e) s fun t =>
      t.tiers.hints = r.2 ∧ t.memory.mem = s.memory.mem ∧ (e.d.toNat < 64 → Tab.get 0 (t.strand s.cur).regs.s e.d.toNat = r.1) := by
  generalize parsed : parseHint (s.tenantOf s.cur.core s.cur.slot) (s.lmDescriptor s.cur ((s.issue .thint e).uA s).toNat) = hint at result
  let recorded : State := { s with tiers := { s.tiers with hints := r.2 } }
  obtain ⟨t, runs, pages⟩ : ∃ t, exec (.thint e) s = .next ((t.writeS s.cur e.d.toNat r.1).advance (s.issue .thint e)) ∧ OnlyPages recorded t := by
    let unplaced := recorded.endHint (s.tiers.hints.find? fun x => x.same hint) r.1.toNat
    have first : OnlyPages recorded unplaced := .endHint ..
    refine ⟨if e.sub = 0 ∧ r.1.toNat ≤ 1 then unplaced.placeHint hint else unplaced, ?_, ?_⟩
    · have idle : ¬ ((s.issue .thint e).act = 0 ∨ (s.issue .thint e).taint s ≠ 0) := fun empty => empty.elim h.active fun ne => ne (taint_normal h.normal)
      have known' : s.descriptor (s.tenantOf (s.issue .thint e).w.core (s.issue .thint e).w.slot) = some d := known
      have parsed' : parseHint (s.tenantOf (s.issue .thint e).w.core (s.issue .thint e).w.slot) (s.lmDescriptor (s.issue .thint e).w ((s.issue .thint e).uA s).toNat) = hint := parsed
      change execThint e s = _
      unfold execThint
      rw [strandOnly_clear h.toClear, if_neg idle]
      simp only [checks, known', parsed', result]
      rfl
    · split
      · exact first.trans (.placeHint ..)
      · exact first
  obtain ⟨p, rfl⟩ := pages
  have resident : (s.comb? s.cur.core s.cur.slot).isSome = true := State.resident_of_may h.may
  refine ⟨_, runs, ?_, ?_, fun register => ?_⟩
  · rw [State.advance_tiers, State.writeS_tiers]
    rfl
  · rw [State.advance_memory, State.writeS_memory]
    rfl
  · have held : ((recorded.onMem fun m => { m with pages := p }).comb? s.cur.core s.cur.slot).isSome = true := resident
    rw [State.writeS_register _ register]
    obtain ⟨_, _, regs⟩ := State.strand_advance (i := s.issue .thint e) (State.resident_onStrand (w := s.cur) (fun st => st.putS e.d.toNat r.1) held)
    refine (congrArg (fun regs : Regs => Tab.get 0 regs.s e.d.toNat) regs).trans ?_
    rw [show (s.issue .thint e).w = s.cur from rfl, State.strand_onStrand _ held]
    exact Tab.get_put_same ..

/-! GPREF and LCNT (R361 to R363). -/

theorem gpref_requests (h : Active .gpref e s) (checks : gprefTrap (s.issue .gpref e) s = none) (quiet : e.qbit 0 = false) (free : (s.core s.cur.core).shares.en = false)
    (known : s.xlatWaits s.cur (s.issue .gpref e).st.trap.priv (gprefTouches (e.sub == 1) (s.lmDescriptor s.cur ((s.issue .gpref e).uA s).toNat)) = false) :
    let pages := (s.gprefPages s.cur (s.issue .gpref e).st.trap.priv (e.sub == 1) (gprefTouches (e.sub == 1) (s.lmDescriptor s.cur ((s.issue .gpref e).uA s).toNat))).1
    exec (.gpref e) s = .next (((pages.foldl State.prefetchPage s).writeS s.cur e.d.toNat (BitVec.ofNat 32 pages.length)).advance (s.issue .gpref e)) := by
  intro pages
  have idle : ¬ ((s.issue .gpref e).act = 0 ∨ (s.issue .gpref e).taint s ≠ 0) := fun empty => empty.elim h.active fun ne => ne (taint_normal h.normal)
  have sent : s.sendPages s.cur pages = ([], pages.foldl State.prefetchPage s) := by
    rw [State.sendPages, State.spend_free free, List.drop_length, List.take_length]
  have sent' : s.sendPages (s.issue .gpref e).w (s.gprefPages (s.issue .gpref e).w (s.issue .gpref e).st.trap.priv (e.sub == 1)
      (gprefTouches (e.sub == 1) (s.lmDescriptor (s.issue .gpref e).w ((s.issue .gpref e).uA s).toNat))).1 = ([], pages.foldl State.prefetchPage s) := sent
  have known' : s.xlatWaits (s.issue .gpref e).w (s.issue .gpref e).st.trap.priv (gprefTouches (e.sub == 1) (s.lmDescriptor (s.issue .gpref e).w ((s.issue .gpref e).uA s).toNat)) = false := known
  change execGpref e s = _
  unfold execGpref
  rw [strandOnly_clear h.toClear, if_neg idle]
  simp only [checks, known', quiet, sent', List.isEmpty_nil, Bool.false_eq_true, if_false, if_true]
  rfl

theorem lcnt_reads (h : Active .lcnt e s) (known : s.xlatWaits s.cur (s.issue .lcnt e).st.trap.priv (((s.issue .lcnt e).targets s true).map fun x => x.2) = false) :
    let r := s.lcntRead s.cur.core (s.tenantOf s.cur.core s.cur.slot) (s.issue .lcnt e).st.trap.priv (e.sub == 1) ((s.issue .lcnt e).targets s true)
    exec (.lcnt e) s = .next ((r.1.writeD (s.issue .lcnt e) fun l => match r.2.find? fun x => x.1 == l || x.1 == 32 with | some x => x.2 | none => 0).advance (s.issue .lcnt e)) := by
  intro r
  change execLcnt e s = _
  unfold execLcnt
  rw [strandOnly_clear h.toClear, if_neg h.active, show s.xlatWaits (s.issue .lcnt e).w (s.issue .lcnt e).st.trap.priv (((s.issue .lcnt e).targets s true).map fun x => x.2) = false from known]
  rfl

end

/-! The result of THINT (R359). -/

section
variable {l : List Hint} {d : List Nat} {h : Hint}

/-- Whether a record of the range is held. -/
def heldHint (l : List Hint) (h : Hint) : Bool := l.any fun x => x.same h

/-- The records of other ranges. -/
def otherHints (l : List Hint) (h : Hint) : List Hint := l.filter fun x => !x.same h

/-- Whether the quotas leave no room for a record. -/
def hintsFull (l : List Hint) (d : List Nat) (h : Hint) : Prop :=
  (heldHint l h = false ∧ (descHquota d ≤ (l.filter fun x => x.tenant == h.tenant).length ∨ 4096 ≤ l.length)) ∨ (h.tier = 1 ∧ descPquota d < pinnedBy l h + h.npg)

theorem thintResult_clears : thintResult l d true h = if heldHint l h then (0, otherHints l h) else (0x80000003, l) := rfl

theorem hintsFull_iff : ((!heldHint l h && (decide ((l.filter fun x => x.tenant == h.tenant).length ≥ descHquota d) || decide (l.length ≥ 4096))) || (h.tier == 1 && decide (pinnedBy l h + h.npg > descPquota d))) = true ↔
    hintsFull l d h := by
  simp [hintsFull]

theorem thintResult_full (full : hintsFull l d h) : thintResult l d false h = (0x80000001, l) := if_pos (hintsFull_iff.2 full)

theorem thintResult_clashes (room : ¬ hintsFull l d h) (clash : (otherHints l h).any (fun x => x.overlaps h) = true) : thintResult l d false h = (0x80000002, l) :=
  (if_neg (mt hintsFull_iff.1 room)).trans (if_pos clash)

theorem thintResult_records (room : ¬ hintsFull l d h) (clear : (otherHints l h).any (fun x => x.overlaps h) = false) : thintResult l d false h = (if heldHint l h then 1 else 0, otherHints l h ++ [h]) :=
  (if_neg (mt hintsFull_iff.1 room)).trans (if_neg (Bool.eq_false_iff.1 clear))

end

/-! O51. -/

/-- Settles O51: each clause by its own lemma. -/
theorem tiersAndHints : Obligations.TiersAndHints := by
  unfold Obligations.TiersAndHints
  refine ⟨fun s die id b x found mine fresh one => faultBatchWrite_stores found mine fresh one, fun s die value b x runs only mine written one open_ free prefetch => ?resolves,
    fun s core n ready => ?resumes, fun s core slot c held => ?unparked, fun s die _ due => counterHalving_halves due,
    fun s die units is => ⟨fun some_ wf => hbmLend_lends is some_ wf, fun notice => hbmLend_reclaims is⟩, fun e s d => ?hints⟩
  case resolves =>
    obtain ⟨p, t, runs', batches, memory⟩ := fqres1Resolve_one (die := die) (value := value) runs only one free prefetch
    refine ⟨fun keyed num => ⟨t, runs', fun y listed => ?_, memory⟩, fun keyed num => ⟨t, runs', ?_, memory⟩⟩
    · rw [batches] at listed
      rw [List.mem_singleton.1 (List.mem_of_mem_filter listed)]
      exact Batch.resolveBy_matching mine written one open_ keyed num
    · have unresolved : b.resolved = false := by simp [Batch.resolved, one, open_]
      rw [batches, Batch.resolveBy_other one keyed num, List.filter_cons, unresolved]
      rfl
  case resumes =>
    change execCombFaultResume core s = _
    unfold execCombFaultResume
    rw [ready]
    rfl
  case unparked =>
    obtain ⟨_, _, l, comb⟩ := State.resumeParked_comb held
    refine ⟨by rw [State.comb, comb]; rfl, fun j => ?_⟩
    by_cases live : (s.strand { core := core, slot := slot, strand := j }).live = 0
    · exact .inr live
    · exact .inl (State.resumeParked_live held live)
  case hints =>
    intro w tenant known
    refine ⟨fun h => ?thints, fun h => gpref_requests h, fun h => lcnt_reads h⟩
    intro i hint l old rest checks
    refine ⟨?clears, ?keeps⟩
    case clears =>
      intro clr
      have clear : (e.sub == 1) = true := by rw [clr]; rfl
      have result : thintResult l d (e.sub == 1) hint = if old then (0, rest) else (0x80000003, l) := by rw [clear]; exact thintResult_clears
      obtain ⟨t, runs, hints, mem, dest⟩ := thint_becomes h known checks result
      refine ⟨t, runs, hints.trans ?_, mem, fun register => (dest register).trans ?_⟩
      · cases old <;> rfl
      · cases old <;> rfl
    case keeps =>
      intro keep mine full clash
      have clear : (e.sub == 1) = false := by rw [keep]; rfl
      refine ⟨fun filled => ?_, fun room clashes => ?_, fun room clear' => ?_⟩
      · obtain ⟨t, runs, hints, _, dest⟩ := thint_becomes h known checks (r := (0x80000001, l)) (by rw [clear]; exact thintResult_full filled)
        exact ⟨t, runs, hints, dest⟩
      · obtain ⟨t, runs, hints, _, dest⟩ := thint_becomes h known checks (r := (0x80000002, l)) (by rw [clear]; exact thintResult_clashes room clashes)
        exact ⟨t, runs, hints, dest⟩
      · exact thint_becomes h known checks (r := (if old then 1 else 0, rest ++ [hint])) (by rw [clear]; exact thintResult_records room clear')

end Sys2Proof.Machine
end

section
/-! The matrix engine: the settlement of O49. -/

namespace Sys2Proof.Machine
open Sys2Proof Sys2Proof.Safety

/-! The accumulator store (R286). -/

/-- What a table holds at a key that the first of two parts does not list. -/
theorem Tab.get_append_left {α : Type} {d : α} {i : Nat} {b : Tab α} : ∀ {a : Tab α}, (∀ x ∈ a, x.1 ≠ i) → Tab.get d (a ++ b) i = Tab.get d b i
  | [], _ => rfl
  | (k, v) :: a, absent => by
    obtain ⟨other, rest⟩ := List.forall_mem_cons.1 absent
    rw [List.cons_append, Tab.get, if_neg other, Tab.get_append_left rest]

/-- What it holds at a key that the second does not list. -/
theorem Tab.get_append_right {α : Type} {d : α} {i : Nat} {b : Tab α} (absent : ∀ x ∈ b, x.1 ≠ i) : ∀ a : Tab α, Tab.get d (a ++ b) i = Tab.get d a i
  | [] => by
    have part := Tab.get_append_left (d := d) (b := []) absent
    rwa [List.append_nil] at part
  | (k, v) :: a => by rw [List.cons_append, Tab.get, Tab.get, Tab.get_append_right absent a]

/-- The elements of an accumulator that are not 0. -/
def blockOf (base : Nat) (v : Nat → Word) (l : List Nat) : Tab Word := l.filterMap fun n => if v n = 0 then none else some (base + n, v n)

theorem blockOf_keys {base : Nat} {v : Nat → Word} {l : List Nat} : ∀ x ∈ blockOf base v l, ∃ n ∈ l, x.1 = base + n := fun x listed => by
  obtain ⟨n, member, entry⟩ := List.mem_filterMap.1 listed
  split at entry
  · exact absurd entry (Option.some_ne_none x).symm
  · exact ⟨n, member, by rw [← Option.some.inj entry]⟩

theorem get_blockOf {base : Nat} {v : Nat → Word} {n : Nat} : ∀ {l : List Nat}, n ∈ l → Tab.get 0 (blockOf base v l) (base + n) = v n
  | k :: l, listed => by
    by_cases later : n ∈ l
    · have found := get_blockOf (base := base) (v := v) later
      rw [blockOf, List.filterMap_cons]
      split
      · exact found
      · next x entry =>
        split at entry
        · exact absurd entry (Option.some_ne_none x).symm
        · rw [← Option.some.inj entry, Tab.get]
          split
          · next same => rw [Nat.add_left_cancel same]
          · exact found
    · have here : n = k := (List.mem_cons.1 listed).resolve_right later
      subst here
      rw [blockOf, List.filterMap_cons]
      by_cases zero : v n = 0
      · have absent : ∀ x ∈ blockOf base v l, x.1 ≠ base + n := fun x member same => by
          obtain ⟨m, member', eq⟩ := blockOf_keys x member
          exact later (Nat.add_left_cancel (same.symm.trans eq) ▸ member')
        have out := Tab.get_append_left (d := 0) (b := []) absent
        rw [List.append_nil] at out
        rw [if_pos zero, zero]
        exact out
      · rw [if_neg zero]
        exact if_pos rfl

/-- The store after an accumulator is replaced. -/
theorem get_putAcc (t : Tab Word) (d : Nat) (f : Nat → Nat → Word) (n : Nat) :
    Tab.get 0 (putAcc t d f) n = if 4096 * d ≤ n ∧ n < 4096 * (d + 1) then f ((n - 4096 * d) / 64) ((n - 4096 * d) % 64) else Tab.get 0 t n := by
  let v := fun (k : Nat) => f (k / 64) (k % 64)
  have parts : putAcc t d f = (t.filter fun x => decide (x.1 < 4096 * d)) ++ (blockOf (4096 * d) v (List.range 4096) ++ t.filter fun x => decide (4096 * (d + 1) ≤ x.1)) := List.append_assoc ..
  have low : ∀ x ∈ t.filter (fun x => decide (x.1 < 4096 * d)), x.1 < 4096 * d := fun x listed => of_decide_eq_true (List.mem_filter.1 listed).2
  have high : ∀ x ∈ t.filter (fun x => decide (4096 * (d + 1) ≤ x.1)), 4096 * (d + 1) ≤ x.1 := fun x listed => of_decide_eq_true (List.mem_filter.1 listed).2
  have block : ∀ x ∈ blockOf (4096 * d) v (List.range 4096), 4096 * d ≤ x.1 ∧ x.1 < 4096 * (d + 1) := fun x listed => by
    obtain ⟨k, member, eq⟩ := blockOf_keys x listed
    have := List.mem_range.1 member
    omega
  rw [parts]
  by_cases before : n < 4096 * d
  · rw [Tab.get_append_right (fun x listed => ?_), if_neg (by omega)]
    · exact Tab.get_filter_key (p := fun k => decide (k < 4096 * d)) 0 (decide_eq_true before) t
    · rcases List.mem_append.1 listed with inside | after
      · have := block x inside
        omega
      · have := high x after
        omega
  · rw [Tab.get_append_left (fun x listed => by have := low x listed; omega)]
    by_cases inside : n < 4096 * (d + 1)
    · rw [Tab.get_append_right (fun x listed => by have := high x listed; omega), if_pos ⟨by omega, inside⟩]
      obtain ⟨k, rfl⟩ : ∃ k, n = 4096 * d + k := ⟨n - 4096 * d, by omega⟩
      rw [get_blockOf (List.mem_range.2 (by omega)), Nat.add_sub_cancel_left]
    · rw [Tab.get_append_left (fun x listed => by have := block x listed; omega), if_neg (by omega)]
      exact Tab.get_filter_key (p := fun k => decide (4096 * (d + 1) ≤ k)) 0 (decide_eq_true (by omega)) t

section
variable {s t u : State} {core : Nat}

theorem State.matrix_onMatrix (s : State) (core : Nat) (f : Matrix → Matrix) : ((s.onMatrix core f).core core).matrix = f (s.core core).matrix := by rw [State.onMatrix, State.core_onCore]

theorem State.comb?_onMatrix (s : State) (core : Nat) (f : Matrix → Matrix) (c n : Nat) : (s.onMatrix core f).comb? c n = s.comb? c n := State.comb?_onCore s (by rfl) c n

theorem State.comb_onMatrix (s : State) (core : Nat) (f : Matrix → Matrix) (c n : Nat) : (s.onMatrix core f).comb c n = s.comb c n := by
  rw [State.comb, State.comb?_onMatrix]
  rfl

theorem State.strand_onMatrix (s : State) (core : Nat) (f : Matrix → Matrix) (w : Sid) : (s.onMatrix core f).strand w = s.strand w := by
  rw [State.strand, State.comb_onMatrix]
  rfl

/-- Accumulator `d` of a core holds `f` with the tag `int`; neither the other accumulators, LM and memory nor the stream have changed. -/
structure SetsAcc (s t : State) (core d : Nat) (f : Nat → Nat → Word) (int : Bool) : Prop where
  memory : t.memory = s.memory
  lm : (t.core core).lm = (s.core core).lm
  stream : t.stream? core = s.stream? core
  holds : ∀ i < 64, ∀ j < 64, t.acc core d i j = f i j
  tag : t.tag core d = int
  others : ∀ b, b ≠ d → ∀ i < 64, ∀ j < 64, t.acc core b i j = s.acc core b i j

section
variable {d : Nat} {f : Nat → Nat → Word} {int : Bool}

theorem State.setAcc_sets (s : State) (core d : Nat) (f : Nat → Nat → Word) : SetsAcc s (s.setAcc core d f) core d f (s.tag core d) := by
  have matrix := s.matrix_onMatrix core fun m => { m with acc := putAcc m.acc d f }
  have element : ∀ b i j, (s.setAcc core d f).acc core b i j = Tab.get 0 (putAcc (s.core core).matrix.acc d f) (4096 * b + 64 * i + j) := fun b i j => by
    rw [State.acc, State.setAcc, matrix]
  refine ⟨rfl, ?_, ?_, fun i hi j hj => ?_, ?_, fun b other i hi j hj => ?_⟩
  · rw [State.setAcc, State.onMatrix, State.core_onCore]
  · rw [State.stream?, State.setAcc, matrix]
    rfl
  · rw [element, get_putAcc, if_pos (by omega), show (4096 * d + 64 * i + j - 4096 * d) / 64 = i by omega, show (4096 * d + 64 * i + j - 4096 * d) % 64 = j by omega]
  · rw [State.tag, State.setAcc, matrix]
    rfl
  · rw [element, get_putAcc, if_neg (by omega)]
    rfl

theorem SetsAcc.setTag (h : SetsAcc s t core d f int) (now : Bool) : SetsAcc s (t.setTag core d now) core d f now := by
  have matrix := t.matrix_onMatrix core fun m => { m with intTag := Tab.put false m.intTag d now }
  have acc : ∀ b i j, (t.setTag core d now).acc core b i j = t.acc core b i j := fun b i j => by
    rw [State.acc, State.setTag, matrix]
    rfl
  refine ⟨h.memory, ?_, ?_, fun i hi j hj => (acc ..).trans (h.holds i hi j hj), ?_, fun b other i hi j hj => (acc ..).trans (h.others b other i hi j hj)⟩
  · rw [State.setTag, State.onMatrix, State.core_onCore]
    exact h.lm
  · rw [State.stream?, State.setTag, matrix]
    exact h.stream
  · rw [State.tag, State.setTag, matrix]
    exact Tab.get_put_same ..

/-- The head of the queue that has set an accumulator runs. -/
theorem SetsAcc.runHead {x : Stream} (h : SetsAcc s t core d f int) (runs : s.stream? core = some x) (c : Cmd) (writes : List (Nat × Nat × Nat)) : let u := t.runHead core c writes
    u.memory = s.memory ∧ (u.core core).lm = (s.core core).lm ∧ (∀ i < 64, ∀ j < 64, u.acc core d i j = f i j) ∧ u.tag core d = int ∧
      (∀ b, b ≠ d → ∀ i < 64, ∀ j < 64, u.acc core b i j = s.acc core b i j) ∧ ∃ y, u.stream? core = some y ∧ y.queue = x.queue.tail ∧ y.running.isSome = true := by
  intro u
  have now : u.core core = { t.core core with matrix := { (t.core core).matrix with stream := (t.core core).matrix.stream.map fun x => { x with queue := x.queue.tail, running := some { cmd := c, writes := writes } } } } :=
    State.core_onCore ..
  have acc : ∀ b i j, u.acc core b i j = t.acc core b i j := fun b i j => by
    rw [State.acc, now]
    rfl
  refine ⟨h.memory, ?_, fun i hi j hj => (acc ..).trans (h.holds i hi j hj), ?_, fun b other i hi j hj => (acc ..).trans (h.others b other i hi j hj),
    { x with queue := x.queue.tail, running := some { cmd := c, writes := writes } }, ?_, rfl, rfl⟩
  · rw [now]
    exact h.lm
  · rw [State.tag, now]
    exact h.tag
  · have running : (t.core core).matrix.stream = some x := h.stream.trans runs
    rw [State.stream?, now, running]
    rfl

end

/-! Commands (R302 to R310). -/

section
variable {x : Stream} {c : Cmd} {slot : Nat}

/-- Without marks of poison a command meets none. -/
theorem State.cmdPoison_clean (clean : (s.core core).lmPoison = []) (slot : Nat) (ranges : List (Nat × Nat)) : s.cmdPoison core slot ranges = none := by
  rw [State.cmdPoison, clean]
  rfl

theorem State.started_ok (clean : (s.core core).lmPoison = []) {checks : List (Option Trap)} (pass : checks.findSome? id = none) (ranges : List (Nat × Nat)) (f : State → State)
    (writes : List (Nat × Nat × Nat)) : s.started core slot checks ranges f writes = .ok (f s) writes := by
  rw [State.started, pass, State.cmdPoison_clean clean]

/-- Rows that lie in the window. -/
theorem State.rowsTrap_none {o p len n : Nat} (inside : ∀ i < n, o + i * p + len ≤ (s.comb core slot).shape.window) : s.rowsTrap core slot o p len n = none := by
  have none_ : s.rowsOut core slot o p len n = none := List.findSome?_eq_none_iff.2 fun a listed => by
    obtain ⟨i, member, rfl⟩ := List.mem_map.1 listed
    exact if_pos (inside i (List.mem_range.1 member))
  rw [State.rowsTrap, none_]
  rfl

/-- An unguarded command of a stream that is not paired starts where it is neither MPAIR nor MSPLIT. -/
theorem commandStart_starts (runs : s.stream? core = some x) (head : x.headCmd = some c) (quiet : c.enc.qbit 3 = false) (alone : x.pairing = .none) (notPair : c.op ≠ .mpair) (notSplit : c.op ≠ .msplit) :
    exec (.matrixCommandStart core) s = .next (s.startAt core x c (s.startOwn core x.slot (some x) c)) := by
  have starts : s.startHead core x c = s.startAt core x c (s.startOwn core x.slot (some x) c) := by
    unfold State.startHead
    simp only [alone, quiet, Bool.false_eq_true, if_false, false_and]
  change execMatrixCommandStart core s = _
  unfold execMatrixCommandStart
  simp only [runs, head, starts, next]

theorem State.startOwn_zero (op : c.op = .mzero) (x : Option Stream) : s.startOwn core slot x c = s.startZero core c := by
  unfold State.startOwn
  rw [op]

theorem State.startOwn_load (op : c.op = .mldz) (x : Option Stream) : s.startOwn core slot x c = s.startLoad core slot c := by
  unfold State.startOwn
  rw [op]

theorem State.startOwn_mma (op : c.op = .mma ∨ c.op = .mdist) : s.startOwn core slot (some x) c = s.startMma core x c := by
  unfold State.startOwn
  rcases op with op | op <;> rw [op]

/-- MLDZ of rows within the window. -/
theorem State.startLoad_ok (aligned : c.val 0 % 16 = 0) (pitched : c.val 1 % 16 = 0) (wide : 256 ≤ c.val 1) (inside : c.val 0 + 63 * c.val 1 + 256 ≤ (s.comb core slot).shape.window)
    (clean : (s.core core).lmPoison = []) : s.startLoad core slot c =
      .ok ((s.setAcc core c.enc.d.toNat fun i j => BitVec.ofNat 32 (s.winRead core slot (c.val 0 + i * c.val 1 + 4 * j) 4)).setTag core c.enc.d.toNat (c.enc.sub == 1)) [] := by
  have rows : s.rowsTrap core slot (c.val 0) (c.val 1) 256 64 = none := State.rowsTrap_none fun i hi => by
    have : i * c.val 1 ≤ 63 * c.val 1 := Nat.mul_le_mul_right _ (by omega)
    omega
  unfold State.startLoad
  exact State.started_ok clean (by simp [when_, aligned, pitched, rows, Nat.not_lt.2 wide]) _ _ _

theorem State.startLoad_misaligned (off : c.val 0 % 16 ≠ 0) : s.startLoad core slot c = .fault (Trap.of .misaligned (c.val 0)) := by
  have first : when_ (c.val 0 % 16 != 0) (Trap.of .misaligned (c.val 0)) = some (Trap.of .misaligned (c.val 0)) := if_pos (bne_iff_ne.2 off)
  unfold State.startLoad State.started
  extract_lets o p d
  rw [List.findSome?_cons, show when_ (o % 16 != 0) (Trap.of .misaligned o) = _ from first]
  rfl

/-- MMA and MDIST of operands that go together. -/
theorem State.startMma_ok {ma mb : Operand} (first : x.operand c.enc.a.toNat = some ma) (second : x.operand c.enc.b.toNat = some mb) (pair : ma.pairs mb = true) (steps : c.val 0 % 32 = 0)
    (format : s.tag core c.enc.d.toNat = ma.isInt) (clean : (s.core core).lmPoison = []) : s.startMma core x c =
      .ok (s.setAcc core c.enc.d.toNat fun i j => accumulateAll (c.op == .mdist) ma.isInt (s.acc core c.enc.d.toNat i j)
        (fun k => s.elem core x.slot ma (c.val 1 % 65536 + i) (c.val 0 + k)) (fun k => s.elem core x.slot mb (c.val 1 / 65536 + j) (c.val 0 + k)) ma.depth) [] := by
  have int : (ma.isInt && mb.isInt) = ma.isInt := by
    have same : ma.isInt = mb.isInt := beq_iff_eq.1 (Bool.and_eq_true _ _ ▸ pair).2
    rw [← same, Bool.and_self]
  have pass : s.mmaTrap core x c false = none := by
    simp [State.mmaTrap, first, second, firstOf_cons, pair, steps, format]
    rfl
  unfold State.startMma
  simp only [pass, first, second]
  rw [State.started_ok clean rfl, State.tile, int]

end

/-! Streams (R280 to R283, R296 to R298). -/

theorem State.nextWaiter_waits {x : SeqWaiter} (next_ : s.nextWaiter core = some x) : (s.strand { core := core, slot := x.slot, strand := x.strand }).sched.wait = some .sequencer := by
  unfold State.nextWaiter at next_
  extract_lets m at next_
  split at next_
  · exact absurd next_ (Option.some_ne_none x).symm
  · have ready := List.find?_some next_
    rw [State.waiterReady, Bool.and_eq_true, beq_iff_eq, beq_iff_eq] at ready
    exact ready.2

theorem State.matrix_clearFor (s : State) (core : Nat) (x : BitVec 16) : ((s.clearFor core x).core core).matrix =
    if (s.core core).matrix.last = some x then (s.core core).matrix else { (s.core core).matrix with acc := [], intTag := [], last := some x } := s.matrix_onMatrix core _

theorem mrunStart_starts {x : SeqWaiter} (next_ : s.nextWaiter core = some x) (run : x.cmd.op = .mrun ∨ x.cmd.op = .mrunReg) :
    let w : Sid := { core := core, slot := x.slot, strand := x.strand }; let st := s.strand w; let m := (s.core core).matrix
    Becomes (.mrunStart core) s fun t => t.memory = s.memory ∧ (t.strand w).sched.wait = none ∧ (t.strand w).regs = st.regs ∧ (t.core core).matrix.waiters = m.waiters.erase x ∧
      (m.last ≠ some (s.tenantOf core x.slot) → (t.core core).matrix.acc = []) ∧ (m.last = some (s.tenantOf core x.slot) → (t.core core).matrix.acc = m.acc) ∧
      ∃ y, t.stream? core = some y ∧ y.slot = x.slot ∧ y.strand = x.strand ∧ y.pc = BitVec.ofNat 57 (x.cmd.val 0) ∧ y.priv = st.trap.priv ∧ y.mode = st.sp.mode ∧ y.queue = [] ∧
        ∀ k < 16, Tab.get 0 y.s k = Tab.get 0 st.regs.s k := by
  intro w st m
  let tenant := s.tenantOf core x.slot
  let y := startStream x tenant st
  let given := ((s.clearFor core tenant).dropWaiter core x).onMatrix core fun m => { m with stream := some y }
  have strand : given.strand w = st := by
    change (((s.onMatrix core _).onMatrix core _).onMatrix core _).strand w = _
    rw [State.strand_onMatrix, State.strand_onMatrix, State.strand_onMatrix]
  have resident : (given.comb? w.core w.slot).isSome = true := by
    change ((((s.onMatrix core _).onMatrix core _).onMatrix core _).comb? core x.slot).isSome = true
    rw [State.comb?_onMatrix, State.comb?_onMatrix, State.comb?_onMatrix]
    exact State.resident_of_wait (w := w) (State.nextWaiter_waits next_)
  have cleared := s.matrix_clearFor core tenant
  have matrix : ((given.onStrand w fun st => st.passWait s.clock.cycle).core core).matrix =
      { ((s.clearFor core tenant).core core).matrix with waiters := ((s.clearFor core tenant).core core).matrix.waiters.erase x, stream := some y } := by
    rw [State.matrix_onStrand, State.matrix_onMatrix, State.dropWaiter, State.matrix_onMatrix]
  have isRun : Op.isMrun x.cmd.op = true := by rcases run with op | op <;> rw [op] <;> rfl
  refine ⟨given.onStrand w fun st => st.passWait s.clock.cycle, ?_, State.onStrand_memory .., ?_, ?_, ?_, fun other => ?_, fun same => ?_, y, ?_, rfl, rfl, rfl, rfl, rfl, rfl, fun k low => ?_⟩
  · change execMrunStart core s = _
    unfold execMrunStart
    simp only [next_, isRun, Bool.not_true, Bool.false_eq_true, if_false]
    rfl
  · rw [State.strand_onStrand _ resident]
    exact Strand.passWait_wait ..
  · rw [State.strand_onStrand _ resident, Strand.passWait_regs, strand]
  · rw [matrix, cleared]
    split <;> rfl
  · rw [matrix, cleared, if_neg other]
  · rw [matrix, cleared, if_pos same]
  · rw [State.stream?, matrix]
  · exact Tab.get_filter_key (p := fun k => decide (k < 16)) 0 (decide_eq_true low) _

theorem matrixCommandComplete_writes {x : Stream} {r : Running} (runs : s.stream? core = some x) (running : x.running = some r) : exec (.matrixCommandComplete core) s =
    .next ((r.writes.foldl (fun s y => s.winWrite core x.slot y.1 y.2.1 y.2.2) s).onStream core fun y => { y with running := none }) := by
  change execMatrixCommandComplete core s = _
  unfold execMatrixCommandComplete
  simp only [runs, running]
  rfl

theorem streamEnd_ends {x : Stream} (runs : s.stream? core = some x) (empty : x.queue = []) (idle : x.running = none) (exit : x.wait = some .exit) : Becomes (.streamEnd core) s fun t =>
    t.stream? core = none ∧ t.memory = s.memory ∧ (t.core core).matrix.acc = (s.core core).matrix.acc ∧ ((s.comb? core x.slot).isSome = true → (t.comb core x.slot).ending = some { cause := 0, pc := 0, tval := 0 }) := by
  obtain ⟨same, memory⟩ := s.core_dissolve core x
  let ended := (s.dissolve core x).onMatrix core fun m => { m with stream := none, last := some x.tenant }
  have matrix : ∀ f, ((ended.onComb core x.slot f).core core).matrix = { (s.core core).matrix with stream := none, last := some x.tenant } := fun f => by
    rw [State.onComb_matrix, State.matrix_onMatrix, same]
  have may : s.mayEndStream core = true := by simp [State.mayEndStream, runs, empty, idle, exit]
  refine ⟨ended.onComb core x.slot fun k => { k with ending := some { cause := 0, pc := 0, tval := 0 } }, ?_, ?_, (State.onComb_memory ..).trans memory, ?_, fun resident => ?_⟩
  · change execStreamEnd core s = _
    unfold execStreamEnd
    simp only [may, runs, exit, Bool.not_true, Bool.false_eq_true, if_false]
    rfl
  · rw [State.stream?, matrix]
  · rw [matrix]
  · have there : (ended.comb? core x.slot).isSome = true := by
      rw [State.comb?_onMatrix, State.comb?, same]
      exact resident
    rw [State.comb_onComb _ there]

theorem sequencerFetchFault_waits {x : Stream} {f : PageFault} (runs : s.stream? core = some x) (misses : s.fetchMisses core = some f) : Becomes (.sequencerFetchFault core) s fun t => t.memory = s.memory ∧
    (∃ y, t.stream? core = some y ∧ y.wait = some (.fetch s.tiers.nextBatch) ∧ y.pc = x.pc) ∧ t.tiers.nextBatch = s.tiers.nextBatch + 1 ∧
    ∃ b, t.tiers.batches = s.tiers.batches ++ [b] ∧ b.from_ = .sequencer core ∧ b.entries = [{ va := f.va, pa := f.pa, cause := f.cause, acc := f.acc, out := none }] := by
  let formed := s.formBatch (.sequencer core) core x.slot x.tenant [f]
  have tiers : formed.tiers.nextBatch = s.tiers.nextBatch + 1 ∧ ∃ b, formed.tiers.batches = s.tiers.batches ++ [b] ∧ b.from_ = .sequencer core ∧
      b.entries = [{ va := f.va, pa := f.pa, cause := f.cause, acc := f.acc, out := none }] := by
    unfold formed State.formBatch State.onPager
    dsimp only
    split
    · exact ⟨rfl, _, rfl, rfl, rfl⟩
    · exact ⟨rfl, _, rfl, rfl, rfl⟩
  obtain ⟨count, batch⟩ := tiers
  refine ⟨formed.onStream core fun x => { x with wait := some (.fetch s.tiers.nextBatch) }, ?_, rfl, ⟨{ x with wait := some (.fetch s.tiers.nextBatch) }, ?_, rfl, rfl⟩, count, batch⟩
  · change execSequencerFetchFault core s = _
    unfold execSequencerFetchFault
    simp only [misses, runs]
    rfl
  · rw [State.stream?_onStream, show formed.stream? core = some x from runs]
    rfl

theorem sequencerRestore_restores {x : Restore} (free : s.stream? core = none) (idle : (s.core core).matrix.direct = none) (one : (s.core core).matrix.restores = [x])
    (quiet : ∀ b, x.stream.wait ≠ some (.fetch b)) (resident : (s.comb? core x.slot).isSome = true) (done : (s.comb core x.slot).reqs = []) : Becomes (.sequencerRestore core x.slot) s fun t =>
      t.stream? core = some x.stream ∧ (t.core core).matrix.acc = x.acc ∧ (t.core core).matrix.intTag = x.intTag ∧ (t.core core).matrix.restores = [] ∧ (t.comb core x.slot).phase = .running ∧ t.memory = s.memory := by
  let given := s.onMatrix core fun m => { m with stream := some x.stream, restores := [], acc := x.acc, intTag := x.intTag, last := some x.stream.tenant }
  have matrix : (given.core core).matrix = { (s.core core).matrix with stream := some x.stream, restores := [], acc := x.acc, intTag := x.intTag, last := some x.stream.tenant } := s.matrix_onMatrix core _
  have may : s.mayRestore core x.slot = true := by
    have free' : (s.core core).matrix.stream = none := free
    simp [State.mayRestore, free', idle, one]
  have settled : given.stillResuming core x.slot = false := by
    rw [State.stillResuming, State.comb_onMatrix, done, matrix]
    rfl
  obtain ⟨k, held⟩ := Option.isSome_iff_exists.1 resident
  let running := given.onComb core x.slot fun k => { k with phase := .running }
  have placed : running.comb? core x.slot = some { k with phase := .running } := State.comb?_onComb _ ((State.comb?_onMatrix ..).trans held)
  obtain ⟨memory, _, l, comb⟩ := State.resumeParked_comb placed
  obtain ⟨waiters, engine⟩ := running.resumeParked_engine core x.slot core
  rw [State.onComb_matrix, matrix] at engine
  refine ⟨running.resumeParked core x.slot, ?_, ?_, ?_, ?_, ?_, ?_, memory.trans (State.onComb_memory ..)⟩
  · change execSequencerRestore core x.slot s = _
    unfold execSequencerRestore
    simp only [may, one, Bool.not_true, Bool.false_eq_true, if_false]
    have goes : next (given.resumeRuns core x.slot) = .next (running.resumeParked core x.slot) := congrArg next (if_neg (by rw [settled]; exact Bool.false_ne_true))
    cases waits : x.stream.wait with
    | none => exact goes
    | some v =>
      cases v with
      | fetch id => exact absurd waits (quiet id)
      | _ => exact goes
  · rw [State.stream?, engine]
  · rw [engine]
  · rw [engine]
  · rw [engine]
  · rw [State.comb, comb]
    rfl

/-- A change of the neighbour's stream leaves a core as it is. -/
theorem State.core_neighbour (s : State) (core : Nat) (f : Stream → Stream) : (s.onStream (neighbour core) f).core core = s.core core := State.core_onCore_ne _ _ (neighbour_ne core)

theorem mpairStart_pairs {x y : Stream} {tag : Nat} {a b : Nat} (mine : s.stream? core = some x) (other : s.stream? (neighbour core) = some y) (seeks : x.pairing = .seeking tag a) (sought : y.pairing = .seeking tag b)
    (tenant : x.tenant = y.tenant) (near : max a b < min a b + 65536) (here : (s.comb core x.slot).phase = .running) (there : (s.comb (neighbour core) y.slot).phase = .running) :
    Becomes (.mpairStart core) s fun t => t.memory = s.memory ∧ t.stream? core = some { x with queue := x.queue.tail, pairing := .paired 0 none } ∧
      t.stream? (neighbour core) = some { y with queue := y.queue.tail, pairing := .paired 0 none } := by
  let pair := fun (x : Stream) => { x with queue := x.queue.tail, pairing := .paired 0 none }
  have may : s.mayPair core = true := by simp [State.mayPair, mine, other, seeks, sought, tenant, near, here, there]
  refine ⟨(s.onStream core pair).onStream (neighbour core) pair, ?_, rfl, ?_, ?_⟩
  · change execMpairStart core s = _
    unfold execMpairStart
    simp only [may, Bool.not_true, Bool.false_eq_true, if_false]
    rfl
  · rw [State.stream?, State.core_neighbour]
    exact State.stream?_onStream.trans (congrArg (Option.map pair) mine)
  · have still : (s.onStream core pair).stream? (neighbour core) = some y := by
      rw [State.stream?, State.onStream, State.core_onCore_ne _ _ (neighbour_ne core).symm]
      exact other
    rw [State.stream?_onStream, still]
    rfl

/-- A command whose start faults ends its stream (R282). -/
theorem streamFaults_of_cmdFault {n : Instr} {x : Stream} {c : Cmd} {cause : Cause} {v : Nat} (faults : exec n s = .next (s.cmdFault core x c (Trap.of cause v))) :
    StreamFaults n s core x cause c.pc (BitVec.ofNat 64 v) := by
  have ends := streamFault_ends s core x cause.code c.pc (BitVec.ofNat 64 v)
  exact ⟨s.streamFault core x cause.code c.pc (BitVec.ofNat 64 v), faults, ends⟩

/-- A wait for a partner or a counterpart ends the stream. -/
theorem pairTimeout_faults {x : Stream} {c : Cmd} {l : List Cmd} {v : Nat} (runs : s.stream? core = some x) (queue : x.queue = c :: l) (late : s.pairLate core = some v) :
    StreamFaults (.pairTimeout core) s core x .pairTimeout c.pc (BitVec.ofNat 64 v) := by
  refine streamFaults_of_cmdFault ?_
  change execPairTimeout core s = _
  unfold execPairTimeout
  simp only [late, runs, queue, next]

end

/-! O49. -/

/-- Settles O49: the start of each command by what it makes of the store, and each turn of a stream by its own lemma. -/
theorem matrixEngineSteps : Obligations.MatrixEngineSteps := by
  unfold Obligations.MatrixEngineSteps
  intro s core m
  refine ⟨fun x next_ run => mrunStart_starts next_ run, fun x c runs head quiet alone => ?commands, fun x r runs running => matrixCommandComplete_writes runs running,
    fun x runs empty idle exit => streamEnd_ends runs empty idle exit, fun x f runs misses => sequencerFetchFault_waits runs misses,
    fun x free idle one quiet resident done => sequencerRestore_restores free idle one quiet resident done,
    fun x y tag a b mine other seeks sought tenant near here there => mpairStart_pairs mine other seeks sought tenant near here there, fun x c l since runs queue past => ⟨?seeking, ?paired⟩⟩
  case commands =>
    intro d size after
    have starts (notPair : c.op ≠ .mpair) (notSplit : c.op ≠ .msplit) := commandStart_starts runs head quiet alone notPair notSplit
    have begins {t : State} {f : Nat → Nat → Word} {int : Bool} (sets : SetsAcc s t core d f int) (runs_ : exec (.matrixCommandStart core) s = .next (t.runHead core c [])) : after f int :=
      ⟨_, runs_, sets.runHead runs c []⟩
    refine ⟨fun op => ?_, fun op => ?_, fun op off => ?_, fun ma mb op first second pair steps format clean => ?_, fun t l op own => ?_⟩
    · have runs_ := starts (by simp [op]) (by simp [op])
      rw [State.startOwn_zero op] at runs_
      exact begins ((s.setAcc_sets core d fun _ _ => 0).setTag _) runs_
    · intro o p aligned pitched wide inside clean
      have runs_ := starts (by simp [op]) (by simp [op])
      rw [State.startOwn_load op, State.startLoad_ok aligned pitched wide inside clean] at runs_
      exact begins ((s.setAcc_sets core d _).setTag _) runs_
    · have runs_ := starts (by simp [op]) (by simp [op])
      rw [State.startOwn_load op, State.startLoad_misaligned off] at runs_
      exact streamFaults_of_cmdFault runs_
    · have runs_ := starts (by rcases op with op | op <;> simp [op]) (by rcases op with op | op <;> simp [op])
      rw [State.startOwn_mma op, State.startMma_ok first second pair steps format clean] at runs_
      rw [← format]
      exact begins (s.setAcc_sets core d _) (format ▸ runs_)
    · have notPair : c.op ≠ .mpair := by rcases op with op | op | op | op | op <;> simp [op]
      have notSplit : c.op ≠ .msplit := by rcases op with op | op | op | op | op <;> simp [op]
      rw [starts notPair notSplit, own]
      rfl
  case seeking =>
    rintro ⟨tag, seeks⟩ alone running
    exact pairTimeout_faults (v := 0) runs queue (by simp [State.pairLate, runs, seeks, past, alone, running])
  case paired =>
    rintro ⟨n, waits⟩
    exact pairTimeout_faults (v := 3) runs queue (by simp [State.pairLate, runs, waits, past])

end Sys2Proof.Machine
end
